-- ==== Sys2Proof/Word.lean ====
section
/-! DEFINITION. The word types of the model and the plain containers its state is made of. -/

namespace Sys2Proof

/-- One byte. -/
abbrev Byte := BitVec 8

/-- One 32-bit register word (13 R369), and the bits of one FP32 value. -/
abbrev Word := BitVec 32

/-- A sparse table: key and value pairs, keys rising, an absent key reading as the table's default.
The tables of the spec (slots, flows, policers, lanes ...) are held this way. -/
abbrev Tbl (α : Type) := List (Nat × α)

end Sys2Proof
end

