-- ==== Sys2Proof/Syntax.lean ====
section
/-! DEFINITION. The commands of the block: one constructor of `Instr` per row of spec/opcode_table.json,
and the operands they carry (frames, flits, messages and accesses as the spec lays them out). -/

namespace Sys2Proof

/-- Who makes a register access: the requesters for which the Fixus keeps key state (13 R371) and the
path that SYS_BUSERR_ADDR reports (13 Table 13.14). -/
inductive Who where
  /-- A MGMT frame from the host port: source address, HOST = 1. -/
  | host (src : BitVec 15)
  /-- A MGMT frame from the fabric: source address, HOST = 0. -/
  | inband (src : BitVec 15)
  /-- The SMBus target. -/
  | smbus
  /-- Brass firmware itself. -/
  | brass
deriving DecidableEq, Repr

/-- A count as messages carry it (04 R79): 64-bit nanoseconds and a 16-bit fraction. -/
structure Count where
  ns : BitVec 64
  frac : BitVec 16
deriving DecidableEq, Repr

/-- The frame header of 06 Table 6.1. `rsv` holds the reserved bits of the header, `ts` is TYPE_SPECIFIC
(bytes 24 to 31, byte 24 least significant). -/
structure Header where
  dest : BitVec 15
  src : BitVec 15
  ftype : Byte
  ctx : Byte
  gen : BitVec 16
  flowSeq : BitVec 16
  frameLen : BitVec 16
  esc : Bool
  sched : Bool
  newflow : Bool
  single : Bool
  spray : Bool
  hops : Byte
  mcast : BitVec 3
  path : BitVec 4
  collId : BitVec 32
  offset : BitVec 32
  ts : BitVec 64
  rsv : BitVec 14
deriving DecidableEq, Repr

/-- A frame: the virtual channel it travels on, its header, and every byte after the header. -/
structure Frame where
  vc : BitVec 4
  hdr : Header
  payload : List Byte
deriving DecidableEq, Repr

/-- The fields of a flit of 05 Table 5.5. `rsv` holds the reserved bits of the flit: bytes 248 to 251 above the three of
bytes 4 to 7. -/
structure Flit where
  typ : BitVec 4
  vc : BitVec 4
  sof : Bool
  eof : Bool
  bad : Bool
  len : Byte
  seq : BitVec 13
  ackSeq : BitVec 13
  crVc : BitVec 4
  crCount : BitVec 12
  rsv : BitVec 35
  payload : List Byte
deriving DecidableEq, Repr

/-- The fields of a MGMT frame that the Brass firmware acts on (13 Table 13.2): `port` is where it came
in, `src` and `host` name the requester, `payload` is every byte after the header. -/
structure Mgmt where
  port : BitVec 6
  src : BitVec 15
  host : Bool
  mbx : BitVec 6
  tag : BitVec 16
  offset : BitVec 32
  arg : BitVec 32
  payload : List Byte
deriving DecidableEq, Repr

/-- TIME_REQ and TIME_RESP (04 Table 4.4). -/
structure TimeMsg where
  locked : Bool
  master : Bool
  hall : Bool
  seq : BitVec 16
  hops : Byte
  source : BitVec 15
  t1 : Count
  t2 : Count
  t3 : Count
  candidate : BitVec 15
deriving DecidableEq, Repr

/-- LATE_NOTICE (04 Table 4.4). -/
structure LateNotice where
  seq : BitVec 16 := 0
  ctx : Byte
  gen : BitVec 16
  source : BitVec 15
  d : BitVec 64
  launch : BitVec 64
  collId : BitVec 32
deriving DecidableEq, Repr

/-- EPOCH_CANCEL and EPOCH_GO (04 Table 4.4); EPOCH_INFO (14 Table 14.5) adds LEN. -/
structure EpochMsg where
  seq : BitVec 16 := 0
  ctx : Byte
  source : BitVec 15
  s : BitVec 64
  epoch : BitVec 16
  len : BitVec 14
deriving DecidableEq, Repr

/-- ABORT_NOTICE, CTX_STOP and RESUME (14 Table 14.5). `d` is D or U; `flags` is byte 1. -/
structure Notice where
  seq : BitVec 16 := 0
  ctx : Byte
  gen : BitVec 16
  source : BitVec 15
  d : BitVec 64
  lost : BitVec 15
  flags : BitVec 2
deriving DecidableEq, Repr

/-- The flow messages of 06 Table 6.10. -/
structure FlowMsg where
  seq : BitVec 16 := 0
  source : BitVec 15
  target : BitVec 15
  src : BitVec 15
  dest : BitVec 15
  ctx : Byte
  vc : BitVec 4
  last : BitVec 16
deriving DecidableEq, Repr

/-- RETURN_DONE and RETURN_RESEND (10 Table 10.10). -/
structure ReturnMsg where
  seq : BitVec 16 := 0
  ctx : Byte
  source : BitVec 15
  target : BitVec 15
  collId : BitVec 32
  offset : BitVec 32
deriving DecidableEq, Repr

/-- A codeword of the lane code (05 R109) as the slicer of a port's lane gives it: the lane's index in the port, and the
542 symbols. -/
structure LaneWord where
  lane : BitVec 2
  syms : List (BitVec 10)
deriving DecidableEq, Repr

/-- What a lane's receiver sees when it looks for alignment (05 R114): 64 consecutive UI at one phase, the framing UI of
two blocks that it takes for markers, how many blocks apart they are, and when the first UI of the second arrived, in ps on
the receiver's own scale. -/
structure MarkerObs where
  inner : List (BitVec 2)
  first : List (BitVec 2)
  second : List (BitVec 2)
  blocks : Nat
  at_ : Nat
deriving DecidableEq, Repr

/-- What a lane has measured when a training phase ends (05 Table 5.4): the transmit and receive delays that its pad
loopback shows, in ps (04 R82), and over phase 5 the symbols received, those corrected and the codewords not correctable. -/
structure PhaseObs where
  tx : Nat
  rx : Nat
  symbols : Nat
  corrected : Nat
  uncorrectable : Nat
deriving DecidableEq, Repr

/-- The slicer statistics of one figure-of-merit window (05 R117), in any one unit u: the means of
levels 0 and 3 in u, and the four variances in u². -/
structure FomSample where
  mu0 : Int
  mu3 : Int
  var0 : Nat
  var1 : Nat
  var2 : Nat
  var3 : Nat
deriving DecidableEq, Repr

/-- What the boot ROM finds at a reset, apart from the images it verifies (15 R416, R421, R428): whether
its self-check passes, whether both copies of every OTP field agree, whether the burned RSV fuses form a
prefix, how many RSV fuses read burned at either level, whether one of them was partly burned, the straps, and which Bronze engines,
Steel tiles and Steel clusters pass their self-test (14 R387). -/
structure BootObs where
  romOk : Bool
  otpOk : Bool
  prefixOk : Bool
  rsvBurned : BitVec 11
  rsvPartial : Bool
  hostbr : Bool
  pos : BitVec 4
  bzPass : BitVec 16
  stPass : BitVec 64
  clPass : BitVec 8
deriving DecidableEq, Repr

/-- What a base die reports at the end of a pass beside what the pass computes (12 R341): the parts hit by
an uncorrectable error or a fault in a working or new page (10 R276), and whether the read of the
committed state found an uncorrectable error (10 R277). `fetch` says that the pass is the image pass of a
FETCH or of a kernel's delivery, not of the running update. -/
structure PassReport where
  fetch : Bool
  failParts : BitVec 64
  stateLost : Bool
deriving DecidableEq, Repr

/-- A source of TEMP_ALERT_N (16 Table 16.8). -/
inductive TempSource where
  | core (sensor : BitVec 6)
  | cluster (k : BitVec 3)
  | ingot (k : BitVec 2)
deriving DecidableEq, Repr

/-- The committed copy that one Fixus of a twin pair sends its partner (10 R282, R283). -/
structure TwinCopy where
  ctx : Byte
  tensor : BitVec 16
  version : BitVec 32
  lastStep : BitVec 32
  w : List Word
  m1 : List Word
  m2 : List Word
deriving DecidableEq, Repr

/-- The registers of a policer whose write refills its buckets (07 R197). -/
inductive PolReg where
  | cfg | cir | pir | cbs | epbs
deriving DecidableEq, Repr

/-- The commands, in the order of spec/opcode_table.json. The Ghewyn commands (NOP to FW_ACTIVATE) are
taken by Brass from the request ring of the mailbox they name; receipts carry what is received; the
device's own timed steps carry the unit they happen in, where there is more than one. -/
inductive Instr where
  | nop (m : BitVec 6)
  | identify (m : BitVec 6)
  | mbxOpen (m : BitVec 6)
  | mbxClose (m : BitVec 6)
  | xferOpen (m : BitVec 6)
  | xferClose (m : BitVec 6)
  | xferAbort (m : BitVec 6)
  | xferRead (m : BitVec 6)
  | ctxOpen (m : BitVec 6)
  | ctxTeardown (m : BitVec 6)
  | ctxReset (m : BitVec 6)
  | planLoad (m : BitVec 6)
  | groupSet (m : BitVec 6)
  | tensorSet (m : BitVec 6)
  | poolSet (m : BitVec 6)
  | collPost (m : BitVec 6)
  | badOpcode (m : BitVec 6)
  | schedLoad (m : BitVec 6)
  | epochArm (m : BitVec 6)
  | ircStep (m : BitVec 6)
  | configApply (m : BitVec 6)
  | stateLoad (m : BitVec 6)
  | regionAlloc (m : BitVec 6)
  | regionFree (m : BitVec 6)
  | ingFence (m : BitVec 6)
  | portEnable (m : BitVec 6)
  | unitFence (m : BitVec 6)
  | resetWarm (m : BitVec 6)
  | resetWarmCell (m : BitVec 6)
  | attestQuote (m : BitVec 6)
  | fwStage (m : BitVec 6)
  | fwActivate (m : BitVec 6)
  | ringWrite (f : Mgmt)
  | bulkWrite (f : Mgmt)
  | regRead (f : Mgmt)
  | regWrite (f : Mgmt)
  | heldDesc (f : Mgmt)
  | heldDescSend
  | tableAck (f : Mgmt)
  | hello (f : Mgmt) (cell : Bool)
  | helloRepeat
  | cellReset (f : Mgmt)
  | cellResetEntry (b : BootObs)
  | cellRelease
  | cellReleaseTimeout
  | sysUnlock (w : Who) (v : Word)
  | unlockKeyTimeout
  | sysReset (w : Who) (v : Word) (b : BootObs)
  | mbxRqTail (w : Who) (m : BitVec 6) (v : Word)
  | mbxCqHead (w : Who) (m : BitVec 6) (v : Word)
  | mbxCtlReset (w : Who) (m : BitVec 6) (v : Word)
  | fltCmdAck (w : Who) (slot : BitVec 18)
  | fltCmdClose (w : Who) (slot : BitVec 18)
  | secCfgkeyBurn (w : Who) (v : Word)
  | shaperWrite (w : Who) (p : BitVec 6) (k : BitVec 2) (limit : Bool) (v : Word)
  | policerWrite (w : Who) (k : BitVec 12) (r : PolReg) (v : Word)
  | weightWrite (w : Who) (p : BitVec 6) (v : Word)
  | portDisable (w : Who) (p : BitVec 6) (v : Word)
  | prtVcLimitWrite (w : Who) (p : BitVec 6) (vc : BitVec 4) (v : Word)
  | prtVcEnWrite (w : Who) (p : BitVec 6) (v : Word)
  | sldPoolCfgWrite (w : Who) (second : Bool) (v : Word)
  | sldRsvWrite (w : Who) (pt : BitVec 7) (v : Word)
  | ircNowLoRead (w : Who)
  | schTblDataRead (w : Who)
  | rcRead (w : Who) (a : BitVec 26)
  | lowWordRead (w : Who) (a : BitVec 26)
  | bitAliasWrite (w : Who) (a : BitVec 26) (v : Word)
  | broadcastWrite (w : Who) (a : BitVec 26) (v : Word)
  | groupWindowWrite (w : Who) (a : BitVec 26) (v : Word)
  | registerWrite (w : Who) (a : BitVec 26) (v : Word)
  | smbusAddr (pec : Bool) (wr : Option (BitVec 32))
  | smbusDataWrite (pec : Bool) (data : List Byte)
  | smbusDataRead (pec : Bool)
  | smbusRdlen (pec : Bool) (wr : Option Byte)
  | smbusStatus (pec : Bool)
  | bypass
  | idcode
  | samplePreload (pins : List Bool) (shift : List Bool)
  | extest (pins : List Bool) (shift : List Bool)
  | flitReceive (p : BitVec 6) (raw : List Byte) (words : List LaneWord)
  | badCrcFlit (p : BitVec 6) (raw : List Byte) (words : List LaneWord)
  | nak (p : BitVec 6) (e : BitVec 13)
  | nakRepeat (p : BitVec 6)
  | replayTimeout (p : BitVec 6)
  | retrainReq (p : BitVec 6) (reason : Byte)
  | retrainTimeout (p : BitVec 6)
  | creditSync (p : BitVec 6) (next : BitVec 13) (lims : List (BitVec 16 × BitVec 16))
  | creditSyncAck (p : BitVec 6) (next : BitVec 13)
  | protocolViolation (p : BitVec 6) (code : Byte) (n : Byte) (seq : BitVec 13) (vc : Byte) (c : Count)
  | leave (p : BitVec 6) (reason : Byte) (c : Count)
  | linkLost (p : BitVec 6)
  | transmitFlit (p : BitVec 6)
  | slotBoundary (p : BitVec 6)
  | fomReport (l : BitVec 9) (ws : List (BitVec 40))
  | txEqReq (l : BitVec 9) (ws : List (BitVec 40))
  | param (l : BitVec 9) (ws : List (BitVec 40))
  | paramRepeat (p : BitVec 6)
  | widthChange (p : BitVec 6) (ws : List (BitVec 40))
  | widthChangeEffective (p : BitVec 6)
  | spareReq (p : BitVec 6) (ws : List (BitVec 40))
  | spareDone (p : BitVec 6) (ws : List (BitVec 40))
  | ready (l : BitVec 9) (ws : List (BitVec 40))
  | trainingPhaseDone (l : BitVec 9) (o : PhaseObs)
  | trainingPhaseTimeout (l : BitVec 9)
  | markerLock (l : BitVec 9) (o : MarkerObs)
  | markerLoss (l : BitVec 9) (ms : List (List (BitVec 2)))
  | fomWindow (l : BitVec 9) (f : FomSample)
  | loopLockLoss (l : BitVec 9)
  | spareTrainDone (p : BitVec 6) (idx : BitVec 2) (o : PhaseObs)
  | timeReqSend
  | timeReq (p : BitVec 6) (m : TimeMsg)
  | timeResp (p : BitVec 6) (m : TimeMsg)
  | masterElection
  | selfStart
  | ppsIn
  | ppsOut
  | holdoverEntry
  | holdoverExpiry
  | launch
  | lateNotice (p : BitVec 6) (n : LateNotice)
  | lateLaunchStop
  | barrierRelease
  | barrierSample (high : Bool)
  | barrierPullLow
  | stepCorrection
  | epochCancel (p : BitVec 6) (m : EpochMsg)
  | epochDecision
  | epochSwitch
  | epochInfo (p : BitVec 6) (m : EpochMsg)
  | epochJoinActivate
  | frameIngress (p : BitVec 6) (f : Frame)
  | frameDescriptorFree
  | cellTimeMatch (ecc : List (Nat × Bool))
  | noRouteWait
  | escapeMove
  | gapExpiry
  | flowGrant (p : BitVec 6) (m : FlowMsg)
  | flowDeny (p : BitVec 6) (m : FlowMsg)
  | flowClose (p : BitVec 6) (m : FlowMsg)
  | flowCloseAck (p : BitVec 6) (m : FlowMsg)
  | flowIdle
  | receiveFlowTimeout
  | telemetrySample
  | bufferGrant (pool : BitVec 3)
  | launchQueueTake
  | contribReceive (p : BitVec 6) (f : Frame) (ecc : List (BitVec 4 × BitVec 20 × Bool))
  | partialReceive (p : BitVec 6) (f : Frame) (ecc : List (BitVec 4 × BitVec 20 × Bool))
  | lateBudgetExpiry
  | updateStart
  | passDone (r : PassReport)
  | steelJobStart
  | productDone (ecc : List (BitVec 6 × BitVec 18 × Bool))
  | flip
  | twinDigest (ctx : Byte) (tensor : BitVec 16) (paramDigest : BitVec 64) (stateDigest : BitVec 64)
  | resyncDone (c : TwinCopy)
  | rejoinCopyDone (c : TwinCopy)
  | returnReceive (p : BitVec 6) (f : Frame)
  | returnDone (p : BitVec 6) (m : ReturnMsg)
  | returnResend (p : BitVec 6) (m : ReturnMsg)
  | completionReceive (p : BitVec 6) (f : Frame)
  | lookupReceive (p : BitVec 6) (f : Frame)
  | sourceReceive (p : BitVec 6) (f : Frame)
  | convertedReceive (p : BitVec 6) (f : Frame)
  | resultReceive (p : BitVec 6) (f : Frame)
  | layerBoundary (k : BitVec 3) (temp : Byte)
  | clusterRelock (k : BitVec 3) (ok : Bool)
  | tempAlert (src : TempSource) (temp : Byte)
  | thermalTrip (sensor : Byte)
  | scrubRow (stack : BitVec 2) (ch : BitVec 4) (words : List (List Byte))
  | refresh (stack : BitVec 2) (ch : BitVec 4) (sid : BitVec 4)
  | dramHot (stack : BitVec 2) (temp : Byte)
  | uncorrectableCodeword (addr : BitVec 40) (word : List Byte)
  | pageMoveDone (stack : BitVec 2) (ok : Bool)
  | recordAutoClose
  | deferredTimerExpiry
  | faultNPulseEnd
  | watchdogExpiry (b : BootObs)
  | configParityScan (bad : Option (BitVec 26))
  | abortNotice (p : BitVec 6) (n : Notice)
  | abortCount (decided : List (BitVec 8 × BitVec 32))
  | ctxStop (p : BitVec 6) (n : Notice)
  | stopCount
  | drainComplete
  | resume (p : BitVec 6) (n : Notice)
  | resumeFlood
  | heldLaunch
  | holdLimitExpiry
  | warmReset (cause : BitVec 4) (b : BootObs)
  | resetN (high : Bool) (width : BitVec 32) (b : BootObs)
  | pwrgd (high : Bool) (width : BitVec 32)
  | refclkStop (width : BitVec 32)
  | resetExit
  | ingotTrained (failed : List (BitVec 2 × BitVec 4))
  | faultNGapEnd
  | treeStartDone (burned : Bool)
  | refclkRestore
  | conversionDone
deriving DecidableEq, Repr

end Sys2Proof
end

