-- ==== Sys2Proof/Config.lean ====
section
/-! DEFINITION. Constants that an implementation or a part fixes and the spec does not give, and the free
values: constants without a body, so that a statement about them holds whatever they are. -/

namespace Sys2Proof.Config

/-- SYS_SERIAL: unique to the part, from fuses (13 Table 13.14). -/
opaque serial : BitVec 64

/-- Migauc's JEP106 code, bits [11:1] of IDCODE (16 R448); the spec does not give it. -/
opaque jep106 : BitVec 11

/-- Whether the HSS signature of a CMS image verifies under the Migauc root key (15 R417); the key is in
the boot ROM and the spec does not give it. -/
opaque rootVerifies : List Byte → Bool

/-- Whether the HSS signature of a CMS image verifies under the operator key whose hash this is (15 R417). -/
opaque operatorVerifies : List Byte → List Byte → Bool

/-- The eContent of a CMS image (15 R426): a DER parser the spec refers to and does not lay out. -/
opaque eContent : List Byte → List Byte

/-- Whether a CMS image keeps the profile of 15 R426. -/
opaque cmsProfile : List Byte → Bool

/-- The HSS signature by leaf `leaf` of bottom tree `tree` over a message: a function of the secret SEED
(15 R418). -/
opaque hssSign : (tree leaf : Nat) → List Byte → Vector Byte 5076

/-- SHA-256 of the boot ROM (15 Table 15.6). -/
opaque romDigest : Vector Byte 32

/-- The certificate chain in boot flash at manufacture (15 R424). -/
opaque certChain : List Byte

/-- The firmware and configuration images in boot flash at manufacture. -/
opaque factoryFw : List Byte

/-- As `factoryFw`, for the configuration slot. -/
opaque factoryCfg : List Byte

/-- B^t in FP64 (10 R264 does not fix how the power is computed): base as FP64 bits, exponent, FP64 bits. -/
opaque fp64Pow : BitVec 64 → Nat → BitVec 64

/-- Digest of a tensor's new state, FP32 words of W and of the moments (10 R282 names the digest and fixes neither its
image nor its polynomial). -/
opaque stateDigest : (w m1 m2 : List (BitVec 32)) → BitVec 64

/-- A free number: the n-th open choice the device makes (which free page, which free entry, ...). -/
opaque pick : Nat → Nat

/-- A free word: the n-th value the spec leaves open. -/
opaque freeWord : Nat → BitVec 32

/-- Ingot addresses of a tensor's page maps (10 Table 10.3; the layout of the MAP region is not given). -/
opaque mapAddr : (ctx tensor arr slot : Nat) → BitVec 40

/-- Whether a page of the PLAN region holds a table of a context (12 Table 12.6; no layout is given). -/
opaque planPageHolds : (page ctx : Nat) → Bool

/-- Whether a page of the MAP region holds the maps or version record of a tensor (12 R320). -/
opaque mapPageHolds : (page ctx tensor : Nat) → Bool

/-- What a byte of a crash dump is of: byte `k` of the header, of Brass SRAM, of the register at an address or of open record `i`, or of
none of them. -/
inductive DumpByte where
  | header (k : Nat)
  | sram (k : Nat)
  | reg (a k : Nat)
  | record (i k : Nat)
  | unused
deriving DecidableEq, Repr, Inhabited

/-- The layout of a crash dump (14 R405: what it holds is given, and no layout). -/
opaque dumpPlace : (offset : Nat) → DumpByte

/-- A byte of Brass SRAM as a crash dump holds it: the count of the reset entry it was written at, and its place. -/
opaque dumpByte : (count k : Nat) → Byte

/-- Bytes that the headers of `n` Ingot regions take in the PLAN region (12 Table 12.5; no layout is given). -/
opaque regionHeaders : (n : Nat) → Nat

/-- Is a repair fuse burned when a reset interrupts the sparing copy of row `key` that began at clock time `clk` (12 R342)? -/
opaque fuseBurned : (clk key : Nat) → Bool

/-- Whether the piece of a fabric kernel at an OFFSET is worked on in SC4 to SC7 rather than in SC0 to SC3, while both halves
of Steel have a cluster in service (02 Table 2.3 gives each half its point, and no rule names the half). -/
opaque kernelHalf : (offset : Nat) → Bool

/-- Frames that the handshake FIFO of a unit's crossbar point holds (02 R43: its depth is not given). -/
opaque fifoDepth : (point : Nat) → Nat

/-- Calibrated fixed delays of a lane, LNK_DELAY (05 Table 5.13), trimmed in fuses at manufacture. -/
opaque laneDelay : Nat → BitVec 32

end Sys2Proof.Config
end

