-- ==== Sys2Proof/Machine/State.lean ====
section
/-! DEFINITION. The state of one Fixus: plain data, every piece of state the spec gives the device,
grouped by unit, the two reason types, and the state right after reset. Tables (`Tbl`) list only the
entries that differ from the default of their element type. -/

namespace Sys2Proof.Machine

/-- The ways the machine stops with a fault. No command of this block stops: every error the spec
describes is a next state (a fault record, a bus error, a drop or a refused command). -/
inductive Fault where
  /-- Raised by nothing; it stands here so that the type names what a fault would be: a command acting on
  a unit that the spec says does not exist. Safe: the machine would stop. -/
  | noSuchUnit
deriving DecidableEq, Repr

/-- Why a command has no meaning in the model. -/
inductive Refusal where
  /-- Raised by exec for a command that has no meaning yet. Safe: the machine stops. -/
  | notModelled (mnemonic : String)
deriving DecidableEq, Repr

/-! ### Bytes by offset -/

/-- A byte store: canonical list of the bytes that are not zero (an unlisted byte reads as zero). -/
abbrev Mem := List Host.Cell

/-! ### Package, straps, pins, JTAG, SMBus -/

/-- Grade of the part (00 R1). -/
inductive Grade where
  | a | b
deriving DecidableEq, Repr

/-- Fuses (15 Table 15.1): grade, serial, presence (02 R49), reservation fuses burned (15 R421), MINVER,
the configuration-key hash and its LOCK. -/
structure Fuses where
  grade : Grade
  serial : BitVec 64
  bz : BitVec 16
  st : BitVec 64
  cl : BitVec 8
  rsv : Nat
  minver : Nat
  cfgkey : List Byte
  lock : Bool
deriving DecidableEq, Repr

/-- Bronze engines, Steel clusters and Steel tiles of a grade (00 Table 0.1). -/
def Grade.engines : Grade → Nat
  | .a => 16
  | .b => 12
def Grade.clusters : Grade → Nat
  | .a => 8
  | .b => 6
def Grade.tiles (g : Grade) : Nat := 8 * g.clusters

/-- Ones of a presence mask. -/
def ones {w : Nat} (v : BitVec w) : Nat := ((List.range w).filter (fun i => v.getLsbD i)).length

/-- The tiles of the clusters present: cluster k holds tiles 8k to 8k + 7 (02 R41). -/
def tilesOf (cl : BitVec 8) : BitVec 64 :=
  BitVec.ofNat 64 ((List.range 64).foldl (fun n i => if cl.getLsbD (i / 8) then n + 2 ^ i else n) 0)

/-- Do the presence fuses agree with the grade (00 R1)? -/
def Fuses.wf (f : Fuses) : Bool :=
  ones f.bz == f.grade.engines && ones f.cl == f.grade.clusters && f.st == tilesOf f.cl

/-- The fuses of a part as made: its grade, and the engines and clusters that it has. -/
def Fuses.part (g : Grade) (bz : BitVec 16) (cl : BitVec 8) : Fuses :=
  { grade := g, serial := Config.serial, bz := bz, st := tilesOf cl, cl := cl, rsv := 0, minver := 0,
    cfgkey := List.replicate 32 0, lock := false }

/-- The JTAG instruction in force (16 R448). -/
inductive JtagIr where
  | bypass | idcode | sample | extest
deriving DecidableEq, Repr

/-- Low-speed pins and straps (16 Table 16.4) and the TAP. `barLow`, `faultLow`, `tempLow` say that this
Fixus pulls the open-drain line low; `floating` that every output floats (16 R443); `barFor` is the count B of the barrier for which
this Fixus has released BAR_N or holds it low, until B + 1,000 ns (04 R98); `romBar` is when the boot ROM pulls it low (14 R408). -/
structure Pins where
  hostbr : Bool
  sw : Nat
  resetN : Bool
  pwrgd : Bool
  refclkOk : Bool
  floating : Bool
  ppsOutAt : Option Nat
  barLow : Bool
  barFor : Option Nat
  romBar : Option Nat
  faultLow : Bool
  pulseAt : Option Nat
  gapAt : Option Nat
  pulseDue : Bool
  tempSrc : List TempSource
  ir : JtagIr
  tdo : List Bool
  driven : List Bool
deriving DecidableEq, Repr

/-- The SMBus target (13 R353). -/
structure Smbus where
  ptr : BitVec 32
  rdlen : Nat
  busErr : Bool
  pecErr : Bool
  out : List Byte
deriving DecidableEq, Repr

/-- Result of the last register access: the words it returned, and whether it was a bus error. -/
structure Bus where
  data : List Word
  err : Bool
deriving DecidableEq, Repr

/-- An open unlock key (13 R371). -/
structure Key where
  who : Who
  opened : Nat
deriving DecidableEq, Repr

/-- SYS block state that is not a plain configuration register (13 Table 13.14, 13.16), and the boot and
reset sequencing of 14 R406 and R408. -/
structure Sys where
  fw : Word
  fwReady : Bool
  configured : Bool
  hostbrConflict : Bool
  cell : Nat
  hx : Nat
  hy : Nat
  keys : List Key
  busErrAddr : Word
  parityAddr : Word
  parityBad : List Nat
  classX : Bool
  outOfService : Bool
  resetAt : Nat
  resetCause : Nat
  otpRead : Bool
  noFirmware : Bool
  cellW : Option Nat
  resetAsked : Option Nat
  training : Bool
  helloSeen : List Nat
  helloAt : Nat
  block : Nat × Nat × Nat × Nat
deriving DecidableEq, Repr

/-! ### Iridium -/

inductive LockState where
  | free | acquire | locked | holdover | fault
deriving DecidableEq, Repr

/-- What a port's time messages last said of the neighbour (04 R77), and the path delay of the last exchange with it in
units of 2^-16 ns (R81). -/
structure Peer where
  addr : Nat
  hops : Nat
  locked : Bool
  candidate : Nat
  heard : Nat
  delay : Int
deriving DecidableEq, Repr

/-- An outstanding TIME_REQ: its SEQ, and T1 in units of 2^-16 ns. -/
structure TimeOut where
  seq : BitVec 16
  t1 : Int
deriving DecidableEq, Repr

/-- The Iridium counter and its discipline (04). `count` is the nanosecond count, `hall` the clocking mode
in force since the last warm reset; `rate` and `rateOver` are the last disciplined rate, the correction of the last exchange
(2^-16 ns) and the ns it was for, and `rateAcc` what HOLDOVER has yet to apply of it. `cands` holds when each CANDIDATE was last
received (R77), `gone` the neighbours that have left service and not been heard since (R78). -/
structure Irc where
  count : Nat
  frac : Nat
  state : LockState
  parent : Nat
  hops : Nat
  ppsSeen : Bool
  master : Bool
  hall : Bool
  offsets : List Int
  ppsCap : Word
  trim : Int
  slew : Int
  peers : Tbl Peer
  reqs : Tbl TimeOut
  reqSeq : BitVec 16
  lastExch : Nat
  holdAt : Nat
  noMasterAt : Nat
  noLockedAt : Nat
  masterAddr : Nat
  ppsSecond : Option Nat
  latchHi : Word
  latchFrac : Word
  rate : Int
  rateOver : Nat
  rateAcc : Int
  cands : Tbl Nat
  gone : List Nat
deriving DecidableEq, Repr

/-! ### Commands in progress -/

/-- A request entry that Brass has started and not completed (13 R359): the mailbox, the mailbox's
incarnation (a mailbox reset discards the completions of older incarnations, 13 R361), TAG, INDEX,
opcode. -/
structure Cmd where
  mbx : Nat
  inst : Nat
  tag : Word
  index : Nat
  opcode : Nat
deriving DecidableEq, Repr

/-- A completion entry (13 Table 13.7) before it is given its place in a ring. -/
structure Cpl where
  opcode : Nat
  result : Nat
  tag : Word
  index : Nat
  detail : Nat
  count : Nat
  ret : List Byte
deriving DecidableEq, Repr

/-- A mailbox (13 R354 to R361). `owner` is the requester it is bound to: fabric address and HOST bit. -/
structure Mbx where
  opened : Bool
  owner : Option (BitVec 15 × Bool)
  rqPages : Nat
  cqPages : Nat
  rq : Mem
  cq : Mem
  rqTail : Nat
  rqHead : Nat
  cqTail : Nat
  cqHead : Nat
  held : List Cpl
  inst : Nat
  running : List Cmd
  closing : Option Cmd
deriving DecidableEq, Repr

/-- Targets of a transfer (13 R363). -/
inductive XTarget where
  | staging | tensor (arr : Nat) | region
deriving DecidableEq, Repr

/-- A transfer (13 R363). `key` is the tensor index or the region key. -/
structure Xfer where
  mbx : Nat
  owner : Option (BitVec 15 × Bool)
  target : XTarget
  ctx : Nat
  key : Nat
  length : Nat
  data : Mem
  closed : Bool
deriving DecidableEq, Repr

/-! ### Lanes and ports -/

/-- One lane, or one spare lane circuit (05 R107 to R118, Tables 5.13 and 5.17). `side` is the sideband word it is sending
and the blocks it still goes in (R113), `scr` the state of its scrambler (R110), `sent` the levels of the last block it sent;
`markAt` is when its last marker arrived and `deskew` the delay that aligns it with its port's lanes, both in ps (R115);
`lockClk` is when it locked; `foms` are the windows since phase 2 began; `warned` says that its
fall below WARN in service has been raised (R118). -/
structure Lane where
  phase : Nat
  inService : Bool
  lock : Bool
  marker : Bool
  missed : Nat
  inverted : Bool
  spared : Bool
  fenced : Bool
  failed : Bool
  fom : Nat
  fomMin : Option Nat
  below : Bool
  failSince : Option Nat
  txEq : List Nat
  partnerFom : Nat
  partnerPhase : Nat
  uncorr : List Nat
  phaseAt : Nat
  paramOk : Option Bool
  side : Option (BitVec 28 × Nat)
  scr : BitVec 31
  sent : List (BitVec 2)
  markAt : Option Nat
  deskew : Nat
  lockClk : Nat
  foms : List Nat
  warned : Bool
deriving DecidableEq, Repr

/-- LINK messages a port has yet to send (05 Table 5.6). -/
inductive LinkMsg where
  | nak (e : BitVec 13)
  | protocolViolation (code : Nat) (n : Nat) (seq : BitVec 13) (vc : BitVec 4) (count : Nat)
  | leave (reason : Nat) (count : Nat)
  | creditSync (next : BitVec 13) (lims : List (Nat × Nat))
  | creditSyncAck (next : BitVec 13)
  | retrainReq (reason : Nat)
deriving DecidableEq, Repr

/-- VC1 CONTROL messages a port has yet to send (04 Table 4.4, 06 Table 6.10, 10 Table 10.10, 14 Table 14.5). -/
inductive CtlMsg where
  | timeReq (m : TimeMsg)
  | timeResp (m : TimeMsg)
  | lateNotice (n : LateNotice)
  | epochCancel (m : EpochMsg)
  | epochGo (m : EpochMsg)
  | epochInfo (m : EpochMsg)
  | abortNotice (n : Notice)
  | ctxStop (n : Notice)
  | resume (n : Notice)
  | flowGrant (m : FlowMsg)
  | flowDeny (m : FlowMsg)
  | flowClose (m : FlowMsg)
  | flowCloseAck (m : FlowMsg)
  | returnDone (m : ReturnMsg)
  | returnResend (m : ReturnMsg)
deriving DecidableEq, Repr

/-- What a lane sends in its framing words besides PORT and LANE_INDEX (05 Table 5.3): the sideband
message and the lane mask or values it carries. -/
inductive SideMsg where
  | fomReport (lane : Nat) (fom : Nat)
  | txEqReq (lane : Nat) (tap : Nat) (op : Nat)
  | param (lane : Nat)
  | widthChange (mask : BitVec 4) (block : Nat)
  | spareReq (idx : Nat)
  | spareDone (idx : Nat) (ok : Bool)
  | ready (lane : Nat) (phase : Nat)
deriving DecidableEq, Repr

/-- What a flit on the transmit side carries: a message, or flit number `k` of a frame; `tail` is the LEN and the payload of a bad
tail that goes out in its place (06 R156). -/
inductive TxPay where
  | idle
  | link (m : LinkMsg)
  | ctl (m : CtlMsg)
  | data (f : Frame) (id : Nat) (k : Nat) (tail : Option (Nat × List Byte))
deriving DecidableEq, Repr

/-- A flit as sent: payload, virtual channel, SEQ, and the acknowledgement and credit fields it carries. -/
structure TxFlit where
  pay : TxPay
  vc : Nat
  seq : BitVec 13
  ack : BitVec 13
  crVc : Nat
  crCount : Nat
deriving DecidableEq, Repr

/-- A frame staged at a port's output: cells that have crossed, flits sent so far, the point it came from, LEN and payload of the bad
tail that it must end with (06 R156, Table 6.6), since when, and its fair-queueing tag (07 R191). -/
structure Staged where
  frame : Frame
  id : Nat
  inp : Nat
  avail : Nat
  sent : Nat
  tail : Option (Nat × List Byte)
  since : Nat
  tag : Nat
deriving DecidableEq, Repr

inductive PortState where
  | absent | training | active | retrain | down | fenced
deriving DecidableEq, Repr

/-- One port: link layer (05 R127 to R143) and training (05 R119 to R121). `stream` holds the bytes of the flits sent that
no block has carried yet (R122); `ctlSeq` numbers the VC1 messages that this Fixus originates on the port. -/
structure Port where
  st : PortState
  lanes : BitVec 4
  rxLanes : BitVec 4
  nakWait : Bool
  nakAt : Nat
  e : BitVec 13
  seqNext : BitVec 13
  ackSeen : BitVec 13
  ackAt : Nat
  unacked : List TxFlit
  replay : List TxFlit
  replays : Nat
  avail : Tbl Nat
  txLim : Tbl Nat
  crSeen : Tbl Nat
  plimit : Tbl Nat
  rxHeld : Tbl Nat
  rxRet : Tbl Nat
  rxUnrep : Tbl Nat
  crRot : Nat
  linkQ : List LinkMsg
  ctlQ : List CtlMsg
  sideQ : List SideMsg
  egress : List Staged
  wire : Option TxFlit
  stream : List Byte
  ctlSeq : BitVec 16
deriving DecidableEq, Repr

/-- A frame being received on one virtual channel of a port: its cells' id, flits received, whether its EOF
has come, whether it is bad (05 R125, 06 R156), whether ingress has dropped it, and whether ingress has taken its header;
then its FRAME_LEN, and LEN of its EOF flit (06 R145); and, of a dropped CONTRIB or PARTIAL frame for Bronze, its FTYPE, since its token
counts once its EOF is here (14 R409). -/
structure Asm where
  vc : Nat
  id : Nat
  got : Nat
  eof : Bool
  bad : Bool
  dropped : Bool
  taken : Bool
  flen : Nat
  eofLen : Nat
  token : Option Nat
deriving DecidableEq, Repr

/-- The rest of a port: history windows, violation log, pending changes. `violLast` is the code, SEQ, VC and detection count of
the last violation of codes 1 to 4. `refused` says that phase 6 refuses a lane's PARAM (05 R120), `badVersion` that the partner's
profile version is not 1 (01 R40). `width` lists the transmit masks announced, in order, and the block each takes effect at, once its
first sending has fixed that; `rxWidth` the partner's masks and their blocks of the partner's frame; `spareAsk` the lanes whose
SPARE_REQ is to be answered when this end's spare has trained; `partnerW` the width the partner reports (05 R121), 0 before it has. -/
structure PortAux where
  retrains : List Nat
  retrainAt : Option Nat
  viols : List Nat
  violSince : Nat
  violAt : Option Nat
  violHead : Nat
  violLog : Tbl (BitVec 64)
  violLast : Nat × BitVec 13 × BitVec 4 × Nat
  lastGood : Nat
  refused : Bool
  badVersion : Bool
  paramAt : Nat
  width : List (BitVec 4 × Option Nat)
  rxWidth : List (BitVec 4 × Nat)
  syncRx : Bool
  syncAck : Bool
  sparing : Option Nat
  spareAt : Nat
  spareAsk : List Nat
  partnerW : Nat
  asm : List Asm
deriving DecidableEq, Repr

/-! ### Solder -/

/-- A Solder cell in use (06 R148): the owner point that holds it, its virtual channel, and the copies of it
still outstanding. -/
structure Cell where
  inp : Nat
  vc : Nat
  copies : Nat
deriving DecidableEq, Repr

/-- A queued frame: input point, output points still owed a copy, cells held and cells passed per copy. `since` numbers the
entries in the order in which they came to be queued, `atUnit` those that have crossed whole to a unit in the order in which they
did (02 R43). -/
structure QEnt where
  inp : Nat
  outs : List Nat
  mc : Bool
  frame : Frame
  id : Nat
  cells : Nat
  passed : Tbl Nat
  since : Nat
  noRoute : Option Nat
  sent : Bool
  noCredit : Option Nat
  atUnit : Option Nat
deriving DecidableEq, Repr

inductive FlowState where
  | sOpen | sSpray | sSingle | sClosing | rOpen
deriving DecidableEq, Repr

/-- A flow-table entry (06 R167, R171). `num` is the next FLOW_SEQ to send, or the expected one. -/
structure Flow where
  st : FlowState
  src : Nat
  dest : Nat
  ctx : Nat
  vc : Nat
  num : Nat
  held : List (Frame × Nat)
  gap : Option Nat
  last : Nat
  close : Option Nat
  waiting : List (Frame × Nat)
deriving DecidableEq, Repr

/-- A telemetry sample (06 Table 6.12) and, as the running sample, the interval's counts. -/
structure Sample where
  count : Nat
  tx : Nat
  rx : Nat
  qmax : Nat
  rxHeld : Nat
  stallCredit : Nat
  stallMatch : Nat
  retry : Nat
  vcStall : Nat
deriving DecidableEq, Repr

/-- A request waiting in a pool's FIFO (06 R165): owner, buffers wanted, whom to wake. -/
structure PoolReq where
  owner : Nat
  n : Nat
  tag : Nat
deriving DecidableEq, Repr

/-- The switch core (06). `cells` lists the pool-0 cells in use, cell k of frame id under key 64·id + k; `used1`
counts the buffers of pool 1 that mailboxes hold (those of segments and kernels are counted where they are); `count` the three pool counts in effect; `telemAt` is
the count of the last telemetry sample (R174), `arrivals` numbers the queue entries, `ues` holds the times of the uncorrectable
cell words (14 source 0x0303). -/
structure Solder where
  queues : List QEnt
  descWait : List QEnt
  cells : Tbl Cell
  nextId : Nat
  gptr : Tbl Nat
  aptr : Tbl Nat
  mcTurn : Tbl Bool
  vcOwner : Tbl Nat
  lastSpray : Tbl Nat
  flows : Tbl Flow
  used1 : Nat
  count : Nat × Nat × Nat
  waits : Tbl (List PoolReq)
  telem : Tbl Sample
  telemPos : Nat
  telemAt : Option Nat
  acc : Tbl Sample
  arrivals : Nat
  ues : List Nat
deriving DecidableEq, Repr

/-! ### Scheduler -/

inductive TblState where
  | empty | loading | ready | armed | active
deriving DecidableEq, Repr

/-- A slot table (07 R176, R185): `loaded` numbers its last load, `at_` is the count of that load. -/
structure SlotTbl where
  st : TblState
  epoch : Nat
  len : Nat
  crc : Word
  entries : List (BitVec 16)
  loaded : Nat
  at_ : Nat
  start : Nat
deriving DecidableEq, Repr

/-- A policer's tokens (07 R195): Tc, Te or Tp, in units of 0.01 byte, and when they were last filled. -/
structure Pol where
  tc : Nat
  te : Nat
  at_ : Nat
deriving DecidableEq, Repr

/-- A shaper's credit (07 R192) in units of 1/30,000 byte, when it was last brought up to date, and how much of the time since then
flits of its channel take, in units of 1/300 ns. -/
structure Shaper where
  c : Int
  at_ : Nat
  busy : Nat
deriving DecidableEq, Repr

/-- An armed epoch switch (04 R101 to R105). -/
structure Arm where
  ctx : Nat
  epoch : Nat
  s : Nat
  ready : Bool
  released : Bool
  sampled : Bool
  cancelled : Bool
  decided : Bool
  cmd : Option Cmd
deriving DecidableEq, Repr

/-- The epoch last switched to in a context's block, with its S and LEN (04 R95, 14 R407). -/
structure EpochRec where
  ctx : Nat
  epoch : Nat
  s : Nat
  len : Nat
  joining : Bool
deriving DecidableEq, Repr

/-- A counter step correction asked for (04 R100). -/
structure StepReq where
  delta : Int
  c : Nat
  released : Bool
  ok : Option Bool
  cmd : Cmd
deriving DecidableEq, Repr

/-- A SCHED_LOAD that waits for TABLE_ACKs (07 R187): its epoch, the ports and accelerator ports that refused, and the
accelerator ports still to answer, as 2a + i. -/
structure Load where
  cmd : Cmd
  epoch : Nat
  refused : Nat
  accRef : Nat
  wait : List Nat
deriving DecidableEq, Repr

/-- Slot tables, queue rules and barriers (07, 04). `cancels` lists the EPOCH_CANCEL messages seen, as context, epoch and S. `acks` lists the epochs that each accelerator port holds: key a for
port 0 of accelerator a, a + 16 for port 1. -/
structure Sched where
  tbls : Tbl SlotTbl
  acks : Tbl (List Nat)
  loads : Nat
  loading : List Load
  slot : Tbl (BitVec 16)
  wfqV : Tbl Nat
  wfqF : Tbl Nat
  rr : Tbl Nat
  shapers : Tbl Shaper
  pols : Tbl Pol
  arms : List Arm
  epochs : List EpochRec
  cancels : List (Nat × Nat × Nat)
  step : Option StepReq
deriving DecidableEq, Repr

/-! ### Contexts, groups, plans -/

inductive CtxState where
  | free | opened | draining
deriving DecidableEq, Repr

/-- A context (08 R201 to R204) and what recovery keeps of it (14 R390 to R401). -/
structure Ctx where
  st : CtxState
  gen : Nat
  threshold : Nat
  budget : Nat
  planned : Bool
  twin : Bool
  planFenced : Bool
  stopD : Option Nat
  stopDone : Bool
  teardown : Bool
  waiting : List Cmd
  lates : List ((Nat × Nat) × Nat)
  aborts : List (Nat × Nat × Bool × Bool)
  resumes : List (Nat × Nat)
  holdUntil : Option Nat
  holdLost : List Nat
  heldSent : Bool
  resumeU : Option Nat
deriving DecidableEq, Repr

/-- A group entry (08 Table 8.2). -/
structure Group where
  ctx : Nat
  cls : Nat
  active : Bool
  members : List Nat
deriving DecidableEq, Repr

/-- A version record (10 Table 10.3) without its map addresses. -/
structure Version where
  version : Nat
  lastStep : Nat
  pending : Nat
  reexec : Bool
  lost : Bool
  resync : Bool
  map : Bool
deriving DecidableEq, Repr

/-- A tensor: its 128-byte table entry (10 Table 10.1), its version record, its committed arrays on this
Fixus (FP32 bits; BF16 moments in the low half), the calm count of 09 R247, and one more than the largest STEP accepted
(0: none). `twinDig` are the digests of this Fixus's own flip that are still to be compared with the twin's, `theirDig` those of the
twin that came first (10 R282); `onStacks` the stacks in service when the plan was loaded (12 R337). -/
structure Tensor where
  entry : List Byte
  ver : Version
  w : List Word
  m1 : List Word
  m2 : List Word
  calm : Nat
  maxStep : Nat
  acting : Bool
  twinDig : Option (BitVec 64 × BitVec 64)
  theirDig : Option (BitVec 64 × BitVec 64)
  onStacks : List Nat
deriving DecidableEq, Repr

/-- An Ingot region (11 R302). -/
structure Region where
  ctx : Nat
  root : Nat
  rows : Nat
  cols : Nat
  fmt : Nat
  data : Mem
deriving DecidableEq, Repr

/-! ### Collectives -/

/-- Where an input of a node comes from: a local member by rank, this Fixus's previous stage, or a
neighbour by the port group it arrives on. -/
inductive Src where
  | rank (r : Nat)
  | own
  | group (g : Nat)
deriving DecidableEq, Repr

/-- One input of a segment (09 Tables 9.1, 9.2): blocks as (scale, integers) in exact mode, FP32 values in
float mode, and the flags it carries; `failed` says that a check of 09 R241 failed on it here. -/
structure SegIn where
  src : Src
  key : Nat
  blocks : List (Nat × List Int)
  vals : List Word
  id : Nat
  csum : Word
  flags : BitVec 6
  nfRank : Nat
  failed : Bool
deriving DecidableEq, Repr

/-- A segment of a node: its inputs so far, its budget timer's start, the count of its first input, whether its output has left,
the engines that hold its accumulators since that input (08 R230, R231), and those of them that have spilled theirs (R232). -/
structure Seg where
  ins : List SegIn
  start : Option Nat
  first : Option Nat
  done : Bool
  engines : List Nat
  spilled : List Nat
deriving DecidableEq, Repr

inductive Stage where
  | loc | row | col | x | y
deriving DecidableEq, Repr

/-- A node of a collective on this Fixus (08 R226): the inputs planned, those abandoned, its segments, and
the port group its output leaves by (none: the next stage of this Fixus, or the root). -/
structure Node where
  stage : Stage
  inputs : List (Src × Nat)
  abandoned : List Src
  segs : Tbl Seg
  late : Bool
  fenced : Bool
  out : Option Nat
deriving DecidableEq, Repr

/-- What the root has gathered (09 R246 to R255). `half` lists, at a mirror, the segments of which only the first frame of the copy is
here: when it came, the engine that holds their accumulators, and whether it has spilled them (08 R224, R232; 10 R281). -/
structure Root where
  segs : Tbl (List (Nat × List Int) × List Word)
  half : Tbl (Nat × Option Nat × Bool)
  flags : BitVec 6
  nfRank : Nat
  rescaled : Nat
  maxAbs : Nat
  fMax : Nat
  g : List Word
  nonfin : List Bool
  gdig : BitVec 64
  conds : BitVec 16
  partFail : BitVec 64
  reduced : Bool
deriving DecidableEq, Repr

/-- The return or output of a collective at the Fixus that sends it (10 R284 to R286). -/
structure Ret where
  image : List Byte
  homes : List Nat
  sent : Bool
  next : Nat
deriving DecidableEq, Repr

/-- What a home keeps for its members: of each RETURN or RESULT frame delivered its OFFSET, the accelerator and its bytes (10 R286);
whether it has told the root that all are in place; the record once it arrived. -/
structure Home where
  got : List (Nat × Nat × Nat)
  told : Bool
  record : Option (List Byte)
  written : Bool
deriving DecidableEq, Repr

/-- A fabric kernel's state at its root (11 R305 to R312): the next MATMUL part, the count of the first input,
the frames of each rank received (OFFSET and payload), the output rows by part or by rank, the members
abandoned, COUNT, non-finite output elements, LOWEST_RANK, and the parts failed. -/
structure Kernel where
  part : Nat
  start : Option Nat
  got : Tbl (List (Nat × List Byte))
  rows : Tbl (List Byte)
  abandoned : List Nat
  served : Nat
  nonfin : Nat
  lowest : Nat
  partFail : BitVec 64
deriving DecidableEq, Repr

/-- A collective in a slot (08 R208) or in the launch queue (08 R209). -/
structure Coll where
  desc : List Byte
  cmd : Cmd
  launch : Nat
  unscheduled : Bool
  launched : Bool
  heldAt : Option Nat
  ring : Bool
  nodes : List Node
  root : Option Root
  decided : Option (Nat × Nat)
  record : Option (List Byte)
  ret : Option Ret
  home : Option Home
  kern : Option Kernel
  frozenVer : Nat
  stopAt : Option Nat
  wImage : List Word
deriving DecidableEq, Repr

/-! ### Pewter and Steel -/

/-- Phases of an update (10 R265, R460): waiting for pages, an element-wise pass, the Newton–Schulz
product (iteration, product), and finished, waiting for L + RET_DELAY. -/
inductive Phase where
  | pages
  | pass1
  | nsReady
  | ns (k : Nat) (prod : Nat)
  | pass2
  | rule
  | image
  | finished
deriving DecidableEq, Repr

/-- The update in progress (10 R261 to R276). `mirror` when this Fixus runs it as the twin; `tag` is Pewter's tag of it (12 R340). -/
structure Update where
  ctx : Nat
  cid : Nat
  phase : Phase
  conds : BitVec 16
  lowest : Nat
  w : List Word
  m1 : List Word
  m2 : List Word
  u : List Word
  x : List Byte
  a : List Word
  b : List Word
  o : List Word
  ssq : BitVec 64
  image : List Byte
  pdig : BitVec 64
  partFail : BitVec 64
  nonfin : Bool
  changes : Bool
  setStep : Bool
  mirror : Bool
  tag : Nat
deriving DecidableEq, Repr

/-- Pewter (10): the running update, those finished and waiting for L + RET_DELAY, the image passes of
FETCH collectives and collectives whose reduction is complete, by context and COLLECTIVE_ID; `cmd` is the pass command that the base
dies received last (12 Table 12.8). -/
structure Pewter where
  upd : Option Update
  finished : List Update
  fetches : List (Nat × Nat)
  ready : List (Nat × Nat)
  lastFlip : Nat
  takeover : Bool
  resyncing : List (Nat × Nat)
  cmd : List Byte
deriving DecidableEq, Repr

/-- A Steel job on the arrays (11 R307): the update's run, or part `part` of a MATMUL. -/
inductive SteelJob where
  | ns (ctx cid : Nat)
  | matmul (ctx cid part : Nat)
deriving DecidableEq, Repr

/-- What a cluster has to do with the Steel job that it ran last: its layer boundary is decided or there was none, it works on its
share, or the boundary is still to be decided (11 R293). -/
inductive Share where
  | decided | working | finished
deriving DecidableEq, Repr

/-- A Steel cluster (11 R292 to R294). -/
structure Cluster where
  step : Nat
  since : Nat
  temp : Nat
  fenced : Bool
  relocking : Bool
  share : Share
deriving DecidableEq, Repr

/-- Steel (11): the running job, tiles fenced, clusters, the last K-split. -/
structure Steel where
  job : Option SteelJob
  fenced : List Nat
  clusters : Tbl Cluster
  split : Nat × Nat
deriving DecidableEq, Repr

/-! ### Ingot -/

/-- What a page in use holds (12 Table 12.6). `state` names the array: 0 for W, 1 for M or m, 2 for v. `work` names
part 0 for G of an update, 1 and 8 for the two buffers of X, 2 + a for its new array a, 5 for A, 6 for B and 7 for O; `old` the W of a
version, given by its number, that a FETCH or a kernel still reads (10 R269); `spill` the accumulators that engine `engine` spilled of a node's segment (08 R232). -/
inductive Holder where
  | state (ctx tensor arr : Nat)
  | work (ctx cid : Nat) (part : Nat)
  | image (ctx cid : Nat)
  | region (ctx key : Nat)
  | xfer (h : Nat)
  | staging (h : Nat)
  | spill (ctx cid node seg engine : Nat)
  | old (ctx tensor version : Nat)
  | launchQueue
deriving DecidableEq, Repr

/-- A page in use: its physical page number, before any remap, and its holder. -/
structure Page where
  no : Nat
  holder : Holder
deriving DecidableEq, Repr

/-- A page map that stands in the MAP region (12 R320, R321), by what its pages hold. -/
structure PageMap where
  holder : Holder
  bytes : List Byte
deriving DecidableEq, Repr

/-- A channel of a stack (12 Table 12.13). `ueRows` are the physical rows found uncorrectable, with the clock time; `ues` the clock
times at which codewords were. `lineRun` is the data line on which the codewords read last were corrected,
and how many of them in a row (12 R334). -/
structure Chan where
  fenced : Bool
  evac : Bool
  ueRows : List (Nat × Nat)
  ues : List Nat
  lineRun : Option (Nat × Nat)
deriving DecidableEq, Repr

/-- One stack (12 Tables 12.11, 12.12). `sparesUsed` counts the repair fuses burned of a bank, by key 192·CH + 16·SID + 4·BG + BANK.
By key 2^22·CH + row number: `redirect` gives the spare row that stands in a row's place, `copying` the clock time at which its
sparing copy began and the spare row that stood there before, `rowCe` the codewords of the row corrected in the scrub pass (12 R330). `remap` gives the RESERVE page of a page
(12 R331). `refreshed` gives the clock time of a slice's last refresh and the row of each bank that comes next (12 R338). -/
structure Stack where
  ready : Bool
  fenced : Bool
  hot : Bool
  temp : Nat
  scrubPos : Tbl Nat
  sparesUsed : Tbl Nat
  redirect : Tbl Nat
  copying : Tbl (Nat × Option Nat)
  rowCe : Tbl Nat
  remap : Tbl Nat
  errHead : Nat
  errLog : Tbl (BitVec 64)
  chans : Tbl Chan
  refreshed : Tbl (Nat × Nat)
  scrubbed : Tbl Nat
  rrCh : Nat
  fenceQ : List Nat
  moving : List Nat
  fenceCmd : List (Nat × Cmd)
deriving DecidableEq, Repr

/-- Ingot (12): stacks, pool ranges set by POOL_SET, pages in use and the page maps of their arrays, pages that left a pool, poisoned
codewords. -/
structure Ingot where
  stks : Tbl Stack
  pool3 : Nat
  pool4 : Nat
  pages : List Page
  maps : List PageMap
  lostPages : List Nat
  poison : List Nat
deriving DecidableEq, Repr

/-! ### Fault collector -/

/-- A fault record (14 Table 14.2). `st`: 0 OPEN, 1 ACKED, 2 CLOSED; `cls`: 0 C, 1 D, 2 F, 3 X; `timed` says that its deferred
timer has run out (R383). -/
structure Rec where
  index : Nat
  escalated : Bool
  timed : Bool
  pulsed : Bool
  st : Nat
  cls : Nat
  dkind : Nat
  dindex : Nat
  source : Nat
  lastSource : Nat
  count : Nat
  first : Nat
  last : Nat
  classCount : Nat
  gen : Nat
  info0 : Nat
  info1 : Nat
deriving DecidableEq, Repr

/-- A crash dump (14 R405): the cause, count and SYS_FW of its header, the configuration registers and
the open records it holds. -/
structure Dump where
  cause : Nat
  count : Nat
  fw : Word
  cfg : Tbl Word
  recs : List Rec
deriving DecidableEq, Repr

/-- A copy of the select block (15 R425): sequence number, ACTIVE slot, TRIAL, TRIAL_COUNT, CFG_ACTIVE. -/
structure Select where
  seq : Nat
  active : Bool
  trial : Bool
  trialCount : Nat
  cfgActive : Bool
deriving DecidableEq, Repr

/-- Boot flash (15 Table 15.4): the select block that governs, field by field, and its older copy, the certificate chain, the firmware and configuration slots, the X_DUMP area (the newest records, and the dump whose first 768 KiB it holds),
and the channel-fence and remap records of 12 R332: 16·STACK + CH of each channel fenced, and the RESERVE page of each page. -/
structure Flash where
  seq : Nat
  active : Bool
  trial : Bool
  trialCount : Nat
  cfgActive : Bool
  older : Select
  cert : List Byte
  fwA : List Byte
  fwB : List Byte
  cfgA : List Byte
  cfgB : List Byte
  xdump : Option (List Rec × Dump)
  fences : List Nat
  remaps : Tbl Nat
deriving DecidableEq, Repr

/-- The fault collector (14). Record times are kept in Iridium counts, timers in clock ns. `passed` lists the notices passed on for
contexts that are not open here, with their counts (R94, R390); `heldDescs` the held descriptors received and not yet taken up (R400). `acts` lists the Fixus that were lost, with the count from
which each is owner again once it is back; `rejoin` the tensors, by key, that this Fixus has still to compare with its partner's after a
reset (10 R283). -/
structure Flt where
  recs : Tbl Rec
  head : Nat
  timers : List (Nat × Nat)
  dumps : Tbl Dump
  dumpNext : Nat
  lost : List Nat
  passed : List (List Nat × Nat)
  heldDescs : List (List Byte)
  acts : List (Nat × Option Nat)
  rejoin : List Nat
deriving DecidableEq, Repr

/-! ### Security block -/

/-- The security block (15 Tables 15.9, 15.10). -/
structure Sec where
  leaf : Option Nat
  busy : Bool
  quotes : Nat
  meas : List (List Byte)
  trial : Bool
  slotB : Bool
  cfgOk : Bool
  waiting : List (Cmd × List Byte × Nat)
deriving DecidableEq, Repr

/-! ### The whole -/

/-- The state of the block. `cfg` holds every register with RW or WK fields that is not listed elsewhere, by
address, where it differs from its reset value; `cnt` every read-clear counter, by address; `cleared` the clock time at which a
counter that no command reports was last read; `latch` the latched high words. `lateDescs` are the descriptors refused with LATE_LAUNCH whose
stop count is still to come; `clk` is the model's own elapsed nanoseconds; `freeCtr` numbers the free values drawn. -/
structure State where
  pending : List Instr
  clk : Nat
  freeCtr : Nat
  fuses : Fuses
  flash : Flash
  pins : Pins
  smb : Smbus
  bus : Bus
  cfg : Tbl Word
  cnt : Tbl Nat
  cleared : Tbl Nat
  latch : Tbl Word
  sys : Sys
  irc : Irc
  mbxs : Tbl Mbx
  bound : List (BitVec 15 × Bool × Nat)
  xfers : Tbl Xfer
  heldRx : List (List Byte)
  lanes : Tbl Lane
  ports : Tbl Port
  aux : Tbl PortAux
  sol : Solder
  sch : Sched
  ctxs : Tbl Ctx
  groups : Tbl Group
  tensors : Tbl Tensor
  regions : Tbl Region
  slots : Tbl Coll
  queue : List Coll
  lateDescs : List (List Byte)
  bzFenced : List Nat
  pwt : Pewter
  stl : Steel
  ing : Ingot
  flt : Flt
  sec : Sec
deriving DecidableEq, Repr

/-! ### Values at reset, and the defaults of table entries -/

def Lane.init : Lane :=
  { phase := 0, inService := false, lock := false, marker := false, missed := 0, inverted := false,
    spared := false, fenced := false, failed := false, fom := 0, fomMin := none, below := false,
    failSince := none, txEq := [0, 0, 0, 0, 0, 0], partnerFom := 0, partnerPhase := 0, uncorr := [],
    phaseAt := 0, paramOk := none, side := none, scr := 0, sent := [], markAt := none, deskew := 0,
    lockClk := 0, foms := [], warned := false }

def Port.init : Port :=
  { st := .absent, lanes := 0, rxLanes := 0, nakWait := false, nakAt := 0, e := 0, seqNext := 0,
    ackSeen := 0, ackAt := 0, unacked := [], replay := [], replays := 0, avail := [], txLim := [],
    crSeen := [], plimit := [], rxHeld := [], rxRet := [], rxUnrep := [], crRot := 0, linkQ := [],
    ctlQ := [], sideQ := [], egress := [], wire := none, stream := [], ctlSeq := 0 }

def PortAux.init : PortAux :=
  { retrains := [], retrainAt := none, viols := [], violSince := 0, violAt := none, violHead := 0,
    violLog := [], violLast := (0, 0, 0, 0), lastGood := 0, refused := false, badVersion := false, paramAt := 0, width := [],
    rxWidth := [], syncRx := false, syncAck := false, sparing := none, spareAt := 0, spareAsk := [], partnerW := 0, asm := [] }

def Mbx.init : Mbx :=
  { opened := false, owner := none, rqPages := 0, cqPages := 0, rq := [], cq := [], rqTail := 0,
    rqHead := 0, cqTail := 0, cqHead := 0, held := [], inst := 0, running := [], closing := none }

def Sample.init : Sample :=
  { count := 0, tx := 0, rx := 0, qmax := 0, rxHeld := 0, stallCredit := 0, stallMatch := 0, retry := 0,
    vcStall := 0 }

def SlotTbl.init : SlotTbl :=
  { st := .empty, epoch := 0, len := 0, crc := 0, entries := [], loaded := 0, at_ := 0, start := 0 }

def Pol.init : Pol := { tc := 0, te := 0, at_ := 0 }

def Shaper.init : Shaper := { c := 0, at_ := 0, busy := 0 }

def Ctx.init : Ctx :=
  { st := .free, gen := 0, threshold := 0, budget := 0, planned := false, twin := false,
    planFenced := false, stopD := none, stopDone := false, teardown := false, waiting := [], lates := [], aborts := [],
    resumes := [], holdUntil := none, holdLost := [], heldSent := false, resumeU := none }

def Group.init : Group := { ctx := 0, cls := 0, active := false, members := [] }

def Version.init : Version :=
  { version := 0, lastStep := 0, pending := 0, reexec := false, lost := true, resync := false, map := false }

def Rec.init : Rec :=
  { index := 0, escalated := false, timed := false, pulsed := false, st := 0, cls := 0, dkind := 0, dindex := 0, source := 0,
    lastSource := 0, count := 0, first := 0, last := 0, classCount := 0, gen := 0, info0 := 0, info1 := 0 }

def Seg.init : Seg := { ins := [], start := none, first := none, done := false, engines := [], spilled := [] }

def Root.init : Root :=
  { segs := [], half := [], flags := 0, nfRank := 0xFFFF, rescaled := 0, maxAbs := 0, fMax := 0, g := [], nonfin := [],
    gdig := 0, conds := 0, partFail := 0, reduced := false }

def Home.init : Home := { got := [], told := false, record := none, written := false }

def Kernel.init : Kernel :=
  { part := 0, start := none, got := [], rows := [], abandoned := [], served := 0, nonfin := 0, lowest := 0xFFFF,
    partFail := 0 }

def Cluster.init : Cluster := { step := 0, since := 0, temp := 0, fenced := false, relocking := false, share := .decided }

def Chan.init : Chan := { fenced := false, evac := false, ueRows := [], ues := [], lineRun := none }

def Stack.init : Stack :=
  { ready := false, fenced := false, hot := false, temp := 0, scrubPos := [], sparesUsed := [],
    redirect := [], copying := [], rowCe := [], remap := [], errHead := 0, errLog := [], chans := [], refreshed := [], scrubbed := [], rrCh := 0,
    fenceQ := [], moving := [], fenceCmd := [] }

def Solder.init : Solder :=
  { queues := [], descWait := [], cells := [], nextId := 1, gptr := [], aptr := [], mcTurn := [], vcOwner := [],
    lastSpray := [], flows := [], used1 := 0, count := (0x90000, 0x2000, 0x100), waits := [],
    telem := [], telemPos := 0, telemAt := none, acc := [], arrivals := 0, ues := [] }

def Sched.init : Sched :=
  { tbls := [], acks := [], loads := 0, loading := [], slot := [], wfqV := [], wfqF := [], rr := [], shapers := [],
    pols := [], arms := [], epochs := [], cancels := [], step := none }

def Pewter.init : Pewter :=
  { upd := none, finished := [], fetches := [], ready := [], lastFlip := 0, takeover := false, resyncing := [],
    cmd := [] }

def Steel.init : Steel := { job := none, fenced := [], clusters := [], split := (0, 0) }

def Irc.init : Irc :=
  { count := 0, frac := 0, state := .free, parent := 0, hops := 0xFF, ppsSeen := false, master := false,
    hall := false, offsets := [], ppsCap := 0, trim := 0, slew := 0, peers := [], reqs := [], reqSeq := 0,
    lastExch := 0, holdAt := 0, noMasterAt := 0, noLockedAt := 0, masterAddr := 0, ppsSecond := none,
    latchHi := 0, latchFrac := 0, rate := 0, rateOver := 1, rateAcc := 0, cands := [], gone := [] }

def Sys.init : Sys :=
  { fw := 0x0000FFFF, fwReady := false, configured := false, hostbrConflict := false, cell := 0, hx := 0,
    hy := 0, keys := [], busErrAddr := 0, parityAddr := 0, parityBad := [], classX := false,
    outOfService := false, resetAt := 0, resetCause := 0, otpRead := false, noFirmware := false,
    cellW := none, resetAsked := none, training := false, helloSeen := [], helloAt := 0, block := (0, 0, 1, 1) }

def Sec.init : Sec :=
  { leaf := none, busy := false, quotes := 0, meas := [List.replicate 32 0, List.replicate 32 0,
      List.replicate 32 0, List.replicate 32 0],
    trial := false, slotB := false, cfgOk := false, waiting := [] }

/-- A part with fuses `f` right after a power-on reset: RESET_N released, the straps sampled, the boot ROM started,
firmware not yet running, at position (0, 0). -/
def State.resetOf (f : Fuses) : State :=
  { pending := [], clk := 0, freeCtr := 0,
    fuses := f,
    flash := { seq := 0, active := false, trial := false, trialCount := 0, cfgActive := false,
               older := { seq := 0, active := false, trial := false, trialCount := 0, cfgActive := false }, cert := Config.certChain, fwA := Config.factoryFw, fwB := Config.factoryFw,
               cfgA := Config.factoryCfg, cfgB := Config.factoryCfg, xdump := none, fences := [], remaps := [] },
    pins := { hostbr := true, sw := 0, resetN := true, pwrgd := true, refclkOk := true, floating := false,
              ppsOutAt := none, barLow := false, barFor := none, romBar := none, faultLow := false, pulseAt := none, gapAt := none,
              pulseDue := false, tempSrc := [], ir := .idcode, tdo := [], driven := [] },
    smb := { ptr := 0, rdlen := 4, busErr := false, pecErr := false, out := [] },
    bus := { data := [], err := false },
    cfg := [], cnt := [], cleared := [], latch := [], sys := Sys.init, irc := Irc.init, mbxs := [], bound := [],
    xfers := [], heldRx := [], lanes := [], ports := [], aux := [], sol := Solder.init, sch := Sched.init,
    ctxs := [], groups := [], tensors := [], regions := [], slots := [], queue := [], lateDescs := [], bzFenced := [],
    pwt := Pewter.init, stl := Steel.init,
    ing := { stks := [], pool3 := 262144, pool4 := 4096, pages := [], maps := [], lostPages := [],
             poison := [] },
    flt := { recs := [], head := 0, timers := [], dumps := [], dumpNext := 0, lost := [], passed := [], heldDescs := [], acts := [], rejoin := [] },
    sec := Sec.init }

/-- The block right after a power-on reset: an FX-12A with every unit present. DESIGN CHOICE (the spec leaves the part and its
place open): assumption log 7; `State.resetOf` gives any other part. -/
def State.reset : State := State.resetOf (Fuses.part .a 0xFFFF 0xFF)

end Sys2Proof.Machine
end

