-- ==== Sys2Proof/Machine/Bits.lean ====
section
/-! DEFINITION. Tables, byte stores, byte order, cyclic codes and SHA-256: the small operations every unit
uses. -/

namespace Sys2Proof.Machine

/-! ### Tables -/

/-- The entry of key `k`, if the table lists one. -/
def tfind {α : Type} : Tbl α → Nat → Option α
  | [], _ => none
  | (j, v) :: t, k => if j = k then some v else tfind t k

/-- The entry of key `k`, or the table's default `d`. -/
def tget {α : Type} (t : Tbl α) (k : Nat) (d : α) : α := (tfind t k).getD d

/-- The table with `v` under key `k`; keys stay rising. -/
def tset {α : Type} : Tbl α → Nat → α → Tbl α
  | [], k, v => [(k, v)]
  | (j, w) :: t, k, v =>
    if k < j then (k, v) :: (j, w) :: t else if k = j then (k, v) :: t else (j, w) :: tset t k v

/-- The table without key `k`. -/
def tdel {α : Type} (t : Tbl α) (k : Nat) : Tbl α := t.filter (fun e => e.1 != k)

/-- The table with the entry of `k` changed by `f`. -/
def tmod {α : Type} (t : Tbl α) (k : Nat) (d : α) (f : α → α) : Tbl α := tset t k (f (tget t k d))

/-- Every listed entry changed by `f`. -/
def tmap {α : Type} (t : Tbl α) (f : Nat → α → α) : Tbl α := t.map (fun e => (e.1, f e.1 e.2))

/-! ### Byte stores: canonical lists of the nonzero bytes, addresses rising -/

/-- The byte at `a`: an unlisted byte reads as zero. -/
def Mem.read : Mem → Nat → Byte
  | [], _ => 0
  | (b, v) :: t, a => if b = a then v else Mem.read t a

/-- The store with byte `v` at `a`. Writing zero removes the entry. -/
def Mem.write : Mem → Nat → Byte → Mem
  | [], a, v => if v = 0 then [] else [(a, v)]
  | (b, w) :: t, a, v =>
    if a < b then (if v = 0 then (b, w) :: t else (a, v) :: (b, w) :: t)
    else if a = b then (if v = 0 then t else (a, v) :: t)
    else (b, w) :: Mem.write t a v

/-- The canonical form: addresses strictly rising from `lo`, no byte zero. -/
def Mem.wfFrom : Nat → Mem → Bool
  | _, [] => true
  | lo, (a, v) :: t => decide (lo ≤ a) && decide (v ≠ 0) && Mem.wfFrom (a + 1) t

/-- The canonical form of a byte store. -/
def Mem.wf (m : Mem) : Bool := Mem.wfFrom 0 m

/-- `n` bytes from `a`. -/
def Mem.slice (m : Mem) (a n : Nat) : List Byte := (List.range n).map (fun i => Mem.read m (a + i))

/-- Bytes written from `a` upward. -/
def Mem.splice : Mem → Nat → List Byte → Mem
  | m, _, [] => m
  | m, a, b :: bs => Mem.splice (Mem.write m a b) (a + 1) bs

/-! ### Little-endian fields -/

/-- The number a list of bytes stands for, first byte least significant. -/
def leNat : List Byte → Nat
  | [] => 0
  | b :: bs => b.toNat + 256 * leNat bs

/-- `n` bytes of a number, least significant first. -/
def toLe : Nat → Nat → List Byte
  | 0, _ => []
  | n + 1, v => BitVec.ofNat 8 v :: toLe n (v / 256)

/-- `n` bytes of a number, most significant first. -/
def toBe (n v : Nat) : List Byte := (toLe n v).reverse

/-- Bytes `off` to `off + n - 1` of a list; bytes beyond its end are zero. -/
def bytesAt (bs : List Byte) (off n : Nat) : List Byte :=
  (List.range n).map (fun i => (bs.getD (off + i) 0))

/-- The `n`-byte little-endian field at `off`. -/
def fld (bs : List Byte) (off n : Nat) : Nat := leNat (bytesAt bs off n)

/-- The list with bytes from `off` replaced. -/
def putBytes (bs : List Byte) (off : Nat) (new : List Byte) : List Byte :=
  bs.take off ++ new ++ bs.drop (off + new.length)

/-- Bits [hi:lo] of a number. -/
def bits (v hi lo : Nat) : Nat := (v / 2 ^ lo) % 2 ^ (hi + 1 - lo)

/-- Bit `i` of a number. -/
def bit (v i : Nat) : Bool := v / 2 ^ i % 2 = 1

/-- One if the condition holds. -/
def b2n (b : Bool) : Nat := if b then 1 else 0

/-- Bytes cut into 32-bit little-endian words. -/
def toWords : List Byte → List Word
  | a :: b :: c :: d :: t => BitVec.ofNat 32 (leNat [a, b, c, d]) :: toWords t
  | _ => []

/-- Words as little-endian bytes. -/
def ofWords (ws : List Word) : List Byte := ws.flatMap (fun w => toLe 4 w.toNat)

/-- ⌈a / b⌉. -/
def cdiv (a b : Nat) : Nat := (a + b - 1) / b

/-- ⌈log2 n⌉, 0 for n below 2. -/
def clog2 (n : Nat) : Nat := if n ≤ 1 then 0 else Nat.log2 (n - 1) + 1

/-- `n` in two's complement of width `w`. -/
def toSigned (w v : Nat) : Int := if v < 2 ^ (w - 1) then v else (v : Int) - 2 ^ w

/-- The list split into runs of `n` (the last may be short); `fuel` bounds the runs. -/
def chunks {α : Type} (n : Nat) : (fuel : Nat) → List α → List (List α)
  | 0, _ => []
  | f + 1, l => if l.isEmpty then [] else l.take n :: chunks n f (l.drop n)

/-- The list split into runs of `n`. -/
def chunksOf {α : Type} (n : Nat) (l : List α) : List (List α) := chunks n l.length l

/-- The list with `d` appended up to length `n`. -/
def padTo {α : Type} (n : Nat) (d : α) (l : List α) : List α := l ++ List.replicate (n - l.length) d

/-! ### Cyclic codes -/

/-- One step of a reflected CRC-32: shift right, exclusive-OR with the reflected polynomial. -/
def crc32Step (c : Word) : Word :=
  if c.getLsbD 0 then (c >>> 1) ^^^ 0x82F63B78#32 else c >>> 1

/-- `n` steps. -/
def crc32Steps : Nat → Word → Word
  | 0, c => c
  | n + 1, c => crc32Steps n (crc32Step c)

/-- CRC-32C (05 R124): polynomial 0x1EDC_6F41 reflected, initial value and final exclusive-OR all ones. -/
def crc32c (bs : List Byte) : Word :=
  (bs.foldl (fun c b => crc32Steps 8 (c ^^^ b.zeroExtend 32)) 0xFFFFFFFF#32) ^^^ 0xFFFFFFFF#32

def crc64Step (c : BitVec 64) : BitVec 64 :=
  if c.getMsbD 0 then (c <<< 1) ^^^ 0x42F0E1EBA9EA3693#64 else c <<< 1

def crc64Steps : Nat → BitVec 64 → BitVec 64
  | 0, c => c
  | n + 1, c => crc64Steps n (crc64Step c)

/-- The digest of 03 R74: CRC-64 (ECMA-182), initial value zero, no reflection. -/
def crc64 (bs : List Byte) : BitVec 64 :=
  bs.foldl (fun c b => crc64Steps 8 (c ^^^ BitVec.shiftLeft (b.zeroExtend 64) 56)) 0#64

/-- CHECK of a framing word (05 Table 5.2): CRC-4 with x^4 + x + 1 over bits [35:0], bit 35 first. -/
def crc4 (v : BitVec 36) : BitVec 4 :=
  (List.range 36).foldl
    (fun c i =>
      let fb := c.getMsbD 0 != v.getMsbD i
      let d := c <<< 1
      if fb then d ^^^ 3#4 else d) 0#4

/-! ### SHA-256 (used by the measurements of 15 R428 and R430) -/

/-- The largest r + x below r + 2^`k` whose `e`-th power does not pass `n`. -/
def rootBits (e n : Nat) : Nat → Nat → Nat
  | 0, r => r
  | k + 1, r => rootBits e n k (if (r + 2 ^ k) ^ e ≤ n then r + 2 ^ k else r)

/-- The first 32 bits of the fractional part of the `e`-th root of `n`. -/
def rootFrac (e n : Nat) : Word := BitVec.ofNat 32 (rootBits e (n * 2 ^ (32 * e)) 37 0)

/-- The 64 primes below 312. -/
def shaPrimes : List Nat :=
  (List.range 312).filter (fun n => decide (2 ≤ n) && (List.range n).all (fun d => decide (d < 2) || n % d != 0))

/-- The exclusive-OR of a word's rotations. -/
def rotSum (w : Word) (by_ : List Nat) : Word := (by_.map w.rotateRight).foldl (· ^^^ ·) 0

/-- A message block's 16 words extended by `n` more, each from the ones 2, 7, 15 and 16 places back; `w` is held newest
first. -/
def shaSchedule (n : Nat) (w : List Word) : List Word :=
  n.repeat (fun w =>
    let back (k : Nat) : Word := w.getD (k - 1) 0
    (back 16 + back 7 + (rotSum (back 15) [7, 18] ^^^ (back 15 >>> 3)) +
      (rotSum (back 2) [17, 19] ^^^ (back 2 >>> 10))) :: w) w

/-- A round: the working words shift by one place, and the first and the fifth take in the round's key. -/
def shaMix (v : List Word) (key : Word) : List Word :=
  let x (i : Nat) : Word := v.getD i 0
  let chosen := x 6 ^^^ (x 4 &&& (x 5 ^^^ x 6))
  let agreed := (x 0 &&& x 1) ||| (x 2 &&& (x 0 ||| x 1))
  let t := key + x 7 + chosen + rotSum (x 4) [6, 11, 25]
  ((t + agreed + rotSum (x 0) [2, 13, 22]) :: v.take 7).set 4 (x 3 + t)

/-- One compression: the state and 64 bytes of message. -/
def shaBlock (h : List Word) (blk : List Byte) : List Word :=
  let first := (chunksOf 4 blk).map (fun q => BitVec.ofNat 32 (leNat q.reverse))
  let keys := List.zipWith (fun p w => rootFrac 3 p + w) shaPrimes (shaSchedule 48 first.reverse).reverse
  List.zipWith (· + ·) h (keys.foldl shaMix h)

/-- SHA-256 of a message: 32 bytes. -/
def sha256 (m : List Byte) : List Byte :=
  let filled := m ++ [0x80] ++ List.replicate ((119 - m.length % 64) % 64) 0 ++ toBe 8 (8 * m.length)
  ((chunksOf 64 filled).foldl shaBlock ((shaPrimes.take 8).map (rootFrac 2))).flatMap (fun w => toBe 4 w.toNat)

end Sys2Proof.Machine
end

