-- ==== Sys2Proof/Machine/Arith.lean ====
section
/-! DEFINITION. Formats and arithmetic (spec 03): FP32, BF16 and FP64 values computed exactly and rounded
once, Microscaling blocks, exact-mode integers, wire partials, checksums and digest images. -/

namespace Sys2Proof.Machine

/-! ### Values -/

/-- A number as the datapaths see it: NaN, an infinity, or ± mag · 2^e exactly. -/
inductive Fv where
  | nan
  | inf (neg : Bool)
  | fin (neg : Bool) (mag : Nat) (e : Int)
deriving DecidableEq, Repr

/-- A binary format: significand bits (hidden bit included) and exponent bits. -/
structure Fmt where
  p : Nat
  eb : Nat
deriving DecidableEq, Repr

def fp32 : Fmt := { p := 24, eb := 8 }
def bf16 : Fmt := { p := 8, eb := 8 }
def fp64 : Fmt := { p := 53, eb := 11 }

def Fmt.bias (f : Fmt) : Nat := 2 ^ (f.eb - 1) - 1

/-- Bits to value. Subnormals read as zero of their sign (03 R58). -/
def Fmt.decode (f : Fmt) (b : Nat) : Fv :=
  let m := b % 2 ^ (f.p - 1)
  let x := b / 2 ^ (f.p - 1) % 2 ^ f.eb
  let neg := b / 2 ^ (f.p - 1 + f.eb) % 2 = 1
  if x = 2 ^ f.eb - 1 then (if m = 0 then .inf neg else .nan)
  else if x = 0 then .fin neg 0 0
  else .fin neg (2 ^ (f.p - 1) + m) ((x : Int) - f.bias - (f.p - 1 : Nat))

/-- Nearest integer to n / 2^s, ties to even (03 R60). -/
def rneShift (n s : Nat) : Nat :=
  let q := n / 2 ^ s
  let r := n % 2 ^ s
  if s = 0 then n
  else if 2 * r < 2 ^ s then q
  else if 2 ^ s < 2 * r then q + 1
  else q + q % 2

/-- Nearest integer to v / 2^s, ties to even, for a signed v: the `rne` of 09 R243 and R246. -/
def rneInt (v : Int) (s : Nat) : Int :=
  if v < 0 then - (rneShift v.natAbs s : Int) else rneShift v.natAbs s

def signBit (f : Fmt) (neg : Bool) : Nat := if neg then 2 ^ (f.p - 1 + f.eb) else 0

/-- Canonical quiet NaN (03 R59). -/
def Fmt.qnan (f : Fmt) : Nat := (2 ^ f.eb - 1) * 2 ^ (f.p - 1) + 2 ^ (f.p - 2)

/-- Infinity of a sign. -/
def Fmt.infBits (f : Fmt) (neg : Bool) : Nat := signBit f neg + (2 ^ f.eb - 1) * 2 ^ (f.p - 1)

/-- Value to bits: one rounding to the full significand with no lower exponent limit, then zero below the
normal range (03 R58) and infinity above it (03 R60). -/
def Fmt.encode (f : Fmt) : Fv → Nat
  | .nan => f.qnan
  | .inf neg => f.infBits neg
  | .fin neg mag e =>
    if mag = 0 then signBit f neg
    else
      let s := Nat.log2 mag + 1 - f.p
      let q := rneShift mag s
      let t : Int := Nat.log2 q + e + s
      if t < 1 - (f.bias : Int) then signBit f neg
      else if (f.bias : Int) < t then f.infBits neg
      else
        let m := if Nat.log2 q < f.p then q * 2 ^ (f.p - 1 - Nat.log2 q) else q / 2 ^ (Nat.log2 q + 1 - f.p)
        signBit f neg + (t + f.bias).toNat * 2 ^ (f.p - 1) + (m - 2 ^ (f.p - 1))

def Fv.isNonfin : Fv → Bool
  | .fin .. => false
  | _ => true

def Fv.neg : Fv → Fv
  | .nan => .nan
  | .inf n => .inf (!n)
  | .fin n m e => .fin (!n) m e

/-- The signed significand of a finite value. -/
def sInt (neg : Bool) (m : Nat) : Int := if neg then - (m : Int) else m

/-- A value from a signed integer times a power of two; `negZero` is the sign of a zero. -/
def Fv.ofInt (v : Int) (e : Int) (negZero : Bool) : Fv :=
  if v = 0 then .fin negZero 0 0 else .fin (decide (v < 0)) v.natAbs e

/-- Exact sum. Zeros of opposite sign, and exact cancellation, give +0. -/
def Fv.add : Fv → Fv → Fv
  | .nan, _ => .nan
  | _, .nan => .nan
  | .inf a, .inf b => if a = b then .inf a else .nan
  | .inf a, _ => .inf a
  | _, .inf b => .inf b
  | .fin n m e, .fin n' m' e' =>
    let lo := min e e'
    .ofInt (sInt n m * 2 ^ (e - lo).toNat + sInt n' m' * 2 ^ (e' - lo).toNat) lo (n && n' && m == 0 && m' == 0)

/-- Exact product. ∞ × 0 is NaN (03 Table 3.10). -/
def Fv.mul : Fv → Fv → Fv
  | .nan, _ => .nan
  | _, .nan => .nan
  | .inf a, .inf b => .inf (a != b)
  | .inf a, .fin n m _ => if m = 0 then .nan else .inf (a != n)
  | .fin n m _, .inf b => if m = 0 then .nan else .inf (n != b)
  | .fin n m e, .fin n' m' e' => .fin (n != n') (m * m') (if m * m' = 0 then 0 else e + e')

/-- Quotient, carried to `p` + 3 bits with the remainder folded into the lowest bit, so that one rounding
to `p` bits is correct. -/
def Fv.div (p : Nat) : Fv → Fv → Fv
  | .nan, _ => .nan
  | _, .nan => .nan
  | .inf _, .inf _ => .nan
  | .inf a, .fin n _ _ => .inf (a != n)
  | .fin n _ _, .inf b => .fin (n != b) 0 0
  | .fin n m e, .fin n' m' e' =>
    if m' = 0 then (if m = 0 then .nan else .inf (n != n'))
    else
      let k := p + 3 + Nat.log2 m'
      let q := m * 2 ^ k / m'
      let r := m * 2 ^ k % m'
      .fin (n != n') (2 * q + (if r = 0 then 0 else 1)) (if m = 0 then 0 else e - e' - k - 1)

/-- ⌊√n⌋ by bits, from bit `k` down. -/
def isqrtFrom : Nat → Nat → Nat → Nat
  | 0, n, r => if (r + 1) * (r + 1) ≤ n then r + 1 else r
  | k + 1, n, r =>
    let c := r + 2 ^ (k + 1)
    isqrtFrom k n (if c * c ≤ n then c else r)

def isqrt (n : Nat) : Nat := isqrtFrom (Nat.log2 n / 2 + 1) n 0

/-- Square root, carried with a sticky bit so that one rounding to `p` bits is correct. -/
def Fv.sqrt (p : Nat) : Fv → Fv
  | .nan => .nan
  | .inf n => if n then .nan else .inf false
  | .fin n m e =>
    if m = 0 then .fin n 0 0
    else if n then .nan
    else
      let k := 2 * (p + 2) + (if e % 2 = 0 then 0 else 1)
      let v := m * 2 ^ k
      let r := isqrt v
      .fin false (2 * r + (if r * r = v then 0 else 1)) ((e - k) / 2 - 1)

/-! ### FP32 operations: each rounds once (03 R60, 10 R263) -/

/-- FP32 value of stored bits, flushed by 03 R58. -/
def f32 (w : Word) : Fv := fp32.decode w.toNat
def toF32 (v : Fv) : Word := BitVec.ofNat 32 (fp32.encode v)

def fadd (a b : Word) : Word := toF32 ((f32 a).add (f32 b))
def fmul (a b : Word) : Word := toF32 ((f32 a).mul (f32 b))
def ffma (a b c : Word) : Word := toF32 (((f32 a).mul (f32 b)).add (f32 c))
def fdiv (a b : Word) : Word := toF32 (Fv.div 24 (f32 a) (f32 b))
def fsqrt (a : Word) : Word := toF32 (Fv.sqrt 24 (f32 a))
def fneg (a : Word) : Word := toF32 (f32 a).neg

/-- sign(x), with sign(0) = 0 (10 R264). -/
def fsign (a : Word) : Word :=
  match f32 a with
  | .nan => 0x7FC00000
  | .inf n => if n then 0xBF800000 else 0x3F800000
  | .fin n m _ => if m = 0 then 0 else if n then 0xBF800000 else 0x3F800000

/-- Is the FP32 value a NaN or an infinity? -/
def isNonfin (a : Word) : Bool := (f32 a).isNonfin

/-- FP32 to BF16 bits and back (03 Table 3.6). -/
def toBf16 (a : Word) : Nat := bf16.encode (f32 a)
def ofBf16 (b : Nat) : Word := toF32 (bf16.decode b)

/-! ### FP64 operations for Pewter's constants (10 R264) -/

def f64 (w : BitVec 64) : Fv := fp64.decode w.toNat
def toF64 (v : Fv) : BitVec 64 := BitVec.ofNat 64 (fp64.encode v)
def dadd (a b : BitVec 64) : BitVec 64 := toF64 ((f64 a).add (f64 b))
def dmul (a b : BitVec 64) : BitVec 64 := toF64 ((f64 a).mul (f64 b))
def dsub (a b : BitVec 64) : BitVec 64 := toF64 ((f64 a).add (f64 b).neg)
def ddiv (a b : BitVec 64) : BitVec 64 := toF64 (Fv.div 53 (f64 a) (f64 b))
def dsqrt (a : BitVec 64) : BitVec 64 := toF64 (Fv.sqrt 53 (f64 a))
def widen (a : Word) : BitVec 64 := toF64 (f32 a)
def narrow (a : BitVec 64) : Word := toF32 (f64 a)
def dOfNat (n : Nat) : BitVec 64 := toF64 (.fin false n 0)
def dOne : BitVec 64 := dOfNat 1

/-! ### Microscaling (03 R54 to R57, R61, R62) -/

/-- The element types, by format code (03 Table 3.2): 2 E2M3, 3 E3M2, 4 E2M1. -/
def isMx (c : Nat) : Bool := c == 2 || c == 3 || c == 4

/-- Element width, fraction bits m, exponent offset f (03 Table 3.8), exponent e of the largest code (R61). -/
def mxW (c : Nat) : Nat := if c = 4 then 4 else 6
def mxM (c : Nat) : Nat := if c = 4 then 1 else if c = 2 then 3 else 2
def mxF (c : Nat) : Nat := if c = 4 then 1 else if c = 2 then 3 else 4
def mxE (c : Nat) : Nat := if c = 3 then 4 else 2

/-- Largest right shift a block can need in a full hall (03 Table 3.8). -/
def mxShift (c : Nat) : Nat := if c = 4 then 3 else if c = 2 then 5 else 8

/-- Integer of a code without its sign (03 Table 3.8). -/
def mxMag (c code : Nat) : Nat :=
  let mb := mxM c
  let m := code % 2 ^ mb
  let e := code / 2 ^ mb % 2 ^ (mxW c - 1 - mb)
  if e = 0 then m else (2 ^ mb + m) * 2 ^ (e - 1)

def mxNeg (c code : Nat) : Bool := code / 2 ^ (mxW c - 1) % 2 = 1

/-- The signed integer of a code (03 R65). -/
def mxInt (c code : Nat) : Int := sInt (mxNeg c code) (mxMag c code)

/-- A block: its scale byte and its 32 codes. -/
abbrev Block := Nat × List Nat

/-- The exact value of a code at a scale; scale 0xFF is NaN (03 R54, R55). -/
def mxVal (c s code : Nat) : Fv :=
  if s = 0xFF then .nan else .fin (mxNeg c code) (mxMag c code) ((s : Int) - 127 - mxF c)

/-- Is (a · 2^e) · 2 below b? (comparison of dyadic numbers) -/
def dyLt (a : Nat) (e : Int) (b : Nat) : Bool :=
  if 0 ≤ e then decide (2 * a * 2 ^ e.toNat < b) else decide (2 * a < b * 2 ^ (-e).toNat)

def dyEq (a : Nat) (e : Int) (b : Nat) : Bool :=
  if 0 ≤ e then decide (2 * a * 2 ^ e.toNat = b) else decide (2 * a = b * 2 ^ (-e).toNat)

/-- The code, without sign, nearest to a · 2^e units of the smallest step, from code `k` up: ties to even,
the largest code above the range (03 R62). -/
def mxNearest (c a : Nat) (e : Int) : Nat → Nat → Nat
  | 0, k => k
  | n + 1, k =>
    let mid := mxMag c k + mxMag c (k + 1)
    if dyLt a e mid || (dyEq a e mid && k % 2 == 0) then k else mxNearest c a e n (k + 1)

/-- One element at scale `s` by 03 R62, and whether its quotient exceeded the largest magnitude. A
non-finite element gives code 0. -/
def mxEncode (c s : Nat) : Fv → Nat × Bool
  | .fin neg mag e =>
    let top := 2 ^ (mxW c - 1) - 1
    let e' := e + 127 - (s : Int) + mxF c
    let k := mxNearest c mag e' top 0
    (k + (if neg then 2 ^ (mxW c - 1) else 0),
     !(dyLt mag e' (2 * mxMag c top)) && !(dyEq mag e' (2 * mxMag c top)))
  | _ => (0, false)

/-- ⌊log2⌋ of the largest finite magnitude, none when every finite value is zero. -/
def maxLog (vs : List Fv) : Option Int :=
  vs.foldl (fun acc v =>
    match v with
    | .fin _ m e =>
      if m = 0 then acc
      else match acc with
        | none => some (Nat.log2 m + e)
        | some t => some (max t (Nat.log2 m + e))
    | _ => acc) none

/-- The scale 03 R61 chooses. -/
def mxScale (c : Nat) (vs : List Fv) : Nat :=
  if vs.any Fv.isNonfin then 0xFF
  else match maxLog vs with
    | none => 0
    | some t => (max 0 (min 0xFE (t - mxE c + 127))).toNat

/-- A block of 32 values converted at a chosen or a given scale (03 R61, R62). A non-finite value in the
block gives scale 0xFF and zero codes; at a chosen scale a block of zeros gives scale 0 and zero codes. -/
def mxBlock (c : Nat) (given : Option Nat) (vs : List Fv) : Block :=
  let vs := padTo 32 (.fin false 0 0) vs
  if vs.any Fv.isNonfin then (0xFF, List.replicate 32 0)
  else if given.isNone && (maxLog vs).isNone then (0, List.replicate 32 0)
  else
    let s := given.getD (mxScale c vs)
    (s, vs.map (fun v => (mxEncode c s v).1))

/-- Bit field packing of 03 R56: element j at bits [w·j + w − 1 : w·j]. -/
def packCodes (w : Nat) (codes : List Nat) : Nat :=
  codes.foldr (fun c acc => c % 2 ^ w + 2 ^ w * acc) 0

/-- Block image (03 R56): the scale byte, then the codes. -/
def blockImage (c : Nat) (b : Block) : List Byte :=
  BitVec.ofNat 8 b.1 :: toLe (4 * mxW c) (packCodes (mxW c) b.2)

/-- Bytes of one block image: 17 or 25. -/
def blockBytes (c : Nat) : Nat := 1 + 4 * mxW c

/-- Block of a block image. -/
def ofBlockImage (c : Nat) (bs : List Byte) : Block :=
  let v := leNat (bs.drop 1)
  ((bs.getD 0 0).toNat, (List.range 32).map (fun j => v / 2 ^ (mxW c * j) % 2 ^ mxW c))

/-- Bytes of one element in the float formats. -/
def elemBytes (c : Nat) : Nat := if c = 0 then 4 else 2

/-- Bytes of an array of n elements in a format, in whole blocks for MX. -/
def arrayBytes (c n : Nat) : Nat := if isMx c then cdiv n 32 * blockBytes c else n * elemBytes c

/-- The exact values of an array image (whole blocks; 03 R55, R58). -/
def decodeArr (c : Nat) (bs : List Byte) : List Fv :=
  if isMx c then
    (chunksOf (blockBytes c) bs).flatMap (fun b =>
      let blk := ofBlockImage c b
      blk.2.map (mxVal c blk.1))
  else if c = 0 then (chunksOf 4 bs).map (fun b => fp32.decode (leNat b))
  else (chunksOf 2 bs).map (fun b => bf16.decode (leNat b))

/-- The image of a list of values in a format (03 R60 to R62); blocks of 32 in list order. -/
def encodeArr (c : Nat) (given : Option Nat) (vs : List Fv) : List Byte :=
  if isMx c then (chunksOf 32 vs).flatMap (fun b => blockImage c (mxBlock c given b))
  else if c = 0 then vs.flatMap (fun v => toLe 4 (fp32.encode v))
  else vs.flatMap (fun v => toLe 2 (bf16.encode v))

/-- Elements of the values that 03 R62 clamps when the image is made. -/
def countClamped (c : Nat) (given : Option Nat) (vs : List Fv) : Nat :=
  if isMx c then
    (chunksOf 32 vs).foldl (fun n b =>
      let b := padTo 32 (.fin false 0 0) b
      if b.any Fv.isNonfin then n
      else n + (b.filter (fun v => (mxEncode c (given.getD (mxScale c b)) v).2)).length) 0
  else 0

/-! ### Exact mode (03 R65 to R69, 09 R240 to R246) -/

/-- A block of accumulators or wire-partial integers with its scale. -/
abbrev IBlock := Nat × List Int

/-- Σ (i + 1) · u_i mod 2^32 from weight `i + 1` on (09 R240). -/
def csumFrom : Nat → List Int → Int
  | _, [] => 0
  | i, u :: us => (i + 1 : Nat) * u + csumFrom (i + 1) us

def csum (us : List Int) : Word := BitVec.ofInt 32 (csumFrom 0 us)

/-- A contribution block as integers (03 R65): the scale byte as received and the 32 integers. -/
def contribBlock (c : Nat) (b : Block) : IBlock := (b.1, b.2.map (mxInt c))

/-- Does a contribution block fail 03 R68 at agreed scale `a`? -/
def contribBad (a : Nat) (b : IBlock) : Bool := b.1 != a && b.1 != 0xFF

/-- Does a wire-partial block fail 03 R68? -/
def wireBad (a : Nat) (b : IBlock) : Bool := b.1 < a || b.2.any (fun p => p == -32768)

/-- Units of A of a block's integers (09 R240): taken as they stand where the block fails R68, else zero at scale 0xFF and
shifted by S − A at others. -/
def unitsOf (a : Nat) (bad : Bool) (b : IBlock) : List Int :=
  if bad then b.2
  else if b.1 = 0xFF then b.2.map (fun _ => 0)
  else b.2.map (fun p => p * 2 ^ (b.1 - a))

/-- The block's scale as an input of a node: A where the block fails R68 (03 R68). -/
def inScale (a : Nat) (bad : Bool) (b : IBlock) : Nat := if bad then a else b.1

/-- The integers of a segment of `n` elements, with its filler taken as zeros (03 R57). -/
def maskFill (n : Nat) (bs : List IBlock) : List IBlock :=
  bs.mapIdx (fun i b => (b.1, b.2.mapIdx (fun j v => if 32 * i + j < n then v else 0)))

/-- Wire-partial blocks of a payload (03 R67): 65 bytes each. -/
def wireBlocks (bs : List Byte) : List IBlock :=
  (chunksOf 65 bs).map (fun b =>
    ((b.getD 0 0).toNat, (List.range 32).map (fun j => toSigned 16 (fld b (1 + 2 * j) 2))))

/-- Their image. -/
def wireImage (bs : List IBlock) : List Byte :=
  bs.flatMap (fun b =>
    BitVec.ofNat 8 b.1 :: b.2.flatMap (fun p => toLe 2 (BitVec.ofInt 16 p).toNat))

/-- The shift of 09 R243, from `d` up; `fuel` bounds it by the largest shift of a 32-bit accumulator. -/
def rescaleShift (acc : List Int) : Nat → Nat → Nat
  | 0, d => d
  | n + 1, d => if acc.any (fun v => decide (32767 < (rneInt v d).natAbs)) then rescaleShift acc n (d + 1) else d

/-- A node's output block from its accumulators in units of A (09 R243, R245); true where the scale would
exceed 0xFE. -/
def rescaleBlock (a sIn : Nat) (acc : List Int) : IBlock × Bool :=
  if sIn = 0xFF then ((0xFF, acc.map (fun _ => 0)), false)
  else
    let d := rescaleShift acc 32 (sIn - a)
    if 0xFE < a + d then ((0xFF, acc.map (fun _ => 0)), true)
    else ((a + d, acc.map (fun v => rneInt v d)), false)

/-- The root's block at final scale F: accumulators rounded once to units of F (09 R246). -/
def rootBlock (a f : Nat) (acc : List Int) : IBlock :=
  if f = 0xFF then (0xFF, acc.map (fun _ => 0)) else (f, acc.map (fun v => rneInt v (f - a)))

/-- An accumulator in units of scale s, to FP32 (03 R69). -/
def accToF32 (c s : Nat) (v : Int) : Word :=
  if s = 0xFF then 0x7FC00000 else toF32 (.ofInt v ((s : Int) - 127 - mxF c) false)

/-- The accumulator integer image of a block (03 Table 3.12): scale, three zero bytes, 32 integers. -/
def accImage (b : IBlock) : List Byte :=
  BitVec.ofNat 8 b.1 :: 0 :: 0 :: 0 :: b.2.flatMap (fun v => toLe 4 (BitVec.ofInt 32 v).toNat)

/-! ### Float mode (03 R70, R71) -/

/-- Sum in list order, the first taken as it stands (03 R70). -/
def sumRun : List Word → Word
  | [] => 0
  | x :: xs => xs.foldl fadd x

/-- Lengths of the q runs of n inputs (03 R71): earlier runs one longer. -/
def runLens (n q : Nat) : List Nat := (List.range q).map (fun j => n / q + (if j < n % q then 1 else 0))

/-- The run that holds place `i` of n inputs in q runs (03 R71). -/
def runOf (n q i : Nat) : Nat :=
  ((List.range q).filter (fun j => decide (((runLens n q).take (j + 1)).foldl (· + ·) 0 ≤ i))).length

/-- A list cut into consecutive runs of the given lengths. -/
def cutRuns {α : Type} : List Nat → List α → List (List α)
  | [], _ => []
  | n :: ns, l => l.take n :: cutRuns ns (l.drop n)

/-- Run sums added in order of their first key; empty runs are left out (03 R71, 09 R249). -/
def sumRuns (runs : List (List Word)) : Word := sumRun ((runs.filter (fun r => !r.isEmpty)).map sumRun)

/-! ### Dot products on the Steel tiles (03 R63, 11 R296, R297) -/

/-- tree(lo, n) of 11 R297 over a list: the first 2^(⌈log2 n⌉ − 1) against the rest. -/
def treeSum : Nat → List Word → Word
  | _, [] => 0
  | _, [x] => x
  | 0, x :: _ => x
  | f + 1, xs =>
    let h := 2 ^ (clog2 xs.length - 1)
    fadd (treeSum f (xs.take h)) (treeSum f (xs.drop h))

/-- Rounded mode: each product rounded, summed by the balanced tree. -/
def dotRounded (xs ys : List Fv) : Word :=
  let ps := (xs.zip ys).map (fun p => toF32 (p.1.mul p.2))
  treeSum (clog2 ps.length + 1) ps

/-- One group of 32 products in aligned-exact mode: aligned with bit 56 at the leading bit of the largest
product, truncated toward zero below bit 0, summed, rounded once. -/
def groupExact (ps : List Fv) : Word :=
  if ps.any (fun p => p == .nan) then 0x7FC00000
  else if ps.any Fv.isNonfin then toF32 ((ps.filter Fv.isNonfin).foldl Fv.add (.fin false 0 0))
  else match maxLog ps with
    | none => 0
    | some t =>
      let u := t - 56
      let sum := ps.foldl (fun (acc : Int) p =>
        match p with
        | .fin n m e => acc + sInt n (if u ≤ e then m * 2 ^ (e - u).toNat else m / 2 ^ (u - e).toNat)
        | _ => acc) 0
      toF32 (.ofInt sum u false)

/-- Aligned-exact mode over a slab: groups of 32 from its first index, added in ascending order. -/
def dotExact (xs ys : List Fv) : Word :=
  sumRun ((chunksOf 32 ((xs.zip ys).map (fun p => p.1.mul p.2))).map groupExact)

/-- S and L of the K-split (11 R296), searching from s0 = `s` down. -/
def kSplitFrom (k : Nat) : Nat → Nat × Nat
  | 0 => (256 * cdiv k 256, 1)
  | s + 1 =>
    let l := 256 * cdiv k (256 * (s + 1))
    let n := cdiv k l
    if n ≤ 1 || clog2 l + clog2 n ≤ clog2 k then (l, n) else kSplitFrom k s

/-- (L, S) for contraction length K with T tiles in service. -/
def kSplit (k t : Nat) : Nat × Nat := kSplitFrom k (max 1 (t / 8))

/-- A dot product of length K split over T tiles, its slabs combined by the tree (11 R297). -/
def dotSplit (exact : Bool) (t : Nat) (xs ys : List Fv) : Word :=
  let l := (kSplit xs.length t).1
  let slabs := (chunksOf l xs).zip (chunksOf l ys)
  let sums := slabs.map (fun p => if exact then dotExact p.1 p.2 else dotRounded p.1 p.2)
  treeSum (clog2 sums.length + 1) sums

/-- out := fma(α, p, rn(β × c)) with an addend, rn(α × p) without; α = 1 skips the multiplication (11 R297). -/
def epilogue (alpha p : Word) (addend : Option (Word × Fv)) : Word :=
  match addend with
  | some (beta, c) =>
    let bc := toF32 ((f32 beta).mul c)
    if alpha = 0x3F800000 then fadd p bc else ffma alpha p bc
  | none => if alpha = 0x3F800000 then p else fmul alpha p

/-- The product of a left operand given by rows and a right operand given by columns. -/
def product (exact : Bool) (t : Nat) (alpha : Word) (left right : List (List Fv))
    (addend : Nat → Nat → Option (Word × Fv)) : List (List Word) :=
  left.mapIdx (fun i row => right.mapIdx (fun j col =>
    epilogue alpha (dotSplit exact t row col) (addend i j)))

/-- Rows of a row-major list. -/
def rowsOf {α : Type} (cols : Nat) (l : List α) : List (List α) := chunksOf cols l

/-- The transpose of a matrix of `n` columns given by rows. -/
def transpose {α : Type} (d : α) (n : Nat) (m : List (List α)) : List (List α) :=
  (List.range n).map (fun j => m.map (fun r => r.getD j d))

/-- A run of values as a Steel operand in format `c` along it: MX by 03 R61 and R62 in blocks of 32, BF16
by R60 (11 R300). -/
def operand (c : Nat) (vs : List Fv) : List Fv :=
  (decodeArr c (encodeArr c none vs)).take vs.length

end Sys2Proof.Machine
end

