-- ==== Sys2Proof/Machine/Rs.lean ====
section
/-! DEFINITION. Reed–Solomon codes over GF(2^m): the lane code RS(542, 512) of 05 R109 and the memory code RS(36, 32)
of 12 R326. A codeword is its list of symbols, the one of the highest power first; symbols are numbers below 2^m. -/

namespace Sys2Proof.Machine

/-- A field GF(2^m): m, and its primitive polynomial as a number. -/
structure Gf where
  m : Nat
  poly : Nat
deriving DecidableEq, Repr

/-- The field of 05 R109: x^10 + x^3 + 1. -/
def gf10 : Gf := { m := 10, poly := 0x409 }
/-- The field of 12 R326: x^8 + x^4 + x^3 + x^2 + 1. -/
def gf8 : Gf := { m := 8, poly := 0x11D }

/-- α times an element. -/
def Gf.double (f : Gf) (a : Nat) : Nat := if 2 * a < 2 ^ f.m then 2 * a else (2 * a) ^^^ f.poly

/-- `acc` plus the product of `a` and the low `n` bits of `b`. -/
def Gf.mulAcc (f : Gf) : (n a b acc : Nat) → Nat
  | 0, _, _, acc => acc
  | n + 1, a, b, acc => f.mulAcc n (f.double a) (b / 2) (if b % 2 = 1 then acc ^^^ a else acc)

def Gf.mul (f : Gf) (a b : Nat) : Nat := f.mulAcc f.m a b 0

/-- α^n. -/
def Gf.alpha (f : Gf) : Nat → Nat
  | 0 => 1
  | n + 1 => f.double (f.alpha n)

/-- The inverse of a nonzero element, its power 2^m − 2: the product of its squares' powers a^2, a^4, … -/
def Gf.inv (f : Gf) (a : Nat) : Nat :=
  ((List.range (f.m - 1)).foldl (fun (p : Nat × Nat) _ =>
    let q := f.mul p.1 p.1
    (q, f.mul p.2 q)) (a, 1)).2

/-- The value of a polynomial, highest power first, at `x`. -/
def Gf.eval (f : Gf) (c : List Nat) (x : Nat) : Nat := c.foldl (fun a s => f.mul a x ^^^ s) 0

/-- Π (x − α^i) for i below `n`, highest power first. -/
def Gf.gen (f : Gf) (n : Nat) : List Nat :=
  (List.range n).foldl (fun g i =>
    List.zipWith (fun a b => a ^^^ f.mul (f.alpha i) b) (g ++ [0]) (0 :: g)) [1]

/-- The `n` check symbols of a message: the remainder of d(x)·x^n modulo the generator. -/
def Gf.parity (f : Gf) (n : Nat) (d : List Nat) : List Nat :=
  let g := (f.gen n).drop 1
  d.foldl (fun r s =>
    let k := s ^^^ r.headD 0
    List.zipWith (fun a b => a ^^^ f.mul k b) (r.drop 1 ++ [0]) g) (List.replicate n 0)

/-- The codeword of a message. -/
def Gf.encode (f : Gf) (n : Nat) (d : List Nat) : List Nat := d ++ f.parity n d

/-- The syndromes: the values at α^0 to α^(n − 1). -/
def Gf.syndromes (f : Gf) (n : Nat) (c : List Nat) : List Nat := (List.range n).map (fun i => f.eval c (f.alpha i))

/-! ### Correction of up to n / 2 symbols -/

/-- The search for the error locator: locator and its last correction (lowest power first), degree, shift, and the last
discrepancy. -/
structure Locator where
  c : List Nat
  b : List Nat
  l : Nat
  sh : Nat
  bd : Nat

/-- Sum of two polynomials, lowest power first. -/
def polyAdd : List Nat → List Nat → List Nat
  | [], b => b
  | a, [] => a
  | x :: a, y :: b => (x ^^^ y) :: polyAdd a b

/-- One syndrome taken into the locator. -/
def Gf.locate (f : Gf) (syn : List Nat) (t : Locator) (n : Nat) : Locator :=
  let d := (List.range (t.l + 1)).foldl (fun a i =>
    if i ≤ n then a ^^^ f.mul (t.c.getD i 0) (syn.getD (n - i) 0) else a) 0
  if d = 0 then { t with sh := t.sh + 1 }
  else
    let k := f.mul d (f.inv t.bd)
    let c := polyAdd t.c (List.replicate t.sh 0 ++ t.b.map (f.mul k))
    if 2 * t.l ≤ n then { c := c, b := t.c, l := n + 1 - t.l, sh := 1, bd := d }
    else { t with c := c, sh := t.sh + 1 }

/-- A codeword corrected, and how many symbols were; none where no codeword lies within n / 2 symbols. -/
def Gf.correct (f : Gf) (n : Nat) (c : List Nat) : Option (List Nat × Nat) :=
  let syn := f.syndromes n c
  if syn.all (fun s => s == 0) then some (c, 0)
  else
    let t := (List.range n).foldl (f.locate syn) { c := [1], b := [1], l := 0, sh := 1, bd := 1 }
    let lam := t.c.take (t.l + 1)
    -- error evaluator: syndromes times locator, below x^n
    let om := (List.range n).map (fun i =>
      (List.range (i + 1)).foldl (fun a j => a ^^^ f.mul (lam.getD j 0) (syn.getD (i - j) 0)) 0)
    let der := (List.range t.l).map (fun i => if i % 2 = 0 then lam.getD (i + 1) 0 else 0)
    -- the symbol of power k is in error where the locator vanishes at α^−k
    let fix (k s : Nat) : Nat × Bool :=
      let x := f.alpha k
      let y := f.inv x
      if f.eval lam.reverse y = 0 then (s ^^^ f.mul x (f.mul (f.eval om.reverse y) (f.inv (f.eval der.reverse y))), true)
      else (s, false)
    let out := c.mapIdx (fun i s => fix (c.length - 1 - i) s)
    let r := out.map (fun p => p.1)
    let hits := (out.filter (fun p => p.2)).length
    if t.l ≤ n / 2 && hits == t.l && (f.syndromes n r).all (fun s => s == 0) then some (r, hits) else none

/-! ### The memory code (12 R326, R328) -/

/-- What the corrector of a base die makes of the 36 bytes of a codeword: the data as corrected, and the byte that was
wrong; none where the syndromes do not point to a single byte of the 36. -/
def eccDecode (w : List Byte) : Option (List Byte × Option Nat) :=
  match gf8.syndromes 4 (w.map (fun b => b.toNat)) with
  | [s0, s1, s2, s3] =>
    if s0 = 0 && s1 = 0 && s2 = 0 && s3 = 0 then some (w.take 32, none)
    else
      match (List.range 36).find? (fun i =>
          let x := gf8.alpha (35 - i)
          s0 != 0 && gf8.mul s0 x == s1 && gf8.mul s1 x == s2 && gf8.mul s2 x == s3) with
      | some i => some ((w.set i (w.getD i 0 ^^^ BitVec.ofNat 8 s0)).take 32, some i)
      | none => none
  | _ => none

/-- The 36 bytes that store 32 data bytes; a poisoned codeword has check bytes 32 and 33 inverted (12 R328). -/
def eccEncode (poison : Bool) (d : List Byte) : List Byte :=
  let c := (gf8.parity 4 (d.map (fun b => b.toNat))).map (fun n => BitVec.ofNat 8 n)
  d ++ c.mapIdx (fun i b => if poison && decide (i < 2) then ~~~b else b)

/-- The data line that an error within one 4-bit symbol lies on (12 R316, R326): symbol 2i is bits [3:0] of byte i. -/
def eccLine (i : Nat) (e : Byte) : Option Nat :=
  if e &&& 0xF0 = 0 then some (2 * i) else if e &&& 0x0F = 0 then some (2 * i + 1) else none

/-- What the corrector finds in one codeword of a row (12 R326 to R328): nothing, an error it corrects (with the data
line, where the error lies on one), or an error it cannot correct. -/
inductive Codeword where
  | clean
  | corrected (line : Option (BitVec 7))
  | uncorrectable
deriving DecidableEq, Repr

/-- The corrector's finding in the 36 bytes of a codeword: the first syndrome is the error in the byte that the syndromes point
to. -/
def codewordOf (w : List Byte) : Codeword :=
  match eccDecode w with
  | none => .uncorrectable
  | some (_, none) => .clean
  | some (_, some i) =>
    .corrected ((eccLine i (BitVec.ofNat 8 ((gf8.syndromes 4 (w.map (fun b => b.toNat))).headD 0))).map (BitVec.ofNat 7))

end Sys2Proof.Machine
end

