-- ==== Sys2Proof/Machine/Codec.lean ====
section
/-! DEFINITION. The byte layouts that links carry: flits (05 R123 to R125), LINK messages (05 Table 5.6), VC1 messages (04
Table 4.4, 06 Table 6.10, 10 Table 10.10, 14 Table 14.5), frame headers (06 Table 6.1) and framing words (05 R112). -/

namespace Sys2Proof.Machine

/-! ### Messages -/

/-- A count as messages carry it (04 R79): the fraction, then the nanoseconds. -/
def countBytes (c : Count) : List Byte := toLe 2 c.frac.toNat ++ toLe 8 c.ns.toNat

/-- A whole count. -/
def nsBytes (n : Nat) : List Byte := toLe 2 0 ++ toLe 8 n

/-- TYPE, byte 1 and SEQ of a VC1 message. -/
def ctlHead (typ b1 : Nat) (seq : BitVec 16) : List Byte := toLe 1 typ ++ toLe 1 b1 ++ toLe 2 seq.toNat

def timeBytes (typ : Nat) (m : TimeMsg) : List Byte :=
  ctlHead typ (b2n m.locked + 2 * b2n m.master + 4 * b2n m.hall) m.seq ++ [m.hops, 0] ++ toLe 2 m.source.toNat ++
    countBytes m.t1 ++ countBytes m.t2 ++ countBytes m.t3 ++ toLe 4 0 ++ toLe 2 m.candidate.toNat ++ List.replicate 20 0

def lateBytes (m : LateNotice) : List Byte :=
  ctlHead 0x03 0 m.seq ++ [m.ctx, 0] ++ toLe 2 m.source.toNat ++ nsBytes m.d.toNat ++ toLe 2 m.gen.toNat ++ toLe 8 0 ++
    nsBytes m.launch.toNat ++ toLe 4 m.collId.toNat ++ List.replicate 22 0

/-- EPOCH_CANCEL, EPOCH_GO and EPOCH_INFO; only the last carries LEN. -/
def epochBytes (typ : Nat) (m : EpochMsg) : List Byte :=
  ctlHead typ 0 m.seq ++ [m.ctx, 0] ++ toLe 2 m.source.toNat ++ nsBytes m.s.toNat ++ toLe 2 m.epoch.toNat ++
    toLe 2 (if typ = 0x33 then m.len.toNat else 0) ++ List.replicate 42 0

/-- ABORT_NOTICE, CTX_STOP and RESUME; CTX_STOP names no lost Fixus and RESUME carries no flags. -/
def noticeBytes (typ : Nat) (m : Notice) : List Byte :=
  ctlHead typ (if typ = 0x32 then 0 else m.flags.toNat) m.seq ++ [m.ctx, 0] ++ toLe 2 m.source.toNat ++
    nsBytes m.d.toNat ++ toLe 2 m.gen.toNat ++ toLe 2 (if typ = 0x31 then 0 else m.lost.toNat) ++ List.replicate 42 0

def flowBytes (typ : Nat) (m : FlowMsg) : List Byte :=
  ctlHead typ 0 m.seq ++ [0, 0] ++ toLe 2 m.source.toNat ++ toLe 2 m.target.toNat ++ toLe 2 m.src.toNat ++
    toLe 2 m.dest.toNat ++ [m.ctx] ++ toLe 1 m.vc.toNat ++ toLe 2 (if typ = 0x12 then m.last.toNat else 0) ++
    List.replicate 46 0

def returnBytes (typ : Nat) (m : ReturnMsg) : List Byte :=
  ctlHead typ 0 m.seq ++ [m.ctx, 0] ++ toLe 2 m.source.toNat ++ toLe 2 m.target.toNat ++ [0, 0] ++
    toLe 4 m.collId.toNat ++ toLe 4 (if typ = 0x21 then m.offset.toNat else 0) ++ List.replicate 44 0

/-- The 64 bytes of a VC1 message. -/
def ctlBytes : CtlMsg → List Byte
  | .timeReq m => timeBytes 0x01 m
  | .timeResp m => timeBytes 0x02 m
  | .lateNotice m => lateBytes m
  | .epochCancel m => epochBytes 0x04 m
  | .epochGo m => epochBytes 0x05 m
  | .epochInfo m => epochBytes 0x33 m
  | .abortNotice m => noticeBytes 0x30 m
  | .ctxStop m => noticeBytes 0x31 m
  | .resume m => noticeBytes 0x32 m
  | .flowGrant m => flowBytes 0x10 m
  | .flowDeny m => flowBytes 0x11 m
  | .flowClose m => flowBytes 0x12 m
  | .flowCloseAck m => flowBytes 0x13 m
  | .returnDone m => returnBytes 0x20 m
  | .returnResend m => returnBytes 0x21 m

/-- SOURCE of a VC1 message, and the message with its SEQ set; time messages number their own exchanges. -/
def ctlSource : CtlMsg → Option (BitVec 15)
  | .timeReq _ => none
  | .timeResp _ => none
  | .lateNotice m => some m.source
  | .epochCancel m => some m.source
  | .epochGo m => some m.source
  | .epochInfo m => some m.source
  | .abortNotice m => some m.source
  | .ctxStop m => some m.source
  | .resume m => some m.source
  | .flowGrant m => some m.source
  | .flowDeny m => some m.source
  | .flowClose m => some m.source
  | .flowCloseAck m => some m.source
  | .returnDone m => some m.source
  | .returnResend m => some m.source

def ctlSetSeq (q : BitVec 16) : CtlMsg → CtlMsg
  | .timeReq m => .timeReq m
  | .timeResp m => .timeResp m
  | .lateNotice m => .lateNotice { m with seq := q }
  | .epochCancel m => .epochCancel { m with seq := q }
  | .epochGo m => .epochGo { m with seq := q }
  | .epochInfo m => .epochInfo { m with seq := q }
  | .abortNotice m => .abortNotice { m with seq := q }
  | .ctxStop m => .ctxStop { m with seq := q }
  | .resume m => .resume { m with seq := q }
  | .flowGrant m => .flowGrant { m with seq := q }
  | .flowDeny m => .flowDeny { m with seq := q }
  | .flowClose m => .flowClose { m with seq := q }
  | .flowCloseAck m => .flowCloseAck { m with seq := q }
  | .returnDone m => .returnDone { m with seq := q }
  | .returnResend m => .returnResend { m with seq := q }

/-- The payload of a LINK flit (05 Table 5.6), before its padding to 240 bytes. -/
def linkBytes : LinkMsg → List Byte
  | .nak e => [0x01, 0, 0, 0] ++ toLe 2 e.toNat
  | .protocolViolation code n seq vc count =>
    [0x02, 0x20] ++ toLe 1 code ++ toLe 1 n ++ toLe 2 seq.toNat ++ toLe 1 vc.toNat ++ [0] ++ nsBytes count
  | .leave reason count => [0x03] ++ toLe 1 reason ++ toLe 6 0 ++ nsBytes count
  | .creditSync next lims =>
    [0x04, 0, 0, 0] ++ toLe 2 next.toNat ++ [0, 0] ++ lims.flatMap (fun l => toLe 2 l.1 ++ toLe 2 l.2)
  | .creditSyncAck next => [0x05, 0, 0, 0] ++ toLe 2 next.toNat
  | .retrainReq reason => [0x06] ++ toLe 1 reason

/-! ### Frames and flits -/

/-- The 32 bytes of a frame header (06 Table 6.1). -/
def hdrBytes (h : Header) : List Byte :=
  toLe 2 h.dest.toNat ++ toLe 2 h.src.toNat ++ [h.ftype, h.ctx] ++ toLe 2 h.gen.toNat ++ toLe 2 h.flowSeq.toNat ++
    toLe 2 h.frameLen.toNat ++
    toLe 1 (16 * b2n h.esc + 8 * b2n h.sched + 4 * b2n h.newflow + 2 * b2n h.single + b2n h.spray) ++ [h.hops] ++
    toLe 1 h.mcast.toNat ++ toLe 1 h.path.toNat ++ toLe 4 h.collId.toNat ++ toLe 4 h.offset.toNat ++ toLe 8 h.ts.toNat

/-- Every byte of a frame. -/
def frameBytes (f : Frame) : List Byte := hdrBytes f.hdr ++ f.payload

/-- The two words at the front of a flit (05 Table 5.5). -/
def flitWords (f : Flit) : List Byte :=
  toLe 4 (2 ^ 28 * f.typ.toNat + 2 ^ 24 * f.vc.toNat + 2 ^ 23 * b2n f.sof + 2 ^ 22 * b2n f.eof + 2 ^ 21 * b2n f.bad +
      2 ^ 13 * f.len.toNat + f.seq.toNat) ++
    toLe 4 (2 ^ 19 * f.ackSeq.toNat + 2 ^ 15 * f.crVc.toNat + 2 ^ 3 * f.crCount.toNat + f.rsv.toNat % 8)

/-- The 252 bytes that the CRC covers. -/
def flitBody (f : Flit) : List Byte :=
  flitWords f ++ padTo 240 0 (f.payload.take 240) ++ toLe 4 (f.rsv.toNat / 8)

/-- The 256 bytes of a flit: a bad frame's EOF flit carries the stomped CRC (05 R124, R125). -/
def flitBytes (f : Flit) : List Byte :=
  flitBody f ++ toLe 4 ((crc32c (flitBody f)).toNat ^^^ (if f.bad then 0xFFFFFFFF else 0))

/-- The fields of a flit's 256 bytes. -/
def flitFields (raw : List Byte) : Flit :=
  let a := fld raw 0 4
  let b := fld raw 4 4
  { typ := BitVec.ofNat 4 (bits a 31 28), vc := BitVec.ofNat 4 (bits a 27 24), sof := bit a 23, eof := bit a 22,
    bad := bit a 21, len := BitVec.ofNat 8 (bits a 20 13), seq := BitVec.ofNat 13 (bits a 12 0),
    ackSeq := BitVec.ofNat 13 (bits b 31 19), crVc := BitVec.ofNat 4 (bits b 18 15),
    crCount := BitVec.ofNat 12 (bits b 14 3), rsv := BitVec.ofNat 35 (bits b 2 0 + 8 * fld raw 248 4),
    payload := bytesAt raw 8 240 }

/-- The flit that 256 bytes carry, none where the CRC is bad: a set BAD wants the stomped CRC (05 R125). -/
def flitOf (raw : List Byte) : Option Flit :=
  let f := flitFields raw
  let c := (crc32c (bytesAt raw 0 252)).toNat ^^^ (if f.bad then 0xFFFFFFFF else 0)
  if raw.length = 256 && fld raw 252 4 = c then some f else none

/-- The flit that a port sends (05 R123): TYPE, LEN and payload from what it carries; a bad tail has its own (06 Table 6.6). -/
def txFlitOf (t : TxFlit) : Flit :=
  let base : Flit :=
    { typ := 0, vc := BitVec.ofNat 4 t.vc, sof := false, eof := false, bad := false, len := 0, seq := t.seq,
      ackSeq := t.ack, crVc := BitVec.ofNat 4 t.crVc, crCount := BitVec.ofNat 12 t.crCount, rsv := 0, payload := [] }
  match t.pay with
  | .idle => base
  | .link m => { base with typ := 3, payload := linkBytes m }
  | .ctl m => { base with typ := 2, len := 240, payload := ctlBytes m }
  | .data f _ k tail =>
    let bs := frameBytes f
    let last := decide (bs.length ≤ 240 * (k + 1))
    match tail with
    | some (len, pay) => { base with typ := 1, sof := k == 0, eof := true, bad := true, len := BitVec.ofNat 8 len, payload := pay }
    | none =>
      { base with typ := 1, sof := k == 0, eof := last,
                  len := BitVec.ofNat 8 (if last then max 1 (bs.length - 240 * k) else 240),
                  payload := bytesAt bs (240 * k) 240 }

/-! ### Framing words (05 R112, Table 5.2) -/

/-- The framing word of a lane: CHECK, SB_TYPE and SB (together `sb`), LANE_INDEX and PORT. -/
def framingWord (sb : BitVec 28) (lane port : Nat) : BitVec 40 :=
  let low := BitVec.ofNat 36 (2 ^ 8 * sb.toNat + 2 ^ 6 * (lane % 4) + port % 64)
  BitVec.ofNat 40 (2 ^ 36 * (crc4 low).toNat + low.toNat)

def wordOk (w : BitVec 40) : Bool := crc4 (BitVec.ofNat 36 (w.toNat % 2 ^ 36)) == BitVec.ofNat 4 (w.toNat / 2 ^ 36)

/-- SB_TYPE, SB, LANE_INDEX and PORT of a framing word. -/
def wordType (w : BitVec 40) : Nat := bits w.toNat 35 32
def wordSb (w : BitVec 40) : Nat := bits w.toNat 31 8
def wordLane (w : BitVec 40) : Nat := bits w.toNat 7 6
def wordPort (w : BitVec 40) : Nat := bits w.toNat 5 0

/-- The message of type `t` that a receiver acts on: the first that two consecutive blocks carry identically with a good
CHECK (05 R113). -/
def sideHeard (t : Nat) : List (BitVec 40) → Option (BitVec 40)
  | a :: b :: l => if a == b && wordOk a && wordType a == t then some a else sideHeard t (b :: l)
  | _ => none

/-- SB_TYPE and SB of a message (05 Table 5.3); PARAM and WIDTH_CHANGE take what the sender fills in. -/
def sideBits (param block : Nat) : SideMsg → BitVec 28
  | .fomReport _ fom => BitVec.ofNat 28 (2 ^ 24 * 1 + fom % 1024)
  | .txEqReq _ tap op => BitVec.ofNat 28 (2 ^ 24 * 2 + tap % 16 + 16 * (op % 4))
  | .param _ => BitVec.ofNat 28 (2 ^ 24 * 3 + param)
  | .widthChange mask _ => BitVec.ofNat 28 (2 ^ 24 * 4 + mask.toNat + 16 * (block % 2048))
  | .spareReq i => BitVec.ofNat 28 (2 ^ 24 * 5 + i % 4)
  | .spareDone i ok => BitVec.ofNat 28 (2 ^ 24 * 6 + i % 4 + 4 * b2n ok)
  | .ready _ ph => BitVec.ofNat 28 (2 ^ 24 * 7 + ph % 8)

end Sys2Proof.Machine
end

