-- ==== Sys2Proof/Machine/Phy.lean ====
section
/-! DEFINITION. What a lane puts on its balls (05 R107 to R111, R122): levels, the scrambler, blocks of four interleaved
codewords with their framing UI, and the dealing of a port's flit stream over its lanes. The order of the bits of a byte and
of a symbol, and which register bit of the scrambler comes out, are the model's (assumption log 117). -/

namespace Sys2Proof.Machine

/-- The level of a unit interval's two bits, the first the more significant (05 R107). -/
def pam4 (a b : Bool) : BitVec 2 :=
  match a, b with
  | false, false => 0
  | false, true => 1
  | true, true => 2
  | true, false => 3

/-- Bits taken two by two as levels. -/
def levels : List Bool → List (BitVec 2)
  | a :: b :: l => pam4 a b :: levels l
  | _ => []

/-- The `w` bits of a number, most significant first. -/
def bitsOf (w n : Nat) : List Bool := (List.range w).map (fun i => bit n (w - 1 - i))

/-- The number that bits stand for, most significant first. -/
def ofBits (l : List Bool) : Nat := l.foldl (fun n b => 2 * n + b2n b) 0

/-- The next bit of the scrambler's sequence x^31 + x^28 + 1, and its register after it (05 R110). -/
def scrStep (r : BitVec 31) : Bool × BitVec 31 :=
  let o := r.getLsbD 30 != r.getLsbD 27
  (o, (r <<< 1) ||| (if o then 1#31 else 0#31))

/-- Bits combined with the scrambler's sequence, and its register after them. -/
def scramble : BitVec 31 → List Bool → List Bool × BitVec 31
  | r, [] => ([], r)
  | r, b :: l =>
    let (o, r1) := scrStep r
    let (t, r2) := scramble r1 l
    ((b != o) :: t, r2)

/-- The scrambler's register at the first block of a frame, for lane `i` of its port. -/
def scrSeed (i : Nat) : BitVec 31 := BitVec.ofNat 31 (0x2B3C4D5E + i % 4)

/-- A codeword of 542 symbols from 640 bytes, each least significant bit first, and the scrambler's register after it. -/
def laneCodeword (r : BitVec 31) (bs : List Byte) : List Nat × BitVec 31 :=
  let (l, r) := scramble r (bs.flatMap (fun b => (bitsOf 8 b.toNat).reverse))
  (gf10.encode 30 ((chunksOf 10 l).map ofBits), r)

/-- Four lists taken in turn. -/
def inTurn : List Nat → List Nat → List Nat → List Nat → List Nat
  | a :: as, b :: bs, c :: cs, d :: ds => a :: b :: c :: d :: inTurn as bs cs ds
  | _, _, _, _ => []

/-- The 40 framing UI of a block: the marker, or one inner level for each bit of a framing word, bit 0 first (05 R111,
R112). -/
def markerLevels : List (BitVec 2) := (List.replicate 10 [3#2, 3#2, 0#2, 0#2]).flatten
def framingLevels (w : BitVec 40) : List (BitVec 2) := (List.range 40).map (fun j => if w.getLsbD j then 2#2 else 1#2)

/-- A block (05 R108): 2,560 bytes in four codewords, symbol i from codeword i mod 4, and the framing UI after each 271 of
the others. -/
def laneBlock (r : BitVec 31) (bs : List Byte) (framing : List (BitVec 2)) : List (BitVec 2) × BitVec 31 :=
  let (a, r) := laneCodeword r (bytesAt bs 0 640)
  let (b, r) := laneCodeword r (bytesAt bs 640 640)
  let (c, r) := laneCodeword r (bytesAt bs 1280 640)
  let (d, r) := laneCodeword r (bytesAt bs 1920 640)
  let ui := (inTurn a b c d).flatMap (fun n => levels (bitsOf 10 n))
  ((List.zipWith (fun l f => l ++ [f]) (chunksOf 271 ui) framing).flatten, r)

/-- What lane number `k` of `n` carries of a stream dealt out in 32-byte units in turn (05 R122). -/
def dealt (n k : Nat) (bs : List Byte) : List Byte :=
  ((chunksOf 32 bs).zipIdx.filter (fun e => e.2 % n == k)).flatMap (fun e => e.1)

/-- Blocks begun by a clock time in ns: a block is 51.2 ns (05 R108). -/
def blockAt (clk : Nat) : Nat := 5 * clk / 256

/-! ### Reception (05 R109, R114) -/

/-- What decoding the codewords of a port's lane gives: symbols corrected, or none where it is not correctable. -/
def wordResult (w : LaneWord) : Option Nat :=
  if w.syms.length = 542 then (gf10.correct 30 (w.syms.map (fun x => x.toNat))).map (fun r => r.2) else none

/-- Places in which 40 framing UI agree with the marker; an inverted pair swaps the levels. -/
def markerHits (inv : Bool) (ui : List (BitVec 2)) : Nat :=
  ((ui.zip markerLevels).filter (fun p => (if inv then 3#2 - p.1 else p.1) == p.2)).length

def isMarker (inv : Bool) (ui : List (BitVec 2)) : Bool := decide (36 ≤ markerHits inv ui)

/-- Alignment found (05 R114): 64 inner levels at one phase, and two markers 2,048 blocks apart; the answer says whether the
pair is inverted. -/
def aligned (o : MarkerObs) : Option Bool :=
  if o.inner.length = 64 && o.inner.all (fun x => x == 1 || x == 2) && o.blocks = 2048 then
    [false, true].find? (fun inv => isMarker inv o.first && isMarker inv o.second)
  else none

end Sys2Proof.Machine
end

