-- ==== Sys2Proof/Machine/Ops.lean ====
section
/-! DEFINITION. The named operations that every unit shares: configuration registers and counters, place and
topology (spec 01), ports in service, the fault collector (14 R380 to R386), VC1 and LINK messages, frames
into Solder, mailbox completions (13 R356 to R361), pages of Ingot (12 R318 to R323). -/

namespace Sys2Proof.Machine

/-! ### Register addresses (13 Table 13.13) -/

def aIrc : Nat := 0x10000
def aFlt : Nat := 0x20000
def aMbx : Nat := 0x40000
def aSec : Nat := 0x80000
def aSld : Nat := 0x100000
def aSch : Nat := 0x200000
def aPrt (p : Nat) : Nat := 0x400000 + 0x4000 * p
def aLnk (l : Nat) : Nat := 0x600000 + 0x1000 * l
def aBrz (k : Nat) : Nat := 0x800000 + 0x10000 * k
def aPwt : Nat := 0x900000
def aStl (n : Nat) : Nat := 0xA00000 + 0x4000 * n
def aIng (k : Nat) : Nat := 0xC00000 + 0x40000 * k
def aSchPort (p : Nat) : Nat := aSch + 0x10000 + 0x100 * p
def aPol (i : Nat) : Nat := aSch + 0x40000 + 0x40 * i

/-- Reset value of a register with RW or WK fields, by address (the register tables of every chapter). -/
def cfgReset (a : Nat) : Word :=
  if a < 0x400000 then
    if a = aFlt + 0x8 || a = aFlt + 0xC then 0x2710
    else if a = aMbx + 0x10000 then 0x3F
    else if a = aSld + 0x10 then 0x1388
    else if a = aSld + 0x14 then 0xC350
    else if a = aSld + 0x18 then 0x30D40
    else if a = aSld + 0x1C then 0xF4240
    else if a = aSld + 0x104 then 0x2000
    else if a = aSld + 0x108 then 0x100
    else if aSld + 0x700 ≤ a && a < aSld + 0x728 then 8192
    else if aSld + 0x728 ≤ a && a < aSld + 0x738 then 16384
    else if aSld + 0x738 ≤ a && a < aSld + 0x740 then 4096
    else if aSch + 0x10000 ≤ a && a < aSch + 0x14000 then
      let o := a % 0x100
      if o = 0x20 then 0x08102040 else if 0x50 ≤ o && o ≤ 0x5C then 0x01000400 else 0
    else if aSch + 0x40000 ≤ a && a < aSch + 0x80000 then (if a % 0x40 = 0 then 0x08000000 else 0)
    else 0
  else if a < 0x500000 then
    let o := a % 0x4000
    if o = 0 then 6
    else if o = 8 then 0xFFFF
    else if 0x40 ≤ o && o ≤ 0x7C then
      let v := (o - 0x40) / 4
      if v ≤ 1 then 64 else if v ≤ 9 then 384 else if v ≤ 13 then 128 else if v = 14 then 256 else 128
    else 0
  else if 0x600000 ≤ a && a < 0x700000 then (if a % 0x1000 = 0x18 then 0x0D0380C0 else 0)
  else if a = aPwt + 0x100 then 0x0010000D
  else if a = aStl 0 + 0x3000 then 0x625C6450
  else if 0xC00000 ≤ a && a < 0xD00000 then
    (if a % 0x40000 = 0x20 then 0x8CA0 else if a % 0x40000 = 0x2C then 4 else 0)
  else 0

/-- The value of a configuration register. -/
def State.cfgAt (s : State) (a : Nat) : Word := tget s.cfg a (cfgReset a)

/-- The state with a configuration register set: the reset value leaves the table unlisted. -/
def State.setCfg (s : State) (a : Nat) (v : Word) : State :=
  { s with cfg := if v = cfgReset a then tdel s.cfg a else tset s.cfg a v }

/-- A read-clear counter. -/
def State.cntAt (s : State) (a : Nat) : Nat := tget s.cnt a 0

/-- A counter raised by `n`. -/
def State.bump (s : State) (a n : Nat) : State :=
  if n = 0 then s else { s with cnt := tset s.cnt a (s.cntAt a + n) }

/-- A counter raised to at least `n`. -/
def State.raiseTo (s : State) (a n : Nat) : State :=
  if n ≤ s.cntAt a then s else { s with cnt := tset s.cnt a n }

/-- The Iridium count (04 R75). -/
def State.now (s : State) : Nat := s.irc.count

/-- Are the units clocked: powered, out of reset and not under class X (14 R388, 16 R443)? -/
def State.on (s : State) : Bool := !s.sys.classX && !s.pins.floating

/-- Does Brass firmware run? -/
def State.brass (s : State) : Bool := s.on && s.sys.fwReady

/-- An event that has its effect only where it is due: otherwise nothing changes (assumption log 3). -/
def due (c : Bool) (s s' : State) : Host.Outcome State Fault Refusal := .next (if c then s' else s)

/-- Is the Iridium count counting? In cell mode not before ACQUIRE (04 Table 4.6), and not without a reference. -/
def State.counting (s : State) : Bool :=
  s.on && s.pins.refclkOk && (s.irc.state != .free || s.irc.hall)

/-- One nanosecond of the count, with at most 13 of the 65,536 parts of a correction still to be made: within 200 ppm
in cell mode, and 200 ps per µs of IRC_TRIM in hall mode (04 R76). The count never decreases by it. In HOLDOVER the last
disciplined rate goes on in cell mode: the correction of the last exchange, over as long as it was for (04 Table 4.6). -/
def Irc.advance (i : Irc) : Irc :=
  let acc := if i.state == .holdover && !i.hall then i.rateAcc + i.rate else 0
  let k := acc.tdiv (max 1 i.rateOver)
  let want := i.slew + k
  let d := max (-13) (min 13 want)
  let t := ((i.count * 65536 + i.frac + 65536 : Nat) - d).toNat
  { i with count := t / 65536 % 2 ^ 64, frac := t % 65536, slew := want - d, rateAcc := acc - k * (max 1 i.rateOver : Nat),
           trim := if i.hall then i.trim - d else i.trim }

/-- A nanosecond passes: the clock, the Iridium count while it runs, the end of a PPS_OUT pulse after 1,000 ns (04
Table 4.3), and the boot ROM's pull of BAR_N at its time (14 R408). -/
def State.elapse (s : State) : State :=
  let rom := s.pins.romBar.any (fun t => decide (t ≤ s.clk + 1))
  { s with clk := s.clk + 1, irc := if s.counting then s.irc.advance else s.irc,
           pins := { s.pins with ppsOutAt := s.pins.ppsOutAt.filter (fun t => decide (s.clk + 1 < t + 1000)),
                                 barLow := s.pins.barLow || rom, romBar := if rom then none else s.pins.romBar } }

/-- The level of PPS_OUT: high while a pulse runs (04 Table 4.3). -/
def State.ppsOutHigh (s : State) : Bool := s.pins.ppsOutAt.isSome

/-- A free number, and the state that has drawn it. -/
def State.free (s : State) : Nat × State := (Config.pick s.freeCtr, { s with freeCtr := s.freeCtr + 1 })

/-- `n` bytes that the spec leaves open, and the state that has drawn them. -/
def State.freeBytes (s : State) (n : Nat) : List Byte × State :=
  ((List.range n).map (fun i => BitVec.ofNat 8 (Config.freeWord (s.freeCtr + i)).toNat), { s with freeCtr := s.freeCtr + n })

/-! ### Table entries of the units, with their defaults -/

def State.lane (s : State) (l : Nat) : Lane := tget s.lanes l Lane.init
def State.setLane (s : State) (l : Nat) (v : Lane) : State := { s with lanes := tset s.lanes l v }
def State.port (s : State) (p : Nat) : Port := tget s.ports p Port.init
def State.setPort (s : State) (p : Nat) (v : Port) : State := { s with ports := tset s.ports p v }
def State.paux (s : State) (p : Nat) : PortAux := tget s.aux p PortAux.init
def State.setPaux (s : State) (p : Nat) (v : PortAux) : State := { s with aux := tset s.aux p v }
def State.mbx (s : State) (m : Nat) : Mbx := tget s.mbxs m Mbx.init
def State.setMbx (s : State) (m : Nat) (v : Mbx) : State := { s with mbxs := tset s.mbxs m v }
def State.ctx (s : State) (c : Nat) : Ctx := tget s.ctxs c Ctx.init
def State.setCtx (s : State) (c : Nat) (v : Ctx) : State := { s with ctxs := tset s.ctxs c v }
def State.group (s : State) (g : Nat) : Group := tget s.groups g Group.init
def State.cluster (s : State) (k : Nat) : Cluster := tget s.stl.clusters k Cluster.init
def State.setCluster (s : State) (k : Nat) (v : Cluster) : State :=
  { s with stl := { s.stl with clusters := tset s.stl.clusters k v } }
def State.stack (s : State) (k : Nat) : Stack := tget s.ing.stks k Stack.init
def State.setStack (s : State) (k : Nat) (v : Stack) : State :=
  { s with ing := { s.ing with stks := tset s.ing.stks k v } }
def State.chan (s : State) (k c : Nat) : Chan := tget (s.stack k).chans c Chan.init
def State.setChan (s : State) (k c : Nat) (v : Chan) : State :=
  s.setStack k { s.stack k with chans := tset (s.stack k).chans c v }
/-- Tensors are held by context and index. -/
def tkey (c t : Nat) : Nat := 65536 * c + t
def State.tensor (s : State) (c t : Nat) : Option Tensor := tfind s.tensors (tkey c t)
def State.setTensor (s : State) (c t : Nat) (v : Tensor) : State :=
  { s with tensors := tset s.tensors (tkey c t) v }
/-- Regions are held by context and key. -/
def State.region (s : State) (c k : Nat) : Option Region := tfind s.regions (tkey c k)
def State.setRegion (s : State) (c k : Nat) (v : Region) : State :=
  { s with regions := tset s.regions (tkey c k) v }
def State.delRegion (s : State) (c k : Nat) : State := { s with regions := tdel s.regions (tkey c k) }
/-- Transfers are held by handle. -/
def State.xfer (s : State) (h : Nat) : Option Xfer := tfind s.xfers h
def State.setXfer (s : State) (h : Nat) (v : Xfer) : State := { s with xfers := tset s.xfers h v }
def State.delXfer (s : State) (h : Nat) : State := { s with xfers := tdel s.xfers h }
def State.slotTbl (s : State) (p t : Nat) : SlotTbl := tget s.sch.tbls (2 * p + t) SlotTbl.init
def State.setSlotTbl (s : State) (p t : Nat) (v : SlotTbl) : State :=
  { s with sch := { s.sch with tbls := tset s.sch.tbls (2 * p + t) v } }

/-! ### Place and topology (spec 01) -/

/-- Row, column, cell coordinates of this Fixus; SYS_POS gives the cell and the hall's size. -/
def State.hallX (s : State) : Nat := max 1 s.sys.hx
def State.hallY (s : State) : Nat := max 1 s.sys.hy

/-- Fabric address of Fixus `sw` of cell `c` (01 R34). -/
def fixusAddr (c sw : Nat) : Nat := 0x4000 + 256 * (c % 64) + 16 * (sw % 16)
def State.addr (s : State) : Nat := fixusAddr s.sys.cell s.pins.sw
def addrCell (a : Nat) : Nat := a / 256 % 64
def addrSw (a : Nat) : Nat := a / 16 % 16
def addrUnit (a : Nat) : Nat := a % 16
def addrIsFixus (a : Nat) : Bool := a / 0x4000 % 2 = 1
/-- The home Fixus of an endpoint: itself for a Fixus. -/
def homeOf (a : Nat) : Nat := fixusAddr (addrCell a) (addrSw a)
def swRow (sw : Nat) : Nat := sw / 4
def swCol (sw : Nat) : Nat := sw % 4

/-- A cell's coordinates within the job block, counted from its origin; none outside it (01 R35). -/
def State.blockXY (s : State) (cell : Nat) : Option (Nat × Nat) :=
  let x := cell % 8
  let y := cell / 8
  let (x0, y0, w, h) := s.sys.block
  if s.hallX ≤ x || s.hallY ≤ y then none
  else
    let bx := (x + s.hallX - x0 % s.hallX) % s.hallX
    let by_ := (y + s.hallY - y0 % s.hallY) % s.hallY
    if bx < w && by_ < h then some (bx, by_) else none

def State.inBlock (s : State) (a : Nat) : Bool := (s.blockXY (addrCell a)).isSome

/-- The cell at block coordinates. -/
def State.cellAt (s : State) (bx by_ : Nat) : Nat :=
  let (x0, y0, _, _) := s.sys.block
  8 * ((y0 + by_) % s.hallY) + (x0 + bx) % s.hallX

/-- The neighbour beyond port group `g` (groups of four ports: 8 north, 9 east, 10 south, 11 west, 12 X+,
13 X−, 14 Y+, 15 Y−), over mesh, seam or direct ports (01 R15, R29, R30). -/
def State.groupPeer (s : State) (g : Nat) : Option Nat :=
  let r := swRow s.pins.sw
  let c := swCol s.pins.sw
  let x := s.sys.cell % 8
  let y := s.sys.cell / 8
  let hx := s.hallX
  let hy := s.hallY
  let at_ (x y r c : Nat) : Option Nat := some (fixusAddr (8 * y + x) (4 * r + c))
  let xp := (x + 1) % hx
  let xm := (x + hx - 1) % hx
  let yp := (y + 1) % hy
  let ym := (y + hy - 1) % hy
  if g = 8 then (if 0 < r then at_ x y (r - 1) c else if 1 < hy then at_ x ym 3 c else none)
  else if g = 9 then (if c < 3 then at_ x y r (c + 1) else if 1 < hx then at_ xp y r 0 else none)
  else if g = 10 then (if r < 3 then at_ x y (r + 1) c else if 1 < hy then at_ x yp 0 c else none)
  else if g = 11 then (if 0 < c then at_ x y r (c - 1) else if 1 < hx then at_ xm y r 3 else none)
  else if g = 12 then (if 1 < hx then at_ xp y r c else none)
  else if g = 13 then (if 1 < hx then at_ xm y r c else none)
  else if g = 14 then (if 1 < hy then at_ x yp r c else none)
  else if g = 15 then (if 1 < hy then at_ x ym r c else none)
  else none

/-- Is group `g` a mesh group inside the cell (not a seam, not a hall group)? -/
def State.meshGroup (s : State) (g : Nat) : Bool :=
  (g = 8 && 0 < swRow s.pins.sw) || (g = 9 && swCol s.pins.sw < 3) ||
  (g = 10 && swRow s.pins.sw < 3) || (g = 11 && 0 < swCol s.pins.sw)

/-- The host port, P47 of the Fixus strapped as host bridge (01 R23). -/
def State.hostPort (s : State) (p : Nat) : Bool := p = 47 && s.pins.hostbr

/-- Is a port wired to a Fixus neighbour? P39 of (0, 3) stays uncabled and P47 of the host bridge is the
host's (01 R16, R23, R29). -/
def State.portPeer (s : State) (p : Nat) : Option Nat :=
  if p < 32 then none
  else if s.hostPort p then none
  else if p = 39 && swRow s.pins.sw = 0 && swCol s.pins.sw = 3 then none
  else s.groupPeer (p / 4)

/-- Does the wiring of 01 Table 1.2 give the port a partner, whether or not it is present? -/
def State.portWired (s : State) (p : Nat) : Bool := p < 32 || s.hostPort p || (s.portPeer p).isSome

def State.live (s : State) (p : Nat) : Bool := (s.port p).st == .active
def groupPorts (g : Nat) : List Nat := [4 * g, 4 * g + 1, 4 * g + 2, 4 * g + 3]
def accPorts (a : Nat) : List Nat := [a, a + 16]
def State.livePorts (s : State) (ps : List Nat) : List Nat := ps.filter (fun p => s.live p)

/-- The (x mod k)-th live port of a set in ascending order (06, "Choosing the output"). -/
def State.kth (s : State) (ps : List Nat) (x : Nat) : Option Nat :=
  let l := s.livePorts ps
  l[x % l.length]?

/-- Is accelerator `a` of this Fixus present: a port of its pair trained and not taken out, and neither refused for its
profile version (01 R13, R40)? -/
def State.accPresent (s : State) (a : Nat) : Bool :=
  (accPorts a).all (fun p => !(s.paux p).badVersion) && (accPorts a).any (fun p => match (s.port p).st with
    | .active => true
    | .retrain => true
    | _ => false)

/-- Is a fabric address in service as far as this Fixus knows: its own accelerators by their ports, those of
a lost Fixus absent (14 R398)? -/
def State.present (s : State) (a : Nat) : Bool :=
  if s.hallX ≤ addrCell a % 8 || s.hallY ≤ addrCell a / 8 then false
  else if addrIsFixus a then addrUnit a = 0
  else if homeOf a = s.addr then s.accPresent (addrUnit a)
  else !s.flt.lost.contains (homeOf a)

/-- Steps along one axis from cell position `a` and place `p` (0 to 3 within the cell) to cell `b`, place
`q`, going forward by d cells: direct hops and mesh hops, or one seam crossing in place of the last direct
hop. -/
def axFwd (d p q : Nat) : Nat :=
  if d = 0 then (if p ≤ q then q - p else p - q)
  else min (d + (if p ≤ q then q - p else p - q)) (d - 1 + (4 + q - p))

/-- Steps left along an axis of `n` cells when cells are crossed in one direction only. -/
def axHops (fwd : Bool) (n a p b q : Nat) : Nat :=
  if fwd then axFwd ((b + n - a) % n) p q else axFwd ((a + n - b) % n) q p

/-- The directions of an axis that traffic takes from cell `a` to cell `b` (`true` forward): on an axis that the block
spans the shorter way round in cells, or both when equal (01 R32); otherwise the one that stays in the block (R37). -/
def axWays (n : Nat) (span : Bool) (a b : Nat) : List Bool :=
  let f := (b + n - a) % n
  let r := (a + n - b) % n
  if span then (if f < r then [true] else if r < f then [false] else [true, false])
  else if a ≤ b then [true] else [false]

/-- Least steps along an axis over the directions that traffic takes. -/
def axDist (n : Nat) (span : Bool) (a p b q : Nat) : Nat :=
  (axWays n span a b).foldl (fun m w => min m (axHops w n a p b q)) 1000

/-- Is a move along an axis, from cell `a`, place `p` to cell `a'`, place `p'`, the first step of a minimal path? A
crossing of cells must go in a direction that traffic takes and be a step of a least path that way; a mesh hop must be
a step of a least path over all those directions. -/
def axStep (n : Nat) (span : Bool) (a p b q : Nat) (cross fwd : Bool) (a' p' : Nat) : Bool :=
  if cross then
    (axWays n span a b).contains fwd && a != b && axHops fwd n a' p' b q + 1 == axHops fwd n a p b q
  else
    (axWays n span a b).any (fun w => axHops w n a p b q == axDist n span a p b q &&
      axHops w n a' p' b q + 1 == axHops w n a p b q)

/-- Hops on a minimal path between two Fixus of the block (01 R17, R32, R37). -/
def State.dist (s : State) (a b : Nat) : Option Nat :=
  match s.blockXY (addrCell a), s.blockXY (addrCell b) with
  | some (ax, ay), some (bx, by_) =>
    let (_, _, w, h) := s.sys.block
    some (axDist w (w == s.hallX) ax (swCol (addrSw a)) bx (swCol (addrSw b)) +
          axDist h (h == s.hallY) ay (swRow (addrSw a)) by_ (swRow (addrSw b)))
  | _, _ => none

/-- Is port group `g`, whose far end is Fixus `nb`, a next hop on a minimal path to `dest`? Groups 9, 11, 12 and 13 move
along X and the others along Y; 9, 10, 12 and 14 move forward. -/
def State.nextHop (s : State) (g nb dest : Nat) : Bool :=
  match s.blockXY s.sys.cell, s.blockXY (addrCell nb), s.blockXY (addrCell dest) with
  | some (ax, ay), some (nx, ny), some (bx, by_) =>
    let (_, _, w, h) := s.sys.block
    let sw := addrSw dest
    let fwd := g == 9 || g == 10 || g == 12 || g == 14
    let cross := !s.meshGroup g
    if g = 9 || g = 11 || g = 12 || g = 13 then
      axStep w (w == s.hallX) ax (swCol s.pins.sw) bx (swCol sw) cross fwd nx (swCol (addrSw nb))
    else
      axStep h (h == s.hallY) ay (swRow s.pins.sw) by_ (swRow sw) cross fwd ny (swRow (addrSw nb))
  | _, _, _ => false

/-- MIN_MASK of an endpoint entry (06 Table 6.3): ports that are a next hop on a minimal path. -/
def State.minMask (s : State) (dest : Nat) : List Nat :=
  if homeOf dest = s.addr then (if addrIsFixus dest then [] else accPorts (addrUnit dest))
  else
    (List.range 64).filter (fun p =>
      match s.portPeer p with
      | none => false
      | some n => s.nextHop (p / 4) n dest)

/-- Coordinates of a cell for the escape path: those of the hall for MGMT frames (01 R33), or counted from the block's
origin for context traffic (06 R153), for cells outside the block too. -/
def State.escXY (s : State) (mgmt : Bool) (c : Nat) : Nat × Nat :=
  if mgmt then (c % 8, c / 8)
  else
    let (x0, y0, _, _) := s.sys.block
    ((c % 8 + s.hallX - x0 % s.hallX) % s.hallX, (c / 8 + s.hallY - y0 % s.hallY) % s.hallY)

/-- The one escape path of 01 R18 and R33: the group of ports toward DEST, X through direct groups, then Y, then the
row, then the column; none when DEST is this Fixus. -/
def State.escBase (s : State) (mgmt : Bool) (dest : Nat) : Option Nat :=
  let (mx, my) := s.escXY mgmt s.sys.cell
  let (dx, dy) := s.escXY mgmt (addrCell dest)
  let r := swRow s.pins.sw
  let c := swCol s.pins.sw
  let dr := swRow (addrSw dest)
  let dc := swCol (addrSw dest)
  if mx < dx then some 12
  else if dx < mx then some 13
  else if my < dy then some 14
  else if dy < my then some 15
  else if c < dc then some 9
  else if dc < c then some 11
  else if r < dr then some 10
  else if dr < r then some 8
  else none

/-- Live ports of a group that lead to a Fixus. -/
def State.groupLive (s : State) (g : Nat) : List Nat :=
  (groupPorts g).filter (fun p => (s.portPeer p).isSome && s.live p)

/-- A step of the MGMT path of a frame whose escape group has no live port: toward the destination's place in the cell
first, so that the frame enters the next cell beside the Fixus that is out (01 R26). -/
def State.escDetour (s : State) (dest : Nat) : Option Nat :=
  let r := swRow s.pins.sw
  let c := swCol s.pins.sw
  let dr := swRow (addrSw dest)
  let dc := swCol (addrSw dest)
  ((if c < dc then [9] else if dc < c then [11] else []) ++
    (if r < dr then [10] else if dr < r then [8] else [])).find? (fun g => s.meshGroup g && !(s.groupLive g).isEmpty)

/-- The escape group toward DEST (06 Table 6.3). Brass rewrites MGMT_ESC where its group has no live port and another
leads on (06 R154, 01 R26): DEDUCED, assumption log 116. ESC_PORT is never rewritten, since VC15 takes one path only. -/
def State.escGroup (s : State) (mgmt : Bool) (dest : Nat) : Option (List Nat) :=
  match s.escBase mgmt dest with
  | some g =>
    if mgmt && (s.groupLive g).isEmpty then some (groupPorts ((s.escDetour dest).getD g)) else some (groupPorts g)
  | none => if addrIsFixus dest then none else some (accPorts (addrUnit dest))

/-- Is an address this Fixus or one of its accelerators (LOCAL of 06 Table 6.3)? A reserved UNIT is neither. -/
def State.isLocal (s : State) (a : Nat) : Bool := a == s.addr || (!addrIsFixus a && homeOf a == s.addr)

/-- The endpoint table entry of an address (06 R149, Table 6.3), as Brass writes it from the cell position,
the hall size and the job block. -/
def State.endpoint (s : State) (a : Nat) : Nat :=
  let first (g : Option (List Nat)) : Nat := ((g.getD [0x3F]).headD 0x3F)
  ((s.minMask a).foldl (fun n p => n + 2 ^ p) 0) * 2 ^ 64 + first (s.escGroup false a) * 2 ^ 58 +
    (if s.present a then 2 ^ 51 else 0) + (if s.isLocal a then 2 ^ 50 else 0) +
    first (s.escGroup true a) * 2 ^ 44

/-! ### Units in service -/

/-- Bronze engines in service, in ascending number (02 R49, R50). -/
def State.engines (s : State) : List Nat :=
  (List.range 16).filter (fun k => s.fuses.bz.getLsbD k && !s.bzFenced.contains k)

def State.tileIn (s : State) (n : Nat) : Bool :=
  s.fuses.st.getLsbD n && !s.stl.fenced.contains n && !(s.cluster (n / 8)).fenced

def State.clusterIn (s : State) (k : Nat) : Bool := s.fuses.cl.getLsbD k && !(s.cluster k).fenced

/-- The point of the contribution network, which is none of the 80 of the crossbar: what is for Bronze leaves its port's ingress
by it (02 R47). -/
def netPoint : Nat := 80

/-- Is a crossbar point in service: some unit of it neither fused off nor fenced (02 R46, R49)? -/
def State.pointOn (s : State) (o : Nat) : Bool :=
  if 64 ≤ o && o < 72 then s.engines.contains (2 * (o - 64)) || s.engines.contains (2 * (o - 64) + 1)
  else if o = 72 then [0, 1, 2, 3].any (fun k => s.clusterIn k)
  else if o = 73 then [4, 5, 6, 7].any (fun k => s.clusterIn k)
  else if 74 ≤ o && o < 78 then !(s.stack (o - 74)).fenced
  else decide (o < 80)

/-- Does the clock of a cluster in service relock (02 R44)? Steel work waits for it. -/
def State.relocks (s : State) : Bool := (List.range 8).any (fun k => s.clusterIn k && (s.cluster k).relocking)

/-- Does the clock of a cluster that still works on the running Steel job relock (02 R44, 11 R293)? -/
def State.jobRelocks (s : State) : Bool :=
  (List.range 8).any (fun k => s.clusterIn k && (s.cluster k).relocking && (s.cluster k).share == .working)

/-- Every cluster in service begins its share of a Steel job, or begins it anew (11 R293, R301). -/
def State.beginShares (s : State) : State :=
  (List.range 8).foldl (fun s k => if s.clusterIn k then s.setCluster k { s.cluster k with share := .working } else s) s

/-- The running Steel job ends: a cluster that has not decided its layer boundary yet has it before it now (11 R293). -/
def State.endJob (s : State) : State :=
  { s with stl := { s.stl with
      job := none,
      clusters := tmap s.stl.clusters (fun _ c => if c.share = .working then { c with share := .finished } else c) } }

/-- The running Steel job ends where it satisfies `test`. -/
def State.endJobIf (s : State) (test : SteelJob → Bool) : State := if s.stl.job.any test then s.endJob else s

/-- Do the boundary FIFOs of a Steel point stall their senders, a cluster of it relocking (02 R44)? -/
def State.stalled (s : State) (o : Nat) : Bool :=
  (o == 72 && [0, 1, 2, 3].any (fun k => s.clusterIn k && (s.cluster k).relocking)) ||
  (o == 73 && [4, 5, 6, 7].any (fun k => s.clusterIn k && (s.cluster k).relocking))

/-- The Steel point that the KERNEL frame of an OFFSET enters or leaves by: the one in service, or that of the half that works on
the piece where both are (`Config.kernelHalf`, assumption log 125); none where neither is (02 R46, R49). -/
def State.kernelPoint (s : State) (off : Nat) : Option Nat :=
  if s.pointOn 72 && s.pointOn 73 then some (if Config.kernelHalf off then 73 else 72)
  else [72, 73].find? (fun o => s.pointOn o)

/-- The point by which the work of a point's units goes on: the point itself, or once all of them are fenced one of its kind
that is in service (02 R49, R50). -/
def State.nearPoint (s : State) (o : Nat) : Nat :=
  if s.pointOn o then o
  else if 64 ≤ o && o < 72 then ((List.range' 64 8).find? (fun x => s.pointOn x)).getD o
  else if o = 72 || o = 73 then ([72, 73].find? (fun x => s.pointOn x)).getD o
  else o

/-- T of 11 R291. -/
def State.tiles (s : State) : Nat := ((List.range 64).filter (fun n => s.tileIn n)).length

/-- Is the Fixus in service: no class X, not left service, time not in FAULT? -/
def State.inService (s : State) : Bool :=
  !s.sys.classX && !s.sys.outOfService && s.irc.state != .fault

/-- FAULT_N: the pulse of 14 R385 begins now, or during a pulse and in the gap after it the next one is due. -/
def State.pulse (s : State) : State :=
  if s.pins.pulseAt.isSome || s.pins.gapAt.isSome then { s with pins := { s.pins with pulseDue := true } }
  else { s with pins := { s.pins with pulseAt := some s.clk, faultLow := true } }

/-- Slot of the domain's record that is not CLOSED (14 R382). -/
def State.openRec (s : State) (dk di : Nat) : Option Nat :=
  ((s.flt.recs.find? (fun e => e.2.st != 2 && e.2.dkind == dk && e.2.dindex == di)).map Prod.fst)

/-- The fault collector takes an error of class `cls` (0 C, 1 D, 2 F, 3 X) in a domain: it is merged into
the domain's record or opens one (14 R381, R382), and FAULT_N pulses where a record first reaches D, F or X. -/
def State.record (s : State) (cls dk di src info : Nat) : State :=
  match s.openRec dk di with
  | some slot =>
    let r := tget s.flt.recs slot Rec.init
    let up := decide (r.cls < cls)
    let r' : Rec :=
      { r with
        count := min 0xFFFFFFFF (r.count + 1), last := s.now, lastSource := src, info1 := info,
        cls := max r.cls cls, classCount := if up then s.now else r.classCount,
        pulsed := r.pulsed || (up && decide (1 ≤ cls)) }
    let s := { s with flt := { s.flt with recs := tset s.flt.recs slot r' } }
    if up && !r.pulsed then s.pulse else s
  | none =>
    let slot := s.flt.head % 262144
    let blocked := match tfind s.flt.recs slot with
      | some r => r.st != 2
      | none => false
    if blocked then
      let s := s.bump (aFlt + 0x1C) 1
      if cls = 1 then
        { s with flt := { s.flt with timers := s.flt.timers ++ [(di, s.now)] } }
      else s
    else
      let r : Rec :=
        { index := s.flt.head % 2 ^ 32, escalated := false, timed := false, pulsed := decide (1 ≤ cls), st := 0, cls := cls,
          dkind := dk, dindex := di, source := src, lastSource := src, count := 1, first := s.now,
          last := s.now, classCount := s.now, gen := if dk = 1 then (s.ctx di).gen else 0,
          info0 := info, info1 := info }
      let s := { s with flt := { s.flt with recs := tset s.flt.recs slot r, head := s.flt.head + 1 } }
      if 1 ≤ cls then s.pulse else s

/-! ### Messages out -/

def State.sendCtl (s : State) (p : Nat) (m : CtlMsg) : State :=
  s.setPort p { s.port p with ctlQ := (s.port p).ctlQ ++ [m] }

def State.sendLink (s : State) (p : Nat) (m : LinkMsg) : State :=
  s.setPort p { s.port p with linkQ := (s.port p).linkQ ++ [m] }

def State.sendSide (s : State) (p : Nat) (m : SideMsg) : State :=
  s.setPort p { s.port p with sideQ := (s.port p).sideQ ++ [m] }

/-- The first live port of each group toward a Fixus of the block, the arrival group left out, and the first
live port of each present accelerator: where a flood of 04 R94 goes. -/
def State.floodPorts (s : State) (from_ : Option Nat) : List Nat :=
  let gs := ([8, 9, 10, 11, 12, 13, 14, 15].filter (fun g =>
    match s.groupPeer g with
    | some n => s.inBlock n && from_.map (· / 4) != some g
    | none => false)).filterMap (fun g => s.kth ((groupPorts g).filter (fun p => (s.portPeer p).isSome)) 0)
  let as := (List.range 16).filterMap (fun a =>
    if from_ == some a || from_ == some (a + 16) then none else s.kth (accPorts a) 0)
  gs ++ as

/-- A VC1 message flooded (04 R94, 14 R390). -/
def State.flood (s : State) (from_ : Option Nat) (m : CtlMsg) : State :=
  (s.floodPorts from_).foldl (fun s p => s.sendCtl p m) s

/-- A VC1 message sent toward a Fixus on its escape path (06 R170): by the lowest live port of the group, and lost where none is live.
DESIGN CHOICE (assumption log 134): the spec says neither. -/
def State.sendCtlTo (s : State) (dest : Nat) (m : CtlMsg) : State :=
  match s.escGroup false dest with
  | some ps => (match s.kth ps 0 with
    | some p => s.sendCtl p m
    | none => s)
  | none => s

/-! ### Frames into Solder -/

/-- Low 16 bits of the CRC-32C over SRC, DEST, CTX and VC (06, "Choosing the output"). -/
def frameHash (f : Frame) : Nat :=
  (crc32c (toLe 2 f.hdr.src.toNat ++ toLe 2 f.hdr.dest.toNat ++
    [f.hdr.ctx, BitVec.ofNat 8 f.vc.toNat])).toNat % 65536

def frameLen (f : Frame) : Nat := 32 + f.payload.length
/-- Flits, and cells, of a frame (06 R145). -/
def frameFlits (f : Frame) : Nat := cdiv (frameLen f) 240

def ftData : Nat := 1
def ftContrib : Nat := 2
def ftPartial : Nat := 3
def ftReturn : Nat := 4
def ftCompletion : Nat := 5
def ftMgmt : Nat := 6
def ftKernel : Nat := 7

/-- Cells of a queued frame that have arrived. -/
def State.cellsIn (s : State) (q : QEnt) : Nat :=
  if q.inp < 64 then
    match (s.paux q.inp).asm.find? (fun m => m.id == q.id) with
    | some m => min q.cells m.got
    | none => q.cells
  else q.cells

/-- Cells of a queued frame that have crossed to an output. -/
def passedTo (q : QEnt) (o : Nat) : Nat := tget q.passed o 0

/-- Cells queued for output `p`: those there that have not crossed to it. -/
def State.owed (s : State) (q : QEnt) (p : Nat) : Nat := if q.outs.contains p then s.cellsIn q - passedTo q p else 0

/-- Cells queued for output `p` on virtual channel `v`. -/
def State.cellsQueued (s : State) (p v : Nat) : Nat :=
  s.sol.queues.foldl (fun n q => if q.frame.vc.toNat == v then n + s.owed q p else n) 0

/-- The port of a list with the fewest cells queued on a channel; ties go to the first after `last`. -/
def State.leastQueued (s : State) (v last : Nat) (ps : List Nat) : Option Nat :=
  let order := ps.filter (fun p => decide (last < p)) ++ ps.filter (fun p => decide (p ≤ last))
  order.foldl (fun best p =>
    match best with
    | none => some p
    | some b => if s.cellsQueued p v < s.cellsQueued b v then some p else some b) none

/-- The primary choice of 06 Table 6.5, none where its set has no live port. A context's frame does not leave the job's block (01
R37). -/
def State.choose (s : State) (f : Frame) : Option Nat :=
  let h := frameHash f
  let dest := f.hdr.dest.toNat
  let ft := f.hdr.ftype.toNat
  if ft != ftMgmt && !s.inBlock dest then none
  else if f.hdr.esc then s.kth ((s.escGroup false dest).getD []) h
  else if f.hdr.sched || (ft != ftData && ft != ftMgmt) then s.kth (s.minMask dest) f.hdr.path.toNat
  else if ft = ftData && f.hdr.spray then
    s.leastQueued f.vc.toNat (tget s.sol.lastSpray f.vc.toNat 63) (s.livePorts (s.minMask dest))
  else if ft = ftData then s.kth ((s.escGroup false dest).getD []) h
  else s.kth ((s.escGroup true dest).getD []) h

/-- The choice with the first fallback of 06 R154. -/
def State.route (s : State) (f : Frame) : Option Nat :=
  match s.choose f with
  | some p => some p
  | none =>
    if f.hdr.ftype.toNat != ftMgmt && !s.inBlock f.hdr.dest.toNat then none
    else s.kth ((s.escGroup (f.hdr.ftype.toNat == ftMgmt) f.hdr.dest.toNat).getD []) (frameHash f)

/-- The choice, remembered where it is a sprayed frame's: the next tie goes to a later port (06 Table 6.5). -/
def State.routed (s : State) (f : Frame) : State × Option Nat :=
  match s.route f with
  | some o =>
    (if f.hdr.ftype.toNat = ftData && f.hdr.spray && !f.hdr.esc then
      { s with sol := { s.sol with lastSpray := tset s.sol.lastSpray f.vc.toNat o } } else s, some o)
  | none => (s, none)

/-! ### Weighted fair queueing (07 R191) -/

def State.weight (s : State) (p k : Nat) : Nat := max 1 (bits (s.cfgAt (aSchPort p + 0x20)).toNat (8 * k + 7) (8 * k))

/-- The later of two 32-bit values modulo 2^32. -/
def later32 (a b : Nat) : Nat := if (a + 2 ^ 32 - b) % 2 ^ 32 < 2 ^ 31 then a else b

/-- Tags, held plus one, for the frames that have reached the head of VC10 to VC13. -/
def State.headTags (s : State) (p : Nat) : State :=
  [0, 1, 2, 3].foldl (fun s k =>
    match (s.port p).egress.find? (fun e => e.frame.vc.toNat == 10 + k) with
    | none => s
    | some e =>
      if e.tag != 0 then s
      else
        let f := tget s.sch.wfqF (4 * p + k) 0
        let start := later32 (tget s.sch.wfqV p 0) f
        let t := (start + frameFlits e.frame * 65536 / s.weight p k) % 2 ^ 32
        let q := s.port p
        let s := s.setPort p { q with egress := q.egress.map (fun x => if x = e then { x with tag := t + 1 } else x) }
        { s with sch := { s.sch with wfqF := tset s.sch.wfqF (4 * p + k) t } }) s

/-! ### Cells (06 R148) -/

/-- Cells of frame `id` stored: one each for flits `k` to `n - 1`, held by owner point `inp` for `c` copies (06
R148, R158). -/
def storeCells (inp vc id c : Nat) : Nat → Nat → Tbl Cell → Tbl Cell
  | 0, _, t => t
  | n + 1, k, t => storeCells inp vc id c n (k + 1) (tset t (64 * id + k) { inp := inp, vc := vc, copies := c })

/-! ### Pool 0 (06 R163, R165) -/

/-- Pool, and buffers of it, that serve a request of a size in Solder: the smallest that holds it, or a chain of the largest
(06 R164, Table 6.7). In Ingot the rules that draw buffers name the pool (08 R232, 10 R260, 12 R323, 13 R363). -/
def solderPool (size : Nat) : Nat × Nat :=
  if size ≤ 256 then (0, 1) else if size ≤ 4096 then (1, 1) else (2, cdiv size 65536)

/-- The pool and buffers that hold the operands of a kernel at its root: what has come of the members that have no row yet. -/
def Kernel.operandReq (k : Kernel) : Nat × Nat :=
  let n := (k.got.filter (fun e => (tfind k.rows e.1).isNone)).foldl (fun n e => e.2.foldl (fun n x => n + x.2.length) n) 0
  if n = 0 then (0, 0) else solderPool n

/-- Buffers of a pool of Solder that kernel operands hold. -/
def State.operandBufs (s : State) (pool : Nat) : Nat :=
  s.slots.foldl (fun n e =>
    let r := (e.2.kern.getD Kernel.init).operandReq
    if r.1 = pool then n + r.2 else n) 0

/-- Cells of pool 0 in use: those of frames, and those that hold kernel operands of at most 256 bytes. -/
def State.pool0Used (s : State) : Nat := s.sol.cells.length + s.operandBufs 0

/-- Cells held by an owner point (SLD_HELD). Kernel operands are held by point 72: DESIGN CHOICE (assumption log 125). -/
def State.held (s : State) (o : Nat) : Nat :=
  (s.sol.cells.filter (fun e => e.2.inp == o)).length + (if o = 72 then s.operandBufs 0 else 0)

/-- The reserve of an owner point (SLD_RSV): the sum of the enabled PRT_VC_LIMIT of a port, the register of a unit. -/
def State.rsv (s : State) (o : Nat) : Nat :=
  if o < 64 then
    (List.range 16).foldl (fun n v =>
      if v == 0 || v == 1 || v == 15 || bit (s.cfgAt (aPrt o + 8)).toNat v then
        n + (s.cfgAt (aPrt o + 0x40 + 4 * v)).toNat % 4096 else n) 0
  else (s.cfgAt (aSld + 0x600 + 4 * o)).toNat

/-- Are `n` more cells within the reserve of owner `o`? -/
def State.ownCells (s : State) (o n : Nat) : Bool :=
  decide (s.held o + n ≤ s.rsv o) && decide (s.pool0Used + n ≤ s.sol.count.1)

/-- May owner `o` take `n` more cells: within its reserve, or from the shared part? -/
def State.cellsFor (s : State) (o n : Nat) : Bool :=
  let h := s.held o
  s.ownCells o n ||
  decide ((List.range 80).foldl (fun t q => t + max (if q = o then h + n else s.held q) (s.rsv q)) 0 ≤ s.sol.count.1)

/-- Is a new request of owner `o` served at once: within its reserve, or from the shared part where no request that waits could
take it; and behind none of its own (06 R165)? -/
def State.cellsNow (s : State) (o n : Nat) : Bool :=
  let l := tget s.sol.waits 0 []
  !l.any (fun r => r.owner == o) &&
  (s.ownCells o n || (s.cellsFor o n && l.all (fun r => !s.cellsFor r.owner r.n)))

/-- The credit of a freed receive cell is owed to the partner (05 R128). -/
def State.returnCredit (s : State) (p vc : Nat) : State :=
  let q := s.port p
  s.setPort p { q with rxHeld := tset q.rxHeld vc (tget q.rxHeld vc 0 - 1),
                       rxRet := tset q.rxRet vc ((tget q.rxRet vc 0 + 1) % 4096),
                       rxUnrep := tset q.rxUnrep vc (tget q.rxUnrep vc 0 + 1) }

/-- One copy of a cell is done: the cell is freed with its last copy (06 R148, R158). -/
def State.dropCopy (s : State) (key : Nat) : State :=
  match tfind s.sol.cells key with
  | none => s
  | some c =>
    if 1 < c.copies then
      { s with sol := { s.sol with cells := tset s.sol.cells key { c with copies := c.copies - 1 } } }
    else
      let s := { s with sol := { s.sol with cells := tdel s.sol.cells key } }
      if c.inp < 64 then s.returnCredit c.inp c.vc else s

/-- One copy of every cell of a frame from flit `k` on is done. -/
def State.dropFrom (s : State) (id k : Nat) : State :=
  (List.range (64 - k)).foldl (fun s i => s.dropCopy (64 * id + k + i)) s

/-- Every cell of a frame is freed, whatever copies are outstanding. -/
def State.freeCells (s : State) (id : Nat) : State :=
  (List.range 64).foldl (fun s k =>
    match tfind s.sol.cells (64 * id + k) with
    | none => s
    | some c =>
      let s := { s with sol := { s.sol with cells := tdel s.sol.cells (64 * id + k) } }
      if c.inp < 64 then s.returnCredit c.inp c.vc else s) s

/-- Later flits of a frame are discarded as they arrive (06 R151, R156). -/
def State.discardRest (s : State) (id : Nat) : State :=
  { s with aux := tmap s.aux (fun _ a =>
    { a with asm := a.asm.map (fun m => if m.id = id then { m with dropped := true } else m) }) }

/-- A token received and dropped (14 R409): a CONTRIB or PARTIAL frame for Bronze that never reaches it. -/
def State.tokenLost (s : State) (ft : Nat) : State :=
  (s.bump (if ft = ftContrib then aFlt + 0x80 else aFlt + 0x88) 1).bump (aFlt + 0xA0) 1

/-- A frame is dropped before Bronze takes it: its token counts now, or with its EOF where that is still to come. -/
def State.loseToken (s : State) (f : Frame) (id : Nat) : State :=
  let ft := f.hdr.ftype.toNat
  if f.hdr.dest.toNat != s.addr || (ft != ftContrib && ft != ftPartial) then s
  else if s.aux.any (fun e => e.2.asm.any (fun m => m.id == id && !m.eof)) then
    { s with aux := tmap s.aux (fun _ a =>
      { a with asm := a.asm.map (fun m => if m.id = id then { m with token := some ft } else m) }) }
  else s.tokenLost ft

/-- A frame goes whole: its cells are freed, and what is still to come of it is discarded. -/
def State.discard (s : State) (id : Nat) : State := (s.freeCells id).discardRest id

/-- Ports that have sent flit `k` of frame `id` and await its acknowledgement. -/
def State.unackedAt (s : State) (id k : Nat) : Nat :=
  s.ports.foldl (fun n e => n + (e.2.unacked.filter (fun t => match t.pay with
    | .data _ i j tail => i == id && j == k && tail.isNone
    | _ => false)).length) 0

/-- The cells of the flits that a port sent and that were never acknowledged are given up. -/
def State.dropUnacked (s : State) (p : Nat) : State :=
  (s.port p).unacked.foldl (fun s t => match t.pay with
    | .data f id k tail =>
      let lost := f.hdr.ftype.toNat == ftPartial && (tail.isSome || k + 1 == frameFlits f)
      let s := if lost then s.bump (aFlt + 0xA8) 1 else s
      if tail.isSome then s else s.dropCopy (64 * id + k)
    | _ => s) s

/-! ### What a port puts on its lanes (05 R108 to R113, R122, R128) -/

/-- Is a virtual channel enabled on a port? VC0, VC1 and VC15 always are (05 R127). -/
def State.vcOn (s : State) (p v : Nat) : Bool :=
  v == 0 || v == 1 || v == 15 || bit (s.cfgAt (aPrt p + 8)).toNat v

def laneMask (ids : List Nat) : BitVec 4 := BitVec.ofNat 4 (ids.foldl (fun n i => n + 2 ^ i) 0)
def maskLanes (m : BitVec 4) : List Nat := (List.range 4).filter (fun i => m.getLsbD i)

/-- Lanes of a port in phase 7. -/
def State.lanes7 (s : State) (p : Nat) : List Nat := (List.range 4).filter (fun i => (s.lane (4 * p + i)).phase == 7)

/-- A flit's acknowledgement and credit report: channels in rotation (05 R128, R130). -/
def State.stamp (s : State) (p : Nat) (t : TxFlit) : State × TxFlit :=
  let q := s.port p
  let order := (List.range 16).map (fun i => (q.crRot + i) % 16)
  let v := (order.find? (fun v => s.vcOn p v)).getD 0
  (s.setPort p { q with crRot := (v + 1) % 16, rxUnrep := tdel q.rxUnrep v },
   { t with ack := q.e, crVc := v, crCount := tget q.rxRet v 0 })

/-- A flit leaves on the wire, and its 256 bytes join the stream that is dealt to the lanes (05 R122, R123). -/
def State.putWire (s : State) (p : Nat) (t : TxFlit) : State :=
  let (s, t) := s.stamp p t
  s.setPort p { s.port p with wire := some t, stream := (s.port p).stream ++ flitBytes (txFlitOf t) }

/-- An IDLE flit. -/
def idleFlit : TxFlit := { pay := .idle, vc := 0, seq := 0, ack := 0, crVc := 0, crCount := 0 }

/-- One block of a lane: its bytes, behind the scrambler that restarts with each frame, and its framing UI. The marker block
carries no framing word, so a message is not begun where it would meet one (05 R110, R111, R113). -/
def State.sendBlock (s : State) (b p i : Nat) (bs : List Byte) : State :=
  let l := s.lane (4 * p + i)
  let first := decide (b % 2048 = 0)
  let word := framingWord ((l.side.map Prod.fst).getD 0) i p
  let out := laneBlock (if first then scrSeed i else l.scr) bs (if first then markerLevels else framingLevels word)
  let side := if first then l.side else match l.side with
    | some (w, n + 2) => some (w, n + 1)
    | _ => none
  s.setLane (4 * p + i) { l with sent := out.1, scr := out.2, side := side }

/-- The lanes that carry a port's flits: those in service, or in phase 7 those that have come so far. -/
def State.streamLanes (s : State) (p : Nat) : List Nat :=
  if (s.port p).st == .active then maskLanes (s.port p).lanes else s.lanes7 p

/-- A port sends LEAVE and nothing after it: the flit leads the block that its lanes send last, before what of its stream no
block has carried, and IDLE flits fill the rest (05 R134, R135). Where no lane carries flits nothing is sent. DESIGN CHOICE
(assumption log 149): that block is sent at the moment of the decision. -/
def State.sendLeave (s : State) (p reason : Nat) : State :=
  let ls := s.streamLanes p
  if ls.isEmpty then s
  else
    let len := 2560 * ls.length
    let (s, t) := s.stamp p { idleFlit with pay := .link (.leave reason s.now) }
    let idle := flitBytes (txFlitOf { t with pay := .idle })
    let bs := (flitBytes (txFlitOf t) ++ (s.port p).stream ++ (List.replicate (10 * ls.length) idle).flatten).take len
    let s := s.setPort p { s.port p with wire := some t, stream := [] }
    ls.zipIdx.foldl (fun s e => s.sendBlock (blockAt s.clk + 1) p e.1 (dealt ls.length e.2 bs)) s

/-- A port's link layer at its start, sending nothing, its lanes in electrical idle after their last block (05 R135). The cells
that it received and that are still held keep their count. -/
def State.idlePort (s : State) (p : Nat) (st : PortState) : State :=
  let q := s.port p
  let s := s.setPort p { Port.init with st := st, rxHeld := q.rxHeld, wire := q.wire, ctlSeq := q.ctlSeq }
  (List.range 4).foldl (fun s i =>
    let l := s.lane (4 * p + i)
    s.setLane (4 * p + i) { l with phase := 0, inService := false, lock := false, marker := false, paramOk := none,
                                   partnerPhase := 0, partnerFom := 0, phaseAt := s.clk, side := none, markAt := none,
                                   deskew := 0, foms := [] }) s

/-- Every port in service sends LEAVE and goes to electrical idle; its unacknowledged flits and the cells of frames that have
not come whole are returned to the pools (05 R135, 14 R388, R389). -/
def State.leaveAll (s : State) (reason : Nat) (st : PortState) : State :=
  (List.range 64).foldl (fun s p =>
    match (s.port p).st with
    | .active | .retrain =>
      let s := (s.paux p).asm.foldl (fun s a => if a.eof then s else s.freeCells a.id) ((s.sendLeave p reason).dropUnacked p)
      (s.setPaux p { s.paux p with asm := [] }).idlePort p st
    | .training => (s.sendLeave p reason).idlePort p st
    | _ => s) s

/-- MSUB and HOST of a MGMT frame (13 Table 13.2). -/
def frameMsub (f : Frame) : Nat := f.hdr.ts.toNat % 256
def frameHost (f : Frame) : Bool := f.hdr.ts.getLsbD 14

/-- A MGMT frame for the host port of the Fixus it is addressed to: one of the subtypes that travel to a requester,
with HOST = 1 (13 R351, R352). -/
def toHost (f : Frame) : Bool :=
  f.hdr.ftype.toNat == ftMgmt && frameHost f &&
  (frameMsub f == 2 || frameMsub f == 4 || frameMsub f == 7 || frameMsub f == 8)

/-- Where a frame's next copies go: unit points for a frame addressed to this Fixus, P47 of the host bridge for one to
its host, one port otherwise. -/
def State.localPoint (s : State) (f : Frame) : Option Nat :=
  if f.hdr.dest.toNat = s.addr then
    let ft := f.hdr.ftype.toNat
    if toHost f then s.kth (if s.pins.hostbr then [47] else []) 0
    else if ft = ftMgmt then some 79
    else if ft = ftContrib || ft = ftPartial then some netPoint
    else if ft = ftKernel then s.kernelPoint f.hdr.offset.toNat
    else none
  else none

/-- An entry put in its place in the order in which the entries came. -/
def insertSince (q : QEnt) : List QEnt → List QEnt
  | [] => [q]
  | x :: t => if q.since < x.since then q :: x :: t else x :: insertSince q t

/-- An entry with the next number. -/
def State.numbered (s : State) (q : QEnt) : State × QEnt :=
  ({ s with sol := { s.sol with arrivals := s.sol.arrivals + 1 } }, { q with since := s.sol.arrivals })

/-- A frame of an input whose earlier frames of the channel wait for a descriptor or for cells comes behind them (06 R160). -/
def State.inLine (s : State) (q : QEnt) : Bool := s.sol.descWait.any (fun x => x.inp == q.inp && x.frame.vc == q.frame.vc)

/-- A frame descriptor enters its queue, or waits for one (06 R160: 262,144 descriptors in all). -/
def State.queueEnt (s : State) (q : QEnt) : State :=
  let wait := decide (262144 ≤ s.sol.queues.length) || s.inLine q
  let (s, q) := s.numbered q
  if wait then { s with sol := { s.sol with descWait := s.sol.descWait ++ [q] } }
  else { s with sol := { s.sol with queues := s.sol.queues ++ [q] } }

/-- A frame that a unit of this Fixus originates at point `inp` enters Solder for the outputs given: its cells are
stored and it is queued; where pool 0 has no cells for it, or earlier requests go first, it waits (06 R158,
R160, R165). -/
def State.enter (s : State) (inp : Nat) (f : Frame) (outs : List Nat) (mc : Bool) : State :=
  let id := s.sol.nextId
  let n := frameFlits f
  let s := { s with sol := { s.sol with nextId := id + 1 } }
  let q : QEnt := { inp := inp, outs := outs, mc := mc, frame := f, id := id, cells := n, passed := [], since := 0,
                    noRoute := if outs.isEmpty then some s.clk else none, sent := false, noCredit := none, atUnit := none }
  if s.cellsNow inp n then
    let cells := storeCells inp f.vc.toNat id (max 1 outs.length) n 0 s.sol.cells
    ({ s with sol := { s.sol with cells := cells } }).queueEnt q
  else
    let (s, q) := s.numbered q
    let waits := tset s.sol.waits 0 (tget s.sol.waits 0 [] ++ [({ owner := inp, n := n, tag := id } : PoolReq)])
    { s with sol := { s.sol with descWait := s.sol.descWait ++ [q], waits := waits } }

/-- A frame of a unit of this Fixus, queued for its next hop (06 R147, R152, R154). -/
def State.sendFrame (s : State) (inp : Nat) (f : Frame) : State :=
  match s.localPoint f with
  | some u => s.enter inp f [u] false
  | none =>
    let (s, o) := s.routed f
    s.enter inp f o.toList false

/-! ### Frames that a unit takes (06 R148, R158) -/

/-- The unit that a queued frame still owes a copy. -/
def unitOut (q : QEnt) : Option Nat := q.outs.find? (fun o => decide (64 ≤ o))

/-- Is an entry the next that its unit takes? What crossed to the unit's point is taken in the order in which it crossed, and not
while the point is off or its FIFO holds its entries (02 R43, R44, R49). What leaves by the contribution network is taken in the
order of its input and channel, once whole (02 R47). -/
def State.isNext (s : State) (q : QEnt) : Bool :=
  match unitOut q with
  | none => false
  | some u =>
    if u = netPoint then
      (s.sol.queues.find? (fun x => x.inp == q.inp && x.frame.vc == q.frame.vc && unitOut x == some u)) == some q &&
      s.cellsIn q == q.cells
    else match q.atUnit with
      | none => false
      | some t => s.pointOn u && !s.stalled u &&
          !s.sol.queues.any (fun x => unitOut x == some u && x.atUnit.any (fun t' => decide (t' < t)))

/-- The unit's copy of an entry leaves its queue; the copies that ports owe stay. -/
def State.takeEnt (s : State) (q : QEnt) : State :=
  let u := (unitOut q).getD 0
  let q' : QEnt := { q with outs := q.outs.filter (· != u) }
  let qs := if q'.outs.isEmpty then s.sol.queues.filter (fun x => x != q)
    else s.sol.queues.map (fun x => if x = q then q' else x)
  { s with sol := { s.sol with queues := qs,
                               vcOwner := s.sol.vcOwner.filter (fun e => !(e.2 == q.id && e.1 / 16 == u)) } }

/-- The queued frame that a receipt is about. -/
def State.heldEnt (s : State) (f : Frame) : Option QEnt :=
  s.sol.queues.find? (fun q => q.frame == f && (unitOut q).isSome)

/-- Is a receipt still to come: its frame is queued, and is not yet the next? -/
def State.notYet (s : State) (f : Frame) : Bool :=
  match s.heldEnt f with
  | some q => !s.isNext q
  | none => false

/-- The queued frame that a receipt is about leaves its queue for the unit: its cells' id. A frame that no
queue holds comes with no cells. -/
def State.takeQueued (s : State) (f : Frame) : State × Nat :=
  match s.heldEnt f with
  | some q => (s.takeEnt q, q.id)
  | none => (s, 0)

/-- Is a queued frame the MGMT frame of subtype `msub` that a command names? -/
def mgmtIs (msub : Nat) (m : Mgmt) (q : QEnt) : Bool :=
  let h := q.frame.hdr
  let ts := h.ts.toNat
  q.inp == m.port.toNat && unitOut q == some 79 && frameMsub q.frame == msub && h.src == m.src &&
  frameHost q.frame == m.host && bits ts 13 8 == m.mbx.toNat && bits ts 31 16 == m.tag.toNat && h.offset == m.offset &&
  ts / 2 ^ 32 == m.arg.toNat && q.frame.payload == m.payload

/-- Brass takes a MGMT frame: where Solder holds it, it leaves its queue and its cells are freed; none while it is not yet whole
or not yet the next. -/
def State.takeMgmt (s : State) (msub : Nat) (m : Mgmt) : Option State :=
  match s.sol.queues.find? (mgmtIs msub m) with
  | none => some s
  | some q => if s.isNext q then some ((s.takeEnt q).dropFrom q.id 0) else none

/-- A MGMT frame that Brass acts on once its firmware runs, and while the Fixus is in service (14 R389): `act` is what it does once the frame has left its queue. -/
def State.brassFrame (s : State) (msub : Nat) (m : Mgmt) (act : State → State) : Host.Outcome State Fault Refusal :=
  match s.takeMgmt msub m with
  | none => .next s
  | some s1 => due (s.brass && !s.sys.outOfService) s (act s1)

/-- A frame that this Fixus sends on one given port group, as a partial (08 R224) or a chain copy (10 R284)
does: the (PATH mod k)-th live port of the group. -/
def State.sendGroup (s : State) (inp g : Nat) (f : Frame) : State :=
  let out := s.kth ((groupPorts g).filter (fun p => (s.portPeer p).isSome)) f.hdr.path.toNat
  s.enter inp f out.toList false

/-- A receipt of Steel is still to come too while the point of its frame is off or stalled (02 R44, R49). -/
def State.steelNotYet (s : State) (f : Frame) : Bool :=
  match s.heldEnt f with
  | some q => !s.isNext q
  | none => !(s.kernelPoint f.hdr.offset.toNat).any (fun u => !s.stalled u)

/-- An entry whose unit's point went off crosses to the one that takes over, from its first cell. -/
def State.repointEnt (s : State) (q : QEnt) : QEnt :=
  let outs := q.outs.map (fun o => s.nearPoint o)
  if outs = q.outs then { q with inp := s.nearPoint q.inp }
  else { q with inp := s.nearPoint q.inp, outs := outs, passed := q.passed.filter (fun e => outs.contains e.1), atUnit := none }

/-- What stands at the points whose units are all fenced by now goes on by the points in service (02 R50). -/
def State.repoint (s : State) : State :=
  let near := s.nearPoint
  { s with
    ports := tmap s.ports (fun _ p => { p with egress := p.egress.map (fun e => { e with inp := near e.inp }) }),
    sol := { s.sol with
      queues := s.sol.queues.map s.repointEnt, descWait := s.sol.descWait.map s.repointEnt,
      cells := tmap s.sol.cells (fun _ c => { c with inp := near c.inp }),
      waits := tset s.sol.waits 0 ((tget s.sol.waits 0 []).map (fun r => { r with owner := near r.owner })),
      vcOwner := s.sol.vcOwner.filter (fun e => near (e.1 / 16) == e.1 / 16) } }

/-- A header that Brass, Bronze, Pewter or Steel of this Fixus originates: HOPS 32 (06 R147). -/
def State.hdr (s : State) (dest ftype ctx gen coll offset ts : Nat) (sched : Bool) (path len : Nat) : Header :=
  { dest := BitVec.ofNat 15 dest, src := BitVec.ofNat 15 s.addr, ftype := BitVec.ofNat 8 ftype,
    ctx := BitVec.ofNat 8 ctx, gen := BitVec.ofNat 16 gen, flowSeq := 0, frameLen := BitVec.ofNat 16 (32 + len),
    esc := false, sched := sched, newflow := false, single := false, spray := false, hops := 32, mcast := 0,
    path := BitVec.ofNat 4 path, collId := BitVec.ofNat 32 coll, offset := BitVec.ofNat 32 offset,
    ts := BitVec.ofNat 64 ts, rsv := 0 }

/-- A MGMT frame from Brass (13 Table 13.2). -/
def State.sendMgmt (s : State) (dest msub : Nat) (host : Bool) (mbx tag offset arg : Nat)
    (payload : List Byte) : State :=
  s.sendFrame 79
    { vc := 0,
      hdr := s.hdr dest ftMgmt 0 0 0 offset
        (msub + 256 * (mbx % 64 + (if host then 64 else 0)) + 65536 * (tag % 65536) + 2 ^ 32 * arg) false 0
        payload.length,
      payload := payload }

/-- A read's bytes as BULK_DATA frames of at most 15,328 bytes (13 Table 13.3), to the mailbox's requester. -/
def State.sendBulk (s : State) (m tag off : Nat) (bs : List Byte) : State :=
  match (s.mbx m).owner with
  | none => s
  | some (a, h) =>
    ((chunksOf 15328 bs).foldl (fun (p : State × Nat) c =>
      (p.1.sendMgmt a.toNat 4 h m 0 p.2 tag c, p.2 + c.length)) (s, off)).1

/-! ### Completions (13 R356 to R361) -/

/-- Bytes of a completion entry for ring pass `k / n` (13 Table 13.7, R358). -/
def cplBytes (c : Cpl) (k n : Nat) : List Byte :=
  padTo 128 0 (toLe 2 c.opcode ++ toLe 1 c.result ++ toLe 1 (if k / n % 2 = 0 then 1 else 0) ++
    toLe 4 c.tag.toNat ++ toLe 2 c.index ++ toLe 2 c.detail ++ toLe 4 0 ++ toLe 8 c.count ++ toLe 8 0 ++
    c.ret.take 96)

/-- Entries in a completion ring of a mailbox. -/
def Mbx.cqN (b : Mbx) : Nat := 32 * b.cqPages
def Mbx.rqN (b : Mbx) : Nat := 16 * b.rqPages
/-- Entries between head and tail of a ring. -/
def ringUsed (tail head : Nat) : Nat := (tail + 65536 - head) % 65536
def Mbx.cqFull (b : Mbx) : Bool := b.cqN ≤ ringUsed b.cqTail b.cqHead

/-- A completion entry written at the tail of a ring with room, and sent to the requester (13 R355). -/
def State.writeCpl (s : State) (m : Nat) (c : Cpl) : State :=
  let b := s.mbx m
  let off := 128 * (b.cqTail % b.cqN)
  let bs := cplBytes c b.cqTail b.cqN
  let tail := (b.cqTail + 1) % 65536
  let s := s.setMbx m { b with cq := Mem.splice b.cq off bs, cqTail := tail }
  match b.owner with
  | some (a, h) => if m = 63 then s else s.sendMgmt a.toNat 2 h m 0 off tail bs
  | none => s

/-- Index of the oldest held COLL_RECORD completion. -/
def oldestRecord (l : List Cpl) : Option Nat := l.findIdx? (fun c => c.opcode == 0x0202)

/-- A completion for mailbox `m` of incarnation `inst`: written, held while the ring is full, or discarded
when the mailbox was reset or closed since (13 R360, R361, R379). -/
def State.postCpl (s : State) (m inst : Nat) (c : Cpl) : State :=
  if 64 ≤ m then s else
  let b := s.mbx m
  let isRec := c.opcode == 0x0202
  if !b.opened || b.inst != inst then
    (if isRec then s.bump (aMbx + 0x100 * m + 0x1C) 1 else s)
  else if b.cqFull || !b.held.isEmpty then
    if 1024 ≤ b.held.length then
      match oldestRecord (b.held ++ [c]) with
      | some i => (s.setMbx m { b with held := (b.held ++ [c]).eraseIdx i }).bump (aMbx + 0x100 * m + 0x1C) 1
      | none => s.setMbx m { b with held := b.held ++ [c] }
    else s.setMbx m { b with held := b.held ++ [c] }
  else s.writeCpl m c

/-- A started command leaves its mailbox's list of running commands and its completion is posted (13 R359). -/
def State.finish (s : State) (c : Cmd) (result detail : Nat) (ret : List Byte) : State :=
  let b := s.mbx c.mbx
  let s := if 64 ≤ c.mbx then s else s.setMbx c.mbx { b with running := b.running.filter (· != c) }
  s.postCpl c.mbx c.inst
    { opcode := c.opcode, result := result, tag := c.tag, index := c.index, detail := detail, count := s.now,
      ret := ret }

/-- A mailbox closes: its pages return to pool 1 and its rings are gone. -/
def State.closeMbx (s : State) (m : Nat) : State :=
  let b := s.mbx m
  let s : State := { s with sol := { s.sol with used1 := s.sol.used1 - (b.rqPages + b.cqPages) } }
  s.setMbx m { Mbx.init with inst := b.inst + 1 }

/-- The close that waits for the last started command of a mailbox, once there is none (13 Table 13.9); the command
that asked for it then completes in its own mailbox, which may be closing in turn. -/
def State.tryClose : Nat → State → Nat → State
  | 0, s, _ => s
  | n + 1, s, m =>
    match (s.mbx m).closing with
    | none => s
    | some c =>
      if (s.mbx m).running.isEmpty then State.tryClose n ((s.closeMbx m).finish c 0 0 []) c.mbx else s

/-- A started command completes. A mailbox that was closing closes with its last one. -/
def State.complete (s : State) (c : Cmd) (result detail : Nat) (ret : List Byte) : State :=
  State.tryClose 64 (s.finish c result detail ret) c.mbx

/-- The SCHED_LOAD commands that no TABLE_ACK is awaited for any more complete (07 R186, R187). -/
def State.finishLoads (s : State) : State :=
  let ready_ := s.sch.loading.filter (fun l => l.wait.isEmpty)
  let s : State := { s with sch := { s.sch with loading := s.sch.loading.filter (fun l => !l.wait.isEmpty) } }
  ready_.foldl (fun s l => s.complete l.cmd 0 0 (toLe 8 l.refused ++ toLe 4 l.accRef)) s

/-! ### Results (13 Table 13.8) and statuses (08 Table 8.5) -/

def rOk : Nat := 0x00
def rNoSlot : Nat := 0x17
def rBadOpcode : Nat := 0x40
def rBadArgs : Nat := 0x41
def rBadState : Nat := 0x42
def rCheckFailed : Nat := 0x43
def rNoResource : Nat := 0x44
def rPath : Nat := 0x45
def stOk : Nat := 0x00
def stRescaled : Nat := 0x01
def stFrozen : Nat := 0x02
def stAborted : Nat := 0x10
def stCancelled : Nat := 0x11
def stLate : Nat := 0x12
def stLateLaunch : Nat := 0x13
def stNonfinite : Nat := 0x14
def stChecksum : Nat := 0x15
def stStepGap : Nat := 0x16
def stPartial : Nat := 0x18
def stFenced : Nat := 0x21

/-- CONDITIONS bit of a status, none for OK (08 Table 8.5). -/
def condBit (st : Nat) : Option Nat :=
  if st = stRescaled then some 0 else if st = stFrozen then some 1 else if st = stAborted then some 2
  else if st = stCancelled then some 3 else if st = stLate then some 4 else if st = stLateLaunch then some 5
  else if st = stNonfinite then some 6 else if st = stChecksum then some 7 else if st = stStepGap then some 8
  else if st = stPartial then some 9 else if st = stFenced then some 10 else none

/-- Statuses in order of precedence (08 Table 8.5). -/
def statusOrder : List Nat :=
  [stAborted, stCancelled, stLateLaunch, stFenced, stPartial, stChecksum, stStepGap, stNonfinite, stLate,
   stFrozen, stRescaled]

/-- STATUS of a set of conditions: the one of highest precedence (08 R218). -/
def statusOf (conds : BitVec 16) : Nat :=
  (statusOrder.find? (fun st => match condBit st with
    | some b => conds.getLsbD b
    | none => false)).getD stOk

def addCond (conds : BitVec 16) (st : Nat) : BitVec 16 :=
  match condBit st with
  | some b => conds ||| BitVec.ofNat 16 (2 ^ b)
  | none => conds

/-! ### Pages of Ingot (12 R318 to R323) -/

/-- Stack and channel of a physical page number p = 64q + 4·CH + STACK. -/
def pageStack (p : Nat) : Nat := p % 4
def pageChan (p : Nat) : Nat := p / 4 % 16

/-- First page of pool 3, and the page after its last. -/
def State.pool3Lo (s : State) : Nat := 16 * s.ing.pool4
def State.pool3Hi (s : State) : Nat := 16 * s.ing.pool4 + s.ing.pool3

/-- Is a channel of a stack out of service, or on its way out: fenced, being moved, or on a fenced stack (12 R335, R337)? -/
def State.chanOut (s : State) (k c : Nat) : Bool := (s.chan k c).fenced || (s.chan k c).evac || (s.stack k).fenced

/-- Is a page of no use to its pool: it left it, or it is on a channel that is out without a remap entry? -/
def State.pageDead (s : State) (p : Nat) : Bool :=
  s.ing.lostPages.contains p ||
  (s.chanOut (pageStack p) (pageChan p) && (tfind (s.stack (pageStack p)).remap p).isNone)

/-- Pages that pool 3 can serve (12 R323, R335): its range less what is withdrawn. -/
def State.pool3Serves (s : State) (p : Nat) : Bool :=
  decide (s.pool3Lo ≤ p) && decide (p < s.pool3Hi) && !s.pageDead p

/-- Pages of a range on one channel. -/
def rangeOnChan (lo hi k c : Nat) : Nat :=
  -- pages p < n with p mod 64 = 4c + k number ⌈(n − (4c + k)) / 64⌉
  let upto (n : Nat) : Nat := if n ≤ 4 * c + k then 0 else cdiv (n - (4 * c + k)) 64
  upto hi - upto lo

/-- Pages of pool 3 and of pool 4 in use by number. -/
def State.pageUsed (s : State) (p : Nat) : Bool :=
  s.ing.pages.any (fun u => u.no == p || (decide (p < s.pool3Lo) && u.no == 16 * (p / 16)))

/-- Is a page in use withdrawn: it left its pool, or its channel is fenced and it has no remap entry (12 R323)? While its channel is
being moved it is not yet. -/
def State.withdrawn (s : State) (p : Nat) : Bool :=
  s.ing.lostPages.contains p ||
  (((s.chan (pageStack p) (pageChan p)).fenced || (s.stack (pageStack p)).fenced) &&
    (tfind (s.stack (pageStack p)).remap p).isNone)

/-- Count of pool 3: its range, less the pages of fenced channels without a remap entry, the free pages of a channel that is being
moved, and the pages that left it (12 R323, R335). -/
def State.pool3Count (s : State) : Nat :=
  let lo := s.pool3Lo
  let hi := s.pool3Hi
  let gone := (List.range 64).foldl (fun n i =>
    let k := i % 4
    let c := i / 4
    if s.chanOut k c then
      let inR (p : Nat) : Bool := decide (lo ≤ p) && decide (p < hi) && pageStack p == k && pageChan p == c
      let kept := ((s.stack k).remap.filter (fun e => inR e.1)).length +
        (s.ing.pages.filter (fun u => inR u.no && !s.withdrawn u.no && (tfind (s.stack k).remap u.no).isNone)).length
      n + (rangeOnChan lo hi k c - kept)
    else n) 0
  s.ing.pool3 - gone - (s.ing.lostPages.filter (fun p => decide (lo ≤ p) && decide (p < hi) &&
    !s.chanOut (pageStack p) (pageChan p))).length

/-- Does a pool-4 buffer hold a withdrawn page (12 R323, R335)? -/
def State.bufDead (s : State) (b : Nat) : Bool := (List.range 16).any (fun i => s.pageDead (16 * b + i))

/-- Buffers that left pool 4: they hold a withdrawn page and are not in use. -/
def State.deadBufs (s : State) : Nat :=
  if s.ing.lostPages.isEmpty && (List.range 64).all (fun i => !s.chanOut (i % 4) (i / 4)) then 0
  else ((List.range s.ing.pool4).filter (fun b => s.bufDead b && !s.pageUsed (16 * b))).length

/-- Count of pool 4: its buffers less those withdrawn whole (12 R323, R335). -/
def State.pool4Count (s : State) : Nat := s.ing.pool4 - s.deadBufs

def inPool3 (s : State) (p : Page) : Bool := decide (s.pool3Lo ≤ p.no) && decide (p.no < s.pool3Hi)

/-- Pages of pool 3 in use, but for those withdrawn, which its count does not hold either. -/
def State.pool3Used (s : State) : Nat := (s.ing.pages.filter (fun p => inPool3 s p && !s.withdrawn p.no)).length
def State.pool3Free (s : State) : Nat := s.pool3Count - s.pool3Used

/-- Pool-4 buffers in use: a buffer is the 16 pages 16b to 16b + 15; its first page stands for it. -/
def State.pool4Used (s : State) : Nat :=
  (s.ing.pages.filter (fun p => decide (p.no < s.pool3Lo))).length
def State.pool4Free (s : State) : Nat := s.pool4Count - s.pool4Used

/-- The free pages of pool 3 on a stack's channel, by index within the range. -/
def State.freeOn (s : State) (k c : Nat) : List Nat :=
  ((List.range 36864).map (fun q => 64 * q + 4 * c + k)).filter (fun p =>
    s.pool3Serves p && !s.ing.pages.any (fun u => u.no == p))

/-- The live channel of a stack after `from_` that has a free page, round-robin (12 R322). -/
def State.nextChan (s : State) (k : Nat) : Nat → Nat → Option Nat
  | 0, _ => none
  | n + 1, c => if (s.freeOn k (c % 16)).isEmpty then s.nextChan k n (c + 1) else some (c % 16)

/-- One page drawn from stack `k` for `h` (12 R322); which free page of the channel is open: a free choice. -/
def State.drawPage (s : State) (k : Nat) (h : Holder) : Option State :=
  match s.nextChan k 16 (s.stack k).rrCh with
  | none => none
  | some c =>
    let l := s.freeOn k c
    let (n, s') := s.free
    match l[n % l.length]? with
    | none => none
    | some p =>
      let s' := { s' with ing := { s'.ing with pages := s'.ing.pages ++ [(⟨p, h⟩ : Page)] } }
      some (s'.setStack k { s'.stack k with rrCh := (c + 1) % 16 })

/-- Pages drawn from each stack of a list, in order; none where one is lacking. -/
def State.drawPages (s : State) : List (Nat × Holder) → Option State
  | [] => some s
  | e :: t => (s.drawPage e.1 e.2).bind (fun s' => s'.drawPages t)

/-- Stacks in service (12 R337). -/
def State.stacksIn (s : State) : List Nat := (List.range 4).filter (fun k => !(s.stack k).fenced)

/-- The stack of each page of an array of `n` elements in format `c` with rotation `rot` (12 R319): stripes of
2,097,152 elements, stripe s on stack (s + ROT) mod n of `ks`, the n that were in service when the plan was loaded (R337). -/
def arrayStacks (ks : List Nat) (c n rot : Nat) : List Nat :=
  let per := cdiv (arrayBytes c 2097152) 65536
  let pages := cdiv (arrayBytes c n) 65536
  (List.range pages).filterMap (fun j => ks[(j / per + rot) % ks.length]?)

/-- The stacks of a tensor's arrays and those of its updates. -/
def State.stacksOf (s : State) (ctx tensor : Nat) : List Nat :=
  ((s.tensor ctx tensor).map (fun t => t.onStacks)).getD s.stacksIn

/-- The stacks of the arrays of a context's regions: those of its plan, or those in service where it has none. -/
def State.planStacks (s : State) (ctx : Nat) : List Nat :=
  ((s.tensors.find? (fun e => e.1 / 65536 == ctx)).map (fun e => e.2.onStacks)).getD s.stacksIn

/-- Does an array of a tensor have stripes on a stack that was fenced since its plan was loaded? The tensor is LOST, and no page of the
array can be drawn (12 R337). -/
def State.stackGone (s : State) (ctx tensor : Nat) : Bool := (s.stacksOf ctx tensor).any (fun k => (s.stack k).fenced)

/-! ### Page maps (12 R320, R321) -/

/-- The page map of an array: the 32-byte header of 12 Table 12.4, then an entry for each page that holds the array, in order. -/
def State.pageMap (s : State) (h : Holder) (fmt rot elements : Nat) : List Byte :=
  let pages := (s.ing.pages.filter (fun p => p.holder == h)).map (fun p => p.no)
  let entries := pages.flatMap (fun p => toLe 4 (p % 2 ^ 22))
  padTo 32 0 (toLe 4 pages.length ++ toLe 1 fmt ++ toLe 1 rot ++ toLe 2 0 ++ toLe 5 elements ++ toLe 3 0 ++
    toLe 4 (crc32c entries).toNat) ++ entries

/-- The map of an array just drawn is written into the MAP region. -/
def State.writeMap (s : State) (h : Holder) (fmt rot elements : Nat) : State :=
  { s with ing := { s.ing with maps := s.ing.maps.filter (fun m => m.holder != h) ++
                                       [{ holder := h, bytes := s.pageMap h fmt rot elements }] } }

/-- The pages of a holder returned to their pool, with their maps; what was poisoned in them is written anew when they are drawn. -/
def State.freePages (s : State) (test : Holder → Bool) : State :=
  let gone := (s.ing.pages.filter (fun p => test p.holder)).map (fun p => p.no)
  let clean (w : Nat) : Bool :=
    !gone.any (fun n => n == w / 2048 || (decide (n < s.pool3Lo) && n / 16 == w / 32768))
  { s with ing := { s.ing with pages := s.ing.pages.filter (fun p => !test p.holder),
                               maps := s.ing.maps.filter (fun m => !test m.holder),
                               poison := s.ing.poison.filter clean } }

/-- Pages that pass from holder to holder, with their maps. -/
def State.movePages (s : State) (f : Holder → Holder) : State :=
  { s with ing := { s.ing with pages := s.ing.pages.map (fun p => { p with holder := f p.holder }),
                               maps := s.ing.maps.map (fun m => { m with holder := f m.holder }) } }

/-- Buffers of pool 4 that it can serve and that are not in use. -/
def State.freeBufs (s : State) : List Nat :=
  (List.range s.ing.pool4).filter (fun b =>
    !s.bufDead b && !s.pageUsed (16 * b))

/-- `n` pool-4 buffers drawn for a holder; which free buffers is open: a free choice. -/
def State.drawBufs (s : State) (h : Holder) : Nat → Option State
  | 0 => some s
  | n + 1 =>
    let l := s.freeBufs
    let (i, s') := s.free
    match l[i % l.length]? with
    | none => none
    | some b =>
      let s2 : State := { s' with ing := { s'.ing with pages := s'.ing.pages ++ [(⟨16 * b, h⟩ : Page)] } }
      s2.drawBufs h n

end Sys2Proof.Machine
end

