-- ==== Sys2Proof/Machine/Reset.lean ====
section
/-! DEFINITION. Class X, leaving service, reset entry and boot: 14 R387 to R389, R404 to R408, 15 R416 to
R434, 16 R443, R445, R456. The rows that call them are in Machine/Boot.lean. -/

namespace Sys2Proof.Machine

/-! ### Crash dump, class X, leaving service -/

/-- The crash dump of 14 R405 in the next of four slots: header, configuration registers, open records. The
8 MiB of Brass SRAM it also holds is not state of the model. -/
def State.crashDump (s : State) (cause : Nat) : State :=
  let d : Dump :=
    { cause := cause, count := s.now, fw := s.sys.fw, cfg := s.cfg,
      recs := (s.flt.recs.map Prod.snd).filter (fun r => r.st != 2) }
  { s with flt := { s.flt with dumps := tset s.flt.dumps (s.flt.dumpNext % 4) d,
                               dumpNext := (s.flt.dumpNext + 1) % 4 } }

/-- Every lane in electrical idle. -/
def State.lanesIdle (s : State) : State :=
  { s with lanes := tmap s.lanes (fun _ l => { l with phase := 0, inService := false, lock := false }) }

/-- Class X (14 R388): the record, LEAVE with reason 1 on every port, electrical idle, clocks stopped,
FAULT_N held low, the crash dump and its copy in boot flash. Once entered it does not change. -/
def State.enterX (s : State) (src info : Nat) : State :=
  if s.sys.classX then s
  else
    let s := s.record 3 0 0 src info
    let s := (s.leaveAll 1 .down).lanesIdle
    let s := s.crashDump s.sys.resetCause
    let d := tfind s.flt.dumps ((s.flt.dumpNext + 3) % 4)
    let newest := ((s.flt.recs.map Prod.snd).filter (fun r => decide (s.flt.head ≤ r.index + 4096)))
    { s with sys := { s.sys with classX := true },
             flash := { s.flash with xdump := d.map (fun d => (newest, d)) },
             pins := { s.pins with faultLow := true, pulseAt := none, gapAt := none, pulseDue := false } }

/-! ### Boot (15 R428, R429, R434) -/

/-- Fields of an image header (15 Table 15.5). -/
def imgType (c : List Byte) : Nat := fld c 0 2
def imgPart (c : List Byte) : Nat := fld c 2 2
def imgStepOk (c : List Byte) : Bool := bit (fld c 4 1) 0
def imgRollback (c : List Byte) : Nat := fld c 5 1
def imgVersion (c : List Byte) : Nat := fld c 6 2
def imgLength (c : List Byte) : Nat := fld c 8 4
def imgCfgSeq (c : List Byte) : Nat := fld c 12 4
def imgPayload (c : List Byte) : List Byte := (c.drop 128).take (imgLength c)

/-- A firmware image's signature and profile (15 R417, R426). -/
def fwSigned (img : List Byte) : Bool := Config.cmsProfile img && Config.rootVerifies img

/-- A firmware image's header: TYPE, PART, STEPPINGS, and ROLLBACK at least MINVER. -/
def State.fwHeader (s : State) (img : List Byte) : Bool :=
  let c := Config.eContent img
  imgType c == 1 && imgPart c == 0x0F12 && imgStepOk c && decide (s.fuses.minver ≤ imgRollback c) &&
  decide (imgRollback c ≤ 64) && imgVersion c != 0xFFFF && decide (imgLength c ≤ 8388480)

/-- A configuration image's signature: by the Migauc root, or by the operator key with LOCK burned. -/
def State.cfgSigned (s : State) (img : List Byte) : Bool :=
  Config.cmsProfile img &&
  (Config.rootVerifies img || (s.fuses.lock && Config.operatorVerifies s.fuses.cfgkey img))

/-- A configuration image's header. -/
def cfgHeader (img : List Byte) : Bool :=
  let c := Config.eContent img
  imgType c == 2 && imgPart c == 0x0F12 && imgStepOk c && imgRollback c == 0 && decide (imgLength c ≤ 65408)

def State.fwSlot (s : State) (b : Bool) : List Byte := if b then s.flash.fwB else s.flash.fwA
def State.cfgSlot (s : State) (b : Bool) : List Byte := if b then s.flash.cfgB else s.flash.cfgA
def State.fwOk (s : State) (b : Bool) : Bool := fwSigned (s.fwSlot b) && s.fwHeader (s.fwSlot b)

/-- extend(d): M := SHA-256(M ‖ d). -/
def State.extend (s : State) (i : Nat) (d : List Byte) : State :=
  let m := s.sec.meas.getD i []
  { s with sec := { s.sec with meas := s.sec.meas.set i (sha256 (m ++ d)) } }

/-- The select block that governs. -/
def Flash.select (f : Flash) : Select :=
  { seq := f.seq, active := f.active, trial := f.trial, trialCount := f.trialCount, cfgActive := f.cfgActive }

/-- A new select block `g` is written into the older copy, with the next sequence number, and governs (15 R425). -/
def Flash.write (f g : Flash) : Flash := { g with seq := f.seq + 1, older := f.select }

/-- R434: what TRIAL does before the image is chosen. A trial image that has booted three times is abandoned. -/
def State.trialBoot (s : State) : State :=
  if s.flash.trial then
    if s.flash.trialCount < 3 then
      { s with flash := s.flash.write { s.flash with trialCount := s.flash.trialCount + 1 } }
    else
      { s with flash := s.flash.write { s.flash with active := !s.flash.active, trial := false,
                                                       trialCount := 0 } }.record 0 0 0 0x0804 (b2n s.flash.active)
  else s

/-- The boot ROM runs image `b`: MEAS1, SYS_FW and the running slot. -/
def State.runImage (s : State) (b : Bool) : State :=
  let c := Config.eContent (s.fwSlot b)
  let s := s.extend 1 (sha256 c)
  { s with sec := { s.sec with slotB := b, trial := s.flash.trial && s.flash.active == b },
           sys := { s.sys with fw := BitVec.ofNat 32 (2 ^ 31 * b2n b + imgVersion c) } }

/-- The firmware image is chosen and run, then the configuration image is verified (15 R428, R429). With no
image that passes, no firmware runs and FAULT_N is held low. -/
def State.bootImages (s : State) : State :=
  let s := s.trialBoot
  let a := s.flash.active
  let s :=
    if s.fwOk a then s.runImage a
    else
      let s := s.record 0 0 0 0x0804 (b2n a)
      if s.fwOk (!a) then s.runImage (!a)
      else { s with sys := { s.sys with noFirmware := true }, pins := { s.pins with faultLow := true } }
  if s.sys.noFirmware then s
  else
    let img := s.cfgSlot s.flash.cfgActive
    if s.cfgSigned img && cfgHeader img then
      let s := s.extend 2 (sha256 (Config.eContent img))
      { s with sec := { s.sec with cfgOk := true } }
    else s.record 0 0 0 0x0804 (2 + b2n s.flash.cfgActive)

/-- What the boot ROM finds on a part that has just come out of reset and passes all its checks. -/
def State.bootSeen (s : State) : BootObs :=
  { romOk := true, otpOk := true, prefixOk := true, rsvBurned := BitVec.ofNat 11 s.fuses.rsv, rsvPartial := false,
    hostbr := s.pins.hostbr, pos := BitVec.ofNat 4 s.pins.sw, bzPass := BitVec.allOnes 16, stPass := BitVec.allOnes 64,
    clPass := BitVec.allOnes 8 }

/-- The boot flow of 15 Table 15.6 up to the release of Brass firmware. -/
def State.boot (s : State) (b : BootObs) : State :=
  if !b.romOk then s.enterX 0x0803 0
  else
    let s := s.extend 0 Config.romDigest.toList
    if !b.otpOk then s.enterX 0x0801 0
    else if !b.prefixOk then s.enterX 0x0802 s.fuses.rsv
    else
      let s := { s with fuses := { s.fuses with rsv := max s.fuses.rsv (min 1024 b.rsvBurned.toNat) },
                        sys := { s.sys with otpRead := true } }
      let s := if b.rsvPartial then s.record 0 0 0 (Config.pick s.freeCtr % 65536) s.fuses.rsv else s
      let s := if b.rsvPartial then s.free.2 else s
      s.bootImages

/-! ### Reset entry -/

/-- The requesters bound before a reset, which a RING_WRITE is refused once for (13 R362). -/
def State.boundBefore (s : State) : List (BitVec 15 × Bool × Nat) :=
  (s.mbxs.filterMap (fun e => match e.2.owner with
    | some (a, h) => if e.1 = 63 then none else some (a, h, e.1)
    | none => none)).foldl (fun l b => if l.contains b then l else l ++ [b]) s.bound

/-- Configuration registers after a warm reset: FLT_HOLD_LIMIT and FLT_DEFER keep their values (14 Table
14.9), the pool counts written take effect (06 R163), and so does IRC_CTRL.MODE (04 Table 4.3); every other one takes
its reset value. -/
def cfgWarm (t : Tbl Word) : Tbl Word :=
  (t.filter (fun e => e.1 == aFlt + 0x8 || e.1 == aFlt + 0xC || e.1 == aSld + 0x104 || e.1 == aSld + 0x108 ||
    (e.1 == aIrc + 0x18 && e.2.getLsbD 0))).map (fun e => if e.1 = aIrc + 0x18 then (e.1, 1) else e)

/-- Pool counts in effect from SLD_POOL_CFG (06 R163, Table 6.7): pool 0 has 786,432 cells less 16 for each
pool-1 buffer and 256 for each pool-2 buffer. -/
def poolCounts (p1 p2 : Nat) : Nat × Nat × Nat := (786432 - 16 * p1 - 256 * p2, p1, p2)

/-- What a context keeps over a warm reset: that its plan stands in the PLAN region, and its last generation. -/
def Ctx.afterReset (c : Ctx) : Ctx :=
  { Ctx.init with planned := c.planned, twin := c.twin, planFenced := c.planFenced, gen := c.gen }

/-- What a tensor keeps over a warm reset: entry, version record and committed arrays. -/
def Tensor.afterReset (t : Tensor) : Tensor := { t with calm := 0, acting := false, twinDig := none, theirDig := none }

/-- A sparing copy that a reset interrupts: with the fuse burned it is redone, otherwise the row is as it was, and spared at its next
error (12 R342). Which it is the device alone knows: a free choice. -/
def Stack.undoCopy (clk : Nat) (k : Stack) (e : Nat × Nat × Option Nat) : Stack :=
  if e.2.1 + 2000 ≤ clk then { k with copying := tdel k.copying e.1 }
  else if Config.fuseBurned e.2.1 e.1 then { k with copying := tset k.copying e.1 (clk, e.2.2) }
  else
    let r := e.1 % 4194304
    let bank := 192 * (e.1 / 4194304) + 16 * (r / 64 % 12) + r % 16
    { k with copying := tdel k.copying e.1, sparesUsed := tset k.sparesUsed bank (tget k.sparesUsed bank 0 - 1),
             redirect := match e.2.2 with
               | some i => tset k.redirect e.1 i
               | none => tdel k.redirect e.1 }

/-- A stack after a warm reset (12 R325, R342): its base die goes on refreshing and scrubbing, remaps, fences and spare rows stay; the
controller trains anew. -/
def Stack.afterReset (clk : Nat) (k : Stack) : Stack :=
  k.copying.foldl (Stack.undoCopy clk) { k with ready := false, fenceCmd := [] }

/-- A stack after a cold reset: what its fuses keep, and what Brass restores from boot flash, remap entries and channel fences (12 R325,
R332). -/
def Stack.afterCold (f : Flash) (i : Nat) (k : Stack) : Stack :=
  let on (c : Nat) : Bool := f.fences.contains (16 * i + c)
  { Stack.init with hot := k.hot, temp := k.temp, sparesUsed := k.sparesUsed, redirect := k.redirect,
                    remap := f.remaps.filter (fun e => pageStack e.1 == i), fenced := (List.range 16).all on,
                    chans := ((List.range 16).filter on).map (fun c => (c, { Chan.init with fenced := true })) }

/-- Units reset (14 Table 14.9, warm reset): everything but Ingot contents and regions, remaps and fences, the
fault log and dumps, fuses and boot flash. The straps are sampled (16 R445). Ports and lanes keep only what they sent last, the
LEAVE and its block. A fence of Bronze or Steel is lifted where the unit's self-test passes (14 R387), and a pulse of FAULT_N runs its
time (R385). -/
def State.unitsReset (s : State) (cause : Nat) (b : BootObs) : State :=
  let cfg := cfgWarm s.cfg
  let s1 : State := { s with cfg := cfg }
  { s with
    pins := { s.pins with hostbr := b.hostbr, sw := b.pos.toNat, floating := false, ppsOutAt := none,
                          barLow := false, barFor := none, romBar := none, faultLow := s.pins.pulseAt.isSome, tempSrc := [] },
    smb := { ptr := 0, rdlen := 4, busErr := false, pecErr := false, out := [] },
    cfg := cfg, cnt := [], cleared := [], latch := [],
    sys := { Sys.init with resetAt := s.clk, resetCause := cause, cellW := if cause = 3 then s.sys.cellW else none,
                           block := s.sys.block },
    irc := { Irc.init with hall := (s1.cfgAt (aIrc + 0x18)).getLsbD 0, noMasterAt := s.clk, noLockedAt := s.clk },
    mbxs := [], bound := s.boundBefore, xfers := [], heldRx := [],
    lanes := tmap s.lanes (fun _ l => { Lane.init with sent := l.sent }),
    ports := tmap s.ports (fun _ q => { Port.init with wire := q.wire }), aux := [],
    sol := { Solder.init with count := poolCounts (s1.cfgAt (aSld + 0x104)).toNat (s1.cfgAt (aSld + 0x108)).toNat },
    sch := Sched.init, ctxs := tmap s.ctxs (fun _ c => c.afterReset),
    tensors := tmap s.tensors (fun _ t => t.afterReset), slots := [], queue := [], lateDescs := [],
    bzFenced := s.bzFenced.filter (fun k => !b.bzPass.getLsbD k),
    pwt := Pewter.init,
    stl := { Steel.init with
      fenced := s.stl.fenced.filter (fun n => !b.stPass.getLsbD n),
      clusters := (s.stl.clusters.filter (fun e => e.2.fenced && !b.clPass.getLsbD e.1)).map (fun e =>
        (e.1, { Cluster.init with fenced := true })) },
    ing := { s.ing with stks := tmap s.ing.stks (fun _ k => k.afterReset s.clk) },
    flt := { s.flt with timers := [], lost := [], passed := [], heldDescs := [], acts := [], rejoin := [] }, sec := Sec.init }

/-- Warm reset (14 R404 to R406): LEAVE with reason 0 on every port, the crash dump, the units' reset, the
boot. It does not end class X. -/
def State.warm (s : State) (cause : Nat) (b : BootObs) : State :=
  if s.sys.classX || s.pins.floating then s
  else
    let s := (s.leaveAll 0 .down).crashDump cause
    (s.unitsReset cause b).boot b

/-- What a cold reset also clears, or puts back from boot flash: Ingot contents and the regions, plans and states in it, the fault log and
the dumps (14 Table 14.9, 12 R325). FLT_HOLD_LIMIT, FLT_DEFER and the pool counts take their reset values. -/
def State.clearIngot (s : State) : State :=
  { s with
    cfg := [], irc := { s.irc with hall := false }, ctxs := [], groups := [], tensors := [], regions := [],
    sol := { s.sol with count := poolCounts 0x2000 0x100 },
    ing := { s.ing with pages := [], maps := [], poison := [], pool3 := 262144, pool4 := 4096,
                        stks := tmap s.ing.stks (fun i k => k.afterCold s.flash i) },
    flt := { recs := [], head := 0, timers := [], dumps := [], dumpNext := 0, lost := [], passed := [], heldDescs := [], acts := [],
             rejoin := [] } }

/-- The block held in reset or unpowered: every unit reset and every output floating (16 R443). The straps
stay as they were sampled last. -/
def State.heldReset (s : State) : State :=
  let s := (s.unitsReset 0 { romOk := true, otpOk := true, prefixOk := true, rsvBurned := 0, rsvPartial := false,
                             hostbr := s.pins.hostbr, pos := BitVec.ofNat 4 s.pins.sw, bzPass := 0, stPass := 0,
                             clPass := 0 }).clearIngot
  { s with ports := [], lanes := [], pins := { s.pins with floating := true, faultLow := false, pulseAt := none, gapAt := none,
                                                           pulseDue := false } }

end Sys2Proof.Machine
end

