-- ==== Sys2Proof/Machine/Coll.lean ====
section
/-! DEFINITION. Collectives in common: descriptor fields (08 R213), the plan of nodes (08 R226 to R228),
records and completions (08 R216 to R220), the paths of returns and records (10 R284), multicast (06 R157,
R159), and ending a collective (08 R217, 14 R393, R397). -/

namespace Sys2Proof.Machine

/-! ### Descriptor fields (08 Table 8.3) -/

def dKind (d : List Byte) : Nat := fld d 0 1
def dCtx (d : List Byte) : Nat := fld d 1 1
def dGen (d : List Byte) : Nat := fld d 2 2
def dId (d : List Byte) : Nat := fld d 4 4
def dLaunch (d : List Byte) : Nat := fld d 8 8
def dStep (d : List Byte) : Nat := fld d 16 4
def dGroup (d : List Byte) : Nat := fld d 20 2 % 4096
def dTensor (d : List Byte) : Nat := fld d 22 2
def dCfmt (d : List Byte) : Nat := fld d 24 1 % 16
def dRfmt (d : List Byte) : Nat := fld d 24 1 / 16
def dAscale (d : List Byte) : Nat := fld d 25 1
def dSched (d : List Byte) : Bool := bit (fld d 26 1) 0
def dTree (d : List Byte) : Bool := bit (fld d 26 1) 1
def dRing (d : List Byte) : Bool := bit (fld d 26 1) 2
def dParts (d : List Byte) : Nat := fld d 27 1
def dEpoch (d : List Byte) : Nat := fld d 28 2
def dBudget (d : List Byte) : Nat := fld d 30 2
def dElements (d : List Byte) : Nat := fld d 32 5
/-- ROOT of a kernel descriptor (11 Tables 11.7, 11.8, 11.10). -/
def dRoot (d : List Byte) : Nat := fld d 64 2 % 32768

def kStep : Nat := 1
def kFetch : Nat := 2
def kBarrier : Nat := 3
def kMatmul : Nat := 0x10
def kRequant : Nat := 0x11
def kGather : Nat := 0x12
def isKernel (k : Nat) : Bool := k == kMatmul || k == kRequant || k == kGather

/-- The order of R210: LAUNCH, then COLLECTIVE_ID, then CTX. -/
def r210 (a b : List Byte) : Bool :=
  dLaunch a < dLaunch b || (dLaunch a == dLaunch b &&
    (dId a < dId b || (dId a == dId b && dCtx a ≤ dCtx b)))

/-- Collectives put in the order of R210. -/
def putInOrder {α : Type} (d : α → List Byte) (x : α) : List α → List α
  | [] => [x]
  | y :: l => if r210 (d x) (d y) then x :: y :: l else y :: putInOrder d x l

def inOrder {α : Type} (d : α → List Byte) (l : List α) : List α := l.foldr (putInOrder d) []

/-! ### Tensor entries (10 Table 10.1) -/

def tRule (e : List Byte) : Nat := fld e 0 1 % 16
def tFlags (e : List Byte) : Nat := fld e 1 1
def tRfmt (e : List Byte) : Nat := fld e 2 1 / 16
def tCfmt (e : List Byte) : Nat := fld e 2 1 % 16
def tNsfmt (e : List Byte) : Nat := fld e 3 1 % 16
def tOwner (e : List Byte) : Nat := fld e 4 2 % 32768
def tTwin (e : List Byte) : Nat := fld e 6 2 % 32768
def tElements (e : List Byte) : Nat := fld e 8 5
def tRows (e : List Byte) : Nat := fld e 16 4
def tCols (e : List Byte) : Nat := fld e 20 4
def tDelay (e : List Byte) : Nat := fld e 24 4
def tHyper (e : List Byte) (i : Nat) : Word := BitVec.ofNat 32 (fld e (32 + 4 * i) 4)
def tIsTwin (e : List Byte) : Bool := bit (tFlags e) 7
def tNesterov (e : List Byte) : Bool := bit (tFlags e) 6
def tPmode (e : List Byte) : Bool := bit (tFlags e) 5
def tMfmt (e : List Byte) : Bool := bit (tFlags e) 4
def tZero (e : List Byte) : Bool := bit (tFlags e) 3
def tResume (e : List Byte) : Bool := bit (tFlags e) 2
def tSuppress (e : List Byte) : Bool := bit (tFlags e) 1
def tFrozen (e : List Byte) : Bool := bit (tFlags e) 0

/-- Bytes of a moment array, and of W. -/
def tMomentBytes (e : List Byte) : Nat := tElements e * (if tMfmt e then 2 else 4)
/-- Moment arrays of a rule: two for AM. -/
def tMoments (e : List Byte) : Nat := if tRule e = 2 then 2 else 1

/-- Pending values that have come due (10 R259). -/
def applyPend (e : List Byte) (step : Nat) : List Byte :=
  let p := fld e 60 4
  if p != 0 && decide (p ≤ step) then
    putBytes (putBytes (putBytes e 1 (bytesAt e 56 1)) 32 (bytesAt e 64 24)) 60 (toLe 4 0)
  else e

/-- The Fixus that acts as owner of a collective launched at `l`: the twin once the owner has left service, and for every launch before
the count from which the owner, back again, has its copy (10 R283). No message gives the other Fixus that count: DESIGN CHOICE
(assumption log 169). -/
def State.actingOwner (s : State) (e : List Byte) (l : Nat) : Nat :=
  if tIsTwin e && s.flt.acts.any (fun a => a.1 == tOwner e && (match a.2 with
      | some n => decide (l < n)
      | none => true)) then tTwin e
  else tOwner e

/-- A lost Fixus is back in service, as owner from count `n` on unless that is settled already (10 R283). -/
def State.ownerBack (s : State) (a n : Nat) : State :=
  { s with flt := { s.flt with lost := s.flt.lost.filter (· != a),
                               acts := s.flt.acts.map (fun e => if e.1 = a then (e.1, some (e.2.getD n)) else e) } }

/-- Is a collective of any context held here (14 R399)? -/
def State.holdsAny (s : State) : Bool := (s.slots.map Prod.snd ++ s.queue).any (fun c => c.heldAt.isSome)

/-- A Fixus that counted as lost is heard from: it is in service. While collectives are held the RESUME that follows says from when it is
owner again (10 R283, 14 R400). -/
def State.heardBack (s : State) (a : Nat) : State :=
  if s.holdsAny then { s with flt := { s.flt with lost := s.flt.lost.filter (· != a) } } else s.ownerBack a s.now

/-- The other Fixus of a twin pair. -/
def partnerOf (e : List Byte) (a : Nat) : Nat := if a = tOwner e then tTwin e else tOwner e

/-! ### Collectives held -/

/-- Slot of a context's collective. -/
def State.findColl (s : State) (ctx cid : Nat) : Option Nat :=
  (s.slots.find? (fun e => dCtx e.2.desc == ctx && dId e.2.desc == cid)).map Prod.fst

def State.coll (s : State) (slot : Nat) : Option Coll := tfind s.slots slot
def State.setColl (s : State) (slot : Nat) (c : Coll) : State := { s with slots := tset s.slots slot c }

def State.membersOf (s : State) (d : List Byte) : List Nat := (s.group (dGroup d)).members

/-- Members homed here, with their ranks. -/
def State.myMembers (s : State) (d : List Byte) : List (Nat × Nat) :=
  ((s.membersOf d).mapIdx (fun i a => (i, a))).filter (fun e => homeOf e.2 == s.addr)

/-- The root: owner of the tensor, home of rank 0 for BARRIER, ROOT of a kernel (08 R213). -/
def State.rootOf (s : State) (d : List Byte) : Nat :=
  if isKernel (dKind d) then dRoot d
  else if dKind d = kBarrier then homeOf ((s.membersOf d).headD 0)
  else match s.tensor (dCtx d) (dTensor d) with
    | some t => s.actingOwner t.entry (dLaunch d)
    | none => 0

/-- Is this Fixus the mirror that follows the collective's update (10 R281)? -/
def State.isMirror (s : State) (d : List Byte) : Bool :=
  dKind d == kStep && (match s.tensor (dCtx d) (dTensor d) with
    | some t => tIsTwin t.entry && s.addr == partnerOf t.entry (s.rootOf d) && s.addr != s.rootOf d
    | none => false)

def State.iAmRoot (s : State) (d : List Byte) : Bool := s.rootOf d == s.addr

/-! ### Segments (08 Table 8.6) -/

/-- Elements of a full segment. -/
def segElems (c : Nat) : Nat := if c = 4 then 7168 else if isMx c then 5120 else if c = 1 then 2048 else 1024
/-- Contribution bytes of a full segment, and partial bytes. -/
def segBytes (c : Nat) : Nat := arrayBytes c (segElems c)
def partialBytes (c : Nat) : Nat := if isMx c then segElems c / 32 * 65 else 4 * segElems c

/-- Segments of a collective: one, empty, for BARRIER, and where a tensor has no element. -/
def segCount (d : List Byte) : Nat := if dKind d = kBarrier then 1 else max 1 (cdiv (dElements d) (segElems (dCfmt d)))
/-- Elements of segment `g`. -/
def segLen (d : List Byte) (g : Nat) : Nat := min (segElems (dCfmt d)) (dElements d - g * segElems (dCfmt d))
/-- Blocks of segment `g` in exact mode. -/
def segBlocks (d : List Byte) (g : Nat) : Nat := cdiv (segLen d g) 32
def isExact (d : List Byte) : Bool := isMx (dCfmt d)

/-- Part of a segment (08 R213). -/
def partOfSeg (d : List Byte) (g : Nat) : Nat := g / cdiv (segCount d) (max 1 (dParts d))

/-! ### The plan of nodes (08 R226 to R228) -/

/-- RING or TREE (08 R225). -/
def State.algoRing (s : State) (d : List Byte) : Bool :=
  let bpm := arrayBytes (dCfmt d) (dElements d)
  dKind d == kStep && !dTree d && (dRing d || decide ((s.ctx (dCtx d)).threshold ≤ bpm))

/-- Positions of an axis whose partials reach position `v` from its − side, those from its + side, and the
direction of its own output, with the root at `o` (08 R227). -/
def axisPlan (spans ring : Bool) (n o v : Nat) : List Nat × List Nat × Option Bool :=
  if spans && ring then
    let d := (v + n - (o + 1) % n) % n
    ((List.range d).map (fun i => (o + 1 + i) % n), [], if v = o then none else some true)
  else if spans then
    let d (u : Nat) : Nat := (o + n - u) % n
    let fwd (u : Nat) : Bool := decide (2 * d u ≤ n)
    let all := (List.range n).filter (fun u => d u != 0)
    if v = o then (all.filter fwd, all.filter (fun u => !fwd u), none)
    else if fwd v then (all.filter (fun u => fwd u && decide (d v < d u)), [], some true)
    else ([], all.filter (fun u => !fwd u && decide (d u < d v)), some false)
  else
    ((List.range n).filter (fun u => decide (u < v) && decide (v ≤ o)),
     (List.range n).filter (fun u => decide (v < u) && decide (o ≤ v)),
     if v = o then none else some (decide (v < o)))

/-- One node from the key of its own input and those of its neighbours' partials; none with no input, and a
stage that only passes its own input on is skipped. -/
def mkNode (st : Stage) (own : Option Nat) (ins : List (Option Nat × Nat)) (out : Option Nat) : Option Node :=
  let l := (own.map (fun k => (Src.own, k))).toList ++
    ins.filterMap (fun e => e.1.map (fun k => (Src.group e.2, k)))
  if l.isEmpty then none
  else if out.isNone && l.length == 1 && own.isSome then none
  else some { stage := st, inputs := l.mergeSort (fun a b => decide (a.2 ≤ b.2)), abandoned := [], segs := [],
              late := false, fenced := false, out := out }

/-- The nodes of this Fixus for members `ms` and a root (08 R226 to R228; rank keys by 09 R249). -/
def State.planNodes (s : State) (ms : List Nat) (root : Nat) (ring : Bool) : List Node :=
  match s.blockXY s.sys.cell, s.blockXY (addrCell root) with
  | some (bx, by_), some (ox, oy) =>
    let (_, _, w, h) := s.sys.block
    let sw := s.pins.sw
    let r := swRow sw
    let c := swCol sw
    let rr := swRow (addrSw root)
    let rc := swCol (addrSw root)
    let key (p : Nat → Bool) : Option Nat := ms.findIdx? (fun a => p (homeOf a))
    let inCell (f x y : Nat) : Bool := s.blockXY (addrCell f) == some (x, y)
    let here (f : Nat) : Bool := inCell f bx by_
    let rowOf (f : Nat) : Nat := swRow (addrSw f)
    let colOf (f : Nat) : Nat := swCol (addrSw f)
    let local_ := (ms.mapIdx (fun i a => (i, a))).filter (fun e => homeOf e.2 == s.addr)
    let locNode : Option Node :=
      if local_.isEmpty then none
      else some { stage := .loc, inputs := local_.map (fun e => (Src.rank e.1, e.1)), abandoned := [], segs := [],
                  late := false, fenced := false, out := none }
    let rowNode :=
      mkNode .row (key (fun f => f == s.addr))
        [(if c ≤ rc then key (fun f => here f && rowOf f == r && decide (colOf f < c)) else none, 11),
         (if rc ≤ c then key (fun f => here f && rowOf f == r && decide (c < colOf f)) else none, 9)]
        (if c < rc then some 9 else if rc < c then some 11 else none)
    let colNode :=
      if c = rc then
        mkNode .col (key (fun f => here f && rowOf f == r))
          [(if r ≤ rr then key (fun f => here f && decide (rowOf f < r)) else none, 8),
           (if rr ≤ r then key (fun f => here f && decide (r < rowOf f)) else none, 10)]
          (if r < rr then some 10 else if rr < r then some 8 else none)
      else none
    let ax := axisPlan (w == s.hallX) ring (if w = s.hallX then s.hallX else w) ox bx
    let ay := axisPlan (h == s.hallY) ring (if h = s.hallY then s.hallY else h) oy by_
    let proxy := c == rc && r == rr
    let xNode :=
      if proxy then
        mkNode .x (key here)
          [(key (fun f => ax.1.any (fun x => inCell f x by_)), 13),
           (key (fun f => ax.2.1.any (fun x => inCell f x by_)), 12)]
          (ax.2.2.map (fun plus => if plus then 12 else 13))
      else none
    let inLine (f y : Nat) : Bool := match s.blockXY (addrCell f) with
      | some (_, fy) => fy == y
      | none => false
    let yNode :=
      if proxy && bx == ox then
        mkNode .y (key (fun f => inLine f by_))
          [(key (fun f => ay.1.any (fun y => inLine f y)), 15),
           (key (fun f => ay.2.1.any (fun y => inLine f y)), 14)]
          (ay.2.2.map (fun plus => if plus then 14 else 15))
      else none
    [locNode, rowNode, colNode, xNode, yNode].filterMap id
  | _, _ => []

/-! ### Multicast and chains (06 R157, R159; 10 R284) -/

/-- Row and column copies of a multicast that starts here or arrived by port group `from_`: the port groups
the copies leave on. -/
def State.mcastGroups (s : State) (mc : BitVec 3) (from_ : Option Nat) : List Nat :=
  let r := swRow s.pins.sw
  let c := swCol s.pins.sw
  let row := mc.getLsbD 0
  let col := mc.getLsbD 1
  let east := if c < 3 then [9] else []
  let west := if 0 < c then [11] else []
  let north := if 0 < r then [8] else []
  let south := if r < 3 then [10] else []
  let starting := match from_ with
    | some g => !(g == 8 || g == 9 || g == 10 || g == 11)
    | none => true
  let byRow := from_ == some 9 || from_ == some 11
  let rowOut :=
    if !row then [] else if starting then east ++ west else if from_ == some 11 then east
    else if from_ == some 9 then west else []
  let colOut :=
    if !col then [] else if starting || (row && byRow) then north ++ south
    else if from_ == some 8 then south else if from_ == some 10 then north else []
  rowOut ++ colOut

/-- Port groups on which a return or record goes on along the chains of 10 R284 from this cell, for a root at
this Fixus's position in cell (ox, oy). -/
def chainDir (spans : Bool) (n o v : Nat) : List Bool :=
  if spans then
    (if n ≤ 1 || (v + n - 1) % n = o then [] else [false])
  else
    (if v ≤ o && 0 < v then [false] else []) ++ (if o ≤ v && v + 1 < n then [true] else [])

def State.chainGroups (s : State) (root : Nat) : List Nat :=
  if addrSw root != s.pins.sw then []
  else match s.blockXY s.sys.cell, s.blockXY (addrCell root) with
    | some (bx, by_), some (ox, oy) =>
      let (_, _, w, h) := s.sys.block
      (if by_ = oy then (chainDir (w == s.hallX) w ox bx).map (fun p => if p then 12 else 13) else []) ++
      (chainDir (h == s.hallY) h oy by_).map (fun p => if p then 14 else 15)
    | _, _ => []

/-- Live ports of a list of groups, one each by `h`, and the groups that have none. -/
def State.groupOuts (s : State) (gs : List Nat) (h : Nat) : List Nat × List Nat :=
  let port (g : Nat) : Option Nat := s.kth ((groupPorts g).filter (fun p => (s.portPeer p).isSome)) h
  (gs.filterMap port, gs.filter (fun g => (port g).isNone))

/-- The port for an accelerator's copy: a live one of its pair by the hash. While a present accelerator has none, its copy waits for the
port that retrains: DESIGN CHOICE (assumption log 163), (H mod k) with k = 0 names none. -/
def State.accPort (s : State) (h a : Nat) : Option Nat :=
  if s.accPresent a then
    s.kth (accPorts a) h <|> (accPorts a).find? (fun p => (s.port p).st == .retrain)
  else none

/-- The local copies of a multicast's ACC stage: one port of each present accelerator (06 R157). -/
def State.accOuts (s : State) (h : Nat) : List Nat := (List.range 16).filterMap (fun a => s.accPort h a)

/-- One stored frame queued for several outputs (06 R158, 10 R284). -/
def State.queueCopies (s : State) (inp id : Nat) (f : Frame) (outs : List Nat) : State :=
  if outs.isEmpty then s.discard id
  else
    let s := { s with sol := { s.sol with cells := tmap s.sol.cells (fun k c =>
      if k / 64 = id then { c with copies := outs.length } else c) } }
    s.queueEnt { inp := inp, outs := outs, mc := true, frame := f, id := id, cells := cdiv f.hdr.frameLen.toNat 240,
                 passed := [], since := 0, noRoute := none, sent := false, noCredit := none, atUnit := none }

/-- The Fixus of this cell that a copy sent by mesh group `g` leads to, its own copies included (06 R157). -/
def State.beyond (s : State) (mc : BitVec 3) (g : Nat) : List Nat :=
  let r := swRow s.pins.sw
  let c := swCol s.pins.sw
  ((List.range 16).filter (fun w =>
    if g = 9 then decide (c < swCol w) && (swRow w == r || mc.getLsbD 1)
    else if g = 11 then decide (swCol w < c) && (swRow w == r || mc.getLsbD 1)
    else if g = 8 then swCol w == c && decide (swRow w < r)
    else if g = 10 then swCol w == c && decide (r < swRow w)
    else false)).map (fun w => fixusAddr s.sys.cell w)

/-- Copies that a mesh group without a live port would have taken are lost: class D for the context (06 R159). A home that one led
to has the frame sent again by unicast (08 R220, 10 R286): DESIGN CHOICE (assumption log 135), the Fixus where the copy is lost
asks for it in the home's name, since no message tells the home. -/
def State.mcastLost (s : State) (inp : Nat) (f : Frame) (gs : List Nat) : State :=
  if gs.isEmpty then s
  else
    let s := (s.bump (aSld + 0x40 + 4 * 7) gs.length).record 1 1 f.hdr.ctx.toNat 0x0304 (8 + 65536 * f.hdr.dest.toNat)
    match (s.findColl f.hdr.ctx.toNat f.hdr.collId.toNat).bind (fun slot => s.coll slot) with
    | none => s
    | some c =>
      let root := s.rootOf c.desc
      let ft := f.hdr.ftype.toNat
      if ft != ftReturn && ft != ftCompletion then s
      else
        ((gs.flatMap (fun g => s.beyond f.hdr.mcast g)).filter (fun a =>
          (s.membersOf c.desc).any (fun m => homeOf m == a))).foldl (fun s a =>
            if root = s.addr then
              s.sendFrame inp { f with hdr := { f.hdr with dest := BitVec.ofNat 15 a, mcast := 0 } }
            else s.sendCtlTo root (.returnResend
              { ctx := f.hdr.ctx, source := BitVec.ofNat 15 a, target := BitVec.ofNat 15 root, collId := f.hdr.collId,
                offset := if ft = ftCompletion then 0xFFFFFFFF else f.hdr.offset })) s

/-- A frame that this Fixus starts as a multicast in its cell and on the chains from `root`, each chain by its PATH (10 R284). -/
def State.sendTree (s : State) (inp root : Nat) (f : Frame) : State :=
  let h := frameHash f
  let (mesh, lost) := s.groupOuts (s.mcastGroups f.hdr.mcast none) h
  let (hall, _) := s.groupOuts (s.chainGroups root) f.hdr.path.toNat
  let acc := if f.hdr.mcast.getLsbD 2 then s.accOuts h else []
  let outs := hall ++ mesh ++ acc
  (if outs.isEmpty then s else s.enter inp f outs true).mcastLost inp f lost

/-! ### Records (08 Table 8.4) -/

/-- Record bytes. -/
def recordBytes (d : List Byte) (status nextA done gdig pdig partFail : Nat) (conds : BitVec 16)
    (lowest rescaled : Nat) : List Byte :=
  toLe 1 status ++ toLe 1 (dKind d) ++ toLe 1 (dCtx d) ++ toLe 1 nextA ++ toLe 2 (dGen d) ++ toLe 2 (dGroup d) ++
  toLe 4 (dId d) ++ toLe 4 (dStep d) ++ toLe 8 (dLaunch d) ++ toLe 8 done ++ toLe 8 gdig ++ toLe 8 pdig ++
  toLe 8 partFail ++ toLe 2 conds.toNat ++ toLe 2 lowest ++ toLe 2 rescaled ++ toLe 1 (dParts d) ++ toLe 1 0xA5

/-- The record every home builds itself at a stop count (08 R217). -/
def stopRecord (d : List Byte) (status done : Nat) : List Byte :=
  recordBytes d status 0 done 0 0 0 (addCond 0 status) 0xFFFF 0

/-- A home writes the record into the CPL area of each member it homes: COMPLETION frames of STAGE 2 on VC14
from Pewter (08 R216, R220). -/
def State.writeRecords (s : State) (d : List Byte) (rec_ : List Byte) : State :=
  ((s.myMembers d).filter (fun e => s.accPresent (addrUnit e.2))).foldl (fun s e =>
    s.sendFrame 78 { vc := 14, hdr := { s.hdr e.2 ftCompletion (dCtx d) (dGen d) (dId d) 0 (2 + 65536 * e.1)
                                          false 0 64 with gen := BitVec.ofNat 16 (dGen d) },
                     payload := rec_ }) s

/-- The root posts the record to the mailbox that posted the descriptor (08 R219, 13 R364). -/
def State.postRecord (s : State) (c : Coll) (rec_ : List Byte) : State :=
  s.postCpl c.cmd.mbx c.cmd.inst
    { opcode := 0x0202, result := fld rec_ 0 1, tag := c.cmd.tag, index := c.cmd.index, detail := 0,
      count := s.now, ret := rec_ }

/-- The root sends the record along the paths of 10 R284: STAGE 1, MCAST = ROW and COL (08 R220). -/
def State.sendRecord (s : State) (d : List Byte) (rec_ : List Byte) : State :=
  let h := s.hdr s.addr ftCompletion (dCtx d) (dGen d) (dId d) 0 1 false 0 64
  s.sendTree 78 s.addr { vc := 14, hdr := { h with mcast := 3 }, payload := rec_ }

/-- Flag bits of 09 Table 9.2. -/
def flNf : BitVec 6 := 1
def flLate : BitVec 6 := 2
def flFenced : BitVec 6 := 4
def flCheck : BitVec 6 := 8
def flRescaled : BitVec 6 := 16
def flSat : BitVec 6 := 32

/-- Does the root of a collective that takes nothing from its members know that one of them, which it homes, lost both ports (08 R234)? -/
def Coll.memberLost (c : Coll) : Bool := (c.root.getD Root.init).flags &&& flFenced != 0

/-! ### Freeing what a collective holds -/

/-- Cells of the inputs of a node's open segments. -/
def State.freeNodes (s : State) (ns : List Node) : State :=
  ns.foldl (fun s n => n.segs.foldl (fun s g => g.2.ins.foldl (fun s i => s.dropFrom i.id 0) s) s) s

/-- Tokens open in segments: inputs that came in frames and are in a segment that is not done. -/
def openTokens (ns : List Node) : Nat :=
  ns.foldl (fun n x => x.segs.foldl (fun n g =>
    if g.2.done then n else n + (g.2.ins.filter (fun i => i.src != .own)).length) n) 0

/-- A frame of a return, or the root's record, is lost on its way to this home, which asks the root for it by RETURN_RESEND; a
part already received no longer counts (08 R220, 10 R286). DESIGN CHOICE (assumption log 135): for what is lost at this Fixus;
the spec gives no message by which a home would learn of a loss at another. -/
def State.askAgain (s : State) (f : Frame) : State :=
  match s.findColl f.hdr.ctx.toNat f.hdr.collId.toNat with
  | none => s
  | some slot =>
    match s.coll slot with
    | none => s
    | some c =>
      let ft := f.hdr.ftype.toNat
      let root := s.rootOf c.desc
      let off := f.hdr.offset.toNat
      let h := c.home.getD Home.init
      let rec_ := ft == ftCompletion && f.hdr.ts.toNat % 256 == 1 && h.record.isNone
      let ret := ft == ftReturn || (ft == ftKernel && f.hdr.ts.toNat % 256 == 1)
      let here := f.hdr.dest.toNat == s.addr || (f.hdr.mcast != 0 && addrCell f.hdr.dest.toNat == s.sys.cell) ||
        (homeOf f.hdr.dest.toNat == s.addr)
      if !here || (s.myMembers c.desc).isEmpty || root == s.addr || h.written || !(rec_ || ret) then s
      else
        let unit := addrUnit ((s.membersOf c.desc).getD (bits f.hdr.ts.toNat 29 16) 0)
        let mine (e : Nat × Nat × Nat) : Bool :=
          ret && e.1 == off && (!(ft == ftKernel && dKind c.desc == kGather) || e.2.1 == unit)
        let h := { h with got := h.got.filter (fun e => !mine e) }
        (s.setColl slot { c with home := some h }).sendCtlTo root
          (.returnResend { ctx := f.hdr.ctx, source := BitVec.ofNat 15 s.addr, target := BitVec.ofNat 15 root,
                           collId := f.hdr.collId, offset := if rec_ then 0xFFFFFFFF else BitVec.ofNat 32 off })

/-- The synthetic EOF flit of 06 Table 6.6: LEN 1 and a payload of zeros. -/
def synthTail : Nat × List Byte := (1, [])

/-- A frame is found bad: on outputs that have sent none of its flits it is dropped, on the others it ends with a
bad tail; no queue, resequencer or output's channel holds it any more, its cells are freed but for those that await an
acknowledgement, and what is still to come of it is discarded (06 R156). -/
def State.cutFrame (s : State) (id : Nat) (tail : Nat × List Byte) : State :=
  let lost := ((s.sol.queues ++ s.sol.descWait).find? (fun q => q.id == id)).map (fun q => q.frame)
  let lost := lost <|> s.ports.findSome? (fun e => (e.2.egress.find? (fun x => x.id == id)).map (fun x => x.frame))
  let s := match lost with
    | some f => (s.askAgain f).loseToken f id
    | none => s
  let s := { s with sol := { s.sol with
    queues := s.sol.queues.filter (fun q => q.id != id), descWait := s.sol.descWait.filter (fun q => q.id != id),
    vcOwner := s.sol.vcOwner.filter (fun e => e.2 != id),
    flows := tmap s.sol.flows (fun _ (f : Flow) =>
      let held := f.held.filter (fun (x : Frame × Nat) => x.2 != id)
      { f with held := held, gap := if held.isEmpty then none else f.gap,
               waiting := f.waiting.filter (fun x => x.2 != id) }) } }
  let waiting := (List.range 64).filter (fun p => (s.port p).egress.any (fun e => e.id == id))
  let begun := waiting.filter (fun p => (s.port p).egress.any (fun (e : Staged) => e.id == id && decide (0 < e.sent)))
  let s := waiting.foldl (fun s p =>
    let q := s.port p
    s.setPort p { q with egress := q.egress.filterMap (fun e =>
      if e.id != id then some e else if e.sent = 0 then none else some { e with tail := some tail }) }) s
  let s := (List.range 64).foldl (fun s k =>
    match tfind s.sol.cells (64 * id + k) with
    | none => s
    | some c =>
      let n := s.unackedAt id k
      if 0 < n then { s with sol := { s.sol with cells := tset s.sol.cells (64 * id + k) { c with copies := n } } }
      else
        let s := { s with sol := { s.sol with cells := tdel s.sol.cells (64 * id + k) } }
        if c.inp < 64 then s.returnCredit c.inp c.vc else s) s
  (s.discardRest id).bump (aSld + 0x30) begun.length

/-- The frames now at the heads of VC10 to VC13 take their tags at every port (07 R191). -/
def State.allTags (s : State) : State := (List.range 64).foldl (fun s p => s.headTags p) s

/-- A bad frame ends, with the tail given where it has begun to leave (06 R156), and those behind it come to the head. -/
def State.badFrame (s : State) (id : Nat) (tail : Nat × List Byte) : State := (s.cutFrame id tail).allTags

/-- The frames that satisfy `test` go: those with no flit sent are freed, those partly sent end with a bad tail, and
what is still being received of them is discarded (14 R393 step 3). -/
def State.purge (s : State) (test : Frame → Bool) : State :=
  let ids := ((s.sol.queues.filter (fun q => test q.frame)).map (fun q => q.id) ++
    (s.sol.descWait.filter (fun q => test q.frame)).map (fun q => q.id) ++
    (List.range 64).flatMap (fun p => ((s.port p).egress.filter (fun e => test e.frame)).map (fun e => e.id))).eraseDups
  let waits := (tget s.sol.waits 0 []).filter (fun r => !ids.contains r.tag)
  let s : State := { s with sol := { s.sol with waits := tset s.sol.waits 0 waits } }
  (ids.foldl (fun s id => s.cutFrame id synthTail) s).allTags

/-- Frames of a collective. -/
def ofColl (d : List Byte) (f : Frame) : Bool :=
  f.hdr.ftype.toNat != ftMgmt && f.hdr.ftype.toNat != ftData && f.hdr.ctx.toNat == dCtx d && f.hdr.collId.toNat == dId d

/-- Is a collective decided, as far as this Fixus knows: here, or by a record or a return that has reached it? -/
def Coll.isDecided (c : Coll) : Bool :=
  c.decided.isSome || (match c.home with
    | some h => h.record.isSome || !h.got.isEmpty
    | none => false)

/-- Does a kernel descriptor name TENSOR's W under key 0xFFFF (11 R302)? -/
def readsW (d : List Byte) : Bool :=
  (dKind d == kMatmul && (fld d 66 2 == 0xFFFF || fld d 68 2 == 0xFFFF)) ||
  (dKind d == kRequant && fld d 66 2 == 0xFFFF)

/-- Does a FETCH or a kernel of this root read version `v` of a tensor's W (10 R269, 11 R302)? -/
def State.readsVersion (s : State) (ctx tensor v : Nat) : Bool :=
  s.slots.any (fun e => e.2.launched && e.2.decided.isNone && s.iAmRoot e.2.desc && dCtx e.2.desc == ctx &&
    dTensor e.2.desc == tensor && e.2.frozenVer == v && (readsW e.2.desc || s.pwt.fetches.contains (ctx, dId e.2.desc)))

/-- Pages of old versions are freed when no FETCH and no kernel reads them any more (10 R269, 11 R302). -/
def State.freeOld (s : State) (ctx tensor : Nat) : State :=
  s.freePages (fun h => match h with
    | .old x t v => x == ctx && t == tensor && !s.readsVersion ctx tensor v
    | _ => false)

/-- Everything a collective holds outside its slot is freed: cells, spill buffers, working pages, image pages,
its place in Pewter and Steel (14 R393 steps 3 to 6, R397, 10 R279). Its open tokens count as dropped. -/
def State.clearColl (s : State) (c : Coll) : State :=
  let ctx := dCtx c.desc
  let cid := dId c.desc
  let s := (s.freeNodes c.nodes).bump (aFlt + 0xA0) (openTokens c.nodes)
  let s := s.freePages (fun h => match h with
    | .work x y _ => x == ctx && y == cid
    | .image x y => x == ctx && y == cid
    | .spill x y _ _ _ => x == ctx && y == cid
    | _ => false)
  let mine (u : Update) : Bool := u.ctx == ctx && u.cid == cid
  let hadUpd := (s.pwt.upd.any mine) || s.pwt.finished.any mine
  let s := { s with pwt := { s.pwt with upd := s.pwt.upd.filter (fun u => !mine u),
                                        finished := s.pwt.finished.filter (fun u => !mine u),
                                        fetches := s.pwt.fetches.filter (· != (ctx, cid)),
                                        ready := s.pwt.ready.filter (· != (ctx, cid)) } }
  let s := s.endJobIf (fun j => match j with
    | .ns x y => x == ctx && y == cid
    | .matmul x y _ => x == ctx && y == cid)
  match hadUpd, s.tensor ctx (dTensor c.desc) with
  | true, some t => s.setTensor ctx (dTensor c.desc) { t with ver := { t.ver with pending := 0 } }
  | _, _ => s

/-- A collective in a slot ends at a stop count without its root's decision: records at every home, the slot
freed, and the pages of an old version that only it read (08 R217, 14 R393, R397, 10 R269). -/
def State.stopSlot (s : State) (slot status done : Nat) : State :=
  match s.coll slot with
  | none => s
  | some c =>
    let r := stopRecord c.desc status done
    let s := ((s.purge (ofColl c.desc)).clearColl c).writeRecords c.desc r
    let s := if s.iAmRoot c.desc then s.postRecord c r else s
    ({ s with slots := tdel s.slots slot }).freeOld (dCtx c.desc) (dTensor c.desc)

/-- A collective in the launch queue ends: records at every home, and its post completes with the status. -/
def State.stopQueued (s : State) (c : Coll) (status done : Nat) : State :=
  let s := { s with queue := s.queue.filter (· != c) }
  let r := stopRecord c.desc status done
  let s := s.writeRecords c.desc r
  let s := if s.iAmRoot c.desc then s.postRecord c r else s
  s.complete c.cmd status 0 (toLe 2 0xFFFF)

/-- The refusal counter, BRZ_REFUSED, raised (08 Table 8.11). -/
def State.countRefused (s : State) : State := s.bump (aBrz 0 + 0xF00C) 1

/-- Is this Fixus's part of a collective over, so that its slot frees (08 R208)? -/
def State.slotOver (s : State) (c : Coll) : Bool :=
  let home := !(s.myMembers c.desc).isEmpty
  let nodesDone := c.nodes.all (fun n => (List.range (segCount c.desc)).all (fun g => (tget n.segs g Seg.init).done))
  (!home || (c.home.getD Home.init).written) &&
  (if s.iAmRoot c.desc then c.decided.isSome && (c.record.isNone || c.ret.isNone)
   else if s.isMirror c.desc then c.decided.isSome
   else if home then true else nodesDone)

/-- The slot is freed where the collective's part is over; the image of a mirror, which nobody was sent, goes with it. -/
def State.trySlot (s : State) (slot : Nat) : State :=
  match s.coll slot with
  | some c =>
    if s.slotOver c then
      let s := if s.isMirror c.desc then s.freePages (fun h => h == .image (dCtx c.desc) (dId c.desc)) else s
      { s with slots := tdel s.slots slot }
    else s
  | none => s

/-! ### Homes -/

/-- Bytes of the image that a collective returns to one member: whole rows of D for MATMUL (11 R308), the whole
output region for REQUANT (11 R310), ELEMENTS of RFMT otherwise. -/
def State.returnBytes (s : State) (d : List Byte) : Nat :=
  if dKind d = kMatmul then fld d 80 4 * arrayBytes (dRfmt d) (fld d 84 4)
  else if dKind d = kRequant then
    match s.region (dCtx d) (fld d 68 2) with
    | some r => r.rows * arrayBytes r.fmt r.cols
    | none => 0
  else arrayBytes (dRfmt d) (dElements d)

/-- Does an outcome return parameters or an output (10 Table 10.6, 11 R309)? `changed` says that the tensor has new values; the tensor's
flags are those that hold for the STEP (10 R259). A kernel that abandoned a member returns nothing: DESIGN CHOICE (assumption log 141)
where its STATUS is not LATE. -/
def State.returns (s : State) (d : List Byte) (conds : BitVec 16) (changed : Bool) : Bool :=
  let status := statusOf conds
  let e := ((s.tensor (dCtx d) (dTensor d)).map (fun t => applyPend t.entry (dStep d))).getD []
  let late := conds.getLsbD 4
  if dKind d = kStep then
    changed || ((status == stFrozen || status == stNonfinite) && !tSuppress e)
  else if dKind d = kFetch then status == stOk
  else if late then false
  else if dKind d = kMatmul then bit (fld d 76 1) 3 && (status == stOk || status == stNonfinite || status == stPartial)
  else if dKind d = kRequant then bit (fld d 71 1) 1 && (status == stOk || status == stNonfinite || status == stPartial)
  else if dKind d = kGather then status == stOk || status == stNonfinite || status == stPartial
  else false

/-- Does a record say that a STEP gave its tensor new values: OK, OK_RESCALED, or NONFINITE under ZERO_ELEMENT? LOWEST_RANK 0xFFFF is
that of an update discarded for its own output (10 R275). Where it is 0xFFFF for an infinity that the conversion of 03 R69 made, the
record does not tell the two apart: DESIGN CHOICE (assumption log 170), a home then waits for a return of which a frame has come. -/
def State.newValues (s : State) (r : List Byte) (d : List Byte) : Bool :=
  let e := ((s.tensor (dCtx d) (dTensor d)).map (fun t => applyPend t.entry (dStep d))).getD []
  let st := fld r 0 1
  st == stOk || st == stRescaled || (st == stNonfinite && tZero e && !tFrozen e && fld r 58 2 != 0xFFFF)

/-- Is a parameter or output copy of a collective still on its way to an accelerator: queued for a down port, staged at one, or
not yet acknowledged there (08 R216)? -/
def State.copiesWait (s : State) (d : List Byte) : Bool :=
  let mine (f : Frame) : Bool :=
    (f.hdr.ftype.toNat == ftReturn || f.hdr.ftype.toNat == ftKernel) && f.hdr.ctx.toNat == dCtx d && f.hdr.collId.toNat == dId d
  (s.sol.queues ++ s.sol.descWait).any (fun q => mine q.frame && q.outs.any (fun o => decide (o < 32))) ||
  (List.range 32).any (fun p => (s.port p).egress.any (fun e => mine e.frame) ||
    (s.port p).unacked.any (fun t => match t.pay with
      | .data f _ _ _ => mine f
      | _ => false))

/-- Bytes of a return that a home has delivered to the accelerator of a unit. -/
def Home.bytesOf (h : Home) (u : Nat) : Nat := (h.got.filter (fun e => e.2.1 == u)).foldl (fun n e => n + e.2.2) 0

/-- The accelerators of the members that this Fixus homes, those that are present. -/
def State.myUnits (s : State) (d : List Byte) : List Nat :=
  ((s.myMembers d).map (fun e => addrUnit e.2)).filter (fun a => s.accPresent a)

/-- Does every member that this Fixus homes have every byte that the collective returns? -/
def State.inPlace (s : State) (d : List Byte) (h : Home) : Bool :=
  (s.myUnits d).all (fun a => decide (s.returnBytes d ≤ h.bytesOf a)) && !s.copiesWait d

/-- A home with every byte in place tells the owner so by RETURN_DONE, once (10 R286). -/
def State.homeTell (s : State) (slot : Nat) : State :=
  match s.coll slot with
  | none => s
  | some c =>
    let h := c.home.getD Home.init
    let owner := s.rootOf c.desc
    if h.told || h.got.isEmpty || !s.inPlace c.desc h then s
    else
      let s := s.setColl slot { c with home := some { h with told := true } }
      if owner = s.addr then s
      else
        s.sendCtlTo owner (.returnDone { ctx := BitVec.ofNat 8 (dCtx c.desc), source := BitVec.ofNat 15 s.addr,
                                         target := BitVec.ofNat 15 owner, collId := BitVec.ofNat 32 (dId c.desc),
                                         offset := 0 })

/-- A home writes its record once it has it and, where something is returned, every byte is in place (08
R216, 10 R286); then the slot may free. -/
def State.homeTry (s : State) (slot : Nat) : State :=
  let s := s.homeTell slot
  match s.coll slot with
  | none => s
  | some c =>
    let h := c.home.getD Home.init
    match h.record with
    | none => s
    | some r =>
      if h.written then s
      else if (s.returns c.desc (BitVec.ofNat 16 (fld r 56 2)) (s.newValues r c.desc) || !h.got.isEmpty) &&
          !s.inPlace c.desc h then s
      else
        let s := s.writeRecords c.desc r
        (s.setColl slot { c with home := some { h with written := true } }).trySlot slot

/-- The record reaches this home (08 R220). -/
def State.homeRecord (s : State) (slot : Nat) (r : List Byte) : State :=
  match s.coll slot with
  | none => s
  | some c =>
    let h := c.home.getD Home.init
    if (s.myMembers c.desc).isEmpty then s
    else (s.setColl slot { c with home := some { h with record := some r } }).homeTry slot

/-- A RETURN or RESULT frame is delivered to accelerators of members of this home (10 R286; 11 R309). -/
def State.homeReturn (s : State) (slot off len : Nat) (us : List Nat) : State :=
  match s.coll slot with
  | none => s
  | some c =>
    let h := c.home.getD Home.init
    let new := (us.filter (fun u => !h.got.any (fun e => e.1 == off && e.2.1 == u))).map (fun u => (off, u, len))
    if new.isEmpty then s
    else (s.setColl slot { c with home := some { h with got := h.got ++ new } }).homeTry slot

/-- Homes of a collective that are in service: those whose RETURN_DONE is awaited (10 R286, 14 R398). -/
def State.homesDue (s : State) (d : List Byte) : List Nat :=
  (((s.membersOf d).map homeOf).eraseDups).filter (fun a => !s.flt.lost.contains a)

/-- The root's record is posted, and its image freed, once every home has reported (08 R219, 10 R286). -/
def State.rootTry (s : State) (slot : Nat) : State :=
  match s.coll slot with
  | none => s
  | some c =>
    match (if s.iAmRoot c.desc then c.record else none), c.ret with
    | some r, some t =>
      let own := s.inPlace c.desc (c.home.getD Home.init)
      if (s.homesDue c.desc).all (fun a => t.homes.contains a || (a == s.addr && own)) then
        let s := s.freePages (fun h => h == .image (dCtx c.desc) (dId c.desc))
        let s := s.postRecord c r
        (s.setColl slot { c with ret := none }).trySlot slot
      else s
    | _, _ => s

/-- The homes and roots that waited for the last copies to reach their accelerators look again (08 R216, 10 R286). -/
def State.homesTry (s : State) : State :=
  s.slots.foldl (fun s e =>
    match e.2.home with
    | some _ => (s.homeTry e.1).rootTry e.1
    | none => s) s

/-! ### Waiting for buffers (06 R164, R165) -/

/-- A request joins the FIFO of a pool, once. -/
def State.waitPool (s : State) (pool : Nat) (r : PoolReq) : State :=
  let l := tget s.sol.waits pool []
  if l.contains r then s else { s with sol := { s.sol with waits := tset s.sol.waits pool (l ++ [r]) } }

/-- What a request waits for: a collective's G pages or the staging of its return (1), an update's pages, a gather's staging or that of a segment's output (2), a
spill buffer or operands (3), by the pool that it asks. No tag is 0. -/
def waitTag (ctx cid kind : Nat) : Nat := 4 * (2 ^ 32 * ctx + cid) + kind

/-- Segment outputs that are staged: PARTIAL frames of Bronze that wait for cells (06 Table 6.7). -/
def State.stagedSegs (s : State) : Nat :=
  (s.sol.descWait.filter (fun q => q.frame.hdr.ftype.toNat == ftPartial && decide (64 ≤ q.inp))).length

/-- Free buffers of pool 1: those of mailbox pages, staged segments and kernel operands are in use (06 Table 6.7). -/
def State.pool1Free (s : State) : Nat := s.sol.count.2.1 - (s.sol.used1 + s.stagedSegs + s.operandBufs 1)

/-- 64 KiB windows of returns that are staged: those whose frames wait for cells. -/
def State.returnWindows (s : State) : Nat :=
  (((s.sol.descWait.filter (fun q => q.frame.hdr.ftype.toNat == ftReturn && decide (64 ≤ q.inp))).map (fun q =>
    (q.frame.hdr.ctx.toNat, q.frame.hdr.collId.toNat, q.frame.hdr.offset.toNat / 65536))).eraseDups).length

/-- Buffers of pool 2 in use: kernel operands, and return staging (06 Table 6.7; 12 R339). -/
def State.pool2Used (s : State) : Nat := s.operandBufs 2 + s.returnWindows

/-! ### Pages that a plan needs (10 R260 to R262) -/

/-- r and c of X: the smaller dimension gives its rows (10 R265). -/
def omR (e : List Byte) : Nat := min (tRows e) (tCols e)
def omC (e : List Byte) : Nat := max (tRows e) (tCols e)

/-- Pages of an array of `n` elements in format `c`. -/
def pagesOf (c n : Nat) : Nat := cdiv (arrayBytes c n) 65536

/-- State pages of a tensor (10 R260). -/
def statePages (e : List Byte) : Nat :=
  pagesOf 0 (tElements e) + tMoments e * pagesOf (if tMfmt e then 1 else 0) (tElements e)

/-- Working pages of one update of a tensor: G and what `updatePages` draws (10 Table 10.4). -/
def workPages (e : List Byte) : Nat :=
  let n := tElements e
  pagesOf 0 n + statePages e + pagesOf (tRfmt e) n +
  (if tRule e = 1 then 2 * pagesOf (tNsfmt e) n + 2 * pagesOf 0 (omR e * omR e) + pagesOf 0 n else 0)

/-- Does the Fixus at `a` own or mirror a tensor? -/
def holdsTensor (a : Nat) (e : List Byte) : Bool := tOwner e == a || (tIsTwin e && tTwin e == a)

/-- The two largest numbers of a list, added. -/
def twoLargest (l : List Nat) : Nat :=
  let p := l.foldl (fun (p : Nat × Nat) n => if p.1 < n then (n, p.1) else (p.1, max p.2 n)) (0, 0)
  p.1 + p.2

/-- Pages that R262 asks of the Fixus at `a` for the tensors of all its plans. -/
def planNeed (a : Nat) (es : List (List Byte)) : Nat :=
  let l := es.filter (holdsTensor a)
  (l.map statePages).foldl (· + ·) 0 + twoLargest (l.map workPages)

/-- PWT_PAGES_NEED (10 R262). -/
def State.pagesNeed (s : State) : Nat := planNeed s.addr (s.tensors.map (fun e => e.2.entry))

/-! ### Owners of pool 3 (06 R165) -/

/-- The context that a page is held for. -/
def State.holderCtx (s : State) : Holder → Option Nat
  | .state c _ _ => some c
  | .work c _ _ => some c
  | .image c _ => some c
  | .region c _ => some c
  | .xfer h => (s.xfer h).map (fun x => x.ctx)
  | .staging _ => none
  | .spill c _ _ _ _ => some c
  | .old c _ _ => some c
  | .launchQueue => none

/-- Pages of pool 3 that a context holds. -/
def State.shadowHeld (s : State) (c : Nat) : Nat :=
  (s.ing.pages.filter (fun p => inPool3 s p && !s.withdrawn p.no && s.holderCtx p.holder == some c)).length

/-- A context's reserve: the pages that R262 asks for its plan. DESIGN CHOICE (assumption log 126): the spec says only that the
reserves come from the plan. -/
def State.shadowRsv (s : State) (c : Nat) : Nat :=
  planNeed s.addr ((s.tensors.filter (fun e => e.1 / 65536 == c)).map (fun e => e.2.entry))

/-- May a context take `n` more pages: within its reserve, or from the shared part? -/
def State.shadowFor (s : State) (c n : Nat) : Bool :=
  let os : List Nat := (s.tensors.map (fun (e : Nat × Tensor) => e.1 / 65536) ++
    s.ing.pages.filterMap (fun (p : Page) => s.holderCtx p.holder)).eraseDups
  decide (s.shadowHeld c + n ≤ s.shadowRsv c) ||
  decide ((os.filter (· != c)).foldl (fun t o => t + max (s.shadowHeld o) (s.shadowRsv o)) 0 +
    max (s.shadowHeld c + n) (s.shadowRsv c) ≤ s.pool3Count)

/-- Can a pool serve a request now (06 R165)? -/
def State.mayServe (s : State) (pool : Nat) (r : PoolReq) : Bool :=
  if pool = 0 then s.cellsFor r.owner r.n
  else if pool = 1 then decide (r.n ≤ s.pool1Free)
  else if pool = 2 then decide (s.pool2Used + r.n ≤ s.sol.count.2.2)
  else if pool = 3 then decide (r.n ≤ s.pool3Free) && s.shadowFor r.owner r.n
  else decide (r.n ≤ s.pool4Free)

/-- May a pool serve a new request, or one that waits: no earlier one could take what is free (06 R165)? -/
def State.poolFirst (s : State) (pool tag : Nat) : Bool :=
  ((tget s.sol.waits pool []).takeWhile (fun r => r.tag != tag)).all (fun r => !s.mayServe pool r)

/-- Pages of pool 3 drawn for a context, as one request; `tag` 0 is a request that may not wait. -/
def State.drawShadow (s : State) (c tag : Nat) (l : List (Nat × Holder)) : Option State :=
  if s.poolFirst 3 tag && s.shadowFor c l.length then s.drawPages l else none

/-- The request that a kernel's operands make when they grow from `k` to `k'`: pool and further buffers, none where what it holds
still does (06 R164). -/
def operandMore (k k' : Kernel) : Option (Nat × Nat) :=
  let r := k.operandReq
  let r' := k'.operandReq
  if r'.1 = 0 || r' == r then none else some (r'.1, if r.1 = r'.1 then r'.2 - r.2 else r'.2)

/-- What the operands of a kernel wait for in pool `pool`; the requests of pool 0 are told from those of frames. -/
def opTag (pool ctx cid : Nat) : Nat := waitTag ctx cid 3 + (if pool = 0 then 2 ^ 72 else 0)

/-- Can the operands of a kernel grow now (06 R164, R165)? The request that waits where they cannot. -/
def State.operandWait (s : State) (d : List Byte) (k k' : Kernel) : Option (Nat × PoolReq) :=
  match operandMore k k' with
  | none => none
  | some (pool, n) =>
    let r : PoolReq := { owner := 72, n := n, tag := opTag pool (dCtx d) (dId d) }
    if s.poolFirst pool r.tag && s.mayServe pool r then none else some (pool, r)

/-- A served request leaves the FIFO. -/
def State.unwait (s : State) (pool tag : Nat) : State :=
  let l := (tget s.sol.waits pool []).filter (fun r => r.tag != tag)
  { s with sol := { s.sol with waits := tset s.sol.waits pool l } }

/-- Frames of a returned image (10 Table 10.9): chunks of whole blocks in MX formats, of 4,096 bytes otherwise. -/
def returnChunk (c : Nat) : Nat := if isMx c then 160 * blockBytes c else 4096

/-- RETURN frame `g` of an image (10 R284, R285). -/
def State.returnFrame (s : State) (c : Coll) (version : Nat) (dest : Nat) (mc : BitVec 3) (g : Nat)
    (bs : List Byte) : Frame :=
  let d := c.desc
  let h := s.hdr dest ftReturn (dCtx d) (dGen d) (dId d) (g * returnChunk (dRfmt d))
    (version + 2 ^ 32 * dTensor d + 2 ^ 48 * dRfmt d) (dSched d && !c.unscheduled) (g % 16) bs.length
  { vc := 14, hdr := { h with mcast := mc }, payload := bs }

/-- The Ingot controller by which byte `off` of an image leaves: that of the stack that holds its page (02 Table 2.3). -/
def State.returnPoint (s : State) (ctx cid off : Nat) : Nat :=
  let l := s.ing.pages.filter (fun p => p.holder == .image ctx cid)
  74 + ((l[off / 65536]?).map (fun p => pageStack p.no)).getD 0

/-- One RETURN frame leaves by the chains and the multicast, and this Fixus's own home has what its accelerators are sent (10
R284). -/
def State.sendReturnFrame (s : State) (slot : Nat) (c : Coll) (g : Nat) (bs : List Byte) : State :=
  let off := g * returnChunk (dRfmt c.desc)
  (s.sendTree (s.returnPoint (dCtx c.desc) (dId c.desc) off) s.addr (s.returnFrame c c.frozenVer s.addr 7 g bs)).homeReturn
    slot off bs.length (s.myUnits c.desc)

/-- The return is staged and sent, 64 KiB after 64 KiB: each is read from Ingot into a buffer of pool 2, which frees once the last of
its frames has its cells; where the pool has none to give, the return waits for it (06 R164, R165; 12 R339). -/
def State.stageReturn : Nat → State → Nat → State
  | 0, s, _ => s
  | n + 1, s, slot =>
    match s.coll slot with
    | none => s
    | some c =>
      match c.ret with
      | none => s
      | some r =>
        let ch := returnChunk (dRfmt c.desc)
        let tag := waitTag (dCtx c.desc) (dId c.desc) 1
        let req : PoolReq := { owner := 78, n := 1, tag := tag }
        if r.image.length ≤ 65536 * r.next then s.unwait 2 tag
        else if !(s.poolFirst 2 tag && s.mayServe 2 req) then s.waitPool 2 req
        else
          let s := (s.unwait 2 tag).setColl slot { c with ret := some { r with next := r.next + 1 } }
          let gs := (List.range (cdiv 65536 ch + 1)).map (fun i => 65536 * r.next / ch + i)
          let s := (gs.filter (fun g => g * ch / 65536 == r.next && decide (g * ch < r.image.length))).foldl (fun s g =>
            s.sendReturnFrame slot c g ((r.image.drop (g * ch)).take ch)) s
          State.stageReturn n s slot

/-- A return that waited for staging goes on; where it is over nothing waits any more. -/
def State.restage (s : State) (slot tag : Nat) : State :=
  match ((s.coll slot).bind (fun c => c.ret)).map (fun r => r.image.length) with
  | some n => State.stageReturn (n / 65536 + 2) s slot
  | none => s.unwait 2 tag

/-- The return begins. -/
def State.sendReturn (s : State) (slot version : Nat) (image : List Byte) : State :=
  match s.coll slot with
  | none => s
  | some c =>
    let r : Ret := { image := image, homes := [], sent := true, next := 0 }
    State.stageReturn (cdiv image.length 65536 + 1) (s.setColl slot { c with ret := some r, frozenVer := version }) slot

/-! ### RESULT frames of the fabric kernels (11 R304, R309, R311) -/

/-- A KERNEL frame of this Fixus's clusters on the group's VC (11 Table 11.6). -/
def State.kernelFrame (s : State) (c : Coll) (ksub fmt rank part dest off : Nat) (bs : List Byte) : Frame :=
  let d := c.desc
  { vc := BitVec.ofNat 4 (2 + (s.group (dGroup d)).cls),
    hdr := s.hdr dest ftKernel (dCtx d) (dGen d) (dId d) off (ksub + 2 ^ 8 * fmt + 2 ^ 16 * rank + 2 ^ 32 * part)
      (dSched d && !c.unscheduled) (off / max 1 (returnChunk fmt) % 16) bs.length,
    payload := bs }

/-- The Steel point that a piece of a result leaves by. -/
def State.kernelFrom (s : State) (off : Nat) : Nat := (s.kernelPoint off).getD 72

/-- A home writes a RESULT payload to DST + OFFSET of the members it is for: one for GATHER_POOL, each that it
homes otherwise. -/
def State.homeResult (s : State) (slot rank part off : Nat) (bs : List Byte) : State :=
  match s.coll slot with
  | none => s
  | some c =>
    let d := c.desc
    let gather := dKind d == kGather
    let ms := (s.myMembers d).filter (fun e => !gather || e.1 == rank)
    let ms := ms.filter (fun e => s.accPresent (addrUnit e.2))
    let s := ms.foldl (fun s e =>
      s.sendFrame (s.kernelFrom off) (s.kernelFrame c 1 (dRfmt d) e.1 part e.2 off bs)) s
    s.homeReturn slot off bs.length (ms.map (fun e => addrUnit e.2))

/-- One RESULT payload of an output sent to every member: along the chains of 10 R284, and by unicast to each
Fixus of the cell that homes a member. -/
def State.spreadResult (s : State) (slot part off : Nat) (bs : List Byte) (root : Nat) : State :=
  match s.coll slot with
  | none => s
  | some c =>
    let d := c.desc
    let s := (s.chainGroups root).foldl (fun s g =>
      match s.groupPeer g with
      | some n => s.sendGroup (s.kernelFrom off) g (s.kernelFrame c 1 (dRfmt d) 0 part n off bs)
      | none => s) s
    let homes := (((s.membersOf d).map homeOf).eraseDups).filter (fun a => addrCell a == s.sys.cell && a != s.addr)
    let s := homes.foldl (fun s a => s.sendFrame (s.kernelFrom off) (s.kernelFrame c 1 (dRfmt d) 0 part a off bs)) s
    s.homeResult slot 0 part off bs

/-- One payload of the member of rank `rank`: to its home. -/
def State.memberResult (s : State) (slot rank part off : Nat) (bs : List Byte) : State :=
  match s.coll slot with
  | none => s
  | some c =>
    let a := homeOf ((s.membersOf c.desc).getD rank 0)
    if a = s.addr then s.homeResult slot rank part off bs
    else s.sendFrame (s.kernelFrom off) (s.kernelFrame c 1 (dRfmt c.desc) rank part a off bs)

/-- The output of a kernel of PARTS parts over `rows` rows: rows of one part (11 R305). -/
def partRows (d : List Byte) (rows : Nat) : Nat := max 1 (cdiv rows (max 1 (dParts d)))

/-- Rows of a kernel's output that is one image (11 R305). -/
def State.imageRows (s : State) (d : List Byte) : Nat :=
  if dKind d = kMatmul then fld d 80 4 else ((s.region (dCtx d) (fld d 68 2)).map (fun r => r.rows)).getD 0

/-- The part of a kernel's output that byte `off` of its image of `len` bytes belongs to. -/
def State.partAt (s : State) (d : List Byte) (len off : Nat) : Nat :=
  off / max 1 (partRows d (s.imageRows d) * (len / max 1 (s.imageRows d)))

/-- A delivered output leaves the root. -/
def State.sendResults (s : State) (slot : Nat) (image : List Byte) : State :=
  match s.coll slot with
  | none => s
  | some c =>
    let d := c.desc
    let ret : Ret := { image := image, homes := ((c.ret.map (fun r => r.homes)).getD []), sent := true, next := 0 }
    let s := s.setColl slot { c with ret := some ret }
    if dKind d = kGather then s
    else
      let ch := returnChunk (dRfmt d)
      (((chunksOf ch image).mapIdx (fun g bs => (g, bs))).foldl (fun s e =>
        s.spreadResult slot (s.partAt d image.length (e.1 * ch)) (e.1 * ch) e.2 s.addr) s)

/-- The root's decision (08 R218, 09 R252, 10 R270): the record is built, sent and kept; a decision that
returns nothing posts its record at once. -/
def State.decide_ (s : State) (slot status : Nat) (rec_ : List Byte) (image : Option (List Byte)) (version : Nat) :
    State :=
  match s.coll slot with
  | none => s
  | some c =>
    let s := s.setColl slot { c with decided := some (status, s.now), record := some rec_,
                                     ret := if image.isSome then c.ret else none }
    let s := match image with
      | some i => if isKernel (dKind c.desc) then s.sendResults slot i else s.sendReturn slot version i
      | none => s
    let s := s.sendRecord c.desc rec_
    let s := s.homeRecord slot rec_
    match image with
    | some _ => s.rootTry slot
    | none =>
      let s := s.freePages (fun h => h == .image (dCtx c.desc) (dId c.desc))
      (s.postRecord c rec_).trySlot slot

end Sys2Proof.Machine
end

