-- ==== Sys2Proof/Machine/Bronze.lean ====
section
/-! DEFINITION. Bronze: nodes and their segments (08 R222 to R232), the checks, rescale and flags of 09 R236 to
R254, the root's gathering and decision (09 R246 to R255), and the rows that carry them. -/

namespace Sys2Proof.Machine

/-! ### Engines (08 R230) -/

/-- Engines that take segment `g` at a node: one in exact mode and at other nodes, q in float mode at a local
node. The last of the list, its first engine, adds the run sums. -/
def State.segEngines (s : State) (exact : Bool) (st : Stage) (g : Nat) : List Nat :=
  let es := s.engines
  if es.isEmpty then []
  else if exact || st != .loc then (es[g % es.length]?).toList
  else
    let q := max 1 (es.length / 4)
    let sets := es.length / q
    (es.drop (q * (g % sets))).take q

/-- Accumulators of segment `g`: one an element, filler included in exact mode (08 R229; 03 R57). -/
def segAccs (d : List Byte) (g : Nat) : Nat := if isExact d then 32 * segBlocks d g else segLen d g

/-- Does engine `k` hold the accumulators of a segment (08 R232)? -/
def Seg.heldBy (g : Seg) (k : Nat) : Bool := g.engines.contains k && !g.spilled.contains k

/-- Does the root hold all of segment `i`? -/
def segHeld (d : List Byte) (r : Root) (i : Nat) : Bool :=
  match tfind r.segs i with
  | some x => !isExact d || decide (segBlocks d i ≤ x.1.length)
  | none => false

/-- Segments of which the mirror holds the first frame of a twin copy only (08 R224, 10 R281). -/
def Coll.half (c : Coll) : Tbl (Nat × Option Nat × Bool) := (c.root.getD Root.init).half

/-- Does engine `k` hold the accumulators of such a segment? -/
def halfBy (k : Nat) (h : Nat × Option Nat × Bool) : Bool := h.2.1 == some k && !h.2.2

def State.setHalf (s : State) (slot g : Nat) (h : Option (Nat × Option Nat × Bool)) : State :=
  match s.coll slot with
  | none => s
  | some c =>
    let r := c.root.getD Root.init
    s.setColl slot { c with root := some { r with half := match h with
      | some x => tset r.half g x
      | none => tdel r.half g } }

/-- Accumulators that engine `k` has free: 1,048,576 less those of its open segments (08 R232). -/
def State.accFree (s : State) (k : Nat) : Nat :=
  1048576 - (s.slots.foldl (fun n e =>
    let m := e.2.nodes.foldl (fun n nd => nd.segs.foldl (fun n g =>
      if g.2.heldBy k then n + segAccs e.2.desc g.1 else n) n) n
    e.2.half.foldl (fun n h => if halfBy k h.2 then n + segAccs e.2.desc h.1 else n) m) 0)

/-- Is any segment of engine `k` spilled? -/
def State.anySpill (s : State) (k : Nat) : Bool :=
  s.slots.any (fun e => e.2.nodes.any (fun nd => nd.segs.any (fun g => g.2.spilled.contains k)) ||
    e.2.half.any (fun h => h.2.2.1 == some k && h.2.2.2))

/-- The engines of a segment: those that hold it, or those that it goes to when it opens (08 R230, R231). -/
def State.enginesOf (s : State) (d : List Byte) (n : Node) (g : Nat) (sg : Seg) : List Nat :=
  if sg.engines.isEmpty then s.segEngines (isExact d) n.stage g else sg.engines

/-- The engine that takes an input: that of its run in float mode at a local node, else the segment's (08 R230). -/
def runEngine (es : List Nat) (n : Node) (k : Src) : Option Nat :=
  es[runOf n.inputs.length es.length (n.inputs.findIdx (fun e => e.1 == k))]?

/-- The state of a node's segment. -/
def State.setSeg (s : State) (slot ni g : Nat) (sg : Seg) : State :=
  match s.coll slot with
  | none => s
  | some c =>
    match c.nodes[ni]? with
    | none => s
    | some n => s.setColl slot { c with nodes := c.nodes.set ni { n with segs := tset n.segs g sg } }

/-- The open segment of engine `k` with the oldest first input, other than segment `g` of node `ni` of a slot (08 R232). The
mirror's half segments stand as those of the node after the last. -/
def State.oldestOpen (s : State) (k slot ni g : Nat) : Option (Nat × Nat × Nat) :=
  let all := s.slots.flatMap (fun e => (e.2.nodes.mapIdx (fun ni n => (ni, n))).flatMap (fun p =>
    (p.2.segs.filter (fun x => x.2.heldBy k && !(e.1 == slot && p.1 == ni && x.1 == g))).map
      (fun x => (x.2.first.getD 0, e.1, p.1, x.1))) ++
    (e.2.half.filter (fun h => halfBy k h.2 && !(e.1 == slot && e.2.nodes.length == ni && h.1 == g))).map
      (fun h => (h.2.1, e.1, e.2.nodes.length, h.1)))
  (all.foldl (fun best x => match best with
    | none => some x
    | some b => if x.1 < b.1 then some x else some b) (none : Option (Nat × Nat × Nat × Nat))).map Prod.snd

/-- Segment `g` of a node spills what engine `k` holds of it to a pool-4 buffer, if the pool gives one (08 R232). -/
def State.spillOne (s : State) (k slot ni g : Nat) : Option State :=
  match s.coll slot with
  | none => some s
  | some c =>
    let buf := (s.drawBufs (.spill (dCtx c.desc) (dId c.desc) ni g k) 1).map (fun s => s.bump (aBrz k + 0x18) 1)
    match c.nodes[ni]? with
    | none => buf.map (fun s => s.setHalf slot g ((tfind c.half g).map (fun h => (h.1, some k, true))))
    | some n =>
      let sg := tget n.segs g Seg.init
      buf.map (fun s => s.setSeg slot ni g { sg with spilled := sg.spilled ++ [k] })

/-- Room in engine `k` for `need` accumulators of segment `g`: the oldest open segments spill until there is; none where pool 4
has nothing to give (08 R232). -/
def State.engineRoom (k slot ni g need tag : Nat) : Nat → State → Option State
  | 0, s => some s
  | n + 1, s =>
    if need ≤ s.accFree k then some s
    else match s.oldestOpen k slot ni g with
      | none => some s
      | some (sl, n2, g2) =>
        if s.poolFirst 4 tag then
          match s.spillOne k sl n2 g2 with
          | none => none
          | some s => State.engineRoom k slot ni g need tag n (s.unwait 4 tag)
        else none

/-- Room for a segment in each of a list of engines. -/
def State.accRoom (s : State) (slot ni g need tag : Nat) (ks : List Nat) : Option State :=
  ks.foldl (fun o k => o.bind (State.engineRoom k slot ni g need tag 4096)) (some s)

/-- An input joins its segment at a node: a new segment takes its engines and their accumulators, a spilled one is read back into
the engine that the input comes to (08 R230 to R232); none where its accumulators must wait. -/
def State.joinSeg (s : State) (slot ni g : Nat) (i : SegIn) : Option State :=
  match s.coll slot with
  | none => some s
  | some c =>
    match c.nodes[ni]? with
    | none => some s
    | some n =>
      let d := c.desc
      let sg := tget n.segs g Seg.init
      let es := s.enginesOf d n g sg
      let k := runEngine es n i.src
      let back := (k.toList).filter (fun k => sg.spilled.contains k)
      let ks := if sg.engines.isEmpty then es else back
      (s.accRoom slot ni g (segAccs d g) (waitTag (dCtx d) (dId d) 3) ks).map (fun s =>
        let s := s.freePages (fun h => back.any (fun k => h == .spill (dCtx d) (dId d) ni g k))
        s.setSeg slot ni g { sg with ins := sg.ins ++ [i], start := some (sg.start.getD s.now),
                                     first := some (sg.first.getD s.now), engines := es,
                                     spilled := sg.spilled.filter (fun k => !back.contains k) })

/-! ### Inputs -/

/-- Lateness budget in ns (08 R204, 09 R250). -/
def State.budget (s : State) (d : List Byte) : Nat :=
  1000 * (if dBudget d = 0 then (s.ctx (dCtx d)).budget else dBudget d)

def flagIf (b : Bool) (f : BitVec 6) : BitVec 6 := if b then f else 0

/-- A contribution as an input of its local node, with its receipt checks (09 R236 to R242, R254). -/
def contribIn (d : List Byte) (r g id : Nat) (f : Frame) : SegIn :=
  let ts := f.hdr.ts.toNat
  let c := dCfmt d
  if isExact d then
    let a := dAscale d
    let bs := maskFill (segLen d g) ((chunksOf (blockBytes c) (bytesAt f.payload 0 (segBlocks d g * blockBytes c))).map
      (fun b => contribBlock c (ofBlockImage c b)))
    let us := bs.map (fun b => (inScale a (contribBad a b) b, unitsOf a (contribBad a b) b))
    let nf := bs.any (fun b => b.1 == 0xFF)
    let bad := bs.any (contribBad a) || csum (us.flatMap Prod.snd) != BitVec.ofNat 32 ts ||
      bits ts 45 32 != r
    { src := .rank r, key := r, blocks := us, vals := [], id := id, csum := BitVec.ofNat 32 ts,
      flags := flagIf bad flCheck ||| flagIf nf flNf ||| flagIf (decide (0 < bits ts 63 48)) flSat,
      nfRank := if nf then r else 0xFFFF, failed := bad }
  else
    let vals := (decodeArr c (bytesAt f.payload 0 (segLen d g * elemBytes c))).map toF32
    let nf := vals.any isNonfin
    { src := .rank r, key := r, blocks := [], vals := vals, id := id, csum := 0, flags := flagIf nf flNf,
      nfRank := if nf then r else 0xFFFF, failed := false }

/-- A partial as an input of a node, with its receipt check (09 R238 to R242). -/
def partialIn (d : List Byte) (src : Src) (key g id : Nat) (f : Frame) : SegIn :=
  let ts := f.hdr.ts.toNat
  let fl : BitVec 6 := BitVec.ofNat 6 (bits ts 37 32)
  let nr := bits ts 63 48
  if isExact d then
    let a := dAscale d
    -- a block fails by what it carries, filler included; its filler then counts as zeros (03 R57, R68)
    let raw := wireBlocks (bytesAt f.payload 0 (segBlocks d g * 65))
    let us := List.zipWith (fun r b => (inScale a (wireBad a r) b, unitsOf a (wireBad a r) b)) raw (maskFill (segLen d g) raw)
    let bad := raw.any (wireBad a) || csum (us.flatMap Prod.snd) != BitVec.ofNat 32 ts
    { src := src, key := key, blocks := us, vals := [], id := id, csum := BitVec.ofNat 32 ts,
      flags := fl ||| flagIf bad flCheck, nfRank := nr, failed := bad }
  else
    { src := src, key := key, blocks := [],
      vals := (decodeArr 0 (bytesAt f.payload 0 (4 * segLen d g))).map toF32, id := id, csum := 0, flags := fl,
      nfRank := nr, failed := false }

/-! ### Sums -/

/-- Units added element by element. -/
def addUnits (a b : List Int) : List Int := List.zipWith (· + ·) a b

/-- Sum of the inputs of a segment in exact mode: per block the highest input scale and the accumulators; every
block at A and zero where no input is left (09 R251). -/
def exactSum (a blocks : Nat) (ins : List SegIn) : List IBlock :=
  (List.range blocks).map (fun b =>
    ins.foldl (fun (acc : IBlock) i =>
      let x := i.blocks.getD b (a, [])
      (max acc.1 x.1, addUnits acc.2 (padTo 32 0 x.2))) (a, List.replicate 32 0))

/-- Float-mode sum of element columns: at a local node in runs, one for each of its `q` engines (03 R71), elsewhere in key
order (03 R70). -/
def floatSum (q : Nat) (n : Node) (len : Nat) (ins : List SegIn) : List Word :=
  (List.range len).map (fun e =>
    if n.stage == .loc then
      let runs := cutRuns (runLens n.inputs.length q) n.inputs
      sumRuns (runs.map (fun run => run.filterMap (fun k =>
        (ins.find? (fun i => i.src == k.1)).map (fun i => i.vals.getD e 0))))
    else
      sumRun (n.inputs.filterMap (fun k => (ins.find? (fun i => i.src == k.1)).map (fun i => i.vals.getD e 0))))

/-! ### The root (09 R246 to R255) -/

/-- G pages held, or drawn now with the first segment (10 R262), with their map; none while pool 3 cannot give them. Where the plan's
stacks are no longer all in service the tensor is LOST, and G is not drawn: DEDUCED (assumption log 171). -/
def State.ensureG (s : State) (d : List Byte) : Option State :=
  let ctx := dCtx d
  let cid := dId d
  if dKind d != kStep then some s
  else if s.ing.pages.any (fun p => p.holder == .work ctx cid 0) || s.stackGone ctx (dTensor d) then some s
  else
    let rot := dTensor d % 4
    let tag := waitTag ctx cid 1
    (s.drawShadow ctx tag ((arrayStacks (s.stacksOf ctx (dTensor d)) 0 (dElements d) rot).map (fun k =>
      (k, Holder.work ctx cid 0)))).map (fun s => (s.unwait 3 tag).writeMap (.work ctx cid 0) 0 rot (dElements d))

/-- NEXT_ASCALE and the calm count after a decision (09 R247). HEADROOM values outside 1 to 15 are stored and M is compared with
2^HEADROOM all the same: DESIGN CHOICE (assumption log 167), Table 9.6 gives 1 to 15 and does not say what others do. -/
def State.feedback (s : State) (d : List Byte) (r : Root) (calm status : Nat) : Nat × Nat :=
  let a := dAscale d
  if !isExact d then (0, calm)
  else if dKind d != kStep || !(status == stOk || status == stRescaled || status == stFrozen || status == stNonfinite)
  then (a, calm)
  else
    let cfg := (s.cfgAt (aPwt + 0x100)).toNat
    let cap := 0xFE - mxShift (dCfmt d)
    let up := max (r.fMax - a) (if r.flags &&& flSat != 0 then 1 else 0)
    if 0 < up then (min (a + up) cap, 0)
    else
      let hold := bits cfg 23 16
      if hold != 0 && decide (hold ≤ calm + 1) && decide (r.maxAbs < 2 ^ bits cfg 4 0) &&
          decide (bits cfg 31 24 < a) then (a - 1, 0)
      else (a, calm + 1)

/-- A STEP, BARRIER or mirrored collective is decided: the record is built, the feedback is kept, and the root
sends what it returns. The mirror notes the decision, and keeps record and image while its slot lasts: should the owner leave service it
sends them in its place (10 R281 to R283; assumption log 169). -/
def State.settle (s : State) (slot : Nat) (conds : BitVec 16) (pdig : BitVec 64) (partFail : BitVec 64)
    (lowest : Nat) (image : Option (List Byte)) (version : Nat) : State :=
  match s.coll slot with
  | none => s
  | some c =>
    let d := c.desc
    let r := c.root.getD Root.init
    let status := statusOf conds
    let calm := match s.tensor (dCtx d) (dTensor d) with
      | some t => t.calm
      | none => 0
    let (nextA, calm') := s.feedback d r calm status
    let s := match s.tensor (dCtx d) (dTensor d) with
      | some t => s.setTensor (dCtx d) (dTensor d) { t with calm := calm' }
      | none => s
    let rec_ := recordBytes d status (if dKind d = kBarrier then 0 else nextA) s.now r.gdig.toNat pdig.toNat
      partFail.toNat conds lowest (min 65535 r.rescaled)
    let s := s.freePages (fun h => match h with
      | .work x y _ => x == dCtx d && y == dId d
      | _ => false)
    if s.iAmRoot d then s.decide_ slot status rec_ image version
    else
      (s.setColl slot { c with decided := some (status, s.now), record := some rec_, frozenVer := version,
                               ret := image.map (fun i => { image := i, homes := [], sent := false, next := 0 }) }).trySlot slot

/-- Conditions a root sees in the flags of its segments (09 Table 9.9). -/
def condsOf (r : Root) : BitVec 16 :=
  let c := if r.flags &&& flCheck != 0 then addCond 0 stChecksum else 0
  let c := if r.flags &&& flFenced != 0 then addCond c stFenced else c
  let c := if r.flags &&& flLate != 0 then addCond c stLate else c
  let c := if r.flags &&& flNf != 0 then addCond c stNonfinite else c
  if 0 < r.rescaled then addCond c stRescaled else c

/-- Gradient elements, which are non-finite, and the digest (03 R69, R74; 10 R274). -/
def rootImage (d : List Byte) (r : Root) : List Word × List Bool × BitVec 64 :=
  if isExact d then
    let bs := r.segs.flatMap (fun e => e.2.1)
    let vals := bs.flatMap (fun b => b.2.map (fun v => accToF32 (dCfmt d) b.1 v))
    let vals := vals.take (dElements d)
    (vals, vals.map isNonfin, crc64 (bs.flatMap accImage))
  else
    let vals := r.segs.flatMap (fun e => e.2.2)
    (vals, vals.map isNonfin, crc64 (ofWords (padTo (32 * cdiv vals.length 32) 0 vals)))

/-- The last segment is complete at the root, or at the mirror: the outcome, or the update's turn (09 R252,
R255; 10 R267). -/
def State.rootComplete (s : State) (slot : Nat) : State :=
  match s.coll slot with
  | none => s
  | some c =>
    let d := c.desc
    let r := c.root.getD Root.init
    let (g, nonfin, dig) := rootImage d r
    let lost := (s.ctx (dCtx d)).planFenced
    -- an element that the conversion of 03 R69 turned into an infinity counts as NF, LOWEST_RANK unchanged
    let r := { r with flags := r.flags ||| flagIf (nonfin.any id) flNf }
    let conds := if lost then addCond (condsOf r) stFenced else condsOf r
    let r := { r with g := g, nonfin := nonfin, gdig := if dKind d = kStep then dig else 0, conds := conds,
                      reduced := true }
    let s := s.setColl slot { c with root := some r }
    -- the commit follows the condition that STATUS names (09 R255): DEDUCED, assumption log 139
    let status := statusOf conds
    let stopped := status == stFenced || status == stChecksum || status == stLate
    if dKind d != kStep || stopped then s.settle slot conds 0 0 r.nfRank none 0
    else { s with pwt := { s.pwt with ready := s.pwt.ready ++ [(dCtx d, dId d)] } }

/-- A segment reaches the root's gathering. -/
def State.rootTake (s : State) (slot g : Nat) (blocks : List IBlock) (maxAbs : Nat) (vals : List Word)
    (flags : BitVec 6) (nfRank : Nat) : State :=
  match s.coll slot with
  | none => s
  | some c =>
    let d := c.desc
    let a := dAscale d
    let r := c.root.getD Root.init
    let resc := (blocks.filter (fun b => decide (a < b.1) && b.1 != 0xFF)).length
    let fm := blocks.foldl (fun m b => if b.1 = 0xFF then m else max m b.1) (max a r.fMax)
    let r := { r with segs := tset r.segs g (blocks, vals), flags := r.flags ||| flags,
                      nfRank := min r.nfRank nfRank, rescaled := r.rescaled + resc,
                      maxAbs := max r.maxAbs maxAbs, fMax := fm }
    let s := s.setColl slot { c with root := some r }
    if (List.range (segCount d)).all (fun i => segHeld d r i) then s.rootComplete slot else s

/-- TYPE_SPECIFIC of a PARTIAL frame (09 Table 9.2). -/
def partialTs (cs : Word) (fl : BitVec 6) (nr : Nat) : Nat := cs.toNat + 2 ^ 32 * fl.toNat + 2 ^ 48 * nr

/-- The owner sends its mirror a segment's result (10 R281): in exact mode two frames of whole blocks of the
accumulator image at the final scales, in float mode one frame of FP32. -/
def State.sendTwin (s : State) (pt : Nat) (c : Coll) (g : Nat) (blocks : List IBlock) (vals : List Word) (fl : BitVec 6)
    (nr : Nat) : State :=
  let d := c.desc
  match s.tensor (dCtx d) (dTensor d) with
  | none => s
  | some t =>
    if !tIsTwin t.entry || dKind d != kStep then s
    else
      let mirror := partnerOf t.entry s.addr
      match [8, 9, 10, 11].find? (fun q => s.meshGroup q && s.groupPeer q == some mirror) with
      | none => s
      | some q =>
        let a := dAscale d
        let send (s : State) (off : Nat) (cs : Word) (bs : List Byte) : State :=
          let h := s.hdr mirror ftPartial (dCtx d) (dGen d) (dId d) off (partialTs cs fl nr)
            (dSched d && !c.unscheduled) (g % 16) bs.length
          s.sendGroup pt q { vc := BitVec.ofNat 4 (2 + (s.group (dGroup d)).cls), hdr := h, payload := bs }
        if isExact d then
          let half := segElems (dCfmt d) / 64
          let base := g * (segElems (dCfmt d) / 32) * 132
          let unit (bs : List IBlock) : Word := csum (bs.flatMap (fun b =>
            if b.1 = 0xFF then b.2.map (fun _ => 0) else b.2.map (fun v => v * 2 ^ (b.1 - a))))
          let s := send s base (unit (blocks.take half)) ((blocks.take half).flatMap accImage)
          if blocks.length ≤ half then s
          else send s (base + half * 132) (unit (blocks.drop half)) ((blocks.drop half).flatMap accImage)
        else send s (g * segElems (dCfmt d) * 4) 0 (ofWords vals)

/-! ### Segment output (09 R243, R244) -/

/-- Inputs a node still awaits for a segment. -/
def missing (n : Node) (sg : Seg) : List Src :=
  (n.inputs.map Prod.fst).filter (fun k => !n.abandoned.contains k && !sg.ins.any (fun i => i.src == k))

/-- The key of a node's own input. -/
def ownKey (n : Node) : Nat := ((n.inputs.find? (fun e => e.1 == .own)).map Prod.snd).getD 0

def Coll.setNode (c : Coll) (i : Nat) (n : Node) : Coll := { c with nodes := c.nodes.set i n }

/-- Which inputs run out at a node's segment now: those missing, once its deadline has come. -/
def expiredAt (now : Nat) (launched : Bool) (deadline : Option Nat) (n : Node) (sg : Seg) : List Src :=
  match deadline with
  | some t => if launched && decide (t ≤ now) then missing n sg else []
  | none => []

/-- When the budget of a segment runs out at a node: from its first input or the completion of the segment
before, and for segment 0 at the latest from L + budget (09 R250). -/
def State.segDeadline (s : State) (c : Coll) (n : Node) (g : Nat) : Option Nat :=
  let b := s.budget c.desc
  let st := (tget n.segs g Seg.init).start
  if g = 0 then some ((match st with
    | some t => min t (c.launch + b)
    | none => c.launch + b) + b)
  else st.map (· + b)

/-- A node that abandons inputs for the rest of the collective: LATE on all its outputs, or FENCED where its members lost
both ports; what open segments hold of them is left out (09 R249, R251; 08 R234). -/
def Node.abandon (n : Node) (ks : List Src) (late : Bool) : Node :=
  { n with abandoned := n.abandoned ++ ks.filter (fun k => !n.abandoned.contains k),
           segs := tmap n.segs (fun _ g => { g with ins := g.ins.filter (fun i => !ks.contains i.src) }),
           late := n.late || late, fenced := n.fenced || !late }

/-- A token is dropped at its node (14 R409) and its cells return. -/
def State.dropToken (s : State) (id : Nat) : State := (s.dropFrom id 0).bump (aFlt + 0xA0) 1

/-- A node of a collective abandons inputs: their frames that it holds are dropped, and the loss is class D where they are late (09
R251). -/
def State.abandonAt (s : State) (slot ni : Nat) (ks : List Src) (late : Bool) : State :=
  match s.coll slot with
  | none => s
  | some c =>
    match c.nodes[ni]? with
    | none => s
    | some n =>
      let gone := n.segs.flatMap (fun g => g.2.ins.filter (fun i => ks.contains i.src && i.src != .own))
      let s := gone.foldl (fun s i => s.dropToken i.id) (s.setColl slot (c.setNode ni (n.abandon ks late)))
      if late then s.record 1 1 (dCtx c.desc) 0x0404 (dId c.desc) else s

/-- What a node makes of a segment that it has all inputs of: the sums, NF_RANK and the flags, and whether the node-sum check
failed (09 R241, R254). The accumulators of a block hold what its finite inputs gave, on both sides of the check. -/
structure NodeSum where
  sum : List IBlock
  vals : List Word
  csum : Word
  bad : Bool
  flags : BitVec 6
  nfRank : Nat
deriving DecidableEq, Repr

def nodeSum (d : List Byte) (n : Node) (g q : Nat) (ins : List SegIn) : NodeSum :=
  let a := dAscale d
  let ex := isExact d
  let acc := if ex then exactSum a (segBlocks d g) ins else []
  let vals := if ex then [] else floatSum q n (segLen d g) ins
  let bad := ex && csum (acc.flatMap Prod.snd) != ins.foldl (fun (w : Word) i => w + i.csum) 0
  let sum : List IBlock := acc.map (fun b => if b.1 = 0xFF then (b.1, b.2.map (fun _ => 0)) else b)
  { sum := sum, vals := vals, csum := csum (sum.flatMap Prod.snd), bad := bad,
    flags := ins.foldl (fun (x : BitVec 6) i => x ||| i.flags) 0 ||| flagIf bad flCheck |||
      flagIf n.late flLate ||| flagIf n.fenced flFenced |||
      flagIf (vals.any isNonfin) flNf ||| flagIf (sum.any (fun b => decide (a < b.1) && b.1 != 0xFF)) flRescaled,
    nfRank := ins.foldl (fun m i => min m i.nfRank) 0xFFFF }

/-- The segment's output has left its node: the cells, accumulators and spill buffers of its inputs are free, its engine counts
it, and the next segment's budget timer starts (08 R229, R231, R232; 09 R250). -/
def State.closeSeg (s : State) (slot ni g : Nat) (bad : Bool) : State :=
  match s.coll slot with
  | none => s
  | some c =>
    match c.nodes[ni]? with
    | none => s
    | some n =>
      let d := c.desc
      let sg := tget n.segs g Seg.init
      let s := match s.enginesOf d n g sg with
        | k :: _ => s.bump (aBrz k + 0x10) 1
        | [] => s
      let s := if bad then s.record 1 1 (dCtx d) 0x0403 (dId d) else s
      let s := s.bump (aFlt + 0x98) (sg.ins.filter (fun i => i.src != .own)).length
      let s := sg.ins.foldl (fun s i => s.dropFrom i.id 0) s
      let s := s.freePages (fun h => sg.spilled.any (fun k => h == .spill (dCtx d) (dId d) ni g k))
      let s := s.setSeg slot ni g { Seg.init with start := sg.start, done := true }
      if g + 1 < segCount d then
        let nx := tget n.segs (g + 1) Seg.init
        s.setSeg slot ni (g + 1) { nx with start := some (nx.start.getD s.now) }
      else s

/-- The output of a node goes to the next stage on this Fixus, as its own input: abandoned where it comes after the deadline
(09 R250, R251); none where its accumulators must wait. -/
def State.handOn (s : State) (slot ni g : Nat) (r : NodeSum) : Option State :=
  match s.coll slot with
  | none => some s
  | some c =>
    match c.nodes[ni]? with
    | none => some s
    | some m =>
      let sg := tget m.segs g Seg.init
      let ks := expiredAt s.now c.launched (s.segDeadline c m g) m sg
      if sg.done || m.abandoned.contains .own then some s
      else if !ks.isEmpty then
        some (s.abandonAt slot ni ks true)
      else
        s.joinSeg slot ni g { src := .own, key := ownKey m, blocks := r.sum, vals := r.vals, id := 0, csum := r.csum,
                              flags := r.flags, nfRank := r.nfRank, failed := false }

/-- A node's output goes to the neighbour of a port group as one PARTIAL frame, each block at the scale of 09 R243, with a CSUM
over the values as sent (R244) and PATH = g mod 16 (08 R224). -/
def State.sendPartial (s : State) (pt : Nat) (c : Coll) (g q : Nat) (r : NodeSum) : State :=
  let d := c.desc
  let a := dAscale d
  let outs := r.sum.map (fun b => rescaleBlock a b.1 b.2)
  let bs := outs.map Prod.fst
  let fl := r.flags ||| flagIf (outs.any Prod.snd) flNf |||
    flagIf (bs.any (fun b => decide (a < b.1) && b.1 != 0xFF)) flRescaled
  let payload := if isExact d then wireImage bs else ofWords r.vals
  let cs := if isExact d then csum (bs.flatMap (fun b => unitsOf a false b)) else 0
  let h := s.hdr ((s.groupPeer q).getD 0) ftPartial (dCtx d) (dGen d) (dId d) (g * partialBytes (dCfmt d))
    (partialTs cs fl r.nfRank) (dSched d && !c.unscheduled) (g % 16) payload.length
  s.sendGroup pt q { vc := BitVec.ofNat 4 (2 + (s.group (dGroup d)).cls), hdr := h, payload := payload }

/-- A segment of the final stage reaches the root: rounded once to its final scale (09 R246), copied to the twin, and gathered. -/
def State.toRoot (s : State) (pt slot g : Nat) (c : Coll) (r : NodeSum) : State :=
  let blocks := r.sum.map (fun b => rootBlock (dAscale c.desc) b.1 b.2)
  let mx := r.sum.foldl (fun m b => if b.1 = 0xFF then m else b.2.foldl (fun m v => max m v.natAbs) m) 0
  (s.sendTwin pt c g blocks r.vals r.flags r.nfRank).rootTake slot g blocks mx r.vals r.flags r.nfRank

/-- May a segment that is complete take the buffer of pool 1 that its output is staged in (06 Table 6.7, R165)? -/
def State.segStaging (s : State) (tag : Nat) : Bool := s.poolFirst 1 tag && decide (0 < s.pool1Free)

/-- Accumulators for a segment that is to be summed again and holds none yet (08 R231, R232). -/
def State.reRoom (s : State) (slot ni g : Nat) (d : List Byte) (sg : Seg) (es : List Nat) : Option State :=
  if sg.engines.isEmpty && !sg.ins.isEmpty then s.accRoom slot ni g (segAccs d g) (waitTag (dCtx d) (dId d) 3) es else some s

/-- A node that has all inputs of a segment sums them, makes the node-sum check and sends its output: to the
next stage on this Fixus, to the neighbour, or to the root's gathering (09 R241 to R246, R254). The root takes
it only once it holds its G pages, the next stage only once it has room; a segment that waits holds its own accumulators and
nothing else (09 R253). -/
def State.completeSeg (s : State) (slot ni g : Nat) : State :=
  match s.coll slot with
  | none => s
  | some c =>
    match c.nodes[ni]? with
    | none => s
    | some n =>
      let d := c.desc
      let sg := tget n.segs g Seg.init
      let es := s.enginesOf d n g sg
      let pt := 64 + es.headD 0 / 2
      let r := nodeSum d n g (max 1 es.length) sg.ins
      let tag := waitTag (dCtx d) (dId d) 3
      if !s.segStaging (waitTag (dCtx d) (dId d) 2) then
        s.waitPool 1 { owner := 64, n := 1, tag := waitTag (dCtx d) (dId d) 2 }
      else
        match s.reRoom slot ni g d sg es with
        | none => s.waitPool 4 { owner := 64, n := 1, tag := tag }
        | some s =>
          let s := s.unwait 1 (waitTag (dCtx d) (dId d) 2)
          match n.out with
          | some q => ((s.closeSeg slot ni g r.bad).sendPartial pt c g q r).trySlot slot
          | none =>
            if ni + 1 < c.nodes.length then
              match (s.closeSeg slot ni g r.bad).handOn slot (ni + 1) g r with
              | some s => s
              | none => s.waitPool 4 { owner := 64, n := 1, tag := tag }
            else
              match s.ensureG d with
              | none => s.waitPool 3 { owner := dCtx d, n := pagesOf 0 (dElements d),
                                       tag := waitTag (dCtx d) (dId d) 1 }
              | some s => (s.closeSeg slot ni g r.bad).toRoot pt slot g c r

/-- Segments of a node to look at: every one when no input is left to wait for, else those begun. -/
def segsOf (d : List Byte) (n : Node) : List Nat :=
  if (n.inputs.map Prod.fst).all (fun k => n.abandoned.contains k) then List.range (segCount d)
  else n.segs.map Prod.fst

/-- Every segment of a collective that has all its inputs goes out, stage by stage in order. -/
def State.progress (s : State) (slot : Nat) : State :=
  match s.coll slot with
  | none => s
  | some c =>
    (List.range c.nodes.length).foldl (fun s ni =>
      match s.coll slot with
      | none => s
      | some c =>
        match c.nodes[ni]? with
        | none => s
        | some n =>
          (segsOf c.desc n).foldl (fun s g =>
            match s.coll slot with
            | none => s
            | some c =>
              match c.nodes[ni]? with
              | none => s
              | some n =>
                let sg := tget n.segs g Seg.init
                if !sg.done && (missing n sg).isEmpty then s.completeSeg slot ni g else s) s) s

/-! ### Lateness (09 R249 to R252) -/

/-- A node abandons inputs for the rest of the collective (09 R251), and completes what waited for them alone. -/
def State.abandon (s : State) (slot ni : Nat) (ks : List Src) (late : Bool) : State :=
  (s.abandonAt slot ni ks late).progress slot

/-- The first segment whose budget has run out with an input missing, at any node of the collectives in slots, which are served
in the order of 08 R210. -/
def State.expired (s : State) : Option (Nat × Nat × List Src) :=
  (inOrder (fun e => e.2.desc) s.slots).findSome? (fun e =>
    (e.2.nodes.mapIdx (fun ni n => (ni, n))).findSome? (fun p =>
      (List.range (segCount e.2.desc)).findSome? (fun g =>
        let sg := tget p.2.segs g Seg.init
        let ks := if sg.done then [] else expiredAt s.now e.2.launched (s.segDeadline e.2 p.2 g) p.2 sg
        if ks.isEmpty then none else some (e.1, p.1, ks))))

/-! ### Receipt of contributions and partials -/

/-- Bytes of an input as received (08 R229). -/
def inBytes (d : List Byte) (i : SegIn) : Nat :=
  let c := dCfmt d
  match i.src with
  | .rank _ => if isExact d then blockBytes c * i.blocks.length else elemBytes c * i.vals.length
  | _ => if isExact d then 65 * i.blocks.length else 4 * i.vals.length

/-- An input reaches a node: it joins its segment, unless the node abandoned it, holds it already, or its
budget has run out (09 R250, R251). Where its segment's accumulators must wait, the frame stays where it was (`back`, the state
before it was taken) and the request waits (06 R164; 08 R232). -/
def State.nodeInput (s : State) (back : State) (slot ni g : Nat) (i : SegIn) : State :=
  match s.coll slot with
  | none => s.dropToken i.id
  | some c =>
    match c.nodes[ni]? with
    | none => s.dropToken i.id
    | some n =>
      let d := c.desc
      let sg := tget n.segs g Seg.init
      let ks := expiredAt s.now c.launched (s.segDeadline c n g) n sg
      let tag := waitTag (dCtx d) (dId d) 3
      if n.abandoned.contains i.src || sg.done || sg.ins.any (fun j => j.src == i.src) then s.dropToken i.id
      else if !ks.isEmpty then (s.abandon slot ni ks true).dropToken i.id
      else
        match s.joinSeg slot ni g i with
        | none => back.waitPool 4 { owner := 64, n := 1, tag := tag }
        | some s =>
          let s := match runEngine (s.enginesOf d n g sg) n i.src with
            | some k => s.bump (aBrz k + 8) (inBytes d i)
            | none => s
          let s := if i.failed then s.record 1 1 (dCtx d) 0x0403 (dId d) else s
          s.progress slot

/-- Segments open in engine `k`: slot, node and segment. -/
def State.openIn (s : State) (k : Nat) : List (Nat × Nat × Nat) :=
  s.slots.flatMap (fun e => (e.2.nodes.mapIdx (fun ni n => (ni, n))).flatMap (fun p =>
    (p.2.segs.filter (fun g => g.2.engines.contains k)).map (fun g => (e.1, p.1, g.1))) ++
    (e.2.half.filter (fun h => h.2.2.1 == some k)).map (fun h => (e.1, e.2.nodes.length, h.1)))

/-- A segment that was open in a fenced engine is summed again, from its held cells, on the engines that remain (08 R231): it takes
the engines of R230 with the new E and room in them, or waits for it (R232). -/
def State.resum (s : State) (slot ni g : Nat) : State :=
  match s.coll slot with
  | none => s
  | some c =>
    let d := c.desc
    let tag := waitTag (dCtx d) (dId d) 3
    match c.nodes[ni]? with
    | none =>
      let t := ((tfind c.half g).map Prod.fst).getD s.now
      let s := s.freePages (fun h => (List.range 16).any (fun k => h == .spill (dCtx d) (dId d) ni g k))
      let s := s.setHalf slot g (some (t, none, false))
      let es := (s.segEngines true .y g).take 1
      (match s.accRoom slot ni g (segAccs d g) tag es with
        | none => s.waitPool 4 { owner := 64, n := 1, tag := tag }
        | some s => s.setHalf slot g (some (t, es.head?, false)))
    | some n =>
      let sg := tget n.segs g Seg.init
      let es := s.segEngines (isExact d) n.stage g
      let s := s.freePages (fun h => sg.spilled.any (fun k => h == .spill (dCtx d) (dId d) ni g k))
      let s := s.setSeg slot ni g { sg with engines := [], spilled := [] }
      match s.accRoom slot ni g (segAccs d g) tag es with
      | none => s.waitPool 4 { owner := 64, n := 1, tag := tag }
      | some s => s.setSeg slot ni g { sg with engines := es, spilled := [] }

/-- Engine `k` is fenced (08 R231, 14 R387): the segments open in it are summed again elsewhere, and what it had sent goes on (02
R50). BRZ_RESUM_CNT counts them in the engine fenced: DESIGN CHOICE (assumption log 164), the spec does not say whether that engine or
the one that sums again counts. -/
def State.fenceEngine (s : State) (k : Nat) : State :=
  if s.bzFenced.contains k then s
  else
    let l := s.openIn k
    let s := s.bump (aBrz k + 0x1C) l.length
    let s := l.foldl (fun s x => s.resum x.1 x.2.1 x.2.2) { s with bzFenced := s.bzFenced ++ [k] }
    s.repoint

/-- The code on an accumulator word of engine `e.1` finds an error: one it corrects is class C; one it cannot fences the engine, whose
segments are summed again (14 sources 0x0401, 0x0402; 08 R231). The segment that the record of 0x0402 names is open: a free value. -/
def State.accError (s : State) (e : Nat × Nat × Bool) : State :=
  if !s.engines.contains e.1 then s
  else if !e.2.2 then s.record 0 4 e.1 0x0401 e.2.1
  else
    let (n, s) := s.free
    (s.record 2 4 e.1 0x0402 n).fenceEngine e.1

/-- The accumulator errors that a receipt comes upon, in order. -/
def State.accErrors (s : State) (ecc : List (BitVec 4 × BitVec 20 × Bool)) : State :=
  ecc.foldl (fun s e => s.accError (e.1.toNat, e.2.1.toNat, e.2.2)) s

/-- CONTRIB_RECEIVE (09 R241; 08 R226, R230): a contribution reaches its local node. `ecc` lists the accumulator words whose
code finds an error, by engine and place, and whether it cannot be corrected. -/
def execContribReceive (_p : BitVec 6) (f : Frame) (ecc : List (BitVec 4 × BitVec 20 × Bool)) (s : State) :
    Host.Outcome State Fault Refusal :=
  if !s.on || s.notYet f then .next s
  else
    let s := s.accErrors ecc
    let back := s
    let (s, id) := s.takeQueued f
    let s := s.bump (aFlt + 0x80) 1
    match s.findColl f.hdr.ctx.toNat f.hdr.collId.toNat with
    | none => .next (s.dropToken id)
    | some slot =>
      match s.coll slot with
      | none => .next (s.dropToken id)
      | some c =>
        let d := c.desc
        let sz := max 1 (segBytes (dCfmt d))
        let g := f.hdr.offset.toNat / sz
        match (s.membersOf d).findIdx? (fun a => a == f.hdr.src.toNat),
              c.nodes.findIdx? (fun n => n.stage == .loc) with
        | some r, some ni =>
          if f.hdr.offset.toNat % sz != 0 || decide (segCount d ≤ g) then .next (s.dropToken id)
          else .next (s.nodeInput back slot ni g (contribIn d r g id f))
        | _, _ => .next (s.dropToken id)

/-- The mirror takes a frame of the owner's result into the engine of its segment (08 R224; 10 R281): the blocks of the canonical
image at their final scales, checked as a partial receipt. -/
def State.mirrorTake (s : State) (slot : Nat) (c : Coll) (f : Frame) : State :=
  let d := c.desc
  let ts := f.hdr.ts.toNat
  let a := dAscale d
  let fl : BitVec 6 := BitVec.ofNat 6 (bits ts 37 32)
  let nr := bits ts 63 48
  let off := f.hdr.offset.toNat
  let per := segElems (dCfmt d) / 32
  let b0 := off / 132
  let g := if isExact d then b0 / per else off / (4 * segElems (dCfmt d))
  let count (s : State) (whole : Bool) : State := match (tfind c.half g).bind (fun h => h.2.1) with
    | some k => (s.bump (aBrz k + 8) f.payload.length).bump (aBrz k + 0x10) (if whole then 1 else 0)
    | none => s
  if isExact d then
    let k := b0 % per
    let bs : List IBlock := maskFill (segLen d g - 32 * k) ((chunksOf 132 f.payload).map (fun x =>
      (fld x 0 1, (List.range 32).map (fun j => toSigned 32 (fld x (4 + 4 * j) 4)))))
    let us := bs.flatMap (fun b => if b.1 = 0xFF then b.2.map (fun _ => 0) else b.2.map (fun v => v * 2 ^ (b.1 - a)))
    let bad := csum us != BitVec.ofNat 32 ts
    let fl := fl ||| flagIf bad flCheck
    let s := if bad then s.record 1 1 (dCtx d) 0x0403 (dId d) else s
    let r := c.root.getD Root.init
    let old := ((tfind r.segs g).map (fun x => x.1)).getD []
    let have_ := if k = 0 then bs ++ old.drop bs.length else old.take k ++ bs
    let mx := us.foldl (fun m v => max m v.natAbs) r.maxAbs
    if segBlocks d g ≤ have_.length then ((count s true).setHalf slot g none).rootTake slot g have_ mx [] fl nr
    else
      let r := { r with segs := tset r.segs g (have_, []), flags := r.flags ||| fl, nfRank := min r.nfRank nr, maxAbs := mx }
      (count s false).setColl slot { c with root := some r }
  else ((count s true).setHalf slot g none).rootTake slot g [] 0 (toWords f.payload) fl nr

/-- Room for what the mirror gathers: its G pages, and accumulators for a segment of which it has nothing yet, or which has spilled
them; the state that waits where there is none (08 R232; 10 R262). -/
def State.mirrorRoom (s : State) (back : State) (slot : Nat) (c : Coll) (g : Nat) : State × Bool :=
  let d := c.desc
  let ni := c.nodes.length
  let tag := waitTag (dCtx d) (dId d) 3
  match s.ensureG d with
  | none => (back.waitPool 3 { owner := dCtx d, n := pagesOf 0 (dElements d),
                               tag := waitTag (dCtx d) (dId d) 1 }, false)
  | some s =>
    if segHeld d (c.root.getD Root.init) g || (tfind c.half g).any (fun h => h.2.1.isSome && !h.2.2) then (s, true)
    else
      let t := ((tfind c.half g).map Prod.fst).getD s.now
      let k := ((tfind c.half g).bind (fun h => h.2.1)) <|> (s.segEngines true .y g).head?
      match s.accRoom slot ni g (segAccs d g) tag k.toList with
      | none => (back.waitPool 4 { owner := 64, n := 1, tag := tag }, false)
      | some s =>
        ((s.freePages (fun h => k.any (fun k => h == .spill (dCtx d) (dId d) ni g k))).setHalf slot g (some (t, k, false)), true)

/-- PARTIAL_RECEIVE (09 R241; 08 R224, R226 to R228; 10 R281): a partial reaches a node, or the twin mirror; `ecc` as for a
contribution. -/
def execPartialReceive (p : BitVec 6) (f : Frame) (ecc : List (BitVec 4 × BitVec 20 × Bool)) (s : State) :
    Host.Outcome State Fault Refusal :=
  if !s.on || s.notYet f then .next s
  else
    let s := s.accErrors ecc
    let back := s
    let (s, id) := s.takeQueued f
    let s := s.bump (aFlt + 0x88) 1
    match s.findColl f.hdr.ctx.toNat f.hdr.collId.toNat with
    | none => .next (s.dropToken id)
    | some slot =>
      match s.coll slot with
      | none => .next (s.dropToken id)
      | some c =>
        let d := c.desc
        if s.isMirror d && f.hdr.src.toNat == s.rootOf d && c.decided.isNone then
          let off := f.hdr.offset.toNat
          let g := if isExact d then off / 132 / (segElems (dCfmt d) / 32) else off / (4 * segElems (dCfmt d))
          match s.mirrorRoom back slot c g with
          | (s, false) => .next s
          | (s, true) => .next (((s.mirrorTake slot ((s.coll slot).getD c) f).dropFrom id 0).bump (aFlt + 0x98) 1)
        else
          let sz := max 1 (partialBytes (dCfmt d))
          let g := f.hdr.offset.toNat / sz
          let src := Src.group (p.toNat / 4)
          match c.nodes.findIdx? (fun n => n.inputs.any (fun e => e.1 == src)) with
          | none => .next (s.dropToken id)
          | some ni =>
            if f.hdr.offset.toNat % sz != 0 || decide (segCount d ≤ g) then .next (s.dropToken id)
            else
              let key := (((c.nodes[ni]?).bind (fun n => n.inputs.find? (fun e => e.1 == src))).map Prod.snd).getD 0
              .next (s.nodeInput back slot ni g (partialIn d src key g id f))

end Sys2Proof.Machine
end

