-- ==== Sys2Proof/Machine/Pewter.lean ====
section
/-! DEFINITION. Pewter: the update rules (10 R263 to R265), the sequence of an update and its commit (10 R267
to R279, R460), twin mode (10 R280 to R283), the return (10 R284 to R286), and the rows that carry them. -/

namespace Sys2Proof.Machine

/-! ### Images and digests -/

/-- Values as Fv, from FP32 bits, with the filler of whole blocks. -/
def blocksOf32 (ws : List Word) : List Fv := padTo (32 * cdiv ws.length 32) (.fin false 0 0) (ws.map f32)

/-- The return image of W in a format (10 R264). -/
def imageOf (c : Nat) (w : List Word) : List Byte :=
  if isMx c then encodeArr c none (blocksOf32 w) else encodeArr c none (w.map f32)

/-- Its digest, over whole blocks (03 R74). -/
def imageDigest (c : Nat) (w : List Word) : BitVec 64 := crc64 (encodeArr c none (blocksOf32 w))

/-- Digest of a tensor's state that the twins compare (10 R282): a free function, assumption log 115. -/
def stateDigest (w m1 m2 : List Word) : BitVec 64 := Config.stateDigest w m1 m2

/-! ### Constants (10 R264) -/

def kK1 (e : List Byte) : Word := narrow (dmul (widen (tHyper e 0)) (widen (tHyper e 1)))
def kN1 (e : List Byte) : Word := narrow (dsub dOne (widen (tHyper e 2)))
def kN2 (e : List Byte) : Word := narrow (dsub dOne (widen (tHyper e 3)))
/-- Bias correction 1 / (1 − B^t), t = max(STEP, 1). -/
def kBc (b : Word) (step : Nat) : Word := narrow (ddiv dOne (dsub dOne (Config.fp64Pow (widen b) (max step 1))))
def kK2 (e : List Byte) : Word :=
  let q := ddiv (dOfNat (tRows e)) (dOfNat (tCols e))
  let q := if tRows e ≤ tCols e then dOne else q
  narrow (dmul (dmul (widen (tHyper e 0)) (widen (tHyper e 5))) (dsqrt q))

/-- A moment as read, and as written, in MFMT. -/
def mRead (e : List Byte) (m : Word) : Word := if tMfmt e then ofBf16 m.toNat else m
def mWrite (e : List Byte) (m : Word) : Word := if tMfmt e then BitVec.ofNat 32 (toBf16 m) else m
def mBad (e : List Byte) (m : Word) : Bool := isNonfin (mRead e m)

/-- w := fma(−LR, x, fma(−k1, w, w)), with `lr` in place of LR. -/
def stepW (lr k1 x w : Word) : Word := ffma (fneg lr) x (ffma (fneg k1) w w)

/-- One element under AM, MM or SG: new w, first moment, second moment (10 R264). -/
def ruleElem (e : List Byte) (step : Nat) (g w m v : Word) : Word × Word × Word :=
  let lr := tHyper e 0
  let k1 := kK1 e
  let b1 := tHyper e 2
  let b2 := tHyper e 3
  if tRule e = 2 then
    let m := ffma b1 m (fmul (kN1 e) g)
    let v := ffma b2 v (fmul (fmul (kN2 e) g) g)
    let d := fdiv (fmul m (kBc b1 step)) (fadd (fsqrt (fmul v (kBc b2 step))) (tHyper e 4))
    (stepW lr k1 d w, m, v)
  else if tRule e = 3 then
    let m := ffma b1 m g
    let u := if tNesterov e then ffma b1 m g else m
    (stepW lr k1 u w, m, v)
  else
    let c := ffma b1 m (fmul (kN1 e) g)
    (stepW lr k1 (fsign c) w, ffma b2 m (fmul (kN2 e) g), v)

/-- Lists zipped with a default. -/
def at0 (l : List Word) (i : Nat) : Word := l.getD i 0

/-- The element-wise pass of AM, MM or SG. -/
def rulePass (e : List Byte) (step : Nat) (g w m1 m2 : List Word) : List Word × List Word × List Word :=
  let l := (List.range w.length).map (fun i =>
    ruleElem e step (at0 g i) (at0 w i) (mRead e (at0 m1 i)) (mRead e (at0 m2 i)))
  (l.map (fun x => x.1), l.map (fun x => mWrite e x.2.1),
   if tRule e = 2 then l.map (fun x => mWrite e x.2.2) else [])

/-- OM pass 1: new momentum and u (10 R265). -/
def omPass1 (e : List Byte) (g m1 : List Word) : List Word × List Word :=
  let b1 := tHyper e 2
  let l := (List.range g.length).map (fun i =>
    let m := ffma b1 (mRead e (at0 m1 i)) (at0 g i)
    (mWrite e m, if tNesterov e then ffma b1 m (at0 g i) else m))
  (l.map Prod.fst, l.map Prod.snd)

/-- ssq: FP64, per stack in address order, then over the stacks in order (10 R265, 12 R341). -/
def ssqOf (ks : List Nat) (rot : Nat) (us : List Word) : BitVec 64 :=
  let per (k : Nat) : BitVec 64 :=
    ((us.mapIdx (fun i u => (i, u))).filter (fun p => ks[(p.1 / 2097152 + rot) % ks.length]? == some k)).foldl
      (fun acc p => dadd acc (dmul (widen p.2) (widen p.2))) 0
  ks.foldl (fun acc k => dadd acc (per k)) 0

/-- A matrix in the tensor's element order, as X lies: transposed when ROWS > COLS. -/
def toX (e : List Byte) (l : List Word) : List (List Word) :=
  if tCols e < tRows e then transpose 0 (tCols e) (rowsOf (tCols e) l) else rowsOf (tCols e) l

/-- And back. -/
def fromX (e : List Byte) (m : List (List Word)) : List Word :=
  if tCols e < tRows e then (transpose 0 (omC e) m).flatten else m.flatten

/-- X in NSFMT, blocks along its rows (11 R300). -/
def encodeX (e : List Byte) (m : List (List Word)) : List Byte :=
  m.flatMap (fun r => encodeArr (tNsfmt e) none (r.map f32))

def decodeX (e : List Byte) (bs : List Byte) : List (List Fv) :=
  (chunksOf (max 1 (arrayBytes (tNsfmt e) (omC e))) bs).map (fun r => (decodeArr (tNsfmt e) r).take (omC e))

/-- s := 1 / (sqrt(ssq) + 1.0e-7), FP64 rounded once. -/
def nsScale (ssq : BitVec 64) : Word := narrow (ddiv dOne (dadd (dsqrt ssq) 0x3E7AD7F29ABCAF48))

def fOne : Word := 0x3F800000

/-- Product `j` of iteration `k` (11 Table 11.3) of an update on T tiles. -/
def nsProduct (e : List Byte) (t k j : Nat) (u : Update) : Update :=
  let sc := if k = 1 then nsScale u.ssq else fOne
  let ex := tPmode e
  let ns := tNsfmt e
  let r := omR e
  let x := decodeX e u.x
  let fv (m : List Word) : List (List Fv) := rowsOf r (m.map f32)
  if j = 1 then
    { u with a := (product ex t (fmul sc sc) x x (fun _ _ => none)).flatten }
  else if j = 2 then
    let a := fv u.a
    { u with b := (product ex t 0x40000000 (a.map (operand ns)) ((transpose .nan r a).map (operand ns))
        (fun i q => some (0xC0980000, ((a.getD i []).getD q .nan)))).flatten }
  else
    let cols := (transpose .nan (omC e) x).map (operand ns)
    let y := product ex t sc ((fv u.b).map (operand ns)) cols
      (fun i q => some (fmul 0x405C0000 sc, ((x.getD i []).getD q .nan)))
    if k < 5 then { u with x := encodeX e y } else { u with o := fromX e y }

/-! ### Starting an update (10 R267, R271, R273, R274) -/

def clearResume (e : List Byte) : List Byte :=
  putBytes e 1 (toLe 1 (tFlags e - (if tResume e then 4 else 0)))

/-- The arrays that an update draws at its start, each with its format and element count (10 Table 10.4, R262). -/
def updateAreas (d e : List Byte) (changes : Bool) : List (Holder × Nat × Nat) :=
  let n := tElements e
  let w (part c k : Nat) : Holder × Nat × Nat := (Holder.work (dCtx d) (dId d) part, c, k)
  let img : Holder × Nat × Nat := (Holder.image (dCtx d) (dId d), tRfmt e, n)
  if !changes then [img]
  else
    let mf := if tMfmt e then 1 else 0
    let r2 := omR e * omR e
    [w 2 0 n, w 3 mf n] ++ (if tMoments e = 2 then [w 4 mf n] else []) ++
    (if tRule e = 1 then [w 1 (tNsfmt e) n, w 8 (tNsfmt e) n, w 5 0 r2, w 6 0 r2, w 7 0 n] else []) ++ [img]

/-- The stacks of their pages, in the order of each array (12 R319). -/
def areaPages (ks : List Nat) (rot : Nat) (l : List (Holder × Nat × Nat)) : List (Nat × Holder) :=
  l.flatMap (fun a => (arrayStacks ks a.2.1 a.2.2 rot).map (fun q => (q, a.1)))

/-- Their maps are written (12 R321). -/
def State.writeMaps (s : State) (rot : Nat) (l : List (Holder × Nat × Nat)) : State :=
  l.foldl (fun s a => s.writeMap a.1 a.2.1 rot a.2.2) s

/-- Bytes of the two map slots of every array of a tensor, and of its version record (12 R320, R321). -/
def mapSlots (e : List Byte) : Nat :=
  32 + 2 * (32 + 4 * pagesOf 0 (tElements e)) +
  2 * tMoments e * (32 + 4 * pagesOf (if tMfmt e then 1 else 0) (tElements e))

/-- Bytes of the MAP region that the plans' slots take. -/
def mapBytes (a : Nat) (es : List (List Byte)) : Nat :=
  ((es.filter (holdsTensor a)).map mapSlots).foldl (· + ·) 0

/-- MAP pages in use: the slots, and the maps of the working areas and the regions, with their headers. How they lie in the region is
not given (assumption log 18). A new array of an update takes a slot of its tensor. -/
def State.mapPages (s : State) : Nat :=
  let own (h : Holder) : Bool := match h with
    | .work _ _ n => decide (n < 2) || decide (4 < n)
    | .state _ _ _ => false
    | _ => true
  cdiv (mapBytes s.addr (s.tensors.map (fun e => e.2.entry)) +
    ((s.ing.maps.filter (fun m => own m.holder)).map (fun m => m.bytes.length)).foldl (· + ·) 0) 65536

/-- Updates that this Fixus has still to finish, first in R210 order: STEP collectives it roots or mirrors. -/
def State.firstUpdate (s : State) : Option (Nat × Coll) :=
  let l := s.slots.filter (fun e => dKind e.2.desc == kStep && (s.iAmRoot e.2.desc || s.isMirror e.2.desc) &&
    e.2.decided.isNone && !s.pwt.finished.any (fun u => u.ctx == dCtx e.2.desc && u.cid == dId e.2.desc))
  l.foldl (fun best e => match best with
    | none => some e
    | some b => if r210 b.2.desc e.2.desc then some b else some e) none

/-! ### Pass commands (12 R340) -/

/-- OP of the running pass, its constants K0 to K9 and its maps, each 0 where it is unused (12 Table 12.8). A map address is that of
an array of the tensor, or of the working area 3 for G, 4 for X, 5 for the image, 6 for O; `old` and `new_` are the map slots. -/
def passParts (ctx tensor step old new_ : Nat) (e : List Byte) (u : Update) : Nat × List Word × List (BitVec 40) :=
  let at_ (arr slot : Nat) : BitVec 40 := Config.mapAddr ctx tensor arr slot
  let lr := tHyper e 0
  let b1 := tHyper e 2
  let b2 := tHyper e 3
  let g := at_ 3 0
  let i := at_ 5 0
  match u.phase with
  | .pass1 => (4, [b1], [g, 0, at_ 1 old, 0, at_ 4 0, 0, at_ 1 new_, 0, 0])
  | .pass2 => (5, [kK1 e, kK2 e], [0, at_ 0 old, 0, 0, at_ 6 0, at_ 0 new_, 0, 0, i])
  | .image => (6, [], [0, at_ 0 old, 0, 0, 0, 0, 0, 0, i])
  | _ =>
    if tRule e = 2 then
      (1, [lr, kK1 e, b1, kN1 e, b2, kN2 e, kBc b1 step, kBc b2 step, tHyper e 4],
       [g, at_ 0 old, at_ 1 old, at_ 2 old, 0, at_ 0 new_, at_ 1 new_, at_ 2 new_, i])
    else
      (if tRule e = 3 then 2 else 3, if tRule e = 3 then [lr, kK1 e, b1] else [lr, kK1 e, b1, kN1 e, b2, kN2 e],
       [g, at_ 0 old, at_ 1 old, 0, 0, at_ 0 new_, at_ 1 new_, 0, i])

/-- A 128-byte pass command (12 Table 12.8). -/
def passBytes (tag parts rot : Nat) (e : List Byte) (p : Nat × List Word × List (BitVec 40)) : List Byte :=
  toLe 1 p.1 ++ toLe 1 (b2n (tNesterov e) + 2 * b2n (tMfmt e) + 4 * b2n (tZero e)) ++
  toLe 1 (16 * tRfmt e + tNsfmt e) ++ toLe 1 0 ++ toLe 4 tag ++ toLe 5 (tElements e) ++ toLe 1 rot ++ toLe 1 parts ++ toLe 1 0 ++
  padTo 40 0 (p.2.1.flatMap (fun w => toLe 4 w.toNat)) ++ p.2.2.flatMap (fun a => toLe 8 a.toNat)

/-- Pewter drives the base dies with the command of the pass that begins (12 R340). -/
def State.issue (s : State) (d : List Byte) (t : Tensor) (u : Update) : State :=
  let e := t.entry
  let bytes := passBytes (u.tag % 2 ^ 32) (dParts d) (dTensor d % 4) e
    (passParts (dCtx d) (dTensor d) (dStep d) (b2n t.ver.map) (b2n (!t.ver.map)) e u)
  { s with pwt := { s.pwt with cmd := bytes } }

/-- The first phase of an update once it holds its pages. -/
def firstPhase (e : List Byte) (changes : Bool) : Phase :=
  if !changes then .image else if tRule e = 1 then .pass1 else .rule

/-- The pages of the running update are drawn, as one request served whole (10 R262). -/
def State.tryPages (s : State) : State :=
  match s.pwt.upd with
  | none => s
  | some u =>
    match s.findColl u.ctx u.cid with
    | none => s
    | some slot =>
      match s.coll slot with
      | none => s
      | some c =>
        match s.tensor u.ctx (dTensor c.desc) with
        | none => s
        | some t =>
          let areas := updateAreas c.desc t.entry u.changes
          let rot := dTensor c.desc % 4
          let need := areaPages (s.stacksOf u.ctx (dTensor c.desc)) rot areas
          let tag := waitTag u.ctx u.cid 2
          let wait := s.waitPool 3 { owner := u.ctx, n := need.length, tag := tag }
          if u.phase != .pages then s
          else match s.drawShadow u.ctx tag need with
            | none => wait
            | some s =>
              let u := { u with phase := firstPhase t.entry u.changes }
              let s := (s.unwait 3 tag).writeMaps rot areas
              { s with pwt := { s.pwt with upd := some u } }.issue c.desc t u

/-- UPDATE_START (10 R267): the first update in R210 order starts once its reduction is complete, no other runs,
and its tensor is not being copied from its twin (10 R282); the checks of R271 to R274 are made. -/
def State.updateStart (s : State) : State :=
  match s.firstUpdate with
  | none => s
  | some (slot, c) =>
    let d := c.desc
    let key := (dCtx d, dId d)
    let r := c.root.getD Root.init
    match s.tensor (dCtx d) (dTensor d) with
    | none => s
    | some t =>
      if !s.pwt.ready.contains key || s.pwt.upd.isSome || t.ver.resync then s
      else
        let s := { s with pwt := { s.pwt with ready := s.pwt.ready.filter (· != key) } }
        let e := applyPend t.entry (dStep d)
        let t := { t with entry := e }
        let s := s.setTensor (dCtx d) (dTensor d) t
        let nf := r.conds.getLsbD 6
        if t.ver.lost || (s.ctx (dCtx d)).planFenced then
          (s.bump (aPwt + 0x20) 1).settle slot (addCond r.conds stFenced) 0 0 r.nfRank none 0
        else if !tFrozen e && !tResume e && t.ver.lastStep != (dStep d + 2 ^ 32 - 1) % 2 ^ 32 then
          (s.bump (aPwt + 0x1C) 1).settle slot (addCond r.conds stStepGap) 0 0 r.nfRank none 0
        else
          let changes := !tFrozen e && (!nf || tZero e)
          let conds := if tFrozen e then addCond r.conds stFrozen else r.conds
          -- Pewter's tag of the update is its own: a free value (assumption log 143)
          let (tag, s) := s.free
          let g := if nf then List.zipWith (fun (x : Word) (b : Bool) => if b then 0 else x) r.g r.nonfin else r.g
          let u : Update :=
            { ctx := dCtx d, cid := dId d, phase := .pages, conds := conds, lowest := r.nfRank, w := t.w, m1 := t.m1,
              m2 := t.m2, u := [], x := [], a := [], b := [], o := g, ssq := 0, image := [], pdig := 0,
              partFail := r.partFail, nonfin := false, changes := changes, setStep := !tFrozen e,
              mirror := !s.iAmRoot d, tag := tag }
          let s := s.setTensor (dCtx d) (dTensor d) { t with ver := { t.ver with pending := dStep d } }
          { s with pwt := { s.pwt with upd := some u } }.tryPages

def execUpdateStart (s : State) : Host.Outcome State Fault Refusal := due s.on s s.updateStart

/-! ### Passes (10 R263, R275, R276, R460; 12 R341) -/

/-- The running update leaves Pewter. -/
def State.noUpdate (s : State) : State := { s with pwt := { s.pwt with upd := none } }

/-- The version record's PENDING_STEP is cleared. -/
def State.clearPending (s : State) (ctx tensor : Nat) : State :=
  match s.tensor ctx tensor with
  | some t => s.setTensor ctx tensor { t with ver := { t.ver with pending := 0 } }
  | none => s

/-- The working and new pages of an update, but for G, are freed. -/
def State.freeNew (s : State) (ctx cid : Nat) : State :=
  s.freePages (fun h => match h with
    | .work x y p => x == ctx && y == cid && p != 0
    | _ => false)

/-- What the end of a pass makes of the running update. -/
def passResult (d e : List Byte) (t : Tensor) (u : Update) : Update :=
  let f := tRfmt e
  match u.phase with
  | .pass1 =>
    let (m1, us) := omPass1 e u.o t.m1
    let ssq := ssqOf t.onStacks (dTensor d % 4) us
    { u with m1 := m1, u := us, x := encodeX e (toX e us), ssq := ssq, phase := .nsReady,
             nonfin := m1.any (mBad e) || (f64 ssq).isNonfin }
  | .rule =>
    let (w, m1, m2) := rulePass e (dStep d) u.o t.w t.m1 t.m2
    { u with w := w, m1 := m1, m2 := m2, image := imageOf f w, pdig := imageDigest f w, phase := .finished,
             nonfin := w.any isNonfin || m1.any (mBad e) || m2.any (mBad e) }
  | .pass2 =>
    let w := List.zipWith (fun (w o : Word) => ffma (fneg (kK2 e)) o (ffma (fneg (kK1 e)) w w)) t.w u.o
    { u with w := w, image := imageOf f w, pdig := imageDigest f w, phase := .finished,
             nonfin := w.any isNonfin || u.o.any isNonfin }
  | .image =>
    { u with image := imageOf f t.w, pdig := imageDigest f t.w, phase := .finished, nonfin := false }
  | _ => u

/-- The areas that Table 10.4 frees at the end of an update: G, X, A, B and O. -/
def tempArea (ctx cid : Nat) : Holder → Bool
  | .work x y p => x == ctx && y == cid && (decide (p < 2) || decide (4 < p))
  | _ => false

/-- A finished update frees those areas and waits for L + RET_DELAY; the next one may start. -/
def State.finishUpdate (s : State) (u : Update) : State :=
  ({ s with pwt := { s.pwt with upd := none, finished := s.pwt.finished ++ [u] } }).freePages (tempArea u.ctx u.cid)

/-- An update ends without a commit, with PART_FAIL bits `parts` (10 R276, R277): PARTIAL, and FENCED where the committed version is
LOST or the plan is, both conditions where both hold (10 R287; 12 Table 12.6). Every page of it is freed. -/
def State.failUpdate (s : State) (u : Update) (slot : Nat) (c : Coll) (t : Tensor) (parts : BitVec 64) : State :=
  let d := c.desc
  let s := ((s.clearPending u.ctx (dTensor d)).freeNew u.ctx u.cid).freePages (fun h => h == .image u.ctx u.cid)
  let conds := if parts = 0 then u.conds else addCond u.conds stPartial
  let conds := if t.ver.lost || (s.ctx u.ctx).planFenced then addCond conds stFenced else conds
  (s.bump (aPwt + 0x20) 1).settle slot conds 0 parts u.lowest none 0

/-- The pass of the running update ends (12 R341). -/
def State.updatePass (s : State) (r : PassReport) : State :=
  match s.pwt.upd with
  | none => s
  | some u =>
    match s.findColl u.ctx u.cid with
    | none => s
    | some slot =>
      match s.coll slot with
      | none => s
      | some c =>
        let d := c.desc
        match s.tensor u.ctx (dTensor d) with
        | none => s
        | some t =>
          let e := t.entry
          let fp := r.failParts ||| u.partFail
          let runs := match u.phase with
            | .pass1 => true
            | .rule => true
            | .pass2 => true
            | .image => true
            | _ => false
          if !runs then s
          else if r.stateLost || t.ver.lost then
            let t := { t with ver := { t.ver with lost := true } }
            (s.setTensor u.ctx (dTensor d) t).noUpdate.failUpdate u slot c t fp
          else if fp != 0 then s.noUpdate.failUpdate u slot c t fp
          else
            let u := passResult d e t u
            if u.nonfin then
              let s := s.freeNew u.ctx u.cid
              let u := { u with phase := .image, changes := false, setStep := true, lowest := 0xFFFF,
                                conds := addCond u.conds stNonfinite, nonfin := false }
              { s with pwt := { s.pwt with upd := some u } }.issue d t u
            else if u.phase = .finished then s.finishUpdate u
            else { s with pwt := { s.pwt with upd := some u } }

/-- The pages of a FETCH's image, drawn from pool 3 at its launch, or when the pool can give them (10 R269; 06 R164): DEDUCED,
assumption log 140. The IMAGE pass begins then. No page is drawn for a tensor that lost a stack (assumption log 171). -/
def State.fetchPages (s : State) (ctx cid : Nat) : State :=
  match (s.findColl ctx cid).bind (fun i => s.coll i) with
  | none => s
  | some c =>
    let d := c.desc
    let rot := dTensor d % 4
    let tag := waitTag ctx cid 2
    let areas := [(Holder.image ctx cid, dRfmt d, dElements d)]
    let need := areaPages (s.stacksOf ctx (dTensor d)) rot areas
    if s.ing.pages.any (fun p => p.holder == .image ctx cid) || need.isEmpty || s.stackGone ctx (dTensor d) then s
    else match s.drawShadow ctx tag need, s.tensor ctx (dTensor d) with
      | some s, some t =>
        let (n, s) := s.free
        let u : Update :=
          { ctx := ctx, cid := cid, phase := .image, conds := 0, lowest := 0xFFFF, w := [], m1 := [], m2 := [], u := [], x := [],
            a := [], b := [], o := [], ssq := 0, image := [], pdig := 0, partFail := 0, nonfin := false, changes := false,
            setStep := false, mirror := false, tag := n }
        ((s.unwait 3 tag).writeMaps rot areas).issue d t u
      | _, _ => s.waitPool 3 { owner := ctx, n := need.length, tag := tag }

/-- Does the first FETCH hold the pages of its image? -/
def State.fetchReady (s : State) : Bool :=
  match s.pwt.fetches with
  | [] => true
  | (ctx, cid) :: _ =>
    match (s.findColl ctx cid).bind (fun i => s.coll i) with
    | none => true
    | some c => dElements c.desc == 0 || s.ing.pages.any (fun p => p.holder == .image ctx cid) ||
        s.stackGone ctx (dTensor c.desc)

/-- The image pass of the first FETCH ends: its decision, and the return at once (10 R269). -/
def State.fetchPass (s : State) (r : PassReport) : State :=
  match s.pwt.fetches with
  | [] => s
  | (ctx, cid) :: rest =>
    match s.findColl ctx cid with
    | none => { s with pwt := { s.pwt with fetches := rest } }
    | some slot =>
      match s.coll slot with
      | none => s
      | some c =>
        let d := c.desc
        let s : State := { s with pwt := { s.pwt with fetches := rest } }
        let s := s.freeOld ctx (dTensor d)
        match s.tensor ctx (dTensor d) with
        | none => s
        | some t =>
          if (s.ctx ctx).planFenced || c.memberLost then s.settle slot (addCond 0 stFenced) 0 0 0xFFFF none 0
          else if r.stateLost || t.ver.lost then
            let s := s.setTensor ctx (dTensor d) { t with ver := { t.ver with lost := true } }
            s.settle slot (addCond 0 stFenced) 0 0 0xFFFF none 0
          else if r.failParts != 0 then s.settle slot (addCond 0 stPartial) 0 r.failParts 0xFFFF none 0
          else s.settle slot 0 (imageDigest (dRfmt d) c.wImage) 0 0xFFFF (some (imageOf (dRfmt d) c.wImage)) c.frozenVer

/-- PASS_DONE (12 R341): a base die reports the end of the running pass, or of a FETCH's image. -/
def execPassDone (r : PassReport) (s : State) : Host.Outcome State Fault Refusal :=
  if r.fetch then due (s.on && s.fetchReady) s (s.fetchPass r) else due s.on s (s.updatePass r)

/-! ### The flip (10 R268, R270) -/

/-- The version record is written: new arrays and VERSION for a commit, LAST_STEP where the outcome sets it. -/
def commitTensor (t : Tensor) (u : Update) (step : Nat) : Tensor :=
  if u.changes then
    { t with entry := clearResume t.entry, w := u.w, m1 := u.m1, m2 := u.m2,
             ver := { t.ver with version := (t.ver.version + 1) % 2 ^ 32, lastStep := step, pending := 0,
                                 reexec := false, map := !t.ver.map } }
  else if u.setStep then
    { t with entry := clearResume t.entry, ver := { t.ver with lastStep := step, pending := 0 } }
  else { t with ver := { t.ver with pending := 0 } }

/-- The new pages become the state's. The old ones return to pool 3, but for those of W while a FETCH or a kernel still reads
version `v` (10 R268, R269; 11 R302). -/
def State.flipPages (s : State) (ctx cid tensor v : Nat) : State :=
  let s := s.freePages (fun h => match h with
    | .state x t a => x == ctx && t == tensor && (a != 0 || !s.readsVersion ctx tensor v)
    | _ => false)
  s.movePages (fun h => match h with
    | .state x t a => if x = ctx && t = tensor && a = 0 then .old ctx tensor v else h
    | .work x y n => if x = ctx && y = cid && 2 ≤ n && n < 5 then .state ctx tensor (n - 2) else h
    | _ => h)

/-- The counters of an update that ends at its flip or with unchanged parameters (10 Table 10.13). -/
def State.countUpdate (s : State) (u : Update) : State :=
  let s := if statusOf u.conds = stNonfinite then s.bump (aPwt + 0x18) 1 else s
  if u.changes then ({ s with pwt := { s.pwt with lastFlip := s.now } }).bump (aPwt + 0x10) 1 else s.bump (aPwt + 0x14) 1

/-- Both twins' digests of a flip are here: they are compared, and a difference makes the mirror copy the owner's state (10 R282). -/
def State.compareTwins (s : State) (ctx tensor : Nat) : State :=
  match s.tensor ctx tensor with
  | none => s
  | some t =>
    match t.twinDig, t.theirDig with
    | some a, some b =>
      let s := s.setTensor ctx tensor { t with twinDig := none, theirDig := none, ver := { t.ver with resync := t.ver.resync || a != b } }
      if a = b then s else { s with pwt := { s.pwt with resyncing := s.pwt.resyncing.filter (· != (ctx, tensor)) ++ [(ctx, tensor)] } }
    | _, _ => s

/-- One finished update flips: the version record, the pages, at a mirror the digests that it compares with the owner's (10 R282: no
message of the spec carries these, TWIN_DIGEST is their arrival; assumption log 115), the outcome and the return. -/
def State.flip (s : State) (u : Update) : State :=
  let s := { s with pwt := { s.pwt with finished := s.pwt.finished.filter (· != u) } }
  match s.findColl u.ctx u.cid with
  | none => s
  | some slot =>
    match s.coll slot with
    | none => s
    | some c =>
      let d := c.desc
      match s.tensor u.ctx (dTensor d) with
      | none => s
      | some t0 =>
        if u.partFail != 0 || t0.ver.lost || (s.ctx u.ctx).planFenced then s.failUpdate u slot c t0 u.partFail
        else
          let t := commitTensor t0 u (dStep d)
          let t := { t with twinDig := if u.changes && s.isMirror d then some (u.pdig, stateDigest u.w u.m1 u.m2) else t.twinDig }
          let s := (s.setTensor u.ctx (dTensor d) t).countUpdate u
          let s := if u.changes then s.flipPages u.ctx u.cid (dTensor d) t0.ver.version else s
          let s := if s.isMirror d then s.compareTwins u.ctx (dTensor d) else s
          let image := if s.returns d u.conds u.changes then some u.image else none
          let s := if image.isNone then s.freePages (fun h => h == .image u.ctx u.cid) else s
          s.settle slot u.conds u.pdig u.partFail u.lowest image t.ver.version

/-- Has an update reached the count L + RET_DELAY? -/
def State.flipDue (s : State) (u : Update) : Bool :=
  match s.findColl u.ctx u.cid with
  | none => true
  | some slot => match s.coll slot with
    | none => true
    | some c => match s.tensor u.ctx (dTensor c.desc) with
      | none => true
      | some t => decide (c.launch + tDelay t.entry ≤ s.now)

/-- FLIP (10 R268, R270, R460): a finished update whose count L + RET_DELAY has come. -/
def execFlip (s : State) : Host.Outcome State Fault Refusal :=
  match s.pwt.finished.find? (fun u => s.flipDue u) with
  | some u => due s.on s (s.flip u)
  | none => .next s

/-! ### Twin mode (10 R282, R283) -/

/-- Is this Fixus the one of a twin pair that does not own the tensor now (10 R282)? -/
def State.mirrorsNow (s : State) (e : List Byte) : Bool :=
  tIsTwin e && holdsTensor s.addr e && s.actingOwner e s.now != s.addr

/-- TWIN_DIGEST (10 R282): the mirror compares the owner's digests with its own, once it has flipped too; a difference sets RESYNC. -/
def execTwinDigest (ctx : Byte) (tensor : BitVec 16) (pd sd : BitVec 64) (s : State) :
    Host.Outcome State Fault Refusal :=
  match s.tensor ctx.toNat tensor.toNat with
  | none => .next s
  | some t =>
    if !s.on || !s.mirrorsNow t.entry then .next s
    else .next ((s.setTensor ctx.toNat tensor.toNat { t with theirDig := some (pd, sd) }).compareTwins ctx.toNat tensor.toNat)

/-- A committed copy of the partner's is installed. -/
def installCopy (t : Tensor) (c : TwinCopy) : Tensor :=
  { t with w := c.w, m1 := c.m1, m2 := c.m2, acting := false, twinDig := none, theirDig := none,
           ver := { t.ver with version := c.version.toNat, lastStep := c.lastStep.toNat, resync := false,
                               reexec := false, lost := false } }

/-- RESYNC_DONE (10 R282): the mirror's copy of the owner's committed state completes and is counted. -/
def execResyncDone (c : TwinCopy) (s : State) : Host.Outcome State Fault Refusal :=
  let k := (c.ctx.toNat, c.tensor.toNat)
  match s.tensor k.1 k.2 with
  | none => .next s
  | some t =>
    if !s.on || !s.pwt.resyncing.contains k then .next s
    else
      let s := (s.setTensor k.1 k.2 (installCopy t c)).bump (aPwt + 0x28) 1
      .next { s with pwt := { s.pwt with resyncing := s.pwt.resyncing.filter (· != k) } }

/-- A tensor of the rejoined Fixus is settled; once the last one is, this Fixus is owner again, from now on. -/
def State.rejoined (s : State) (k : Nat) : State :=
  let l := s.flt.rejoin.filter (· != k)
  let s := { s with flt := { s.flt with rejoin := l } }
  if l.isEmpty then s.ownerBack s.addr s.now else s

/-- REJOIN_COPY_DONE (10 R283): the rejoined Fixus has its partner's committed state of a tensor and installs it where its own record
shows REEXEC, LOST or an older VERSION; once no tensor is left it is owner again. On the partner, which acted for it, the takeover
ends. -/
def execRejoinCopyDone (c : TwinCopy) (s : State) : Host.Outcome State Fault Refusal :=
  let k := (c.ctx.toNat, c.tensor.toNat)
  match s.tensor k.1 k.2 with
  | none => .next s
  | some t =>
    if !s.on then .next s
    else
      let t' := if t.acting then { t with acting := false }
        else if t.ver.reexec || t.ver.lost || decide (t.ver.version < c.version.toNat) then installCopy t c else t
      let s := s.setTensor k.1 k.2 t'
      let s := { s with pwt := { s.pwt with takeover := s.tensors.any (fun e => e.2.acting) } }
      .next (if s.flt.rejoin.contains (tkey k.1 k.2) then s.rejoined (tkey k.1 k.2) else s)

/-- A collective that the mirror has decided goes on under it, as acting owner: it returns the parameters and sends the record
(10 R283, 14 R397). -/
def State.actFor (s : State) (slot : Nat) (c : Coll) : State :=
  match c.decided, c.record with
  | some (status, _), some r => (s.setColl slot { c with ret := none }).decide_ slot status r (c.ret.map (fun x => x.image)) c.frozenVer
  | _, _ => s

/-- The mirror of a lost owner becomes the acting owner of what it mirrors (10 R283); a copy of the lost owner's state is not waited for
any more (R287). -/
def State.takeover (s : State) (lost : Nat) : State :=
  let mine (t : Tensor) : Bool := tIsTwin t.entry && tTwin t.entry == s.addr && tOwner t.entry == lost
  let any_ := s.tensors.any (fun e => mine e.2)
  let ours (k : Nat × Nat) : Bool := match s.tensor k.1 k.2 with
    | some t => mine t
    | none => false
  let s := { s with tensors := tmap s.tensors (fun _ t => if mine t then
                      { t with acting := true, twinDig := none, theirDig := none, ver := { t.ver with resync := false } } else t),
                    pwt := { s.pwt with takeover := s.pwt.takeover || any_,
                                        resyncing := s.pwt.resyncing.filter (fun k => !ours k) } }
  s.slots.foldl (fun s e => if dKind e.2.desc == kStep && ours (dCtx e.2.desc, dTensor e.2.desc) then s.actFor e.1 e.2 else s) s

/-! ### Returns at homes and at the root (10 R284 to R286; 08 R220) -/

/-- RETURN_RECEIVE (10 R286; 08 R216): a RETURN frame has reached this home. -/
def execReturnReceive (_p : BitVec 6) (f : Frame) (s : State) : Host.Outcome State Fault Refusal :=
  if !s.on || s.notYet f then .next s
  else
    let (s, id) := s.takeQueued f
    let s := s.dropFrom id 0
    match s.findColl f.hdr.ctx.toNat f.hdr.collId.toNat with
    | none => .next s
    | some slot =>
      match s.coll slot with
      | none => .next s
      | some c => .next (s.homeReturn slot f.hdr.offset.toNat f.payload.length (s.myUnits c.desc))

/-- COMPLETION_RECEIVE (08 R216, R220): the root's record reaches a home. -/
def execCompletionReceive (_p : BitVec 6) (f : Frame) (s : State) : Host.Outcome State Fault Refusal :=
  if !s.on || s.notYet f then .next s
  else
    let (s, id) := s.takeQueued f
    let s := s.dropFrom id 0
    match s.findColl f.hdr.ctx.toNat f.hdr.collId.toNat with
    | none => .next s
    | some slot =>
      if f.hdr.ts.toNat % 256 != 1 then .next s
      else .next ((s.homeRecord slot (f.payload.take 64)).trySlot slot)

/-- RETURN_DONE (10 R286): a home has every frame; one for another owner goes on toward it. -/
def execReturnDone (_p : BitVec 6) (m : ReturnMsg) (s : State) : Host.Outcome State Fault Refusal :=
  if !s.on then .next s
  else if m.target.toNat != s.addr then .next (s.sendCtlTo m.target.toNat (.returnDone m))
  else
    match s.findColl m.ctx.toNat m.collId.toNat with
    | none => .next s
    | some slot =>
      match s.coll slot with
      | none => .next s
      | some c =>
        match c.ret with
        | none => .next s
        | some r =>
          let r := { r with homes := if r.homes.contains m.source.toNat then r.homes else r.homes ++ [m.source.toNat] }
          .next ((s.setColl slot { c with ret := some r }).rootTry slot)

/-- A RESULT payload sent again by unicast to a home (11 R309): for GATHER_POOL that of each member it homes, from the results that
are staged. -/
def State.resendResult (s : State) (c : Coll) (image : List Byte) (off home : Nat) : State :=
  let d := c.desc
  let piece (bs : List Byte) : List Byte := (bs.drop off).take (returnChunk (dRfmt d))
  let send (s : State) (rank part : Nat) (bs : List Byte) : State :=
    if bs.isEmpty then s else s.sendFrame (s.kernelFrom off) (s.kernelFrame c 1 (dRfmt d) rank part home off bs)
  if dKind d = kGather then
    ((c.kern.getD Kernel.init).rows.filter (fun e => homeOf ((s.membersOf d).getD e.1 0) == home)).foldl (fun s e =>
      send s e.1 (e.1 / partRows d (s.membersOf d).length) (piece e.2)) s
  else send s 0 (s.partAt d image.length off) (piece image)

/-- RETURN_RESEND (10 R286; 08 R220): the owner sends the frame, or with OFFSET 0xFFFF_FFFF the record, again by
unicast to the home. -/
def execReturnResend (_p : BitVec 6) (m : ReturnMsg) (s : State) : Host.Outcome State Fault Refusal :=
  if !s.on then .next s
  else if m.target.toNat != s.addr then .next (s.sendCtlTo m.target.toNat (.returnResend m))
  else
    match s.findColl m.ctx.toNat m.collId.toNat with
    | none => .next s
    | some slot =>
      match s.coll slot with
      | none => .next s
      | some c =>
        let d := c.desc
        let off := m.offset.toNat
        if off = 0xFFFFFFFF then
          match c.record with
          | none => .next s
          | some r =>
            let h := s.hdr m.source.toNat ftCompletion (dCtx d) (dGen d) (dId d) 0 1 false 0 64
            .next (s.sendFrame 78 { vc := 14, hdr := h, payload := r })
        else
          match c.ret with
          | none => .next s
          | some r =>
            let ch := returnChunk (dRfmt d)
            let bs := (r.image.drop off).take ch
            if isKernel (dKind d) then .next (s.resendResult c r.image off m.source.toNat)
            else if bs.isEmpty then .next s
            else
              .next (s.sendFrame (s.returnPoint (dCtx d) (dId d) off)
                (s.returnFrame c c.frozenVer m.source.toNat 0 (off / ch) bs))

end Sys2Proof.Machine
end

