-- ==== Sys2Proof/Machine/Steel.lean ====
section
/-! DEFINITION. Steel: jobs on the arrays (11 R296 to R301, R307), cluster clocks (11 R292 to R294, 02 R44), the
fabric kernels (11 R302 to R312), tile and cluster fences (11 R301, R314), and the rows that carry them. -/

namespace Sys2Proof.Machine

/-! ### Kernel operands -/

/-- A matrix given by its rows. -/
abbrev Mat := List (List Fv)

/-- Row `i` of a region, as stored (11 R302). -/
def Region.row (r : Region) (i : Nat) : List Byte :=
  let b := arrayBytes r.fmt r.cols
  r.data.slice (i * b) b

/-- The rows of a region, decoded. -/
def Region.mat (r : Region) : Mat :=
  (List.range r.rows).map (fun i => (decodeArr r.fmt (r.row i)).take r.cols)

/-- The array named by a key: its format and its rows. Key 0xFFFF is W of the descriptor's TENSOR as committed at
L, ROWS × COLS, or 1 × ELEMENTS for an element-wise entry. -/
def State.operandMat (s : State) (c : Coll) (key : Nat) : Nat × Mat :=
  if key = 0xFFFF then
    let cols := match s.tensor (dCtx c.desc) (dTensor c.desc) with
      | some t => if tRows t.entry = 0 || tCols t.entry = 0 then tElements t.entry else tCols t.entry
      | none => c.wImage.length
    (0, rowsOf (max 1 cols) (c.wImage.map f32))
  else match s.region (dCtx c.desc) key with
    | some r => (r.fmt, r.mat)
    | none => (0, [])

/-- A stored matrix as an operand given by runs along K in format `fmt`; `along` says that its rows run along K.
An MX array in that format whose blocks run along K is taken as it stands; any other is converted (11 R308). -/
def asOperand (fmt stored : Nat) (along : Bool) (m : Mat) : Mat :=
  let runs := if along then m else transpose .nan ((m.headD []).length) m
  if along && stored == fmt && isMx fmt then runs else runs.map (operand fmt)

/-! ### Kernel records and the end of a kernel (11 R305, R306, R309) -/

/-- An image with the filler of whole blocks of 32 elements (03 R74). -/
def fillBlocks (fmt : Nat) (bs : List Byte) : List Byte :=
  if isMx fmt then bs else padTo (32 * elemBytes fmt * cdiv bs.length (32 * elemBytes fmt)) 0 bs

def kOfmt (d : List Byte) : Nat :=
  if dKind d = kMatmul then fld d 75 1 % 16 else if dKind d = kRequant then fld d 70 1 % 16 else fld d 68 1 % 16

/-- Is the output of a kernel indexed by member? -/
def memberIndexed (d : List Byte) : Bool :=
  dKind d == kGather || (dKind d == kRequant && fld d 66 2 == 0)

/-- The kernel's root decides: the record of 08 R217 with RESULT_DIGEST and COUNT, and the delivery. -/
def State.kernelDecide (s : State) (slot : Nat) (conds : BitVec 16) : State :=
  match s.coll slot with
  | none => s
  | some c =>
    let d := c.desc
    let k := c.kern.getD Kernel.init
    let rows := k.rows.map Prod.snd
    let dig := if memberIndexed d then crc64 (rows.flatMap (fillBlocks (kOfmt d)))
      else crc64 (fillBlocks (kOfmt d) rows.flatten)
    let conds := if k.partFail = 0 then conds else addCond conds stPartial
    let conds := if 0 < k.nonfin then addCond conds stNonfinite else conds
    let conds := if (s.ctx (dCtx d)).planFenced || c.memberLost then addCond conds stFenced else conds
    let status := statusOf conds
    let count := if dKind d = kMatmul then k.nonfin else k.served
    let rec_ := recordBytes d status 0 s.now dig.toNat count k.partFail.toNat conds k.lowest 0
    let image := if s.returns d conds false then some rows.flatten else none
    let s := s.decide_ slot status rec_ image 0
    if readsW d then s.freeOld (dCtx d) (dTensor d) else s

/-- Output rows put into the region OUT_KEY from row `r0` on. -/
def State.writeRows (s : State) (ctx key r0 : Nat) (bs : List Byte) : State :=
  if key = 0 then s
  else match s.region ctx key with
    | some r =>
      s.setRegion ctx key { r with data := Mem.splice r.data (r0 * arrayBytes r.fmt r.cols) bs }
    | none => s

/-- Output bytes of a part: those computed, or bytes that are not valid, hence open, where the part has failed (11 R305). -/
def State.validBytes (s : State) (k : Kernel) (part : Nat) (bs : List Byte) : List Byte × State :=
  if k.partFail.getLsbD part then s.freeBytes bs.length else (bs, s)

/-- PART_FAIL with the bit of every part of a descriptor. -/
def allParts (d : List Byte) : BitVec 64 := BitVec.ofNat 64 (2 ^ max 1 (dParts d) - 1)

/-! ### Pages and parts (10 R276, 11 R305, 12 R333) -/

/-- Index of a page in the array that its holder is. -/
def State.pageNo (s : State) (h : Holder) (p : Nat) : Nat :=
  ((s.ing.pages.filter (fun u => u.holder == h)).map (fun u => u.no)).findIdx (fun q => q == p)

/-- PART_FAIL bits of the parts from `lo` to `hi`. -/
def partBits (d : List Byte) (lo hi : Nat) : BitVec 64 :=
  (List.range (max 1 (dParts d))).foldl (fun m i => if lo ≤ i && i ≤ hi then m ||| BitVec.ofNat 64 (2 ^ i) else m) 0

/-- First and last element of page `j` of an array in format `fmt`: stripes fill whole pages (12 R319). -/
def pageElems (fmt j : Nat) : Nat × Nat :=
  if isMx fmt then (65536 * j / blockBytes fmt * 32, (65536 * j + 65535) / blockBytes fmt * 32 + 31)
  else (65536 * j / elemBytes fmt, (65536 * j + 65535) / elemBytes fmt)

/-- Format of a working or new array of an update that lies in the tensor's element order; A and B do not. -/
def areaFmt (e : List Byte) (part : Nat) : Option Nat :=
  if part = 0 || part = 2 || part = 7 then some 0
  else if part = 1 || part = 8 then some (tNsfmt e)
  else if part = 3 || part = 4 then some (if tMfmt e then 1 else 0)
  else none

/-- The parts of a STEP whose elements page `j` of such an array holds. A page of A or B, which every element of the layer needs, counts
for every part: DESIGN CHOICE (assumption log 50). -/
def stepParts (d e : List Byte) (part j : Nat) : BitVec 64 :=
  match areaFmt e part with
  | none => allParts d
  | some fmt =>
    let (lo, hi) := pageElems fmt j
    partBits d (partOfSeg d (lo / segElems (dCfmt d))) (partOfSeg d (hi / segElems (dCfmt d)))

/-- The parts of a kernel that need bytes `b0` to `b1` of the array of `cols` columns in format `fmt` that the keys for which `names`
holds name, of a kernel with `m` rows of output: by rows where the array's rows are those of the output, by columns for a transposed A; of the B of a MATMUL
every part that is still to run. The table of a GATHER_POOL is judged at each lookup. -/
def kernelParts (d : List Byte) (k : Kernel) (m : Nat) (names : Nat → Bool) (fmt cols b0 b1 : Nat) : BitVec 64 :=
  let rb := max 1 (arrayBytes fmt cols)
  let r0 := b0 / rb
  let r1 := b1 / rb
  let rows := partBits d (r0 / partRows d m) (r1 / partRows d m)
  let els (b : Nat) : Nat := if isMx fmt then b % rb / blockBytes fmt * 32 else b % rb / elemBytes fmt
  let if_ (b : Bool) (m : BitVec 64) : BitVec 64 := if b then m else 0
  if dKind d = kMatmul then
    let a := if !bit (fld d 76 1) 0 then rows
      else if r0 = r1 then partBits d (els b0 / partRows d m) ((els b1 + 31) / partRows d m)
      else allParts d
    if_ (names (fld d 66 2)) a ||| if_ (names (fld d 68 2)) (partBits d k.part 63) |||
    if_ (names (fld d 70 2) || names (fld d 72 2)) rows
  else if dKind d = kRequant then if_ (names (fld d 66 2) || names (fld d 68 2)) rows
  else 0

/-- Columns of a tensor's W as a matrix (11 R302). -/
def wCols (e : List Byte) : Nat := if tRows e = 0 || tCols e = 0 then tElements e else tCols e

/-- Rows of a kernel's output (11 R305). -/
def State.outRows (s : State) (d : List Byte) : Nat :=
  if dKind d = kMatmul then fld d 80 4
  else if dKind d = kRequant && fld d 66 2 != 0 then
    if fld d 66 2 = 0xFFFF then
      let e := ((s.tensor (dCtx d) (dTensor d)).map (fun t => t.entry)).getD []
      if tRows e = 0 || tCols e = 0 then 1 else tRows e
    else ((s.region (dCtx d) (fld d 66 2)).map (fun r => r.rows)).getD 0
  else (s.membersOf d).length

/-- The parts that the kernel in a slot loses with page `p`, which it reads or writes (11 R305). -/
def State.pageParts (s : State) (c : Coll) (p : Nat) : BitVec 64 :=
  let d := c.desc
  let k := c.kern.getD Kernel.init
  let at_ (h : Holder) (names : Nat → Bool) (fmt cols : Nat) : BitVec 64 :=
    let j := s.pageNo h p
    kernelParts d k (s.outRows d) names fmt cols (65536 * j) (65536 * j + 65535)
  let ofW (x t v : Nat) (h : Holder) : BitVec 64 :=
    if x = dCtx d && t = dTensor d && c.launched && c.frozenVer = v then
      at_ h (fun key => key == 0xFFFF) 0 (wCols (((s.tensor x t).map (fun t => t.entry)).getD []))
    else 0
  match (s.ing.pages.find? (fun (u : Page) => u.no == p)).map (fun (u : Page) => u.holder) with
  | some (.region x key) =>
    if x = dCtx d then (match s.region x key with
      | some r => at_ (.region x key) (fun q => q == key) r.fmt r.cols
      | none => 0)
    else 0
  | some (.state x t 0) => ofW x t (((s.tensor x t).map (fun t => t.ver.version)).getD 0) (.state x t 0)
  | some (.old x t v) => ofW x t v (.old x t v)
  | _ => 0

/-- The kernel in a slot loses those parts. -/
def State.hitKernel (s : State) (slot p : Nat) : State :=
  match s.coll slot with
  | none => s
  | some c =>
    if !isKernel (dKind c.desc) || !s.iAmRoot c.desc || c.decided.isSome then s
    else
      let k := c.kern.getD Kernel.init
      let m := s.pageParts c p
      if m = 0 then s else s.setColl slot { c with kern := some { k with partFail := k.partFail ||| m } }

/-- Every kernel that needs a page does (12 Table 12.6). -/
def State.failKernels (s : State) (p : Nat) : State := s.slots.foldl (fun s e => s.hitKernel e.1 p) s

/-- A kernel that begins loses the parts whose pages hold poison or are withdrawn already (12 R328). -/
def State.hitPoison (s : State) (slot : Nat) : State :=
  let l := s.ing.poison.map (fun w => w / 2048) ++ (s.ing.pages.filter (fun u => s.withdrawn u.no)).map (fun u => u.no)
  l.eraseDups.foldl (fun s p => s.hitKernel slot p) s

/-- Is a byte range of a region poisoned or withdrawn (12 R328)? -/
def State.regionBad (s : State) (x key b0 b1 : Nat) : Bool :=
  let h := Holder.region x key
  s.ing.poison.any (fun w =>
    let o := 65536 * s.pageNo h (w / 2048) + 32 * (w % 2048)
    s.ing.pages.any (fun u => u.no == w / 2048 && u.holder == h) && decide (o ≤ b1) && decide (b0 < o + 32)) ||
  s.ing.pages.any (fun u => u.holder == h && s.withdrawn u.no && decide (65536 * s.pageNo h u.no ≤ b1) &&
    decide (b0 < 65536 * (s.pageNo h u.no + 1)))

/-! ### Jobs (11 R307) -/

/-- Is the next part of a MATMUL ready, from its L? -/
def State.matmulReady (s : State) (c : Coll) : Bool :=
  dKind c.desc == kMatmul && s.iAmRoot c.desc && c.launched && c.decided.isNone &&
  decide ((c.kern.getD Kernel.init).part < max 1 (dParts c.desc))

/-- The ready jobs: the Newton–Schulz run whose pass 1 is done, and the next part of each MATMUL. -/
def State.readyJobs (s : State) : List (List Byte × SteelJob) :=
  let ns := match s.pwt.upd with
    | some u => if u.phase = .nsReady then
        (match (s.findColl u.ctx u.cid).bind (fun i => s.coll i) with
          | some c => [(c.desc, SteelJob.ns u.ctx u.cid)]
          | none => [])
      else []
    | none => []
  ns ++ s.slots.filterMap (fun e =>
    if s.matmulReady e.2 then
      some (e.2.desc, SteelJob.matmul (dCtx e.2.desc) (dId e.2.desc) ((e.2.kern.getD Kernel.init).part))
    else none)

/-- The first of them in R210 order. -/
def State.firstJob (s : State) : Option SteelJob :=
  (s.readyJobs.foldl (fun best j => match best with
    | none => some j
    | some b => if r210 b.1 j.1 then some b else some j) (none : Option (List Byte × SteelJob))).map Prod.snd

/-- The tensor entry of an update's collective. -/
def State.entryOf (s : State) (ctx cid : Nat) : List Byte :=
  match (s.findColl ctx cid).bind (fun i => s.coll i) with
  | some c => ((s.tensor ctx (dTensor c.desc)).map (fun t => t.entry)).getD []
  | none => []

/-- The K-split of the last product started (11 R296, STL_SPLIT_LAST). -/
def State.setSplit (s : State) (k : Nat) : State := { s with stl := { s.stl with split := kSplit k s.tiles } }

/-- The contraction length of product `j` (11 Table 11.3). -/
def nsK (e : List Byte) (j : Nat) : Nat := if j = 1 then omC e else omR e

/-- Units dealt to the tiles in service, at most ⌈U/T⌉ each (11 R298). Which tiles take one more is open: a free
choice. -/
def State.dealUnits (s : State) (m n k : Nat) : State :=
  let ts := (List.range 64).filter (fun i => s.tileIn i)
  let u := cdiv m 256 * cdiv n 256 * (kSplit k s.tiles).2
  let (f, s) := s.free
  (ts.mapIdx (fun i t => (i, t))).foldl (fun s p =>
    s.bump (aStl p.2 + 0x10) (u / ts.length + b2n (decide ((p.1 + f) % ts.length < u % ts.length)))) s

/-- An OM update that cannot go on ends PARTIAL with these PART_FAIL bits, all of them when every tile is lost (11 R314,
10 R276). -/
def State.failRun (s : State) (u : Update) (slot : Nat) (c : Coll) (parts : BitVec 64) : State :=
  match s.tensor u.ctx (dTensor c.desc) with
  | some t => s.noUpdate.failUpdate u slot c t parts
  | none => s.noUpdate

/-- Every part of a MATMUL fails: its output is bytes that are not valid (11 R305, R314). -/
def State.failParts (s : State) (slot : Nat) (c : Coll) : State :=
  let d := c.desc
  let n := max 1 (dParts d)
  let m := fld d 80 4
  let k := c.kern.getD Kernel.init
  let (k, s) := (List.range n).foldl (fun (p : Kernel × State) i =>
    let per := min (partRows d m) (m - i * partRows d m)
    let (bs, s) := p.2.freeBytes (per * arrayBytes (kOfmt d) (fld d 84 4))
    ({ p.1 with rows := tset p.1.rows i bs }, s.writeRows (dCtx d) (fld d 72 2) (i * partRows d m) bs)) (k, s)
  s.setColl slot { c with kern := some { k with part := n, partFail := allParts d } }

/-- Every tile is lost: the job fails (11 R314). -/
def State.failJob (s : State) (j : SteelJob) : State :=
  let s := s.endJob
  match j with
  | .ns ctx cid => (match s.pwt.upd, s.findColl ctx cid with
    | some u, some slot => (match s.coll slot with
      | some c => s.failRun u slot c (allParts c.desc)
      | none => s)
    | _, _ => s)
  | .matmul ctx cid _ => (match s.findColl ctx cid with
    | some slot => (match s.coll slot with
      | some c => (s.failParts slot c).kernelDecide slot 0
      | none => s)
    | none => s)

/-- The arrays take a job. -/
def State.startJob (s : State) (j : SteelJob) : State :=
  let s := { s with stl := { s.stl with job := some j } }.beginShares
  if s.tiles = 0 then s.failJob j
  else match j with
    | .ns ctx cid =>
      let e := s.entryOf ctx cid
      let s := s.setSplit (nsK e 1)
      { s with pwt := { s.pwt with upd := s.pwt.upd.map (fun u => { u with phase := .ns 1 1 }) } }
    | .matmul ctx cid _ => (match (s.findColl ctx cid).bind (fun i => s.coll i) with
      | some c => s.setSplit (fld c.desc 88 4)
      | none => s)

/-- STEEL_JOB_START (11 R307): the arrays, free, take the ready job first in R210 order. -/
def execSteelJobStart (s : State) : Host.Outcome State Fault Refusal :=
  match s.stl.job, s.firstJob with
  | none, some j => due (s.on && !s.relocks) s (s.startJob j)
  | _, _ => .next s

/-! ### Fences and restarts (11 R301, R314) -/

/-- After a tile leaves service: the running iteration or part restarts with the new T, or fails with no tile. -/
def State.restart (s : State) : State :=
  match s.stl.job with
  | none => s
  | some j =>
    if s.tiles = 0 then s.failJob j
    else
      let s := (s.bump (aStl 0 + 0x300C) 1).beginShares
      match j with
      | .ns ctx cid =>
        let s := s.setSplit (nsK (s.entryOf ctx cid) 1)
        { s with pwt := { s.pwt with upd := s.pwt.upd.map (fun u => match u.phase with
          | .ns k _ => { u with phase := .ns k 1 }
          | _ => u) } }
      | .matmul ctx cid _ => (match (s.findColl ctx cid).bind (fun i => s.coll i) with
        | some c => s.setSplit (fld c.desc 88 4)
        | none => s)

/-- Tile `n` is fenced (11 R301, 14 R387). -/
def State.fenceTile (s : State) (n : Nat) : State :=
  let was := s.tileIn n
  let s := if s.stl.fenced.contains n then s else { s with stl := { s.stl with fenced := s.stl.fenced ++ [n] } }
  (if was then s.restart else s).repoint

/-- Cluster `k` is fenced with its tiles. -/
def State.fenceCluster (s : State) (k : Nat) : State :=
  let was := (List.range 8).any (fun i => s.tileIn (8 * k + i))
  let s := s.setCluster k { s.cluster k with fenced := true }
  (if was then s.restart else s).repoint

/-- The code on a word of a tile's local SRAM finds an error: one it corrects is counted, class C; one it cannot fences the tile, class F,
and the restart follows (11 R289, R314; 14 sources 0x0501, 0x0502). -/
def State.sramError (s : State) (e : Nat × Nat × Bool) : State :=
  if !s.tileIn e.1 then s
  else if !e.2.2 then (s.bump (aStl e.1 + 0x14) 1).record 0 5 e.1 0x0501 e.2.1
  else (s.record 2 5 e.1 0x0502 e.2.1).fenceTile e.1

/-! ### Products (11 R297, R299, R300, R308) -/

/-- A product of the Newton–Schulz run is complete on every tile; the next starts, or pass 2 after the fifth
iteration. -/
def State.nsDone (s : State) (u : Update) (k j : Nat) : State :=
  let e := s.entryOf u.ctx u.cid
  let s := s.dealUnits (omR e) (if j = 3 then omC e else omR e) (nsK e j)
  let u := nsProduct e s.tiles k j u
  if j < 3 then
    ({ s with pwt := { s.pwt with upd := some { u with phase := .ns k (j + 1) } } }).setSplit (nsK e (j + 1))
  else if k < 5 then
    ({ s with pwt := { s.pwt with upd := some { u with phase := .ns (k + 1) 1 } } }).setSplit (nsK e 1)
  else
    let u := { u with phase := .pass2 }
    let s := { s with pwt := { s.pwt with upd := some u } }.endJob
    match (s.findColl u.ctx u.cid).bind (fun i => s.coll i) with
    | some c => (match s.tensor u.ctx (dTensor c.desc) with
      | some t => s.issue c.desc t u
      | none => s)
    | none => s

/-- Rows of part `i` of D := α · (op(A) × op(B)) + β · C (11 R308). -/
def State.matmulPart (s : State) (c : Coll) (i : Nat) : List (List Word) :=
  let d := c.desc
  let fa := fld d 74 1 % 16
  let fb := fld d 74 1 / 16
  let fl := fld d 76 1
  let (sa, ma) := s.operandMat c (fld d 66 2)
  let (sb, mb) := s.operandMat c (fld d 68 2)
  let m := fld d 80 4
  let per := partRows d m
  let rows := ((asOperand fa sa (!bit fl 0) ma).drop (i * per)).take per
  let cols := asOperand fb sb (bit fl 1) mb
  let ck := fld d 70 2
  let mc := if ck = 0 then [] else (s.operandMat c ck).2
  let beta := BitVec.ofNat 32 (fld d 96 4)
  product (bit fl 2) s.tiles (BitVec.ofNat 32 (fld d 92 4)) rows cols (fun r q =>
    if ck = 0 then none else some (beta, ((mc.getD (i * per + r) []).getD q .nan)))

/-- Non-finite elements of an output of rows of `n` elements: what fills a row's last block is no element (11 R306). -/
def nonfinIn (f n : Nat) (bs : List Byte) : Nat :=
  ((chunksOf (max 1 (arrayBytes f n)) bs).flatMap (fun r => (decodeArr f r).take n)).foldl (fun k x => k + b2n x.isNonfin) 0

/-- A part of a MATMUL is complete: its rows of D are written in OFMT, and after the last part the root decides. -/
def State.matmulDone (s : State) (slot : Nat) (c : Coll) (i : Nat) : State :=
  let d := c.desc
  let k := c.kern.getD Kernel.init
  let f := kOfmt d
  let per := partRows d (fld d 80 4)
  let s := s.dealUnits (min per (fld d 80 4 - i * per)) (fld d 84 4) (fld d 88 4)
  let (bs, s) := s.validBytes k i ((s.matmulPart c i).flatMap (fun r => encodeArr f none (r.map f32)))
  let bad := nonfinIn f (fld d 84 4) bs
  let k := { k with part := i + 1, rows := tset k.rows i bs, nonfin := k.nonfin + bad }
  let s := s.endJob.setColl slot { c with kern := some k }
  let s := s.writeRows (dCtx d) (fld d 72 2) (i * per) bs
  if max 1 (dParts d) ≤ i + 1 then s.kernelDecide slot 0 else s

/-- The product of the running job completes. -/
def State.productDone (s : State) : Host.Outcome State Fault Refusal :=
  match s.stl.job with
  | none => .next s
  | some (.ns _ _) => (match s.pwt.upd with
    | some u => (match u.phase with
      | .ns k j => due (s.on && !s.jobRelocks) s (s.nsDone u k j)
      | _ => .next s)
    | none => .next s)
  | some (.matmul ctx cid i) => (match s.findColl ctx cid with
    | some slot => (match s.coll slot with
      | some c => due (s.on && !s.jobRelocks) s (s.matmulDone slot c i)
      | none => .next s)
    | none => .next s)

/-- PRODUCT_DONE (11 R299, R308); `ecc` lists the words of local SRAM whose code finds an error during the product, by tile and place,
and whether it cannot be corrected: a tile fenced by one makes the iteration or part restart, and the product is not done (11 R301). -/
def execProductDone (ecc : List (BitVec 6 × BitVec 18 × Bool)) (s : State) : Host.Outcome State Fault Refusal :=
  let s1 := ecc.foldl (fun s e => s.sramError (e.1.toNat, e.2.1.toNat, e.2.2)) s
  if !s.on || s.stl.job.isNone then .next s
  else if s1.stl.fenced = s.stl.fenced then s1.productDone
  else .next s1

/-! ### Clocks (11 R292 to R294, 02 R44) -/

/-- CAP of STL_DVFS_CFG: 6 and 7 are taken as 5. -/
def State.cap (s : State) : Nat := min 5 (bits (s.cfgAt (aStl 0 + 0x3000)).toNat 2 0)

/-- The step a layer boundary decides (11 R293). -/
def stepAt (cfg cap temp held step : Nat) : Nat :=
  let st :=
    if bits cfg 31 24 ≤ temp && step < 5 then step + 1
    else if temp ≤ bits cfg 23 16 && bits cfg 7 3 * 1000000 ≤ held && cap < step then step - 1
    else step
  max st cap

/-- The temperature at which a source pulls TEMP_ALERT_N low (11 R294, 16 Table 16.8). -/
def State.alertAt (s : State) : TempSource → Nat
  | .core _ => 102
  | .cluster _ => bits (s.cfgAt (aStl 0 + 0x3000)).toNat 15 8
  | .ingot _ => 92

/-- The sources that hold TEMP_ALERT_N low, after a reading of one: it begins at its threshold, and ends 3 °C below it (16
R449). -/
def State.alertSources (s : State) (src : TempSource) (temp : Nat) : List TempSource :=
  let rest := s.pins.tempSrc.filter (· != src)
  let thr := s.alertAt src
  if thr ≤ temp || (s.pins.tempSrc.contains src && decide (thr < temp + 3)) then rest ++ [src] else rest

/-- A reading of a temperature source reaches TEMP_ALERT_N. -/
def State.tempRead (s : State) (src : TempSource) (temp : Nat) : State :=
  { s with pins := { s.pins with tempSrc := s.alertSources src temp } }

/-- Every cluster, fenced ones too, is held against a new threshold of STL_DVFS_CFG (11 R294). -/
def State.realert (s : State) : State :=
  (List.range 8).foldl (fun s k => s.tempRead (.cluster (BitVec.ofNat 3 k)) (s.cluster k).temp) s

/-- Is the last product of the running Steel job under way, so that a cluster may have finished its share of the job? -/
def State.lastProduct (s : State) : Bool :=
  match s.stl.job, s.pwt.upd.map (fun (u : Update) => u.phase) with
  | some (.matmul _ _ _), _ => true
  | some (.ns _ _), some (.ns 5 3) => true
  | _, _ => false

/-- LAYER_BOUNDARY (11 R293): due where the cluster has finished its share of one Steel job and not started the next, once for each job.
That it has is the command's word while the last product of the job runs, and certain once the job is over. -/
def execLayerBoundary (k : BitVec 3) (temp : Byte) (s : State) : Host.Outcome State Fault Refusal :=
  let n := k.toNat
  let c := s.cluster n
  let step := stepAt (s.cfgAt (aStl 0 + 0x3000)).toNat s.cap temp.toNat (s.clk - c.since) c.step
  let moved := step != c.step
  let s' := (s.setCluster n { c with temp := temp.toNat, step := step, since := if moved then s.clk else c.since,
                                     relocking := moved, share := .decided }).tempRead (.cluster k) temp.toNat
  due (s.on && s.clusterIn n && !c.relocking && (c.share == .finished || (c.share == .working && s.lastProduct))) s
    (if moved then s'.bump (aStl (8 * n) + 0x2008) 1 else s')

/-- CLUSTER_RELOCK (02 R44; 14 source 0x0503): the clock relocks within 2 µs of the change, or the cluster is fenced, class F. -/
def execClusterRelock (k : BitVec 3) (ok : Bool) (s : State) : Host.Outcome State Fault Refusal :=
  let n := k.toNat
  let c := s.cluster n
  let s' := s.setCluster n { c with relocking := false }
  due (s.on && c.relocking && s.clusterIn n && (ok || decide (c.since + 2000 ≤ s.clk))) s
    (if ok && decide (s.clk ≤ c.since + 2000) then s' else (s'.record 2 6 n 0x0503 c.step).fenceCluster n)

/-- TEMP_ALERT (11 R294; 16 Table 16.8): a reading of a temperature source. -/
def execTempAlert (src : TempSource) (temp : Byte) (s : State) : Host.Outcome State Fault Refusal :=
  let s' : State := match src with
    | .cluster k => s.setCluster k.toNat { s.cluster k.toNat with temp := temp.toNat }
    | .ingot k => s.setStack k.toNat { s.stack k.toNat with temp := temp.toNat }
    | .core _ => s
  due s.on s (s'.tempRead src temp.toNat)

/-- THERMAL_TRIP (14 R388; 16 Table 16.8): class X, source 0x0805. -/
def execThermalTrip (sensor : Byte) (s : State) : Host.Outcome State Fault Refusal :=
  due s.on s { (s.enterX 0x0805 sensor.toNat) with
               pins := { (s.enterX 0x0805 sensor.toNat).pins with tempSrc := [.core (BitVec.ofNat 6 sensor.toNat)] } }

/-! ### Kernel frames -/

def ksRank (f : Frame) : Nat := bits f.hdr.ts.toNat 29 16
def ksFmt (f : Frame) : Nat := bits f.hdr.ts.toNat 11 8
def ksPart (f : Frame) : Nat := bits f.hdr.ts.toNat 37 32

/-- A received piece joins those of its rank, once per OFFSET. -/
def Kernel.take (k : Kernel) (rank off : Nat) (bs : List Byte) (now : Nat) : Kernel :=
  let l := tget k.got rank []
  if k.abandoned.contains rank || l.any (fun e => e.1 == off) then k
  else { k with got := tset k.got rank (l ++ [(off, bs)]), start := some (k.start.getD now) }

/-- Bytes received of a rank without a gap from 0; `fuel` bounds the pieces. -/
def joinFrom : Nat → Nat → List (Nat × List Byte) → List Byte
  | 0, _, _ => []
  | n + 1, o, l =>
    match l.find? (fun e => e.1 == o && !e.2.isEmpty) with
    | some e => e.2 ++ joinFrom n (o + e.2.length) l
    | none => []

def Kernel.joined (k : Kernel) (rank : Nat) : List Byte :=
  let l := tget k.got rank []
  joinFrom l.length 0 l

/-- Has every member been served or abandoned? -/
def State.kernelAll (s : State) (c : Coll) (k : Kernel) : Bool :=
  (List.range (s.membersOf c.desc).length).all (fun r => (tfind k.rows r).isSome || k.abandoned.contains r)

/-- After a row or an abandonment: the root decides once nothing is awaited, LATE when a member was abandoned,
FENCED when it lost both its ports. -/
def State.kernelTry (s : State) (slot : Nat) : State :=
  match s.coll slot with
  | none => s
  | some c =>
    let k := c.kern.getD Kernel.init
    if memberIndexed c.desc && c.decided.isNone && s.kernelAll c k then
      let gone := k.abandoned.filter (fun r => !s.present ((s.membersOf c.desc).getD r 0))
      let conds := if gone.length < k.abandoned.length then addCond 0 stLate else 0
      s.kernelDecide slot (if gone.isEmpty then conds else addCond conds stFenced)
    else s

/-! ### GATHER_POOL (11 R311, R312) -/

/-- The 32-bit fields of a lookup image. -/
def lkNidx (img : List Byte) : Nat := fld img 0 4
def lkOff (img : List Byte) (j : Nat) : Nat := fld img (4 + 4 * j) 4
def lkIdx (bags : Nat) (img : List Byte) (i : Nat) : Nat := fld img (8 + 4 * bags + 4 * i) 4

/-- The operands of a kernel wait for no buffer of Solder any more. -/
def State.unwaitOps (s : State) (d : List Byte) : State :=
  [0, 1, 2].foldl (fun s pool => s.unwait pool (opTag pool (dCtx d) (dId d))) s

/-- Bytes of a lookup image. -/
def lkBytes (bags nidx : Nat) : Nat := 4 + 4 * (bags + 1) + 4 * nidx

/-- Is the image well formed: NIDX within MAX_IDX, offsets from 0, non-decreasing, up to NIDX? -/
def lkOk (bags maxIdx : Nat) (img : List Byte) : Bool :=
  decide (lkNidx img ≤ maxIdx) && lkOff img 0 == 0 && lkOff img bags == lkNidx img &&
  (List.range bags).all (fun j => decide (lkOff img j ≤ lkOff img (j + 1)))

/-- One bag: rows widened to FP32 and added in position order, divided by their count with MEAN; the canonical
NaN where an index is not below ROWS. -/
def bagSum (r : Region) (mean : Bool) (idx : List Nat) : List Word :=
  if idx.any (fun i => decide (r.rows ≤ i)) then List.replicate r.cols 0x7FC00000
  else
    let rows := idx.map (fun i => ((decodeArr r.fmt (r.row i)).take r.cols).map toF32)
    (List.range r.cols).map (fun q =>
      let sum := sumRun (rows.map (fun x => x.getD q 0))
      if mean && 0 < idx.length then fdiv sum (toF32 (.fin false idx.length 0)) else sum)

/-- The results of one member: values, lookups served, and whether R312 names the member. -/
def gatherMember (r : Region) (bags maxIdx : Nat) (mean : Bool) (img : List Byte) : List Word × Nat × Bool :=
  if !lkOk bags maxIdx img then (List.replicate (bags * r.cols) 0x7FC00000, 0, true)
  else
    let bag (j : Nat) : List Nat :=
      (List.range (lkOff img (j + 1) - lkOff img j)).map (fun i => lkIdx bags img (lkOff img j + i))
    let all := (List.range bags).flatMap bag
    ((List.range bags).flatMap (fun j => bagSum r mean (bag j)),
     (all.filter (fun i => decide (i < r.rows))).length, all.any (fun i => decide (r.rows ≤ i)))

/-- The rows of the table that a well-formed lookup image names. -/
def gatherRows (r : Region) (bags maxIdx : Nat) (img : List Byte) : List Nat :=
  if !lkOk bags maxIdx img then []
  else ((List.range (lkNidx img)).map (fun i => lkIdx bags img i)).filter (fun i => decide (i < r.rows))

/-- A member's lookup image is whole: its results are gathered and sent to it. Its part fails where a row that it reads is poisoned or
withdrawn (11 R305, 12 R328). -/
def State.gatherRank (s : State) (slot : Nat) (c : Coll) (k : Kernel) (rank : Nat) (img : List Byte) : State :=
  let d := c.desc
  match s.region (dCtx d) (fld d 66 2) with
  | none => s
  | some r =>
    let (vals, n, named) := gatherMember r (fld d 72 4) (fld d 76 4) (bit (fld d 69 1) 0) img
    let f := kOfmt d
    let part := rank / partRows d (s.membersOf d).length
    let rb := arrayBytes r.fmt r.cols
    let lost := (gatherRows r (fld d 72 4) (fld d 76 4) img).any (fun i => s.regionBad (dCtx d) (fld d 66 2) (i * rb) ((i + 1) * rb - 1))
    let k := if lost then { k with partFail := k.partFail ||| partBits d part part } else k
    let (bs, s) := s.validBytes k part (encodeArr f none (vals.map f32))
    let bad := nonfinIn f vals.length bs
    let k := { k with rows := tset k.rows rank bs, served := k.served + n, nonfin := k.nonfin + bad,
                      lowest := if named then min k.lowest rank else k.lowest }
    let ret : Ret := c.ret.getD { image := [], homes := [], sent := false, next := 0 }
    let s := s.setColl slot { c with kern := some k, ret := some ret }
    let ch := returnChunk f
    let s := ((chunksOf ch bs).mapIdx (fun g b => (g, b))).foldl (fun s e =>
      s.memberResult slot rank part (e.1 * ch) e.2) s
    s.kernelTry slot

/-- The results of one member are staged in pool 4 until every home has them (06 Table 6.7); none while the pool has no buffers for
them. -/
def State.gatherStage (s : State) (d : List Byte) : Option State :=
  let tag := waitTag (dCtx d) (dId d) 2
  if s.poolFirst 4 tag then
    (s.drawBufs (.image (dCtx d) (dId d)) (cdiv (s.returnBytes d) (2 ^ 20))).map (fun s => s.unwait 4 tag)
  else none

/-- LOOKUP_RECEIVE (11 R311). Where its operands wait for a buffer of Solder, or its results for one of Ingot, the frame stays where it
was (06 R164). -/
def execLookupReceive (_p : BitVec 6) (f : Frame) (s : State) : Host.Outcome State Fault Refusal :=
  if !s.on || s.steelNotYet f then .next s
  else
    let back := s
    let (s, id) := s.takeQueued f
    let s := s.dropFrom id 0
    match s.findColl f.hdr.ctx.toNat f.hdr.collId.toNat with
    | none => .next s
    | some slot =>
      match s.coll slot with
      | none => .next s
      | some c =>
        let d := c.desc
        let k := c.kern.getD Kernel.init
        let rank := ksRank f
        if dKind d != kGather || !s.iAmRoot d || c.decided.isSome || (tfind k.rows rank).isSome ||
            (s.membersOf d)[rank]? != some f.hdr.src.toNat then .next s
        else
          match s.operandWait d k (k.take rank f.hdr.offset.toNat f.payload s.now) with
          | some (pool, r) => .next (back.waitPool pool r)
          | none =>
          let k := k.take rank f.hdr.offset.toNat f.payload s.now
          let img := k.joined rank
          let s := (s.unwaitOps d).setColl slot { c with kern := some k }
          let whole := 4 ≤ img.length &&
            (decide (fld d 76 4 < lkNidx img) || decide (lkBytes (fld d 72 4) (lkNidx img) ≤ img.length))
          if !whole then .next s
          else match s.gatherStage d with
            | none => .next (back.waitPool 4 { owner := 74, n := cdiv (s.returnBytes d) (2 ^ 20), tag := waitTag (dCtx d) (dId d) 2 })
            | some s => .next (s.gatherRank slot { c with kern := some k } k rank img)

/-! ### REQUANT (11 R310) -/

/-- The given SCALE of a REQUANT descriptor. -/
def givenScale (d : List Byte) : Option Nat := if bit (fld d 71 1) 0 then some (fld d 72 1) else none

/-- SOURCE_RECEIVE (11 R310): the home converts what it receives and sends it on to the root. The elements that
02 R62 clamps here are counted where this Fixus is the root. -/
def execSourceReceive (_p : BitVec 6) (f : Frame) (s : State) : Host.Outcome State Fault Refusal :=
  if !s.on || s.steelNotYet f then .next s
  else
    let (s, id) := s.takeQueued f
    let s := s.dropFrom id 0
    match s.findColl f.hdr.ctx.toNat f.hdr.collId.toNat with
    | none => .next s
    | some slot =>
      match s.coll slot with
      | none => .next s
      | some c =>
        let d := c.desc
        let sf := dCfmt d
        let off := f.hdr.offset.toNat
        let e0 := if isMx sf then off / blockBytes sf * 32 else off / elemBytes sf
        match (s.membersOf d).findIdx? (fun a => a == f.hdr.src.toNat) with
        | none => .next s
        | some rank =>
          if dKind d != kRequant || fld d 66 2 != 0 || dElements d ≤ e0 then .next s
          else
            let vs := (decodeArr sf f.payload).take (dElements d - e0)
            let o := kOfmt d
            let bs := encodeArr o (givenScale d) vs
            let k := c.kern.getD Kernel.init
            let clamped := if s.iAmRoot d then countClamped o (givenScale d) vs else 0
            let s := s.setColl slot { c with kern := some { k with served := k.served + clamped } }
            let part := rank / partRows d (s.membersOf d).length
            let off := arrayBytes o e0
            .next (s.sendFrame (s.kernelFrom off) (s.kernelFrame c 4 o rank part (s.rootOf d) off bs))

/-- Elements of an image that stand at the largest magnitude of their format, which are those that may have been
clamped. -/
def atTop (o : Nat) (bs : List Byte) : Nat :=
  if isMx o then
    (chunksOf (blockBytes o) bs).foldl (fun n b =>
      n + ((ofBlockImage o b).2.filter (fun q => q % 2 ^ (mxW o - 1) == 2 ^ (mxW o - 1) - 1)).length) 0
  else 0

/-- CONVERTED_RECEIVE (11 R310): the root writes the row of OUT_KEY. How many elements another home clamped no
field of the frame says: a free number no greater than the elements that stand at the largest magnitude. Where the operands
wait for a buffer of Solder the frame stays where it was (06 R164). -/
def execConvertedReceive (_p : BitVec 6) (f : Frame) (s : State) : Host.Outcome State Fault Refusal :=
  if !s.on || s.steelNotYet f then .next s
  else
    let back := s
    let (s, id) := s.takeQueued f
    let s := s.dropFrom id 0
    match s.findColl f.hdr.ctx.toNat f.hdr.collId.toNat with
    | none => .next s
    | some slot =>
      match s.coll slot with
      | none => .next s
      | some c =>
        let d := c.desc
        let k := c.kern.getD Kernel.init
        let rank := ksRank f
        let o := kOfmt d
        if dKind d != kRequant || !s.iAmRoot d || c.decided.isSome || (tfind k.rows rank).isSome ||
            k.abandoned.contains rank || !decide (rank < (s.membersOf d).length) then .next s
        else
          match s.operandWait d k (k.take rank f.hdr.offset.toNat f.payload s.now) with
          | some (pool, r) => .next (back.waitPool pool r)
          | none =>
          let s := s.unwaitOps d
          let fresh := !(tget k.got rank []).any (fun e => e.1 == f.hdr.offset.toNat)
          let (n, s) := if fresh && f.hdr.src.toNat != s.addr then s.free else (0, s)
          let e0 := if isMx o then f.hdr.offset.toNat / blockBytes o * 32 else f.hdr.offset.toNat / elemBytes o
          let vs := (decodeArr o f.payload).take (dElements d - e0)
          let bad := (vs.filter Fv.isNonfin).length
          let k := k.take rank f.hdr.offset.toNat f.payload s.now
          let k := if fresh then
              { k with served := k.served + n % (atTop o f.payload + 1), nonfin := k.nonfin + bad,
                       lowest := if 0 < bad then min k.lowest rank else k.lowest }
            else k
          let (row, s) := s.validBytes k (rank / partRows d (s.membersOf d).length) (k.joined rank)
          let k := if arrayBytes o (dElements d) ≤ row.length then { k with rows := tset k.rows rank row } else k
          let s := s.setColl slot { c with kern := some k }
          let s := if (tfind k.rows rank).isSome then s.writeRows (dCtx d) (fld d 68 2) rank row else s
          .next (s.kernelTry slot)

/-- A REQUANT of an Ingot array on this root that is still to be converted, first in R210 order. -/
def State.firstConversion (s : State) : Option (Nat × Coll) :=
  (s.slots.filter (fun e => dKind e.2.desc == kRequant && fld e.2.desc 66 2 != 0 && s.iAmRoot e.2.desc &&
    e.2.launched && e.2.decided.isNone)).foldl (fun best e => match best with
      | none => some e
      | some b => if r210 b.2.desc e.2.desc then some b else some e) none

/-- The whole source array converted into OUT_KEY. -/
def State.convert (s : State) (slot : Nat) (c : Coll) : State :=
  let d := c.desc
  let o := kOfmt d
  let m := (s.operandMat c (fld d 66 2)).2
  let k := c.kern.getD Kernel.init
  let per := partRows d m.length
  let (bs, s) := (chunksOf per (m.map (encodeArr o (givenScale d)))).foldl (fun (p : (List Byte × Nat) × State) rows =>
    let (bs, s) := p.2.validBytes k p.1.2 rows.flatten
    ((p.1.1 ++ bs, p.1.2 + 1), s)) (([], 0), s)
  let bs := bs.1
  let k := { k with rows := [(0, bs)], nonfin := nonfinIn o ((m.headD []).length) bs,
                    served := m.foldl (fun n r => n + countClamped o (givenScale d) r) 0 }
  ((s.setColl slot { c with kern := some k }).writeRows (dCtx d) (fld d 68 2) 0 bs).kernelDecide slot 0

/-- CONVERSION_DONE (11 R310). -/
def execConversionDone (s : State) : Host.Outcome State Fault Refusal :=
  match s.firstConversion with
  | some (slot, c) => due (s.on && !s.relocks && (s.pointOn 72 || s.pointOn 73)) s (s.convert slot c)
  | none => .next s

/-! ### Results at a home (11 R309) -/

/-- RESULT_RECEIVE (11 R309, R311): a RESULT frame reaches a home. One that came along a chain goes on from here,
the Fixus at the root's position. -/
def execResultReceive (p : BitVec 6) (f : Frame) (s : State) : Host.Outcome State Fault Refusal :=
  if !s.on || s.steelNotYet f then .next s
  else
    let (s, id) := s.takeQueued f
    let s := s.dropFrom id 0
    match s.findColl f.hdr.ctx.toNat f.hdr.collId.toNat with
    | none => .next s
    | some slot =>
      match s.coll slot with
      | none => .next s
      | some c =>
        let root := s.rootOf c.desc
        let off := f.hdr.offset.toNat
        if dKind c.desc != kGather && decide (48 ≤ p.toNat) && addrSw root == s.pins.sw then
          .next (s.spreadResult slot (ksPart f) off f.payload root)
        else .next (s.homeResult slot (ksRank f) (ksPart f) off f.payload)

/-! ### Lateness of kernels (11 Table 11.9), with that of Bronze (09 R251) -/

/-- A kernel's root whose budget has run out with members missing, first in the order of 08 R210. -/
def State.kernelExpired (s : State) : Option (Nat × Coll) :=
  (inOrder (fun e => e.2.desc) s.slots).find? (fun e =>
    let k := e.2.kern.getD Kernel.init
    let b := s.budget e.2.desc
    let t := match k.start with
      | some t => min t (e.2.launch + b)
      | none => e.2.launch + b
    memberIndexed e.2.desc && s.iAmRoot e.2.desc && e.2.launched && e.2.decided.isNone &&
    !s.kernelAll e.2 k && decide (t + b ≤ s.now))

/-- The members missing are abandoned: class D, and the root decides LATE. -/
def State.abandonMembers (s : State) (slot : Nat) (c : Coll) : State :=
  let k := c.kern.getD Kernel.init
  let ms := (List.range (s.membersOf c.desc).length).filter (fun r => (tfind k.rows r).isNone)
  ((s.setColl slot { c with kern := some { k with abandoned := ms } }).record 1 1 (dCtx c.desc) 0x0404
    (dId c.desc)).kernelTry slot

/-- LATE_BUDGET_EXPIRY (09 R251): the first budget that has run out with an input missing. -/
def execLateBudgetExpiry (s : State) : Host.Outcome State Fault Refusal :=
  match s.expired with
  | some (slot, ni, ks) => due s.on s (s.abandon slot ni ks true)
  | none => (match s.kernelExpired with
    | some (slot, c) => due s.on s (s.abandonMembers slot c)
    | none => .next s)

end Sys2Proof.Machine
end

