-- ==== Sys2Proof/Machine/Link.lean ====
section
/-! DEFINITION. Lanes and ports (spec 05): training, sideband, figure of merit, sparing and width changes, the
link layer's receive side, retry, retrain, credits, violations, LEAVE and link loss; what follows when a port
or a neighbour goes (06 R154, R156; 08 R234; 14 R391, R396). -/

namespace Sys2Proof.Machine

/-! ### Configuration of a port and its lanes -/

/-- Lanes that PRT_CFG.WIDTH configures: 1, 2 or 4 (05 R121). -/
def State.cfgWidth (s : State) (p : Nat) : Nat :=
  let w := bits (s.cfgAt (aPrt p)).toNat 1 0
  if w = 0 then 1 else if w = 1 then 2 else 4

def State.enabled (s : State) (p : Nat) : Bool := bit (s.cfgAt (aPrt p)).toNat 2

/-- PRT_VC_LIMIT of a channel. -/
def State.vcLimit (s : State) (p v : Nat) : Nat := (s.cfgAt (aPrt p + 0x40 + 4 * v)).toNat % 4096

/-- Is a port a direct or seam port: one that a strap conflict keeps down (01 R25) and that trains in hall mode
only (01 R31)? -/
def State.seamOrHall (s : State) (p : Nat) : Bool := decide (32 ≤ p) && !s.hostPort p && !s.meshGroup (p / 4)

/-- May the lanes of a port train? Direct and seam ports do in hall mode only (01 R31). -/
def State.mayTrain (s : State) (p : Nat) : Bool :=
  s.on && s.sys.training && !s.sys.outOfService && s.enabled p && s.portWired p && (s.port p).st != .fenced &&
  !((s.sys.hostbrConflict || !s.sys.configured || !s.irc.hall) && s.seamOrHall p)

/-- Thresholds of LNK_THRESH (05 R118). -/
def State.trainAt (s : State) (l : Nat) : Nat := bits (s.cfgAt (aLnk l + 0x18)).toNat 29 20
def State.warnAt (s : State) (l : Nat) : Nat := bits (s.cfgAt (aLnk l + 0x18)).toNat 19 10
def State.failAt (s : State) (l : Nat) : Nat := bits (s.cfgAt (aLnk l + 0x18)).toNat 9 0

/-- The spare circuit of a lane's die (05 R137). -/
def spareOf (l : Nat) : Nat := 256 + l / 32

/-- The circuit on a lane's balls: its own, or the die's spare that serves it or trains for it (05 R137). -/
def State.circuit (s : State) (l : Nat) : Nat :=
  if l < 256 && ((s.lane l).spared || (s.paux (l / 4)).sparing == some (l % 4)) then spareOf l else l

/-- The lane circuits that stamp a port's time messages as they leave and as they arrive: those of the lowest lane in service of
each direction (04 R80, R82). -/
def State.stampLane (s : State) (p : Nat) : Nat := s.circuit (4 * p + (maskLanes (s.port p).lanes).headD 0)
def State.stampRxLane (s : State) (p : Nat) : Nat := s.circuit (4 * p + (maskLanes (s.port p).rxLanes).headD 0)

/-- A circuit's calibrated transmit and receive delays, in ps (05 Table 5.13). -/
def txDelay (l : Nat) : Nat := (Config.laneDelay l).toNat / 65536
def rxDelay (l : Nat) : Nat := (Config.laneDelay l).toNat % 65536

/-! ### Re-routing (06 R154) -/

/-- The outputs of a queued frame chosen again without port `p`, whether the copy for it is lost, and the mesh group of a copy lost as
MCAST_LOST: a multicast takes another live port of the group, and is never sent off its row or column (06 R154, R159). -/
def State.rechoose (s : State) (p : Nat) (q : QEnt) : State × QEnt × Bool × List Nat :=
  if !q.mc then
    match s.routed q.frame with
    | (s, some o) => (s, { q with outs := [o], passed := [] }, false, [])
    | (s, none) => (s, { q with outs := [], passed := [], noRoute := some s.clk }, false, [])
  else
    let rest := q.outs.filter (· != p)
    let set := if p < 32 then accPorts (p % 16) else (groupPorts (p / 4)).filter (fun o => (s.portPeer o).isSome)
    match s.kth (set.filter (· != p)) (frameHash q.frame) with
    | some o => (s, { q with outs := rest ++ [o], passed := tdel q.passed p }, false, [])
    | none => (s, { q with outs := rest }, true, if s.meshGroup (p / 4) then [p / 4] else [])

/-- A frame queued for port `p`, or waiting for its place, chosen again (06 R154): a copy that no port can take gives up its cells,
and with the last copy the frame goes, with what is still to come of it. -/
def State.rerouteEnt (s : State) (p : Nat) (q : QEnt) : State :=
  let (s, q', lost, mesh) := s.rechoose p q
  let gone := q'.outs.isEmpty && q'.noRoute.isNone
  let upd (l : List QEnt) : List QEnt := if gone then l.filter (fun x => x != q) else l.map (fun x => if x = q then q' else x)
  let waits := if gone then tset s.sol.waits 0 ((tget s.sol.waits 0 []).filter (fun r => r.tag != q.id)) else s.sol.waits
  let s := { s with sol := { s.sol with queues := upd s.sol.queues, descWait := upd s.sol.descWait, waits := waits } }
  let s := if lost then s.dropFrom q.id 0 else s
  (if gone then s.discardRest q.id else s).mcastLost q.inp q.frame mesh

/-- Frames queued, staged or waiting for a port that goes: those with no flit sent are chosen again in their order, the
others are lost with the link (06 R154). -/
def State.reroute (s : State) (p : Nat) : State :=
  let q0 := s.port p
  let s := s.setPort p { q0 with egress := [] }
  let s := { s with sol := { s.sol with vcOwner := s.sol.vcOwner.filter (fun e => e.1 / 16 != p) } }
  -- staged frames with no flit sent take their place again, those begun give up their remaining cells
  let s := q0.egress.foldl (fun s e =>
    if e.tail.isSome then s
    else if 0 < e.sent then
      let cut (q : QEnt) : Option QEnt :=
        let outs := q.outs.filter (· != p)
        if q.id != e.id then some q else if outs.isEmpty then none else some { q with outs := outs }
      let s := { s with sol := { s.sol with queues := s.sol.queues.filterMap cut } }
      let s := s.dropFrom e.id e.sent
      if s.sol.queues.any (fun q => q.id == e.id) then s else s.discardRest e.id
    else if s.sol.queues.any (fun q => q.id == e.id) then
      let back (q : QEnt) : QEnt :=
        { q with outs := if q.outs.contains p then q.outs else q.outs ++ [p], passed := tdel q.passed p }
      { s with sol := { s.sol with queues := s.sol.queues.map (fun q => if q.id == e.id then back q else q) } }
    else
      let q : QEnt := { inp := e.inp, outs := [p], mc := e.frame.hdr.mcast != 0, frame := e.frame, id := e.id,
                        cells := frameFlits e.frame, passed := [], since := e.since, noRoute := none, sent := false,
                        noCredit := none, atUnit := none }
      { s with sol := { s.sol with queues := insertSince q s.sol.queues } }) s
  ((s.sol.queues ++ s.sol.descWait).filter (fun q => q.outs.contains p)).foldl (fun s q => s.rerouteEnt p q) s

/-! ### Abort notices and lost neighbours (14 R391, R396; 08 R234) -/

/-- An ABORT_NOTICE event noted: the smallest count among notices of one event (14 R391). True when it is new or
carries a smaller count, so that it is forwarded. -/
def noteAbort (l : List (Nat × Nat × Bool × Bool)) (d lost : Nat) (hold : Bool) :
    List (Nat × Nat × Bool × Bool) × Bool :=
  match l.find? (fun e => e.2.1 == lost && decide (d ≤ e.1 + 20000) && decide (e.1 ≤ d + 20000)) with
  | none => (l ++ [(d, lost, hold, false)], true)
  | some e =>
    if d < e.1 && !e.2.2.2 then (l.map (fun x => if x = e then (d, lost, hold, false) else x), true) else (l, false)

/-- A lost Fixus: absent with its accelerators (14 R398), and its mirror acts for it (10 R283). -/
def State.markLost (s : State) (a : Nat) : State :=
  if a = s.addr || s.flt.lost.contains a || !s.inBlock a then s
  else
    ({ s with flt := { s.flt with lost := s.flt.lost ++ [a],
                                  acts := s.flt.acts.filter (fun (e : Nat × Option Nat) => e.1 != a) ++ [(a, none)] } }).takeover a

/-- A neighbour Fixus has left service (14 R396): source 0x0117 and an ABORT_NOTICE for each context open on both,
whose abort count marks it lost; with no context open it is marked at once. A Fixus outside the job block is only noted as gone: it may
have been the time master (04 R78). -/
def State.neighbourLeft (s0 : State) (a : Nat) : State :=
  let s : State := { s0 with irc := { s0.irc with gone := a :: s0.irc.gone.filter (· != a) } }
  if s.flt.lost.contains a || !s.inBlock a then s
  else if s.ctxs.all (fun e => e.2.st == .free) then s.markLost a
  else
    s.ctxs.foldl (fun s e =>
      let c := s.ctx e.1
      if c.st == .free then s
      else
        let (l, new_) := noteAbort c.aborts s.now a c.twin
        if !new_ then s
        else
          let s := s.record 1 1 e.1 0x0117 a
          let s := s.setCtx e.1 { c with aborts := l }
          s.flood none (.abortNotice { ctx := BitVec.ofNat 8 e.1, gen := BitVec.ofNat 16 c.gen,
                                       source := BitVec.ofNat 15 s.addr, d := BitVec.ofNat 64 s.now,
                                       lost := BitVec.ofNat 15 a, flags := BitVec.ofNat 2 (b2n c.twin) })) s

/-- A member accelerator has lost both ports (08 R234, 14 source 0x0116): class D in each open context, and its
inputs are given up with FENCED. -/
def State.accLost (s : State) (a : Nat) : State :=
  let addr := s.addr - s.addr / 0x4000 * 0x4000 + a
  let loading := s.sch.loading.map (fun (l : Load) => { l with wait := l.wait.filter (fun x => x / 2 != a) })
  let s : State := { s with sch := { s.sch with loading := loading } }
  let s := s.finishLoads
  let s := s.ctxs.foldl (fun s e => if e.2.st == .opened then s.record 1 1 e.1 0x0116 addr else s) s
  (inOrder (fun (e : Nat × Coll) => e.2.desc) s.slots).foldl (fun s e =>
    match (s.membersOf e.2.desc).findIdx? (fun m => m == addr), e.2.nodes.findIdx? (fun n => n.stage == .loc) with
    | some r, some ni => s.abandon e.1 ni [.rank r] false
    | some r, none =>
      (match s.coll e.1 with
        | some c =>
          let k := c.kern.getD Kernel.init
          if memberIndexed c.desc && s.iAmRoot c.desc && (tfind k.rows r).isNone && !k.abandoned.contains r then
            (s.setColl e.1 { c with kern := some { k with abandoned := k.abandoned ++ [r] } }).kernelTry e.1
          else if s.iAmRoot c.desc && c.decided.isNone && (dKind c.desc == kFetch || isKernel (dKind c.desc)) then
            let r := c.root.getD Root.init
            s.setColl e.1 { c with root := some { r with flags := r.flags ||| flFenced } }
          else s
        | none => s)
    | _, _ => s) s

/-! ### The time parent (04 R77) -/

/-- Neighbours heard within the last 2 s. -/
def State.peersNow (s : State) : List (Nat × Peer) := s.irc.peers.filter (fun e => decide (s.clk < e.2.heard + 2000000000))

/-- The neighbour of smallest HOPS, ties to the lower address. -/
def State.bestPeer (s : State) : Option Peer :=
  ((s.peersNow.map Prod.snd).filter (fun q => decide (q.hops < 0xFF))).foldl (fun best q => match best with
    | none => some q
    | some b => if q.hops < b.hops || (q.hops == b.hops && q.addr < b.addr) then some q else some b) none

/-- Parent and HOPS taken from what the neighbours report (04 R77); a master keeps its role. -/
def State.reparent (s : State) : State :=
  if s.irc.master then s
  else match s.bestPeer with
    | some q => { s with irc := { s.irc with parent := q.addr, hops := min 0xFF (q.hops + 1), masterAddr := q.candidate } }
    | none =>
      { s with irc := { s.irc with parent := 0, hops := 0xFF,
                                   noMasterAt := if s.irc.hops = 0xFF then s.irc.noMasterAt else s.clk } }

/-! ### A port goes down, is fenced or held (05 R135, R142; 06 R154, R156; 07 R190, R191) -/

/-- A spare that still trains for a port is free again (05 R137). -/
def State.releaseSpare (s : State) (p : Nat) : State :=
  match (s.paux p).sparing with
  | some i =>
    let k := 256 + (4 * p + i) / 32
    s.setLane k { s.lane k with spared := false, phase := 0 }
  | none => s

/-- A port stops carrying flits: LEAVE with the reason given, where its lanes run; partial receptions end with a bad tail, the
unacknowledged flits' cells are freed, its queued frames are chosen again, its lanes return to phase 0. A frame that has come whole
still goes through ingress (06 R148). -/
def State.portDown (s : State) (p : Nat) (st : PortState) (leave : Option Nat) : State :=
  let s := match leave with
    | some r => s.sendLeave p r
    | none => s
  let s := s.setPort p { s.port p with st := st }
  let s := (s.paux p).asm.foldl (fun s a =>
    if a.eof then s else if a.taken && !a.dropped then s.badFrame a.id synthTail else s.freeCells a.id) s
  let s := ((s.dropUnacked p).reroute p).releaseSpare p
  let s := s.idlePort p st
  let a := s.paux p
  let s := s.setPaux p { PortAux.init with
    asm := a.asm.filter (fun m => m.eof && !m.taken && !m.dropped), retrains := a.retrains, viols := a.viols, violSince := a.violSince, violAt := a.violAt, violHead := a.violHead,
    violLog := a.violLog, violLast := a.violLast }
  State.reparent { s with
           sch := { s.sch with wfqV := tdel s.sch.wfqV p,
                               wfqF := s.sch.wfqF.filter (fun e => e.1 / 4 != p),
                               slot := tdel s.sch.slot p },
           irc := { s.irc with peers := tdel s.irc.peers p, reqs := tdel s.irc.reqs p } }

/-- Is any port to a Fixus up? On an axis of two cells both faces lead to one neighbour (01 R30). -/
def State.linkedTo (s : State) (n : Nat) : Bool :=
  (List.range 64).any (fun o => s.portPeer o == some n && ((s.port o).st == .active || (s.port o).st == .retrain))

/-- A port goes, and with the last port of an accelerator or a neighbour that accelerator or neighbour (08 R234, 14 R396). -/
def State.portOff (s : State) (p : Nat) (st : PortState) (leave : Option Nat) : State :=
  let up := (s.port p).st == .active || (s.port p).st == .retrain
  let s := s.portDown p st leave
  if !up then s
  else if p < 32 then (if s.accPresent (p % 16) then s else s.accLost (p % 16))
  else
    match s.portPeer p with
    | none => s
    | some n => if s.linkedTo n then s else s.neighbourLeft n

/-- A Fixus leaves service (14 R389): LEAVE with the reason on every port, which stay in electrical idle, and their cells return
(14 R410). -/
def State.leaveService (s : State) (reason : Nat) : State :=
  let s := (List.range 64).foldl (fun s p => match (s.port p).st with
    | .active => s.portDown p .down (some reason)
    | .retrain => s.portDown p .down (some reason)
    | .training => s.portDown p .down (some reason)
    | _ => s) s
  let s := s.lanesIdle
  { s with sys := { s.sys with outOfService := true } }

/-- A port is fenced as class F with LEAVE reason 1 (05 R133, R142). -/
def State.fencePort (s : State) (p src info : Nat) : State :=
  if (s.port p).st == .fenced then s else (s.record 2 3 p src info).portOff p .fenced (some 1)

/-- LEAVE (05 R135; 14 R396), on a port whose lanes carry flits: in service, in a retrain or in phase 7. -/
def execLeave (p : BitVec 6) (reason : Byte) (_c : Count) (s : State) : Host.Outcome State Fault Refusal :=
  let n := p.toNat
  let st := (s.port n).st
  let s1 := (s.record 0 3 n 0x0115 reason.toNat).portOff n .down none
  let s2 := match s.portPeer n with
    | some a => if reason = 0 || reason = 2 then s1.neighbourLeft a else s1
    | none => s1
  due (s.on && (st == .active || st == .retrain || (st == .training && !(s.lanes7 n).isEmpty))) s s2

/-- LINK_LOST (05 R135): no good flit for 2,000 ns on an ACTIVE port. -/
def execLinkLost (p : BitVec 6) (s : State) : Host.Outcome State Fault Refusal :=
  let n := p.toNat
  due (s.on && (s.port n).st == .active && decide ((s.paux n).lastGood + 2000 ≤ s.clk)) s
    ((s.record 0 3 n 0x0115 0xFF).portOff n .down none)

/-! ### Acknowledgements and credits (05 R128 to R130) -/

/-- Is sequence number `q` one of the 4,096 before `a`? -/
def seqBefore (q a : BitVec 13) : Bool := decide (1 ≤ (a - q).toNat) && decide ((a - q).toNat ≤ 4096)

/-- ACK_SEQ of a good flit: the flits before it are released, and their cells' copies are done. -/
def State.takeAck (s : State) (p : Nat) (a : BitVec 13) : State :=
  let q := s.port p
  let gone := q.unacked.filter (fun t => seqBefore t.seq a)
  if gone.isEmpty then s
  else
    let s := s.setPort p { q with unacked := q.unacked.filter (fun t => !seqBefore t.seq a),
                                  replay := q.replay.filter (fun t => !seqBefore t.seq a), ackSeen := a,
                                  ackAt := s.clk, replays := 0 }
    gone.foldl (fun s t => match t.pay with
      | .data _ id k tail => if tail.isSome then s else s.dropCopy (64 * id + k)
      | _ => s) s

/-- CR_COUNT of a good flit: the credits returned since the last one seen for that channel, modulo 4,096. -/
def State.takeCredit (s : State) (p v c : Nat) : State :=
  let q := s.port p
  s.setPort p { q with avail := tset q.avail v (tget q.avail v 0 + (c + 4096 - tget q.crSeen v 0) % 4096),
                       crSeen := tset q.crSeen v c }

/-! ### Violations (05 R140 to R142) -/

/-- A violation is logged (05 Table 5.16); codes 1 to 4 are counted and reported at most once in 100 ns, and the
64th within 1,000,000 ns fences the port. -/
def State.violation (s : State) (p code vc typ seq : Nat) : State :=
  let a := s.paux p
  let e := BitVec.ofNat 64 (s.now % 2 ^ 32 * 2 ^ 32 + code * 2 ^ 28 + vc * 2 ^ 24 + typ * 2 ^ 20 + seq * 2 ^ 7)
  let log := tset a.violLog a.violHead e
  let head := (a.violHead + 1) % 32
  if 4 < code then s.setPaux p { a with violLog := log, violHead := head }
  else
    let s := s.bump (aPrt p + 0x90) 1
    let n := a.violSince + 1
    let open_ := match a.violAt with
      | some t => decide (t + 100 ≤ s.clk)
      | none => true
    let viols := a.viols.filter (fun t => decide (s.clk < t + 1000000)) ++ [s.clk]
    let s := s.setPaux p { a with violLog := log, violHead := head, viols := viols,
                                  violSince := if open_ then 0 else n, violAt := if open_ then some s.clk else a.violAt,
                                  violLast := (code, BitVec.ofNat 13 seq, BitVec.ofNat 4 vc, s.now) }
    let s := if open_ then
        s.sendLink p (.protocolViolation code (min 255 n) (BitVec.ofNat 13 seq) (BitVec.ofNat 4 vc) s.now)
      else s
    if 64 ≤ viols.length then s.fencePort p 0x0113 e.toNat else s

/-- The violations counted since the last message are reported once 100 ns have passed since it (05 R141), naming the last of
them as it was detected. -/
def State.reportViols (s : State) (p : Nat) : State :=
  let a := s.paux p
  let open_ := match a.violAt with
    | some t => decide (t + 100 ≤ s.clk)
    | none => true
  if a.violSince = 0 || !open_ then s
  else
    let (code, seq, vc, count) := a.violLast
    (s.setPaux p { a with violSince := 0, violAt := some s.clk }).sendLink p
      (.protocolViolation code (min 255 a.violSince) seq vc count)

/-- PROTOCOL_VIOLATION (05 R141): counted. -/
def execProtocolViolation (p : BitVec 6) (_code _n : Byte) (_seq : BitVec 13) (_vc : Byte) (_c : Count) (s : State) :
    Host.Outcome State Fault Refusal :=
  due (s.on && ((s.port p.toNat).st == .active || (s.port p.toNat).st == .retrain)) s (s.bump (aPrt p.toNat + 0x94) 1)

/-! ### Receiving flits (05 R131; 06 R148, R156) -/

/-- Is a flit MALFORMED (05 Table 5.11)? -/
def flitMalformed (f : Flit) : Bool :=
  let t := f.typ.toNat
  decide (4 ≤ t) || f.rsv != 0 ||
  (t == 3 && !(decide (1 ≤ (f.payload.getD 0 0).toNat) && decide ((f.payload.getD 0 0).toNat ≤ 6))) ||
  (if t = 1 && f.eof then f.len = 0 || 240 < f.len.toNat else if t = 1 || t = 2 then f.len != 240 else f.len != 0) ||
  (t != 1 && (f.sof || f.eof)) || (f.bad && !(t == 1 && f.eof)) || (t == 2 && f.vc != 1)

/-- Does a frame whose EOF flit was flit number `n`, with LEN `len`, not hold FRAME_LEN bytes (06 R145)? -/
def lenWrong (flen n len : Nat) : Bool := flen != 240 * (n - 1) + len

/-- The receiver asks for E again (05 R131). -/
def State.sendNak (s : State) (p : Nat) : State :=
  let q := s.port p
  ((s.setPort p { q with nakWait := true, nakAt := s.clk }).sendLink p (.nak q.e)).bump (aPrt p + 0x84) 1

/-- A flit of a frame takes a cell (06 R148), or is discarded at once where its frame is dropped. A DATA flit without SOF on
a channel with no frame open starts a frame, whose header ingress then judges: DESIGN CHOICE (assumption log 118), the spec
does not say what becomes of it. A first flit in the middle of a frame of its channel ends that frame as bad and starts its own:
DESIGN CHOICE (assumption log 150), the spec does not say that either. -/
def State.takeData (s : State) (p : Nat) (f : Flit) : State :=
  let v := f.vc.toNat
  let a := s.paux p
  let open_ := a.asm.find? (fun x => x.vc == v && !x.eof)
  let (s, m) : State × Asm :=
    match open_, f.sof with
    | some m, false => (s, m)
    | _, _ =>
      ({ s with sol := { s.sol with nextId := s.sol.nextId + 1 } },
       { vc := v, id := s.sol.nextId, got := 0, eof := false, bad := false, dropped := false, taken := false,
         flen := 0, eofLen := 0, token := none })
  -- a first flit in the middle of another frame of the channel leaves that frame without an end
  let s := match open_, f.sof with
    | some x, true =>
      let s := s.setPaux p { s.paux p with asm := (s.paux p).asm.filter (fun y => y.id != x.id) }
      if x.taken && !x.dropped then s.badFrame x.id synthTail else s.freeCells x.id
    | _, _ => s
  let q := s.port p
  let s := s.setPort p { q with rxHeld := tset q.rxHeld v (tget q.rxHeld v 0 + 1) }
  let key := 64 * m.id + m.got
  let s := { s with sol := { s.sol with cells := tset s.sol.cells key { inp := p, vc := v, copies := 1 } } }
  let s := if m.dropped then s.dropCopy key else s
  let ent := (s.sol.queues ++ s.sol.descWait).find? (fun x => x.id == m.id)
  let copies := match ent with
    | some x => if x.mc then x.outs.length + ((List.range 64).filter (fun o =>
        (s.port o).egress.any (fun e => e.id == m.id) && !x.outs.contains o)).length else 1
    | none => 1
  let s := if m.dropped then s else
    { s with sol := { s.sol with cells := tmap s.sol.cells (fun k c => if k = key then { c with copies := copies } else c) } }
  let excess := m.taken && decide (cdiv m.flen 240 ≤ m.got)
  let bad := (f.eof && f.bad) || excess || (m.taken && f.eof && lenWrong m.flen (m.got + 1) f.len.toNat)
  let m := { m with got := m.got + 1, eof := f.eof, bad := m.bad || bad, eofLen := if f.eof then f.len.toNat else m.eofLen }
  let a := s.paux p
  let rest := a.asm.filter (fun x => x.id != m.id)
  let s := match m.token, f.eof with
    | some ft, true => s.tokenLost ft
    | _, _ => s
  let s := s.setPaux p { a with asm := if f.eof && (m.taken || m.dropped) then rest
                                       else rest ++ [{ m with dropped := m.dropped || (excess && m.taken) }] }
  if bad && m.taken && !m.dropped then s.badFrame m.id (f.len.toNat, f.payload) else s

/-- A sequenced flit with SEQ = E (05 R131, Table 5.11). A CONTROL flit is consumed at once; its message is its own
command. -/
def State.takeFlit (s : State) (p : Nat) (f : Flit) : State :=
  let q := s.port p
  let v := f.vc.toNat
  let s := s.setPort p { q with e := q.e + 1, nakWait := false }
  let viol (s : State) (code : Nat) : State := s.violation p code v f.typ.toNat f.seq.toNat
  let giveBack (s : State) : State :=
    let q := s.port p
    s.setPort p { q with rxRet := tset q.rxRet v ((tget q.rxRet v 0 + 1) % 4096),
                         rxUnrep := tset q.rxUnrep v (tget q.rxUnrep v 0 + 1) }
  if flitMalformed f then viol (if s.vcOn p v then giveBack s else s) 1
  else if !s.vcOn p v then viol s 4
  else if tget q.plimit v (s.vcLimit p v) ≤ tget q.rxHeld v 0 then viol s 2
  else if f.typ = 2 then giveBack s
  else s.takeData p f

/-- A good flit on a port that receives (05 R131). A MALFORMED flit that is not sequenced spent no credit and returns none:
DEDUCED (assumption log 119). -/
def State.takeGood (s : State) (n : Nat) (f : Flit) : State :=
  let s := s.setPaux n { s.paux n with lastGood := s.clk }
  let s := (s.takeAck n f.ackSeq).takeCredit n f.crVc.toNat f.crCount.toNat
  let seqd := f.typ = 1 || f.typ = 2
  let s := if seqd then
      { s with sol := { s.sol with acc := tmod s.sol.acc n Sample.init (fun x => { x with rx := x.rx + 1 }) } }
    else s
  let q := s.port n
  if !seqd then
    (if flitMalformed f then s.violation n 1 f.vc.toNat f.typ.toNat f.seq.toNat else s)
  else if f.seq = q.e then s.takeFlit n f
  else if seqBefore f.seq q.e || q.nakWait then s
  else (s.sendNak n).violation n 3 f.vc.toNat f.typ.toNat f.seq.toNat

/-- The flit that a port receives: none where its CRC is bad or a codeword that holds a byte of it is not correctable (05
R109, R124, R125). -/
def rxFlit (raw : List Byte) (words : List LaneWord) : Option Flit :=
  if words.all (fun w => (wordResult w).isSome) then flitOf raw else none

/-! ### Lane failure and sparing (05 R136 to R139) -/

/-- A width change is announced on the lanes that stay (05 R138); its first sending fixes the block it takes effect at.
Where no lane stays there is nothing to send it on, and it takes effect at once. -/
def State.announce (s : State) (p : Nat) (m : BitVec 4) : State :=
  if m &&& (s.port p).lanes = 0 then s.setPaux p { s.paux p with width := [(m, some (blockAt s.clk))] }
  else (s.setPaux p { s.paux p with width := (s.paux p).width ++ [(m, none)] }).sendSide p (.widthChange m 0)

/-- The mask a port is on its way to. -/
def State.goalMask (s : State) (p : Nat) : BitVec 4 :=
  match (s.paux p).width.getLast? with
  | some (m, _) => m
  | none => (s.port p).lanes

/-- The width a port trains at: the smaller of its own and the partner's (05 R121). -/
def State.trainWidth (s : State) (p : Nat) : Nat :=
  let w := (s.paux p).partnerW
  if w = 0 then s.cfgWidth p else min w (s.cfgWidth p)

/-- A port out of service whose lanes are all fenced has none left: it is fenced (05 R139). A port in service drops its last lane
by a width change. -/
def State.checkLanes (s : State) (p : Nat) : State :=
  if (s.port p).st != .active && (List.range (s.trainWidth p)).all (fun i => (s.lane (4 * p + i)).fenced) then
    s.fencePort p 0x0103 0
  else s

/-- A lane is fenced as class F and its port runs at reduced width (05 R137). -/
def State.fenceLaneFinal (s : State) (l : Nat) : State :=
  let s := s.setLane l { s.lane l with fenced := true, failed := true }
  (s.record 2 2 l 0x0103 (s.goalMask (l / 4)).toNat).checkLanes (l / 4)

/-- The die's spare is put on a lane and trains alone (05 R137 steps 2 and 3); false where it is taken. -/
def State.trySpare (s : State) (l : Nat) : Option State :=
  let k := s.lane (spareOf l)
  if k.spared || k.failed || k.fenced then none
  else
    let s := s.setLane l { s.lane l with partnerFom := 0, partnerPhase := 0 }
    let s := s.setLane (spareOf l) { k with spared := true, phase := 1, phaseAt := s.clk, lock := false, foms := [] }
    some (s.setPaux (l / 4) { s.paux (l / 4) with sparing := some (l % 4), spareAt := s.clk })

/-- No spare of this die cures the lane: a partner Fixus is asked, otherwise the lane is fenced. -/
def State.spareElsewhere (s : State) (l : Nat) : State :=
  if (s.portPeer (l / 4)).isSome && ((s.port (l / 4)).st == .active || (s.port (l / 4)).st == .retrain) then s.sendSide (l / 4) (.spareReq (l % 4))
  else s.fenceLaneFinal l

/-- A lane in service fails, or a lane fails in training (05 R136, R137). -/
def State.laneFailed (s : State) (l : Nat) : State :=
  let p := l / 4
  let ln := s.lane l
  if ln.failed || ln.fenced then s
  else
    let s := s.setLane l { ln with failed := true, lock := false }
    let s := if ln.inService then s.announce p (s.goalMask p &&& ~~~ laneMask [l % 4]) else s
    match s.trySpare l with
    | some s => s
    | none => s.spareElsewhere l

/-- A lane is whole again: a width change restores it (05 R137 step 4). -/
def State.restoreLane (s : State) (l : Nat) : State :=
  let p := l / 4
  let s := s.setLane l { s.lane l with failed := false, lock := true, failSince := none, below := false }
  s.announce p (s.goalMask p ||| laneMask [l % 4])

/-- The lane for which a spare circuit trains. -/
def State.sparedFor (s : State) (k : Nat) : Option Nat :=
  ((List.range 32).map (fun i => 32 * (k - 256) + i)).find? (fun l => (s.paux (l / 4)).sparing == some (l % 4))

/-- Are the codeword results of phase 5 good: none uncorrectable, and symbols corrected below 10^-4 of all (05 Table 5.4)? -/
def fecOk (o : PhaseObs) : Bool := o.uncorrectable == 0 && decide (o.corrected * 10000 < o.symbols)

/-- Does a circuit's pad loopback agree with its calibrated delays to 50 ps (04 R82)? -/
def loopbackOk (l : Nat) (o : PhaseObs) : Bool :=
  decide (o.tx ≤ txDelay l + 50) && decide (txDelay l ≤ o.tx + 50) && decide (o.rx ≤ rxDelay l + 50) &&
  decide (rxDelay l ≤ o.rx + 50)

/-- The answer that a partner's SPARE_REQ for a lane awaits. -/
def State.answerSpare (s : State) (p i : Nat) (ok : Bool) : State :=
  if (s.paux p).spareAsk.contains i then
    (s.setPaux p { s.paux p with spareAsk := (s.paux p).spareAsk.filter (· != i) }).sendSide p (.spareDone i ok)
  else s

/-- SPARE_TRAIN_DONE (05 R137): the spare has passed phase 5, or its 60 ms are over, or phase 5 found it bad. Where the partner has
asked for this spare its own has failed already, so that a lane that neither cures is fenced. -/
def execSpareTrainDone (p : BitVec 6) (idx : BitVec 2) (o : PhaseObs) (s : State) : Host.Outcome State Fault Refusal :=
  let n := p.toNat
  let l := 4 * n + idx.toNat
  let k := spareOf l
  let own := (s.lane l).failed
  let asked := (s.paux n).spareAsk.contains idx.toNat
  let tooLate := decide ((s.paux n).spareAt + 60000000 < s.clk)
  let counted := (s.lane k).phase == 5 && decide ((s.lane k).phaseAt + 10000000 ≤ s.clk)
  let s1 := s.setPaux n { s.paux n with sparing := none }
  let s1 := if counted && fecOk o && !tooLate then
      let s1 := s1.setLane l { s1.lane l with spared := true }
      ((s1.record 0 2 l 0x0102 (l / 32)).restoreLane l).answerSpare n idx.toNat true
    else
      let s1 := (s1.setLane k { s1.lane k with spared := false, phase := 0 }).answerSpare n idx.toNat false
      if !own then s1 else if asked then s1.fenceLaneFinal l else s1.spareElsewhere l
  due (s.on && (s.paux n).sparing == some idx.toNat && (counted || tooLate)) s s1

/-- SPARE_REQ (05 R137 step 5): the partner asks for this end's spare on a lane. Where that spare trains for the lane already, its
result is the answer. -/
def execSpareReq (p : BitVec 6) (ws : List (BitVec 40)) (s : State) : Host.Outcome State Fault Refusal :=
  let n := p.toNat
  match sideHeard 5 ws with
  | none => .next s
  | some w =>
    let i := bits (wordSb w) 1 0
    let ask (s : State) : State := s.setPaux n { s.paux n with spareAsk := (s.paux n).spareAsk.filter (· != i) ++ [i] }
    let s1 := if (s.paux n).sparing == some i then ask s
      else match s.trySpare (4 * n + i) with
        | some s => ask s
        | none => s.sendSide n (.spareDone i false)
    due (s.on && ((s.port n).st == .active || (s.port n).st == .retrain) && (s.portPeer n).isSome) s s1

/-- SPARE_DONE (05 R137 steps 5 and 6). -/
def execSpareDone (p : BitVec 6) (ws : List (BitVec 40)) (s : State) : Host.Outcome State Fault Refusal :=
  match sideHeard 6 ws with
  | none => .next s
  | some w =>
    let i := bits (wordSb w) 1 0
    let l := 4 * p.toNat + i
    due (s.on && (s.lane l).failed && !(s.lane l).fenced && (s.paux p.toNat).sparing != some i) s
      (if bit (wordSb w) 2 then s.restoreLane l else s.fenceLaneFinal l)

/-- WIDTH_CHANGE (05 R138): the partner's transmit mask takes effect at the block of the partner's frame that it names,
and is answered with this end's own change. -/
def execWidthChange (p : BitVec 6) (ws : List (BitVec 40)) (s : State) : Host.Outcome State Fault Refusal :=
  let n := p.toNat
  match sideHeard 4 ws with
  | none => .next s
  | some w =>
    let mask := BitVec.ofNat 4 (bits (wordSb w) 3 0)
    let s1 := s.setPaux n { s.paux n with rxWidth := (s.paux n).rxWidth ++ [(mask, bits (wordSb w) 14 4)] }
    due (s.on && ((s.port n).st == .active || (s.port n).st == .retrain)) s
      (if s.goalMask n = mask then s1 else s1.announce n mask)

/-- The block of the partner's frame that a port now receives: counted from the block in which its lowest lane locked. -/
def State.rxBlock (s : State) (p : Nat) : Nat :=
  blockAt (s.clk - (s.lane (4 * p + (maskLanes (s.port p).rxLanes).headD 0)).lockClk) % 2048

/-- The partner's first pending width change takes effect at its block. -/
def State.rxWidthNow (s : State) (p : Nat) : State :=
  match (s.paux p).rxWidth with
  | (m, b) :: rest =>
    if (s.rxBlock p + 2048 - b) % 2048 < 1024 then
      (s.setPaux p { s.paux p with rxWidth := rest }).setPort p { s.port p with rxLanes := m }
    else s
  | [] => s

/-- WIDTH_CHANGE_EFFECTIVE (05 R138, R139): the block of the first change announced, by this end or by the partner, has come. A
port left with no lane goes DOWN and is fenced. -/
def execWidthChangeEffective (p : BitVec 6) (s : State) : Host.Outcome State Fault Refusal :=
  let n := p.toNat
  let s0 := s.rxWidthNow n
  match (s.paux n).width with
  | (m, some b) :: rest =>
    let s1 := s0.setPaux n { s0.paux n with width := rest }
    let s1 := s1.setPort n { s1.port n with lanes := m }
    let s1 := (List.range 4).foldl (fun s i =>
      s.setLane (4 * n + i) { s.lane (4 * n + i) with inService := m.getLsbD i }) s1
    .next (if !s.on then s else if blockAt s.clk < b then s0 else if m = 0 then s1.fencePort n 0x0103 0 else s1)
  | _ => due s.on s s0

/-- What the codewords of a port's lanes show is counted: symbols corrected, and codewords not correctable, more than 16 of
which within 1,000,000 ns fail the lane (05 R109, R136). -/
def State.tallyWords (s : State) (n : Nat) (words : List LaneWord) : State :=
  words.foldl (fun s w =>
    let l := 4 * n + w.lane.toNat
    match wordResult w with
    | some c => s.bump (aLnk l + 0x10) c
    | none =>
      let ln := s.lane l
      let u := ln.uncorr.filter (fun t => decide (s.clk < t + 1000000)) ++ [s.clk]
      let s := ((s.setLane l { ln with uncorr := u }).bump (aLnk l + 0x14) 1).bump (aPrt n + 0x8C) 1
      if 16 < u.length && ln.inService then s.laneFailed l else s) s

/-- Does a port receive flits: in service, or until a retrain takes its lanes? -/
def State.receives (s : State) (n : Nat) : Bool := s.on && ((s.port n).st == .active || (s.port n).st == .retrain)

/-- FLIT_RECEIVE (05 R131): a flit of 256 bytes with a good CRC, all of whose codewords could be corrected. -/
def execFlitReceive (p : BitVec 6) (raw : List Byte) (words : List LaneWord) (s : State) :
    Host.Outcome State Fault Refusal :=
  match rxFlit raw words with
  | some f => due (s.receives p.toNat) s ((s.tallyWords p.toNat words).takeGood p.toNat f)
  | none => .next s

/-! ### Retry and retrain (05 R131 to R133) -/

/-- BAD_CRC_FLIT (05 R131, R136): a flit with a bad CRC, or with a byte in a codeword that is not correctable. -/
def execBadCrcFlit (p : BitVec 6) (raw : List Byte) (words : List LaneWord) (s : State) : Host.Outcome State Fault Refusal :=
  let n := p.toNat
  let s1 := s.tallyWords n words
  match rxFlit raw words with
  | some _ => .next s
  | none => due (s.receives n) s (if (s1.port n).nakWait then s1 else s1.sendNak n)

/-- NAK_REPEAT (05 R132): every 2,000 ns in NAK_WAIT. -/
def execNakRepeat (p : BitVec 6) (s : State) : Host.Outcome State Fault Refusal :=
  let q := s.port p.toNat
  due (s.on && q.st == .active && q.nakWait && decide (q.nakAt + 2000 ≤ s.clk)) s (s.sendNak p.toNat)

/-- Replay of unacknowledged flits from the oldest that is not before `e`; once the same oldest flit has been replayed eight
times, RETRAIN_REQ instead (05 R132). -/
def State.replayFrom (s : State) (p : Nat) (e : BitVec 13) : State :=
  let q := s.port p
  let l := q.unacked.dropWhile (fun t => t.seq != e)
  let first := match q.unacked, l with
    | a :: _, b :: _ => a.seq == b.seq
    | _, _ => false
  let n := if first then q.replays + 1 else q.replays
  if first && 8 ≤ q.replays then (s.setPort p { q with replays := 0 }).sendLink p (.retrainReq 0)
  else s.setPort p { q with replay := l, replays := n, ackAt := s.clk }

/-- NAK (05 R132): replay from E, or RETRAIN_REQ for an E no longer held. E just past the last flit sent asks for
nothing that is missing. -/
def execNak (p : BitVec 6) (e : BitVec 13) (s : State) : Host.Outcome State Fault Refusal :=
  let n := p.toNat
  let s1 := s.takeAck n e
  let q := s1.port n
  due (s.on && q.st == .active) s
    (if q.unacked.any (fun t => t.seq == e) then s1.replayFrom n e
     else if e = q.seqNext && q.unacked.isEmpty then s1
     else s1.sendLink n (.retrainReq 0))

/-- REPLAY_TIMEOUT (05 R132): ACK_SEQ unchanged for 10,000 ns with flits unacknowledged. -/
def execReplayTimeout (p : BitVec 6) (s : State) : Host.Outcome State Fault Refusal :=
  let n := p.toNat
  let q := s.port n
  match q.unacked with
  | [] => .next s
  | t :: _ => due (s.on && q.st == .active && decide (q.ackAt + 10000 ≤ s.clk)) s (s.replayFrom n t.seq)

/-- A retrain in service begins (05 R133): the fourth within 1,000,000,000 ns fences the port. -/
def State.startRetrain (s : State) (p reason : Nat) : State :=
  let a := s.paux p
  let rs := a.retrains.filter (fun t => decide (s.clk < t + 1000000000))
  if (s.port p).st != .active then s
  else if 3 ≤ rs.length then s.fencePort p 0x0112 (rs.length + 1)
  else
    let s := s.setPaux p { a with retrains := rs ++ [s.clk], retrainAt := some s.clk, syncRx := false, syncAck := false }
    let s := s.setPort p { s.port p with st := .retrain, replay := [] }
    let s := (List.range 4).foldl (fun s i =>
      let l := s.lane (4 * p + i)
      if l.inService then
        s.setLane (4 * p + i) { l with phase := 1, phaseAt := s.clk, paramOk := none, partnerPhase := 0, partnerFom := 0,
                                       foms := [] }
      else s) s
    (s.record 0 3 p 0x0111 reason).bump (aPrt p + 0x88) 1

/-- RETRAIN_REQ (05 R133). -/
def execRetrainReq (p : BitVec 6) (reason : Byte) (s : State) : Host.Outcome State Fault Refusal :=
  due s.on s (s.startRetrain p.toNat reason.toNat)

/-- RETRAIN_TIMEOUT (05 R133): not complete within 50 ms. -/
def execRetrainTimeout (p : BitVec 6) (s : State) : Host.Outcome State Fault Refusal :=
  let n := p.toNat
  match (s.paux n).retrainAt with
  | none => .next s
  | some t =>
    due (s.on && (s.port n).st == .retrain && decide (t + 50000000 ≤ s.clk)) s
      (s.fencePort n 0x0112 (s.paux n).retrains.length)

/-! ### Phase 7 (05 R133, Table 5.4) -/

/-- This end's CREDIT_SYNC: the limits of PRT_VC_LIMIT take effect, its cumulative counts restart. -/
def State.sendSync (s : State) (p : Nat) : State :=
  let q := s.port p
  let lim (v : Nat) : Nat := if s.vcOn p v then s.vcLimit p v else 0
  let s := s.setPort p { q with plimit := (List.range 16).map (fun v => (v, lim v)), rxRet := [], rxUnrep := [] }
  s.sendLink p (.creditSync q.e ((List.range 16).map (fun v => (lim v, lim v - tget q.rxHeld v 0))))

/-- A port whose two ends have acknowledged is ACTIVE. The neighbour it leads to is no longer lost. An accelerator gets its
address at link-up (01 R34) by no message: the spec names none, and the address follows from the cell, switch and accelerator
number alone, so that link-up only makes it present: DESIGN CHOICE (assumption log 120). -/
def State.tryActive (s : State) (p : Nat) : State :=
  let a := s.paux p
  let ls := s.lanes7 p
  if a.syncRx && a.syncAck && !ls.isEmpty && ((s.port p).st == .training || (s.port p).st == .retrain) then
    let s := s.setPort p { s.port p with st := .active, lanes := laneMask ls, rxLanes := laneMask ls, ackAt := s.clk }
    let s := s.setPaux p { a with lastGood := s.clk, retrainAt := none, syncRx := false, syncAck := false }
    let s := ls.foldl (fun s i => s.setLane (4 * p + i) { s.lane (4 * p + i) with inService := true }) s
    match s.portPeer p with
    | some n => s.heardBack n
    | none => s
  else s

/-- CREDIT_SYNC (05 R133): credits from FREE, replay from NEXT_SEQ. Where a lowered limit makes FREE, or LIMIT less the cells held,
negative the model takes 0: DESIGN CHOICE (assumption log 151). -/
def execCreditSync (p : BitVec 6) (next : BitVec 13) (lims : List (BitVec 16 × BitVec 16)) (s : State) :
    Host.Outcome State Fault Refusal :=
  let n := p.toNat
  let st := (s.port n).st
  let s1 := s.takeAck n next
  let q := s1.port n
  let out (v : Nat) : Nat := (q.unacked.filter (fun t => t.vc == v)).length
  let s1 := s1.setPort n { q with
    avail := (List.range 16).map (fun v => (v, (lims.getD v (0, 0)).2.toNat - out v)),
    txLim := (List.range 16).map (fun v => (v, (lims.getD v (0, 0)).1.toNat)),
    crSeen := [], replay := q.unacked, replays := 0 }
  let s1 := s1.setPaux n { s1.paux n with syncRx := true }
  due (s.on && (st == .training || st == .retrain) && !(s.lanes7 n).isEmpty) s
    ((s1.sendLink n (.creditSyncAck next)).tryActive n)

/-- CREDIT_SYNC_ACK (05 R133). -/
def execCreditSyncAck (p : BitVec 6) (next : BitVec 13) (s : State) : Host.Outcome State Fault Refusal :=
  let n := p.toNat
  let st := (s.port n).st
  due (s.on && (st == .training || st == .retrain) && !(s.lanes7 n).isEmpty && next == (s.port n).e) s
    ((s.setPaux n { s.paux n with syncAck := true }).tryActive n)

/-! ### Training (05 R119 to R121, Table 5.4) -/

/-- Enters the next phase. -/
def State.lanePhase (s : State) (l ph : Nat) : State :=
  s.setLane l { s.lane l with phase := ph, phaseAt := s.clk, foms := [] }

/-- Did the last 8 windows of a lane stay within ±0.25 dB (05 Table 5.4, phase 2)? -/
def fomStable (l : List Nat) : Bool :=
  let w := l.drop (l.length - 8)
  decide (8 ≤ w.length) && decide (w.foldl max 0 ≤ w.foldl min 1023 + 8)

/-- How long phase 5 counts, in ns: 10 ms in service, for a retrain or a spare (05 R119). -/
def State.fecTime (s : State) (l : Nat) : Nat :=
  if 256 ≤ l || (s.port (l / 4)).st == .retrain then 10000000 else 100000000

/-- May a phase of a lane or spare end (05 Table 5.4)? Phases 0 and 1 end as the circuit reports; the partner's reports of a
spare stand with the lane that it serves. -/
def State.phaseOk (s : State) (l : Nat) : Bool :=
  let ln := s.lane l
  let heard := if 256 ≤ l then s.lane ((s.sparedFor l).getD l) else ln
  if ln.phase = 2 then fomStable ln.foms
  else if ln.phase = 3 then ln.lock
  else if ln.phase = 4 then decide (s.trainAt (if 256 ≤ l then (s.sparedFor l).getD l else l) ≤ heard.partnerFom)
  else if ln.phase = 5 then decide (ln.phaseAt + s.fecTime l ≤ s.clk)
  else decide (ln.phase < 6)

/-- Does what a phase measured pass: the loopback check in phase 3, the codeword results in phase 5 (04 R82, 05 Table 5.4)? -/
def State.phasePass (s : State) (l : Nat) (o : PhaseObs) : Bool :=
  let ph := (s.lane l).phase
  if ph = 3 then loopbackOk (s.circuit l) o else if ph = 5 then fecOk o else true

/-- Lanes of a port in a phase. -/
def State.lanesIn (s : State) (p ph : Nat) : List Nat :=
  (List.range 4).filter (fun i => (s.lane (4 * p + i)).phase == ph)

/-- Lanes that train: configured at both ends, neither failed nor fenced; in a retrain those in service (05 R119, R121). -/
def State.lanesTraining (s : State) (p : Nat) : List Nat :=
  (List.range (s.trainWidth p)).filter (fun i =>
    let l := s.lane (4 * p + i)
    !l.failed && !l.fenced && ((s.port p).st != .retrain || l.inService))

/-- Every lane that trains has reached phase 6 and its PARAM is good: the port passes to phase 7 (05 R119). A configured lane still
in phase 0, which has no limit, holds the port in phase 6: DESIGN CHOICE (assumption log 152), the spec gives no moment. -/
def State.toPhase7 (s : State) (p : Nat) : State :=
  let ls := s.lanesTraining p
  if ls.all (fun i => (s.lane (4 * p + i)).phase == 6 && (s.lane (4 * p + i)).paramOk == some true) then
    let s := s.setPaux p { s.paux p with refused := false }
    (ls.foldl (fun s i => (s.lanePhase (4 * p + i) 7).sendSide p (.ready i 6)) s).sendSync p
  else s

/-- TRAINING_PHASE_DONE (05 R119): phases 0 to 5 per lane, phase 6 per port once every passing lane's PARAM is good, phase 7
once both ends are acknowledged. A lane whose loopback check or codeword results fail has failed. -/
def execTrainingPhaseDone (l : BitVec 9) (o : PhaseObs) (s : State) : Host.Outcome State Fault Refusal :=
  let n := l.toNat
  let ln := s.lane n
  let p := n / 4
  if 256 ≤ n then
    due (s.on && (s.sparedFor n).isSome && decide (1 ≤ ln.phase) && decide (ln.phase < 5) && s.phaseOk n && s.phasePass n o) s
      ((s.lanePhase n (ln.phase + 1)).sendSide (((s.sparedFor n).getD 0) / 4) (.ready (((s.sparedFor n).getD 0) % 4) ln.phase))
  else
    let ok := s.mayTrain p && decide (n % 4 < s.trainWidth p) && !ln.fenced && !ln.failed && (s.port p).st != .active
    let s1 := if ln.phase < 6 then
        if !s.phasePass n o then s.laneFailed n
        else
          let s1 := (s.lanePhase n (ln.phase + 1)).sendSide p (.ready (n % 4) ln.phase)
          let s1 := if ln.phase = 5 then s1.sendSide p (.param (n % 4)) else s1
          if (s.port p).st == .retrain then s1 else s1.setPort p { s1.port p with st := .training }
      else if ln.phase = 6 then s.toPhase7 p
      else s.tryActive p
    due (ok && (s.phaseOk n || decide (6 ≤ ln.phase))) s s1

/-- Time limits of Table 5.4 in ns; phase 0 has none. -/
def phaseLimit (ph : Nat) : Option Nat :=
  if ph = 1 then some 20000000 else if ph = 2 then some 300000000 else if ph = 3 then some 10000000
  else if ph = 4 then some 1300000000 else if ph = 5 then some 100000000 else if ph = 6 then some 5000000
  else if ph = 7 then some 1000000 else none

/-- TRAINING_PHASE_TIMEOUT (05 R119): the lane fails. Phase 6 is timed only until the first PARAM, and a retrain in
service by its own limit. -/
def execTrainingPhaseTimeout (l : BitVec 9) (s : State) : Host.Outcome State Fault Refusal :=
  let n := l.toNat
  let ln := s.lane n
  match phaseLimit ln.phase with
  | none => .next s
  | some t =>
    let st := (s.port (n / 4)).st
    due (s.on && decide (n < 256) && st == .training && decide (ln.phaseAt + t ≤ s.clk) &&
      !(ln.phase == 6 && ln.paramOk.isSome)) s
      ((s.setLane n { ln with phase := 0 }).laneFailed n)

/-- READY: the partner's completed phase. -/
def execReady (l : BitVec 9) (ws : List (BitVec 40)) (s : State) : Host.Outcome State Fault Refusal :=
  match sideHeard 7 ws with
  | none => .next s
  | some w => due s.on s (s.setLane l.toNat { s.lane l.toNat with partnerPhase := bits (wordSb w) 2 0 })

/-- FOM_REPORT (05 R119). -/
def execFomReport (l : BitVec 9) (ws : List (BitVec 40)) (s : State) : Host.Outcome State Fault Refusal :=
  match sideHeard 1 ws with
  | none => .next s
  | some w => due s.on s (s.setLane l.toNat { s.lane l.toNat with partnerFom := bits (wordSb w) 9 0 })

/-- TX_EQ_REQ (05 Table 5.3): hold, increment, decrement or return to preset, which is the setting at reset. What a
tap does beyond its five bits the spec leaves open: a free value. -/
def execTxEqReq (l : BitVec 9) (ws : List (BitVec 40)) (s : State) : Host.Outcome State Fault Refusal :=
  match sideHeard 2 ws with
  | none => .next s
  | some w =>
    let tap := bits (wordSb w) 3 0
    let op := bits (wordSb w) 5 4
    let ln := s.lane l.toNat
    let v := ln.txEq.getD tap 0
    let (f, sf) := s.free
    let edge := (op = 1 && v = 31) || (op = 2 && v = 0)
    let v' := if edge then f % 32 else if op = 1 then v + 1 else if op = 2 then v - 1
      else if op = 3 then Lane.init.txEq.getD tap 0 else v
    due (s.on && decide (tap < 6)) s
      ((if edge then sf else s).setLane l.toNat { ln with txEq := ln.txEq.set tap v' })

/-- The port number a partner must report (01 Table 1.2; 05 R120): down port P(a) meets endpoint port 0 and P(a + 16)
port 1, a mesh or hall port its peer. The host adapter's port on P47 the spec does not number: any is taken. -/
def State.peerPort (s : State) (p : Nat) : Option Nat :=
  if p < 16 then some 0
  else if p < 32 then some 1
  else if s.hostPort p then none
  else
    let g := p / 4
    let o := if g = 8 then 10 else if g = 10 then 8 else if g = 9 then 11 else if g = 11 then 9
      else if g = 12 then 13 else if g = 13 then 12 else if g = 14 then 15 else 14
    some (4 * o + p % 4)

/-- PARAM (05 R120, R121): the checks of phase 6; a refusal is logged and the port stays in phase 6. -/
def execParam (l : BitVec 9) (ws : List (BitVec 40)) (s : State) : Host.Outcome State Fault Refusal :=
  let n := l.toNat
  let p := n / 4
  let ln := s.lane n
  match sideHeard 3 ws with
  | none => .next s
  | some w =>
    let sb := wordSb w
    let param := bits sb 3 0 = 1 && bit sb 4 == s.irc.hall
    let wiring := wordLane w == n % 4 && (match s.peerPort p with
      | some q => q == wordPort w
      | none => true)
    let s1 := s.setLane n { ln with paramOk := some (param && wiring) }
    let s1 := if param && wiring then
        -- the port trains at the smaller width: the lanes beyond it go idle
        let width := bits sb 7 5
        (List.range 4).foldl (fun s i =>
          if width ≤ i && 0 < width then
            s.setLane (4 * p + i) { s.lane (4 * p + i) with phase := 0, lock := false, paramOk := none }
          else s) (s1.setPaux p { s1.paux p with partnerW := width })
      else
        let s1 := s1.violation p (if param then 6 else 5) 0 0 0
        let s1 := s1.setPaux p { s1.paux p with paramAt := s.clk }
        s1.record 0 3 p 0x0114 (wordPort w)
    let bad := (List.range 4).any (fun i => (s1.lane (4 * p + i)).paramOk == some false)
    let s1 := s1.setPaux p { s1.paux p with refused := bad, badVersion := bits sb 3 0 != 1 }
    due (s.on && decide (n < 256) && ln.phase == 6) s s1

/-- PARAM_REPEAT (05 R120): the exchange is repeated every 100 ms. -/
def execParamRepeat (p : BitVec 6) (s : State) : Host.Outcome State Fault Refusal :=
  let n := p.toNat
  let a := s.paux n
  let s1 := (s.lanesIn n 6).foldl (fun s i => s.sendSide n (.param i)) s
  due (s.on && a.refused && decide (a.paramAt + 100000000 ≤ s.clk) && !(s.lanesIn n 6).isEmpty) s
    (s1.setPaux n { a with paramAt := s.clk })

/-- A frame of a lane in ps: 2,048 blocks of 51.2 ns (05 R111). -/
def framePs : Nat := 104857600

/-- When a marker arrived against another, in ps: markers repeat with each frame, and the lanes of a port are at most 20 ns apart
(05 R115), so that it is the difference nearest to 0. -/
def markerLag (t u : Nat) : Int :=
  let d := (t % framePs + framePs - u % framePs) % framePs
  if 2 * d < framePs then (d : Int) else (d : Int) - framePs

/-- The lanes of a port that have locked are aligned on their markers: each is delayed until the latest (05 R115). -/
def State.deskew (s : State) (p : Nat) : State :=
  let at_ (i : Nat) : Option Nat := (s.lane (s.circuit (4 * p + i))).markAt
  let ref := (([0, 1, 2, 3].filterMap at_)[0]?).getD 0
  let last := ([0, 1, 2, 3].filterMap at_).foldl (fun m t => max m (markerLag t ref)) 0
  [0, 1, 2, 3].foldl (fun s i =>
    match at_ i with
    | some t =>
      let c := s.circuit (4 * p + i)
      s.setLane c { s.lane c with deskew := (last - markerLag t ref).toNat }
    | none => s) s

/-- MARKER_LOCK (05 R114, R115): alignment is found, with the pair's polarity. -/
def execMarkerLock (l : BitVec 9) (o : MarkerObs) (s : State) : Host.Outcome State Fault Refusal :=
  let n := l.toNat
  match aligned o with
  | none => .next s
  | some inv =>
    let s1 := s.setLane n { s.lane n with lock := true, marker := true, missed := 0, inverted := inv,
                                          markAt := some o.at_, lockClk := s.clk }
    let on := if n < 256 then some n else s.sparedFor n
    due s.on s (match on with
      | some k => s1.deskew (k / 4)
      | none => s1)

/-- Markers missed in a row after the framing UI at the next places expected, counted up to three (05 R114). -/
def missedAfter (inv : Bool) : Nat → List (List (BitVec 2)) → Nat
  | m, [] => m
  | m, ui :: l => if 3 ≤ m then m else missedAfter inv (if isMarker inv ui then 0 else m + 1) l

/-- MARKER_LOSS (05 R114, R136): what stood at the next places of the marker; lock is lost with the third missed in a row. -/
def execMarkerLoss (l : BitVec 9) (ms : List (List (BitVec 2))) (s : State) : Host.Outcome State Fault Refusal :=
  let n := l.toNat
  let ln := s.lane n
  let m := missedAfter ln.inverted ln.missed ms
  let s1 := s.setLane n { ln with missed := m, lock := ln.lock && decide (m < 3), marker := ln.marker && decide (m < 3) }
  due (s.on && ln.lock) s (if 3 ≤ m && ln.inService then s1.laneFailed n else s1)

/-- LOOP_LOCK_LOSS (05 R136). -/
def execLoopLockLoss (l : BitVec 9) (s : State) : Host.Outcome State Fault Refusal :=
  due (s.on && (s.lane l.toNat).inService) s (s.laneFailed l.toNat)

/-! ### Figure of merit (05 R117, R118) -/

/-- Is FoM at least n / 16 dB, that is 10^n · (9 · Σσ²)^160 ≤ (μ3 − μ0)^320? -/
def fomAtLeast (d v n : Nat) : Bool := decide (10 ^ n * (9 * v) ^ 160 ≤ d ^ 320)

/-- Largest n below `lo` + 2^`k` with FoM ≥ n / 16 dB, given that it holds of `lo`. -/
def fomSearch (d v : Nat) : Nat → Nat → Nat
  | 0, lo => lo
  | k + 1, lo => fomSearch d v k (if fomAtLeast d v (lo + 2 ^ k) then lo + 2 ^ k else lo)

/-- Does FoM lie above −1/16 dB, so that it rounds toward zero to 0 at least? -/
def fomAboveMinus (d v : Nat) : Bool := decide ((9 * v) ^ 160 < 10 * d ^ 320)

/-- LNK_FOM of a window, rounded toward zero; none where the field cannot hold it: no eye, no noise, −1/16 dB or below, or
above 63.9 dB. -/
def fomValue (f : FomSample) : Option Nat :=
  let d := f.mu3 - f.mu0
  let v := f.var0 + f.var1 + f.var2 + f.var3
  if d ≤ 0 || v = 0 || !fomAboveMinus d.toNat v || fomAtLeast d.toNat v 1024 then none
  else some (fomSearch d.toNat v 10 0)

/-- What a lane in phase 4 tells its partner after a window: the value, and how to move a tap of the partner's transmitter while
it is below TRAIN (05 Table 5.4). It goes on while the partner still waits for the report. Which tap moves and how is open: a free
choice (assumption log 153). -/
def State.tune (s : State) (l fom : Nat) : State :=
  let k := if l < 256 then l else (s.sparedFor l).getD l
  let ph := (s.lane l).phase
  if k < 256 && (ph == 4 || (ph == 5 && decide ((s.lane k).partnerPhase < 4))) then
    let (n, s) := s.free
    (s.sendSide (k / 4) (.fomReport (k % 4) fom)).sendSide (k / 4)
      (.txEqReq (k % 4) (n % 6) (if s.trainAt k ≤ fom then 0 else n / 6 % 4))
  else s

/-- A window's value is judged against WARN and FAIL (05 R118): a lane in service raises its class C event once for each time
that it falls below WARN. -/
def State.judgeFom (s : State) (l fom : Nat) : State :=
  let ln := s.lane l
  let warn := decide (fom < s.warnAt l)
  let fail := decide (fom < s.failAt l)
  let since := if fail then some (ln.failSince.getD s.clk) else none
  let s1 := s.setLane l { ln with fom := fom, fomMin := some (min fom (ln.fomMin.getD fom)), below := warn,
                                  warned := warn && ln.inService, foms := (ln.foms ++ [fom]).drop (ln.foms.length - 7),
                                  failSince := if ln.inService then since else none }
  if !ln.inService then s1.tune l fom
  else
    let s1 := if warn && !ln.warned then s1.record 0 2 l 0x0101 fom else s1
    let s1 := s1.tune l fom
    match since with
    | some t => if t + 1000000 ≤ s.clk then s1.laneFailed l else s1
    | none => s1

/-- FOM_WINDOW (05 R117, R118). A figure that the ten bits cannot hold reads as a free value. -/
def execFomWindow (l : BitVec 9) (f : FomSample) (s : State) : Host.Outcome State Fault Refusal :=
  match fomValue f with
  | some n => due s.on s (s.judgeFom l.toNat n)
  | none => due s.on s (s.free.2.judgeFom l.toNat (s.free.1 % 1024))

/-! ### Fences by command or parity (14 Table 14.4) -/

/-- A lane drops out of its port by a width change, without a spare. -/
def State.dropLane (s : State) (l : Nat) : State :=
  if (s.lane l).inService then s.announce (l / 4) (s.goalMask (l / 4) &&& ~~~ laneMask [l % 4]) else s

/-- A lane is fenced and leaves service. A fenced spare takes the lane that it serves with it. -/
def State.fenceLane (s : State) (l : Nat) : State :=
  let ln := s.lane l
  if ln.fenced then s
  else
    let s := s.setLane l { ln with fenced := true }
    if l < 256 then (s.dropLane l).checkLanes (l / 4)
    else match ((List.range 32).map (fun i => 32 * (l - 256) + i)).find? (fun i => (s.lane i).spared) with
      | some i => (s.setLane i { s.lane i with failed := true, lock := false }).dropLane i
      | none => s

end Sys2Proof.Machine
end

