-- ==== Sys2Proof/Machine/Sched.lean ====
section
/-! DEFINITION. What a port sends (spec 07; 05 R128 to R134): slots, unscheduled selection, fair queueing, credit
shapers, and the flit that leaves at each flit time. -/

namespace Sys2Proof.Machine

/-! ### Slot tables (07 R176 to R182) -/

/-- The active table of a port. -/
def State.activeTbl (s : State) (p : Nat) : Option SlotTbl :=
  ([0, 1].map (fun t => s.slotTbl p t)).find? (fun t => t.st == .active)

/-- MODE and SVC of an entry (07 Table 7.1). -/
def slotMode (e : BitVec 16) : Nat := bits e.toNat 13 12
def slotSvc (e : BitVec 16) : Nat := bits e.toNat 11 8

/-- The virtual channel an entry gives to scheduled frames. -/
def slotOwner (e : BitVec 16) : Option Nat := if slotMode e = 1 || slotMode e = 2 then some (slotSvc e) else none

/-- The entry of an active table at a count (07 R177). -/
def slotAt (t : SlotTbl) (n : Nat) : BitVec 16 :=
  if n < t.start || t.len = 0 then 0 else t.entries.getD ((n - t.start) / 64 % t.len) 0

/-- Does a channel own a slot in the active table of a port (R182)? -/
def State.ownsSlot (s : State) (p v : Nat) : Bool :=
  match s.activeTbl p with
  | some t => (t.entries.take t.len).any (fun e => slotOwner e == some v)
  | none => false

/-- Is a frame sent in scheduled slots of a port, rather than by R182? -/
def State.planned (s : State) (p : Nat) (f : Frame) : Bool := f.hdr.sched && s.ownsSlot p f.vc.toNat

/-- SLOT_BOUNDARY (07 R180): the port's owner and mode become those of the slot at this count. -/
def execSlotBoundary (p : BitVec 6) (s : State) : Host.Outcome State Fault Refusal :=
  let n := p.toNat
  match s.activeTbl n with
  | none => .next s
  | some t =>
    due (s.on && decide (t.start ≤ s.now)) s
      { s with sch := { s.sch with slot := tset s.sch.slot n (slotAt t s.now) } }

/-- Does a slot of the channel open within 32 cell times, 33 ns (06 R161)? -/
def State.slotSoon (s : State) (p v : Nat) : Bool :=
  match s.activeTbl p with
  | some t => slotOwner (slotAt t s.now) == some v || slotOwner (slotAt t (s.now + 33)) == some v
  | none => false

/-! ### Credit shapers (07 R192, R193) -/

def aShaper (p k : Nat) : Nat := aSchPort p + 0x40 + 4 * k
def aShaperLim (p k : Nat) : Nat := aSchPort p + 0x50 + 4 * k

def State.shaperOn (s : State) (p k : Nat) : Bool := bit (s.cfgAt (aShaper p k)).toNat 31
/-- RATE in units of 0.01 byte per ns. -/
def State.shaperRate (s : State) (p k : Nat) : Nat := bits (s.cfgAt (aShaper p k)).toNat 15 0
/-- HI and LO in units of 1/30,000 byte. -/
def State.shaperHi (s : State) (p k : Nat) : Nat := 480000 * bits (s.cfgAt (aShaperLim p k)).toNat 31 16
def State.shaperLo (s : State) (p k : Nat) : Nat := 480000 * bits (s.cfgAt (aShaperLim p k)).toNat 15 0

def State.shaper (s : State) (p k : Nat) : Shaper := tget s.sch.shapers (4 * p + k) Shaper.init

/-- Port rate in units of 0.01 byte per ns: 50 GB/s a lane. -/
def State.portRate (s : State) (p : Nat) : Nat := 5000 * (maskLanes (s.port p).lanes).length

/-- Has a channel a frame ready at a port: staged, or queued for it? -/
def State.vcReady (s : State) (p v : Nat) : Bool :=
  (s.port p).egress.any (fun e => e.frame.vc.toNat == v) ||
  s.sol.queues.any (fun q => q.outs.contains p && q.frame.vc.toNat == v)

/-- Credit after `t` units of 1/300 ns in which no flit of the channel is sent (R192). -/
def shaperAfter (ready : Bool) (rate hi lo t : Nat) (c : Int) : Int :=
  let up := c + rate * t
  let v := if ready then min up hi else if 0 < c then 0 else min up 0
  max (- (lo : Int)) v

/-- A shaper brought up to date: the time that its channel's flits take has had its fall of credit when they were sent. -/
def State.shaperNow (s : State) (p k : Nat) : Shaper :=
  let h := s.shaper p k
  let t := 300 * (s.clk - h.at_)
  { c := if s.shaperOn p k then
      shaperAfter (s.vcReady p (10 + k)) (s.shaperRate p k) (s.shaperHi p k) (s.shaperLo p k) (t - h.busy) h.c
    else h.c,
    at_ := s.clk, busy := h.busy - t }

def State.setShaper (s : State) (p k : Nat) (h : Shaper) : State :=
  { s with sch := { s.sch with shapers := tset s.sch.shapers (4 * p + k) h } }

/-- A flit of VC10 + k takes its flit time, over which the credit falls at port rate − RATE (R192): at n lanes 384, 512, 768 or
1,536 units of 1/300 ns. -/
def State.takeShaper (s : State) (p v : Nat) : State :=
  if 10 ≤ v && v ≤ 13 && s.shaperOn p (v - 10) then
    let k := v - 10
    let h := s.shaper p k
    let t := 1536 / max 1 (maskLanes (s.port p).lanes).length
    let c := h.c - (s.portRate p * t : Nat) + (s.shaperRate p k * t : Nat)
    s.setShaper p k { h with c := max (- (s.shaperLo p k : Int)) (min c (s.shaperHi p k)), busy := h.busy + t }
  else s

/-- The enabled shapers of a port brought up to date, before what is ready there changes. -/
def State.syncShapers (s : State) (p : Nat) : State :=
  [0, 1, 2, 3].foldl (fun s k => if s.shaperOn p k then s.setShaper p k (s.shaperNow p k) else s) s

/-- May a frame of VC10 + k start? -/
def State.shaperAllows (s : State) (p k : Nat) : Bool :=
  !s.shaperOn p k || decide (s.portRate p ≤ s.shaperRate p k) || decide (0 ≤ (s.shaper p k).c)

/-! ### The choice of a DATA flit (07 R180 to R182; 05 R134, R145) -/

/-- Can a staged frame send a flit now: a cell that has crossed, or its bad tail? -/
def Staged.ready (e : Staged) : Bool := e.tail.isSome || decide (e.sent < e.avail)

/-- The staged frame of a channel that may send: the one in its middle, or the first of its kind. -/
def State.headOf (s : State) (p v : Nat) (sched : Bool) : Option Staged :=
  let l := (s.port p).egress.filter (fun e => e.frame.vc.toNat == v)
  let e := match l.find? (fun e => decide (0 < e.sent) || e.tail.isSome) with
    | some e => if s.planned p e.frame == sched then some e else none
    | none => l.find? (fun e => s.planned p e.frame == sched)
  e.filter (fun e => e.ready && decide (0 < tget (s.port p).avail v 0))

/-- Is a staged frame, not planned on its port, of class 3 of R181: on VC2 to VC9 or VC15, or a SCHED = 1 frame of R182 on any
channel? -/
def Staged.third (e : Staged) : Bool :=
  let v := e.frame.vc.toNat
  (2 ≤ v && v ≤ 9) || v == 15 || e.frame.hdr.sched

/-- Channels in round-robin order after `last`. -/
def class3 (last : Nat) : List Nat :=
  let l := [0, 2, 3, 4, 5, 6, 7, 8, 9, 10, 11, 12, 13, 14, 15]
  l.filter (fun v => decide (last < v)) ++ l.filter (fun v => decide (v ≤ last))

/-- Unscheduled selection (R181): VC0, VC14, VC2 to VC9 and VC15 in turn, then VC10 to VC13 by tag. -/
def State.unscheduled (s : State) (p : Nat) : Option Staged :=
  match (s.headOf p 0 false).filter (fun e => !e.third) with
  | some e => some e
  | none =>
    match (s.headOf p 14 false).filter (fun e => !e.third) with
    | some e => some e
    | none =>
      match (class3 (tget s.sch.rr p 0)).findSome? (fun v => (s.headOf p v false).filter (fun e => e.third)) with
      | some e => some e
      | none =>
        let c := ([0, 1, 2, 3].filterMap (fun k => (s.headOf p (10 + k) false).filter (fun e => !e.third))).filter (fun e =>
          decide (0 < e.sent) || s.shaperAllows p (e.frame.vc.toNat - 10))
        c.foldl (fun best e => match best with
          | none => some e
          | some b => if later32 b.tag e.tag = b.tag && b.tag != e.tag then some e else some b) none

/-- A new sequenced flit: numbered, kept until acknowledged, and a credit spent (05 R129, R130). -/
def State.putSeq (s : State) (p v : Nat) (pay : TxPay) : State :=
  let q := s.port p
  let (s, t) := s.stamp p { pay := pay, vc := v, seq := q.seqNext, ack := 0, crVc := 0, crCount := 0 }
  let q := s.port p
  let s := s.setPort p { q with seqNext := q.seqNext + 1, unacked := q.unacked ++ [t],
                                ackAt := if q.unacked.isEmpty then s.clk else q.ackAt,
                                avail := tset q.avail v (tget q.avail v 0 - 1), wire := some t,
                                stream := q.stream ++ flitBytes (txFlitOf t) }
  { s with sol := { s.sol with acc := tmod s.sol.acc p Sample.init (fun x => { x with tx := x.tx + 1 }) } }

/-- One DATA flit of a staged frame leaves; the frame leaves the staging with its last. A SCHED = 1 frame counts in SCH_UNPLANNED_CNT
where its first flit leaves unscheduled (07 R182), and not where an epoch switch takes its slots in its middle: DESIGN CHOICE
(assumption log 161), the spec does not say. -/
def State.sendData (s : State) (p : Nat) (e : Staged) : State :=
  let v := e.frame.vc.toNat
  let n := frameFlits e.frame
  let last := e.tail.isSome || decide (n ≤ e.sent + 1)
  let s := s.putSeq p v (.data e.frame e.id e.sent e.tail)
  let s := if last && e.frame.hdr.ftype.toNat == ftPartial then s.bump (aFlt + 0x90) 1 else s
  let s := if e.frame.hdr.sched && !s.planned p e.frame && e.sent = 0 then s.bump (aSch + 0x10) 1 else s
  let q := s.port p
  let eg := if last then q.egress.filter (fun x => x != e)
    else q.egress.map (fun x => if x = e then { x with sent := x.sent + 1 } else x)
  let s := s.setPort p { q with egress := eg }
  let s := s.takeShaper p v
  let s := if 10 ≤ v && v ≤ 13 && e.sent = 0 then { s with sch := { s.sch with wfqV := tset s.sch.wfqV p (e.tag - 1) } } else s
  let s := if e.third && !s.planned p e.frame then { s with sch := { s.sch with rr := tset s.sch.rr p v } } else s
  if last then s.headTags p else s

/-- The DATA flit, or IDLE, of the slot in force (07 Table 7.2). A flit counts by how it was chosen: in SCH_SCHED_FLITS as its slot's
own, in SCH_SHARED_FLITS by unscheduled selection in an OWNED slot, one of a SCHED = 1 frame of R182 too. DESIGN CHOICE (assumption log
162): Table 7.9 does not say which of them counts such a flit. -/
def State.slotFlit (s : State) (p : Nat) : State :=
  let idle (s : State) : State := s.putWire p idleFlit
  let e := if (s.activeTbl p).isSome then tget s.sch.slot p 0 else 0
  let m := slotMode e
  if 4096 ≤ (s.port p).unacked.length then (if 2 ≤ m then (idle s).bump (aSchPort p + 0x88) 1 else idle s)
  else if m = 3 then (idle s).bump (aSchPort p + 0x88) 1
  else
    let own := if m = 0 then none else s.headOf p (slotSvc e) true
    match own with
    | some x => (s.sendData p x).bump (aSchPort p + 0x80) 1
    | none =>
      if m = 2 then (idle s).bump (aSchPort p + 0x88) 1
      else match s.unscheduled p with
        | some x => if m = 1 then (s.sendData p x).bump (aSchPort p + 0x84) 1 else s.sendData p x
        | none => idle s

/-- May a port put a LINK flit on its lanes: in service, in phase 7, or its last LEAVE? -/
def State.linkReady (s : State) (p : Nat) : Bool :=
  let q := s.port p
  q.st == .active || !(s.lanes7 p).isEmpty || (match q.linkQ with
    | .leave _ _ :: _ => true
    | _ => false)

/-! ### Time stamps and SEQ of VC1 messages (04 R79, R80) -/

def State.unitsNow (s : State) : Int := (s.irc.count * 65536 + s.irc.frac : Nat)

/-- A count from units of 2^-16 ns. -/
def countOf (u : Int) : Count := { ns := BitVec.ofNat 64 (u.toNat / 65536), frac := BitVec.ofNat 16 (u.toNat % 65536) }

/-- A delay in ps in units of 2^-16 ns, rounded down. -/
def psUnits (d : Nat) : Int := (d * 65536 / 1000 : Nat)

/-- A VC1 message as it leaves: T1 and T3 are the count less the transmit delay of the port's lowest lane; a message that
this Fixus originates gets the port's next SEQ (assumption log 121). -/
def State.stampCtl (s : State) (p : Nat) (m : CtlMsg) : State × CtlMsg :=
  let l := s.stampLane p
  let t := s.unitsNow - psUnits (txDelay l)
  match m with
  | .timeReq m =>
    ({ s with irc := { s.irc with reqs := tset s.irc.reqs p { seq := m.seq, t1 := t } } },
     .timeReq { m with t1 := countOf t })
  | .timeResp m => (s, .timeResp { m with t3 := countOf t })
  | m =>
    if ctlSource m == some (BitVec.ofNat 15 s.addr) then
      let q := s.port p
      (s.setPort p { q with ctlSeq := q.ctlSeq + 1 }, ctlSetSeq q.ctlSeq m)
    else (s, m)

/-- One flit time of a port (05 R134): LINK, replayed, CONTROL, then DATA by the slot, or IDLE. A port that sends
RETRAIN_REQ begins the retrain itself. -/
def State.transmit (s : State) (p : Nat) : State :=
  let s := if (s.port p).st == .active then s.reportViols p else s
  let q := s.port p
  match s.linkReady p, q.linkQ with
  | true, m :: rest =>
    let s := s.setPort p { q with linkQ := rest }
    let s := s.putWire p { idleFlit with pay := .link m }
    (match m with
      | .retrainReq r => s.startRetrain p r
      | _ => s)
  | _, _ =>
    if q.st != .active then s
    else match q.replay with
      | t :: rest =>
        let s := (((s.syncShapers p).setPort p { q with replay := rest }).putWire p t).takeShaper p t.vc
        let s := { s with sol := { s.sol with acc := tmod s.sol.acc p Sample.init (fun x => { x with retry := x.retry + 1 }) } }
        s.bump (aPrt p + 0x80) 1
      | [] =>
        match q.ctlQ with
        | m :: rest =>
          if 0 < tget q.avail 1 0 && q.unacked.length < 4096 then
            let (s, m) := (s.setPort p { q with ctlQ := rest }).stampCtl p m
            s.putSeq p 1 (.ctl m)
          else (s.syncShapers p).slotFlit p
        | [] => (s.syncShapers p).slotFlit p

/-- TRANSMIT_FLIT (05 R134; 07 R180 to R182). -/
def execTransmitFlit (p : BitVec 6) (s : State) : Host.Outcome State Fault Refusal :=
  due (!s.pins.floating) s (s.transmit p.toNat)

/-! ### Blocks and sideband (05 R108 to R113, R122, R138) -/

/-- SB of this Fixus's PARAM: profile version 1, its mode, its configured width, role switch (05 Table 5.3). -/
def State.paramBits (s : State) (p : Nat) : Nat := 1 + 16 * b2n s.irc.hall + 32 * s.cfgWidth p + 256

/-- The lanes of a port that a sideband message goes out on. -/
def State.sideLanes (s : State) (p : Nat) : SideMsg → List Nat
  | .fomReport i _ => [i]
  | .txEqReq i _ _ => [i]
  | .param i => [i]
  | .widthChange m _ => maskLanes (m &&& (s.port p).lanes)
  | .spareReq _ => maskLanes (s.port p).lanes
  | .spareDone _ _ => maskLanes (s.port p).lanes
  | .ready i _ => [i]

/-- Messages that a port has yet to send go onto their lanes for four blocks from block `b` on, in order, as far as those
lanes are free (05 R113). The first sending of a width change fixes its effective block, eight blocks on (R138). -/
def State.loadSideband (b p : Nat) : Nat → State → State
  | 0, s => s
  | n + 1, s =>
    match (s.port p).sideQ with
    | [] => s
    | m :: rest =>
      let ls := s.sideLanes p m
      if ls.all (fun i => (s.lane (4 * p + i)).side.isNone) then
        let w := sideBits (s.paramBits p) (b + 8) m
        let s := ls.foldl (fun s i => s.setLane (4 * p + i) { s.lane (4 * p + i) with side := some (w, 4) }) s
        let s := match m with
          | .widthChange k _ =>
            let w := (s.paux p).width
            let sent := w.takeWhile (fun e => e != (k, none))
            s.setPaux p { s.paux p with width := sent ++ ((w.drop sent.length).take 1).map (fun (e : BitVec 4 × Option Nat) => (e.1, some (b + 8))) ++
                                                 w.drop (sent.length + 1) }
          | _ => s
        State.loadSideband b p n (s.setPort p { s.port p with sideQ := rest })
      else s

/-- The stream made long enough for a block with what the port has to send, IDLE flits last (05 R134). -/
def State.fillFlits (p len : Nat) : Nat → State → State
  | 0, s => s
  | n + 1, s =>
    if len ≤ (s.port p).stream.length then s
    else
      let s1 := s.transmit p
      State.fillFlits p len n (if (s.port p).stream.length < (s1.port p).stream.length then s1 else s1.putWire p idleFlit)

/-- Does a lane send blocks that carry no flits: in training, or while a spare trains on its balls? -/
def State.laneTrains (s : State) (l : Nat) : Bool :=
  (decide (1 ≤ (s.lane l).phase) && !(s.lane l).failed && !(s.lane l).fenced) || (s.paux (l / 4)).sparing == some (l % 4)

/-- Block `b` of a port: its stream dealt over the lanes that carry it, ten flits a lane; a lane still in training carries
bytes of zero. -/
def State.portBlock (s : State) (b p : Nat) : State :=
  let s := if b % 2048 = 0 || 2044 < b % 2048 then s else State.loadSideband b p (s.port p).sideQ.length s
  let ls := s.streamLanes p
  let s := State.fillFlits p (2560 * ls.length) (10 * ls.length) s
  let ls := s.streamLanes p
  let len := 2560 * ls.length
  let bs := (s.port p).stream.take len
  let s := s.setPort p { s.port p with stream := (s.port p).stream.drop len }
  (List.range 4).foldl (fun s i =>
    match ls.findIdx? (fun j => j == i) with
    | some k => s.sendBlock b p i (dealt ls.length k bs)
    | none => if s.laneTrains (4 * p + i) then s.sendBlock b p i [] else s) s

/-- Is a port out of electrical idle? -/
def State.sending (s : State) (p : Nat) : Bool :=
  match (s.port p).st with
  | .training => true
  | .active => true
  | .retrain => true
  | _ => false

end Sys2Proof.Machine
end

