-- ==== Sys2Proof/Machine/Solder.lean ====
section
/-! DEFINITION. Solder (spec 06): ingress checks and policers (07 R194 to R198), next hops, multicast, matching,
flows and resequencing, route waits, escape moves, telemetry, and the grants of the buffer pools. -/

namespace Sys2Proof.Machine

/-! ### Policers (07 R194 to R198) -/

inductive Colour where
  | green | yellow | red
deriving DecidableEq, Repr

/-- The policer of a DATA frame on VC10 to VC13 that is not scheduled (R194). -/
def State.policerOf (s : State) (p : Nat) (f : Frame) : Option Nat :=
  let v := f.vc.toNat
  if f.hdr.ftype.toNat != ftData || v < 10 || 13 < v || f.hdr.sched then none
  else
    let key := bits (s.cfgAt (aSchPort p + 0x24)).toNat 1 0
    let k := if key = 0 then 0 else if key = 1 then addrUnit f.hdr.src.toNat
      else if key = 2 then addrSw f.hdr.dest.toNat else addrUnit f.hdr.dest.toNat
    some (64 * p + 16 * (v - 10) + k)

def State.polCfg (s : State) (i o : Nat) : Nat := (s.cfgAt (aPol i + o)).toNat

/-- Buckets of a policer filled up to now: R195 fills them in steps of one nanosecond. MODE 0 fills Tc and then Te at
CIR, MODE 1 fills Tc at CIR and Tp at PIR. Units of 0.01 byte. -/
def State.polNow (s : State) (i : Nat) : Pol :=
  let q := tget s.sch.pols i Pol.init
  let dt := s.clk - q.at_
  let cir := s.polCfg i 4 % 65536
  let cbs := 100 * (s.polCfg i 0xC % 2 ^ 24)
  let ep := 100 * (s.polCfg i 0x10 % 2 ^ 24)
  if bit (s.polCfg i 0) 30 then
    { tc := min cbs (q.tc + cir * dt), te := min ep (q.te + (s.polCfg i 8 % 65536) * dt), at_ := s.clk }
  else
    let t := q.tc + cir * dt
    { tc := min cbs t, te := min ep (q.te + (t - cbs)), at_ := s.clk }

/-- The pre-colour SCH_POL_SEL gives a channel; every frame is green to a colour-blind marker. Code 0b11 is reserved and has no
meaning: DESIGN CHOICE (assumption log 127), it is taken as red. -/
def State.preColour (s : State) (p v i : Nat) : Colour :=
  if bit (s.polCfg i 0) 29 then
    let c := bits (s.cfgAt (aSchPort p + 0x24)).toNat (8 + 2 * (v - 10) + 1) (8 + 2 * (v - 10))
    if c = 0 then .green else if c = 1 then .yellow else .red
  else .green

/-- RFC 2697 and RFC 2698 marking of `b` bytes (in 0.01 byte), with a pre-colour. -/
def markColour (twoRate : Bool) (pre : Colour) (q : Pol) (b : Nat) : Colour × Pol :=
  if twoRate then
    if pre = .red || q.te < b then (.red, q)
    else if pre = .yellow || q.tc < b then (.yellow, { q with te := q.te - b })
    else (.green, { q with te := q.te - b, tc := q.tc - b })
  else
    if pre = .green && b ≤ q.tc then (.green, { q with tc := q.tc - b })
    else if pre != .red && b ≤ q.te then (.yellow, { q with te := q.te - b })
    else (.red, q)

/-- A frame is coloured, counted, and dropped by its colour (R195, R196, R198); true when it is dropped. -/
def State.police (s : State) (p : Nat) (f : Frame) : State × Bool :=
  match s.policerOf p f with
  | none => (s, false)
  | some i =>
    let cfg := s.polCfg i 0
    if !bit cfg 31 then (s, false)
    else
      let len := f.hdr.frameLen.toNat
      let (c, q) := markColour (bit cfg 30) (s.preColour p f.vc.toNat i) (s.polNow i) (100 * len)
      let s := { s with sch := { s.sch with pols := tset s.sch.pols i q } }
      let s := s.bump (aPol i + (match c with
        | .green => 0x20
        | .yellow => 0x28
        | .red => 0x30)) len
      let drop := (c = .yellow && bit cfg 28) || (c = .red && bit cfg 27)
      (if drop then s.bump (aPol i + 0x38) 1 else s, drop)

/-! ### Ingress (06 R147, R151) -/

/-- The unit that takes a frame addressed to this Fixus: Brass, Bronze by the contribution network, Steel, and Pewter for the
RETURN and COMPLETION frames of 10 R284 and 08 R220; none while its point refuses all traffic (02 R49). -/
def State.unitOf (s : State) (f : Frame) : Option Nat :=
  let ft := f.hdr.ftype.toNat
  if ft = ftMgmt then some 79 else if ft = ftContrib || ft = ftPartial then some netPoint
  else if ft = ftKernel then s.kernelPoint f.hdr.offset.toNat else if ft = ftReturn || ft = ftCompletion then some 78 else none

/-- The link-local HELLO of 13 R350. -/
def isHello (f : Frame) : Bool := f.hdr.ftype.toNat == ftMgmt && frameMsub f == 0x0D && f.hdr.dest == 0x7FFF

/-- Channels a frame type may use (06 Table 6.2). -/
def typeOnVc (ft v : Nat) : Bool :=
  if ft = ftData then (10 ≤ v && v ≤ 13) || v == 15
  else if ft = ftContrib || ft = ftPartial || ft = ftKernel then 2 ≤ v && v ≤ 9
  else if ft = ftReturn || ft = ftCompletion then v == 14
  else if ft = ftMgmt then v == 0
  else false

/-- The check of 06 Table 6.4 that a frame fails, first in order: its reason. HOPS is already decremented. -/
def State.ingressFail (s : State) (p : Nat) (f : Frame) : Option Nat :=
  let h := f.hdr
  let len := h.frameLen.toNat
  let dest := h.dest.toNat
  let mgmt := h.ftype.toNat == ftMgmt
  let c := s.ctx h.ctx.toNat
  if !typeOnVc h.ftype.toNat f.vc.toNat || len < 32 || 15360 < len || h.rsv != 0 || (h.mcast != 0 && s.seamOrHall p)
  then some 1
  else if h.hops = 0 then some 2
  else if !isHello f && ((addrIsFixus dest && addrUnit dest != 0) || !s.present dest) then some 3
  else if p < 32 && h.src.toNat != s.addr % 0x4000 + p % 16 then some 4
  else if s.hostPort p && mgmt && (h.src.toNat != s.addr || !frameHost f) then some 4
  else if !mgmt && c.st == .free then some 5
  else if !mgmt && (h.gen.toNat != c.gen || c.stopDone) then some 6
  else none

/-- A frame dropped for a reason is counted, and its fault raised (06 Table 6.4; 14 sources 0x0304, 0x0305). -/
def State.countDrop (s : State) (p : Nat) (f : Frame) (reason : Nat) : State :=
  let ctxFrame := f.hdr.ftype.toNat != ftMgmt
  let s := s.bump (aSld + 0x40 + 4 * (reason - 1)) 1
  if reason = 6 || reason = 7 then s
  else if reason = 4 || (reason = 3 && ctxFrame) then
    s.record 1 1 f.hdr.ctx.toNat 0x0304 (reason + 65536 * f.hdr.dest.toNat)
  else s.record 0 0 0 0x0305 (reason + 65536 * p)

/-- A frame is dropped whole for a reason: its cells are freed, and it is counted. -/
def State.dropFrame (s : State) (p : Nat) (f : Frame) (id reason : Nat) : State :=
  ((s.loseToken f id).discard id).countDrop p f reason

/-- A frame descriptor of a frame with stored cells. -/
def State.putFrame (s : State) (p id : Nat) (f : Frame) (outs : List Nat) : State :=
  let n := cdiv f.hdr.frameLen.toNat 240
  s.queueEnt { inp := p, outs := outs, mc := false, frame := f, id := id, cells := n, passed := [], since := 0,
               noRoute := if outs.isEmpty then some s.clk else none, sent := false, noCredit := none, atUnit := none }

/-- A frame goes on by its next hop (06 R152, R154). -/
def State.forward (s : State) (p id : Nat) (f : Frame) : State :=
  let (s, o) := s.routed f
  s.putFrame p id f o.toList

/-- Copies of a multicast at this Fixus: along row and column, to the accelerators in stage ACC, to the local unit
otherwise (06 R157). Where no unit takes the frame, that copy is dropped as addressed to none (06 Table 6.4). -/
def State.mcastIn (s : State) (p id : Nat) (f : Frame) (from_ : Option Nat) (extra : List Nat) : State :=
  let h := frameHash f
  let (mesh, lost) := s.groupOuts (s.mcastGroups f.hdr.mcast from_) h
  let local_ := if f.hdr.mcast.getLsbD 2 then s.accOuts h else (s.unitOf f).toList
  let (hall, _) := s.groupOuts extra f.hdr.path.toNat
  let s := if f.hdr.mcast.getLsbD 2 || !local_.isEmpty then s else s.countDrop p f 3
  (s.queueCopies p id f (hall ++ mesh ++ local_)).mcastLost p f lost

/-! ### Flows (06 R167 to R172) -/

/-- The key of a frame's flow. -/
def flowOf (src dest ctx vc : Nat) (f : Flow) : Bool := f.src == src && f.dest == dest && f.ctx == ctx && f.vc == vc

/-- The entry of a key at the send or the receive half. A frame on VC15 no longer names its channel: it belongs to the first entry
found for the rest of its key, DESIGN CHOICE (assumption log 128). -/
def State.findFlow (s : State) (recv : Bool) (f : Frame) : Option (Nat × Flow) :=
  s.sol.flows.find? (fun e => (e.2.st == .rOpen) == recv && e.2.src == f.hdr.src.toNat && e.2.dest == f.hdr.dest.toNat &&
    e.2.ctx == f.hdr.ctx.toNat && (e.2.vc == f.vc.toNat || f.hdr.esc))

def State.setFlow (s : State) (k : Nat) (f : Flow) : State := { s with sol := { s.sol with flows := tset s.sol.flows k f } }
def State.delFlow (s : State) (k : Nat) : State := { s with sol := { s.sol with flows := tdel s.sol.flows k } }

/-- A number no entry has. -/
def State.newFlow (s : State) : Nat := s.sol.flows.foldl (fun m e => max m (e.1 + 1)) 0

def flowMsg (s : State) (target : Nat) (f : Flow) (last : Nat) : FlowMsg :=
  { source := BitVec.ofNat 15 s.addr, target := BitVec.ofNat 15 target, src := BitVec.ofNat 15 f.src,
    dest := BitVec.ofNat 15 f.dest, ctx := BitVec.ofNat 8 f.ctx, vc := BitVec.ofNat 4 f.vc,
    last := BitVec.ofNat 16 last }

/-- The source Fixus numbers a frame of a flow and sends it (06 Table 6.9, R168). -/
def State.flowSend (s : State) (p id : Nat) (f : Frame) : State :=
  let tag (seq : Nat) (new_ single spray : Bool) : Frame :=
    { f with hdr := { f.hdr with flowSeq := BitVec.ofNat 16 seq, newflow := new_, single := single, spray := spray } }
  match s.findFlow false f with
  | none =>
    if 65536 ≤ s.sol.flows.length then
      (s.bump (aSld + 0x24) 1).forward p id (tag 0 false true false)
    else
      let e : Flow := { st := .sOpen, src := f.hdr.src.toNat, dest := f.hdr.dest.toNat, ctx := f.hdr.ctx.toNat,
                        vc := f.vc.toNat, num := 1, held := [], gap := none, last := s.clk, close := none, waiting := [] }
      (s.setFlow s.newFlow e).forward p id (tag 0 true false false)
  | some (k, e) =>
    let e := { e with last := s.clk }
    match e.st with
    | .sOpen => (s.setFlow k { e with num := (e.num + 1) % 65536 }).forward p id (tag e.num false false false)
    | .sSpray => (s.setFlow k { e with num := (e.num + 1) % 65536 }).forward p id (tag e.num false false true)
    | .sSingle => (s.setFlow k e).forward p id (tag 0 false true false)
    | _ => s.setFlow k { e with waiting := e.waiting ++ [(f, id)] }

/-- The input by which a frame's cells came. -/
def State.inpOf (s : State) (id : Nat) : Nat :=
  ((s.sol.cells.find? (fun e => e.1 / 64 == id)).map (fun e => e.2.inp)).getD 79

/-- A frame leaves the resequencer toward DEST (06 R171); one that starts a multicast here starts it. -/
def State.flowDeliver (s : State) (p id : Nat) (f : Frame) : State :=
  if f.hdr.dest.toNat = s.addr then s.mcastIn p id f none []
  else
  let o := s.kth ((s.escGroup false f.hdr.dest.toNat).getD []) (frameHash f)
  s.putFrame p id f o.toList

/-- Held frames that are now expected are delivered; `fuel` bounds them. -/
def State.flowRelease (s : State) (k : Nat) : Nat → Flow → State
  | 0, e => s.setFlow k e
  | n + 1, e =>
    match e.held.find? (fun x => x.1.hdr.flowSeq.toNat == e.num) with
    | none => s.setFlow k { e with gap := if e.held.isEmpty then none else e.gap }
    | some x =>
      (s.flowDeliver (s.inpOf x.2) x.2 x.1).flowRelease k n { e with num := (e.num + 1) % 65536, held := e.held.erase x }

/-- A receive entry whose close has come and whose frames are all delivered or skipped is freed (06 Table 6.9). -/
def State.flowTryClose (s : State) (k : Nat) : State :=
  match tfind s.sol.flows k with
  | none => s
  | some e =>
    match e.close with
    | none => s
    | some last =>
      if e.held.isEmpty && decide (32768 ≤ (last + 65536 - e.num) % 65536) then
        (s.delFlow k).sendCtlTo (homeOf e.src) (.flowCloseAck (flowMsg s (homeOf e.src) e 0))
      else s

/-- The destination Fixus takes a frame of a flow (06 R167, R171). -/
def State.flowReceive (s : State) (p id : Nat) (f : Frame) : State :=
  if f.hdr.single then s.flowDeliver p id f
  else
    let home := homeOf f.hdr.src.toNat
    let s := if f.hdr.newflow && (s.findFlow true f).isNone then
        let e : Flow := { st := .rOpen, src := f.hdr.src.toNat, dest := f.hdr.dest.toNat, ctx := f.hdr.ctx.toNat,
                          vc := f.vc.toNat, num := 0, held := [], gap := none, last := s.clk, close := none,
                          waiting := [] }
        if s.sol.flows.length < 65536 then
          (s.setFlow s.newFlow e).sendCtlTo home (.flowGrant (flowMsg s home e 0))
        else (s.bump (aSld + 0x28) 1).sendCtlTo home (.flowDeny (flowMsg s home e 0))
      else s
    match s.findFlow true f with
    | none => s.flowDeliver p id f
    | some (k, e) =>
      let e := { e with last := s.clk }
      let d := (f.hdr.flowSeq.toNat + 65536 - e.num) % 65536
      if d = 0 then
        let s := s.flowDeliver p id f
        (s.flowRelease k (e.held.length + 1) { e with num := (e.num + 1) % 65536 }).flowTryClose k
      else if d < 32768 then
        s.setFlow k { e with held := e.held ++ [(f, id)], gap := some (e.gap.getD s.clk) }
      else (s.setFlow k e).dropFrame p f id 7

/-- A flow message for another Fixus goes on along its escape path (06 R170). -/
def State.flowFor (s : State) (m : FlowMsg) (wrap : FlowMsg → CtlMsg) (mine : State) : State :=
  if m.target.toNat = s.addr then mine else s.sendCtlTo m.target.toNat (wrap m)

def State.msgFlow (s : State) (recv : Bool) (m : FlowMsg) : Option (Nat × Flow) :=
  s.sol.flows.find? (fun e => (e.2.st == .rOpen) == recv &&
    flowOf m.src.toNat m.dest.toNat m.ctx.toNat m.vc.toNat e.2)

/-- FLOW_GRANT (06 Table 6.9). -/
def execFlowGrant (_p : BitVec 6) (m : FlowMsg) (s : State) : Host.Outcome State Fault Refusal :=
  due s.on s (s.flowFor m .flowGrant (match s.msgFlow false m with
    | some (k, e) => if e.st = .sOpen then s.setFlow k { e with st := .sSpray, last := s.clk } else s
    | none => s))

/-- FLOW_DENY (06 Table 6.9). -/
def execFlowDeny (_p : BitVec 6) (m : FlowMsg) (s : State) : Host.Outcome State Fault Refusal :=
  due s.on s (s.flowFor m .flowDeny (match s.msgFlow false m with
    | some (k, e) => if e.st = .sOpen then s.setFlow k { e with st := .sSingle, last := s.clk } else s
    | none => s))

/-- FLOW_CLOSE (06 Table 6.9, R172): the entry frees once every number up to the last is delivered or skipped. One whose key has no
receive entry is ignored: DESIGN CHOICE (assumption log 129), the spec gives no answer to it. -/
def execFlowClose (_p : BitVec 6) (m : FlowMsg) (s : State) : Host.Outcome State Fault Refusal :=
  due s.on s (s.flowFor m .flowClose (match s.msgFlow true m with
    | some (k, e) => (s.setFlow k { e with close := some m.last.toNat }).flowTryClose k
    | none => s))

/-- FLOW_CLOSE_ACK (06 Table 6.9): the entry frees, and the frames that waited at the source open a flow anew. -/
def execFlowCloseAck (_p : BitVec 6) (m : FlowMsg) (s : State) : Host.Outcome State Fault Refusal :=
  due s.on s (s.flowFor m .flowCloseAck (match s.msgFlow false m with
    | some (k, e) =>
      if e.st = .sClosing then e.waiting.foldl (fun s x => s.flowSend (s.inpOf x.2) x.2 x.1) (s.delFlow k) else s
    | none => s))

/-- FLOW_IDLE (06 Table 6.9): every send entry without a frame for SLD_FLOW_IDLE. -/
def execFlowIdle (s : State) : Host.Outcome State Fault Refusal :=
  let idle := (s.cfgAt (aSld + 0x14)).toNat
  due s.on s (s.sol.flows.foldl (fun s x =>
    let e := x.2
    if s.clk < e.last + idle then s
    else match e.st with
      | .sSpray =>
        let last := (e.num + 65535) % 65536
        (s.setFlow x.1 { e with st := .sClosing }).sendCtlTo (homeOf e.dest)
          (.flowClose (flowMsg s (homeOf e.dest) e last))
      | .sSingle => s.delFlow x.1
      | _ => s) s)

/-- RECEIVE_FLOW_TIMEOUT (06 Table 6.9): 500,000 ns with no frame and no close. Frames that the entry still holds go with it and are
counted nowhere: DESIGN CHOICE (assumption log 130), the spec says only that the entry is FREE. -/
def execReceiveFlowTimeout (s : State) : Host.Outcome State Fault Refusal :=
  due s.on s (s.sol.flows.foldl (fun s x =>
    if x.2.st == .rOpen && x.2.close.isNone && decide (x.2.last + 500000 ≤ s.clk) then
      x.2.held.foldl (fun s h => s.discard h.2) (s.delFlow x.1)
    else s) s)

/-- One gap that has run out (06 R171): the missing numbers are skipped, class D, and the frames behind released. Where a further gap
stays open behind them, its timer starts now: DEDUCED (assumption log 131). -/
def State.gapExpire (s : State) (k : Nat) (e : Flow) : State :=
  let ds := e.held.map (fun x => (x.1.hdr.flowSeq.toNat + 65536 - e.num) % 65536)
  let n := ds.foldl min 65535
  let s := (s.bump (aSld + 0x2C) n).record 1 1 e.ctx 0x0304 (65536 * e.dest)
  let e := { e with num := (e.num + n) % 65536 }
  let s := s.flowRelease k (e.held.length + 1) e
  let s := match tfind s.sol.flows k with
    | some x => s.setFlow k { x with gap := if x.held.isEmpty then none else some s.clk }
    | none => s
  s.flowTryClose k

/-- GAP_EXPIRY (06 R171): every gap that has run out. -/
def execGapExpiry (s : State) : Host.Outcome State Fault Refusal :=
  let wait := (s.cfgAt (aSld + 0x18)).toNat
  due s.on s (s.sol.flows.foldl (fun s x => match x.2.gap with
    | some t => if t + wait ≤ s.clk && !x.2.held.isEmpty then s.gapExpire x.1 x.2 else s
    | none => s) s)

/-! ### What ingress does with a frame that passes (06 R151, R157 to R159, R167; 10 R284) -/

/-- A RETURN or COMPLETION that came along a chain of 10 R284 goes on along it, and starts the multicast of its cell. -/
def State.chainIn (s : State) (p id : Nat) (f : Frame) : State :=
  let mc : BitVec 3 := if f.hdr.ftype.toNat = ftReturn then 7 else 3
  s.mcastIn p id { f with hdr := { f.hdr with mcast := mc } } none (s.chainGroups f.hdr.src.toNat)

/-- Is a DATA frame part of a flow: SRC and DEST with different homes? -/
def isFlow (f : Frame) : Bool := f.hdr.ftype.toNat == ftData && homeOf f.hdr.src.toNat != homeOf f.hdr.dest.toNat

/-- MGMT subtypes that a Fixus takes: those that travel only to a requester or an accelerator, and a HELLO that is not link-local,
are dropped without an answer (13 R350, R352). -/
def brassTakes (m : Nat) : Bool := m = 1 || m = 3 || m = 5 || m = 6 || m = 9 || m = 0x0C || m = 0x0E

/-- A MGMT frame addressed to this Fixus: out on P47 where it is for the host, otherwise to Brass, which answers a
reserved MSUB with ERROR FORMAT (13 R351, R352). -/
def State.mgmtIn (s : State) (p id : Nat) (f : Frame) : State :=
  let m := frameMsub f
  let ts := f.hdr.ts.toNat
  if toHost f then
    (if s.pins.hostbr then s.putFrame p id f (s.livePorts [47]) else s.dropFrame p f id 3)
  else if brassTakes m then s.putFrame p id f [79]
  else
    let s := s.discard id
    if (m = 0 || 0x0E < m) && s.brass then
      s.sendMgmt f.hdr.src.toNat 8 (frameHost f) (bits ts 13 8) (bits ts 31 16) 0 m [8, 0, 0]
    else s

/-- Has a multicast frame that came by mesh port group `g` left the Fixus that starts it: is this Fixus in DEST's cell, and does the
frame move away from DEST? One still on its way never does (06 R157). -/
def State.pastStart (s : State) (g : Nat) (f : Frame) : Bool :=
  let d := f.hdr.dest.toNat
  let r := swRow s.pins.sw
  let c := swCol s.pins.sw
  let dr := swRow (addrSw d)
  let dc := swCol (addrSw d)
  addrCell d == s.sys.cell &&
  ((g == 11 && dr == r && decide (dc < c)) || (g == 9 && dr == r && decide (c < dc)) ||
   (g == 8 && decide (dr < r)) || (g == 10 && decide (r < dr)))

/-- Does a CONTRIB or PARTIAL frame come from an input that its node has abandoned (09 R251)? -/
def State.fromAbandoned (s : State) (p : Nat) (f : Frame) : Bool :=
  let ft := f.hdr.ftype.toNat
  match (s.findColl f.hdr.ctx.toNat f.hdr.collId.toNat).bind (fun slot => s.coll slot) with
  | none => false
  | some c =>
    if ft = ftContrib then
      match (s.membersOf c.desc).findIdx? (fun a => a == f.hdr.src.toNat) with
      | some r => c.nodes.any (fun n => n.stage == .loc && n.abandoned.contains (.rank r))
      | none => false
    else ft == ftPartial && c.nodes.any (fun n => n.abandoned.contains (.group (p / 4)))

/-- A frame that has passed its checks. -/
def State.accept (s : State) (p id : Nat) (f : Frame) : State :=
  let ft := f.hdr.ftype.toNat
  let dest := f.hdr.dest.toNat
  let flow := isFlow f
  if isHello f then (if s.meshGroup (p / 4) then s.putFrame p id f [79] else s.discard id)
  else if f.hdr.mcast != 0 && s.meshGroup (p / 4) && s.pastStart (p / 4) f then s.mcastIn p id f (some (p / 4)) []
  else if dest = s.addr then
    if f.hdr.mcast != 0 then (if flow then s.flowReceive p id f else s.mcastIn p id f none [])
    else if (ft = ftReturn || ft = ftCompletion) && 48 ≤ p && addrSw f.hdr.src.toNat = s.pins.sw then s.chainIn p id f
    else if ft = ftReturn then s.queueCopies p id f (s.accOuts (frameHash f))
    else if ft = ftMgmt then s.mgmtIn p id f
    else if s.fromAbandoned p f then (s.loseToken f id).discard id
    else if ft = ftCompletion || ft = ftContrib || ft = ftPartial || ft = ftKernel then s.putFrame p id f (s.unitOf f).toList
    else s.dropFrame p f id 3
  else if flow && homeOf f.hdr.src.toNat == s.addr && p < 32 then s.flowSend p id f
  else if flow && homeOf dest == s.addr then s.flowReceive p id f
  else s.forward p id f

/-- The frame open on a channel of a port whose header ingress has not taken yet. -/
def State.untaken (s : State) (p v : Nat) : Option Asm := (s.paux p).asm.find? (fun x => x.vc == v && !x.taken)

/-- The cells of a frame at its port: those its flits have taken so far, or, for a frame that comes whole, one for each
of its flits; and whether what has come of it is already bad (06 R145, R156). -/
def State.claimFrame (s : State) (p : Nat) (f : Frame) : State × Nat × Bool :=
  let a := s.paux p
  let v := f.vc.toNat
  let len := f.hdr.frameLen.toNat
  let n := cdiv len 240
  match s.untaken p v with
  | some m =>
    let bad := m.bad || (m.eof && lenWrong len m.got m.eofLen) || decide (n < m.got)
    let rest := a.asm.filter (fun x => x.id != m.id)
    (s.setPaux p { a with asm := if m.eof then rest else rest ++ [{ m with taken := true, flen := len }] }, m.id, bad)
  | none =>
    let id := s.sol.nextId
    let q := s.port p
    let s := s.setPort p { q with rxHeld := tset q.rxHeld v (tget q.rxHeld v 0 + n) }
    ({ s with sol := { s.sol with nextId := id + 1, cells := storeCells p v id 1 n 0 s.sol.cells } }, id, false)

/-- May a frame come: its first flit is here, or it comes whole within the credits of its channel (05 R129; 06 R166)? -/
def State.mayCome (s : State) (p : Nat) (f : Frame) : Bool :=
  let q := s.port p
  let v := f.vc.toNat
  (s.untaken p v).isSome ||
  decide (tget q.rxHeld v 0 + cdiv f.hdr.frameLen.toNat 240 ≤ tget q.plimit v (s.vcLimit p v))

/-- The frame as it goes on: HOPS decremented (06 R147). One that arrives with HOPS 0 keeps 0, and is dropped as one that reaches 0:
DESIGN CHOICE (assumption log 160), the spec does not say whether the decrement wraps. -/
def hopDown (f : Frame) : Frame := { f with hdr := { f.hdr with hops := if f.hdr.hops = 0 then 0 else f.hdr.hops - 1 } }

/-- A lost Fixus whose Brass sends MGMT frames again has rejoined (assumption log 31). -/
def State.heardFrom (s : State) (f : Frame) : State :=
  if f.hdr.ftype.toNat == ftMgmt then s.heardBack f.hdr.src.toNat else s

/-- FRAME_INGRESS (06 R151). A frame found bad before any flit of it has been sent is dropped (06 R156). -/
def State.ingress (s : State) (p : Nat) (f : Frame) : State :=
  let (s, id, bad) := s.claimFrame p f
  let f := hopDown f
  match s.ingressFail p f with
  | some r => s.dropFrame p f id r
  | none =>
    let (s, drop) := s.police p f
    if drop then s.discard id else if bad then ((s.askAgain f).loseToken f id).discard id else s.accept p id f

def execFrameIngress (p : BitVec 6) (f : Frame) (s : State) : Host.Outcome State Fault Refusal :=
  let st := (s.port p.toNat).st
  let here := (s.untaken p.toNat f.vc.toNat).any (fun m => m.eof)
  due (s.on && (st == .active || st == .retrain || here) && s.mayCome p.toNat f) s ((s.heardFrom f).ingress p.toNat f)

/-- FRAME_DESCRIPTOR_FREE (06 R160): the first waiting frame whose cells are stored, and which no earlier frame of its input and
channel waits before, takes a free descriptor. -/
def execFrameDescriptorFree (s : State) : Host.Outcome State Fault Refusal :=
  let first (q : QEnt) : Bool :=
    (s.sol.descWait.find? (fun x => x.inp == q.inp && x.frame.vc == q.frame.vc)) == some q
  match s.sol.descWait.find? (fun q => (s.sol.cells.any (fun e => e.1 / 64 == q.id)) && first q) with
  | none => .next s
  | some q =>
    due (s.on && decide (s.sol.queues.length < 262144)) s
      { s with sol := { s.sol with queues := insertSince q s.sol.queues, descWait := s.sol.descWait.erase q } }

/-! ### Route waits and escape moves (06 R154, R169) -/

/-- NO_ROUTE_WAIT (06 R154): a waiting frame that has a live port again takes it; one that has waited
SLD_NO_ROUTE_WAIT is dropped. -/
def State.routeWait (s : State) (q : QEnt) : State :=
  match q.noRoute with
  | none => s
  | some t =>
    match s.routed q.frame with
    | (s, some o) =>
      let qs := s.sol.queues.map (fun x => if x = q then { q with outs := [o], noRoute := none } else x)
      { s with sol := { s.sol with queues := qs } }
    | (s, none) =>
      if t + (s.cfgAt (aSld + 0x1C)).toNat ≤ s.clk then
        let s := { s with sol := { s.sol with queues := s.sol.queues.erase q } }
        s.dropFrame q.inp q.frame q.id 3
      else s

def execNoRouteWait (s : State) : Host.Outcome State Fault Refusal :=
  due s.on s ((s.sol.queues.filter (fun q => q.noRoute.isSome)).foldl (fun s q => s.routeWait q) s)

/-- Is a unicast frame at the head of its queue Q(i, j, v)? -/
def State.atHead (s : State) (q : QEnt) : Bool :=
  match s.sol.queues.find? (fun x => !x.mc && x.inp == q.inp && x.frame.vc == q.frame.vc && x.outs == q.outs) with
  | some x => x == q
  | none => false

/-- Since when a sprayed frame at the head of its queue has had no link credit. -/
def State.markCredit (s : State) : State :=
  let mark (q : QEnt) : QEnt :=
    match q.outs with
    | [o] =>
      if o < 64 && !q.mc && q.frame.hdr.spray && s.atHead q && tget (s.port o).avail q.frame.vc.toNat 0 = 0 then
        { q with noCredit := some (q.noCredit.getD s.clk) }
      else { q with noCredit := none }
    | _ => q
  { s with sol := { s.sol with queues := s.sol.queues.map mark } }

/-- One move to VC15 (06 R169). -/
def State.escapeOne (s : State) (q : QEnt) : State :=
  let f := { q.frame with vc := 15, hdr := { q.frame.hdr with esc := true } }
  match s.choose f with
  | none => s
  | some o =>
    if 0 < tget (s.port o).avail 15 0 then
      let s := { s with sol := { s.sol with queues := s.sol.queues.filter (fun x => x != q) } }
      (s.queueEnt { q with frame := f, outs := [o], passed := [], noCredit := none }).bump (aSld + 0x38) 1
    else s

/-- ESCAPE_MOVE (06 R169): every frame that has waited SLD_ESC_WAIT. -/
def execEscapeMove (s : State) : Host.Outcome State Fault Refusal :=
  let s1 := s.markCredit
  let wait := (s.cfgAt (aSld + 0x10)).toNat
  let l := s1.sol.queues.filter (fun q => q.frame.hdr.ftype.toNat == ftData && !q.frame.hdr.esc && q.passed.isEmpty &&
    decide (10 ≤ q.frame.vc.toNat) && decide (q.frame.vc.toNat ≤ 13) && (match q.noCredit with
      | some t => decide (t + wait ≤ s.clk)
      | none => false))
  due s.on s (l.foldl (fun s q => s.escapeOne q) s1)

/-! ### Matching (06 R160 to R162) -/

/-- Crossbar outputs that a queued frame still owes cells. -/
def owes (q : QEnt) : List Nat := q.outs.filter (fun o => decide (o < 80) && decide (passedTo q o < q.cells))

/-- The residue of a frame's head cell: the outputs that have not taken it (06 R158). An output that has waits for the others. -/
def residue (q : QEnt) : List Nat :=
  let k := (owes q).foldl (fun m o => min m (passedTo q o)) 64
  (owes q).filter (fun o => passedTo q o == k)

/-- Has the resequencer delivered an earlier frame of the same flow to this output, so that it goes first (06 R171)? -/
def State.flowBehind (s : State) (q : QEnt) (o : Nat) : Bool :=
  let f := q.frame.hdr
  isFlow q.frame && homeOf f.dest.toNat == s.addr &&
  (s.sol.queues ++ s.sol.descWait).any (fun x => decide (x.since < q.since) && (owes x).contains o && isFlow x.frame &&
    x.frame.hdr.src == f.src && x.frame.hdr.dest == f.dest && x.frame.hdr.ctx == f.ctx &&
    (x.frame.vc == q.frame.vc || x.frame.hdr.esc || f.esc))

/-- Has the handshake FIFO of a unit's point room for one more frame: the frames that have begun to cross are not yet taken, and one
always fits (02 R43)? Its depth is open: a constant of the part (assumption log 147). -/
def State.fifoRoom (s : State) (o : Nat) : Bool :=
  let n := (s.sol.queues.filter (fun x => x.outs.contains o && decide (0 < passedTo x o))).length
  n == 0 || decide (n < Config.fifoDepth o)

/-- May output `o` take the next cell of a frame: cells there, both points in service (02 R49), credit and rules for a port, and
no other frame in the middle of its channel (06 R161)? Contributions never cross: their point is none of the crossbar (02 R47). -/
def State.offers (s : State) (q : QEnt) (o : Nat) : Bool :=
  let v := q.frame.vc.toNat
  let k := passedTo q o
  let free_ := match tfind s.sol.vcOwner (16 * o + v) with
    | some id => id == q.id
    | none => true
  decide (k < s.cellsIn q) && free_ && s.pointOn o && s.pointOn q.inp && !s.stalled o && !s.stalled q.inp &&
  !s.flowBehind q o &&
  (if 64 ≤ o then decide (0 < k) || s.fifoRoom o
   else s.live o && decide (0 < tget (s.port o).avail v 0) &&
     (!s.planned o q.frame || s.slotSoon o v) &&
     (!(10 ≤ v && v ≤ 13) || 0 < k || s.shaperAllows o (v - 10)))

/-- Class of a request (06 R161), lowest number first. -/
def State.reqClass (s : State) (q : QEnt) (o : Nat) : Nat :=
  let v := q.frame.vc.toNat
  if o < 64 && s.planned o q.frame then 1
  else if v = 0 then 2 else if v = 14 then 3 else if v ≤ 9 || v = 15 then 4 else 5

/-- Is an entry the first of its queue Q(i, j, v) or M(i, v) that still owes cells? -/
def State.isHead (s : State) (q : QEnt) : Bool :=
  !(owes q).isEmpty &&
  (s.sol.queues.find? (fun x => x.mc == q.mc && x.inp == q.inp && x.frame.vc == q.frame.vc &&
    (q.mc || x.outs == q.outs) && !(owes x).isEmpty)) == some q

/-- The heads of the queues. -/
def State.heads (s : State) : List QEnt := s.sol.queues.filter (fun q => s.isHead q)

/-- The requests of a cell time: heads of Q(i, j, v), and the residue of heads of M(i, v). -/
def State.requests (s : State) : List (Nat × Nat × Nat × QEnt) :=
  s.heads.flatMap (fun q => ((residue q).filter (fun o => s.offers q o)).map (fun o => (q.inp, o, s.reqClass q o, q)))

/-- The finish tag that orders a frame of VC10 to VC13 at an output (07 R191): the one it has in the staging, or the one it would be
given now. -/
def State.crossTag (s : State) (o : Nat) (q : QEnt) : Nat :=
  let k := q.frame.vc.toNat - 10
  match (s.port o).egress.find? (fun e => e.id == q.id && e.tag != 0) with
  | some e => e.tag - 1
  | none => (later32 (tget s.sch.wfqV o 0) (tget s.sch.wfqF (4 * o + k) 0) + frameFlits q.frame * 65536 / s.weight o k) % 2 ^ 32

/-- First of a list of point numbers at or after a pointer. -/
def atOrAfter (p : Nat) (l : List Nat) : Option Nat :=
  match l.filter (fun x => decide (p ≤ x)) with
  | [] => if l.isEmpty then none else some (l.foldl min 79)
  | m => some (m.foldl min 79)

/-- State of a matching: matched inputs and outputs, granted cells, and the pointers. -/
structure Match where
  ins : List Nat
  outs : List Nat
  pairs : List (Nat × Nat × QEnt)
  g : Tbl Nat
  a : Tbl Nat
deriving DecidableEq, Repr

/-- The requests at an output of the highest class; in class 5, those of the channel whose frame has the lowest tag (06 R161). -/
def State.topRequests (s : State) (o : Nat) (rs : List (Nat × Nat × Nat × QEnt)) : List (Nat × Nat × Nat × QEnt) :=
  let c := rs.foldl (fun c r => min c r.2.2.1) 5
  let rc := rs.filter (fun r => r.2.2.1 == c)
  if c < 5 || 64 ≤ o then rc
  else
    let best := rc.foldl (fun (b : Option (Nat × BitVec 4)) r =>
      let t := s.crossTag o r.2.2.2
      match b with
      | none => some (t, r.2.2.2.frame.vc)
      | some x => if later32 x.1 t = x.1 && x.1 != t then some (t, r.2.2.2.frame.vc) else b) none
    match best with
    | none => rc
    | some x => rc.filter (fun r => r.2.2.2.frame.vc == x.2)

/-- The request that an output grants: the first input at or after its pointer among the top requests (06 R162). -/
def State.grant (s : State) (m : Match) (reqs : List (Nat × Nat × Nat × QEnt)) (o : Nat) : Option (Nat × Nat × Nat × QEnt) :=
  let rc := s.topRequests o (reqs.filter (fun r => r.2.1 == o))
  let c := rc.foldl (fun c r => min c r.2.2.1) 5
  match atOrAfter (tget m.g (8 * o + c) 0) (rc.map (fun r => r.1)) with
  | some i => rc.find? (fun r => r.1 == i)
  | none => none

/-- One request, grant and accept round (06 R162). -/
def State.round (s : State) (first : Bool) (all : List (Nat × Nat × Nat × QEnt)) (m : Match) : Match :=
  let reqs := all.filter (fun r => !m.ins.contains r.1 && !m.outs.contains r.2.1)
  let outs := (List.range 80).filter (fun o => reqs.any (fun r => r.2.1 == o))
  let grants := outs.filterMap (fun o => s.grant m reqs o)
  let ins := (List.range 80).filter (fun i => grants.any (fun g => g.1 == i))
  ins.foldl (fun m i =>
    let gs := grants.filter (fun g => g.1 == i)
    let mcs := gs.filter (fun g => g.2.2.2.mc)
    let acc : List (Nat × Nat × Nat × QEnt) :=
      match mcs, tget s.sol.mcTurn i false with
      | g :: _, true => mcs.filter (fun x => x.2.2.2.id == g.2.2.2.id)
      | _, _ => (match atOrAfter (tget m.a i 0) (gs.map (fun g => g.2.1)) with
        | some o => gs.filter (fun g => g.2.1 == o)
        | none => [])
    let m := { m with ins := i :: m.ins, outs := acc.map (fun g => g.2.1) ++ m.outs,
                      pairs := m.pairs ++ acc.map (fun g => (i, g.2.1, g.2.2.2)) }
    if first then
      acc.foldl (fun m g => { m with g := tset m.g (8 * g.2.1 + g.2.2.1) ((i + 1) % 80),
                                     a := tset m.a i ((g.2.1 + 1) % 80) }) m
    else m) m

/-- A frame as a given output sends it: a copy for an accelerator or along a hall chain is addressed to its receiver and
is no multicast any more (06 R157, 10 R284). -/
def State.asSent (s : State) (q : QEnt) (o : Nat) : Frame :=
  let f := q.frame
  if !q.mc then f
  else if o < 32 then
    { f with hdr := { f.hdr with dest := BitVec.ofNat 15 (s.addr % 0x4000 + o % 16), mcast := 0 } }
  else if 48 ≤ o && o < 64 then
    { f with hdr := { f.hdr with dest := BitVec.ofNat 15 ((s.portPeer o).getD 0), mcast := 0 } }
  else f

/-- One cell crosses to one output: it is staged at a port, or taken by a unit. -/
def State.moveCell (s : State) (q0 : QEnt) (o : Nat) : State :=
  match s.sol.queues.find? (fun x => x.id == q0.id) with
  | none => s
  | some q =>
    let v := q.frame.vc.toNat
    let k := passedTo q o
    let last := decide (q.cells ≤ k + 1)
    let own := if last then tdel s.sol.vcOwner (16 * o + v) else tset s.sol.vcOwner (16 * o + v) q.id
    let q' : QEnt := { q with passed := tset q.passed o (k + 1), sent := true,
                              outs := if last && o < 64 then q.outs.filter (· != o) else q.outs,
                              atUnit := if last && 64 ≤ o then some s.sol.arrivals else q.atUnit }
    let qs := if q'.outs.isEmpty then s.sol.queues.filter (fun x => x.id != q.id)
      else s.sol.queues.map (fun x => if x.id = q.id then q' else x)
    let s := { s with sol := { s.sol with queues := qs, vcOwner := own,
                                          arrivals := s.sol.arrivals + (if last && 64 ≤ o then 1 else 0) } }
    if 64 ≤ o then s
    else
      let p := s.port o
      let eg := if p.egress.any (fun e => e.id == q.id)
        then p.egress.map (fun e => if e.id = q.id then { e with avail := k + 1 } else e)
        else p.egress ++ [({ frame := s.asSent q o, id := q.id, inp := q.inp, avail := k + 1, sent := 0, tail := none,
                             since := q.since, tag := 0 } : Staged)]
      (s.setPort o { p with egress := eg }).headTags o

/-- Telemetry of one cell time: two core cycles of a cell ready without credit, or credited and not granted, and the
depth of the queues for a port (06 Table 6.12). -/
def State.stalls (s : State) (pairs : List (Nat × Nat × QEnt)) (o : Nat) : State :=
  let mine := s.sol.queues.filter (fun q => q.outs.contains o && decide (passedTo q o < s.cellsIn q))
  let noCr := mine.filter (fun q => tget (s.port o).avail q.frame.vc.toNat 0 == 0)
  let granted := pairs.any (fun g => g.2.1 == o)
  let depth := s.sol.queues.foldl (fun n q => n + s.owed q o) 0
  if mine.isEmpty && depth = 0 then s
  else
    let upd (x : Sample) : Sample :=
      { x with stallCredit := min 1900 (x.stallCredit + if noCr.isEmpty then 0 else 2),
               stallMatch := min 1900 (x.stallMatch + if !granted && noCr.length < mine.length then 2 else 0),
               vcStall := noCr.foldl (fun b q => if bit b q.frame.vc.toNat then b else b + 2 ^ q.frame.vc.toNat) x.vcStall,
               qmax := max x.qmax depth }
    { s with sol := { s.sol with acc := tmod s.sol.acc o Sample.init upd } }

/-- One cell time: three rounds, and the granted cells cross. -/
def State.cellTime (s : State) : State :=
  let s := s.markCredit
  let all := s.requests
  let m0 : Match := { ins := [], outs := [], pairs := [], g := s.sol.gptr, a := s.sol.aptr }
  let m := s.round false all (s.round false all (s.round true all m0))
  let both := (List.range 80).filter (fun i => s.heads.any (fun q => q.inp == i && q.mc) &&
    s.heads.any (fun q => q.inp == i && !q.mc))
  let turn := both.foldl (fun t i => tset t i (!tget t i false)) s.sol.mcTurn
  let s := (List.range 64).foldl (fun s o => s.stalls m.pairs o) s
  let s := { s with sol := { s.sol with gptr := m.g, aptr := m.a, mcTurn := turn } }
  m.pairs.foldl (fun s g => s.moveCell g.2.2 g.2.1) s

/-! ### Errors in cells (06 R148, R156; 14 sources 0x0301 to 0x0303) -/

/-- The frame that a cell belongs to, queued or staged. -/
def State.frameOf (s : State) (id : Nat) : Option Frame :=
  match s.sol.queues.find? (fun q => q.id == id) with
  | some q => some q.frame
  | none => s.ports.findSome? (fun e => (e.2.egress.find? (fun x => x.id == id)).map (fun x => x.frame))

/-- The code of a cell finds an error in a word: one it corrects is counted; one it cannot ends the frame, in the frame's context,
and the 16th within 1,000,000,000 ns takes the Fixus out of service. The number of the cell in the records is open: a free
value. -/
def State.cellError (s : State) (e : Nat × Bool) : State :=
  if (tfind s.sol.cells e.1).isNone then s
  else
    let (n, s) := s.free
    if !e.2 then (s.bump (aSld + 0x34) 1).record 0 0 0 0x0301 n
    else
      let id := e.1 / 64
      let s := match (s.frameOf id).filter (fun f => f.hdr.ftype.toNat != ftMgmt) with
        | some f => s.record 1 1 f.hdr.ctx.toNat 0x0302 n
        | none => s.record 0 0 0 0x0302 n
      let s := if (s.frameOf id).isSome then s.badFrame id synthTail else s
      let l := s.sol.ues.filter (fun t => decide (s.clk < t + 1000000000)) ++ [s.clk]
      let s := { s with sol := { s.sol with ues := l } }
      if 16 ≤ l.length then (s.record 2 0 0 0x0303 n).leaveService 1 else s

/-- CELL_TIME_MATCH (06 R162); `ecc` lists the cells read whose code finds an error, and whether it cannot be corrected. -/
def execCellTimeMatch (ecc : List (Nat × Bool)) (s : State) : Host.Outcome State Fault Refusal :=
  due s.on s (ecc.foldl (fun s e => s.cellError e) s).cellTime

/-! ### Telemetry (06 R174) -/

/-- TELEMETRY_SAMPLE: at a count that is a multiple of 1,000 ns, one sample per port, once. -/
def State.telemetry (s : State) : State :=
  let pos := s.sol.telemPos
  let t := (List.range 64).foldl (fun t p =>
    let x := tget s.sol.acc p Sample.init
    let held := (s.port p).rxHeld.foldl (fun n e => n + e.2) 0
    tset t (64 * p + pos) { x with count := s.now % 2 ^ 32, rxHeld := held }) s.sol.telem
  { s with sol := { s.sol with telem := t, telemPos := (pos + 1) % 64, telemAt := some s.now, acc := [] } }

def execTelemetrySample (s : State) : Host.Outcome State Fault Refusal :=
  due (s.on && s.now % 1000 == 0 && s.sol.telemAt != some s.now) s s.telemetry

/-! ### Buffer grants (06 R165) -/

/-- A waiting request for spill buffers is served: in each engine that is short of a segment's accumulators the oldest open
segment spills, and the collective goes on where its own input waited (08 R232). -/
def State.grantSpill (s : State) (tag : Nat) : State :=
  match s.findColl (tag / 4 / 2 ^ 32) (tag / 4 % 2 ^ 32) with
  | none => s.unwait 4 tag
  | some slot =>
    match s.coll slot with
    | none => s.unwait 4 tag
    | some c =>
      let s := s.engines.foldl (fun s k =>
        if segElems (dCfmt c.desc) ≤ s.accFree k then s
        else match s.oldestOpen k slot c.nodes.length 0 with
          | none => s
          | some (sl, ni, g) => (s.spillOne k sl ni g).getD s) s
      (s.unwait 4 tag).progress slot

/-- The first waiting frame of pool 0 that its owner may now store, and that no earlier one of the owner waits before, takes its
cells. -/
def State.grantCells (s : State) : State :=
  let l := tget s.sol.waits 0 []
  match l.find? (fun r => s.mayServe 0 r && (l.find? (fun x => x.owner == r.owner)) == some r) with
  | none => s
  | some r =>
    let s := { s with sol := { s.sol with waits := tset s.sol.waits 0 (l.erase r) } }
    match s.sol.descWait.find? (fun q => q.id == r.tag) with
    | none => s
    | some q =>
      let cells := storeCells q.inp q.frame.vc.toNat q.id (max 1 q.outs.length) q.cells 0 s.sol.cells
      let rest := s.sol.descWait.erase q
      let s := { s with sol := { s.sol with cells := cells } }
      if s.sol.queues.length < 262144 && !rest.any (fun x => x.inp == q.inp && x.frame.vc == q.frame.vc &&
          decide (x.since < q.since)) then
        { s with sol := { s.sol with queues := insertSince q s.sol.queues, descWait := rest } }
      else s

/-- BUFFER_GRANT (06 R165): a freed buffer goes to the oldest waiting request that can take it. -/
def State.bufferGrant (s : State) (pool : Nat) : State :=
  if pool = 0 then s.grantCells
  else match (tget s.sol.waits pool []).find? (fun r => s.mayServe pool r) with
    | none => s
    | some r =>
      let kind := r.tag % 4
      let key := r.tag / 4
      if pool = 3 then
        if kind = 1 then (match s.findColl (key / 2 ^ 32) (key % 2 ^ 32) with
          | some slot =>
            -- the waiting segment takes its pages as it goes to the root
            s.progress slot
          | none => s.unwait 3 r.tag)
        else if s.pwt.upd.any (fun u => waitTag u.ctx u.cid 2 == r.tag) then s.tryPages
        else if s.pwt.fetches.contains (key / 2 ^ 32, key % 2 ^ 32) then s.fetchPages (key / 2 ^ 32) (key % 2 ^ 32)
        else s.unwait 3 r.tag
      else if pool = 4 && kind = 3 then s.grantSpill r.tag
      else if pool = 1 && kind = 2 then (match s.findColl (key / 2 ^ 32) (key % 2 ^ 32) with
        | some slot => (s.unwait 1 r.tag).progress slot
        | none => s.unwait 1 r.tag)
      else if pool = 2 && kind = 1 then (match s.findColl (key / 2 ^ 32) (key % 2 ^ 32) with
        | some slot => s.restage slot r.tag
        | none => s.unwait 2 r.tag)
      else s.unwait pool r.tag

def execBufferGrant (pool : BitVec 3) (s : State) : Host.Outcome State Fault Refusal :=
  due (s.on && decide (pool.toNat < 5)) s (s.bufferGrant pool.toNat)

/-! ### A nanosecond passes -/

/-- A nanosecond passes with no command waiting (assumption log 1): what waited for copies to be delivered looks again (08 R216), the frames without credit are marked (06 R169), the clock and
the count go on, the credit of the shapers follows (07 R192), and at the end of each 51.2 ns every lane that is out of
electrical idle has sent a block. -/
def State.tick (s : State) : State :=
  let b := blockAt s.clk
  let s := if s.on then s.homesTry.markCredit.elapse else s.elapse
  let s := (List.range 64).foldl (fun s p => s.syncShapers p) s
  if blockAt s.clk = b || !s.on then s
  else (List.range 64).foldl (fun s p => if s.sending p then s.portBlock (b + 1) p else s) s

end Sys2Proof.Machine
end

