-- ==== Sys2Proof/Machine/Time.lean ====
section
/-! DEFINITION. Iridium time (spec 04): time messages, master and parents, lock states, PPS, launches and late
notices, the BAR_N barrier, step corrections and epoch switches (with 07 R185, R188 and 14 R407). -/

namespace Sys2Proof.Machine

/-! ### Counts (04 R79, R80) -/

/-- The count at which a flit received now crossed the ball, from the lane circuit that stamps the port (04 R80): less its
receive delay. -/
def State.rxStamp (s : State) (l : Nat) : Count := countOf (s.unitsNow - psUnits (rxDelay l))

/-- A count in units of 2^-16 ns. -/
def cUnits (c : Count) : Int := (c.ns.toNat * 65536 + c.frac.toNat : Nat)

/-- The state with its count set to a number of units. -/
def State.setCount (s : State) (u : Int) : State :=
  { s with irc := { s.irc with count := u.toNat / 65536 % 2 ^ 64, frac := u.toNat % 65536 } }

/-! ### Neighbours (04 R77) -/

/-- Does a port carry time messages: a mesh port, or in hall mode any port to a Fixus? -/
def State.timePort (s : State) (p : Nat) : Bool :=
  s.live p && (s.portPeer p).isSome && (s.meshGroup (p / 4) || s.irc.hall)

/-- The port that carries the time messages to a neighbour: the first of its live ports. -/
def State.timePorts (s : State) : List Nat :=
  [8, 9, 10, 11, 12, 13, 14, 15].filterMap (fun g => (groupPorts g).find? (fun p => s.timePort p))

def State.masterKnown (s : State) : Bool := s.irc.master || s.irc.hops != 0xFF

/-- CANDIDATE (04 R77): the master's address, or while none is known the lowest of this Fixus's own address and every CANDIDATE
received in the last 2 s. -/
def State.candidate (s : State) : Nat :=
  if s.irc.master then s.addr
  else if s.irc.hops != 0xFF then s.irc.masterAddr
  else (s.irc.cands.filter (fun e => decide (s.clk < e.2 + 2000000000))).foldl (fun m e => min m e.1) s.addr

/-- EPOCH_INFO for each context that has an active epoch, to a neighbour that has just reached LOCKED one hop further
from the master (14 R407). -/
def State.sendEpochInfo (s : State) (p : Nat) : State :=
  s.sch.epochs.foldl (fun s r =>
    s.sendCtl p (.epochInfo { ctx := BitVec.ofNat 8 r.ctx, source := BitVec.ofNat 15 s.addr, s := BitVec.ofNat 64 r.s,
                              epoch := BitVec.ofNat 16 r.epoch, len := BitVec.ofNat 14 r.len })) s

/-- What a time message says of the neighbour on a port. A master that has not set its count gives up the role to a
LOCKED neighbour and joins (04 R78). A neighbour one hop further from the master that reads LOCKED for the first time is sent the
epochs (14 R407). -/
def State.hear (s : State) (p : Nat) (m : TimeMsg) : State :=
  let old := tfind s.irc.peers p
  let was := (old.map (fun q => q.locked)).getD false
  let q : Peer := { addr := m.source.toNat, hops := m.hops.toNat, locked := m.locked, candidate := m.candidate.toNat,
                    heard := s.clk, delay := (old.map (fun q => q.delay)).getD 0 }
  let unset := s.irc.state == .free || (s.irc.state == .acquire && s.irc.ppsSecond.isSome)
  let yield_ := s.irc.master && unset && m.locked
  let i := s.irc
  let s1 : State := { s with irc := { i with
    peers := tset i.peers p q, noLockedAt := if m.locked then s.clk else i.noLockedAt, master := i.master && !yield_,
    hops := if yield_ then 0xFF else i.hops, state := if yield_ then .free else i.state,
    ppsSecond := if yield_ then none else i.ppsSecond, gone := i.gone.filter (· != q.addr),
    cands := tset (i.cands.filter (fun e => decide (s.clk < e.2 + 2000000000))) q.candidate s.clk } }
  let s1 := s1.reparent
  if m.locked && !was && m.hops.toNat == s1.irc.hops + 1 then s1.sendEpochInfo p else s1

/-- The time message fields of this Fixus. -/
def State.timeMsg (s : State) (seq : BitVec 16) (t1 t2 t3 : Count) : TimeMsg :=
  { locked := s.irc.state == .locked, master := s.irc.master, hall := s.irc.hall, seq := seq,
    hops := BitVec.ofNat 8 s.irc.hops, source := BitVec.ofNat 15 s.addr, t1 := t1, t2 := t2, t3 := t3,
    candidate := BitVec.ofNat 15 s.candidate }

def noCount : Count := { ns := 0, frac := 0 }

/-- TIME_REQ_SEND (04 R79): every 16,384 ns, to each neighbour. T1 is stamped as the flit leaves (R80). -/
def State.sendTimeReqs (s : State) : State :=
  s.timePorts.foldl (fun s p =>
    let q := s.irc.reqSeq + 1
    let s := { s with irc := { s.irc with reqSeq := q } }
    s.sendCtl p (.timeReq (s.timeMsg q noCount noCount noCount))) s

def execTimeReqSend (s : State) : Host.Outcome State Fault Refusal :=
  due (s.on && s.irc.state != .fault && s.clk % 16384 == 0) s s.sendTimeReqs

/-- TIME_REQ (04 R79): answered with T2, and T3 as the answer leaves (R80). -/
def execTimeReq (p : BitVec 6) (m : TimeMsg) (s : State) : Host.Outcome State Fault Refusal :=
  let n := p.toNat
  let s1 := s.hear n m
  let s1 := s1.sendCtl n (.timeResp (s1.timeMsg m.seq m.t1 (s.rxStamp (s.stampRxLane n)) noCount))
  due (s.on && s.irc.state != .fault && s.timePort n) s s1

/-! ### Lock states (04 R81, R84, R85, R89) -/

/-- Time FAULT (04 R85): class F record 0x0202, LEAVE with reason 2, out of service. The collectives of every context that
is not FREE end ABORTED 20,000 ns on, as at an abort count (14 R397): assumption log 122. BAR_N floats (R99). -/
def State.timeFault (s : State) (offset : Nat) : State :=
  let s : State := { s with
    irc := { s.irc with state := .fault }, pins := { s.pins with barLow := false, barFor := none },
    ctxs := tmap s.ctxs (fun _ c => if c.st == .free then c else { c with aborts := (noteAbort c.aborts s.now s.addr false).1 }) }
  (s.record 2 0 0 0x0202 offset).leaveService 2

/-- LOCKED: from here BAR_N is held low while idle (04 R98, R99), unless it is released for a barrier. -/
def State.lockNow (s : State) : State :=
  { s with irc := { s.irc with state := .locked }, pins := { s.pins with barLow := s.pins.barLow || s.pins.barFor.isNone } }

/-- Does this Fixus take part in barriers and accept launches: LOCKED or HOLDOVER (04 R84, R99)? -/
def State.timeGood (s : State) : Bool := s.irc.state == .locked || s.irc.state == .holdover

/-- The mean of the last 8 offsets, once there are 8, rounded down: the spec gives no rounding (assumption log 60). -/
def meanOf (l : List Int) : Option Int := if 8 ≤ l.length then some (l.foldl (· + ·) 0 / 8) else none

def absLe (x : Int) (b : Nat) : Bool := decide (x.natAbs ≤ b)

/-- A valid exchange with the parent, offset θ in units of 2^-16 ns. In hall mode the state is ACQUIRE from the first of them, as
Table 4.6 has it, though R75 lets STATE read FREE until the PPS edge sets the count: DESIGN CHOICE (assumption log 154). -/
def State.exchange (s : State) (th : Int) (m : TimeMsg) : State :=
  let offs := (s.irc.offsets ++ [th]).drop (s.irc.offsets.length + 1 - 8)
  let since := max 1 (s.clk - s.irc.lastExch)
  let s1 := { s with irc := { s.irc with offsets := offs, lastExch := s.clk, slew := th, rate := th, rateOver := since } }
  let info := (BitVec.ofInt 32 th).toNat
  let trimBad := s.irc.hall && s.irc.ppsSeen && !absLe (s.irc.trim - th) 209715
  match s.irc.state with
  | .free =>
    if s.irc.hall then
      { s with irc := { s.irc with state := .acquire, offsets := [], lastExch := s.clk,
                                   ppsSecond := some ((m.t3.ns.toNat / 1000000000 + 1) * 1000000000) } }
    else
      let s := s.setCount (s.unitsNow - th)
      { s with irc := { s.irc with state := .acquire, offsets := [], lastExch := s.clk, slew := 0 } }
  | .acquire =>
    if s.irc.hall && s.irc.ppsSecond.isSome then
      { s with irc := { s.irc with lastExch := s.clk,
                                   ppsSecond := some ((m.t3.ns.toNat / 1000000000 + 1) * 1000000000) } }
    else if trimBad then s1.timeFault info
    else match meanOf offs with
      | some mu => if absLe mu 16384 then s1.lockNow else s1
      | none => s1
  | .locked =>
    if trimBad then s1.timeFault info
    else match meanOf offs with
      | some mu => if absLe mu 32768 then s1 else s1.timeFault info
      | none => s1
  | .holdover =>
    if absLe th 32768 && !trimBad then s1.lockNow else s1.timeFault info
  | .fault => s

/-- TIME_RESP (04 R81). T4 is the count of receipt, from the lane that stamps what arrives (R80, R82). Halves of
a unit are taken downward. -/
def execTimeResp (p : BitVec 6) (m : TimeMsg) (s : State) : Host.Outcome State Fault Refusal :=
  let n := p.toNat
  match tfind s.irc.reqs n with
  | none => .next s
  | some r =>
    if !s.on || s.irc.state == .fault || r.seq != m.seq then .next s
    else
      let s := { s with irc := { s.irc with reqs := tdel s.irc.reqs n } }
      let s := s.hear n m
      let t4u := cUnits (s.rxStamp (s.stampRxLane n))
      let th := ((t4u - cUnits m.t3) - (cUnits m.t2 - r.t1)) / 2
      let d := ((t4u - r.t1) - (cUnits m.t3 - cUnits m.t2)) / 2
      let s := { s with irc := { s.irc with peers := s.irc.peers.map (fun e => if e.1 = n then (n, { e.2 with delay := d }) else e) } }
      if !s.irc.master && m.source.toNat == s.irc.parent && s.irc.hops != 0xFF && m.locked && m.hops != 0xFF then
        .next (s.exchange th m)
      else .next s

/-- MASTER_ELECTION (04 R77): a neighbour not heard for 2 s counts no more, and after 2 s with no master known the lowest candidate is
master. One that has left the start state elects itself only when the master it knew has left service (04 R78), as its own links or
an abort notice show. DESIGN CHOICE (assumption log 155): the spec names no other way to learn it. -/
def execMasterElection (s0 : State) : Host.Outcome State Fault Refusal :=
  let s := s0.reparent
  let start := s.irc.state == .free
  let lostMaster := (s.irc.state == .acquire || s.timeGood) && (s.flt.lost ++ s.irc.gone).contains s.irc.masterAddr
  let s1 := { s with irc := { s.irc with master := true, hops := 0, parent := 0, masterAddr := s.addr, slew := 0 } }
  due (s.on && s.brass && s.irc.state != .fault && !s.masterKnown && decide (s.irc.noMasterAt + 2000000000 ≤ s.clk) && s.candidate == s.addr &&
      (start || lostMaster)) s
    (if start || (s.irc.state == .acquire && s.irc.ppsSecond.isSome) then s1 else s1.lockNow)

/-- SELF_START (04 R78): a master with no LOCKED neighbour for 2 s starts from zero in cell mode, or from 0 at the next
PPS edge in hall mode. Its own offset being zero, it is LOCKED at once. -/
def execSelfStart (s : State) : Host.Outcome State Fault Refusal :=
  let s1 := if s.irc.hall then { s with irc := { s.irc with state := .acquire, ppsSecond := some 0 } }
    else (s.setCount 0).lockNow
  due (s.on && s.irc.master && s.irc.state == .free && decide (s.irc.noLockedAt + 2000000000 ≤ s.clk)) s s1

/-- PPS_IN (04 R88): a reference edge that takes PPS_IN high in hall mode. -/
def execPpsIn (s : State) : Host.Outcome State Fault Refusal :=
  let s1 := match s.irc.ppsSecond with
    | some n => { s with irc := { s.irc with count := n % 2 ^ 64, frac := 0, ppsSecond := none, offsets := [], slew := 0 } }
    | none => s
  let s1 := { s1 with irc := { s1.irc with ppsSeen := true, ppsCap := BitVec.ofNat 32 s1.irc.count } }
  due (s.on && s.irc.hall) s
    (if s1.irc.master && s1.irc.state == .acquire then s1.lockNow else s1)

/-- PPS_OUT (04 Table 4.3): a 1,000 ns pulse at each whole second, when enabled. -/
def execPpsOut (s : State) : Host.Outcome State Fault Refusal :=
  due (s.on && bit (s.cfgAt (aIrc + 0x18)).toNat 1 && s.now % 1000000000 == 0) s
    { s with pins := { s.pins with ppsOutAt := some s.clk } }

/-- HOLDOVER_ENTRY (04 Table 4.6): 100 µs with no valid exchange with a parent. -/
def execHoldoverEntry (s : State) : Host.Outcome State Fault Refusal :=
  let s1 := { s with irc := { s.irc with state := .holdover, holdAt := s.clk, rateAcc := 0 } }
  due (s.on && s.irc.state == .locked && !s.irc.master && decide (s.irc.lastExch + 100000 ≤ s.clk)) s
    ((s1.record 0 0 0 0x0201 0).bump (aIrc + 0x24) 1)

/-- HOLDOVER_EXPIRY (04 Table 4.6): 10 ms in HOLDOVER. -/
def execHoldoverExpiry (s : State) : Host.Outcome State Fault Refusal :=
  due (s.on && s.irc.state == .holdover && decide (s.irc.holdAt + 10000000 ≤ s.clk)) s (s.timeFault 0)

/-! ### Launches (04 R91, R96; 10 R269; 11 R302) -/

/-- Is a stop of a collective due at or before now, which goes before its launch (04 R96)? -/
def State.stopFirst (s : State) (c : Coll) : Bool :=
  (match c.stopAt with
    | some t => decide (t ≤ s.now)
    | none => false) ||
  (s.ctx (dCtx c.desc)).aborts.any (fun e => !e.2.2.2 && decide (e.1 + 20000 ≤ s.now)) ||
  (match (s.ctx (dCtx c.desc)).stopD with
    | some d => decide (d + 20000 ≤ s.now)
    | none => false)

/-- Is an epoch switch due at or before now, which goes before every launch (04 R96)? -/
def State.switchFirst (s : State) : Bool := s.sch.arms.any (fun a => a.decided && decide (a.s ≤ s.now))

/-- This Fixus starts its part: a FETCH and a kernel that reads W take the version committed now; a kernel loses the parts that poisoned
pages take from it. -/
def State.startColl (s : State) (slot : Nat) (c : Coll) : State :=
  let d := c.desc
  let t := s.tensor (dCtx d) (dTensor d)
  let root := s.iAmRoot d
  let c := { c with launched := true }
  let c := if root && (dKind d == kFetch || readsW d) then
      { c with wImage := (t.map (fun t => t.w)).getD [], frozenVer := (t.map (fun t => t.ver.version)).getD 0 }
    else c
  let s := s.setColl slot c
  let s := if root && dKind d == kFetch then
      { s with pwt := { s.pwt with fetches := s.pwt.fetches ++ [(dCtx d, dId d)] } }.fetchPages (dCtx d) (dId d)
    else s
  (s.hitPoison slot).progress slot

/-- LAUNCH (04 R91): every accepted collective whose L has come, in the order of 08 R210. -/
def State.launchDue (s : State) : State :=
  (inOrder (fun (e : Nat × Coll) => e.2.desc) s.slots).foldl (fun s e =>
    match s.coll e.1 with
    | some c =>
      if !c.launched && c.heldAt.isNone && decide (c.launch ≤ s.now) && !s.stopFirst c then s.startColl e.1 c else s
    | none => s) s

def execLaunch (s : State) : Host.Outcome State Fault Refusal :=
  due (s.on && !s.switchFirst && s.timeGood) s s.launchDue

/-! ### Late launches (04 R93, R94) -/

/-- A late-launch event noted: the smallest detection count for a COLLECTIVE_ID and LAUNCH; true when it is new or
smaller. -/
def noteLateIn (l : List ((Nat × Nat) × Nat)) (k : Nat × Nat) (d : Nat) : List ((Nat × Nat) × Nat) × Bool :=
  match l.find? (fun e => e.1 == k) with
  | none => (l ++ [(k, d)], true)
  | some e => if d < e.2 then (l.map (fun x => if x = e then (k, d) else x), true) else (l, false)

/-- The stop count of a LATE_NOTICE set on the collective with its COLLECTIVE_ID and LAUNCH, in its slot or in the launch
queue (04 R94, 08 R212). -/
def State.setStop (s : State) (ctx cid launch t : Nat) : State :=
  let hit (c : Coll) : Bool := dCtx c.desc == ctx && dId c.desc == cid && (dLaunch c.desc == launch || c.launch == launch)
  let put (c : Coll) : Coll := { c with stopAt := some (min t (c.stopAt.getD t)) }
  { s with slots := tmap s.slots (fun _ c => if hit c then put c else c),
           queue := s.queue.map (fun c => if hit c then put c else c) }

/-- A notice about a context that is not open here under its generation goes on all the same, once for each event (04 R94; 14
R391). The last 64 are remembered. -/
def State.passOn (s : State) (from_ : Option Nat) (key : List Nat) (d window : Nat) (m : CtlMsg) : State :=
  if s.flt.passed.any (fun e => e.1 == key && decide (e.2 ≤ d) && decide (d ≤ e.2 + window)) then s
  else ({ s with flt := { s.flt with passed := (key, d) :: s.flt.passed.take 63 } }).flood from_ m

/-- A LATE_NOTICE taken: flooded on when new, and the stop count D + 20,000 ns set. -/
def State.takeLate (s : State) (from_ : Option Nat) (n : LateNotice) : State :=
  let x := n.ctx.toNat
  let c := s.ctx x
  if c.st == .free || c.gen != n.gen.toNat then
    s.passOn from_ [0, x, n.gen.toNat, n.collId.toNat, n.launch.toNat] n.d.toNat 20000 (.lateNotice n)
  else
    let (l, new_) := noteLateIn c.lates (n.collId.toNat, n.launch.toNat) n.d.toNat
    if !new_ then s
    else
      let s := s.setCtx x { c with lates := l }
      (s.flood from_ (.lateNotice n)).setStop x n.collId.toNat n.launch.toNat (n.d.toNat + 20000)

/-- LATE_NOTICE (04 R94); one from an accelerator is flooded as this Fixus's own refusal (R93). -/
def execLateNotice (p : BitVec 6) (n : LateNotice) (s : State) : Host.Outcome State Fault Refusal :=
  let n' := if p.toNat < 32 then { n with source := BitVec.ofNat 15 s.addr } else n
  due s.on s (s.takeLate (some p.toNat) n')

/-- LATE_LAUNCH_STOP (04 R94): every collective whose stop count has come and that is not decided. -/
def State.lateStops (s : State) : State :=
  let isDue (c : Coll) : Bool := match c.stopAt with
    | some t => decide (t ≤ s.now) && !c.isDecided
    | none => false
  let s1 := (s.slots.filter (fun e => isDue e.2)).foldl (fun s e =>
    s.stopSlot e.1 stLateLaunch (e.2.stopAt.getD 0)) s
  (s.queue.filter isDue).foldl (fun s c => s.stopQueued c stLateLaunch (c.stopAt.getD 0)) s1

/-- The stop count of a late-launch event, from the smallest detection count known of it. -/
def State.lateAt (s : State) (d : List Byte) : Nat :=
  ((s.ctx (dCtx d)).lates.find? (fun e => e.1 == (dId d, dLaunch d))).elim 0 (fun e => e.2 + 20000)

/-- The members homed here of a descriptor that this Fixus itself refused as late get their LATE_LAUNCH records at the stop
count too (04 R94, 08 R217). -/
def State.lateRecords (s : State) : State :=
  let due_ := s.lateDescs.filter (fun d => decide (s.lateAt d ≤ s.now))
  let s1 : State := { s with lateDescs := s.lateDescs.filter (fun d => !decide (s.lateAt d ≤ s.now)) }
  due_.foldl (fun s d =>
    if (s.ctx (dCtx d)).st == .free || (s.ctx (dCtx d)).gen != dGen d then s
    else s.writeRecords d (stopRecord d stLateLaunch (s.lateAt d))) s1

def execLateLaunchStop (s : State) : Host.Outcome State Fault Refusal := due (s.on && !s.switchFirst) s s.lateStops.lateRecords

/-! ### The barrier (04 R97 to R101) -/

/-- Is the job block more than one cell? -/
def State.multiCell (s : State) : Bool := let (_, _, w, h) := s.sys.block; decide (1 < w * h)

/-- Sample count B of an arm (04 R102), and of a step correction (04 R100). -/
def State.armB (s : State) (a : Arm) : Nat := a.s - (if s.multiCell then 40000 else 10000)
def stepB (r : StepReq) : Nat := r.c - 10000

/-- Is this Fixus ready for an epoch (04 R101)? -/
def State.epochReady (s : State) (e : Nat) : Bool :=
  s.timeGood &&
  (List.range 64).all (fun p => [0, 1].any (fun t => let x := s.slotTbl p t; x.st == .armed && x.epoch == e)) &&
  (List.range 16).all (fun a => !s.accPresent a || ((tget s.sch.acks a []).contains e && (tget s.sch.acks (a + 16) []).contains e))

/-- Is no context open here? -/
def State.noContext (s : State) : Bool := s.ctxs.all (fun e => e.2.st == .free)

/-- The barriers that are not sampled yet: the sample count B of each, and whether this Fixus is ready for it. -/
def State.openBarriers (s : State) : List (Nat × Bool) :=
  (s.sch.arms.filter (fun a => !a.sampled)).map (fun a => (s.armB a, a.released)) ++
  (s.sch.step.toList.filter (fun r => r.ok.isNone)).map (fun r => (stepB r, r.released))

/-- The barrier that comes first, and whether this Fixus is ready for all that share its B. -/
def State.nextBarrier (s : State) : Option (Nat × Bool) :=
  s.openBarriers.foldl (fun m e => match m with
    | none => some e
    | some x => if e.1 < x.1 then some e else if e.1 = x.1 then some (x.1, x.2 && e.2) else some x) none

/-- BARRIER_RELEASE (04 R98): a Fixus ready for the barrier that comes first releases BAR_N before B − 1,000 ns, and holds it low
again where it is ready no more by then, until B + 1,000 ns. One that is in FAULT or not yet LOCKED takes no part (R99). -/
def State.barRelease (s : State) : State :=
  let arms := s.sch.arms.map (fun a =>
    if !a.sampled && decide (s.now + 1000 < s.armB a) then
      { a with released := s.epochReady a.epoch, ready := s.epochReady a.epoch } else a)
  let step := s.sch.step.map (fun r =>
    if r.ok.isNone && decide (s.now + 1000 < stepB r) then { r with released := s.noContext } else r)
  let s' : State := { s with sch := { s.sch with arms := arms, step := step } }
  let sampled := s.pins.barFor.any (fun b => decide (b ≤ s.now) && decide (s.now < b + 1000))
  if sampled then s' else match s'.nextBarrier with
  | some (b, true) => { s' with pins := { s'.pins with barFor := some b, barLow := false } }
  | _ => { s' with pins := { s'.pins with barFor := none, barLow := true } }

def execBarrierRelease (s : State) : Host.Outcome State Fault Refusal := due (s.brass && s.timeGood) s s.barRelease

/-- EPOCH_CANCEL flooded from this Fixus. -/
def State.floodCancel (s : State) (a : Arm) : State :=
  let m : EpochMsg := { ctx := BitVec.ofNat 8 a.ctx, source := BitVec.ofNat 15 s.addr, s := BitVec.ofNat 64 a.s,
                        epoch := BitVec.ofNat 16 a.epoch, len := 0 }
  ({ s with sch := { s.sch with cancels := s.sch.cancels ++ [(a.ctx, a.epoch, a.s)] } }).flood none (.epochCancel m)

/-- BARRIER_SAMPLE (04 R98, R100, R102): the level of the line at B, low while this Fixus itself holds it low. -/
def State.barSample (s : State) (high : Bool) : State :=
  let hi := high && !s.pins.barLow
  let now (a : Arm) : Bool := !a.sampled && decide (s.armB a ≤ s.now)
  let hit := s.sch.arms.filter now
  let held := (hit.map (fun a => s.armB a) ++ (s.sch.step.toList.filter (fun r => r.ok.isNone)).map stepB).find?
    (fun b => s.pins.barLow && decide (b ≤ s.now))
  let s : State := { s with pins := { s.pins with barFor := held.or s.pins.barFor } }
  let s := { s with sch := { s.sch with arms := s.sch.arms.map (fun a =>
    if now a then { a with sampled := true, cancelled := a.cancelled || !hi } else a) } }
  let s := if !hi && s.multiCell then hit.foldl (fun s a => s.floodCancel a) s else s
  match s.sch.step with
  | none => s
  | some r =>
    if r.ok.isSome || s.now < stepB r then s
    else if hi && r.released then { s with sch := { s.sch with step := some { r with ok := some true } } }
    else ({ s with sch := { s.sch with step := none } }).complete r.cmd rBadState 0 []

def execBarrierSample (high : Bool) (s : State) : Host.Outcome State Fault Refusal := due (s.brass && s.timeGood) s (s.barSample high)

/-- BARRIER_PULL_LOW (04 R98): at B + 1,000 ns of the barrier that the line is released for, or at any time when it is
released for none. Where another barrier follows within that time the line stays released for it. -/
def execBarrierPullLow (s : State) : Host.Outcome State Fault Refusal :=
  let past := match s.pins.barFor with
    | some b => decide (b + 1000 ≤ s.now)
    | none => true
  let next := s.nextBarrier.filter (fun e => e.2 && !s.pins.barLow && decide (e.1 < s.now + 1000))
  let low : State := { s with
    pins := { s.pins with barFor := none, barLow := true },
    sch := { s.sch with arms := s.sch.arms.map (fun a => if a.sampled then a else { a with released := false }),
                        step := s.sch.step.map (fun r => if r.ok.isSome then r else { r with released := false }) } }
  due (s.brass && s.timeGood && past) s (match next with
    | none => low
    | some e => { s with pins := { s.pins with barFor := some e.1 } })

/-- STEP_CORRECTION (04 R100): at C, after a high barrier. -/
def execStepCorrection (s : State) : Host.Outcome State Fault Refusal :=
  match s.sch.step with
  | none => .next s
  | some r =>
    let s1 := { s with irc := { s.irc with count := (s.irc.count + r.delta).toNat % 2 ^ 64 } }
    due (s.brass && r.ok == some true && decide (r.c ≤ s.now)) s
      (({ s1 with sch := { s1.sch with step := none } }).complete r.cmd rOk 0 [])

/-! ### Epoch switches (04 R101 to R105; 07 R188) -/

/-- Every table changed by `f`. -/
def State.mapTbls (s : State) (f : SlotTbl → SlotTbl) : State :=
  { s with sch := { s.sch with tbls := tmap s.sch.tbls (fun _ t => f t) } }

/-- Arms of an epoch with the context and switch count of a message. -/
def sameArm (m : EpochMsg) (a : Arm) : Bool := a.ctx == m.ctx.toNat && a.epoch == m.epoch.toNat && a.s == m.s.toNat

/-- EPOCH_CANCEL (04 R102, R104): up to the decision count S − 10,000 ns it cancels, and one not seen before is flooded on;
after it, class D for the job's contexts, and nothing else. -/
def execEpochCancel (p : BitVec 6) (m : EpochMsg) (s : State) : Host.Outcome State Fault Refusal :=
  let key := (m.ctx.toNat, m.epoch.toNat, m.s.toNat)
  let late := decide (m.s.toNat < s.now + 10000)
  let sL := s.ctxs.foldl (fun s e => if e.2.st == .free then s else s.record 1 1 e.1 0x0203 m.epoch.toNat) s
  let s1 := { s with sch := { s.sch with
    cancels := s.sch.cancels ++ [key],
    arms := s.sch.arms.map (fun a => if sameArm m a && !a.decided then { a with cancelled := true } else a) } }
  due s.on s (if late then sL else if s.sch.cancels.contains key then s else s1.flood (some p.toNat) (.epochCancel m))

/-- The new epoch's descriptors of a cancelled switch end CANCELLED at the decision count (04 R105). -/
def State.cancelEpoch (s : State) (a : Arm) : State :=
  let hit (c : Coll) : Bool := dCtx c.desc == a.ctx && dSched c.desc && dEpoch c.desc == a.epoch && decide (a.s ≤ dLaunch c.desc) &&
    !c.isDecided
  let s := (s.slots.filter (fun e => hit e.2)).foldl (fun s e => s.stopSlot e.1 stCancelled (a.s - 10000)) s
  (s.queue.filter hit).foldl (fun s c => s.stopQueued c stCancelled (a.s - 10000)) s

/-- EPOCH_GO to every present accelerator (04 R103). -/
def State.sendGo (s : State) (a : Arm) : State :=
  (List.range 16).foldl (fun s q => match s.kth (accPorts q) 0 with
    | some p => s.sendCtl p (.epochGo { ctx := BitVec.ofNat 8 a.ctx, source := BitVec.ofNat 15 s.addr,
                                        s := BitVec.ofNat 64 a.s, epoch := BitVec.ofNat 16 a.epoch, len := 0 })
    | none => s) s

/-- The arm command of a cancelled switch completes (04 R105). -/
def State.endArm (s : State) (a : Arm) (result : Nat) : State :=
  let s := { s with sch := { s.sch with arms := s.sch.arms.filter (· != a) } }
  match a.cmd with
  | some c => s.complete c result 0 []
  | none => s

/-- One decision (04 R102). -/
def State.decideArm (s : State) (a : Arm) : State :=
  if a.sampled && !a.cancelled && a.released then
    ({ s with sch := { s.sch with arms := s.sch.arms.map (fun x => if x = a then { a with decided := true } else x) } }).sendGo a
  else
    let s := s.mapTbls (fun t => if t.st == .armed && t.epoch == a.epoch then { t with st := .ready } else t)
    (s.cancelEpoch a).endArm a stCancelled

/-- EPOCH_DECISION (04 R102): at S − 10,000 ns. -/
def execEpochDecision (s : State) : Host.Outcome State Fault Refusal :=
  due s.brass s ((s.sch.arms.filter (fun a => !a.decided && decide (a.s ≤ s.now + 10000))).foldl (fun s a => s.decideArm a) s)

/-- The tables of an epoch become ACTIVE with slot 0 at `start`, and those they replace READY (07 R188). -/
def State.activate (s : State) (epoch start : Nat) : State :=
  let due (k : Nat) : Bool := let t := tget s.sch.tbls k SlotTbl.init; t.st == .armed && t.epoch == epoch
  let next (k : Nat) (t : SlotTbl) : SlotTbl :=
    if due k then { t with st := .active, start := start }
    else if t.st == .active && due (k / 2 * 2 + (1 - k % 2)) then { t with st := .ready } else t
  let s : State := { s with sch := { s.sch with tbls := tmap s.sch.tbls next } }
  { s with sch := { s.sch with slot := (List.range 64).filterMap (fun p =>
    (s.activeTbl p).map (fun t => (p, slotAt t s.now))) } }

/-- One switch at S (04 R102, 07 R188). -/
def State.switchArm (s : State) (a : Arm) : State :=
  let len := ((s.sch.tbls.map Prod.snd).find? (fun t => t.st == .armed && t.epoch == a.epoch)).elim 0 (fun t => t.len)
  let s := s.activate a.epoch a.s
  let r : EpochRec := { ctx := a.ctx, epoch := a.epoch, s := a.s, len := len, joining := false }
  let es : List EpochRec := s.sch.epochs.filter (fun (x : EpochRec) => x.ctx != a.ctx) ++ [r]
  let s : State := { s with sch := { s.sch with epochs := es } }
  s.endArm a rOk

/-- EPOCH_SWITCH (07 R188). -/
def execEpochSwitch (s : State) : Host.Outcome State Fault Refusal :=
  due s.on s ((s.sch.arms.filter (fun a => a.decided && decide (a.s ≤ s.now))).foldl (fun s a => s.switchArm a) s)

/-- EPOCH_INFO (14 R407): the epoch is known, and tables that hold it become ARMED. -/
def execEpochInfo (_p : BitVec 6) (m : EpochMsg) (s : State) : Host.Outcome State Fault Refusal :=
  let r : EpochRec := { ctx := m.ctx.toNat, epoch := m.epoch.toNat, s := m.s.toNat, len := m.len.toNat, joining := true }
  let known := s.sch.epochs.any (fun x => x.ctx == r.ctx && x.epoch == r.epoch && x.s == r.s)
  let es : List EpochRec := s.sch.epochs.filter (fun (x : EpochRec) => x.ctx != r.ctx) ++ [r]
  let s1 : State := { s with sch := { s.sch with epochs := es } }
  due (s.on && !known) s
    (s1.mapTbls (fun (t : SlotTbl) => if t.st == .ready && t.epoch == r.epoch then { t with st := TblState.armed } else t))

/-- First count S + k × 64 × LEN at or after `n`. -/
def firstPeriod (s0 len n : Nat) : Nat := if n ≤ s0 then s0 else s0 + cdiv (n - s0) (max 1 (64 * len)) * (64 * len)

/-- EPOCH_JOIN_ACTIVATE (14 R407): the tables a joining Fixus loaded become ACTIVE at the first whole period at least
1,000 ns after the load passed. -/
def State.joinActivate (s : State) (r : EpochRec) : State :=
  let armed := (s.sch.tbls.map Prod.snd).filter (fun t => t.st == .armed && t.epoch == r.epoch)
  let at_ := armed.foldl (fun m t => max m t.at_) 0
  let c := firstPeriod r.s r.len (at_ + 1000)
  if armed.isEmpty || s.now < c then s
  else
    let s := s.activate r.epoch c
    { s with sch := { s.sch with epochs := s.sch.epochs.map (fun x => if x = r then { r with joining := false } else x) } }

def execEpochJoinActivate (s : State) : Host.Outcome State Fault Refusal :=
  due s.on s ((s.sch.epochs.filter (fun r => r.joining)).foldl (fun s r => s.joinActivate r) s)

end Sys2Proof.Machine
end

