-- ==== Sys2Proof/Machine/Fault.lean ====
section
/-! DEFINITION. The fault collector's timers and pin (14 R380 to R386), notices on VC1 (R390, R391), stopping a
context (R392 to R395, R461), a lost Fixus and held collectives (R396 to R402). -/

namespace Sys2Proof.Machine

/-! ### Accepting a descriptor (08 R215) -/

/-- The descriptor is forwarded on VC0 to each member accelerator homed here (08 R215). -/
def State.fwdDesc (s : State) (bytes d : List Byte) : State :=
  ((s.myMembers d).filter (fun e => s.accPresent (addrUnit e.2))).foldl (fun s e =>
    s.sendMgmt e.2 0xA false 0 0 0 0 bytes) s

/-- The count at which a late-launch event stops a collective, if a notice of one has come (04 R94). -/
def State.lateStop (s : State) (d : List Byte) (launch : Nat) : Option Nat :=
  ((s.ctx (dCtx d)).lates.filter (fun e => e.1.1 == dId d && (e.1.2 == dLaunch d || e.1.2 == launch))).foldl
    (fun m e => some (min (e.2 + 20000) (m.getD (e.2 + 20000)))) none

/-- A collective just accepted, with nothing received. A late-launch notice that came before it stops it too. -/
def State.newColl (s : State) (d : List Byte) (cmd : Cmd) (launch : Nat) (unscheduled : Bool) : Coll :=
  let k := dKind d
  let ring := s.algoRing d
  { desc := d, cmd := cmd, launch := launch, unscheduled := unscheduled, launched := false, heldAt := none,
    ring := ring, nodes := if k == kFetch || isKernel k then [] else s.planNodes (s.membersOf d) (s.rootOf d) ring,
    root := none, decided := none, record := none, ret := none, home := none, kern := none, frozenVer := 0,
    stopAt := s.lateStop d launch, wImage := [] }

/-! ### Drain of a context (14 R394) -/

/-- Frames of a context that Solder holds. -/
def ofCtx (x : Nat) (f : Frame) : Bool := f.hdr.ftype.toNat != ftMgmt && f.hdr.ctx.toNat == x

/-- Pages that a drain waits for: working pages, images, spills and old versions of the context. -/
def drainPage (x : Nat) : Holder → Bool
  | .work c _ _ => c == x
  | .image c _ => c == x
  | .spill c _ _ _ _ => c == x
  | .old c _ _ => c == x
  | _ => false

/-- FLT_CTX_DRAIN: slots, queue entries, segments, frames, flow entries, pages and transfers of the context. -/
def State.ctxDrain (s : State) (x : Nat) : Nat :=
  let mine := (s.slots.map Prod.snd).filter (fun c => dCtx c.desc == x)
  mine.length + (s.queue.filter (fun c => dCtx c.desc == x)).length +
  mine.foldl (fun n c => c.nodes.foldl (fun n k => n + (k.segs.filter (fun g => !g.2.done)).length) n) 0 +
  (s.sol.queues.filter (fun q => ofCtx x q.frame)).length + (s.sol.descWait.filter (fun q => ofCtx x q.frame)).length +
  (List.range 64).foldl (fun n p => n + ((s.port p).egress.filter (fun e => ofCtx x e.frame)).length) 0 +
  (s.sol.flows.filter (fun f => f.2.ctx == x)).length +
  (s.ing.pages.filter (fun p => drainPage x p.holder)).length +
  (s.xfers.filter (fun t => t.2.target != .staging && t.2.ctx == x)).length

/-- The flow entries of a context are freed; the frames their resequencers hold are dropped as OLD_GEN, those that wait at the source
go with them (06 R172; 14 R393 step 3). -/
def State.freeFlows (s : State) (x : Nat) : State :=
  let hit := s.sol.flows.filter (fun e => e.2.ctx == x)
  let s := hit.foldl (fun s e =>
    (e.2.waiting.foldl (fun s h => s.discard h.2) (e.2.held.foldl (fun s h => s.discard h.2) s)).bump (aSld + 0x54)
      e.2.held.length) s
  { s with sol := { s.sol with flows := s.sol.flows.filter (fun e => e.2.ctx != x) } }

/-- Tensor-array and region transfers of a context end, and their new pages return (13 R363). -/
def State.endXfers (s : State) (x : Nat) : State :=
  let hit := (s.xfers.filter (fun t => t.2.target != .staging && t.2.ctx == x)).map Prod.fst
  let s := s.freePages (fun h => match h with
    | .xfer k => hit.contains k
    | _ => false)
  { s with xfers := s.xfers.filter (fun t => !hit.contains t.1) }

/-- The plan, state, regions and groups of a context are freed (14 R395, R461). -/
def State.freePlan (s : State) (x : Nat) : State :=
  let s := s.freePages (fun h => match h with
    | .state c _ _ => c == x
    | .old c _ _ => c == x
    | .region c _ => c == x
    | _ => false)
  let s := { s with tensors := s.tensors.filter (fun e => e.1 / 65536 != x),
                    regions := s.regions.filter (fun e => e.1 / 65536 != x),
                    groups := s.groups.filter (fun e => e.2.ctx != x) }
  s.setCtx x { s.ctx x with planned := false, twin := false, planFenced := false }

/-- The commands that wait for a context to be FREE complete (14 R394). -/
def State.endWaiting (s : State) (x : Nat) : State :=
  let l := (s.ctx x).waiting
  let s := s.setCtx x { s.ctx x with waiting := [] }
  l.foldl (fun s c => s.complete c rOk 0 []) s

/-- A class D record of a context closes when the context reaches FREE (14 Table 14.1). -/
def State.closeCtxRec (s : State) (x : Nat) : State :=
  let close (r : Rec) : Rec := if r.dkind = 1 && r.dindex = x && r.cls = 1 && r.st != 2 then { r with st := 2 } else r
  { s with flt := { s.flt with recs := tmap s.flt.recs (fun _ r => close r),
                               timers := s.flt.timers.filter (fun t => t.1 != x) } }

/-! ### Context stops (14 R392, R393, R461) -/

/-- A stop of context `x` with detection count `d` noted; true when it is new, earlier, or turns a reset into a
teardown (14 R391, R395), so that the notice goes on. -/
def State.noteStop (s : State) (x d : Nat) (teardown : Bool) : State × Bool :=
  let c := s.ctx x
  let go : Bool := match c.stopD with
    | none => c.st != .free || teardown
    | some e => (decide (d < e) && !c.stopDone) || (teardown && !c.teardown)
  if !go then (s, false)
  else
    (s.setCtx x { c with
      st := if c.st == .opened then .draining else c.st,
      stopD := some (match c.stopD with
        | some e => min d e
        | none => d),
      teardown := c.teardown || teardown }, true)

/-- A stop begins here (14 R392): CTX_STOP flooded with D := N. -/
def State.beginStop (s : State) (x : Nat) (teardown escalated : Bool) : State :=
  let (s, new_) := s.noteStop x s.now teardown
  if !new_ then s
  else
    s.flood none (.ctxStop { ctx := BitVec.ofNat 8 x, gen := BitVec.ofNat 16 (s.ctx x).gen,
                             source := BitVec.ofNat 15 s.addr, d := BitVec.ofNat 64 s.now, lost := 0,
                             flags := BitVec.ofNat 2 (b2n (!teardown) + 2 * b2n escalated) })

/-- Does a notice concern a context that is open or draining here under its generation? -/
def State.concerns (s : State) (n : Notice) : Bool :=
  (s.ctx n.ctx.toNat).st != .free && (s.ctx n.ctx.toNat).gen == n.gen.toNat

/-- CTX_STOP (14 R391, R392): the context drains, and the notice goes on. A teardown of a context that is FREE here is noted too
(R461). -/
def execCtxStop (p : BitVec 6) (n : Notice) (s : State) : Host.Outcome State Fault Refusal :=
  let x := n.ctx.toNat
  let teardown := !n.flags.getLsbD 0
  let (s1, new_) := s.noteStop x n.d.toNat teardown
  due s.on s
    (if s.concerns n || ((s.ctx x).st == .free && teardown) then (if new_ then s1.flood (some p.toNat) (.ctxStop n) else s)
     else s.passOn (some p.toNat) [1, x, n.gen.toNat, n.flags.toNat] n.d.toNat 20000 (.ctxStop n))

/-! ### Abort counts (14 R396, R397) -/

/-- ABORT_NOTICE (14 R391): flooded on, and the abort count D + 20,000 ns noted. -/
def execAbortNotice (p : BitVec 6) (n : Notice) (s : State) : Host.Outcome State Fault Refusal :=
  let x := n.ctx.toNat
  let c := s.ctx x
  let (l, new_) := noteAbort c.aborts n.d.toNat n.lost.toNat (n.flags.getLsbD 0)
  due s.on s
    (if !s.concerns n then
      s.passOn (some p.toNat) [2, x, n.gen.toNat, n.lost.toNat, n.flags.toNat] n.d.toNat 20000 (.abortNotice n)
     else if new_ then (s.setCtx x { c with aborts := l }).flood (some p.toNat) (.abortNotice n)
     else s)

/-- FLT_HOLD_LIMIT in ns. -/
def State.holdLimit (s : State) : Nat := 1000000 * (s.cfgAt (aFlt + 0xC)).toNat

/-- A collective is held at A: its slot and its place stay, and all else of it is given up (14 R399). -/
def State.holdSlot (s : State) (slot a : Nat) : State :=
  match s.coll slot with
  | none => s
  | some c =>
    let s := (s.purge (ofColl c.desc)).clearColl c
    s.setColl slot { s.newColl c.desc c.cmd c.launch c.unscheduled with heldAt := some a }

/-- Was a collective decided before the abort count: as this Fixus knows, or by its root elsewhere? `dec` names by context and
COLLECTIVE_ID those of which the latter holds, which no message tells a home in time (14 R397): assumption log 45. -/
def Coll.decidedIn (c : Coll) (dec : List (Nat × Nat)) : Bool := c.isDecided || dec.contains (dCtx c.desc, dId c.desc)

/-- The decisions of a list that were made elsewhere: a root knows its own. -/
def State.decidedElse (s : State) (dec : List (Nat × Nat)) : List (Nat × Nat) :=
  dec.filter (fun k => !s.slots.any (fun e => dCtx e.2.desc == k.1 && dId e.2.desc == k.2 && s.iAmRoot e.2.desc))

/-- The collectives of a context at an abort count that ends them with a status (14 Table 14.6). -/
def State.abortColls (s : State) (dec : List (Nat × Nat)) (x a lost status : Nat) : State :=
  let s := s.slots.foldl (fun s e =>
    if dCtx e.2.desc != x then s
    else if !e.2.decidedIn dec then s.stopSlot e.1 status a
    else if s.rootOf e.2.desc = lost then s.stopSlot e.1 stFenced a
    else s) s
  (s.queue.filter (fun c => dCtx c.desc == x)).foldl (fun s c => s.stopQueued c status a) s

/-- The collectives of a twin context are held at A. -/
def State.holdColls (s : State) (dec : List (Nat × Nat)) (x a : Nat) : State :=
  let s := s.slots.foldl (fun s e =>
    if dCtx e.2.desc == x && !e.2.decidedIn dec then s.holdSlot e.1 a else s) s
  { s with queue := s.queue.map (fun c => if dCtx c.desc == x then { c with heldAt := some a } else c) }

/-! ### RESUME (14 R400, R402) -/

/-- A held descriptor as it is forwarded again: LAUNCH := U, SCHED and EPOCH zero. -/
def resumeDesc (d : List Byte) (u : Nat) : List Byte :=
  let d := putBytes d 8 (toLe 8 u)
  let d := putBytes d 26 [(d.getD 26 0) &&& 0xFE]
  putBytes d 28 [0, 0]

/-- Held collectives of a context, in R210 order. -/
def State.heldOf (s : State) (x : Nat) : List (List Byte) :=
  (((s.slots.map Prod.snd) ++ s.queue).filter (fun c => dCtx c.desc == x && c.heldAt.isSome)).map (fun c => c.desc)
    |>.mergeSort (fun a b => r210 a b)

/-- A RESUME count acted on: the lost Fixus is present again, owner from the count at which it flooded RESUME (10 R283), and every held
descriptor is forwarded. -/
def State.takeResume (s : State) (x u lost : Nat) : State :=
  let c := s.ctx x
  let s := s.ownerBack lost (u - 40000)
  let first : Bool := match c.resumeU with
    | none => true
    | some v => decide (u < v)
  let s := s.setCtx x { c with resumes := c.resumes ++ [(u, lost)], resumeU := if first then some u else c.resumeU }
  if first then (s.heldOf x).foldl (fun s d => s.fwdDesc (resumeDesc d u) d) s else s

/-- RESUME flooded from this Fixus with U := N + 40,000 ns. -/
def State.floodResume (s : State) (x : Nat) : State :=
  let u := s.now + 40000
  let s := s.flood none (.resume { ctx := BitVec.ofNat 8 x, gen := BitVec.ofNat 16 (s.ctx x).gen,
                                   source := BitVec.ofNat 15 s.addr, d := BitVec.ofNat 64 u,
                                   lost := BitVec.ofNat 15 s.addr, flags := 0 })
  s.takeResume x u s.addr

/-- RESUME (14 R391, R400): the Fixus it names is back, whether or not the context is open here. -/
def execResume (p : BitVec 6) (n : Notice) (s : State) : Host.Outcome State Fault Refusal :=
  let x := n.ctx.toNat
  let c := s.ctx x
  let s1 := s.flood (some p.toNat) (.resume n)
  let back := s.ownerBack n.lost.toNat (n.d.toNat - 40000)
  due s.on s
    (if !s.concerns n then back.passOn (some p.toNat) [3, x, n.gen.toNat, n.lost.toNat] n.d.toNat 0 (.resume n)
     else if c.resumes.contains (n.d.toNat, n.lost.toNat) then s
     else s1.takeResume x n.d.toNat n.lost.toNat)

/-- One abort event of context `x` takes effect (14 R397, R398; R402 where this Fixus is the one named). A stop of
the context that falls earlier governs, and one at the same count makes the collectives end ABORTED (R413). -/
def State.abortEvent (s : State) (dec : List (Nat × Nat)) (x : Nat) (e : Nat × Nat × Bool × Bool) : State :=
  let c := s.ctx x
  let (d, lost, hold, _) := e
  let a := d + 20000
  let s := s.setCtx x { c with aborts := c.aborts.map (fun y => if y = e then (d, lost, hold, true) else y) }
  let s := s.markLost lost
  let stopBefore : Bool := match c.stopD with
    | some t => decide (t < d)
    | none => false
  let stopSame := c.stopD == some d
  let s :=
    if stopBefore then s
    else if stopSame || !hold then s.abortColls dec x a lost stAborted
    else
      let c := s.ctx x
      let s := if c.holdUntil.isSome then s else s.holdColls dec x a
      let s := s.setCtx x { s.ctx x with holdUntil := some (c.holdUntil.getD (a + s.holdLimit)),
                                         holdLost := c.holdLost ++ [lost], heldSent := false }
      if lost = s.addr then s.floodResume x else s
  -- returns no longer wait for the lost Fixus (14 R398)
  s.slots.foldl (fun s e => s.rootTry e.1) s

/-- Abort events of a context whose count has come. -/
def State.abortsDue (s : State) (dec : List (Nat × Nat)) (x : Nat) : State :=
  ((s.ctx x).aborts.filter (fun e => !e.2.2.2 && decide (e.1 + 20000 ≤ s.now))).foldl (fun s e => s.abortEvent dec x e) s

/-- ABORT_COUNT (14 R397); `decided` names the collectives, by context and COLLECTIVE_ID, that other Fixus had decided as their roots
before the abort count. -/
def execAbortCount (decided : List (BitVec 8 × BitVec 32)) (s : State) : Host.Outcome State Fault Refusal :=
  let dec := s.decidedElse (decided.map (fun k => (k.1.toNat, k.2.toNat)))
  due (s.on && !s.switchFirst) s (s.ctxs.foldl (fun s e => s.abortsDue dec e.1) s)

/-! ### The stop count and the drain (14 R393 to R395) -/

/-- The stop count of a context: steps 1 to 6 of 14 R393. -/
def State.stopCtx (s : State) (x d : Nat) : State :=
  let a := d + 20000
  let s := s.slots.foldl (fun s e => if dCtx e.2.desc == x then s.stopSlot e.1 stCancelled a else s) s
  let s := (s.queue.filter (fun c => dCtx c.desc == x)).foldl (fun s c => s.stopQueued c stCancelled a) s
  let s := s.setCtx x { s.ctx x with stopDone := true, holdUntil := none, holdLost := [], resumeU := none }
  let s := (s.purge (ofCtx x)).freeFlows x
  (s.freePages (drainPage x)).endXfers x

/-- One context whose stop count has come; one that is FREE here frees what a teardown frees (14 R461). -/
def State.stopDue (s : State) (x : Nat) : State :=
  let c := s.ctx x
  match c.stopD with
  | none => s
  | some d =>
    if c.stopDone || s.now < d + 20000 then s
    else if c.st == .free then
      let s := if c.teardown then s.freePlan x else s
      (s.setCtx x { s.ctx x with stopD := none, teardown := false }).endWaiting x
    else (s.abortsDue [] x).stopCtx x d

/-- STOP_COUNT (14 R393). -/
def execStopCount (s : State) : Host.Outcome State Fault Refusal :=
  due (s.on && !s.switchFirst) s (s.ctxs.foldl (fun s e => s.stopDue e.1) s)

/-- A drained context becomes FREE (14 R394, R395). -/
def State.drainDone (s : State) (x : Nat) : State :=
  let c := s.ctx x
  if c.st == .draining && c.stopDone && s.ctxDrain x == 0 then
    let s := if c.teardown then s.freePlan x else s
    let k := s.ctx x
    let s := s.setCtx x { Ctx.init with gen := k.gen, planned := k.planned, twin := k.twin, planFenced := k.planFenced,
                                        waiting := k.waiting }
    (s.closeCtxRec x).endWaiting x
  else s

/-- DRAIN_COMPLETE (14 R394). -/
def execDrainComplete (s : State) : Host.Outcome State Fault Refusal :=
  due s.on s (s.ctxs.foldl (fun s e => s.drainDone e.1) s)

/-! ### Held descriptors and the resumed launch (14 R400, R401; 13 R350) -/

/-- The whole set of held descriptors sent to a Fixus of this cell, LAST and the number in the final frame. -/
def State.sendHeld (s : State) (dest : Nat) : State :=
  let l := (s.ctxs.flatMap (fun e => s.heldOf e.1)).mergeSort (fun a b => r210 a b)
  (l.mapIdx (fun i d => (i, d))).foldl (fun s e =>
    s.sendMgmt dest 9 false 0 0 0 (if e.1 + 1 = l.length then 2 ^ 31 + l.length else 0) e.2) s

/-- Is this Fixus the lowest-numbered one of its cell beside the rejoined Fixus? -/
def State.heldSender (s : State) (rejoined : List Nat) : Bool :=
  !rejoined.contains s.addr &&
  (List.range s.pins.sw).all (fun w => rejoined.contains (fixusAddr s.sys.cell w) ||
    s.flt.lost.contains (fixusAddr s.sys.cell w))

/-- HELD_DESC_SEND (14 R400): once no Fixus of the block is out of service. -/
def execHeldDescSend (s : State) : Host.Outcome State Fault Refusal :=
  let cs := s.ctxs.filter (fun e => e.2.holdUntil.isSome && !e.2.heldSent)
  let dests := ((cs.flatMap (fun e => e.2.holdLost)).eraseDups).filter (fun a => addrCell a == s.sys.cell && a != s.addr)
  let s1 : State := { s with ctxs := tmap s.ctxs (fun _ c => if c.holdUntil.isSome then { c with heldSent := true } else c) }
  due (s.brass && s.flt.lost.all (fun a => !s.inBlock a) && !cs.isEmpty && s.heldSender dests) s
    (dests.foldl (fun s a => s.sendHeld a) s1)

/-- A free collective slot; which of the free ones is the device's choice. -/
def State.freeSlot (s : State) : Option (Nat × State) :=
  let l := (List.range 4096).filter (fun i => (tfind s.slots i).isNone)
  let (n, s') := s.free
  (l[n % l.length]?).map (fun i => (i, s'))

/-- Buffers of pool 4 that the launch queue holds: 8,192 descriptors to a buffer. -/
def State.queueBufs (s : State) : Nat := (s.ing.pages.filter (fun p => p.holder == .launchQueue)).length

/-- Room in the launch queue for one more descriptor: in the buffers that it holds, or in one drawn for it (08 R209). -/
def State.queueRoom (s : State) : Option State :=
  if s.queue.length < 8192 * s.queueBufs then some s
  else if s.poolFirst 4 0 then s.drawBufs .launchQueue 1 else none

/-- A held descriptor taken up by the rejoined Fixus, in a slot or, with none free, in the launch queue; it waits while its context is
not open under its generation (14 R399, R400). No command of this Fixus posted it. -/
def State.takeHeld (s : State) (d : List Byte) : State :=
  let c := s.ctx (dCtx d)
  if (s.findColl (dCtx d) (dId d)).isSome || s.queue.any (fun q => dCtx q.desc == dCtx d && dId q.desc == dId d) then s
  else if c.st != .opened || c.gen != dGen d then
    { s with flt := { s.flt with heldDescs := s.flt.heldDescs.filter (· != d) ++ [d] } }
  else
    let cmd : Cmd := { mbx := 64, inst := 0, tag := 0, index := 0, opcode := 0x0201 }
    match s.freeSlot with
    | none => (match s.queueRoom with
      | some s => { s with queue := s.queue ++ [{ s.newColl d cmd (dLaunch d) false with heldAt := some s.now }] }
      | none => { s with flt := { s.flt with heldDescs := s.flt.heldDescs ++ [d] } })
    | some (i, s) => s.setColl i { s.newColl d cmd (dLaunch d) false with heldAt := some s.now }

/-- The held descriptors that waited are taken up where their contexts are open by now. -/
def State.retakeHeld (s : State) : State :=
  s.flt.heldDescs.foldl (fun s d => s.takeHeld d) { s with flt := { s.flt with heldDescs := [] } }

/-- HELD_DESC (13 R350, 14 R400): taken only from a Fixus of the same cell; a set whose number differs from that of
the LAST frame is discarded and asked for again. -/
def State.heldDescIn (s : State) (f : Mgmt) : State :=
  let src := f.src.toNat
  let last := f.arg.getLsbD 31
  let got := s.heldRx ++ [f.payload]
  let s1 :=
    if f.payload.isEmpty then s.sendHeld src
    else if !last then { s with heldRx := got }
    else if got.length = f.arg.toNat % 65536 then got.foldl (fun s d => s.takeHeld d) { s with heldRx := [] }
    else ({ s with heldRx := [] }).sendMgmt src 9 false 0 0 0 0 []
  if addrIsFixus src && addrCell src == s.sys.cell && addrUnit src == 0 && src != s.addr &&
    (f.payload.length == 128 || f.payload.isEmpty) then s1 else s

def execHeldDesc (f : Mgmt) (s : State) : Host.Outcome State Fault Refusal := s.brassFrame 9 f (fun s => s.heldDescIn f)

/-- Has a context collectives that were held while this Fixus was away? -/
def State.heldForMe (s : State) (x : Nat) : Bool :=
  (s.ctx x).holdUntil.isNone && (s.ctx x).resumeU.isNone &&
  (s.slots.map Prod.snd ++ s.queue).any (fun c => dCtx c.desc == x && c.heldAt.isSome)

/-- Copies of 10 R283 still to be made by a rejoined Fixus in a context: twin tensors whose record shows REEXEC or LOST, and those of
which it does not know yet whether its VERSION is the older one. -/
def State.copiesDue (s : State) (x : Nat) : Bool :=
  s.flt.rejoin.any (fun k => k / 65536 == x) ||
  s.tensors.any (fun e => e.1 / 65536 == x && tIsTwin e.2.entry && holdsTensor s.addr e.2.entry &&
    (e.2.ver.reexec || e.2.ver.lost))

/-- RESUME_FLOOD (14 R400): the rejoined Fixus has every held descriptor, is LOCKED and has finished its copies. -/
def execResumeFlood (s : State) : Host.Outcome State Fault Refusal :=
  let s1 := s.retakeHeld
  due (s.brass && s.irc.state == .locked && s.heldRx.isEmpty) s
    (s1.ctxs.foldl (fun s e =>
      if s.heldForMe e.1 && !s.copiesDue e.1 && !s.flt.heldDescs.any (fun d => dCtx d == e.1) then s.floodResume e.1 else s) s1)

/-- The held collectives of one context launch unscheduled, in R210 order of their own LAUNCH. -/
def State.heldLaunch (s : State) (x : Nat) : State :=
  let c := s.ctx x
  match c.resumeU with
  | none => s
  | some u =>
    if s.now < u || (match c.holdUntil with
      | some t => decide (t < u)
      | none => false) then s
    else
      let s := s.setCtx x { c with holdUntil := none, holdLost := [], heldSent := false, resumeU := none }
      let wake (k : Coll) : Coll := { k with heldAt := none, launch := u, unscheduled := true }
      let s : State := { s with queue := s.queue.map (fun (k : Coll) =>
        if dCtx k.desc == x && k.heldAt.isSome then wake k else k) }
      let go := (s.slots.filter (fun e => dCtx e.2.desc == x && e.2.heldAt.isSome)).mergeSort
        (fun a b => r210 a.2.desc b.2.desc)
      go.foldl (fun s e => match s.coll e.1 with
        | some k =>
          (s.setColl e.1 (wake k)).startColl e.1 (wake k)
        | none => s) s

/-- HELD_LAUNCH (14 R400). -/
def execHeldLaunch (s : State) : Host.Outcome State Fault Refusal :=
  due (s.on && !s.switchFirst) s (s.ctxs.foldl (fun s e => s.heldLaunch e.1) s)

/-- One context's hold has run out (14 R401). -/
def State.holdOver (s : State) (x : Nat) : State :=
  let c := s.ctx x
  match c.holdUntil with
  | none => s
  | some t =>
    let resumed : Bool := match c.resumeU with
      | some u => decide (u ≤ t)
      | none => false
    if s.now < t || resumed then s
    else
      let s := s.setCtx x { c with holdUntil := none, holdLost := [], heldSent := false, resumeU := none }
      let s := (s.slots.filter (fun e => dCtx e.2.desc == x && e.2.heldAt.isSome)).foldl (fun s e =>
        s.stopSlot e.1 stAborted t) s
      (s.queue.filter (fun k => dCtx k.desc == x && k.heldAt.isSome)).foldl (fun s k => s.stopQueued k stAborted t) s

/-- HOLD_LIMIT_EXPIRY (14 R401). -/
def execHoldLimitExpiry (s : State) : Host.Outcome State Fault Refusal :=
  due s.on s (s.ctxs.foldl (fun s e => s.holdOver e.1) s)

/-! ### The collector's timers and FAULT_N (14 R380 to R386) -/

/-- RECORD_AUTO_CLOSE (14 Table 14.1): class C records close 1 s after they open. -/
def execRecordAutoClose (s : State) : Host.Outcome State Fault Refusal :=
  let f (r : Rec) : Rec := if r.cls = 0 && r.st != 2 && decide (r.first + 1000000000 ≤ s.now) then { r with st := 2 } else r
  due s.on s { s with flt := { s.flt with recs := tmap s.flt.recs (fun _ r => f r) } }

/-- FLT_DEFER in ns. -/
def State.defer (s : State) : Nat := 1000 * (s.cfgAt (aFlt + 8)).toNat

/-- Does the deferred timer of a record run out now (14 R383)? -/
def State.timesOut (s : State) (r : Rec) : Bool :=
  r.cls = 1 && r.st = 0 && !r.timed && decide (r.classCount + s.defer ≤ s.now)

/-- Does it escalate the record? One for a context that is not OPEN does nothing (14 R383, R413). -/
def State.expires (s : State) (r : Rec) : Bool := s.timesOut r && (s.ctx r.dindex).st == .opened

/-- DEFERRED_TIMER_EXPIRY (14 R381, R383): the record is escalated and its context reset; a timer without a record
resets its context alike. -/
def State.deferExpiry (s : State) : State :=
  let hit := (s.flt.recs.map Prod.snd).filter (fun r => s.expires r)
  let out := s.flt.timers.filter (fun t => decide (t.2 + s.defer ≤ s.now))
  let s := { s with flt := { s.flt with
    recs := tmap s.flt.recs (fun _ r => { r with escalated := r.escalated || s.expires r, timed := r.timed || s.timesOut r }),
    timers := s.flt.timers.filter (fun t => !decide (t.2 + s.defer ≤ s.now)) } }
  let s := hit.foldl (fun s r => s.beginStop r.dindex false true) s
  out.foldl (fun s t => if (s.ctx t.1).st == .opened then s.beginStop t.1 false true else s) s

def execDeferredTimerExpiry (s : State) : Host.Outcome State Fault Refusal := due s.on s s.deferExpiry

/-- Does FAULT_N stand low outside a pulse: FLT_PIN.HOLD, class X, or no firmware image (14 R386, 15 R429)? -/
def State.pinHold (s : State) : Bool := bit (s.cfgAt (aFlt + 4)).toNat 0 || s.sys.classX || s.sys.noFirmware

/-- FAULT_N_PULSE_END (14 R385, R386): AUTO_HOLD sets HOLD, and the pin takes its level. -/
def execFaultNPulseEnd (s : State) : Host.Outcome State Fault Refusal :=
  let pin := s.cfgAt (aFlt + 4)
  let s1 := if bit pin.toNat 1 then s.setCfg (aFlt + 4) (pin ||| 1) else s
  let s1 := { s1 with pins := { s1.pins with pulseAt := none, gapAt := some s.clk, faultLow := s1.pinHold || s1.sys.noFirmware } }
  match s.pins.pulseAt with
  | none => .next s
  | some t => due (s.on && decide (t + 2000 ≤ s.clk)) s s1

/-- FAULT_N_GAP_END (14 R385): a pulse that is due begins. -/
def execFaultNGapEnd (s : State) : Host.Outcome State Fault Refusal :=
  let s1 := { s with pins := { s.pins with gapAt := none } }
  let s2 := { s1 with pins := { s1.pins with pulseDue := false, pulseAt := some s.clk, faultLow := true } }
  match s.pins.gapAt with
  | none => .next s
  | some t => due (s.on && decide (t + 2000 ≤ s.clk)) s (if s.pins.pulseDue then s2 else s1)

/-- WATCHDOG_EXPIRY (13 R345, 14 source 0x0704): class F, and a warm reset. Which core is the device's to say. -/
def execWatchdogExpiry (b : BootObs) (s : State) : Host.Outcome State Fault Refusal :=
  let (n, s1) := s.free
  due s.brass s ((s1.record 2 0 0 0x0704 (n % 4)).warm 4 b)

end Sys2Proof.Machine
end

