-- ==== Sys2Proof/Machine/Ingot.lean ====
section
/-! DEFINITION. Ingot (12): scrub, sparing and retirement, uncorrectable data, channel and stack fences, refresh, and
what Ingot and Pewter do when training ends after a reset (14 R406, 10 R278). -/

namespace Sys2Proof.Machine

/-! ### Addresses (12 Table 12.3) and rows -/

/-- Page of an Ingot address, and whether the address exists. -/
def addrPage (a : Nat) : Nat := a / 65536
def addrExists (a : Nat) : Bool := decide (a < 2 ^ 38) && decide (a / 2 ^ 22 < 36864)

/-- A row of a channel: page index q, ROW_LO, bank group and bank. -/
structure RowAt where
  q : Nat
  lo : Nat
  bg : Nat
  bank : Nat
deriving DecidableEq, Repr

def rowOfAddr (a : Nat) : RowAt := { q := a / 2 ^ 22, lo := bits a 15 14, bg := bits a 11 10, bank := bits a 9 8 }
def RowAt.sid (r : RowAt) : Nat := r.q % 12
def RowAt.row (r : RowAt) : Nat := 4 * (r.q / 12) + r.lo
def RowAt.page (r : RowAt) (k c : Nat) : Nat := 64 * r.q + 4 * c + k
/-- First address of a row. -/
def RowAt.addr (r : RowAt) (k c : Nat) : Nat := 65536 * r.page k c + 16384 * r.lo + 1024 * r.bg + 256 * r.bank
/-- Number of a row in its channel, and of its bank. -/
def RowAt.no (r : RowAt) : Nat := 64 * r.q + 16 * r.lo + 4 * r.bg + r.bank
def RowAt.bankNo (r : RowAt) (c : Nat) : Nat := 192 * c + 16 * r.sid + 4 * r.bg + r.bank

/-- Row number `n` of a channel. -/
def rowNo (n : Nat) : RowAt := { q := n / 64 % 36864, lo := n / 16 % 4, bg := n / 4 % 4, bank := n % 4 }

/-- An entry of the error log (12 Table 12.14) and the class C record of source 0x0601 that goes with it. -/
def State.errLog (s : State) (k c kind : Nat) (r : RowAt) : State :=
  let st := s.stack k
  let v := s.now % 2 ^ 32 * 2 ^ 32 + kind * 2 ^ 30 + c * 2 ^ 26 + r.sid * 2 ^ 22 + r.bg * 2 ^ 20 + r.bank * 2 ^ 18 +
    r.row * 2 ^ 4
  s.setStack k { st with errLog := tset st.errLog st.errHead (BitVec.ofNat 64 v), errHead := (st.errHead + 1) % 16 }

def State.corrected (s : State) (k c kind : Nat) (r : RowAt) : State :=
  (s.errLog k c kind r).record 0 7 (16 * k + c) 0x0601 (r.addr k c)

/-! ### The remap table (12 R331, R332) -/

/-- First page of RESERVE; each stack has 9,216 of its pages, 576 on each channel. -/
def rsvLo : Nat := 2312192

/-- The physical page that an access to page `p` reaches: every access passes through the remap table. -/
def State.physPage (s : State) (p : Nat) : Nat := tget (s.stack (pageStack p)).remap p p

/-- The page that lies in physical page `q`: the one mapped to it, or `q` itself unless that was mapped away. -/
def State.pageIn (s : State) (q : Nat) : Option Nat :=
  let st := s.stack (pageStack q)
  match st.remap.find? (fun e => e.2 == q) with
  | some e => some e.1
  | none => if (tfind st.remap q).isSome then none else some q

/-- Can a RESERVE page be taken: its channel serves, and it is neither in use nor lost? -/
def State.rsvOk (s : State) (k q : Nat) : Bool :=
  !s.chanOut k (pageChan q) && !(s.stack k).remap.any (fun e => e.2 == q) && !s.ing.lostPages.contains q

/-- RESERVE pages of a stack still free: 9,216 less those of channels that are out, those taken and those lost (12 R323, R335). -/
def State.rsvFree (s : State) (k : Nat) : Nat :=
  let live (q : Nat) : Bool := !s.chanOut k (pageChan q)
  9216 - 576 * ((List.range 16).filter (fun c => s.chanOut k c)).length -
    ((s.stack k).remap.filter (fun e => live e.2)).length -
    (s.ing.lostPages.filter (fun q => decide (rsvLo ≤ q) && decide (q < rsvLo + 36864) && pageStack q == k && live q)).length

/-- The first RESERVE page of a stack, from the `i`-th on, that can be taken. Which of the free ones is taken the spec leaves open:
DESIGN CHOICE (assumption log 52). -/
def State.rsvFrom (s : State) (k : Nat) : Nat → Nat → Option Nat
  | 0, _ => none
  | n + 1, i => if s.rsvOk k (rsvLo + 4 * i + k) then some (rsvLo + 4 * i + k) else s.rsvFrom k n (i + 1)

/-- A page is mapped to a free RESERVE page of its stack, and the entry recorded in boot flash. The RESERVE page that it may have had
before is used no more. -/
def State.remapPage (s : State) (k p : Nat) : State :=
  match s.rsvFrom k 9216 0 with
  | none => s
  | some q =>
    let st := s.stack k
    let old := (tfind st.remap p).toList
    let s := s.setStack k { st with remap := tset st.remap p q }
    { s with ing := { s.ing with lostPages := s.ing.lostPages ++ old },
             flash := { s.flash with remaps := tset s.flash.remaps p q } }

/-! ### Uncorrectable data (12 R333) -/

/-- Who holds a page (12 Table 12.5): a user of pools 3 and 4, or none. -/
def State.holderAt (s : State) (p : Nat) : Option Holder :=
  (s.ing.pages.find? (fun u => u.no == p || (decide (p < s.pool3Lo) && u.no == 16 * (p / 16)))).map (fun u => u.holder)

def planLo : Nat := 2349056
def mapLo : Nat := 2357248
def logLo : Nat := 2358272

/-- Does a kernel descriptor name a region? -/
def namesRegion (d : List Byte) (key : Nat) : Bool :=
  let k := dKind d
  (k == kMatmul && (fld d 66 2 == key || fld d 68 2 == key || fld d 70 2 == key || fld d 72 2 == key)) ||
  (k == kRequant && (fld d 66 2 == key || fld d 68 2 == key)) || (k == kGather && fld d 66 2 == key)

/-- A working or new page of an update, or a page of G, is hit: the parts whose elements it holds fail (10 R276). -/
def State.failPart (s : State) (ctx cid area p : Nat) : State :=
  match s.findColl ctx cid with
  | none => s
  | some slot =>
    match s.coll slot with
    | none => s
    | some c =>
      let e := ((s.tensor ctx (dTensor c.desc)).map (fun t => t.entry)).getD []
      let part := stepParts c.desc e area (s.pageNo (.work ctx cid area) p)
      let mine (u : Update) : Bool := u.ctx == ctx && u.cid == cid
      let hit (u : Update) : Update := if mine u then { u with partFail := u.partFail ||| part } else u
      if (s.pwt.upd.any mine) || s.pwt.finished.any mine then
        let s := { s with pwt := { s.pwt with upd := s.pwt.upd.map hit, finished := s.pwt.finished.map hit } }
        match s.pwt.upd with
        | some u =>
          let inRun : Bool := match u.phase with
            | .ns _ _ => true
            | .nsReady => true
            | _ => false
          if mine u && inRun then (s.endJobIf (fun j => j == SteelJob.ns ctx cid)).failRun u slot c u.partFail else s
        | none => s
      else
        let r := c.root.getD Root.init
        s.setColl slot { c with root := some { r with partFail := r.partFail ||| part } }

/-- A spilled segment is hit: it carries CHECK, and the failed check is recorded too (09 R242; 12 R333). -/
def State.failSpill (s0 : State) (ctx cid node seg : Nat) : State :=
  let s := s0.record 1 1 ctx 0x0403 cid
  match s.findColl ctx cid with
  | none => s
  | some slot =>
    match s.coll slot with
    | none => s
    | some c =>
      match c.nodes[node]? with
      | none =>
        let r := c.root.getD Root.init
        s.setColl slot { c with root := some { r with flags := r.flags ||| flCheck } }
      | some n =>
        let g := tget n.segs seg Seg.init
        let g := { g with ins := g.ins.mapIdx (fun i x => if i = 0 then { x with flags := x.flags ||| flCheck } else x) }
        s.setColl slot (c.setNode node { n with segs := tset n.segs seg g })

/-- A descriptor of the launch queue is hit: refused as late (12 Table 12.6, 04 R94). -/
def State.failQueued (s : State) (a : Nat) : State :=
  let (n, s) := s.free
  match s.queue[n % s.queue.length]? with
  | none => s
  | some c =>
    let x := dCtx c.desc
    let s := s.record 1 1 x 0x0602 a
    let s : State := { s with queue := s.queue.filter (fun q => q != c) }
    let note : LateNotice :=
      { ctx := BitVec.ofNat 8 x, gen := BitVec.ofNat 16 (dGen c.desc), source := BitVec.ofNat 15 s.addr,
        d := BitVec.ofNat 64 s.now, launch := BitVec.ofNat 64 (dLaunch c.desc), collId := BitVec.ofNat 32 (dId c.desc) }
    ({ s.takeLate none note with lateDescs := s.lateDescs ++ [c.desc] }).countRefused.complete c.cmd stLateLaunch 0 (toLe 2 0xFFFF)

/-- Tensors whose maps or version record a MAP page holds. -/
def State.mapHit (s : State) (p a ch : Nat) : State :=
  let hit := s.tensors.filter (fun e => Config.mapPageHolds p (e.1 / 65536) (e.1 % 65536))
  if hit.isEmpty then s.record 0 7 ch 0x0602 a
  else hit.foldl (fun s e =>
    match s.tensor (e.1 / 65536) (e.1 % 65536) with
    | some t =>
      (s.setTensor (e.1 / 65536) (e.1 % 65536) { t with ver := { t.ver with lost := true } }).record 1 1 (e.1 / 65536) 0x0602 a
    | none => s) s

/-- A codeword of PLAN: one copy is read for the other, and both lost fence the contexts of the page (12 R324). -/
def State.planHit (s : State) (p a ch : Nat) : State :=
  let first := p % 4 < 2
  let other := if first then a + 131072 else a - 131072
  if s.ing.poison.contains (other / 32) then
    let p1 := if first then p else p - 2
    let hit := s.ctxs.filter (fun e => Config.planPageHolds p1 e.1)
    hit.foldl (fun s e => (s.setCtx e.1 { s.ctx e.1 with planFenced := true }).record 1 1 e.1 0x0602 a) s
  else
    -- copy 2 rewrites copy 1
    let s := if first then { s with ing := { s.ing with poison := s.ing.poison.filter (· != a / 32) } } else s
    s.record 0 7 ch 0x0602 a

/-- Records or a dump of the LOG region are lost (12 Table 12.6): 16 MiB of fault log, then four dumps. -/
def State.logHit (s : State) (a ch : Nat) : State :=
  let o := a - 65536 * logLo
  let flt := if o < 16777216 then { s.flt with recs := tdel s.flt.recs (o / 64) }
    else { s.flt with dumps := tdel s.flt.dumps ((o - 16777216) / 12582912) }
  ({ s with flt := flt }).record 0 7 ch 0x0602 a

/-- The outcome of Table 12.6 for an uncorrectable codeword at `a`, with its record. -/
def State.outcome (s : State) (a : Nat) : State :=
  let p := addrPage a
  let ch := 16 * pageStack p + pageChan p
  let free (s : State) : State :=
    ({ s with ing := { s.ing with poison := s.ing.poison.filter (fun w => w != a / 32) } }).record 0 7 ch 0x0602 a
  if logLo ≤ p then s.logHit a ch
  else if mapLo ≤ p then s.mapHit p a ch
  else if planLo ≤ p then s.planHit p a ch
  else match s.holderAt p with
    | none => free s
    | some (.state x t _) =>
      let s := match s.tensor x t with
        | some v => s.setTensor x t { v with ver := { v.ver with lost := true } }
        | none => s
      (s.failKernels p).record 1 1 x 0x0602 a
    | some (.work x cid n) => (s.failPart x cid n p).record 1 1 x 0x0602 a
    | some (.region x _) => (s.failKernels p).record 1 1 x 0x0602 a
    | some (.spill x cid node seg _) => (s.failSpill x cid node seg).record 1 1 x 0x0602 a
    | some (.old x _ _) => (s.failKernels p).record 1 1 x 0x0602 a
    | some .launchQueue => s.failQueued a
    | some (.image _ _) => free s
    | some (.xfer _) => s.record 0 7 ch 0x0602 a
    | some (.staging _) => s.record 0 7 ch 0x0602 a

/-! ### Fencing a channel (12 R334 to R337) -/

/-- Pages of a fencing channel to be moved, those that lie on RESERVE pages of it too, in the order of 12 R335: MAP, LOG, PLAN,
committed state, pool-4 buffers in use, working pages, regions. -/
def State.moveList (s : State) (k c : Nat) : List Nat :=
  let on (p : Nat) : Bool := pageStack p == k && pageChan (s.physPage p) == c
  let here : List Nat := ((s.stack k).remap.filter (fun e => pageChan e.2 == c)).map Prod.fst
  let span (lo n : Nat) : List Nat :=
    (((List.range (n / 64)).map (fun i => lo + 64 * i + 4 * c + k)) ++ here.filter (fun p =>
      decide (lo ≤ p) && decide (p < lo + n) && pageChan p != c)).filter on
  let used (test : Holder → Bool) : List Nat :=
    ((s.ing.pages.filter (fun u => decide (s.pool3Lo ≤ u.no) && test u.holder)).map (fun u => u.no)).filter on
  let bufs := ((s.ing.pages.filter (fun u => decide (u.no < s.pool3Lo))).flatMap (fun u =>
    (List.range 16).map (fun i => u.no + i))).filter on
  span mapLo 1024 ++ span logLo 1024 ++ span planLo 8192 ++
  used (fun h => match h with
    | .state _ _ _ => true
    | .old _ _ _ => true
    | _ => false) ++ bufs ++
  used (fun h => match h with
    | .work _ _ _ => true
    | .image _ _ => true
    | .xfer _ => true
    | _ => false) ++
  used (fun h => match h with
    | .region _ _ => true
    | _ => false)

/-- Free pool-4 pages of the channel, remapped without a copy while the RESERVE lasts. -/
def State.remapFree (s : State) (k c : Nat) : State :=
  let l := ((List.range (s.pool3Lo / 64 + 1)).map (fun q => 64 * q + 4 * c + k)).filter (fun p =>
    decide (p < s.pool3Lo) && !s.pageUsed p && (tfind (s.stack k).remap p).isNone)
  (l.take (s.rsvFree k)).foldl (fun s p => s.remapPage k p) s

/-- ING_PAGES_SHORT and its class F record (12 R336). -/
def State.checkShort (s : State) : State :=
  if s.pool3Count < s.pagesNeed then s.record 2 0 0 0x0605 (s.pagesNeed - s.pool3Count) else s

/-- A stack is fenced: every tensor with a stripe on it is LOST, and a kernel loses the parts whose pages lie on it (12 R337; 11
R305). Pool 3's count falls with it (R336). -/
def State.fenceStack (s : State) (k : Nat) : State :=
  if (s.stack k).fenced then s
  else
    let cmds := (s.stack k).fenceCmd.map Prod.snd
    let s := (s.setStack k { s.stack k with fenced := true, ready := false, fenceQ := [], moving := [],
                                            fenceCmd := [] }).record 2 8 k 0x0604 0
    let s := cmds.foldl (fun s m => s.complete m rOk 0 []) s
    let hit (x t : Nat) : Bool := s.ing.pages.any (fun u => (match u.holder with
      | .state a b _ => a == x && b == t
      | _ => false) && pageStack u.no == k)
    let s : State := { s with tensors := tmap s.tensors (fun i t =>
        if hit (i / 65536) (i % 65536) then { t with ver := { t.ver with lost := true } } else t) }
    let on := (s.ing.pages.filter (fun u => pageStack u.no == k && decide (s.pool3Lo ≤ u.no))).map (fun u => u.no)
    (on.foldl (fun s p => s.failKernels p) s).checkShort

/-- The channel being moved has no page left to move: it is FENCED, and the fence is recorded in boot flash (12 R332,
R335). -/
def State.chanFenced (s : State) (k c : Nat) : State :=
  let s := s.setChan k c { s.chan k c with fenced := true, evac := false }
  let s := { s with flash := { s.flash with fences := s.flash.fences ++ [16 * k + c] } }
  let cmds := ((s.stack k).fenceCmd.filter (fun e => e.1 == c)).map Prod.snd
  let s := s.setStack k { s.stack k with fenceCmd := (s.stack k).fenceCmd.filter (fun e => e.1 != c) }
  let s := cmds.foldl (fun s m => s.complete m rOk 0 []) s
  if (List.range 16).all (fun i => (s.chan k i).fenced) then s.fenceStack k else s

/-- Steps 1 to 3 of 12 R335 begin. -/
def State.startFence (s : State) (k c : Nat) : State :=
  let s := s.setChan k c { s.chan k c with evac := true }
  let s := s.remapFree k c
  let s := s.setStack k { s.stack k with moving := s.moveList k c }
  let s := s.checkShort
  if (s.stack k).moving.isEmpty then s.chanFenced k c else s

/-- The channel of a stack that is being moved. -/
def State.evacChan (s : State) (k : Nat) : Option Nat := (List.range 16).find? (fun c => (s.chan k c).evac)

/-- Is a channel fenced, alone or with its stack, or on its way to it? -/
def State.chanGone (s : State) (k c : Nat) : Bool :=
  (s.chan k c).fenced || (s.chan k c).evac || (s.stack k).fenceQ.contains c || (s.stack k).fenced

/-- A fence starts; behind a channel of its stack that is being moved it waits (12 R342). -/
def State.queueFence (s : State) (k c : Nat) : State :=
  if (s.evacChan k).isSome then s.setStack k { s.stack k with fenceQ := (s.stack k).fenceQ ++ [c] }
  else s.startFence k c

/-- A channel is fenced, class F (12 R334). -/
def State.fenceChannel (s : State) (k c cause : Nat) : State :=
  if s.chanGone k c then s else (s.record 2 7 (16 * k + c) 0x0603 cause).queueFence k c

/-- The next channel of the queue starts once the one before it is FENCED. -/
def State.nextFence (s : State) (k : Nat) : State :=
  match (s.evacChan k), (s.stack k).fenceQ with
  | none, c :: t => (s.setStack k { s.stack k with fenceQ := t }).startFence k c
  | _, _ => s

/-- A page of the fencing channel that cannot be copied takes its holder's outcome and is lost to its pool. -/
def State.pageLost (s : State) (k p : Nat) : State :=
  let s := s.outcome (65536 * p)
  let st := s.stack k
  if (tfind st.remap p).isNone then s
  else
    let s := s.setStack k { st with remap := tdel st.remap p }
    { s with ing := { s.ing with lostPages := s.ing.lostPages ++ [p] }, flash := { s.flash with remaps := tdel s.flash.remaps p } }

/-- PAGE_MOVE_DONE (12 R335): the copy of the first page ended, well or not. -/
def State.pageMoved (s : State) (k : Nat) (ok : Bool) : State :=
  match s.evacChan k, (s.stack k).moving with
  | some c, p :: t =>
    let s := s.setStack k { s.stack k with moving := t }
    let s := if ok && 0 < s.rsvFree k then s.remapPage k p else s.pageLost k p
    if t.isEmpty then (s.chanFenced k c).nextFence k else s
  | _, _ => s

def execPageMoveDone (stack : BitVec 2) (ok : Bool) (s : State) : Host.Outcome State Fault Refusal :=
  due (s.on && (s.stack stack.toNat).ready) s (s.pageMoved stack.toNat ok)

/-! ### Sparing and retirement (12 R330, R331) -/

/-- Spare rows left in a bank group, and bank groups of a channel with none. -/
def State.spareLeft (s : State) (k c sid bg : Nat) : Nat :=
  64 - (List.range 4).foldl (fun n b => n + tget (s.stack k).sparesUsed (192 * c + 16 * sid + 4 * bg + b) 0) 0
def State.exhausted (s : State) (k c : Nat) : Nat :=
  ((List.range 48).filter (fun i => s.spareLeft k c (i / 4) (i % 4) == 0)).length

/-- Key of a row of a stack. -/
def rowKey (c : Nat) (r : RowAt) : Nat := 4194304 * c + r.no

/-- The page that holds a row, named by the row's physical page, retires to the RESERVE; with the RESERVE empty a free page leaves its
pool and one in use is treated as uncorrectable (12 R331). A RESERVE page that holds none leaves the reserve. -/
def State.retire (s : State) (k c : Nat) (r : RowAt) : State :=
  let q := r.page k c
  match s.pageIn q with
  | none => s
  | some p =>
    let lose (s : State) : State := { s with ing := { s.ing with lostPages := s.ing.lostPages.filter (· != p) ++ [p] } }
    if rsvLo ≤ p && p < planLo then (lose s).bump (aIng k + 0x1C) 1 |>.corrected k c 3 r
    else if 0 < s.rsvFree k then ((s.remapPage k p).bump (aIng k + 0x1C) 1).corrected k c 3 r
    else if s.pageUsed p || planLo ≤ p then s.outcome (65536 * p + r.addr k c % 65536)
    else lose s

/-- A row is spared from its bank's spare rows: its copy begins, the bank's repair fuse is burned and the row redirected, with what of
it cannot be corrected stored as poison; or its page retires (12 R328, R330, R331). -/
def State.spareRow (s : State) (k c : Nat) (r : RowAt) : State :=
  let st := s.stack k
  let used := tget st.sparesUsed (r.bankNo c) 0
  let key := rowKey c r
  if used < 16 then
    let copying := (st.copying.filter (fun e => decide (s.clk < e.2.1 + 2000)))
    let s := s.setStack k { st with sparesUsed := tset st.sparesUsed (r.bankNo c) (used + 1), rowCe := tdel st.rowCe key,
                                    copying := tset copying key (s.clk, tfind st.redirect key),
                                    redirect := tset st.redirect key used }
    let s := (s.bump (aIng k + 0x18) 1).corrected k c 2 r
    if 8 ≤ s.exhausted k c then s.fenceChannel k c 2 else s
  else s.retire k c r

/-- Uncorrectable rows counted within the last second (12 R334). -/
def recentRows (ch : Chan) (clk : Nat) : List (Nat × Nat) := ch.ueRows.filter (fun e => decide (clk < e.2 + 1000000000))

/-- A physical row: the row itself, or the spare row that stands in its place, which is a row of its own (12 R334). -/
def State.physRow (s : State) (k c : Nat) (r : RowAt) : Nat :=
  match tfind (s.stack k).redirect (rowKey c r) with
  | some i => r.no + 4194304 * (i + 1)
  | none => r.no

/-- An uncorrectable codeword is counted and logged where it lies, physical row `r`, and the outcome of the page that it belongs to
follows; `a` is its address (12 R328, R333). -/
def State.foundUe (s : State) (k c : Nat) (r : RowAt) (a : Option Nat) : State :=
  let s := (s.bump (aIng k + 0x14) 1).errLog k c 1 r
  let ch := s.chan k c
  let s := s.setChan k c { ch with ues := ch.ues.filter (fun t => decide (s.clk < t + 1000000000)) ++ [s.clk] }
  match a with
  | some a => ({ s with ing := { s.ing with poison := s.ing.poison.filter (· != a / 32) ++ [a / 32] } }).outcome a
  | none => s

/-- Then its row is spared, and the channel fenced at the sixteenth distinct row within a second (12 R330, R334). -/
def State.rowFailed (s : State) (k c : Nat) (r : RowAt) : State :=
  let ch := s.chan k c
  let n := s.physRow k c r
  let rows := recentRows ch s.clk
  let rows := if rows.any (fun e => e.1 == n) then rows else rows ++ [(n, s.clk)]
  let s := (s.setChan k c { ch with ueRows := rows }).spareRow k c r
  if 16 ≤ rows.length then s.fenceChannel k c 0 else s

/-- Codewords read, one by one, against the run of codewords corrected on one data line: the run after them, and
whether it reached 64 (12 R334). -/
def lineRunAfter : Option (Nat × Nat) → List Codeword → Option (Nat × Nat) × Bool
  | run, [] => (run, false)
  | run, .corrected (some l) :: ws =>
    let n := match run with
      | some e => if e.1 = l.toNat then e.2 + 1 else 1
      | none => 1
    let r := lineRunAfter (some (l.toNat, n)) ws
    (r.1, decide (64 ≤ n) || r.2)
  | _, _ :: ws => lineRunAfter none ws

def isCorrected : Codeword → Bool
  | .corrected _ => true
  | _ => false

/-- Codewords of physical row `r` are read, by an access or by the scrubber: each with its address, none where the row belongs to no
page. Corrected ones are counted, and the row is spared once ING_ROW_CE_LIMIT of its codewords have been corrected within the scrub
pass; uncorrectable ones have the outcome of their page; a run of 64 codewords corrected on one data line fences the channel (12 R329,
R330, R333, R334). -/
def State.wordsRead (s : State) (k c : Nat) (r : RowAt) (ws : List (Option Nat × Codeword)) : State :=
  let run := lineRunAfter (s.chan k c).lineRun (ws.map Prod.snd)
  let s := if (s.chan k c).lineRun = run.1 then s else s.setChan k c { s.chan k c with lineRun := run.1 }
  let corr := (ws.filter (fun w => isCorrected w.2)).length
  let n := tget (s.stack k).rowCe (rowKey c r) 0 + corr
  let s := if corr = 0 then s else s.setStack k { s.stack k with rowCe := tset (s.stack k).rowCe (rowKey c r) n }
  let s := (List.range corr).foldl (fun s _ => s.corrected k c 0 r) (s.bump (aIng k + 0x10) corr)
  let bad := ws.filter (fun w => w.2 == .uncorrectable)
  let s := bad.foldl (fun s w => s.foundUe k c r w.1) s
  let s := if !bad.isEmpty then s.rowFailed k c r
    else if 0 < corr && max 1 (bits (s.cfgAt (aIng k + 0x2C)).toNat 3 0) ≤ n then s.spareRow k c r
    else s
  if run.2 then s.fenceChannel k c 1 else s

/-- What the corrector finds in the codeword at `a`: one stored as poison is uncorrectable whatever is read (12 R328). -/
def State.wordAt (s : State) (a : Option Nat) (w : List Byte) : Codeword :=
  match a with
  | some a => if s.ing.poison.contains (a / 32) then .uncorrectable else codewordOf w
  | none => codewordOf w

/-- UNCORRECTABLE_CODEWORD (12 R326, R333): the 36 bytes of a codeword that an access read, wherever the remap table has put its page.
What the corrector finds in them is counted and acted upon, a corrected codeword too (02 R42). -/
def execUncorrectableCodeword (addr : BitVec 40) (word : List Byte) (s : State) : Host.Outcome State Fault Refusal :=
  let a := addr.toNat
  let q := s.physPage (addrPage a)
  let k := pageStack q
  due (s.on && addrExists a && !(s.stack k).fenced) s
    (s.wordsRead k (pageChan q) (rowOfAddr (65536 * q + a % 65536)) [(some a, s.wordAt (some a) word)])

/-! ### Scrub and refresh (12 R329, R338) -/

/-- Row interval of the scrubber in ns: 36,000 µs at most. -/
def State.scrubEvery (s : State) (k : Nat) : Nat := 1000 * min 36000 ((s.cfgAt (aIng k + 0x20)).toNat % 65536)

/-- Offset of codeword `i` of a row in its page: 256 bytes of each of its four quarters (12 Table 12.3). -/
def RowAt.word (r : RowAt) (k c i : Nat) : Nat := r.addr k c % 65536 + 4096 * (i / 8) + 32 * (i % 8)

/-- One row read through the corrector: the position advances, and with the last row the pass is complete. The rows are read in the
order of their numbers, a spare row in use in place of the one it replaces: DESIGN CHOICE (assumption log 52), the spec names no
order. -/
def State.scrub (s : State) (k c : Nat) (ws : List (List Byte)) : State :=
  let st := s.stack k
  let at_ := tget st.scrubPos c 0
  let full := decide (2359296 ≤ at_ + 1)
  let s := s.setStack k { st with scrubPos := tset st.scrubPos c (if full then 0 else at_ + 1),
                                  scrubbed := tset st.scrubbed c s.clk,
                                  rowCe := if full then st.rowCe.filter (fun e => e.1 / 4194304 != c) else st.rowCe }
  let s := s.bump (aIng k + 0x28) (b2n full)
  let r := rowNo at_
  let p := s.pageIn (r.page k c)
  s.wordsRead k c r (ws.mapIdx (fun i w =>
    let a := p.map (fun p => 65536 * p + r.word k c i)
    (a, s.wordAt a w)))

/-- SCRUB_ROW (12 R329): due once an interval; `words` are the codewords of the row as they are read, 36 bytes each. -/
def execScrubRow (stack : BitVec 2) (ch : BitVec 4) (words : List (List Byte)) (s : State) :
    Host.Outcome State Fault Refusal :=
  let k := stack.toNat
  let c := ch.toNat
  let st := s.stack k
  let last : Bool := match tfind st.scrubbed c with
    | some t => decide (t + s.scrubEvery k ≤ s.clk)
    | none => true
  due (s.on && st.ready && !st.fenced && !(s.chan k c).fenced && last) s (s.scrub k c words)

/-- REFRESH (12 R338): one SID slice of a channel, every 5,200 ns, or 2,600 ns while the stack is hot; a slice is first refreshed at
least 433.33 ns after the one before it. The command refreshes two rows of each bank; which two come next the spec does not say: DESIGN
CHOICE (assumption log 172), the rows in order. -/
def execRefresh (stack : BitVec 2) (ch sid : BitVec 4) (s : State) : Host.Outcome State Fault Refusal :=
  let k := stack.toNat
  let key := 16 * ch.toNat + sid.toNat
  let st := s.stack k
  let every := if st.hot then 2600 else 5200
  let ok : Bool := match tfind st.refreshed key, tfind st.refreshed (key - 1) with
    | some t, _ => decide (t.1 + every ≤ s.clk)
    | none, some t => sid == 0 || decide (3 * t.1 + 1300 ≤ 3 * s.clk)
    | none, none => true
  let row := (tget st.refreshed key (0, 0)).2
  due (s.on && decide (sid.toNat < 12) && ok) s
    (s.setStack k { st with refreshed := tset st.refreshed key (s.clk, (row + 2) % 12288) })

/-- DRAM_HOT (12 R338, 14 source 0x0606): the hottest die of a stack crosses 85 °C. -/
def execDramHot (stack : BitVec 2) (temp : Byte) (s : State) : Host.Outcome State Fault Refusal :=
  let k := stack.toNat
  let st := s.stack k
  let hot := decide (85 < temp.toNat)
  let s1 := s.setStack k { st with temp := temp.toNat, hot := hot }
  due s.on s (if hot && !st.hot then s1.record 0 8 k 0x0606 temp.toNat else s1)

/-! ### After training (14 R406, 10 R278) -/

/-- R278: pages that no version record or region names return, and a pending step is marked for re-execution. The tensors of twin pairs
are still to be compared with the partner's copies, and until that is done the partner acts for this Fixus (10 R283). -/
def State.recoverPewter (s : State) : State :=
  let s := s.freePages (fun h => match h with
    | .state _ _ _ => false
    | .region _ _ => false
    | _ => true)
  let twins := (s.tensors.filter (fun e => tIsTwin e.2.entry && holdsTensor s.addr e.2.entry)).map Prod.fst
  { s with tensors := tmap s.tensors (fun _ t =>
             if t.ver.pending = 0 then t else { t with ver := { t.ver with pending := 0, reexec := true } }),
           flt := { s.flt with rejoin := twins, acts := if twins.isEmpty then s.flt.acts else s.flt.acts ++ [(s.addr, none)] } }

/-- INGOT_TRAINED (14 R406, 12 R334, R337): controllers are ready, channels that fail are fenced, a stack with none
left is fenced with them, and the records that are not CLOSED are closed. -/
def State.trained (s : State) (failed : List (Nat × Nat)) : State :=
  let close (r : Rec) : Rec := if r.cls = 3 then r else { r with st := 2 }
  let s : State := { s with flt := { s.flt with recs := tmap s.flt.recs (fun _ r => close r), timers := [] } }
  let dead (k : Nat) : Bool := (List.range 16).all (fun c => failed.contains (k, c) || (s.chan k c).fenced)
  let s := (List.range 4).foldl (fun s k =>
    if dead k then
      ((failed.filter (fun f => f.1 == k && !s.chanGone k f.2)).foldl (fun s f =>
        (s.record 2 7 (16 * k + f.2) 0x0603 3).setChan k f.2 { s.chan k f.2 with fenced := true }) s).fenceStack k
    else s.setStack k { s.stack k with ready := !(s.stack k).fenced }) s
  let s := s.recoverPewter
  failed.foldl (fun s f => if dead f.1 then s else s.fenceChannel f.1 f.2 3) s

def execIngotTrained (failed : List (BitVec 2 × BitVec 4)) (s : State) : Host.Outcome State Fault Refusal :=
  let waiting := (List.range 4).any (fun k => !(s.stack k).ready && !(s.stack k).fenced)
  due (s.brass && waiting) s (s.trained (failed.map (fun f => (f.1.toNat, f.2.toNat))))

end Sys2Proof.Machine
end

