-- ==== Sys2Proof/Machine/Regs.lean ====
section
/-! DEFINITION. Reading the register space (13 R369 to R378): the value of every register, the registers that
a read changes, the windows, and the parity fault that every access can find. -/

namespace Sys2Proof.Machine

/-! ### Addresses -/

/-- The one address of a register that several windows show: the device registers of BRZ and ING, the cluster
and device registers of STL (08 Table 8.10, 11 Table 11.13, 12 Table 12.11). -/
def canon (a : Nat) : Nat :=
  if 0x800000 ≤ a && a < 0x900000 then
    (if 0xF000 ≤ a % 0x10000 then aBrz 0 + a % 0x10000 else a)
  else if 0xA00000 ≤ a && a < 0xB00000 then
    let o := a % 0x4000
    if o < 0x2000 then a
    else if o < 0x3000 then aStl ((a - 0xA00000) / 0x4000 / 8 * 8) + o
    else aStl 0 + o
  else if 0xC00000 ≤ a && a < 0xD00000 then
    (if 0x3F000 ≤ a % 0x40000 then aIng 0 + a % 0x40000 else a)
  else a

/-- `a` is one of `n` words from `lo`. -/
def wordsAt (lo n a : Nat) : Bool := decide (lo ≤ a) && decide (a < lo + 4 * n)

/-- The registers with RW or WK fields that hold their value in State.cfg: the RW bits and the WK bits. -/
def cfgMask (a : Nat) : Option (Nat × Nat) :=
  let all := 0xFFFFFFFF
  if a < 0x400000 then
    if a = 0x60 || wordsAt 0x100 16 a then some (all, 0)
    else if a = aIrc + 0x18 then some (2, 1)
    else if a = aFlt + 4 then some (3, 0)
    else if a = aFlt + 8 || a = aFlt + 0xC then some (0xFFFF, 0)
    else if a = aFlt + 0x10 then some (0xC003FFFF, 0)
    else if a = aFlt + 0x18 then some (0x3FFFF, 0)
    else if a = aFlt + 0x24 then some (0xFF, 0)
    else if a = aFlt + 0x30 then some (0x3F000F, 0)
    else if a = aMbx + 0x10000 then some (0x3F, 0)
    else if wordsAt (aSec + 0x220) 8 a then some (all, 0)
    else if wordsAt (aSld + 0x10) 4 a then some (all, 0)
    else if a = aSld + 0x104 || a = aSld + 0x108 then some (0, all)
    else if wordsAt (aSld + 0x700) 16 a then some (0, all)
    else if a = aSch + 4 then some (0xFFFFF, 0)
    else if wordsAt (aSch + 0x10000) 4096 a then
      let o := a % 0x100
      if o = 0x20 then some (all, 0) else if o = 0x24 then some (0xFF03, 0)
      else if wordsAt 0x40 4 o then some (0xC000FFFF, 0)
      else if wordsAt 0x50 4 o then some (all, 0) else none
    else if wordsAt (aSch + 0x40000) 65536 a then
      let o := a % 0x40
      if o = 0 then some (0xF8000000, 0) else if o = 4 || o = 8 then some (0xFFFF, 0)
      else if o = 0xC || o = 0x10 then some (0xFFFFFF, 0) else none
    else none
  else if a < 0x500000 then
    let o := a % 0x4000
    if o = 0 then some (7, 0) else if o = 8 then some (0x7FFC, 0)
    else if wordsAt 0x40 16 o then some (0xFFF, 0) else none
  else if 0x600000 ≤ a && a < 0x700000 then (if a % 0x1000 = 0x18 then some (0x3FFFFFFF, 0) else none)
  else if a = aPwt + 0x100 then some (0xFFFF001F, 0)
  else if a = aPwt + 0x200 then some (0xFFFFFF, 0)
  else if a = aStl 0 + 0x3000 then some (all, 0)
  else if 0xC00000 ≤ a && a < 0xD00000 then
    (if a % 0x40000 = 0x20 then some (0xFFFF, 0) else if a % 0x40000 = 0x2C then some (0xF, 0) else none)
  else none

/-- The 32-bit read-clear registers (access code RC). -/
def isRc (a : Nat) : Bool :=
  if a < 0x400000 then
    a == 0x44 || a == 0x50 || a == aIrc + 0x24 || a == aFlt + 0x1C ||
    (wordsAt aMbx 4096 a && a % 0x100 == 0x1C) ||
    wordsAt (aSld + 0x24) 6 a || wordsAt (aSld + 0x40) 8 a || a == aSch + 0x10 ||
    (wordsAt (aSch + 0x10000) 4096 a && wordsAt 0x80 3 (a % 0x100)) ||
    (wordsAt (aSch + 0x40000) 65536 a && a % 0x40 == 0x38)
  else if a < 0x500000 then wordsAt 0x80 6 (a % 0x4000)
  else if 0x600000 ≤ a && a < 0x700000 then wordsAt 8 1 (a % 0x1000) || wordsAt 0x10 2 (a % 0x1000)
  else if 0x800000 ≤ a && a < 0x900000 then
    a % 0x10000 == 0x10 || wordsAt 0x18 3 (a % 0x10000) || wordsAt 0xF008 2 (a % 0x10000)
  else if 0x900000 ≤ a && a < 0x910000 then
    wordsAt 0x10 5 (a % 0x10000) || a % 0x10000 == 0x28
  else if 0xA00000 ≤ a && a < 0xB00000 then
    wordsAt 0x10 2 (a % 0x4000) || a % 0x4000 == 0x2008 || a % 0x4000 == 0x300C
  else if 0xC00000 ≤ a && a < 0xD00000 then wordsAt 0x10 4 (a % 0x40000) || a % 0x40000 == 0x28
  else false

/-- Low words of the 64-bit read-clear counters. -/
def isRc64 (a : Nat) : Bool :=
  (wordsAt (aSch + 0x40000) 65536 a && (a % 0x40 == 0x20 || a % 0x40 == 0x28 || a % 0x40 == 0x30)) ||
  (decide (0x800000 ≤ a) && decide (a < 0x900000) && a % 0x10000 == 8) ||
  (decide (0xA00000 ≤ a) && decide (a < 0xB00000) && a % 0x4000 == 8)

/-! ### Values -/

/-- A signed number as a 32-bit word. -/
def word32 (x : Int) : Nat := (x % 4294967296).toNat

/-- The word at byte `o` of a list of bytes. -/
def wordOf (bs : List Byte) (o : Nat) : Nat := fld bs o 4

/-- Counters of what no command reports: STL_BUSY_CYC and STL_SRAM_CORR (11), BRZ_WAIT_CYC (08). What they have counted since they
were last read is a free value; read again at the same time they are clear (00 R8). -/
def isUnseen (a : Nat) : Bool :=
  (decide (0x800000 ≤ a) && decide (a < 0x900000) && a % 0x10000 == 0x20) ||
  (decide (0xA00000 ≤ a) && decide (a < 0xB00000) && a % 0x4000 == 8)

/-- Has one of those counters been read at this very time? -/
def State.justRead (s : State) (a : Nat) : Bool := isUnseen a && tfind s.cleared a == some s.clk

/-- A read-clear counter as read. A policer's saturate (07 R198); what any other reads beyond 32 bits is open. -/
def State.rcVal (s : State) (a : Nat) : Nat :=
  if s.justRead a then 0
  else if s.cntAt a < 2 ^ 32 && !isUnseen a then s.cntAt a
  else if aSch + 0x40000 ≤ a && a < 0x400000 then 0xFFFFFFFF
  else (Config.freeWord s.freeCtr).toNat

/-- A fault record as its 64 bytes (14 Table 14.2). -/
def recBytes (r : Rec) : List Byte :=
  toLe 4 r.index ++ toLe 1 (32 * b2n r.escalated + 16 * b2n r.pulsed + 4 * r.st + r.cls) ++ [0] ++
  toLe 2 (4096 * r.dkind + r.dindex) ++ toLe 2 r.source ++ toLe 2 r.lastSource ++ toLe 4 r.count ++
  toLe 8 r.first ++ toLe 8 r.last ++ toLe 8 r.classCount ++ toLe 2 r.gen ++ List.replicate 6 0 ++
  toLe 8 r.info0 ++ toLe 8 r.info1

/-- The record in a slot; a slot that holds none reads as zeros. -/
def State.recAt (s : State) (slot : Nat) : List Byte :=
  match tfind s.flt.recs slot with
  | some r => recBytes r
  | none => List.replicate 64 0

/-- The version record of a tensor as its 32 bytes (10 Table 10.3). -/
def State.verBytes (s : State) (c t : Nat) : List Byte :=
  match s.tensor c t with
  | none => List.replicate 32 0
  | some x =>
    let v := x.ver
    let addr (i : Nat) (there : Bool) : List Byte :=
      toLe 5 (if there && holdsTensor s.addr x.entry then (Config.mapAddr c t i (b2n v.map)).toNat else 0)
    toLe 4 v.version ++ toLe 4 v.lastStep ++ toLe 4 v.pending ++
    toLe 2 (b2n v.reexec + 2 * b2n v.lost + 4 * b2n v.resync) ++ [0, 0] ++
    addr 0 true ++ addr 1 true ++ addr 2 (tMoments x.entry == 2) ++ [0]

def LockState.code : LockState → Nat
  | .free => 0
  | .acquire => 1
  | .locked => 2
  | .holdover => 3
  | .fault => 4

def PortState.code : PortState → Nat
  | .absent => 0
  | .training => 1
  | .active => 2
  | .retrain => 3
  | .down => 4
  | .fenced => 5

def TblState.code : TblState → Nat
  | .empty => 0
  | .loading => 1
  | .ready => 2
  | .armed => 3
  | .active => 4

def CtxState.code : CtxState → Nat
  | .free => 0
  | .opened => 1
  | .draining => 2

/-- SYS_ID (00 Table 0.2). -/
def State.sysId (s : State) : Nat := 0x0F120000 + (if s.fuses.grade = .a then 0x0A00 else 0x0B00) + 1

/-- SYS_POS (13 Table 13.16). -/
def State.sysPos (s : State) : Nat :=
  2 ^ 31 * b2n s.pins.hostbr + 2 ^ 30 * b2n ((s.cfgAt (aIrc + 0x18)).getLsbD 0) + 2 ^ 24 * (s.sys.cell % 64) +
    2 ^ 20 * (s.sys.hx % 16) + 2 ^ 16 * (s.sys.hy % 16) + s.pins.sw % 16

/-- IRC_STATUS (04 Table 4.2). -/
def State.ircStatus (s : State) : Nat :=
  2 ^ 16 * (s.irc.parent % 32768) + 256 * (s.irc.hops % 256) + 32 * b2n s.irc.ppsSeen + 16 * b2n s.irc.master +
    8 * b2n ((s.cfgAt (aIrc + 0x18)).getLsbD 0) + s.irc.state.code

/-- IRC_OFFSET (04 R81): the mean of the last eight offsets, 0 before there are eight. -/
def State.ircOffset (s : State) : Int :=
  let l := s.irc.offsets.take 8
  if 8 ≤ l.length then l.foldl (· + ·) 0 / 8 else 0

/-- Is the unlock key of a requester open (13 R371)? -/
def State.keyOpen (s : State) (w : Who) : Bool :=
  s.sys.keys.any (fun k => k.who == w && decide (s.clk < k.opened + 100000))

/-- Records of a class that are not CLOSED, saturating at 255 (14 Table 14.15). -/
def State.openOf (s : State) (cls : Nat) : Nat :=
  min 255 (s.flt.recs.filter (fun e => e.2.cls == cls && e.2.st != 2)).length

/-- Pages that a version record, a region map or an open transfer names (FLT_AUD_NAMED). -/
def State.namedPages (s : State) : Nat :=
  (s.ing.pages.filter (fun p => inPool3 s p && (match p.holder with
    | .state _ _ _ => true
    | .region _ _ => true
    | .xfer _ => true
    | _ => false))).length

def State.sysReg (s : State) (w : Who) (o : Nat) : Option Nat :=
  if o = 0 then some s.sysId
  else if o = 0xC then some s.sysPos
  else if o = 0x10 then some s.sys.fw.toNat
  else if o = 0x14 then some (b2n s.sys.fwReady + 2 * b2n s.sys.configured + 4 * b2n s.sys.hostbrConflict)
  else if o = 0x20 then some s.fuses.bz.toNat
  else if o = 0x2C then some s.fuses.cl.toNat
  else if o = 0x40 then some (b2n (s.keyOpen w))
  else if o = 0x48 then some 0
  else if o = 0x54 then some s.sys.busErrAddr.toNat
  else if o = 0x58 then some s.sys.parityAddr.toNat
  else none

def State.ircReg (s : State) (o : Nat) : Option Nat :=
  if o = 0 then some (s.irc.count % 2 ^ 32)
  else if o = 4 then some s.irc.latchHi.toNat
  else if o = 8 then some s.irc.latchFrac.toNat
  else if o = 0x10 then some s.ircStatus
  else if o = 0x14 then some (word32 s.ircOffset)
  else if o = 0x1C then some s.irc.ppsCap.toNat
  else if o = 0x20 then some (word32 s.irc.trim)
  else none

def State.fltReg (s : State) (o : Nat) : Option Nat :=
  let x := (s.cfgAt (aFlt + 0x24)).toNat
  let c := s.ctx x
  let aud := (s.cfgAt (aFlt + 0x30)).toNat
  let q := s.port (bits aud 21 16)
  let v := bits aud 3 0
  if o = 0 then
    some (2 ^ 31 * b2n s.sys.classX + 2 ^ 30 * b2n s.sys.outOfService + 256 * s.openOf 2 + s.openOf 1)
  else if o = 4 then some ((s.cfgAt (aFlt + 4)).toNat % 4 + 4 * b2n (!s.pins.faultLow))
  else if o = 0x14 then some (s.flt.head % 2 ^ 32)
  else if o = 0x20 then some (s.sys.resetCause % 16)
  else if o = 0x28 then
    some (65536 * c.gen + 8 * b2n ((s.slots.any (fun e => dCtx e.2.desc == x && e.2.heldAt.isSome))) +
      4 * b2n c.twin + c.st.code)
  else if o = 0x2C then some (s.ctxDrain x)
  else if o = 0x34 then some (tget q.avail v 0 % 4096)
  else if o = 0x38 then some ((tget q.txLim v 0 - tget q.avail v 0) % 4096)
  else if o = 0x3C then some (tget q.rxHeld v 0 % 4096)
  else if o = 0x40 then some (tget q.rxUnrep v 0 % 4096)
  else if o = 0x44 then some (tget q.txLim v 0 % 4096)
  else if o = 0x48 then some s.namedPages
  else if o = 0xB0 then some (s.slots.foldl (fun n e => n + openTokens e.2.nodes) 0)
  else if wordsAt 0x100 16 o then some (wordOf (s.recAt (s.cfgAt (aFlt + 0x18)).toNat) (o - 0x100))
  else none

/-- The registers of MBX (13 Table 13.15). MBX_HELD has 11 bits, and 13 R360 lets a mailbox hold more completions than they count: it
then reads their largest value. DESIGN CHOICE (assumption log 157): the spec does not say what it reads. -/
def State.mbxReg (s : State) (o : Nat) : Option Nat :=
  let sel := s.mbx (s.cfgAt (aMbx + 0x10000)).toNat
  if o < 0x4000 then
    let m := o / 0x100
    let b := s.mbx m
    let r := o % 0x100
    if r = 0 then
      some (b2n b.opened + 2 * b2n (b.owner.isSome || (m == 63 && b.opened)) + 4 * b2n (b.opened && b.cqFull))
    else if r = 4 then
      let ow := match b.owner with
        | some (a, h) => 256 * a.toNat + 2 ^ 23 * b2n h
        | none => 0
      some (if b.opened then ow + 16 * (b.cqPages - 1) + (b.rqPages - 1) else 0)
    else if r = 8 then some b.rqTail
    else if r = 0xC then some b.rqHead
    else if r = 0x10 then some b.cqTail
    else if r = 0x14 then some b.cqHead
    else if r = 0x18 then some 0
    else if r = 0x20 then some (min 0x7FF b.held.length)
    else none
  else if 0x20000 ≤ o && o < 0x30000 then
    (if o - 0x20000 < 4096 * sel.rqPages then some (leNat (Mem.slice sel.rq (o - 0x20000) 4)) else none)
  else if 0x30000 ≤ o && o < 0x40000 then
    (if o - 0x30000 < 4096 * sel.cqPages then some (leNat (Mem.slice sel.cq (o - 0x30000) 4)) else none)
  else none

/-- Are the signatures used up (15 R423)? -/
def State.signedOut (s : State) : Bool :=
  decide (1024 ≤ s.fuses.rsv) && (match s.sec.leaf with
    | some n => decide (1024 ≤ n)
    | none => true)

def State.secReg (s : State) (o : Nat) : Option Nat :=
  if o = 0 then
    some (32 * b2n s.fuses.lock + 16 * b2n s.sec.trial + 8 * b2n s.sec.slotB + 4 * b2n s.sec.cfgOk +
      2 * b2n s.sec.busy + b2n s.signedOut)
  else if o = 4 then some s.fuses.rsv
  else if o = 8 then some (s.sec.leaf.getD 0x400)
  else if o = 0xC then some s.fuses.minver
  else if o = 0x10 then some (s.sec.quotes % 2 ^ 32)
  else if wordsAt 0x100 32 o then some (wordOf (s.sec.meas.getD ((o - 0x100) / 32) []) (o % 32))
  else if wordsAt 0x200 8 o then some (if s.fuses.lock then wordOf s.fuses.cfgkey (o - 0x200) else 0)
  else if o = 0x240 then some 0
  else none

/-- Requests waiting for a pool. -/
def State.waiting (s : State) (pool : Nat) : Nat := (tget s.sol.waits pool []).length

/-- A telemetry sample as its 32 bytes (06 Table 6.12). -/
def sampleBytes (x : Sample) : List Byte :=
  toLe 4 x.count ++ toLe 4 x.tx ++ toLe 4 x.rx ++ toLe 2 (min 65535 x.qmax) ++ toLe 2 (min 65535 x.rxHeld) ++
  toLe 2 (min 65535 x.stallCredit) ++ toLe 2 (min 65535 x.stallMatch) ++ toLe 2 (min 65535 x.retry) ++
  toLe 2 x.vcStall ++ List.replicate 8 0

def State.sldReg (s : State) (o : Nat) : Option Nat :=
  if o = 0 then
    some (4 * b2n (s.sol.queues.any (fun q => q.noRoute.isSome)) + 2 * b2n (decide (65536 ≤ s.sol.flows.length)) +
      b2n ((List.range 5).any (fun i => decide (0 < s.waiting i))))
  else if o = 0x20 then some s.sol.flows.length
  else if o = 0x100 then some s.sol.count.1
  else if o = 0x10C then some s.pool3Count
  else if o = 0x110 then some s.pool4Count
  else if o = 0x140 then some (s.sol.count.1 - s.pool0Used)
  else if o = 0x144 then some s.pool1Free
  else if o = 0x148 then some (s.sol.count.2.2 - s.pool2Used)
  else if o = 0x14C then some s.pool3Free
  else if o = 0x150 then some s.pool4Free
  else if wordsAt 0x180 5 o then some (s.waiting ((o - 0x180) / 4))
  else if wordsAt 0x400 80 o then some (s.held ((o - 0x400) / 4))
  else if wordsAt 0x600 64 o then some (s.rsv ((o - 0x600) / 4))
  else if 0x20000 ≤ o && o < 0x40000 then
    some (wordOf (sampleBytes (tget s.sol.telem ((o - 0x20000) / 32) Sample.init)) (o % 32))
  else if 0x80000 ≤ o && o < 0x100000 then some (wordOf (toLe 16 (s.endpoint ((o - 0x80000) / 16))) (o % 16))
  else none

/-- Channels that own a slot of a table. -/
def ownedVcs (t : SlotTbl) : Nat :=
  (List.range 16).foldl (fun n v => if t.entries.any (fun e => slotOwner e == some v) then n + 2 ^ v else n) 0

def State.schPortReg (s : State) (p o : Nat) : Option Nat :=
  if o = 0 then
    let reduced := s.live p && decide ((maskLanes (s.port p).lanes).length < s.cfgWidth p)
    some (128 * b2n reduced + 16 * (s.slotTbl p 1).st.code + (s.slotTbl p 0).st.code)
  else if o = 4 || o = 8 then
    let t := s.slotTbl p (o / 4 - 1)
    some (65536 * t.epoch + t.len % 16384)
  else if o = 0xC || o = 0x10 then some (s.slotTbl p (o / 4 - 3)).crc.toNat
  else if o = 0x14 then some (((s.activeTbl p).map ownedVcs).getD 0)
  else if wordsAt 0x60 4 o then some (word32 ((s.shaperNow p ((o - 0x60) / 4)).c / 30000))
  else none

def State.schReg (s : State) (o : Nat) : Option Nat :=
  if o = 0 then
    some (((s.sch.tbls.find? (fun e => e.2.st == .active)).map (fun e => e.2.epoch)).getD 0)
  else if o = 8 then
    let sel := (s.cfgAt (aSch + 4)).toNat
    some ((s.slotTbl (bits sel 18 13) (bits sel 19 19)).entries.getD (bits sel 12 0) 0).toNat
  else if 0x10000 ≤ o && o < 0x14000 then s.schPortReg ((o - 0x10000) / 0x100) (o % 0x100)
  else if 0x40000 ≤ o && o < 0x80000 then
    let i := (o - 0x40000) / 0x40
    if o % 0x40 = 0x18 then some ((s.polNow i).tc / 100)
    else if o % 0x40 = 0x1C then some ((s.polNow i).te / 100) else none
  else none

def State.prtReg (s : State) (p o : Nat) : Option Nat :=
  if o = 4 then
    let q := s.port p
    some (256 * q.lanes.toNat + 128 * b2n q.nakWait + q.st.code)
  else if o = 0xA0 then some ((s.paux p).violHead % 32)
  else none

def State.lnkReg (s : State) (l o : Nat) : Option Nat :=
  let n := s.lane l
  if o = 0 then
    some (2 ^ 31 * b2n n.spared + 2 ^ 30 * b2n n.fenced + 2 ^ 29 * b2n n.inverted + 256 * (n.phase % 8) +
      2 * b2n n.lock + b2n n.below)
  else if o = 4 then some n.fom
  else if o = 8 then some (n.fomMin.getD 0)
  else if o = 0x20 then
    some ((List.range 6).foldl (fun v i => v + 2 ^ (5 * i) * (n.txEq.getD i 0 % 32)) 0)
  else if o = 0x24 then some (Config.laneDelay l).toNat
  else none

def State.brzReg (s : State) (k o : Nat) : Option Nat :=
  if o = 0 then
    some (4 * b2n (s.anySpill k) + 2 * b2n (s.bzFenced.contains k) + b2n (s.fuses.bz.getLsbD k))
  else if o = 0x14 then some (s.accFree k)
  else if o = 0xF000 then some s.slots.length
  else if o = 0xF004 then some s.queue.length
  else if o = 0xF008 then some (max (s.cntAt (aBrz 0 + 0xF008)) s.queue.length)
  else if o = 0xF010 then some (s.ctxs.filter (fun e => e.2.st != .free)).length
  else none

/-- Updates queued or running: reductions complete, the running update, those waiting for their flip. -/
def State.updates (s : State) : Nat :=
  s.pwt.ready.length + b2n s.pwt.upd.isSome + s.pwt.finished.length

def State.pwtReg (s : State) (o : Nat) : Option Nat :=
  let sel := (s.cfgAt (aPwt + 0x200)).toNat
  let c := bits sel 23 16
  let t := bits sel 15 0
  if o = 0 then
    let ns := match s.pwt.upd with
      | some u => (match u.phase with
        | .ns _ _ => true
        | _ => false)
      | none => false
    some (8 * b2n s.pwt.takeover + 4 * b2n (!s.pwt.resyncing.isEmpty) + 2 * b2n ns +
      b2n (s.pwt.upd.isSome || !s.pwt.finished.isEmpty))
  else if o = 4 then some s.updates
  else if o = 8 then some s.pagesNeed
  else if o = 0x24 then some (s.tensors.filter (fun e => e.2.ver.reexec)).length
  else if wordsAt 0x400 32 o then some (wordOf (((s.tensor c t).map (fun x => x.entry)).getD []) (o - 0x400))
  else if wordsAt 0x480 8 o then some (wordOf (s.verBytes c t) (o - 0x480))
  else none

def State.stlReg (s : State) (n o : Nat) : Option Nat :=
  let k := n / 8
  let c := s.cluster k
  if o = 0 then
    some (4 * b2n (s.stl.job.isSome && s.tileIn n) + 2 * b2n (s.stl.fenced.contains n || c.fenced) +
      b2n (s.fuses.st.getLsbD n))
  else if o = 0x2000 then some (65536 * (c.temp % 256) + 128 * b2n c.fenced + c.step % 8)
  else if o = 0x3004 then some s.tiles
  else if o = 0x3008 then
    some (match s.stl.job with
      | some (.ns _ cid) => cid
      | some (.matmul _ cid _) => cid
      | none => 0)
  else if o = 0x3010 then some (256 * (s.stl.split.1 / 256) + s.stl.split.2 % 256)
  else none

/-- Pages of a stack withdrawn (ING_FENCED_PAGES): those of its fenced channels that have no remap entry and are
not still being moved, and those that left a pool alone (12 R335). -/
def State.fencedPages (s : State) (k : Nat) : Nat :=
  let st := s.stack k
  (List.range 16).foldl (fun n c =>
    if s.chanOut k c then
      n + (36864 - (st.remap.filter (fun e => pageChan e.1 == c)).length -
        (if (s.chan k c).evac then st.moving.length else 0))
    else n) 0 +
  (s.ing.lostPages.filter (fun p => pageStack p == k &&
    !s.chanOut k (pageChan p))).length

def State.ingReg (s : State) (k o : Nat) : Option Nat :=
  let st := s.stack k
  if o = 0 then
    let f := (List.range 16).foldl (fun n c => if (s.chan k c).fenced then n + 2 ^ c else n) 0
    some (65536 * f + 8 * b2n st.fenced + 4 * b2n ((List.range 16).any (fun c => (s.chan k c).evac)) +
      2 * b2n st.hot + b2n st.ready)
  else if o = 4 then some (st.temp % 256)
  else if o = 0x24 then some ((st.scrubPos.foldl (fun n e => n + e.2) 0) % 2 ^ 22)
  else if o = 0x30 then some (s.rsvFree k)
  else if o = 0x34 then some (s.fencedPages k)
  else if wordsAt 0x40 16 o then
    let c := (o - 0x40) / 4
    let ch := s.chan k c
    let ues := (ch.ues.filter (fun t => decide (s.clk < t + 1000000000))).length
    some (2 ^ 31 * b2n ch.fenced + 2 ^ 30 * b2n ch.evac + 64 * s.exhausted k c + min 63 ues)
  else if o = 0x80 then some (st.errHead % 16)
  else if wordsAt 0x1000 192 o then
    some (leNat ((List.range 4).map (fun i =>
      let b := o - 0x1000 + i
      BitVec.ofNat 8 (s.spareLeft k (b / 48) (b % 48 / 4) (b % 4)))))
  else if o = 0x3F000 then some (b2n (decide (s.pool3Count < s.pagesNeed)))
  else if o = 0x3F004 then some (min 1024 s.mapPages)
  else none

/-- The 64-bit value whose low word is at `a` (13 R369), if `a` is one; MIN_MASK of an endpoint entry (06 Table 6.3) is one. -/
def State.wideVal (s : State) (a : Nat) : Option Nat :=
  if isRc64 a then
    some (if s.justRead a then 0
      else if isUnseen a then (Config.freeWord s.freeCtr).toNat + 2 ^ 32 * (Config.freeWord (s.freeCtr + 1)).toNat
      else min (2 ^ 64 - 1) (s.cntAt a))
  else if a = 4 then some s.fuses.serial.toNat
  else if a = 0x24 then some s.fuses.st.toNat
  else if wordsAt 0x100 16 a && a % 8 = 0 then some ((s.cfgAt a).toNat + 2 ^ 32 * (s.cfgAt (a + 4)).toNat)
  else if wordsAt (aFlt + 0x80) 12 a && a % 8 = 0 then some (s.cntAt a % 2 ^ 64)
  else if a = aFlt + 0x110 || a = aFlt + 0x118 || a = aFlt + 0x120 || a = aFlt + 0x130 || a = aFlt + 0x138 then
    some (fld (s.recAt (s.cfgAt (aFlt + 0x18)).toNat) (a - aFlt - 0x100) 8)
  else if a = aPwt + 0x30 then some s.pwt.lastFlip
  else if 0x400000 ≤ a && a < 0x500000 && wordsAt 0x100 64 (a % 0x4000) && a % 8 = 0 then
    some (tget (s.paux ((a - 0x400000) / 0x4000)).violLog ((a % 0x4000 - 0x100) / 8) 0).toNat
  else if 0xC00000 ≤ a && a < 0xD00000 && wordsAt 0x100 32 (a % 0x40000) && a % 8 = 0 then
    some (tget (s.stack ((a - 0xC00000) / 0x40000)).errLog ((a % 0x40000 - 0x100) / 8) 0).toNat
  else if aSld + 0x80000 ≤ a && a < aSld + 0x100000 && a % 16 = 8 then some (s.endpoint ((a - aSld - 0x80000) / 16) / 2 ^ 64)
  else none

/-- The blocks of 13 Table 13.13, but for 64-bit values and counters. -/
def State.blockReg (s : State) (w : Who) (a : Nat) : Option Nat :=
  if a < 0x10000 then s.sysReg w a
  else if a < 0x20000 then s.ircReg (a - 0x10000)
  else if a < 0x40000 then s.fltReg (a - 0x20000)
  else if a < 0x80000 then s.mbxReg (a - 0x40000)
  else if a < 0x100000 then s.secReg (a - 0x80000)
  else if a < 0x200000 then s.sldReg (a - 0x100000)
  else if a < 0x400000 then s.schReg (a - 0x200000)
  else if a < 0x500000 then s.prtReg ((a - 0x400000) / 0x4000) (a % 0x4000)
  else if a < 0x600000 then none
  else if a < 0x700000 then s.lnkReg ((a - 0x600000) / 0x1000) (a % 0x1000)
  else if a < 0x800000 then none
  else if a < 0x900000 then s.brzReg ((a - 0x800000) / 0x10000) (a % 0x10000)
  else if a < 0x910000 then s.pwtReg (a - 0x900000)
  else if a < 0xA00000 then none
  else if a < 0xB00000 then s.stlReg ((a - 0xA00000) / 0x4000) (a % 0x4000)
  else if 0xC00000 ≤ a && a < 0xD00000 then s.ingReg ((a - 0xC00000) / 0x40000) (a % 0x40000)
  else none

/-- The value of the register at a canonical address, without any side effect; none where the address is
reserved. The high word of a 64-bit value reads as latched (13 R369). -/
def State.regVal (s : State) (w : Who) (a : Nat) : Option Nat :=
  match s.wideVal a with
  | some v => some (v % 2 ^ 32)
  | none =>
    match (if 4 ≤ a then s.wideVal (a - 4) else none) with
    | some v => some ((tfind s.latch a).elim (v / 2 ^ 32) (fun x => x.toNat))
    | none =>
      match s.blockReg w a with
      | some v => some (v % 2 ^ 32)
      | none =>
        if isRc a then some (s.rcVal a)
        else match cfgMask a with
          | some _ => some (s.cfgAt a).toNat
          | none => none

/-! ### Parity (13 R373) -/

/-- Is a register a configuration register: one with an RW or WK field, but for the exceptions of R373? -/
def isConfig (a : Nat) : Bool :=
  a == 0x48 || a == aSec + 0x240 || (wordsAt aMbx 4096 a && a % 0x100 == 0x18) ||
  ((cfgMask a).isSome && a != 0x60 && a != aMbx + 0x10000)

/-- A configuration register fails its parity: class X in SEC and SYS, the unit is fenced where the register is
one of a unit, otherwise the device leaves service (sources 0x0701 to 0x0703). -/
def State.parityFault (s : State) (a : Nat) : State :=
  let s := { s with sys := { s.sys with parityAddr := BitVec.ofNat 32 a } }
  if a < 0x10000 || (0x80000 ≤ a && a < 0x100000) then s.enterX 0x0701 a
  else if 0x210000 ≤ a && a < 0x214000 then s.fencePort ((a - 0x210000) / 0x100) 0x0702 a
  else if 0x240000 ≤ a && a < 0x280000 then s.fencePort ((a - 0x240000) / 0x40 / 64) 0x0702 a
  else if 0x400000 ≤ a && a < 0x500000 then s.fencePort ((a - 0x400000) / 0x4000) 0x0702 a
  else if 0x600000 ≤ a && a < 0x700000 then
    let l := (a - 0x600000) / 0x1000
    (s.record 2 2 l 0x0702 a).fenceLane l
  else if 0xC00000 ≤ a && a < 0xD00000 then
    let k := (a - 0xC00000) / 0x40000
    (s.record 2 8 k 0x0702 a).fenceStack k
  else (s.record 2 0 0 0x0703 a).leaveService 1

/-- An access meets a mismatch on its register: the fault is raised. -/
def State.parityCheck (s : State) (a : Nat) : State :=
  if s.sys.parityBad.contains a then s.parityFault a else s

/-! ### Bus errors (13 R370) -/

/-- Path of a requester in SYS_BUSERR_ADDR (13 Table 13.14). -/
def pathOf : Who → Nat
  | .host _ => 0
  | .inband _ => 1
  | .smbus => 2
  | .brass => 3

/-- A bus error: counted, its address and path recorded. It changes nothing else. -/
def State.busError (s : State) (w : Who) (a : Nat) : State :=
  let s := s.bump 0x50 1
  { s with sys := { s.sys with busErrAddr := BitVec.ofNat 32 (2 ^ 28 * pathOf w + a % 2 ^ 26) } }

/-! ### Windows (13 R372, R374, R375) -/

/-- The word and bit that an alias stands for. -/
def aliasOf (a : Nat) : Option (Nat × Nat) :=
  if 0x1000000 ≤ a && a < 0x3000000 then
    some (canon ((a - 0x1000000) / 128 * 4), (a - 0x1000000) % 128 / 4)
  else none

/-- The instances present by fuse that a broadcast or group window reaches, and one of the same kind that stands
for the register's kind. -/
def State.window (s : State) (a : Nat) : Option (Nat × List Nat) :=
  if 0x500000 ≤ a && a < 0x504000 then
    some (0x400000 + a % 0x4000, (List.range 64).map (fun p => aPrt p + a % 0x4000))
  else if 0x540000 ≤ a && a < 0x560000 then
    let g := (a - 0x540000) / 0x4000
    let m := (s.cfgAt (0x100 + 8 * g)).toNat + 2 ^ 32 * (s.cfgAt (0x104 + 8 * g)).toNat
    some (0x400000 + a % 0x4000, ((List.range 64).filter (fun p => bit m p)).map (fun p => aPrt p + a % 0x4000))
  else if 0x700000 ≤ a && a < 0x701000 then
    some (0x600000 + a % 0x1000, (List.range 256).map (fun l => aLnk l + a % 0x1000))
  else if 0x980000 ≤ a && a < 0x990000 then
    let o := a % 0x10000
    if 0xF000 ≤ o then some (aBrz 0 + o, [aBrz 0 + o])
    else some (aBrz 0 + o, ((List.range 16).filter (fun k => s.fuses.bz.getLsbD k)).map (fun k => aBrz k + o))
  else if 0xB00000 ≤ a && a < 0xB04000 then
    let o := a % 0x4000
    let ns := (List.range 64).filter (fun n => s.fuses.st.getLsbD n)
    if o < 0x2000 then some (aStl 0 + o, ns.map (fun n => aStl n + o))
    else if o < 0x3000 then
      some (aStl 0 + o, ((List.range 8).filter (fun k => ns.any (fun n => n / 8 == k))).map (fun k => aStl (8 * k) + o))
    else some (aStl 0 + o, [aStl 0 + o])
  else none

/-! ### Reading -/

/-- What a read of the word at a canonical address changes: the latches, SCH_TBL_SEL.INDEX, the counters it
clears. -/
def State.afterRead (s : State) (a : Nat) : State :=
  if a = aIrc then
    { s with irc := { s.irc with latchHi := BitVec.ofNat 32 (s.irc.count / 2 ^ 32),
                                 latchFrac := BitVec.ofNat 32 (s.irc.frac % 65536) } }
  else if a = aSch + 8 then
    let sel := (s.cfgAt (aSch + 4)).toNat
    s.setCfg (aSch + 4) (BitVec.ofNat 32 (sel / 8192 * 8192 + (sel % 8192 + 1) % 8192))
  else
    match s.wideVal a with
    | some v =>
      let s := { s with latch := tset s.latch (a + 4) (BitVec.ofNat 32 (v / 2 ^ 32)) }
      let s := if isUnseen a then { s.free.2.free.2 with cleared := tset s.cleared a s.clk } else s
      if isRc64 a then { s with cnt := tdel s.cnt a } else s
    | none =>
      if isRc a then
        let s := if isUnseen a then { s.free.2 with cleared := tset s.cleared a s.clk }
          else if s.cntAt a < 2 ^ 32 then s else s.free.2
        let s := { s with cnt := tdel s.cnt a }
        if 0x600000 ≤ a && a < 0x700000 && a % 0x1000 = 8 then
          let l := (a - 0x600000) / 0x1000
          s.setLane l { s.lane l with fomMin := none }
        else s
      else s

/-- One word read at a canonical address. -/
def State.readWord (s : State) (w : Who) (a : Nat) : Option (Nat × State) :=
  match s.regVal w a with
  | none => none
  | some v => some (v, (s.parityCheck a).afterRead a)

/-- Every instance of a window read, and the words ORed. -/
def State.readAll (s : State) (w : Who) : List Nat → Option (Nat × State)
  | [] => some (0, s)
  | a :: l => (s.readWord w a).bind (fun r => (r.2.readAll w l).map (fun q => (r.1 ||| q.1, q.2)))

/-- A read of one word (13 R369 to R375): its value, or none where it is a bus error. -/
def State.regRead (s : State) (w : Who) (a : Nat) : Option (Nat × State) :=
  if a % 4 ≠ 0 || 0x4000000 ≤ a then none
  else
    match aliasOf a with
    | some (t, b) =>
      (match s.regVal w t with
      | none => none
      | some v => some (b2n (bit v b), s.parityCheck t))
    | none =>
      match s.window a with
      | some (like, l) =>
        if (s.regVal w like).isNone || isRc like || isRc64 like || (4 ≤ like && isRc64 (like - 4)) then none
        else s.readAll w l
      | none => s.readWord w (canon a)

end Sys2Proof.Machine
end

