-- ==== Sys2Proof/Machine/RegWrite.lean ====
section
/-! DEFINITION. Writing the register space (13 R370 to R375) and what the writes of each block do: keys, doorbells,
FLT_CMD, the key burn, shapers, policers, ports and pools. -/

namespace Sys2Proof.Machine

/-! ### Mailbox registers (13 R356, R360, R361) -/

/-- Held completions written while the completion ring has room. -/
def State.releaseHeld (m : Nat) : Nat → State → State
  | 0, s => s
  | n + 1, s =>
    let b := s.mbx m
    match b.held with
    | [] => s
    | c :: l => if b.cqFull then s else State.releaseHeld m n ((s.setMbx m { b with held := l }).writeCpl m c)

/-- The request tail, from a doorbell: none where R356 forbids it, since it moves backward or puts more entries in
the ring than it holds. -/
def State.setRqTail (s : State) (m v : Nat) : Option State :=
  let b := s.mbx m
  let used := ringUsed v b.rqHead
  if b.opened && decide (used ≤ b.rqN) && decide (ringUsed b.rqTail b.rqHead ≤ used) then
    some (s.setMbx m { b with rqTail := v })
  else none

/-- The completion head: none where it passes the tail or moves backward. -/
def State.setCqHead (s : State) (m v : Nat) : Option State :=
  let b := s.mbx m
  if b.opened && decide (ringUsed v b.cqHead ≤ ringUsed b.cqTail b.cqHead) then
    some ((s.setMbx m { b with cqHead := v }).releaseHeld m b.held.length)
  else none

/-- A mailbox reset (13 R361): rings and held completions discarded, the requester unbound, all indices zero.
Commands already started run to completion, and their completions are discarded. -/
def State.resetMbx (s : State) (m : Nat) : State :=
  let b := s.mbx m
  if !b.opened then s
  else s.setMbx m { b with owner := none, rq := [], cq := [], rqTail := 0, rqHead := 0, cqTail := 0, cqHead := 0,
                           held := [], inst := b.inst + 1 }

/-! ### Fault records (14 R382) -/

/-- FLT_CMD: ACK moves an OPEN record that is not ESCALATED to ACKED; CLOSE closes a record of class C, D or F. -/
def State.fltCmd (s : State) (v : Nat) : State :=
  let op := bits v 31 30
  let slot := bits v 17 0
  match tfind s.flt.recs slot with
  | none => s
  | some r =>
    let put (r : Rec) : State := { s with flt := { s.flt with recs := tset s.flt.recs slot r } }
    if op = 1 then (if r.st = 0 && !r.escalated then put { r with st := 1 } else s)
    else if op = 2 then (if r.cls ≠ 3 && r.st ≠ 2 then put { r with st := 2 } else s)
    else s

/-- FAULT_N outside a pulse takes the level of FLT_PIN.HOLD (14 R386). -/
def State.pinLevel (s : State) : State :=
  if s.pins.pulseAt.isSome then s else { s with pins := { s.pins with faultLow := s.pinHold } }

/-- SEC_CFGKEY_BURN (15 Table 15.9): the staged hash and LOCK are burned; ignored once LOCK is burned. -/
def State.burnKey (s : State) : State :=
  if s.fuses.lock then s
  else
    let key := (List.range 8).flatMap (fun i => toLe 4 (s.cfgAt (aSec + 0x220 + 4 * i)).toNat)
    { s with fuses := { s.fuses with cfgkey := key, lock := true } }

/-! ### Values as written -/

/-- Writes that are bus errors for their value (05 R121, R127; 06 R166; 13 R370). -/
def refusedValue (a v : Nat) : Bool :=
  (decide (0x400000 ≤ a) && decide (a < 0x500000) &&
    ((a % 0x4000 == 0 && v % 4 == 3) ||
     (wordsAt 0x40 16 (a % 0x4000) && (v == 0 || decide (2048 < v))))) ||
  (a == aSld + 0x104 && decide (16384 < v)) || (a == aSld + 0x108 && decide (512 < v))

/-- Writes that are ignored for their value: STL_DVFS_CFG with COOL not below HOT, or ALERT at 105 or above. -/
def ignoredValue (a v : Nat) : Bool :=
  a == aStl 0 + 0x3000 && (decide (bits v 31 24 ≤ bits v 23 16) || decide (105 ≤ bits v 15 8))

/-- A zero byte of SCH_WFQ_WEIGHT is taken as 1. -/
def fixWeights (v : Nat) : Nat :=
  (List.range 4).foldl (fun n i => n + 256 ^ i * max 1 (bits v (8 * i + 7) (8 * i))) 0

/-- The value a register takes for one written: limits of FLT_DEFER and FLT_HOLD_LIMIT, weights and row limits of
0 taken as 1, EN kept at 0 for a shaper with RATE 0 and a MODE 1 policer with PIR below CIR, the fixed bits of
PRT_VC_EN. -/
def State.adjust (s : State) (a v : Nat) : Nat :=
  if a = aFlt + 8 then max 100 v
  else if a = aFlt + 0xC then min 60000 (max 100 v)
  else if wordsAt (aSch + 0x10000) 4096 a then
    let o := a % 0x100
    if o = 0x20 then fixWeights v
    else if wordsAt 0x40 4 o && v % 65536 = 0 then v % 2 ^ 31
    else v
  else if wordsAt (aSch + 0x40000) 65536 a && a % 0x40 = 0 then
    (if bit v 30 && decide ((s.cfgAt (a + 8)).toNat < (s.cfgAt (a + 4)).toNat) then v % 2 ^ 31 else v)
  else if 0x400000 ≤ a && a < 0x500000 && a % 0x4000 = 8 then v ||| 0x8003
  else if 0xC00000 ≤ a && a < 0xD00000 && a % 0x40000 = 0x2C then max 1 v
  else v

/-- Both buckets of a policer full at this count (07 R197). -/
def State.fillPolicer (s : State) (i : Nat) : State :=
  let p : Pol := { tc := 100 * (s.polCfg i 0xC % 2 ^ 24), te := 100 * (s.polCfg i 0x10 % 2 ^ 24), at_ := s.clk }
  { s with sch := { s.sch with pols := tset s.sch.pols i p } }

/-- A shaper's credit after a write of its configuration or limits (07 R193). -/
def State.resetShaper (s : State) (p k : Nat) : State :=
  s.setShaper p k { s.shaperNow p k with c := if bit (s.cfgAt (aShaper p k)).toNat 30 then (s.shaperHi p k : Int) else 0 }

/-- What a write of a register does beside giving it its value. `old` is the value before. -/
def State.afterWrite (s : State) (a : Nat) (old : Word) : State :=
  if a = aFlt + 4 then s.pinLevel
  else if a = aFlt + 0x10 then s.fltCmd (s.cfgAt a).toNat
  else if a = aFlt + 0x18 then
    { s with latch := s.latch.filter (fun e => !wordsAt (aFlt + 0x100) 16 e.1) }
  else if a = aStl 0 + 0x3000 then s.realert
  else if wordsAt 0x100 16 a then { s with latch := tdel s.latch (a / 8 * 8 + 4) }
  else if wordsAt (aSch + 0x10000) 4096 a then
    let p := (a - aSch - 0x10000) / 0x100
    let o := a % 0x100
    if wordsAt 0x40 4 o || wordsAt 0x50 4 o then s.resetShaper p (o / 4 % 4) else s
  else if wordsAt (aSch + 0x40000) 65536 a then s.fillPolicer ((a - aSch - 0x40000) / 0x40)
  else if 0x400000 ≤ a && a < 0x500000 && a % 0x4000 = 0 then
    let p := (a - 0x400000) / 0x4000
    if old.getLsbD 2 && !(s.cfgAt a).getLsbD 2 && (s.port p).st != .fenced then s.portOff p .down (some 3) else s
  else s

/-! ### One word -/

/-- A write with the key closed that would have changed a WK field counts in SYS_UNLOCK_FAIL. -/
def State.unlockFail (s : State) (c : Bool) : State := if c then s.bump 0x44 1 else s

/-- One word written at a canonical address, none where it is a bus error. `key` says that the requester's key was
open for this write (13 R371). A write of an RC register leaves its count and is no bus error: DESIGN CHOICE (assumption log 158),
00 Table 0.6 says only what a read of one does. -/
def State.writeWord (s : State) (w : Who) (key : Bool) (a v : Nat) : Option State :=
  if (s.regVal w a).isNone then none
  else
    let s := s.parityCheck a
    let s := { s with sys := { s.sys with parityBad := s.sys.parityBad.filter (· != a) } }
    if a = 0x40 then
      if v = 0x6A3F then
        let isFrame (k : Key) : Bool := match k.who with
          | .host _ => true
          | .inband _ => true
          | _ => false
        let fr := s.sys.keys.filter isFrame
        let old := fr.foldl (fun (m : Option Key) k => match m with
          | none => some k
          | some x => if k.opened < x.opened then some k else some x) none
        let nine := isFrame { who := w, opened := 0 } && decide (8 ≤ fr.length)
        let keys := if nine then s.sys.keys.filter (fun k => some k != old) else s.sys.keys
        some { s with sys := { s.sys with keys := keys ++ [{ who := w, opened := s.clk }] } }
      else some (s.bump 0x44 1)
    else if a = 0x48 then
      (if v % 2 = 1 then
        (if key then some { s with sys := { s.sys with resetAsked := some 1 } } else some (s.unlockFail true))
       else some s)
    else if a = aSec + 0x240 then
      (if v % 2 = 1 then (if key then some s.burnKey else some (s.unlockFail true)) else some s)
    else if wordsAt aMbx 4096 a && a % 0x100 = 8 then s.setRqTail ((a - aMbx) / 0x100) (v % 65536)
    else if wordsAt aMbx 4096 a && a % 0x100 = 0x14 then s.setCqHead ((a - aMbx) / 0x100) (v % 65536)
    else if wordsAt aMbx 4096 a && a % 0x100 = 0x18 then
      (if v % 2 = 1 then (if key then some (s.resetMbx ((a - aMbx) / 0x100)) else some (s.unlockFail true))
       else some s)
    else if aMbx + 0x20000 ≤ a && a < aMbx + 0x30000 then
      let m := (s.cfgAt (aMbx + 0x10000)).toNat
      let b := s.mbx m
      some (s.setMbx m { b with rq := Mem.splice b.rq (a - aMbx - 0x20000) (toLe 4 v) })
    else
      match cfgMask a with
      | none => some s
      | some (rw, wk) =>
        if refusedValue a v then none
        else if ignoredValue a v then some s
        else
          let old := s.cfgAt a
          let kept := old.toNat &&& (wk &&& (if key then 0 else 0xFFFFFFFF))
          let new := s.adjust a ((v &&& (if key then rw ||| wk else rw)) ||| kept)
          let s := s.unlockFail (!key && (v &&& wk) != (old.toNat &&& wk))
          some ((s.setCfg a (BitVec.ofNat 32 new)).afterWrite a old)

/-- Every instance of a window written, as one write. -/
def State.writeAll (s : State) (w : Who) (key : Bool) (v : Nat) : List Nat → Option State
  | [] => some s
  | a :: l => (s.writeWord w key a v).bind (fun s1 => s1.writeAll w key v l)

/-- Do the reserves of SLD_CELL fit its count, and the count that a recorded carve leaves (06 R166)? -/
def State.reservesFit (s : State) (carve : Bool) : Bool :=
  let total := (List.range 80).foldl (fun n o => n + s.rsv o) 0
  let c := if carve then
      (poolCounts (s.cfgAt (aSld + 0x104)).toNat (s.cfgAt (aSld + 0x108)).toNat).1
    else s.sol.count.1
  decide (total ≤ c)

/-- Registers whose write moves the reserves of SLD_CELL or its count. -/
def touchesReserves (a : Nat) : Bool :=
  (decide (0x400000 ≤ a) && decide (a < 0x500000) && (a % 0x4000 == 8 || wordsAt 0x40 16 (a % 0x4000))) ||
  wordsAt (aSld + 0x700) 16 a || a == aSld + 0x104 || a == aSld + 0x108

/-- Bits of the registers of the first MiB that are not reserved (13 R370, R372). -/
def definedBits (a : Nat) : Nat :=
  let all := 0xFFFFFFFF
  if a < 0x10000 then
    if a = 0xC then 0xFFFF000F else if a = 0x10 then 0x8000FFFF else if a = 0x14 then 7
    else if a = 0x20 then 0xFFFF else if a = 0x2C then 0xFF else if a = 0x48 then 1
    else if a = 0x54 then 0xF3FFFFFF else if a = 0x58 then 0x3FFFFFF else all
  else if a < 0x20000 then
    if a = aIrc + 8 then 0xFFFF else if a = aIrc + 0x10 then 0x7FFFFF3F else if a = aIrc + 0x18 then 3 else all
  else if a < 0x40000 then
    let o := a - aFlt
    if o = 0 then 0xC000FFFF else if o = 4 then 7 else if o = 8 || o = 0xC then 0xFFFF
    else if o = 0x10 then 0xC003FFFF else if o = 0x18 then 0x3FFFF else if o = 0x20 then 0xF
    else if o = 0x24 then 0xFF else if o = 0x28 then 0xFFFF000F else if o = 0x30 then 0x3F000F
    else if wordsAt 0x34 5 o then 0xFFF else if o = 0x48 then 0x3FFFFF
    else if o = 0x104 then 0xFFFF003F else if o = 0x128 then 0xFFFF else if o = 0x12C then 0 else all
  else if a < 0x80000 then
    let o := a - aMbx
    if o < 0x4000 then
      let r := o % 0x100
      if r = 0 then 7 else if r = 4 then 0xFFFFFF else if r = 0x18 then 1 else if r = 0x1C then all
      else if r = 0x20 then 0x7FF else 0xFFFF
    else if o = 0x10000 then 0x3F else all
  else
    let o := a - aSec
    if o = 0 then 0x3F else if o = 4 || o = 8 then 0x7FF else if o = 0xC then 0x7F else if o = 0x240 then 1 else all

/-! ### A write of the register space -/

/-- The key closes at its requester's next register write, whatever its target. -/
def State.closeKey (s : State) (w : Who) : State :=
  { s with sys := { s.sys with keys := s.sys.keys.filter (fun k => k.who != w) } }

/-- A write of one word (13 R369 to R375): the state it leaves, or none where it is a bus error. The key that was
open is used up by it. -/
def State.regWrite (s : State) (w : Who) (a v : Nat) : Option State :=
  let key := s.keyOpen w
  let s0 := s.closeKey w
  let fit (like : Nat) (r : Option State) : Option State :=
    match r with
    | none => none
    | some s1 => if touchesReserves like && !s1.reservesFit (like == aSld + 0x104 || like == aSld + 0x108) then none else some s1
  if a % 4 ≠ 0 || 0x4000000 ≤ a then none
  else
    match aliasOf a with
    | some (t, b) =>
      (match s.regVal w t with
      | none => none
      | some old =>
        if v % 2 = 1 && !bit (definedBits t) b then none
        else
          let cleared := old - (if bit old b then 2 ^ b else 0)
          fit t (s0.writeWord w key t (cleared + (if v % 2 = 1 then 2 ^ b else 0))))
    | none =>
      match s.window a with
      | some (like, l) => if (s.regVal w like).isNone then none else fit like (s0.writeAll w key v l)
      | none => fit (canon a) (s0.writeWord w key (canon a) v)

/-! ### Accesses -/

/-- May a requester reach the register space now? In reset, and before the OTP read, nothing answers; without
running firmware, out of service and under class X only the SMBus does (13 R353, 14 R388, R389). -/
def State.reachable (s : State) (w : Who) : Bool :=
  !s.pins.floating && s.pins.resetN && (s.sys.otpRead || s.sys.classX) && (w == .smbus || (s.brass && !s.sys.outOfService))

/-- Under class X the SMBus target answers reads of SYS and FLT only, and with no firmware those of SEC too; every
write is refused (14 R388, 15 R429). -/
def State.smbusOnly (s : State) (a : Nat) : Bool :=
  if s.sys.classX then decide (a < 0x10000) || (decide (0x20000 ≤ a) && decide (a < 0x40000))
  else if s.sys.noFirmware then
    decide (a < 0x10000) || (decide (0x20000 ≤ a) && decide (a < 0x40000)) ||
    (decide (0x80000 ≤ a) && decide (a < 0x100000))
  else true

/-- A read access: the word, or a bus error recorded. -/
def State.access (s : State) (w : Who) (a : Nat) : State × Option Nat :=
  match (if s.smbusOnly a then s.regRead w a else none) with
  | some (v, s1) => (s1, some v)
  | none => (s.busError w a, none)

/-- A write access, and whether it was taken. -/
def State.store (s : State) (w : Who) (a v : Nat) : State × Bool :=
  match (if s.sys.classX || s.sys.noFirmware then none else s.regWrite w a v) with
  | some s1 => (s1, true)
  | none => ((s.closeKey w).busError w a, false)

/-- A register read by a requester: what it returns stands in State.bus. -/
def State.busRead (s : State) (w : Who) (a : Nat) : State :=
  let (s1, r) := s.access w a
  { s1 with bus := { data := (r.map (fun v => BitVec.ofNat 32 v)).toList, err := r.isNone } }

/-- A register write by a requester: State.bus says whether it was a bus error. -/
def State.busWrite (s : State) (w : Who) (a v : Nat) : State :=
  let (s1, ok) := s.store w a v
  { s1 with bus := { data := [], err := !ok } }

end Sys2Proof.Machine
end

