-- ==== Sys2Proof/Machine/Access.lean ====
section
/-! DEFINITION. Register accesses by requester (13 R369 to R375 and the registers with a row of their own), the SMBus
target (13 R353), the parity scan (13 R373) and the JTAG TAP (16 R448). -/

namespace Sys2Proof.Machine

/-! ### Writes -/

/-- A write of the word `v` at `a`, where the requester reaches the register space. -/
def State.writeCmd (s : State) (w : Who) (a : Nat) (v : Word) : Host.Outcome State Fault Refusal :=
  due (s.reachable w) s (s.busWrite w a v.toNat)

/-- A read of the word at `a`. -/
def State.readCmd (s : State) (w : Who) (a : Nat) : Host.Outcome State Fault Refusal :=
  due (s.reachable w) s (s.busRead w a)

/-- REGISTER_WRITE (13 R370). -/
def execRegisterWrite (w : Who) (a : BitVec 26) (v : Word) (s : State) : Host.Outcome State Fault Refusal :=
  s.writeCmd w a.toNat v

/-- BIT_ALIAS_WRITE (13 R372). -/
def execBitAliasWrite (w : Who) (a : BitVec 26) (v : Word) (s : State) : Host.Outcome State Fault Refusal :=
  s.writeCmd w a.toNat v

/-- BROADCAST_WRITE (13 R374). -/
def execBroadcastWrite (w : Who) (a : BitVec 26) (v : Word) (s : State) : Host.Outcome State Fault Refusal :=
  s.writeCmd w a.toNat v

/-- GROUP_WINDOW_WRITE (13 R375). -/
def execGroupWindowWrite (w : Who) (a : BitVec 26) (v : Word) (s : State) : Host.Outcome State Fault Refusal :=
  s.writeCmd w a.toNat v

/-- SYS_UNLOCK (13 R371). -/
def execSysUnlock (w : Who) (v : Word) (s : State) : Host.Outcome State Fault Refusal := s.writeCmd w 0x40 v

/-- UNLOCK_KEY_TIMEOUT (13 R371): keys close 100,000 ns after they opened. -/
def execUnlockKeyTimeout (s : State) : Host.Outcome State Fault Refusal :=
  due s.on s { s with sys := { s.sys with keys := s.sys.keys.filter (fun k => decide (s.clk < k.opened + 100000)) } }

/-- SYS_RESET (14 R404): a write that is taken starts a warm reset at once. -/
def execSysReset (w : Who) (v : Word) (b : BootObs) (s : State) : Host.Outcome State Fault Refusal :=
  let s1 := s.busWrite w 0x48 v.toNat
  due (s.reachable w) s (if s1.sys.resetAsked = some 1 then s1.warm 1 b else s1)

/-- MBX_RQ_TAIL (13 R356). -/
def execMbxRqTail (w : Who) (m : BitVec 6) (v : Word) (s : State) : Host.Outcome State Fault Refusal :=
  s.writeCmd w (aMbx + 0x100 * m.toNat + 8) v

/-- MBX_CQ_HEAD (13 R356, R360). -/
def execMbxCqHead (w : Who) (m : BitVec 6) (v : Word) (s : State) : Host.Outcome State Fault Refusal :=
  s.writeCmd w (aMbx + 0x100 * m.toNat + 0x14) v

/-- MBX_CTL.RESET (13 R361). -/
def execMbxCtlReset (w : Who) (m : BitVec 6) (v : Word) (s : State) : Host.Outcome State Fault Refusal :=
  s.writeCmd w (aMbx + 0x100 * m.toNat + 0x18) v

/-- FLT_CMD with OP 1, ACK (14 R382). -/
def execFltCmdAck (w : Who) (slot : BitVec 18) (s : State) : Host.Outcome State Fault Refusal :=
  s.writeCmd w (aFlt + 0x10) (BitVec.ofNat 32 (0x40000000 + slot.toNat))

/-- FLT_CMD with OP 2, CLOSE (14 R382). -/
def execFltCmdClose (w : Who) (slot : BitVec 18) (s : State) : Host.Outcome State Fault Refusal :=
  s.writeCmd w (aFlt + 0x10) (BitVec.ofNat 32 (0x80000000 + slot.toNat))

/-- SEC_CFGKEY_BURN (15 R437). -/
def execSecCfgkeyBurn (w : Who) (v : Word) (s : State) : Host.Outcome State Fault Refusal :=
  s.writeCmd w (aSec + 0x240) v

/-- SCH_SHAPER_CFG and SCH_SHAPER_LIMIT (07 R193). -/
def execShaperWrite (w : Who) (p : BitVec 6) (k : BitVec 2) (limit : Bool) (v : Word) (s : State) :
    Host.Outcome State Fault Refusal :=
  s.writeCmd w (if limit then aShaperLim p.toNat k.toNat else aShaper p.toNat k.toNat) v

/-- Offset of a policer's register (07 Table 7.12). -/
def polOff : PolReg → Nat
  | .cfg => 0
  | .cir => 4
  | .pir => 8
  | .cbs => 0xC
  | .epbs => 0x10

/-- The registers of a policer (07 R197). -/
def execPolicerWrite (w : Who) (i : BitVec 12) (r : PolReg) (v : Word) (s : State) :
    Host.Outcome State Fault Refusal :=
  s.writeCmd w (aPol i.toNat + polOff r) v

/-- SCH_WFQ_WEIGHT (07 R191). -/
def execWeightWrite (w : Who) (p : BitVec 6) (v : Word) (s : State) : Host.Outcome State Fault Refusal :=
  s.writeCmd w (aSchPort p.toNat + 0x20) v

/-- PRT_CFG (05 R144): ENABLE 0 holds the port in electrical idle after a LEAVE with reason 3. -/
def execPortDisable (w : Who) (p : BitVec 6) (v : Word) (s : State) : Host.Outcome State Fault Refusal :=
  s.writeCmd w (aPrt p.toNat) v

/-- PRT_VC_LIMIT (05 R127). -/
def execPrtVcLimitWrite (w : Who) (p : BitVec 6) (vc : BitVec 4) (v : Word) (s : State) :
    Host.Outcome State Fault Refusal :=
  s.writeCmd w (aPrt p.toNat + 0x40 + 4 * vc.toNat) v

/-- PRT_VC_EN (05 R127). -/
def execPrtVcEnWrite (w : Who) (p : BitVec 6) (v : Word) (s : State) : Host.Outcome State Fault Refusal :=
  s.writeCmd w (aPrt p.toNat + 8) v

/-- SLD_POOL_CFG[1] and [2] (06 R163, R166). -/
def execSldPoolCfgWrite (w : Who) (second : Bool) (v : Word) (s : State) : Host.Outcome State Fault Refusal :=
  s.writeCmd w (aSld + (if second then 0x108 else 0x104)) v

/-- SLD_RSV (06 R166). -/
def execSldRsvWrite (w : Who) (pt : BitVec 7) (v : Word) (s : State) : Host.Outcome State Fault Refusal :=
  s.writeCmd w (aSld + 0x600 + 4 * pt.toNat) v

/-! ### Reads -/

/-- IRC_NOW_LO (04 R75). -/
def execIrcNowLoRead (w : Who) (s : State) : Host.Outcome State Fault Refusal := s.readCmd w aIrc

/-- SCH_TBL_DATA (07 R200). -/
def execSchTblDataRead (w : Who) (s : State) : Host.Outcome State Fault Refusal := s.readCmd w (aSch + 8)

/-- A read-clear register (00 R8). -/
def execRcRead (w : Who) (a : BitVec 26) (s : State) : Host.Outcome State Fault Refusal := s.readCmd w a.toNat

/-- The low word of a 64-bit value (13 R369). -/
def execLowWordRead (w : Who) (a : BitVec 26) (s : State) : Host.Outcome State Fault Refusal := s.readCmd w a.toNat

/-! ### Parity scan (13 R373) -/

/-- CONFIG_PARITY_SCAN: the scan finds a mismatch in register `bad`, if any; every mismatch that stands is raised. -/
def execConfigParityScan (bad : Option (BitVec 26)) (s : State) : Host.Outcome State Fault Refusal :=
  let l := match bad with
    | some a =>
      let c := canon a.toNat
      if isConfig c && !s.sys.parityBad.contains c then s.sys.parityBad ++ [c] else s.sys.parityBad
    | none => s.sys.parityBad
  let s1 : State := { s with sys := { s.sys with parityBad := l } }
  due s.on s (l.foldl (fun s a => s.parityFault a) s1)

/-! ### SMBus (13 R353) -/

/-- The SMBus target acts on a transaction with a right PEC; a wrong or missing one is only noted. -/
def State.smbusCmd (s : State) (pec : Bool) (t : State) : Host.Outcome State Fault Refusal :=
  due (s.reachable .smbus) s (if pec then t else { s with smb := { s.smb with pecErr := true } })

/-- SMBUS_ADDR: the register address pointer written or read. -/
def execSmbusAddr (pec : Bool) (wr : Option (BitVec 32)) (s : State) : Host.Outcome State Fault Refusal :=
  s.smbusCmd pec (match wr with
    | some v => { s with smb := { s.smb with ptr := v } }
    | none => { s with smb := { s.smb with out := toLe 4 s.smb.ptr.toNat } })

/-- Words written at the pointer, which advances past each that is taken; a failing word ends the write. -/
def State.smbusStore (s : State) : List Word → State
  | [] => { s with smb := { s.smb with busErr := false } }
  | v :: l =>
    let r := s.store .smbus s.smb.ptr.toNat v.toNat
    if r.2 then ({ r.1 with smb := { r.1.smb with ptr := r.1.smb.ptr + 4 } }).smbusStore l
    else { r.1 with smb := { r.1.smb with busErr := true } }

/-- SMBUS_DATA_WRITE: 4 to 32 bytes, in whole words. A block of any other length changes nothing and sets no STATUS bit: DESIGN CHOICE
(assumption log 159), 13 R353 does not say what it does. -/
def execSmbusDataWrite (pec : Bool) (data : List Byte) (s : State) : Host.Outcome State Fault Refusal :=
  let ok := decide (4 ≤ data.length) && decide (data.length ≤ 32) && data.length % 4 == 0
  s.smbusCmd pec (if ok then s.smbusStore (toWords data) else s)

/-- `n` words read at the pointer; the failing word and every later one read as ones. -/
def State.smbusFetch : Nat → State → State × List Byte
  | 0, s => ({ s with smb := { s.smb with busErr := false } }, [])
  | n + 1, s =>
    let r := s.access .smbus s.smb.ptr.toNat
    if r.2.isSome then
      let q := State.smbusFetch n { r.1 with smb := { r.1.smb with ptr := r.1.smb.ptr + 4 } }
      (q.1, toLe 4 (r.2.getD 0) ++ q.2)
    else
      ({ r.1 with smb := { r.1.smb with ptr := r.1.smb.ptr + BitVec.ofNat 32 (4 * (n + 1)), busErr := true } },
        List.replicate (4 * (n + 1)) 0xFF)

/-- SMBUS_DATA_READ: RDLEN bytes at the pointer, which then advances. -/
def execSmbusDataRead (pec : Bool) (s : State) : Host.Outcome State Fault Refusal :=
  let (s1, l) := State.smbusFetch (s.smb.rdlen / 4) s
  s.smbusCmd pec { s1 with smb := { s1.smb with out := l } }

/-- SMBUS_RDLEN: 4 to 32, in whole words. Any other value is not taken and sets no STATUS bit: DESIGN CHOICE (assumption log 159). -/
def execSmbusRdlen (pec : Bool) (wr : Option Byte) (s : State) : Host.Outcome State Fault Refusal :=
  s.smbusCmd pec (match wr with
    | some v =>
      if 4 ≤ v.toNat && v.toNat ≤ 32 && v.toNat % 4 = 0 then { s with smb := { s.smb with rdlen := v.toNat } } else s
    | none => { s with smb := { s.smb with out := [BitVec.ofNat 8 s.smb.rdlen] } })

/-- SMBUS_STATUS: read and cleared. -/
def execSmbusStatus (pec : Bool) (s : State) : Host.Outcome State Fault Refusal :=
  s.smbusCmd pec
    { s with smb := { s.smb with out := [BitVec.ofNat 8 (b2n s.smb.busErr + 2 * b2n s.smb.pecErr)],
                                 busErr := false, pecErr := false } }

/-! ### JTAG (16 R448): the TAP works while the Fixus is powered, in reset too (Table 16.4) -/

/-- BYPASS: the one-bit bypass register, which captures 0. -/
def execBypass (s : State) : Host.Outcome State Fault Refusal :=
  due s.pins.pwrgd s { s with pins := { s.pins with ir := .bypass, tdo := [false] } }

/-- IDCODE: version, part, JEP106 code and 1 (16 R448). -/
def idcodeWord : Word :=
  BitVec.ofNat 32 (2 ^ 28 * 1 + 2 ^ 12 * 0x0F12 + 2 * Config.jep106.toNat + 1)

/-- The 32 bits of IDCODE, bit 0 first. -/
def execIdcode (s : State) : Host.Outcome State Fault Refusal :=
  due s.pins.pwrgd s
    { s with pins := { s.pins with ir := .idcode, tdo := (List.range 32).map (fun i => idcodeWord.getLsbD i) } }

/-- SAMPLE/PRELOAD: the pins captured and shifted out, the values shifted in held for EXTEST. -/
def execSamplePreload (pins shift : List Bool) (s : State) : Host.Outcome State Fault Refusal :=
  due s.pins.pwrgd s { s with pins := { s.pins with ir := .sample, tdo := pins, driven := shift } }

/-- EXTEST: accepted only while RESET_N is low; the boundary chain then drives the pins with what was shifted in. -/
def execExtest (pins shift : List Bool) (s : State) : Host.Outcome State Fault Refusal :=
  due (s.pins.pwrgd && !s.pins.resetN) s { s with pins := { s.pins with ir := .extest, tdo := pins, driven := shift } }

end Sys2Proof.Machine
end

