-- ==== Sys2Proof/Machine/Boot.lean ====
section
/-! DEFINITION. Reset exit, HELLO, the cell's warm reset, the reset and power pins: 01 R25, 13 R350 and R354, 14
R404 to R408, 15 R427, 16 R443 to R456. -/

namespace Sys2Proof.Machine

/-! ### Reset exit (14 R406, 13 R354, 15 R427) -/

/-- A mailbox that binds again: no requester of before the reset is refused there any more (13 R362). -/
def State.rebound (s : State) (m : Nat) : State := { s with bound := s.bound.filter (fun e => e.2.2 != m) }

/-- A mailbox opened with its rings empty and zero, its pages drawn from pool 1; not where the pool lacks them. -/
def State.openMbx (s : State) (m rq cq : Nat) (owner : Option (BitVec 15 × Bool)) : Option State :=
  if rq + cq ≤ s.pool1Free then
    let b := s.mbx m
    let s := if owner.isSome then s.rebound m else s
    let s := { s with sol := { s.sol with used1 := s.sol.used1 + rq + cq } }
    some (s.setMbx m { Mbx.init with opened := true, owner := owner, rqPages := rq, cqPages := cq, inst := b.inst + 1,
                                     running := b.running })
  else none

/-- The register writes of a configuration image, each WK field as if the key were open. A bus error stops them:
the answer is then false. -/
def State.applyPairs (s : State) (bs : List Byte) : Nat → Nat → State × Bool
  | 0, _ => (s, true)
  | n + 1, k =>
    let a := fld bs (8 + 8 * k) 4
    let v := fld bs (12 + 8 * k) 4
    let keyed : State := { s with sys := { s.sys with keys := s.sys.keys ++ [{ who := .brass, opened := s.clk }] } }
    let r := keyed.regWrite .brass a v
    if r.isSome then (r.getD s).applyPairs bs n (k + 1)
    else ((keyed.closeKey .brass).busError .brass a, false)

/-- The configuration payload applied before any link trains (15 R427): SYS_POS, IRC_CTRL.MODE, the pairs. The job
block is the whole hall until a job's first context opens (assumption log 8). -/
def State.applyConfig (s : State) (bs : List Byte) : State :=
  let n := fld bs 4 2
  let hx := fld bs 1 1
  let hy := fld bs 2 1
  let hall := bit (fld bs 3 1) 0
  let s : State := { s with
    sys := { s.sys with cell := fld bs 0 1 % 64, hx := hx, hy := hy, block := (0, 0, max 1 hx, max 1 hy) },
    irc := { s.irc with hall := hall } }
  let s := s.setCfg (aIrc + 0x18) ((s.cfgAt (aIrc + 0x18) &&& 2) ||| (if hall then 1 else 0))
  let (s, ok) := s.applyPairs bs (min 8160 n) 0
  { s with sys := { s.sys with configured := ok && decide (n ≤ 8160) } }

/-- INFO of source 0x0706, the straps seen: HOSTBR and switch number. -/
def strapInfo (hostbr : Bool) (sw : Nat) : Nat := 2 ^ 31 * b2n hostbr + sw

/-- A HOSTBR or position conflict (01 R25, 16 R446): one record, and the seam and hall ports stay down. Those that are up send LEAVE
with reason 1, that of a fault: DESIGN CHOICE (assumption log 156), the spec names no LEAVE here. -/
def State.strapConflict (s : State) (info : Nat) : State :=
  let s := s.record 2 0 0 0x0706 info
  let s := { s with sys := { s.sys with hostbrConflict := true } }
  (List.range 64).foldl (fun s p =>
    if s.seamOrHall p && (s.port p).st != .absent && (s.port p).st != .down && (s.port p).st != .fenced
    then s.portOff p .down (some 1) else s) s

/-- HELLO on the lowest-numbered live port of a mesh group (13 R350). -/
def State.sendHello (s : State) (g : Nat) : State :=
  let arg := strapInfo s.pins.hostbr s.pins.sw + 2 ^ 30 * b2n s.irc.hall
  let f : Frame := { vc := 0, hdr := s.hdr 0x7FFF ftMgmt 0 0 0 0 (0x0D + 2 ^ 32 * arg) false 0 0, payload := [] }
  match s.kth (groupPorts g) 0 with
  | some _ => s.sendGroup 79 g f
  | none => s

/-- The mesh groups of this Fixus whose neighbour's HELLO has not arrived. -/
def State.unheard (s : State) : List Nat :=
  ([8, 9, 10, 11].filter (fun g => s.meshGroup g)).filter (fun g => !s.sys.helloSeen.contains g)

/-- RESET_EXIT: Brass firmware runs. MBX 0 and MBX 63 open, the configuration is applied, the straps are checked,
lane training begins (not yet after a cell reset, 14 R408) and the first HELLO frames leave. -/
def State.resetExit (s : State) : State :=
  let s : State := { s with sys := { s.sys with fwReady := true } }
  let s := (s.openMbx 0 4 4 none).getD s
  let s := (s.openMbx 63 1 1 none).getD s
  let s := if s.sec.cfgOk then s.applyConfig (imgPayload (Config.eContent (s.cfgSlot s.flash.cfgActive))) else s
  let s := if s.pins.hostbr != (s.pins.sw == 0) then s.strapConflict (strapInfo s.pins.hostbr s.pins.sw) else s
  let s : State := { s with sys := { s.sys with training := decide (s.sys.resetCause ≠ 3), helloAt := s.clk },
                            pins := { s.pins with barLow := false, romBar := none } }
  s.unheard.foldl (fun s g => s.sendHello g) s

/-- RESET_EXIT. Where the boot ROM has not run yet, as in State.reset, it runs first with all its checks passed, and firmware starts
where an image passes (15 R428, R429). -/
def execResetExit (s : State) : Host.Outcome State Fault Refusal :=
  let s1 := if s.sys.otpRead then s else s.boot s.bootSeen
  due (s.on && !s.sys.fwReady) s (if s1.sys.noFirmware then s1 else s1.resetExit)

/-! ### HELLO (13 R350, 01 R25, 16 R446) -/

/-- Switch number that the neighbour beyond a mesh group must report. -/
def meshSwitch (sw g : Nat) : Nat :=
  if g = 8 then sw - 4 else if g = 9 then sw + 1 else if g = 10 then sw + 4 else sw - 1

/-- HELLO from a mesh neighbour: its number must be that of its place, and HOSTBR be strapped at position (0, 0)
alone. `cell` says that the straps of the cell break 01 R22 elsewhere: every Fixus of the cell keeps its ports down then (R25),
and the spec names no message that tells it (assumption log 56). -/
def State.hello (s : State) (f : Mgmt) (cell : Bool) : State :=
  let g := f.port.toNat / 4
  let sw := f.arg.toNat % 16
  let hb := f.arg.getLsbD 31
  let s1 : State := { s with sys := { s.sys with
    helloSeen := if s.sys.helloSeen.contains g then s.sys.helloSeen else s.sys.helloSeen ++ [g] } }
  let bad := cell || sw != meshSwitch s.pins.sw g || hb != (sw == 0)
  if !s.meshGroup g then s else if bad then s1.strapConflict (strapInfo hb sw) else s1

def execHello (f : Mgmt) (cell : Bool) (s : State) : Host.Outcome State Fault Refusal :=
  s.brassFrame 0x0D f (fun s => s.hello f cell)

/-- HELLO_REPEAT: every 100 ms, to each mesh neighbour not yet heard. -/
def execHelloRepeat (s : State) : Host.Outcome State Fault Refusal :=
  let s1 : State := { s with sys := { s.sys with helloAt := s.clk } }
  due (s.brass && decide (s.sys.helloAt + 100000000 ≤ s.clk)) s (s1.unheard.foldl (fun s g => s.sendHello g) s1)

/-! ### The cell's warm reset (14 R408) -/

/-- Is an address another Fixus of this cell? -/
def State.cellMate (s : State) (a : Nat) : Bool :=
  addrIsFixus a && addrCell a == s.sys.cell && addrUnit a == 0 && a != s.addr

/-- CELL_RESET: the order of another Fixus of the cell, with the count W. -/
def execCellReset (f : Mgmt) (s : State) : Host.Outcome State Fault Refusal :=
  s.brassFrame 0x0E f (fun s =>
    if s.cellMate f.src.toNat && !f.host && f.payload.length == 10 then
      { s with sys := { s.sys with cellW := some (fld f.payload 2 8) } }
    else s)

/-- CELL_RESET_ENTRY: at W, warm reset with cause 3; the boot ROM pulls BAR_N low from W + 10,000 ns, and a Fixus whose boot fails
floats it. -/
def execCellResetEntry (b : BootObs) (s : State) : Host.Outcome State Fault Refusal :=
  let s1 := s.warm 3 b
  let s2 : State := { s1 with sys := { s1.sys with cellW := none },
                              pins := { s1.pins with
    romBar := if s1.sys.noFirmware || s1.sys.classX then none else some (s1.clk + 10000) } }
  match s.sys.cellW with
  | none => .next s
  | some w => due (s.on && decide (w ≤ s.now)) s s2

/-- Lane training starts after a cell reset. -/
def State.releaseCell (s : State) : State := { s with sys := { s.sys with training := true } }

/-- CELL_RELEASE: BAR_N has read high for 1,000 ns, not sampled before W + 100,000 ns. -/
def execCellRelease (s : State) : Host.Outcome State Fault Refusal :=
  due (s.brass && s.sys.resetCause == 3 && decide (s.sys.resetAt + 100000 ≤ s.clk)) s s.releaseCell

/-- CELL_RELEASE_TIMEOUT: at W + 3,000,000,000 ns training starts anyway. -/
def execCellReleaseTimeout (s : State) : Host.Outcome State Fault Refusal :=
  due (s.brass && s.sys.resetCause == 3 && decide (s.sys.resetAt + 3000000000 ≤ s.clk)) s s.releaseCell

/-! ### Warm and cold reset, power (14 R404, 16 R456) -/

/-- WARM_RESET: for SYS_RESET (cause 1) and RESET_WARM (cause 2) as asked for, and for an uncorrectable word of Brass
SRAM (cause 5, source 0x0705). The other causes have rows of their own. -/
def execWarmReset (cause : BitVec 4) (b : BootObs) (s : State) : Host.Outcome State Fault Refusal :=
  let c := cause.toNat
  if c = 1 || c = 2 then due (s.on && s.sys.resetAsked == some c) s (s.warm c b)
  else if c = 5 then
    let (n, s1) := s.free
    due s.on s ((s1.record 2 0 0 0x0705 (n % 2 ^ 20)).warm 5 b)
  else .next s

/-- RESET_N: low for 1,000 ns or more with PWRGD high is a cold reset, without effect under class X; its release
samples the straps and starts the boot. -/
def execResetN (high : Bool) (width : BitVec 32) (b : BootObs) (s : State) : Host.Outcome State Fault Refusal :=
  if high then
    let s1 : State := { s with pins := { s.pins with resetN := true } }
    due (s.pins.pwrgd && s.pins.floating && !s.pins.resetN) s ((s1.unitsReset 0 b).boot b)
  else
    let s1 := if s.pins.floating then s else s.heldReset
    due (s.pins.pwrgd && decide (1000 ≤ width.toNat) && !s.sys.classX) s
      { s1 with pins := { s1.pins with resetN := false } }

/-- PWRGD: low for 1,000 ns or more is a power cycle, which alone ends class X. -/
def execPwrgd (high : Bool) (width : BitVec 32) (s : State) : Host.Outcome State Fault Refusal :=
  if high then .next { s with pins := { s.pins with pwrgd := true } }
  else
    let s1 := s.heldReset
    due (decide (1000 ≤ width.toNat)) s { s1 with pins := { s1.pins with pwrgd := false } }

/-- REFCLK_STOP (16 R451): 1,000 ns or more without a reference is time FAULT, in service. -/
def execRefclkStop (width : BitVec 32) (s : State) : Host.Outcome State Fault Refusal :=
  let s1 : State := { s with pins := { s.pins with refclkOk := false } }
  due (decide (1000 ≤ width.toNat)) s
    (if s.on && s.irc.state != .free && s.irc.state != .fault then s1.timeFault 0 else s1)

/-- REFCLK_RESTORE (16 R450). -/
def execRefclkRestore (s : State) : Host.Outcome State Fault Refusal :=
  .next { s with pins := { s.pins with refclkOk := true } }

end Sys2Proof.Machine
end

