-- ==== Sys2Proof/Machine/Mailbox.lean ====
section
/-! DEFINITION. How Brass takes request entries (13 R356 to R360, R365): the checks of an entry's header and ARGS, and
the commands on mailboxes themselves. -/

namespace Sys2Proof.Machine

/-! ### The command table (13 Table 13.9) -/

/-- The named ARGS fields of an opcode: first byte, last byte, and the named bits of each of these bytes. -/
def argFields (op : Nat) : List (Nat × Nat × Nat) :=
  if op = 0x0003 then [(0, 2, 0xFF), (3, 3, 1), (4, 4, 0xFF), (5, 5, 0x7F)]
  else if op = 0x0004 then [(0, 0, 0xFF)]
  else if op = 0x0005 then [(0, 2, 0xFF), (4, 5, 0xFF), (8, 15, 0xFF)]
  else if op = 0x0006 then [(0, 1, 0xFF), (4, 7, 0xFF)]
  else if op = 0x0007 then [(0, 1, 0xFF)]
  else if op = 0x0008 then [(0, 2, 0xFF), (4, 23, 0xFF)]
  else if op = 0x0101 then [(0, 0, 0xFF), (2, 9, 0xFF)]
  else if op = 0x0102 || op = 0x0103 then [(0, 0, 0xFF)]
  else if op = 0x0104 then [(0, 0, 0xFF), (2, 3, 0xFF)]
  else if op = 0x0105 then [(0, 1, 0xFF), (2, 2, 1)]
  else if op = 0x0106 then [(0, 0, 0xFF), (2, 4, 0xFF), (8, 35, 0xFF)]
  else if op = 0x0107 then [(0, 7, 0xFF)]
  else if op = 0x0201 then [(0, 127, 0xFF)]
  else if op = 0x0301 then [(0, 5, 0xFF)]
  else if op = 0x0302 then [(0, 0, 0xFF), (2, 3, 0xFF), (8, 15, 0xFF)]
  else if op = 0x0303 then [(0, 15, 0xFF)]
  else if op = 0x0304 then [(0, 1, 0xFF)]
  else if op = 0x0401 then [(0, 0, 0xFF), (2, 9, 0xFF), (12, 15, 0xFF), (16, 16, 1)]
  else if op = 0x0402 then [(0, 0, 0xFF), (2, 4, 0xFF), (5, 5, 0x7F), (6, 6, 0xFF), (8, 15, 0xFF)]
  else if op = 0x0403 then [(0, 0, 0xFF), (2, 3, 0xFF)]
  else if op = 0x0404 then [(0, 1, 0xFF)]
  else if op = 0x0501 || op = 0x0503 || op = 0x0603 then [(0, 0, 0xFF)]
  else if op = 0x0502 || op = 0x0602 then [(0, 2, 0xFF)]
  else if op = 0x0601 then [(0, 33, 0xFF)]
  else []

/-- Opcodes of requests. -/
def knownOp (op : Nat) : Bool :=
  (decide (1 ≤ op) && decide (op ≤ 8)) || (decide (0x0101 ≤ op) && decide (op ≤ 0x0107)) || op == 0x0201 ||
  (decide (0x0301 ≤ op) && decide (op ≤ 0x0304)) || (decide (0x0401 ≤ op) && decide (op ≤ 0x0404)) ||
  (decide (0x0501 ≤ op) && decide (op ≤ 0x0503)) || (decide (0x0601 ≤ op) && decide (op ≤ 0x0603))

/-- Start column S: the command waits for every earlier one of its mailbox. -/
def serialOp (op : Nat) : Bool :=
  knownOp op && !(op == 1 || op == 2 || op == 8 || op == 0x0102 || op == 0x0103 || op == 0x0201 || op == 0x0302 ||
    op == 0x0404 || op == 0x0601)

/-- Commands refused with PATH on MBX 63. -/
def hostOnly (op : Nat) : Bool := op == 5 || op == 8 || op == 0x0601

/-- Bytes of ARGS that an opcode needs. -/
def argNeed (op : Nat) : Nat := (argFields op).foldl (fun m f => max m (f.2.1 + 1)) 0

/-- Named bits of ARGS byte `i` of an opcode. -/
def argMask (op i : Nat) : Nat :=
  match (argFields op).find? (fun f => decide (f.1 ≤ i) && decide (i ≤ f.2.1)) with
  | some f => f.2.2
  | none => 0

/-- Units that UNIT_FENCE can name, by KIND. -/
def fenceUnits (kind : Nat) : Nat := ([264, 64, 16, 64, 8, 64] : List Nat).getD kind 0

/-- ARGS offsets of fields outside the range that Table 13.9 gives them. -/
def rangeFaults (op : Nat) (g : List Byte) : List Nat :=
  let b (i : Nat) : Nat := fld g i 1
  let h (i : Nat) : Nat := fld g i 2
  let bad (c : Bool) (i : Nat) : List Nat := if c then [i] else []
  let pages (i : Nat) : List Nat := bad (b i == 0 || decide (16 < b i)) i
  if op = 3 then bad (b 0 == 0 || decide (62 < b 0)) 0 ++ pages 1 ++ pages 2
  else if op = 4 then bad (b 0 == 0 || decide (62 < b 0)) 0
  else if op = 5 then bad (decide (2 < b 0)) 0 ++ bad (b 0 == 1 && decide (2 < b 1)) 1 ++ bad (fld g 8 8 == 0) 8
  else if op = 8 then bad (decide (4 < b 0)) 0 ++ bad (b 0 == 3 && decide (2 < b 1)) 1
  else if op = 0x0101 then bad (h 2 == 0) 2
  else if op = 0x0105 then bad (decide (4095 < h 0)) 0
  else if op = 0x0301 then bad (h 2 == 0) 2 ++ bad (h 4 == 0 || decide (8192 < h 4)) 4
  else if op = 0x0302 then bad (h 2 == 0) 2
  else if op = 0x0402 then bad (h 2 == 0 || h 2 == 0xFFFF) 2 ++ bad (decide (4 < b 6)) 6
  else if op = 0x0403 then bad (h 2 == 0 || h 2 == 0xFFFF) 2
  else if op = 0x0404 then bad (decide (3 < b 0)) 0 ++ bad (decide (15 < b 1)) 1
  else if op = 0x0501 then bad (decide (63 < b 0)) 0
  else if op = 0x0502 then bad (decide (5 < b 0)) 0 ++ bad (decide (b 0 ≤ 5) && decide (fenceUnits (b 0) ≤ h 1)) 1
  else if op = 0x0503 || op = 0x0603 then bad (decide (1 < b 0)) 0
  else if op = 0x0602 then bad (decide (1 < b 2)) 2
  else []

/-- DETAIL of an entry with a fault in its header or its ARGS (13 R357): the lowest fault, the header first. -/
def entryFault (e : List Byte) : Option Nat :=
  let op := fld e 0 2
  let n := fld e 3 1
  let g := bytesAt e 32 (8 * n)
  if fld e 2 1 ≠ 0 then some 0x8002
  else if 28 < n || 8 * n < argNeed op then some 0x8003
  else match (List.range 24).find? (fun i => fld e (8 + i) 1 != 0) with
    | some i => some (0x8008 + i)
    | none =>
      let rsv := (List.range (8 * n)).find? (fun i => (fld g i 1 &&& (255 - argMask op i)) != 0)
      (rsv.toList ++ rangeFaults op g).foldl (fun (m : Option Nat) i => match m with
        | none => some i
        | some j => some (min i j)) none

/-! ### Taking an entry -/

/-- A command as taken: its completion's header and its ARGS. -/
structure Req where
  cmd : Cmd
  args : List Byte
deriving DecidableEq, Repr

/-- A byte, a 16-bit, a 32-bit and a 64-bit field of ARGS. -/
def Req.b (r : Req) (i : Nat) : Nat := fld r.args i 1
def Req.h (r : Req) (i : Nat) : Nat := fld r.args i 2
def Req.w (r : Req) (i : Nat) : Nat := fld r.args i 4
def Req.d (r : Req) (i : Nat) : Nat := fld r.args i 8

/-- RET of a refused command: slot 0xFFFF for COLL_POST. -/
def refusedRet (op : Nat) : List Byte := if op = 0x0201 then [0xFF, 0xFF] else []

/-- A command completes refused. -/
def State.refuse (s : State) (c : Cmd) (result detail : Nat) : State :=
  s.complete c result detail (refusedRet c.opcode)

/-- Is the launch queue full: 131,072 descriptors, or, for a descriptor that would join it, no buffer for one more (08 R209)? -/
def State.queueFull (s : State) : Bool :=
  decide (131072 ≤ s.queue.length) ||
  ((decide (4096 ≤ s.slots.length) || !s.queue.isEmpty) && s.queueRoom.isNone)

/-- The entry at the request head of a mailbox. -/
def Mbx.entry (b : Mbx) : List Byte := Mem.slice b.rq (256 * (b.rqHead % b.rqN)) 256

/-- May Brass take the entry at the head now (13 R359, R360)? Out of service only MBX 63 reaches it (14 R389). -/
def State.canTake (s : State) (m : Nat) : Bool :=
  let b := s.mbx m
  s.brass && (!s.sys.outOfService || m == 63) && b.opened && b.closing.isNone && b.rqTail != b.rqHead && !b.cqFull && b.held.isEmpty && !s.queueFull &&
  (!serialOp (fld b.entry 0 2) || b.running.isEmpty)

/-- The command of an entry. -/
def Mbx.cmd (b : Mbx) (m : Nat) : Cmd :=
  let e := b.entry
  { mbx := m, inst := b.inst, tag := BitVec.ofNat 32 (fld e 4 4), index := b.rqHead, opcode := fld e 0 2 }

/-- The entry leaves the ring and its command starts. -/
def State.startCmd (s : State) (m : Nat) : State :=
  let b := s.mbx m
  s.setMbx m { b with rqHead := (b.rqHead + 1) % 65536, running := b.running ++ [b.cmd m] }

/-- Brass takes the entry at the head of mailbox `m` where `test` holds of its opcode (and its ARGS), and runs it. -/
def State.takeEntry (s : State) (m : BitVec 6) (test : Nat → List Byte → Bool) (run : State → Req → State) : State :=
  let b := s.mbx m.toNat
  let e := b.entry
  let c := b.cmd m.toNat
  let args := bytesAt e 32 (8 * fld e 3 1)
  if !s.canTake m.toNat || !test c.opcode args then s
  else
    let s := s.startCmd m.toNat
    if !knownOp c.opcode then s.refuse c rBadOpcode 0
    else match entryFault e with
      | some d => s.refuse c rBadArgs d
      | none => if m = 63 && hostOnly c.opcode then s.refuse c rPath 0 else run s { cmd := c, args := args }

/-- As `takeEntry`, for one opcode. -/
def State.command (s : State) (m : BitVec 6) (op : Nat) (run : State → Req → State) :
    Host.Outcome State Fault Refusal :=
  .next (s.takeEntry m (fun o _ => o == op) run)

/-- A command done. -/
def State.ok (s : State) (r : Req) : State := s.complete r.cmd rOk 0 []

/-! ### Commands on mailboxes -/

/-- NOP (13 Table 13.9). -/
def execNop (m : BitVec 6) (s : State) : Host.Outcome State Fault Refusal := s.command m 1 (fun s r => s.ok r)

/-- RET of IDENTIFY: SYS_ID, SYS_POS, SYS_SERIAL, SYS_FW, IRC_STATUS. -/
def State.identity (s : State) : List Byte :=
  toLe 4 s.sysId ++ toLe 4 s.sysPos ++ toLe 8 s.fuses.serial.toNat ++ toLe 4 s.sys.fw.toNat ++ toLe 4 s.ircStatus

/-- IDENTIFY. -/
def execIdentify (m : BitVec 6) (s : State) : Host.Outcome State Fault Refusal :=
  s.command m 2 (fun s r => s.complete r.cmd rOk 0 s.identity)

/-- MBX_OPEN (13 R354, R355): the rings come from pool 1. -/
def State.runMbxOpen (s : State) (r : Req) : State :=
  if (s.mbx (r.b 0)).opened then s.refuse r.cmd rBadState 0
  else match s.openMbx (r.b 0) (r.b 1) (r.b 2) (some (BitVec.ofNat 15 (r.h 4), bit (r.b 3) 0)) with
    | some s1 => s1.ok r
    | none => s.refuse r.cmd rNoResource 0

def execMbxOpen (m : BitVec 6) (s : State) : Host.Outcome State Fault Refusal := s.command m 3 State.runMbxOpen

/-- MBX_CLOSE: it completes once the started commands of the mailbox have, and its pages are freed. -/
def State.runMbxClose (s : State) (r : Req) : State :=
  let m := r.b 0
  let b := s.mbx m
  if m = r.cmd.mbx then s.refuse r.cmd rBadArgs 0
  else if !b.opened || b.closing.isSome then s.refuse r.cmd rBadState 0
  else State.tryClose 64 (s.setMbx m { b with closing := some r.cmd }) m

def execMbxClose (m : BitVec 6) (s : State) : Host.Outcome State Fault Refusal := s.command m 4 State.runMbxClose

/-- BAD_OPCODE (13 R364): any opcode that Table 13.9 gives no request for. -/
def execBadOpcode (m : BitVec 6) (s : State) : Host.Outcome State Fault Refusal :=
  .next (s.takeEntry m (fun o _ => !knownOp o) (fun s _ => s))

end Sys2Proof.Machine
end

