-- ==== Sys2Proof/Machine/Xfer.lean ====
section
/-! DEFINITION. Transfers and reads (13 R363): XFER_OPEN, XFER_CLOSE, XFER_ABORT, XFER_READ, and what the commands that
consume a staging transfer share. -/

namespace Sys2Proof.Machine

/-- Pages of a transfer. -/
def isXferPage (h : Nat) (k : Holder) : Bool := k == .staging h || k == .xfer h

/-- A transfer ends: its pages return to their pool. -/
def State.endXfer (s : State) (h : Nat) : State :=
  (s.freePages (isXferPage h)).delXfer h

/-- The image of a closed staging transfer. -/
def State.staged (s : State) (h : Nat) : Option (List Byte) :=
  match s.xfer h with
  | some x => if x.closed && x.target == .staging then some (Mem.slice x.data 0 x.length) else none
  | none => none

/-- A handle that no transfer has; which one is the device's choice. 0xFFFF names no transfer (13 Table 13.9). -/
def State.freeHandle (s : State) : Nat × State :=
  let l := (List.range 65535).filter (fun h => (tfind s.xfers h).isNone)
  let (n, s') := s.free
  (l.getD (n % l.length) 0, s')

/-- Bytes of a tensor's array: 0 W, 1 M or m, 2 v. -/
def arrBytes (e : List Byte) (arr : Nat) : Nat := if arr = 0 then 4 * tElements e else tMomentBytes e

/-- Has a tensor the array? Only AM has a v (10 R260). -/
def hasArr (e : List Byte) (arr : Nat) : Bool := decide (arr ≤ tMoments e)

/-- Pages of a tensor-array transfer of `len` bytes, on the stacks of the array's stripes. -/
def State.xferPages (s : State) (e : List Byte) (x t arr h len : Nat) : List (Nat × Holder) :=
  let c := if arr = 0 || !tMfmt e then 0 else 1
  (arrayStacks (s.stacksOf x t) c (cdiv len (elemBytes c)) (t % 4)).map (fun k => (k, Holder.xfer h))

/-- A new transfer. -/
def State.addXfer (s : State) (r : Req) (h : Nat) (t : XTarget) : State :=
  let x : Xfer := { mbx := r.cmd.mbx, owner := (s.mbx r.cmd.mbx).owner, target := t, ctx := r.b 2, key := r.h 4,
                    length := r.d 8, data := [], closed := false }
  (s.setXfer h x).complete r.cmd rOk 0 (toLe 2 h)

/-- Bytes of a region's array. -/
def Region.bytes (r : Region) : Nat := r.rows * arrayBytes r.fmt r.cols

/-- XFER_OPEN. -/
def State.runXferOpen (s : State) (r : Req) : State :=
  let (h, s1) := s.freeHandle
  let len := r.d 8
  let lack := s.refuse r.cmd rNoResource 0
  if 64 ≤ s.xfers.length then lack
  else if r.b 0 = 0 then
    if 2 ^ 28 < len then s.refuse r.cmd rBadArgs 8
    else match (if s.poolFirst 4 0 then s1.drawBufs (.staging h) (cdiv len (2 ^ 20)) else none) with
      | some s2 => s2.addXfer r h .staging
      | none => lack
  else if r.b 0 = 1 then
    match s.tensor (r.b 2) (r.h 4) with
    | none => s.refuse r.cmd rBadArgs 4
    | some t =>
      if !holdsTensor s.addr t.entry then s.refuse r.cmd rBadArgs 2
      else if !hasArr t.entry (r.b 1) then s.refuse r.cmd rBadArgs 1
      else match s1.drawShadow (r.b 2) 0 (s.xferPages t.entry (r.b 2) (r.h 4) (r.b 1) h len) with
        | some s2 => s2.addXfer r h (.tensor (r.b 1))
        | none => lack
  else
    match s.region (r.b 2) (r.h 4) with
    | none => s.refuse r.cmd rBadArgs 4
    | some g =>
      if g.root ≠ s.addr then s.refuse r.cmd rBadArgs 4
      else if g.bytes < len then s.refuse r.cmd rBadArgs 8
      else s1.addXfer r h .region

def execXferOpen (m : BitVec 6) (s : State) : Host.Outcome State Fault Refusal := s.command m 5 State.runXferOpen

/-- Does a page of a holder stand poisoned by an uncorrectable error (12 Table 12.6)? -/
def State.poisoned (s : State) (test : Holder → Bool) : Bool :=
  s.ing.poison.any (fun w => s.ing.pages.any (fun u =>
    test u.holder && (u.no == w / 2048 || (decide (u.no < s.pool3Lo) && u.no == w / 32768 * 16))))

/-- A region's data from the close of a transfer on. -/
def State.fillRegion (s : State) (x : Xfer) (bs : List Byte) : State :=
  match s.region x.ctx x.key with
  | some g => s.setRegion x.ctx x.key { g with data := Mem.splice g.data 0 bs }
  | none => s

/-- XFER_CLOSE. -/
def State.runXferClose (s : State) (r : Req) : State :=
  let h := r.h 0
  match s.xfer h with
  | none => s.refuse r.cmd rBadArgs 0
  | some x =>
    let bs := Mem.slice x.data 0 x.length
    if x.closed then s.refuse r.cmd rBadState 0
    else if crc32c bs != BitVec.ofNat 32 (r.w 4) || s.poisoned (isXferPage h) then s.refuse r.cmd rCheckFailed 0
    else match x.target with
      | .region => ((s.fillRegion x bs).endXfer h).ok r
      | _ => (s.setXfer h { x with closed := true }).ok r

def execXferClose (m : BitVec 6) (s : State) : Host.Outcome State Fault Refusal := s.command m 6 State.runXferClose

/-- XFER_ABORT. -/
def State.runXferAbort (s : State) (r : Req) : State :=
  match s.xfer (r.h 0) with
  | none => s.refuse r.cmd rBadArgs 0
  | some _ => (s.endXfer (r.h 0)).ok r

def execXferAbort (m : BitVec 6) (s : State) : Host.Outcome State Fault Refusal := s.command m 7 State.runXferAbort

/-! ### XFER_READ -/

/-- Byte `o` of the fault log: 262,144 records of 64 bytes. -/
def State.logByte (s : State) (o : Nat) : Byte := (s.recAt (o / 64)).getD (o % 64) 0

/-- Byte `o` of a crash dump (14 R405): header, Brass SRAM, configuration registers and open records, each where the layout has it. -/
def Dump.byteAt (d : Dump) (o : Nat) : Byte :=
  match Config.dumpPlace o with
  | .header k => (toLe 4 d.cause ++ toLe 8 d.count ++ toLe 4 d.fw.toNat).getD k 0
  | .sram k => Config.dumpByte d.count k
  | .reg a k => (toLe 4 (tget d.cfg a (cfgReset a)).toNat).getD k 0
  | .record i k => ((d.recs[i]?).elim [] recBytes).getD k 0
  | .unused => 0

/-- Byte `o` of the crash-dump part of the LOG region: four slots of 12 MiB; a slot without a dump reads as zeros. -/
def State.dumpAt (s : State) (o : Nat) : Byte := (tfind s.flt.dumps (o / 12582912)).elim 0 (fun d => d.byteAt (o % 12582912))

/-- Byte `o` of the part of a dump that the X_DUMP area of boot flash holds: its first 768 KiB (14 R405). -/
def Flash.xdumpAt (f : Flash) (o : Nat) : Option Byte :=
  if o < 786432 then f.xdump.map (fun x => x.2.byteAt o) else none

/-- A committed array as its bytes. -/
def arrImage (t : Tensor) (arr : Nat) : List Byte :=
  if arr = 0 then ofWords t.w
  else (if arr = 1 then t.m1 else t.m2).flatMap (fun x => toLe (if tMfmt t.entry then 2 else 4) x.toNat)

/-- Size of what a read has as its source, its bytes from an offset, and the RET that follows the CRC; or the refusal. -/
def State.readSource (s : State) (r : Req) : (Nat × (Nat → Nat → List Byte) × List Byte) ⊕ (Nat × Nat) :=
  let c := r.b 2
  let k := r.h 4
  let from_ (bs : List Byte) (o n : Nat) : List Byte := bytesAt bs o n
  if r.b 0 = 0 then .inl (16777216, fun o n => (List.range n).map (fun i => s.logByte (o + i)), [])
  else if r.b 0 = 1 then .inl (50331648, fun o n => (List.range n).map (fun i => s.dumpAt (o + i)), [])
  else if r.b 0 = 2 then
    match s.region c k with
    | none => .inr (rBadArgs, 4)
    | some g => if g.root = s.addr then .inl (g.bytes, Mem.slice g.data, []) else .inr (rBadArgs, 4)
  else if r.b 0 = 3 then
    match s.tensor c k with
    | none => .inr (rBadArgs, 4)
    | some t =>
      if !holdsTensor s.addr t.entry then .inr (rBadArgs, 4)
      else if !hasArr t.entry (r.b 1) then .inr (rBadArgs, 1)
      else if t.ver.lost then .inr (rBadState, 0)
      else .inl (arrBytes t.entry (r.b 1), from_ (arrImage t (r.b 1)), toLe 4 t.ver.version ++ toLe 4 t.ver.lastStep)
  else .inl (s.flash.cert.length, from_ s.flash.cert, [])

/-- XFER_READ: the bytes leave as BULK_DATA frames, and the read completes when the last is sent. -/
def State.runXferRead (s : State) (r : Req) : State :=
  let off := r.d 8
  let len := r.d 16
  match s.readSource r with
  | .inr (res, det) => s.refuse r.cmd res det
  | .inl (size, get, ret) =>
    if size < off then s.refuse r.cmd rBadArgs 8
    else if size < off + len then s.refuse r.cmd rBadArgs 16
    else
      let bs := get off len
      (s.sendBulk r.cmd.mbx (r.h 6) 0 bs).complete r.cmd rOk 0 (toLe 4 (crc32c bs).toNat ++ ret)

def execXferRead (m : BitVec 6) (s : State) : Host.Outcome State Fault Refusal := s.command m 8 State.runXferRead

end Sys2Proof.Machine
end

