-- ==== Sys2Proof/Machine/Plan.lean ====
section
/-! DEFINITION. Contexts, plans, groups, tensors, pools, state and regions by command: 08 R201 to R207, 10 R257 to R262
and R272, 11 R302, 12 R323, 13 R367, 14 R392 and R461. -/

namespace Sys2Proof.Machine

/-! ### Contexts -/

/-- A job's block (01 R35): no command and no image of the spec carries it, so that its size and origin are free values, within the hall
and with this cell in it (assumption log 8). -/
def State.drawBlock (s : State) : State :=
  let (a, s) := s.free
  let (b, s) := s.free
  let (c, s) := s.free
  let (d, s) := s.free
  let w := 1 + a % s.hallX
  let h := 1 + b % s.hallY
  { s with sys := { s.sys with block := ((s.sys.cell % 8 + s.hallX - c % w) % s.hallX,
                                         (s.sys.cell / 8 + s.hallY - d % h) % s.hallY, w, h) } }

/-- Is no context open? -/
def State.noneOpen (s : State) : Bool := s.ctxs.all (fun e => e.2.st == .free)

/-- The first context of a job without a plan fixes its block; later ones keep it, as does one whose plan was loaded before. -/
def State.newJob (s : State) : State :=
  if s.noneOpen && s.ctxs.all (fun e => !e.2.planned) then s.drawBlock else s

/-- A plan loaded while no context is open may be the first of a new job, and the plan is then for that job's block. Where plans of other
contexts stand, whether it is one more plan of their job or the first of another is open: a free choice (assumption log 8). -/
def State.planJob (s : State) (x : Nat) : State :=
  if !s.noneOpen then s
  else if s.ctxs.all (fun e => e.1 == x || !e.2.planned) then s.drawBlock
  else
    let (n, s) := s.free
    if n % 2 = 0 then s else s.drawBlock

/-- A step correction that waits is readied no more once a context opens, while the line may still change (04 R98, R100). -/
def State.unreadyStep (s : State) : State :=
  match s.sch.step with
  | some r => if r.ok.isNone && s.now + 1000 < stepB r then s.barRelease else s
  | none => s

/-- CTX_OPEN (08 R201 to R204). A context whose teardown still waits for its stop count is not taken up. -/
def State.runCtxOpen (s : State) (r : Req) : State :=
  let x := r.b 0
  let c := s.ctx x
  if c.st != .free then s.refuse r.cmd rNoSlot 0
  else if !s.timeGood || c.stopD.isSome then s.refuse r.cmd rBadState 0
  else
    let b := r.h 8
    ((s.newJob.setCtx x { Ctx.init with st := .opened, gen := r.h 2, threshold := r.w 4, budget := if b = 0 then 2000 else b,
                                        planned := c.planned, twin := c.twin, planFenced := c.planFenced }).unreadyStep).ok r

def execCtxOpen (m : BitVec 6) (s : State) : Host.Outcome State Fault Refusal := s.command m 0x0101 State.runCtxOpen

/-- A command that waits for its context to be FREE. -/
def State.waitCtx (s : State) (x : Nat) (c : Cmd) : State := s.setCtx x { s.ctx x with waiting := (s.ctx x).waiting ++ [c] }

/-- CTX_TEARDOWN (14 R392, R461): it completes when the context is FREE. -/
def execCtxTeardown (m : BitVec 6) (s : State) : Host.Outcome State Fault Refusal :=
  s.command m 0x0102 (fun s r => (s.waitCtx (r.b 0) r.cmd).beginStop (r.b 0) true false)

/-- CTX_RESET (14 R392, R461). -/
def State.runCtxReset (s : State) (r : Req) : State :=
  if (s.ctx (r.b 0)).st == .free then s.ok r else (s.waitCtx (r.b 0) r.cmd).beginStop (r.b 0) false false

def execCtxReset (m : BitVec 6) (s : State) : Host.Outcome State Fault Refusal := s.command m 0x0103 State.runCtxReset

/-! ### Tensor entries (10 R258) -/

/-- Finite, and at least 0. -/
def hyperNonneg (w : Nat) : Bool := bits w 30 23 != 255 && (!bit w 31 || w % 2 ^ 31 == 0)
/-- Finite, and above 0. -/
def hyperPos (w : Nat) : Bool := bits w 30 23 != 255 && !bit w 31 && w != 0
/-- At least 0 and below 1. -/
def hyperUnit (w : Nat) : Bool := hyperNonneg w && decide (w % 2 ^ 31 < 0x3F800000)

/-- The six values of HYPER or PEND_HYPER from byte `o` that break R258: their places. -/
def hyperFaults (bs : List Byte) (o : Nat) : List Nat :=
  (List.range 6).filter (fun i =>
    let w := fld bs (o + 4 * i) 4
    !(if i ≤ 1 then hyperNonneg w else if i ≤ 3 then hyperUnit w else hyperPos w))

/-- Is an address a Fixus of the job block? -/
def State.blockFixus (s : State) (a : Nat) : Bool :=
  decide (a < 32768) && addrIsFixus a && addrUnit a == 0 && s.inBlock a

/-- This machine seen from another Fixus of the block: its place alone differs. -/
def State.asFixus (s : State) (f : Nat) : State :=
  { s with pins := { s.pins with sw := addrSw f }, sys := { s.sys with cell := addrCell f } }

/-- The mesh group from one Fixus to another, its mesh neighbour in the same cell. -/
def State.meshTo (s : State) (f g : Nat) : Option Nat :=
  let t := s.asFixus f
  [8, 9, 10, 11].find? (fun q => t.meshGroup q && t.groupPeer q == some g)

def nonzero (bs : List Byte) (o n : Nat) : Bool := fld bs o n != 0

/-- Offsets in a tensor entry of fields that break R258. -/
def State.entryFaults (s : State) (e : List Byte) : List Nat :=
  let bad (c : Bool) (o : Nat) : List Nat := if c then [o] else []
  let om := tRule e == 1
  let owner := fld e 4 2
  let twin := fld e 6 2
  let n := fld e 8 8
  let ns := fld e 3 1
  bad (fld e 0 1 == 0 || decide (4 < fld e 0 1)) 0 ++
  bad (decide (4 < tCfmt e) || tRfmt e == 0 || decide (3 < tRfmt e)) 2 ++
  bad (if om then ns == 0 || decide (3 < ns) else ns != 0) 3 ++
  bad (!s.blockFixus owner) 4 ++
  bad (if tIsTwin e then decide (32768 ≤ twin) || (s.meshTo (owner % 32768) twin).isNone else twin != 0) 6 ++
  bad (decide (2 ^ 40 ≤ n) || (om && (n != tRows e * tCols e || decide (2 ^ 30 < n)))) 8 ++
  bad (if om then decide (tRows e < 2) else tRows e != 0) 16 ++
  bad (if om then decide (tCols e < 2) else tCols e != 0) 20 ++
  bad (tIsTwin e && tDelay e == 0) 24 ++
  bad (nonzero e 28 4) 28 ++
  (hyperFaults e 32).map (fun i => 32 + 4 * i) ++
  bad (fld e 60 4 != 0 && ((fld e 56 1 ^^^ tFlags e) &&& 0x90) != 0) 56 ++
  bad (nonzero e 57 3) 57 ++
  (if fld e 60 4 = 0 then [] else (hyperFaults e 64).map (fun i => 64 + 4 * i)) ++
  bad (nonzero e 88 40) 88

/-! ### Groups (08 R205 to R207) -/

/-- A directed port group of a Fixus as a link: one name for its two ends. -/
def State.linkOf (s : State) (f g : Nat) : Nat × Nat :=
  let opp : Nat := ([10, 11, 8, 9, 13, 12, 15, 14] : List Nat).getD (g - 8) 0
  match (s.asFixus f).groupPeer g with
  | some n => if f ≤ n then (f, g) else (n, opp)
  | none => (f, g)

/-- Every Fixus of the block. -/
def State.blockAll (s : State) : List Nat :=
  ((List.range 64).filter (fun c => (s.blockXY c).isSome)).flatMap (fun c => (List.range 16).map (fixusAddr c))

/-- Reduction links of a group with members `ms` in a context with tensor entries `es` (08 R207). -/
def State.redLinks (s : State) (ms : List Nat) (es : List (List Byte)) : List (Nat × Nat) :=
  let all := s.blockAll
  let own := all.flatMap (fun f => all.flatMap (fun root => [true, false].flatMap (fun ring =>
    (((s.asFixus f).planNodes ms root ring).filterMap (fun n => n.out)).map (fun g => s.linkOf f g))))
  let twins := (es.filter tIsTwin).filterMap (fun e => (s.meshTo (tOwner e) (tTwin e)).map (fun g => s.linkOf (tOwner e) g))
  (own ++ twins).eraseDups

/-- Do two ACTIVE groups break R207: of one class, with a member Fixus or a reduction link in common? -/
def State.clash (s : State) (entries : Nat → List (List Byte)) (g h : Group) : Bool :=
  g.active && h.active && g.cls == h.cls &&
  (g.members.any (fun a => h.members.any (fun b => homeOf a == homeOf b)) ||
   (let hl := s.redLinks h.members (entries h.ctx)
    (s.redLinks g.members (entries g.ctx)).any (fun l => hl.contains l)))

/-- Tensor entries of a context. -/
def State.entriesOf (s : State) (x : Nat) : List (List Byte) :=
  (s.tensors.filter (fun e => e.1 / 65536 == x)).map (fun e => e.2.entry)

/-! ### The plan image (13 Table 13.11) -/

/-- A group record as read: its offset, GROUP, and the entry. -/
structure GrpRec where
  off : Nat
  no : Nat
  grp : Group
  faults : List Nat
deriving DecidableEq, Repr

/-- Faults of the members of a record at `p`: each an accelerator of the block, present, and there once. -/
def State.memberFaults (s : State) (p : Nat) (ms : List Nat) : List Nat :=
  ((ms.mapIdx (fun j a => (j, a))).filter (fun e =>
    decide (32768 ≤ e.2) || addrIsFixus e.2 || !s.inBlock e.2 || !s.present e.2 ||
    (ms.take e.1).contains e.2)).map (fun e => p + 8 + 2 * e.1)

/-- `n` group records from offset `p`. A record that the image cuts short is at fault in its COUNT. -/
def State.readGroups (s : State) (x : Nat) (img : List Byte) : Nat → Nat → List GrpRec
  | 0, _ => []
  | n + 1, p =>
    let count := fld img (p + 4) 2
    let len := 8 + 8 * cdiv (2 * count) 8
    let ms := (List.range count).map (fun j => fld img (p + 8 + 2 * j) 2)
    let bad (c : Bool) (o : Nat) : List Nat := if c then [p + o] else []
    let grp : Group := { ctx := x, cls := fld img (p + 2) 1 % 8, active := bit (fld img (p + 2) 1) 3, members := ms }
    let no := fld img p 2
    if img.length < p + len then [{ off := p, no := no, grp := grp, faults := [p + 4] }]
    else
      let pad := (List.range (len - 8 - 2 * count)).filter (fun i => nonzero img (p + 8 + 2 * count + i) 1)
      { off := p, no := no, grp := grp,
        faults := bad (decide (4095 < no)) 0 ++ bad (decide (15 < fld img (p + 2) 1)) 2 ++ bad (nonzero img (p + 3) 1) 3 ++
          bad (count == 0 || decide (16384 < count)) 4 ++ bad (nonzero img (p + 6) 2) 6 ++ s.memberFaults p ms ++
          pad.map (fun i => p + 8 + 2 * count + i) } :: s.readGroups x img n (p + len)

/-- Tensor entries of an image. -/
def planEntries (img : List Byte) : List (List Byte) :=
  (List.range (fld img 0 2)).map (fun i => bytesAt img (64 + 128 * i) 128)

/-- Faults of an image's header: its counts, its reserved bytes, the place of the group records. Where there is one in
its counts, the plan cannot be read. -/
def planHead (img : List Byte) : List Nat :=
  let bad (c : Bool) (o : Nat) : List Nat := if c then [o] else []
  let goff := fld img 8 8
  let last := 64 + 128 * fld img 0 2
  bad (decide (img.length < last)) 0 ++ bad (decide (4096 < fld img 2 2)) 2 ++ bad (nonzero img 4 4) 4 ++
  bad (decide (goff < last) || decide (img.length < goff)) 8 ++ bad (nonzero img 16 48) 16

def planReadable (img : List Byte) : Bool := decide (64 + 128 * fld img 0 2 ≤ img.length)

/-- Groups of the other contexts. -/
def State.otherGroups (s : State) (x : Nat) : List (Nat × Group) := s.groups.filter (fun e => e.2.ctx != x)

/-- Faults of the group records against each other and against the groups of other contexts. -/
def State.groupFaults (s : State) (x : Nat) (es : List (List Byte)) (gs : List GrpRec) : List Nat :=
  let entries (c : Nat) : List (List Byte) := if c = x then es else s.entriesOf c
  (gs.mapIdx (fun i g => (i, g))).flatMap (fun e =>
    let before := gs.take e.1
    let others := (s.otherGroups x).map Prod.snd ++ before.map (fun b => b.grp)
    e.2.faults ++
    (if before.any (fun b => b.no == e.2.no) || (s.otherGroups x).any (fun b => b.1 == e.2.no) then [e.2.off] else []) ++
    (if e.2.faults.isEmpty && others.any (fun h => s.clash entries e.2.grp h) then [e.2.off + 2] else []))

/-- The lowest byte offset of a plan image at fault (13 R367). -/
def State.planFault (s : State) (x : Nat) (img : List Byte) : Option Nat :=
  let es := planEntries img
  let head := planHead img
  let ent := ((es.mapIdx (fun i e => (i, e))).flatMap (fun p => (s.entryFaults p.2).map (fun o => 64 + 128 * p.1 + o)))
  let gs := if head.contains 8 || head.contains 2 then [] else s.readGroups x img (fld img 2 2) (fld img 8 8)
  let all := if planReadable img then head ++ ent ++ s.groupFaults x es gs else head
  all.foldl (fun (m : Option Nat) i => match m with
    | none => some i
    | some j => some (min i j)) none

/-- Bytes of group entries in the PLAN region (13 R367). -/
def groupBytes (gs : List Group) : Nat := gs.foldl (fun n g => n + 8 + 8 * cdiv (2 * g.members.length) 8) 0

/-- Tensor entries of every other context. -/
def State.otherEntries (s : State) (x : Nat) : List (List Byte) :=
  (s.tensors.filter (fun e => e.1 / 65536 != x)).map (fun e => e.2.entry)

/-- Is a readable plan too large for pool 3, the MAP region or the PLAN region? -/
def State.planTooLarge (s : State) (x : Nat) (es : List (List Byte)) (gs : List Group) : Bool :=
  let all := s.otherEntries x ++ es
  decide (s.pool3Count < planNeed s.addr all) || decide (2 ^ 26 < mapBytes s.addr all) ||
  decide (2 ^ 28 < 128 * all.length + groupBytes ((s.otherGroups x).map Prod.snd ++ gs) +
    Config.regionHeaders s.regions.length)

/-- Does a tensor keep its state under a new entry (13 R367)? -/
def keepsState (a b : List Byte) : Bool :=
  tOwner a == tOwner b && tTwin a == tTwin b && tRule a == tRule b && tElements a == tElements b && tRows a == tRows b &&
  tCols a == tCols b && tMfmt a == tMfmt b

/-- A tensor with no state: LOST, on the Fixus that is to hold it. -/
def State.freshTensor (s : State) (e : List Byte) : Tensor :=
  { entry := e, ver := { Version.init with lost := holdsTensor s.addr e }, w := [], m1 := [], m2 := [], calm := 0,
    maxStep := 0, acting := false, twinDig := none, theirDig := none, onStacks := s.stacksIn }

/-- The plan replaces the context's table and groups as one unit, in both copies of the PLAN region, whose poison goes (12 R324); state
that it does not keep is freed. Its arrays are placed on the stacks in service now, but for those of state that it keeps (12 R337). -/
def State.installPlan (s : State) (x : Nat) (es : List (List Byte)) (gs : List GrpRec) : State :=
  let keeps (t : Nat) : Bool := match s.tensor x t, es[t]? with
    | some o, some e => keepsState o.entry e
    | _, _ => false
  let new := (es.mapIdx (fun t e => (t, e))).map (fun p =>
    let t := match s.tensor x p.1 with
      | some o =>
        if keepsState o.entry p.2 then
          { o with entry := p.2, calm := 0, onStacks := if o.ver.lost then s.stacksIn else o.onStacks }
        else s.freshTensor p.2
      | none => s.freshTensor p.2
    (tkey x p.1, t))
  let s := s.freePages (fun h => match h with
    | .state c t _ => c == x && !keeps t
    | _ => false)
  let tensors := (s.tensors.filter (fun e => decide (e.1 / 65536 < x))) ++ new ++
    (s.tensors.filter (fun e => decide (x < e.1 / 65536)))
  let groups := gs.foldl (fun t g => tset t g.no g.grp) (s.otherGroups x)
  -- the codewords of the pages that hold this context's tables, in copy 1 and in copy 2, are written anew
  let mine (w : Nat) : Bool :=
    let p := w / 2048
    decide (planLo ≤ p) && decide (p < mapLo) && Config.planPageHolds (if p % 4 < 2 then p else p - 2) x
  let s : State := { s with tensors := tensors, groups := groups,
                            ing := { s.ing with poison := s.ing.poison.filter (fun w => !mine w) } }
  s.setCtx x { s.ctx x with planned := true, twin := !es.isEmpty && es.all tIsTwin, planFenced := false }

/-- Is a collective of a context in a slot or in the launch queue? -/
def State.collHeld (s : State) (test : List Byte → Bool) : Bool :=
  s.slots.any (fun e => test e.2.desc) || s.queue.any (fun c => test c.desc)

/-- PLAN_LOAD (13 R367). A refused plan leaves its transfer as it is. -/
def State.runPlanLoad (s0 : State) (r : Req) : State :=
  let x := r.b 0
  let s := s0.planJob x
  match s.staged (r.h 2) with
  | none => s.refuse r.cmd rBadArgs 2
  | some img =>
    let es := if planReadable img then planEntries img else []
    let need := if planReadable img then planNeed s.addr (s.otherEntries x ++ es) else 0
    if s.collHeld (fun d => dCtx d == x) then s.complete r.cmd rBadState 0 (toLe 4 need)
    else match s.planFault x img with
      | some o => s.complete r.cmd rBadArgs 2 (toLe 4 need ++ toLe 4 o)
      | none =>
        let gs := s.readGroups x img (fld img 2 2) (fld img 8 8)
        if s.planTooLarge x es (gs.map (fun g => g.grp)) then s.complete r.cmd rNoResource 0 (toLe 4 need)
        else
          (((s.installPlan x es gs).extend 3 (sha256 img)).endXfer (r.h 2)).complete r.cmd rOk 0 (toLe 4 need)

def execPlanLoad (m : BitVec 6) (s : State) : Host.Outcome State Fault Refusal := s.command m 0x0104 State.runPlanLoad

/-- GROUP_SET (08 R207). -/
def State.runGroupSet (s : State) (r : Req) : State :=
  let n := r.h 0
  match tfind s.groups n with
  | none => s.refuse r.cmd rBadArgs 0
  | some g =>
    let g' := { g with active := bit (r.b 2) 0 }
    let s1 : State := { s with groups := tset s.groups n g' }
    if g'.active then
      (if (s.groups.filter (fun e => e.1 != n)).any (fun e => s.clash s.entriesOf g' e.2) then s.refuse r.cmd rBadArgs 2
       else s1.ok r)
    else if g.active && s.collHeld (fun d => dGroup d == n) then s.refuse r.cmd rBadState 0
    else s1.ok r

def execGroupSet (m : BitVec 6) (s : State) : Host.Outcome State Fault Refusal := s.command m 0x0105 State.runGroupSet

/-- TENSOR_SET (10 R259). -/
def State.runTensorSet (s : State) (r : Req) : State :=
  let x := r.b 0
  let n := r.h 2
  match s.tensor x n with
  | none => s.refuse r.cmd rBadArgs 2
  | some t =>
    if r.w 8 < t.maxStep then s.refuse r.cmd rBadState 0
    else if ((r.b 4 ^^^ tFlags t.entry) &&& 0x90) ≠ 0 then s.refuse r.cmd rBadArgs 4
    else match hyperFaults r.args 12 with
      | i :: _ => s.refuse r.cmd rBadArgs (12 + 4 * i)
      | [] =>
        let e := putBytes t.entry 56 (toLe 1 (r.b 4))
        let e := putBytes (putBytes e 60 (toLe 4 (r.w 8))) 64 (bytesAt r.args 12 24)
        (s.setTensor x n { t with entry := e }).ok r

def execTensorSet (m : BitVec 6) (s : State) : Host.Outcome State Fault Refusal := s.command m 0x0106 State.runTensorSet

/-- POOL_SET (12 R323). -/
def State.runPoolSet (s : State) (r : Req) : State :=
  if 2312192 < 16 * r.w 4 then s.refuse r.cmd rBadArgs 4
  else if 2312192 - 16 * r.w 4 < r.w 0 then s.refuse r.cmd rBadArgs 0
  else if !s.ing.pages.isEmpty then s.refuse r.cmd rBadState 0
  else ({ s with ing := { s.ing with pool3 := r.w 0, pool4 := r.w 4 } }).ok r

def execPoolSet (m : BitVec 6) (s : State) : Host.Outcome State Fault Refusal := s.command m 0x0107 State.runPoolSet

/-! ### STATE_LOAD (10 R272) -/

/-- Does an update or a FETCH of a tensor run? -/
def State.tensorBusy (s : State) (x n : Nat) : Bool :=
  let of (cid : Nat) : Bool := match (s.findColl x cid).bind (fun i => s.coll i) with
    | some c => dTensor c.desc == n
    | none => false
  s.pwt.upd.any (fun u => u.ctx == x && of u.cid) || s.pwt.finished.any (fun u => u.ctx == x && of u.cid) ||
  s.pwt.fetches.any (fun k => k.1 == x && of k.2)

/-- The bytes of a closed tensor-array transfer of exactly that array; none otherwise. -/
def State.arrXfer (s : State) (x n arr : Nat) (e : List Byte) (h : Nat) : Option (List Byte) :=
  match s.xfer h with
  | some t =>
    if t.closed && t.target == .tensor arr && t.ctx == x && t.key == n && t.length == arrBytes e arr && hasArr e arr
    then some (Mem.slice t.data 0 t.length) else none
  | none => none

/-- Elements of an array from its bytes. -/
def arrWords (e : List Byte) (arr : Nat) (bs : List Byte) : List Word :=
  if arr = 0 || !tMfmt e then toWords bs else (chunksOf 2 bs).map (fun b => BitVec.ofNat 32 (leNat b))

/-- The map of a tensor's array just loaded is written. -/
def State.mapArr (s : State) (e : List Byte) (x n arr : Nat) : State :=
  s.writeMap (.state x n arr) (if arr ≠ 0 && tMfmt e then 1 else 0) (n % 4) (tElements e)

/-- The transfer's pages become those of the array, and its old ones are freed. -/
def State.takeArr (s : State) (x n arr h : Nat) : State :=
  let s := s.freePages (fun k => k == .state x n arr)
  (s.movePages (fun k => if k = .xfer h then .state x n arr else k)).delXfer h

/-- Fresh pages for a moment array that loads as zeros. -/
def State.zeroArr (s : State) (e : List Byte) (x n arr : Nat) : Option State :=
  let s := s.freePages (fun k => k == .state x n arr)
  (s.drawShadow x 0 ((arrayStacks (s.stacksOf x n) (if tMfmt e then 1 else 0) (tElements e) (n % 4)).map (fun k =>
    (k, Holder.state x n arr)))).map (fun s => s.mapArr e x n arr)

/-- The arrays named, and moments of a LOST tensor that are not, in order. -/
def State.loadArrs (s : State) (e : List Byte) (x n : Nat) (lost : Bool) : List (Nat × Nat) → Option State
  | [] => some s
  | p :: l =>
    if p.2 ≠ 0xFFFF then ((s.takeArr x n p.1 p.2).mapArr e x n p.1).loadArrs e x n lost l
    else if p.1 ≠ 0 && lost && hasArr e p.1 then (s.zeroArr e x n p.1).bind (fun s1 => s1.loadArrs e x n lost l)
    else s.loadArrs e x n lost l

/-- STATE_LOAD. -/
def State.runStateLoad (s : State) (r : Req) : State :=
  let x := r.b 0
  let n := r.h 2
  match s.tensor x n with
  | none => s.refuse r.cmd rBadArgs 2
  | some t =>
    let e := t.entry
    let hs := [(0, r.h 4), (1, r.h 6), (2, r.h 8)]
    let lost := t.ver.lost
    if !holdsTensor s.addr e then s.refuse r.cmd rBadArgs 2
    else match hs.find? (fun p => p.2 != 0xFFFF && (s.arrXfer x n p.1 e p.2).isNone) with
      | some p => s.refuse r.cmd rBadArgs (4 + 2 * p.1)
      | none =>
        if s.tensorBusy x n || (lost && r.h 4 == 0xFFFF) then s.refuse r.cmd rBadState 0
        else match s.loadArrs e x n lost hs with
          | none => s.refuse r.cmd rNoResource 0
          | some s1 =>
            let arr (a h : Nat) (old : List Word) : List Word :=
              match (if h = 0xFFFF then none else s.arrXfer x n a e h) with
              | some bs => arrWords e a bs
              | none => if a ≠ 0 && lost && hasArr e a then List.replicate (tElements e) 0 else old
            let e' := putBytes e 1 (toLe 1 (tFlags e - (if tResume e then 4 else 0) + 4 * (r.b 16 % 2)))
            let v := { t.ver with version := 0, lastStep := r.w 12, reexec := false, lost := false, resync := false,
                                  map := !t.ver.map }
            (s1.setTensor x n { t with entry := e', ver := v, w := arr 0 (r.h 4) t.w, m1 := arr 1 (r.h 6) t.m1,
                                       m2 := arr 2 (r.h 8) t.m2, twinDig := none, theirDig := none }).ok r

def execStateLoad (m : BitVec 6) (s : State) : Host.Outcome State Fault Refusal := s.command m 0x0401 State.runStateLoad

/-! ### Regions (11 R302) -/

/-- Elements of a region's array, with the filler of whole blocks. -/
def regionElems (fmt rows cols : Nat) : Nat := if isMx fmt then rows * (32 * cdiv cols 32) else rows * cols

/-- REGION_ALLOC: the header on every Fixus, and the pages on the root. What a new region's bytes read as before they
are filled is open (assumption log 14): zero. -/
def State.runRegionAlloc (s : State) (r : Req) : State :=
  let x := r.b 0
  let key := r.h 2
  let root := r.h 4
  let g : Region := { ctx := x, root := root, rows := r.w 8, cols := r.w 12, fmt := r.b 6, data := [] }
  if !s.blockFixus root then s.refuse r.cmd rBadArgs 4
  else if (s.region x key).isSome then s.refuse r.cmd rBadState 0
  else
    let drawn := if root ≠ s.addr then some s
      else (s.drawShadow x 0 ((arrayStacks (s.planStacks x) g.fmt (regionElems g.fmt g.rows g.cols) (key % 4)).map (fun k =>
        (k, Holder.region x key)))).map (fun s => s.writeMap (.region x key) g.fmt (key % 4) (regionElems g.fmt g.rows g.cols))
    match drawn with
    | some s1 => (s1.setRegion x key g).ok r
    | none => s.refuse r.cmd rNoResource 0

def execRegionAlloc (m : BitVec 6) (s : State) : Host.Outcome State Fault Refusal := s.command m 0x0402 State.runRegionAlloc

/-- REGION_FREE. -/
def State.runRegionFree (s : State) (r : Req) : State :=
  let x := r.b 0
  let key := r.h 2
  if (s.region x key).isNone then s.refuse r.cmd rBadArgs 2
  else if s.collHeld (fun d => dCtx d == x && isKernel (dKind d) && namesRegion d key) then s.refuse r.cmd rBadState 0
  else
    let s := s.freePages (fun h => h == .region x key)
    (s.delRegion x key).ok r

def execRegionFree (m : BitVec 6) (s : State) : Host.Outcome State Fault Refusal := s.command m 0x0403 State.runRegionFree

end Sys2Proof.Machine
end

