-- ==== Sys2Proof/Machine/Post.lean ====
section
/-! DEFINITION. COLL_POST and the launch queue: the checks of 08 R214, 11 R303 and R212, R208 to R211, 04 R91, R94 and R95. -/

namespace Sys2Proof.Machine

/-! ### Reserved fields (08 R213, 11 Tables 11.7, 11.8, 11.10) -/

/-- Reserved bits of a descriptor: byte and mask. -/
def descReserved (d : List Byte) : List (Nat × Nat) :=
  let span (a b : Nat) : List (Nat × Nat) := (List.range (b + 1 - a)).map (fun i => (a + i, 0xFF))
  let k := dKind d
  [(21, 0xF0), (26, 0xF8), (37, 0xFF), (38, 0xFF), (39, 0xFF)] ++
  (if k = kMatmul then [(65, 0x80), (75, 0xF0), (76, 0xF0)] ++ span 77 79 ++ span 100 127
   else if k = kRequant then [(65, 0x80), (70, 0xF0), (71, 0xFC)] ++ span 73 127
   else if k = kGather then [(65, 0x80), (68, 0xF0), (69, 0xFE), (70, 0xFF), (71, 0xFF)] ++ span 80 127
   else span 64 127)

def dSrc (d : List Byte) : Nat := fld d 40 8
def dDst (d : List Byte) : Nat := fld d 48 8

/-! ### Kernel fields (11 R303, Tables 11.5 to 11.10) -/

/-- Format, rows and columns of the array that a key names for a kernel: a region of the root, or TENSOR's W for 0xFFFF,
whose owner or acting owner is the root. -/
def State.operandShape (s : State) (d : List Byte) (key : Nat) : Option (Nat × Nat × Nat) :=
  if key = 0 then none
  else if key = 0xFFFF then
    match s.tensor (dCtx d) (dTensor d) with
    | some t =>
      let e := t.entry
      if holdsTensor (dRoot d) e then
        some (if tRule e = 1 then (0, tRows e, tCols e) else (0, 1, tElements e))
      else none
    | none => none
  else match s.region (dCtx d) key with
    | some g => if g.root = dRoot d then some (g.fmt, g.rows, g.cols) else none
    | none => none

/-- TENSOR of a kernel: an entry where a key is 0xFFFF, and 0xFFFF otherwise. -/
def State.kernelTensor (s : State) (d : List Byte) (keys : List Nat) : Bool :=
  if keys.contains 0xFFFF then (s.tensor (dCtx d) (dTensor d)).isSome else dTensor d == 0xFFFF

def upTo (n x : Nat) : Bool := decide (1 ≤ x) && decide (x ≤ n)

def fpFinite (w : Nat) : Bool := bits w 30 23 != 255

/-- Table 11.7 and the rules of R308. An MX operand of another type than its OPFMT is taken: the converter requantises. -/
def State.matmulOk (s : State) (d : List Byte) : Bool :=
  let a := fld d 66 2
  let b := fld d 68 2
  let c := fld d 70 2
  let o := fld d 72 2
  let fa := fld d 74 1 % 16
  let fb := fld d 74 1 / 16
  let fo := fld d 75 1
  let fl := fld d 76 1
  let m := fld d 80 4
  let n := fld d 84 4
  let k := fld d 88 4
  let deliver := bit fl 3
  let shape (x : Option (Nat × Nat × Nat)) (r q : Nat) : Bool := match x with
    | some (_, r', q') => r' == r && q' == q
    | none => false
  s.kernelTensor d [a, b] && dCfmt d == 0 && dRfmt d == (if deliver then fo else 0) && dAscale d == 0 && dSrc d == 0 &&
  upTo (2 ^ 24) m && upTo (2 ^ 24) n && upTo (2 ^ 24) k && dElements d == m * n &&
  upTo 4 fa && upTo 4 fb && ((fa == 1) == (fb == 1)) && decide (fo ≤ 4) && fpFinite (fld d 92 4) &&
  shape (s.operandShape d a) (if bit fl 0 then k else m) (if bit fl 0 then m else k) &&
  shape (s.operandShape d b) (if bit fl 1 then n else k) (if bit fl 1 then k else n) &&
  (c == 0 || (c != 0xFFFF && fpFinite (fld d 96 4) && ((s.operandShape d c).any (fun x => decide (x.1 ≤ 1) && x.2 == (m, n))))) &&
  (if o = 0 then deliver else o != 0xFFFF && s.operandShape d o == some (fo, m, n)) &&
  (!deliver || decide (m * arrayBytes fo n < 2 ^ 32))

/-- Table 11.8 and the rules of R310. -/
def State.requantOk (s : State) (d : List Byte) : Bool :=
  let src := fld d 66 2
  let o := fld d 68 2
  let fo := fld d 70 1
  let fl := fld d 71 1
  let sc := fld d 72 1
  let out := if o = 0xFFFF then none else s.operandShape d o
  s.kernelTensor d [src] && dRfmt d == (if bit fl 1 then fo else 0) && dAscale d == 0 && upTo 4 fo &&
  (if bit fl 0 then decide (sc < 0xFF) else sc == 0) &&
  (if src = 0 then
     decide (dCfmt d ≤ 4) && out == some (fo, (s.membersOf d).length, dElements d)
   else
     dCfmt d == 0 && dSrc d == 0 &&
     (match s.operandShape d src with
      | some (_, r, q) => dElements d == r * q && out == some (fo, r, q)
      | none => false))

/-- Table 11.10 and the rules of R311. -/
def State.gatherOk (s : State) (d : List Byte) : Bool :=
  let key := fld d 66 2
  let fo := fld d 68 1
  let bags := fld d 72 4
  s.kernelTensor d [] && dCfmt d == 0 && dRfmt d == fo && dAscale d == 0 && decide (fo ≤ 4) &&
  upTo (2 ^ 20) bags && upTo (2 ^ 24) (fld d 76 4) && key != 0xFFFF &&
  (match s.operandShape d key with
   | some (_, _, dim) => upTo 16384 dim && dElements d == bags * dim && (!isMx fo || dim % 32 == 0)
   | none => false)

def State.kernelOk (s : State) (d : List Byte) : Bool :=
  s.blockFixus (dRoot d) &&
  (if dKind d = kMatmul then s.matmulOk d else if dKind d = kRequant then s.requantOk d else s.gatherOk d)

/-! ### The other checks (08 R214) -/

/-- TENSOR, ELEMENTS, CFMT and RFMT against the tensor table. -/
def State.tensorOk (s : State) (d : List Byte) : Bool :=
  if dKind d = kBarrier then dTensor d == 0xFFFF
  else match s.tensor (dCtx d) (dTensor d) with
    | none => false
    | some t =>
      dElements d == tElements t.entry && dRfmt d == tRfmt t.entry && (dKind d == kFetch || dCfmt d == tCfmt t.entry)

/-- Formats and ASCALE. -/
def formatOk (d : List Byte) : Bool :=
  if dKind d = kStep then decide (dCfmt d ≤ 4) && (if isExact d then dAscale d != 0xFF else dAscale d == 0)
  else if dKind d = kFetch then dCfmt d == 0 && dAscale d == 0
  else dCfmt d == 0 && dRfmt d == 0 && dAscale d == 0

/-- S of the epoch in force at a count for a context, with its number (04 R95): of an ARMED switch of the context, or the
epoch last switched to in its block, whichever context armed it. -/
def State.epochAt (s : State) (x l : Nat) : Option (Nat × Nat) :=
  let armed := (s.sch.arms.filter (fun a => a.ctx == x && !a.cancelled && decide (a.s ≤ l))).foldl
    (fun (m : Option Arm) a => match m with
      | none => some a
      | some b => if b.s < a.s then some a else some b) none
  match armed with
  | some a => some (a.epoch, a.s)
  | none => (s.sch.epochs.foldl (fun (m : Option EpochRec) r => match m with
      | none => some r
      | some b => if b.s ≤ r.s then some r else some b) none).map (fun r => (r.epoch, r.s))

def State.epochOk (s : State) (d : List Byte) : Bool :=
  !dSched d ||
  (dEpoch d != 0 && (match s.epochAt (dCtx d) (dLaunch d) with
    | some (e, t) => e == dEpoch d && decide (t ≤ dLaunch d) && (dLaunch d - t) % 64 == 0
    | none => false))

/-- The DETAIL of 13 Table 13.10 for the first rule of R214 that a descriptor breaks. -/
def State.descFault (s : State) (d : List Byte) : Option Nat :=
  let k := dKind d
  let kern := isKernel k
  let c := s.ctx (dCtx d)
  let g := s.group (dGroup d)
  if !(k == kStep || k == kFetch || k == kBarrier || kern) || (descReserved d).any (fun r => (fld d r.1 1 &&& r.2) != 0) ||
     (k == kBarrier && (dElements d != 0 || dSrc d != 0 || dDst d != 0)) then some 0x01
  else if c.st != .opened || c.gen != dGen d then some 0x02
  else if dId d = 0 then some 0x03
  else if !g.active || g.ctx != dCtx d then some 0x04
  else if kern && !s.kernelOk d then some 0x0A
  else if !kern && !s.tensorOk d then some 0x05
  else if !kern && !formatOk d then some 0x06
  else if (dTree d && dRing d) || dParts d == 0 || decide (64 < dParts d) then some 0x07
  else if !s.epochOk d then some 0x08
  else if (s.membersOf d).any (fun a => !s.present a) then some 0x09
  else none

/-! ### Taking a descriptor (04 R91; 08 R208 to R212, R215) -/

/-- A post refused. -/
def State.refusePost (s : State) (c : Cmd) (result detail : Nat) : State :=
  s.countRefused.complete c result detail (toLe 2 0xFFFF)

/-- LATE_NOTICE for a descriptor, with D := N. -/
def State.sendLate (s : State) (d : List Byte) : State :=
  s.takeLate none
    { ctx := BitVec.ofNat 8 (dCtx d), gen := BitVec.ofNat 16 (dGen d), source := BitVec.ofNat 15 s.addr,
      d := BitVec.ofNat 64 s.now, launch := BitVec.ofNat 64 (dLaunch d), collId := BitVec.ofNat 32 (dId d) }

/-- The largest STEP accepted for a tensor (10 R259). -/
def State.noteStep (s : State) (d : List Byte) : State :=
  if dKind d != kStep then s
  else match s.tensor (dCtx d) (dTensor d) with
    | some t => s.setTensor (dCtx d) (dTensor d) { t with maxStep := max t.maxStep (dStep d + 1) }
    | none => s

/-- A collective put into slot `i`: its descriptor goes to the members homed here, its post completes, and a Fixus that
has no part in it frees the slot at once (08 R208, R211, R215). -/
def State.acceptColl (s : State) (i : Nat) (c : Coll) : State :=
  (((s.setColl i c).noteStep c.desc).fwdDesc c.desc c.desc |>.complete c.cmd rOk 0 (toLe 2 i)).trySlot i

/-- A descriptor at the moment it may take a slot (04 R91): accepted when L > N, refused as late otherwise. -/
def State.takeSlot (s : State) (d : List Byte) (c : Cmd) : State :=
  if dLaunch d ≤ s.now then
    ({ s.sendLate d with lateDescs := s.lateDescs ++ [d] }).refusePost c stLateLaunch 0
  else match s.freeSlot with
    | some (i, s1) => s1.acceptColl i (s1.newColl d c (dLaunch d) false)
    | none => s

/-- A descriptor put at the end of the launch queue; a further 1 MiB buffer of pool 4 is drawn for it where those held
are full (08 R209). -/
def State.enqueue (s : State) (d : List Byte) (c : Cmd) : State :=
  let s := s.queueRoom.getD s
  let s : State := { s with queue := s.queue ++ [s.newColl d c (dLaunch d) false] }
  s.raiseTo (aBrz 0 + 0xF008) s.queue.length

/-- A descriptor held with the CTX and COLLECTIVE_ID of another, and the slot it is in (0xFFFF: in the queue). -/
def State.heldDesc (s : State) (d : List Byte) : Option (List Byte × Nat) :=
  let same (c : Coll) : Bool := dCtx c.desc == dCtx d && dId c.desc == dId d
  match s.slots.find? (fun e => same e.2) with
  | some e => some (e.2.desc, e.1)
  | none => (s.queue.find? same).map (fun c => (c.desc, 0xFFFF))

/-- COLL_POST (08 R208 to R214, 13 R366). A host-bridge conflict refuses every post (01 R25), and so does time that is not in
LOCKED or HOLDOVER (04 R84). -/
def State.runCollPost (s : State) (r : Req) : State :=
  let d := bytesAt r.args 0 128
  if s.sys.hostbrConflict || !s.timeGood then s.refusePost r.cmd rBadState 0
  else match s.descFault d with
    | some x => s.refusePost r.cmd rBadArgs x
    | none =>
      match s.heldDesc d with
      | some (old, slot) =>
        if old = d then s.complete r.cmd rOk 0x0C (toLe 2 slot)
        else (s.sendLate d).refusePost r.cmd rBadArgs 0x0B
      | none =>
        if 4096 ≤ s.slots.length || !s.queue.isEmpty then s.enqueue d r.cmd else s.takeSlot d r.cmd

def execCollPost (m : BitVec 6) (s : State) : Host.Outcome State Fault Refusal := s.command m 0x0201 State.runCollPost

/-- The first descriptor of the launch queue in the order of R210. -/
def State.queueHead (s : State) : Option Coll :=
  s.queue.foldl (fun best c => match best with
    | none => some c
    | some b => if r210 b.desc c.desc then some b else some c) none

/-- The launch queue's buffers return once it is empty. -/
def State.queueShrink (s : State) : State := if s.queue.isEmpty then s.freePages (fun h => h == .launchQueue) else s

/-- LAUNCH_QUEUE_TAKE (08 R209, R234): a slot is free, and the head of the queue takes it. A held one keeps its place as
held (14 R399). -/
def State.queueTake (s : State) : State :=
  match s.queueHead with
  | none => s
  | some c =>
    let s1 : State := { s with queue := s.queue.filter (fun q => q != c) }
    let s1 := s1.queueShrink
    if c.heldAt.isSome || c.unscheduled then
      match s1.freeSlot with
      | some (i, s2) => s2.acceptColl i c
      | none => s
    else s1.takeSlot c.desc c.cmd

def execLaunchQueueTake (s : State) : Host.Outcome State Fault Refusal :=
  due (s.brass && s.timeGood && !s.sys.hostbrConflict && decide (s.slots.length < 4096)) s s.queueTake

end Sys2Proof.Machine
end

