-- ==== Sys2Proof/Machine/Commands.lean ====
section
/-! DEFINITION. The rest of the Ghewyn commands (13 Table 13.9): slot tables and epochs (07 R186, R187; 04 R100 to
R105), the configuration image and firmware (15 R432, R433, R435), fences and ports (12 R335, 05 R142), resets (14 R404,
R408). -/

namespace Sys2Proof.Machine

/-! ### Slot tables (07 R185 to R187, 13 R368) -/

/-- Bytes of a table image of LEN entries, CRC included. -/
def tblBytes (len : Nat) : Nat := 2 * len + 4

/-- Table image `i` of a schedule image. -/
def tblImage (img : List Byte) (len i : Nat) : List Byte := bytesAt img (i * tblBytes len) (tblBytes len)

/-- Entries of a table image. -/
def tblEntries (t : List Byte) (len : Nat) : List (BitVec 16) :=
  (List.range len).map (fun j => BitVec.ofNat 16 (fld t (2 * j) 2))

/-- An entry by Table 7.1: reserved bits zero, and an SVC that agrees with its MODE. -/
def entryOk (e : BitVec 16) : Bool :=
  let n := e.toNat
  let v := slotSvc e
  bits n 15 14 == 0 && bits n 7 0 == 0 &&
  (match slotOwner e with
    | some _ => (decide (2 ≤ v) && decide (v ≤ 9)) || v == 14
    | none => v == 0)

/-- The table of a port that takes a load, where its other table is not ARMED: neither ACTIVE nor ARMED itself, EMPTY
before READY, then the one loaded longer ago, then table 0 (07 R186). -/
def State.loadSide (s : State) (p : Nat) : Option Nat :=
  let a := s.slotTbl p 0
  let b := s.slotTbl p 1
  let free (t : SlotTbl) : Bool := t.st == .empty || t.st == .ready
  if a.st = .armed || b.st = .armed then none
  else if free a && free b then
    if a.st = b.st then (if b.loaded < a.loaded then some 1 else some 0)
    else if a.st = .empty then some 0 else some 1
  else if free a then some 0
  else if free b then some 1
  else none

/-- The check of 07 R186 for one port's table image. -/
def State.tblOk (s : State) (p side epoch len : Nat) (t : List Byte) : Bool :=
  let es := tblEntries t len
  let other := s.slotTbl p (1 - side)
  decide (1 ≤ len) && decide (len ≤ 8192) && epoch != 0 && (other.st == .empty || other.epoch != epoch) &&
  es.all entryOk && es.all (fun e => match slotOwner e with
    | some v => bit (s.cfgAt (aPrt p + 8)).toNat v
    | none => true) &&
  crc32c (t.take (2 * len)) == BitVec.ofNat 32 (fld t (2 * len) 4)

/-- One port's load: the table READY, or ARMED where a joining Fixus loads the epoch in force (14 R407), and whether it
was refused. A failed check leaves the table EMPTY. The table is LOADING while its image is checked, within this one command
(07 Table 7.4; assumption log 133). -/
def State.loadPort (s : State) (p epoch len : Nat) (t : List Byte) : State × Bool :=
  match s.loadSide p with
  | none => (s, true)
  | some side =>
    let s := s.setSlotTbl p side { s.slotTbl p side with st := .loading }
    if s.tblOk p side epoch len t then
      let join := s.sch.epochs.any (fun r => r.joining && r.epoch == epoch)
      let x : SlotTbl := { st := if join then .armed else .ready, epoch := epoch, len := len,
                           crc := BitVec.ofNat 32 (fld t (2 * len) 4), entries := tblEntries t len,
                           loaded := s.sch.loads, at_ := s.now, start := 0 }
      (s.setSlotTbl p side x, false)
    else
      (s.setSlotTbl p side { SlotTbl.init with loaded := (s.slotTbl p side).loaded }, true)

/-- Every port's load, and the mask of the ports that refused. -/
def State.loadPorts (s : State) (epoch len : Nat) (img : List Byte) : State × Nat :=
  (List.range 64).foldl (fun (a : State × Nat) p =>
    let (s1, bad) := a.1.loadPort p epoch len (tblImage img len p)
    (s1, a.2 + (if bad then 2 ^ p else 0))) (s, 0)

/-- TABLE_FWD frames of a table image to port `i` of accelerator `a` (13 R350). -/
def State.sendTable (s : State) (a i epoch len : Nat) (t : List Byte) : State :=
  let cs := chunksOf 15328 t
  ((List.range cs.length).foldl (fun s k =>
    s.sendMgmt (s.addr % 0x4000 + a) 0xB false 0 0 (15328 * k)
      (2 ^ 31 * b2n (k + 1 == cs.length) + 2 ^ 30 * i + 65536 * (len % 16384) + epoch) (cs.getD k [])) s)

/-- The accelerator ports a load goes to, as 2a + i. -/
def State.loadAccs (s : State) : List Nat := (List.range 32).filter (fun k => s.accPresent (k / 2))

/-- SCHED_LOAD (07 R186, R187): it completes once every present accelerator has answered for both ports. -/
def State.runSchedLoad (s : State) (r : Req) : State :=
  let epoch := r.h 2
  let len := r.h 4
  match s.staged (r.h 0) with
  | none => s.refuse r.cmd rBadArgs 0
  | some img =>
    if img.length ≠ 96 * tblBytes len then s.refuse r.cmd rBadArgs 0
    else
      let s := s.extend 3 (sha256 img)
      let s : State := { s with sch := { s.sch with loads := s.sch.loads + 1 } }
      let (s, bad) := s.loadPorts epoch len img
      let accs := s.loadAccs
      let s := accs.foldl (fun s k => s.sendTable (k / 2) (k % 2) epoch len (tblImage img len (64 + k))) s
      let l : Load := { cmd := r.cmd, epoch := epoch, refused := bad, accRef := 0, wait := accs }
      let s := s.endXfer (r.h 0)
      ({ s with sch := { s.sch with loading := s.sch.loading ++ [l] } }).finishLoads

def execSchedLoad (m : BitVec 6) (s : State) : Host.Outcome State Fault Refusal := s.command m 0x0301 State.runSchedLoad

/-- Epochs that an accelerator port holds after an answer for `e`: it keeps one of two tables, the active one where it
has it (07 R186). -/
def State.acksAfter (s : State) (l : List Nat) (e : Nat) (ok : Bool) : List Nat :=
  let rest := l.filter (· != e)
  let kept := if rest.length ≤ 1 then rest
    else match rest.find? (fun x => s.sch.epochs.any (fun r => r.epoch == x)) with
      | some x => [x]
      | none => rest.take 1
  if ok then e :: kept else kept

/-- TABLE_ACK (07 R187, 13 R352), from an accelerator of this Fixus alone. -/
def State.tableAck (s : State) (f : Mgmt) : State :=
  let src := f.src.toNat
  let a := addrUnit src
  let i := b2n (f.arg.getLsbD 30)
  let ok := !f.arg.getLsbD 31
  let e := f.arg.toNat % 65536
  let k := a + 16 * i
  let w := 2 * a + i
  let acks := tset s.sch.acks k (s.acksAfter (tget s.sch.acks k []) e ok)
  let loading := s.sch.loading.map (fun (l : Load) =>
    if l.epoch = e && l.wait.contains w then
      { l with wait := l.wait.filter (· != w), accRef := l.accRef + (if ok then 0 else 2 ^ w) }
    else l)
  if !addrIsFixus src && homeOf src == s.addr then
    ({ s with sch := { s.sch with acks := acks, loading := loading } }).finishLoads
  else s

def execTableAck (f : Mgmt) (s : State) : Host.Outcome State Fault Refusal := s.brassFrame 0x0C f (fun s => s.tableAck f)

/-! ### Epoch switches and step corrections (04 R100 to R105) -/

/-- EPOCH_ARM (04 R101, R102): READY tables of the epoch become ARMED; one that names an epoch in no READY table is refused (07
R199). One that comes after the decision count completes CANCELLED at once, one that comes after B, or after a cancel of its
switch, at the decision count. -/
def State.runEpochArm (s : State) (r : Req) : State :=
  let at_ := r.d 8
  let a : Arm := { ctx := r.b 0, epoch := r.h 2, s := at_, ready := false, released := false, sampled := false,
                   cancelled := false, decided := false, cmd := some r.cmd }
  if at_ < s.now + 10000 then s.complete r.cmd stCancelled 0 []
  else if !s.sch.tbls.any (fun e => e.2.st == .ready && e.2.epoch == a.epoch) then s.refuse r.cmd rBadState 0
  else
    let late := decide (s.armB a < s.now) || s.sch.cancels.contains (a.ctx, a.epoch, a.s)
    let s := s.mapTbls (fun t => if t.st == .ready && t.epoch == a.epoch then { t with st := .armed } else t)
    { s with sch := { s.sch with arms := s.sch.arms ++ [{ a with sampled := late, cancelled := late }] } }

def execEpochArm (m : BitVec 6) (s : State) : Host.Outcome State Fault Refusal := s.command m 0x0302 State.runEpochArm

/-- IRC_STEP (04 R100). One that another mailbox has asked for already stands in its way. -/
def State.runIrcStep (s : State) (r : Req) : State :=
  if s.sch.step.isSome then s.refuse r.cmd rBadState 0
  else
    let q : StepReq := { delta := (BitVec.ofNat 64 (r.d 0)).toInt, c := r.d 8, released := false, ok := none, cmd := r.cmd }
    { s with sch := { s.sch with step := some q } }

def execIrcStep (m : BitVec 6) (s : State) : Host.Outcome State Fault Refusal := s.command m 0x0303 State.runIrcStep

/-! ### Configuration and firmware images (15 R432 to R435) -/

/-- CONFIG_APPLY (15 R435). -/
def State.runConfigApply (s : State) (r : Req) : State :=
  match s.staged (r.h 0) with
  | none => s.refuse r.cmd rBadArgs 0
  | some img =>
    let old := s.cfgSlot s.flash.cfgActive
    let seqOf (i : List Byte) : Nat := imgCfgSeq (Config.eContent i)
    if !s.cfgSigned img then s.refuse r.cmd rCheckFailed 0
    else if !cfgHeader img || seqOf img < seqOf old || (seqOf img == seqOf old && img != old) then
      s.refuse r.cmd rBadArgs 0
    else
      let f : Flash := if s.flash.cfgActive then { s.flash with cfgA := img } else { s.flash with cfgB := img }
      (({ s with flash := s.flash.write { f with cfgActive := !f.cfgActive } }).endXfer (r.h 0)).ok r

def execConfigApply (m : BitVec 6) (s : State) : Host.Outcome State Fault Refusal :=
  s.command m 0x0304 State.runConfigApply

/-- FW_STAGE (15 R432). -/
def State.runFwStage (s : State) (r : Req) : State :=
  let b := r.b 2 == 1
  match s.staged (r.h 0) with
  | none => s.refuse r.cmd rBadArgs 0
  | some img =>
    if !fwSigned img then s.refuse r.cmd rCheckFailed 0
    else if !s.fwHeader img then s.refuse r.cmd rBadArgs 0
    else if b = s.sec.slotB then s.refuse r.cmd rBadState 0
    else
      let f : Flash := if b then { s.flash with fwB := img } else { s.flash with fwA := img }
      (({ s with flash := f }).endXfer (r.h 0)).ok r

def execFwStage (m : BitVec 6) (s : State) : Host.Outcome State Fault Refusal := s.command m 0x0602 State.runFwStage

/-- FW_ACTIVATE (15 R433). -/
def State.runFwActivate (s : State) (r : Req) : State :=
  let b := r.b 0 == 1
  let img := s.fwSlot b
  if b ≠ s.sec.slotB then
    if !fwSigned img then s.refuse r.cmd rCheckFailed 0
    else if !s.fwHeader img then s.refuse r.cmd rBadArgs 0
    else
      ({ s with flash := s.flash.write { s.flash with active := b, trial := true, trialCount := 0 } }).ok r
  else if s.flash.trial && s.flash.active == b then
    ({ s with fuses := { s.fuses with minver := max s.fuses.minver (imgRollback (Config.eContent img)) },
              flash := s.flash.write { s.flash with trial := false },
              sec := { s.sec with trial := false } }).ok r
  else s.ok r

def execFwActivate (m : BitVec 6) (s : State) : Host.Outcome State Fault Refusal :=
  s.command m 0x0603 State.runFwActivate

/-! ### Fences and ports (12 R335, 05 R142, 14 Table 14.4) -/

/-- INFO of source 0x0707: the requester's address and HOST bit, 0x10000 for the SMBus path. -/
def State.requester (s : State) (r : Req) : Nat :=
  match (s.mbx r.cmd.mbx).owner with
  | some (a, h) => a.toNat + 32768 * b2n h
  | none => 0x10000

/-- A channel fenced by command: the command completes when the channel is FENCED. -/
def State.fenceChannelCmd (s : State) (r : Req) (k c : Nat) : State :=
  if (s.chan k c).fenced || (s.stack k).fenced then s.ok r
  else
    let gone := s.chanGone k c
    let s := s.setStack k { s.stack k with fenceCmd := (s.stack k).fenceCmd ++ [(c, r.cmd)] }
    if gone then s else (s.record 2 7 (16 * k + c) 0x0707 (s.requester r)).queueFence k c

/-- ING_FENCE. -/
def execIngFence (m : BitVec 6) (s : State) : Host.Outcome State Fault Refusal :=
  s.command m 0x0404 (fun s r => s.fenceChannelCmd r (r.b 0) (r.b 1))

/-- PORT_ENABLE (05 R142): the port leaves FENCED and trains from phase 0. -/
def State.runPortEnable (s : State) (r : Req) : State :=
  let p := r.b 0
  if (s.port p).st ≠ .fenced then s.refuse r.cmd rBadState 0
  else
    let s := s.setPort p { s.port p with st := .down }
    let s := if s.mayTrain p then s.setPort p { s.port p with st := .training } else s
    s.ok r

def execPortEnable (m : BitVec 6) (s : State) : Host.Outcome State Fault Refusal := s.command m 0x0501 State.runPortEnable

/-- Is a unit of UNIT_FENCE fenced already? -/
def State.unitFenced (s : State) (kind i : Nat) : Bool :=
  if kind = 0 then (s.lane i).fenced else if kind = 1 then (s.port i).st == .fenced
  else if kind = 2 then s.bzFenced.contains i else if kind = 3 then s.stl.fenced.contains i
  else (s.cluster i).fenced

/-- UNIT_FENCE: class F, recorded as commanded. -/
def State.runUnitFence (s : State) (r : Req) : State :=
  let kind := r.b 0
  let i := r.h 1
  let who := s.requester r
  if kind = 5 then s.fenceChannelCmd r (i / 16) (i % 16)
  else if s.unitFenced kind i then s.ok r
  else
    let s := if kind = 1 then s.fencePort i 0x0707 who
      else
        let s := s.record 2 (kind + 2) i 0x0707 who
        if kind = 0 then s.fenceLane i else if kind = 2 then s.fenceEngine i else if kind = 3 then s.fenceTile i
        else s.fenceCluster i
    s.ok r

def execUnitFence (m : BitVec 6) (s : State) : Host.Outcome State Fault Refusal := s.command m 0x0502 State.runUnitFence

/-! ### Resets (14 R404, R408) -/

/-- RESET_WARM with SCOPE 0: the reset is asked for, and never completes (14 R404). -/
def execResetWarm (m : BitVec 6) (s : State) : Host.Outcome State Fault Refusal :=
  .next (s.takeEntry m (fun o g => o == 0x0503 && fld g 0 1 != 1)
    (fun s _ => { s with sys := { s.sys with resetAsked := some 2 } }))

/-- RESET_WARM with SCOPE 1 (14 R408): W := N + 100,000 ns, ordered of the other 15 Fixus of the cell. -/
def State.orderCell (s : State) : State :=
  let w := s.now + 100000
  let s : State := { s with sys := { s.sys with cellW := some w } }
  ((List.range 16).filter (fun k => k != s.pins.sw % 16)).foldl (fun s k =>
    s.sendMgmt (fixusAddr s.sys.cell k) 0xE false 0 0 0 0 (nsBytes w)) s

def execResetWarmCell (m : BitVec 6) (s : State) : Host.Outcome State Fault Refusal :=
  .next (s.takeEntry m (fun o g => o == 0x0503 && fld g 0 1 == 1) (fun s _ => s.orderCell))

end Sys2Proof.Machine
end

