-- ==== Sys2Proof/Machine/Frames.lean ====
section
/-! DEFINITION. MGMT frames that Brass acts on (13 R348 to R356, R362, R363): RING_WRITE, BULK_WRITE, REG_READ,
REG_WRITE, and their answers. -/

namespace Sys2Proof.Machine

/-- ERROR (13 Table 13.4) in answer to a frame of subtype `msub`. -/
def State.sendError (s : State) (f : Mgmt) (msub reason index : Nat) : State :=
  s.sendMgmt f.src.toNat 8 f.host f.mbx.toNat f.tag.toNat 0 msub (toLe 1 reason ++ toLe 2 index)

def eNotOpen : Nat := 1
def eOwner : Nat := 2
def eRingFull : Nat := 3
def eBusError : Nat := 4
def eBadHandle : Nat := 5
def eRange : Nat := 6
def eReset : Nat := 7
def eFormat : Nat := 8


/-! ### RING_WRITE (13 R352, R355, R356, R362) -/

/-- Reason to refuse a RING_WRITE, apart from its doorbell. -/
def State.ringFault (s : State) (f : Mgmt) : Option Nat :=
  let m := f.mbx.toNat
  let b := s.mbx m
  let n := f.payload.length
  let o := f.offset.toNat
  if n = 0 || n % 256 ≠ 0 || 59 * 256 < n || o % 256 ≠ 0 then some eFormat
  else if m = 63 then some eOwner
  else if !b.opened then some eNotOpen
  else if s.bound.contains (f.src, f.host, m) then some eReset
  else if b.owner.isSome && b.owner != some (f.src, f.host) then some eOwner
  else if 256 * b.rqN < o + n then some eRange
  else none

/-- The entries stored, and the requester bound where none was. -/
def State.ringStore (s : State) (f : Mgmt) : State :=
  let b := s.mbx f.mbx.toNat
  (if b.owner.isNone then s.rebound f.mbx.toNat else s).setMbx f.mbx.toNat { b with rq := Mem.splice b.rq f.offset.toNat f.payload, owner := some (b.owner.getD (f.src, f.host)) }

/-- RING_WRITE. A requester bound before the reset is refused once (13 R362). -/
def State.ringWrite (s : State) (f : Mgmt) : State :=
  match s.ringFault f with
  | some e =>
    let s1 := if e = eReset then { s with bound := s.bound.filter (· != (f.src, f.host, f.mbx.toNat)) } else s
    s1.sendError f 1 e 0
  | none =>
    let s1 := s.ringStore f
    if f.arg.getLsbD 31 then
      (s1.setRqTail f.mbx.toNat (f.arg.toNat % 65536)).getD (s.sendError f 1 eRingFull 0)
    else s1

def execRingWrite (f : Mgmt) (s : State) : Host.Outcome State Fault Refusal := s.brassFrame 1 f (fun s => s.ringWrite f)

/-! ### BULK_WRITE (13 R363) -/

/-- Reason to refuse a BULK_WRITE. -/
def State.bulkFault (s : State) (f : Mgmt) : Option Nat :=
  let n := f.payload.length
  if n = 0 || 15328 < n then some eFormat
  else match s.xfer (f.arg.toNat % 65536) with
    | none => some eBadHandle
    | some x =>
      if x.closed then some eBadHandle
      else if x.mbx ≠ f.mbx.toNat || x.owner != some (f.src, f.host) then some eOwner
      else if x.length < f.offset.toNat + n then some eRange
      else none

/-- Bytes put into a transfer. -/
def State.bulkStore (s : State) (f : Mgmt) : State :=
  let h := f.arg.toNat % 65536
  match s.xfer h with
  | none => s
  | some x => s.setXfer h { x with data := Mem.splice x.data f.offset.toNat f.payload }

def execBulkWrite (f : Mgmt) (s : State) : Host.Outcome State Fault Refusal :=
  s.brassFrame 3 f (fun s => match s.bulkFault f with
    | some e => s.sendError f 3 e 0
    | none => s.bulkStore f)

/-! ### REG_READ and REG_WRITE (13 R352) -/

/-- The requester of a register access by MGMT frame. -/
def reqPath (f : Mgmt) : Who := if f.host then .host f.src else .inband f.src

/-- REG_DATA in answer: the address as requested, and the words read. -/
def State.sendRegData (s : State) (f : Mgmt) (bs : List Byte) : State :=
  s.sendMgmt f.src.toNat 7 f.host f.mbx.toNat f.tag.toNat 0 f.arg.toNat bs

/-- `n` words read from address `a` on: the bytes read, or none where a word fails, and its index. -/
def State.readWords (w : Who) (n : Nat) : Nat → Nat → State → List Byte → State × Option (List Byte) × Nat
  | 0, _, s, bs => (s, some bs, n)
  | k + 1, a, s, bs =>
    let r := s.access w a
    if r.2.isSome then State.readWords w n k (a + 4) r.1 (bs ++ toLe 4 (r.2.getD 0))
    else (r.1, none, n - (k + 1))

/-- REG_READ. -/
def State.regReads (s : State) (f : Mgmt) : State :=
  let n := fld f.payload 0 4
  if f.payload.length ≠ 4 || n = 0 || 64 < n then s.sendError f 5 eFormat 0
    else match State.readWords (reqPath f) n n (f.arg.toNat % 2 ^ 26) s [] with
      | (s1, some bs, _) => s1.sendRegData f bs
      | (s1, none, i) => s1.sendError f 5 eBusError i

def execRegRead (f : Mgmt) (s : State) : Host.Outcome State Fault Refusal := s.brassFrame 5 f (fun s => s.regReads f)

/-- Words written from address `a` on; the index of the word that fails, if one does. -/
def State.writeWords (w : Who) : List Word → Nat → Nat → State → State × Option Nat
  | [], _, _, s => (s, none)
  | v :: l, a, i, s =>
    let r := s.store w a v.toNat
    if r.2 then State.writeWords w l (a + 4) (i + 1) r.1 else (r.1, some i)

/-- REG_WRITE. -/
def State.regWrites (s : State) (f : Mgmt) : State :=
  let n := f.payload.length
  if n = 0 || n % 4 ≠ 0 || 256 < n then s.sendError f 6 eFormat 0
    else match State.writeWords (reqPath f) (toWords f.payload) (f.arg.toNat % 2 ^ 26) 0 s with
      | (s1, none) => s1.sendRegData f []
      | (s1, some i) => s1.sendError f 6 eBusError i

def execRegWrite (f : Mgmt) (s : State) : Host.Outcome State Fault Refusal := s.brassFrame 6 f (fun s => s.regWrites f)

end Sys2Proof.Machine
end

