-- ==== Sys2Proof/Machine/Sec.lean ====
section
/-! DEFINITION. Quotes (15 R418 to R423, R431): ATTEST_QUOTE and the start of a bottom tree. -/

namespace Sys2Proof.Machine

/-- The 256-byte quote body (15 Table 15.7). -/
def State.quoteBody (s : State) (nonce : List Byte) : List Byte :=
  padTo 256 0 (toLe 2 1 ++ toLe 2 256 ++ toLe 4 5076 ++ toLe 8 s.fuses.serial.toNat ++ toLe 4 s.sysId ++
    toLe 4 s.sys.fw.toNat ++ toLe 8 (if s.irc.state = .free then 0 else s.now) ++ padTo 32 0 (nonce.take 32) ++
    s.sec.meas.flatten ++ (if s.fuses.lock then s.fuses.cfgkey else List.replicate 32 0) ++ toLe 2 s.fuses.rsv ++
    toLe 1 s.fuses.minver ++
    toLe 1 (b2n s.sec.trial + 2 * b2n s.sec.slotB + 4 * b2n s.sys.configured + 8 * b2n s.fuses.lock) ++
    toLe 4 (s.sec.quotes + 1))

/-- A quote signed with the next leaf of the started tree and sent (15 R420, R431). -/
def State.signQuote (s : State) (c : Cmd) (nonce : List Byte) (tag leaf : Nat) : State :=
  let body := s.quoteBody nonce
  let q := body ++ (Config.hssSign (s.fuses.rsv - 1) leaf body).toList
  let s : State := { s with sec := { s.sec with leaf := some (leaf + 1), quotes := s.sec.quotes + 1 } }
  (s.sendBulk c.mbx tag 0 q).complete c rOk 0 (toLe 4 5332)

/-- A quote as far as it can go now: signed where the tree has a leaf left, refused where none is left at all; otherwise
it waits for the next tree, whose RSV fuse is burned first (15 R420, R422, R423). -/
def State.tryQuote (s : State) (c : Cmd) (nonce : List Byte) (tag : Nat) : State :=
  if s.sec.busy then { s with sec := { s.sec with waiting := s.sec.waiting ++ [(c, nonce, tag)] } }
  else if s.signedOut then s.refuse c rBadState 0
  else match s.sec.leaf.filter (fun n => decide (n < 1024)) with
    | some n => s.signQuote c nonce tag n
    | none =>
      { s with fuses := { s.fuses with rsv := s.fuses.rsv + 1 },
               sec := { s.sec with busy := true, waiting := s.sec.waiting ++ [(c, nonce, tag)] } }

/-- ATTEST_QUOTE (15 R431). -/
def execAttestQuote (m : BitVec 6) (s : State) : Host.Outcome State Fault Refusal :=
  s.command m 0x0601 (fun s r => s.tryQuote r.cmd (bytesAt r.args 0 32) (r.h 32))

/-- TREE_START_DONE (15 R420, R436): the tree is computed and its root signed, and the quotes that waited are served in
order. A fuse that does not read as burned at the margin level, `burned` false, is source 0x0802. -/
def State.treeDone (s : State) : State :=
  let l := s.sec.waiting
  let s : State := { s with sec := { s.sec with leaf := some 0, busy := false, waiting := [] } }
  l.foldl (fun s w => s.tryQuote w.1 w.2.1 w.2.2) s

def execTreeStartDone (burned : Bool) (s : State) : Host.Outcome State Fault Refusal :=
  due (s.on && s.sec.busy) s (if burned then s.treeDone else s.enterX 0x0802 (s.fuses.rsv - 1))

end Sys2Proof.Machine
end

