-- ==== Sys2Proof/Machine/Dispatch.lean ====
section
/-! DEFINITION. The meaning of every command: one arm per constructor, each one call of its meaning. -/

namespace Sys2Proof.Machine

def exec (i : Instr) (s : State) : Host.Outcome State Fault Refusal :=
  match i with
  | .nop m => Sys2Proof.Machine.execNop m s
  | .identify m => Sys2Proof.Machine.execIdentify m s
  | .mbxOpen m => Sys2Proof.Machine.execMbxOpen m s
  | .mbxClose m => Sys2Proof.Machine.execMbxClose m s
  | .xferOpen m => Sys2Proof.Machine.execXferOpen m s
  | .xferClose m => Sys2Proof.Machine.execXferClose m s
  | .xferAbort m => Sys2Proof.Machine.execXferAbort m s
  | .xferRead m => Sys2Proof.Machine.execXferRead m s
  | .ctxOpen m => Sys2Proof.Machine.execCtxOpen m s
  | .ctxTeardown m => Sys2Proof.Machine.execCtxTeardown m s
  | .ctxReset m => Sys2Proof.Machine.execCtxReset m s
  | .planLoad m => Sys2Proof.Machine.execPlanLoad m s
  | .groupSet m => Sys2Proof.Machine.execGroupSet m s
  | .tensorSet m => Sys2Proof.Machine.execTensorSet m s
  | .poolSet m => Sys2Proof.Machine.execPoolSet m s
  | .collPost m => Sys2Proof.Machine.execCollPost m s
  | .badOpcode m => Sys2Proof.Machine.execBadOpcode m s
  | .schedLoad m => Sys2Proof.Machine.execSchedLoad m s
  | .epochArm m => Sys2Proof.Machine.execEpochArm m s
  | .ircStep m => Sys2Proof.Machine.execIrcStep m s
  | .configApply m => Sys2Proof.Machine.execConfigApply m s
  | .stateLoad m => Sys2Proof.Machine.execStateLoad m s
  | .regionAlloc m => Sys2Proof.Machine.execRegionAlloc m s
  | .regionFree m => Sys2Proof.Machine.execRegionFree m s
  | .ingFence m => Sys2Proof.Machine.execIngFence m s
  | .portEnable m => Sys2Proof.Machine.execPortEnable m s
  | .unitFence m => Sys2Proof.Machine.execUnitFence m s
  | .resetWarm m => Sys2Proof.Machine.execResetWarm m s
  | .resetWarmCell m => Sys2Proof.Machine.execResetWarmCell m s
  | .attestQuote m => Sys2Proof.Machine.execAttestQuote m s
  | .fwStage m => Sys2Proof.Machine.execFwStage m s
  | .fwActivate m => Sys2Proof.Machine.execFwActivate m s
  | .ringWrite f => Sys2Proof.Machine.execRingWrite f s
  | .bulkWrite f => Sys2Proof.Machine.execBulkWrite f s
  | .regRead f => Sys2Proof.Machine.execRegRead f s
  | .regWrite f => Sys2Proof.Machine.execRegWrite f s
  | .heldDesc f => Sys2Proof.Machine.execHeldDesc f s
  | .heldDescSend => Sys2Proof.Machine.execHeldDescSend s
  | .tableAck f => Sys2Proof.Machine.execTableAck f s
  | .hello f cell => Sys2Proof.Machine.execHello f cell s
  | .helloRepeat => Sys2Proof.Machine.execHelloRepeat s
  | .cellReset f => Sys2Proof.Machine.execCellReset f s
  | .cellResetEntry b => Sys2Proof.Machine.execCellResetEntry b s
  | .cellRelease => Sys2Proof.Machine.execCellRelease s
  | .cellReleaseTimeout => Sys2Proof.Machine.execCellReleaseTimeout s
  | .sysUnlock w v => Sys2Proof.Machine.execSysUnlock w v s
  | .unlockKeyTimeout => Sys2Proof.Machine.execUnlockKeyTimeout s
  | .sysReset w v b => Sys2Proof.Machine.execSysReset w v b s
  | .mbxRqTail w m v => Sys2Proof.Machine.execMbxRqTail w m v s
  | .mbxCqHead w m v => Sys2Proof.Machine.execMbxCqHead w m v s
  | .mbxCtlReset w m v => Sys2Proof.Machine.execMbxCtlReset w m v s
  | .fltCmdAck w slot => Sys2Proof.Machine.execFltCmdAck w slot s
  | .fltCmdClose w slot => Sys2Proof.Machine.execFltCmdClose w slot s
  | .secCfgkeyBurn w v => Sys2Proof.Machine.execSecCfgkeyBurn w v s
  | .shaperWrite w p k limit v => Sys2Proof.Machine.execShaperWrite w p k limit v s
  | .policerWrite w k r v => Sys2Proof.Machine.execPolicerWrite w k r v s
  | .weightWrite w p v => Sys2Proof.Machine.execWeightWrite w p v s
  | .portDisable w p v => Sys2Proof.Machine.execPortDisable w p v s
  | .prtVcLimitWrite w p vc v => Sys2Proof.Machine.execPrtVcLimitWrite w p vc v s
  | .prtVcEnWrite w p v => Sys2Proof.Machine.execPrtVcEnWrite w p v s
  | .sldPoolCfgWrite w second v => Sys2Proof.Machine.execSldPoolCfgWrite w second v s
  | .sldRsvWrite w pt v => Sys2Proof.Machine.execSldRsvWrite w pt v s
  | .ircNowLoRead w => Sys2Proof.Machine.execIrcNowLoRead w s
  | .schTblDataRead w => Sys2Proof.Machine.execSchTblDataRead w s
  | .rcRead w a => Sys2Proof.Machine.execRcRead w a s
  | .lowWordRead w a => Sys2Proof.Machine.execLowWordRead w a s
  | .bitAliasWrite w a v => Sys2Proof.Machine.execBitAliasWrite w a v s
  | .broadcastWrite w a v => Sys2Proof.Machine.execBroadcastWrite w a v s
  | .groupWindowWrite w a v => Sys2Proof.Machine.execGroupWindowWrite w a v s
  | .registerWrite w a v => Sys2Proof.Machine.execRegisterWrite w a v s
  | .smbusAddr pec wr => Sys2Proof.Machine.execSmbusAddr pec wr s
  | .smbusDataWrite pec data => Sys2Proof.Machine.execSmbusDataWrite pec data s
  | .smbusDataRead pec => Sys2Proof.Machine.execSmbusDataRead pec s
  | .smbusRdlen pec wr => Sys2Proof.Machine.execSmbusRdlen pec wr s
  | .smbusStatus pec => Sys2Proof.Machine.execSmbusStatus pec s
  | .bypass => Sys2Proof.Machine.execBypass s
  | .idcode => Sys2Proof.Machine.execIdcode s
  | .samplePreload pins shift => Sys2Proof.Machine.execSamplePreload pins shift s
  | .extest pins shift => Sys2Proof.Machine.execExtest pins shift s
  | .flitReceive p raw words => Sys2Proof.Machine.execFlitReceive p raw words s
  | .badCrcFlit p raw words => Sys2Proof.Machine.execBadCrcFlit p raw words s
  | .nak p e => Sys2Proof.Machine.execNak p e s
  | .nakRepeat p => Sys2Proof.Machine.execNakRepeat p s
  | .replayTimeout p => Sys2Proof.Machine.execReplayTimeout p s
  | .retrainReq p reason => Sys2Proof.Machine.execRetrainReq p reason s
  | .retrainTimeout p => Sys2Proof.Machine.execRetrainTimeout p s
  | .creditSync p next lims => Sys2Proof.Machine.execCreditSync p next lims s
  | .creditSyncAck p next => Sys2Proof.Machine.execCreditSyncAck p next s
  | .protocolViolation p code n seq vc c => Sys2Proof.Machine.execProtocolViolation p code n seq vc c s
  | .leave p reason c => Sys2Proof.Machine.execLeave p reason c s
  | .linkLost p => Sys2Proof.Machine.execLinkLost p s
  | .transmitFlit p => Sys2Proof.Machine.execTransmitFlit p s
  | .slotBoundary p => Sys2Proof.Machine.execSlotBoundary p s
  | .fomReport l ws => Sys2Proof.Machine.execFomReport l ws s
  | .txEqReq l ws => Sys2Proof.Machine.execTxEqReq l ws s
  | .param l ws => Sys2Proof.Machine.execParam l ws s
  | .paramRepeat p => Sys2Proof.Machine.execParamRepeat p s
  | .widthChange p ws => Sys2Proof.Machine.execWidthChange p ws s
  | .widthChangeEffective p => Sys2Proof.Machine.execWidthChangeEffective p s
  | .spareReq p ws => Sys2Proof.Machine.execSpareReq p ws s
  | .spareDone p ws => Sys2Proof.Machine.execSpareDone p ws s
  | .ready l ws => Sys2Proof.Machine.execReady l ws s
  | .trainingPhaseDone l o => Sys2Proof.Machine.execTrainingPhaseDone l o s
  | .trainingPhaseTimeout l => Sys2Proof.Machine.execTrainingPhaseTimeout l s
  | .markerLock l o => Sys2Proof.Machine.execMarkerLock l o s
  | .markerLoss l ms => Sys2Proof.Machine.execMarkerLoss l ms s
  | .fomWindow l f => Sys2Proof.Machine.execFomWindow l f s
  | .loopLockLoss l => Sys2Proof.Machine.execLoopLockLoss l s
  | .spareTrainDone p idx o => Sys2Proof.Machine.execSpareTrainDone p idx o s
  | .timeReqSend => Sys2Proof.Machine.execTimeReqSend s
  | .timeReq p m => Sys2Proof.Machine.execTimeReq p m s
  | .timeResp p m => Sys2Proof.Machine.execTimeResp p m s
  | .masterElection => Sys2Proof.Machine.execMasterElection s
  | .selfStart => Sys2Proof.Machine.execSelfStart s
  | .ppsIn => Sys2Proof.Machine.execPpsIn s
  | .ppsOut => Sys2Proof.Machine.execPpsOut s
  | .holdoverEntry => Sys2Proof.Machine.execHoldoverEntry s
  | .holdoverExpiry => Sys2Proof.Machine.execHoldoverExpiry s
  | .launch => Sys2Proof.Machine.execLaunch s
  | .lateNotice p n => Sys2Proof.Machine.execLateNotice p n s
  | .lateLaunchStop => Sys2Proof.Machine.execLateLaunchStop s
  | .barrierRelease => Sys2Proof.Machine.execBarrierRelease s
  | .barrierSample high => Sys2Proof.Machine.execBarrierSample high s
  | .barrierPullLow => Sys2Proof.Machine.execBarrierPullLow s
  | .stepCorrection => Sys2Proof.Machine.execStepCorrection s
  | .epochCancel p m => Sys2Proof.Machine.execEpochCancel p m s
  | .epochDecision => Sys2Proof.Machine.execEpochDecision s
  | .epochSwitch => Sys2Proof.Machine.execEpochSwitch s
  | .epochInfo p m => Sys2Proof.Machine.execEpochInfo p m s
  | .epochJoinActivate => Sys2Proof.Machine.execEpochJoinActivate s
  | .frameIngress p f => Sys2Proof.Machine.execFrameIngress p f s
  | .frameDescriptorFree => Sys2Proof.Machine.execFrameDescriptorFree s
  | .cellTimeMatch ecc => Sys2Proof.Machine.execCellTimeMatch ecc s
  | .noRouteWait => Sys2Proof.Machine.execNoRouteWait s
  | .escapeMove => Sys2Proof.Machine.execEscapeMove s
  | .gapExpiry => Sys2Proof.Machine.execGapExpiry s
  | .flowGrant p m => Sys2Proof.Machine.execFlowGrant p m s
  | .flowDeny p m => Sys2Proof.Machine.execFlowDeny p m s
  | .flowClose p m => Sys2Proof.Machine.execFlowClose p m s
  | .flowCloseAck p m => Sys2Proof.Machine.execFlowCloseAck p m s
  | .flowIdle => Sys2Proof.Machine.execFlowIdle s
  | .receiveFlowTimeout => Sys2Proof.Machine.execReceiveFlowTimeout s
  | .telemetrySample => Sys2Proof.Machine.execTelemetrySample s
  | .bufferGrant pool => Sys2Proof.Machine.execBufferGrant pool s
  | .launchQueueTake => Sys2Proof.Machine.execLaunchQueueTake s
  | .contribReceive p f ecc => Sys2Proof.Machine.execContribReceive p f ecc s
  | .partialReceive p f ecc => Sys2Proof.Machine.execPartialReceive p f ecc s
  | .lateBudgetExpiry => Sys2Proof.Machine.execLateBudgetExpiry s
  | .updateStart => Sys2Proof.Machine.execUpdateStart s
  | .passDone r => Sys2Proof.Machine.execPassDone r s
  | .steelJobStart => Sys2Proof.Machine.execSteelJobStart s
  | .productDone ecc => Sys2Proof.Machine.execProductDone ecc s
  | .flip => Sys2Proof.Machine.execFlip s
  | .twinDigest ctx tensor paramDigest stateDigest => Sys2Proof.Machine.execTwinDigest ctx tensor paramDigest stateDigest s
  | .resyncDone c => Sys2Proof.Machine.execResyncDone c s
  | .rejoinCopyDone c => Sys2Proof.Machine.execRejoinCopyDone c s
  | .returnReceive p f => Sys2Proof.Machine.execReturnReceive p f s
  | .returnDone p m => Sys2Proof.Machine.execReturnDone p m s
  | .returnResend p m => Sys2Proof.Machine.execReturnResend p m s
  | .completionReceive p f => Sys2Proof.Machine.execCompletionReceive p f s
  | .lookupReceive p f => Sys2Proof.Machine.execLookupReceive p f s
  | .sourceReceive p f => Sys2Proof.Machine.execSourceReceive p f s
  | .convertedReceive p f => Sys2Proof.Machine.execConvertedReceive p f s
  | .resultReceive p f => Sys2Proof.Machine.execResultReceive p f s
  | .layerBoundary k temp => Sys2Proof.Machine.execLayerBoundary k temp s
  | .clusterRelock k ok => Sys2Proof.Machine.execClusterRelock k ok s
  | .tempAlert src temp => Sys2Proof.Machine.execTempAlert src temp s
  | .thermalTrip sensor => Sys2Proof.Machine.execThermalTrip sensor s
  | .scrubRow stack ch words => Sys2Proof.Machine.execScrubRow stack ch words s
  | .refresh stack ch sid => Sys2Proof.Machine.execRefresh stack ch sid s
  | .dramHot stack temp => Sys2Proof.Machine.execDramHot stack temp s
  | .uncorrectableCodeword addr word => Sys2Proof.Machine.execUncorrectableCodeword addr word s
  | .pageMoveDone stack ok => Sys2Proof.Machine.execPageMoveDone stack ok s
  | .recordAutoClose => Sys2Proof.Machine.execRecordAutoClose s
  | .deferredTimerExpiry => Sys2Proof.Machine.execDeferredTimerExpiry s
  | .faultNPulseEnd => Sys2Proof.Machine.execFaultNPulseEnd s
  | .watchdogExpiry b => Sys2Proof.Machine.execWatchdogExpiry b s
  | .configParityScan bad => Sys2Proof.Machine.execConfigParityScan bad s
  | .abortNotice p n => Sys2Proof.Machine.execAbortNotice p n s
  | .abortCount decided => Sys2Proof.Machine.execAbortCount decided s
  | .ctxStop p n => Sys2Proof.Machine.execCtxStop p n s
  | .stopCount => Sys2Proof.Machine.execStopCount s
  | .drainComplete => Sys2Proof.Machine.execDrainComplete s
  | .resume p n => Sys2Proof.Machine.execResume p n s
  | .resumeFlood => Sys2Proof.Machine.execResumeFlood s
  | .heldLaunch => Sys2Proof.Machine.execHeldLaunch s
  | .holdLimitExpiry => Sys2Proof.Machine.execHoldLimitExpiry s
  | .warmReset cause b => Sys2Proof.Machine.execWarmReset cause b s
  | .resetN high width b => Sys2Proof.Machine.execResetN high width b s
  | .pwrgd high width => Sys2Proof.Machine.execPwrgd high width s
  | .refclkStop width => Sys2Proof.Machine.execRefclkStop width s
  | .resetExit => Sys2Proof.Machine.execResetExit s
  | .ingotTrained failed => Sys2Proof.Machine.execIngotTrained failed s
  | .faultNGapEnd => Sys2Proof.Machine.execFaultNGapEnd s
  | .treeStartDone burned => Sys2Proof.Machine.execTreeStartDone burned s
  | .refclkRestore => Sys2Proof.Machine.execRefclkRestore s
  | .conversionDone => Sys2Proof.Machine.execConversionDone s

end Sys2Proof.Machine
end

