-- ==== Sys2Proof/Safety.lean ====
section
/-! DEFINITION. What a sound state of the block is, in the terms the statements use: the identity of the
part, the canonical form of its byte stores, and the bounds the spec puts on what it holds. -/

namespace Sys2Proof.Machine

/-- What no command of this block changes: the queue of waiting commands, and the grade, the serial number and the
presence fuses of the part (00 R1, 02 R49, 15 Table 15.1). -/
def State.part (s : State) : List Instr × Grade × BitVec 64 × BitVec 16 × BitVec 64 × BitVec 8 :=
  (s.pending, s.fuses.grade, s.fuses.serial, s.fuses.bz, s.fuses.st, s.fuses.cl)

/-- Both rings of every mailbox are in canonical form. -/
abbrev mbxsOk (t : Tbl Mbx) : Prop := ∀ e ∈ t, e.2.rq.wf = true ∧ e.2.cq.wf = true

/-- The bytes of every transfer are in canonical form. -/
abbrev xfersOk (t : Tbl Xfer) : Prop := ∀ e ∈ t, e.2.data.wf = true

/-- The bytes of every region are in canonical form. -/
abbrev regionsOk (t : Tbl Region) : Prop := ∀ e ∈ t, e.2.data.wf = true

/-- RDLEN is a length that SMBUS_RDLEN takes: 4 to 32, a multiple of 4 (13 Table 13.5). -/
abbrev rdlenOk (n : Nat) : Prop := 4 ≤ n ∧ n ≤ 32 ∧ n % 4 = 0

/-- Every Steel cluster runs at one of the DVFS steps 0 to 5 (11 R292, Table 11.2). -/
abbrev clustersOk (t : Tbl Cluster) : Prop := ∀ e ∈ t, e.2.step ≤ 5

/-- No page of Ingot has two holders (12 R322). -/
abbrev pagesOk (l : List Page) : Prop := (l.map Page.no).Nodup

/-- A sound state. -/
abbrev State.Inv (s : State) : Prop :=
  mbxsOk s.mbxs ∧ xfersOk s.xfers ∧ regionsOk s.regions ∧ rdlenOk s.smb.rdlen ∧ clustersOk s.stl.clusters ∧
  pagesOk s.ing.pages

/-! ### Requests at the head of a mailbox (13 R356 to R360) -/

/-- The command at the request head of mailbox `m`. -/
def State.cmdAt (s : State) (m : BitVec 6) : Cmd := (s.mbx m.toNat).cmd m.toNat

/-- That command and its ARGS. -/
def State.reqAt (s : State) (m : BitVec 6) : Req :=
  { cmd := s.cmdAt m, args := bytesAt (s.mbx m.toNat).entry 32 (8 * fld (s.mbx m.toNat).entry 3 1) }

/-- The state in which that command has left the ring and runs. -/
abbrev State.taken (s : State) (m : BitVec 6) : State := s.startCmd m.toNat

/-- Brass may take the entry at the head of mailbox `m` now; it holds opcode `op`, no fault in its header or its ARGS
(13 R357), and it is not refused for its path (13 R379). -/
abbrev State.fits (s : State) (m : BitVec 6) (op : Nat) : Prop :=
  s.canTake m.toNat = true ∧ (s.cmdAt m).opcode = op ∧ entryFault (s.mbx m.toNat).entry = none ∧
  (m = 63 && hostOnly op) = false

/-! ### Register accesses (13 R353, R369 to R373) -/

/-- The requester reaches the whole register space, and no configuration register stands with a parity mismatch. -/
abbrev State.hears (s : State) (w : Who) : Prop :=
  s.reachable w = true ∧ s.sys.classX = false ∧ s.sys.noFirmware = false ∧ s.sys.parityBad = []

/-- An address of one register: in the space, aligned, no alias and no window of several registers. -/
abbrev State.plainAddr (s : State) (a : Nat) : Prop :=
  a % 4 = 0 ∧ a < 0x4000000 ∧ aliasOf a = none ∧ s.window a = none ∧ canon a = a

/-- The keys that stay open when requester `w` writes a register (13 R371). -/
abbrev State.keysLeft (s : State) (w : Who) : List Key := s.sys.keys.filter (fun k => k.who != w)

end Sys2Proof.Machine
end

