-- ==== Sys2Proof/Certificates/Slice0/Obligations.lean ====
section
/-! DEFINITION. The statements of this model for the provers: what each command of the block does, as the numbered rules
of the spec give it, and what every command and every step keeps. -/

section
open Sys2Proof Sys2Proof.Machine

/-- Step: the command at the front of the queue is run on the state whose queue is the rest (the block's form of a
step). An empty queue lets one nanosecond of the model's clock pass, in which the Iridium count goes on where it
counts: the model's own choice, assumption log 1. -/
def Obligations.StepTakesFrontCommand : Prop :=
  (∀ (s : State) (c : Instr) (rest : List Instr), s.pending = c :: rest →
    step s = exec c { s with pending := rest }) ∧
  (∀ s : State, s.pending = [] → step s = .next s.tick ∧ s.tick.clk = s.clk + 1 ∧ s.tick.pending = [] ∧
    s.tick.irc = (if s.counting then s.irc.advance else s.irc))

/-- NOP and IDENTIFY complete OK (13 Table 13.9), and so does a request of an opcode that Table 13.9 does not give, with
BAD_OPCODE (R364); what completing means is stated in CompletionEntryPosted. Contexts by command (08 R203, R204; 14
R392): CTX_OPEN takes up a FREE context with its generation, threshold and budget (0 stands for 2,000 ns), the first
of a job with its block (a free value, assumption log 8), and a step correction that waits is readied no more (04
R100); CTX_TEARDOWN and CTX_RESET wait for the context to be FREE and begin its stop; CTX_RESET of a FREE context
completes at once. Completion: exec answers the next state named, for every state and operands that meet the
conditions on them alone, for nop, identify, badOpcode, ctxOpen, ctxTeardown, ctxReset. -/
def Obligations.NopIdentifyAndContextCommandsComplete : Prop :=
  (∀ (s : State) (m : BitVec 6), s.fits m 1 → exec (.nop m) s = .next ((s.taken m).complete (s.cmdAt m) 0 0 [])) ∧
  (∀ (s : State) (m : BitVec 6), s.fits m 2 →
    exec (.identify m) s = .next ((s.taken m).complete (s.cmdAt m) 0 0
      (toLe 4 s.sysId ++ toLe 4 s.sysPos ++ toLe 8 s.fuses.serial.toNat ++ toLe 4 s.sys.fw.toNat ++
        toLe 4 s.ircStatus))) ∧
  (∀ (s : State) (m : BitVec 6), s.canTake m.toNat = true → knownOp (s.cmdAt m).opcode = false →
    exec (.badOpcode m) s = .next ((s.taken m).complete (s.cmdAt m) 0x40 0 [])) ∧
  (∀ (s : State) (m : BitVec 6) (r : Req) (c : Ctx), s.fits m 0x101 → r = s.reqAt m → c = s.ctx (r.b 0) →
    c.st = .free → c.stopD = none → (s.irc.state = .locked ∨ s.irc.state = .holdover) →
    ∃ t : State, exec (.ctxOpen m) s = .next (t.complete r.cmd 0 0 []) ∧
      (t.ctx (r.b 0)).st = .opened ∧ (t.ctx (r.b 0)).gen = r.h 2 ∧ (t.ctx (r.b 0)).threshold = r.w 4 ∧
      (t.ctx (r.b 0)).budget = (if r.h 8 = 0 then 2000 else r.h 8) ∧
      (t.ctx (r.b 0)).planned = c.planned ∧ (t.ctx (r.b 0)).stopD = none ∧
      (∀ x, x ≠ r.b 0 → t.ctx x = s.ctx x) ∧
      ((∃ e ∈ s.ctxs, e.2.st ≠ .free ∨ e.2.planned = true) → t.sys = s.sys ∧ t.freeCtr = s.freeCtr) ∧
      (s.sch.step = none → t.sch = s.sch ∧ t.pins = s.pins) ∧
      t = { s.taken m with
        ctxs := t.ctxs, freeCtr := t.freeCtr, sys := { s.sys with block := t.sys.block }, sch := t.sch,
        pins := t.pins }) ∧
  (∀ (s : State) (m : BitVec 6) (r : Req), s.fits m 0x102 → r = s.reqAt m →
    exec (.ctxTeardown m) s = .next (((s.taken m).waitCtx (r.b 0) r.cmd).beginStop (r.b 0) true false)) ∧
  (∀ (s : State) (m : BitVec 6) (r : Req), s.fits m 0x103 → r = s.reqAt m →
    exec (.ctxReset m) s = .next (if (s.ctx (r.b 0)).st = .free then (s.taken m).complete r.cmd 0 0 []
      else ((s.taken m).waitCtx (r.b 0) r.cmd).beginStop (r.b 0) false false))

/-- A completing command is written at its mailbox's completion tail: 128 bytes of Table 13.7 with the phase bit of the
ring's pass, the tail one on, every other byte of the ring as it was (13 R355, R358); RESULT and DETAIL, TAG and
INDEX are those of the command. Its request has left the request ring. Completion: exec answers the next state
named, for every state and operands that meet the conditions on them alone, for nop. -/
def Obligations.CompletionEntryPosted : Prop :=
  ∀ (s : State) (m : BitVec 6), s.fits m 1 → (s.mbx m.toNat).cq.wf = true →
    ∃ t : State, exec (.nop m) s = .next t ∧
      (t.mbx m.toNat).rqHead = ((s.mbx m.toNat).rqHead + 1) % 65536 ∧
      (t.mbx m.toNat).cqTail = ((s.mbx m.toNat).cqTail + 1) % 65536 ∧
      (∀ i, i < 128 →
        Mem.read (t.mbx m.toNat).cq (128 * ((s.mbx m.toNat).cqTail % (32 * (s.mbx m.toNat).cqPages)) + i) =
          (cplBytes { opcode := 1, result := 0, tag := (s.cmdAt m).tag, index := (s.mbx m.toNat).rqHead, detail := 0,
                      count := s.now, ret := [] }
            (s.mbx m.toNat).cqTail (32 * (s.mbx m.toNat).cqPages)).getD i 0) ∧
      (∀ a, (a < 128 * ((s.mbx m.toNat).cqTail % (32 * (s.mbx m.toNat).cqPages)) ∨
          128 * ((s.mbx m.toNat).cqTail % (32 * (s.mbx m.toNat).cqPages)) + 128 ≤ a) →
        Mem.read (t.mbx m.toNat).cq a = Mem.read (s.mbx m.toNat).cq a) ∧
      (t.mbx m.toNat).rq = (s.mbx m.toNat).rq ∧ (∀ j, j ≠ m.toNat → t.mbx j = s.mbx j) ∧
      t = { s with mbxs := t.mbxs, sol := t.sol }

/-- MBX_OPEN and MBX_CLOSE (13 R354, R355, R361): a mailbox opens with empty rings of the pages asked for, bound to the
requester named, its pages counted against pool 1; it closes once nothing of it runs, and its pages return.
Transfers (13 R363): XFER_OPEN draws pages or buffers and answers a handle, XFER_CLOSE checks the CRC-32C of the
bytes received, XFER_ABORT ends it and returns its pages, XFER_READ answers the CRC-32C of the bytes it sends.
Completion: exec answers the next state named, for every state and operands that meet the conditions on them alone,
for mbxOpen, mbxClose, xferOpen, xferClose, xferAbort, xferRead. -/
def Obligations.MailboxAndTransferCommandsComplete : Prop :=
  (∀ (s : State) (m : BitVec 6) (r : Req), s.fits m 3 → r = s.reqAt m → (s.mbx (r.b 0)).opened = false →
    r.b 1 + r.b 2 ≤ s.pool1Free →
    ∃ t : State, exec (.mbxOpen m) s = .next (t.complete r.cmd 0 0 []) ∧
      (t.mbx (r.b 0)).opened = true ∧ (t.mbx (r.b 0)).owner = some (BitVec.ofNat 15 (r.h 4), bit (r.b 3) 0) ∧
      (t.mbx (r.b 0)).rqPages = r.b 1 ∧ (t.mbx (r.b 0)).cqPages = r.b 2 ∧
      (t.mbx (r.b 0)).rq = [] ∧ (t.mbx (r.b 0)).cq = [] ∧
      (t.mbx (r.b 0)).rqTail = 0 ∧ (t.mbx (r.b 0)).rqHead = 0 ∧ (t.mbx (r.b 0)).cqTail = 0 ∧
      (t.mbx (r.b 0)).cqHead = 0 ∧ t.sol.used1 = s.sol.used1 + r.b 1 + r.b 2 ∧
      (∀ j, j ≠ r.b 0 → t.mbx j = (s.taken m).mbx j) ∧
      t = { s with mbxs := t.mbxs, sol := { s.sol with used1 := t.sol.used1 },
                   bound := s.bound.filter (fun e => e.2.2 != r.b 0) }) ∧
  (∀ (s : State) (m : BitVec 6) (r : Req), s.fits m 4 → r = s.reqAt m → r.b 0 ≠ m.toNat →
    (s.mbx (r.b 0)).opened = true → (s.mbx (r.b 0)).closing = none → (s.mbx (r.b 0)).running = [] →
    ∃ t : State, exec (.mbxClose m) s = .next (t.finish r.cmd 0 0 []) ∧
      (t.mbx (r.b 0)).opened = false ∧ (t.mbx (r.b 0)).rq = [] ∧ (t.mbx (r.b 0)).cq = [] ∧
      t.sol.used1 = s.sol.used1 - ((s.mbx (r.b 0)).rqPages + (s.mbx (r.b 0)).cqPages) ∧
      (∀ j, j ≠ r.b 0 → t.mbx j = (s.taken m).mbx j) ∧
      t = { s with mbxs := t.mbxs, sol := { s.sol with used1 := t.sol.used1 } }) ∧
  (∀ (s t : State) (m : BitVec 6) (r : Req) (h : Nat) (target : XTarget) (x : Xfer), s.fits m 5 → r = s.reqAt m →
    h = (s.taken m).freeHandle.1 →
    x = ⟨r.cmd.mbx, (t.mbx r.cmd.mbx).owner, target, r.b 2, r.h 4, r.d 8, [], false⟩ →
    s.xfers.length < 64 →
    ((r.b 0 = 0 ∧ target = .staging ∧ r.d 8 ≤ 2 ^ 28 ∧ (s.taken m).poolFirst 4 0 = true ∧
        (s.taken m).freeHandle.2.drawBufs (.staging h) (cdiv (r.d 8) (2 ^ 20)) = some t) ∨
      (∃ z, r.b 0 = 1 ∧ target = .tensor (r.b 1) ∧ s.tensor (r.b 2) (r.h 4) = some z ∧
        holdsTensor s.addr z.entry = true ∧ hasArr z.entry (r.b 1) = true ∧
        (s.taken m).freeHandle.2.drawShadow (r.b 2) 0 ((s.taken m).xferPages z.entry (r.b 2) (r.h 4) (r.b 1) h (r.d 8)) = some t) ∨
      (∃ g, 2 ≤ r.b 0 ∧ target = .region ∧ s.region (r.b 2) (r.h 4) = some g ∧ g.root = s.addr ∧ r.d 8 ≤ g.bytes ∧
        t = (s.taken m).freeHandle.2)) →
    exec (.xferOpen m) s = .next ((t.setXfer h x).complete r.cmd 0 0 (toLe 2 h))) ∧
  (∀ (s : State) (m : BitVec 6) (r : Req) (x : Xfer), s.fits m 6 → r = s.reqAt m → s.xfer (r.h 0) = some x →
    x.closed = false → crc32c (Mem.slice x.data 0 x.length) = BitVec.ofNat 32 (r.w 4) →
    s.poisoned (isXferPage (r.h 0)) = false →
    exec (.xferClose m) s = .next ((if x.target = .region
        then ((s.taken m).fillRegion x (Mem.slice x.data 0 x.length)).endXfer (r.h 0)
        else (s.taken m).setXfer (r.h 0) { x with closed := true }).complete r.cmd 0 0 [])) ∧
  (∀ (s : State) (m : BitVec 6) (r : Req), s.fits m 7 → r = s.reqAt m → (s.xfer (r.h 0)).isSome = true →
    ∃ t : State, exec (.xferAbort m) s = .next (t.complete r.cmd 0 0 []) ∧ t.xfer (r.h 0) = none ∧
      (∀ h, h ≠ r.h 0 → t.xfer h = s.xfer h) ∧
      t.ing.pages = s.ing.pages.filter (fun p => p.holder != .staging (r.h 0) && p.holder != .xfer (r.h 0))) ∧
  (∀ (s : State) (m : BitVec 6) (r : Req) (size : Nat) (get : Nat → Nat → List Byte) (ret : List Byte),
    s.fits m 8 → r = s.reqAt m → (s.taken m).readSource r = .inl (size, get, ret) → r.d 8 + r.d 16 ≤ size →
    exec (.xferRead m) s = .next (((s.taken m).sendBulk r.cmd.mbx (r.h 6) 0 (get (r.d 8) (r.d 16))).complete r.cmd 0 0
      (toLe 4 (crc32c (get (r.d 8) (r.d 16))).toNat ++ ret)))

/-- PLAN_LOAD installs the plan image of a closed staging transfer as one unit, measures it and ends the transfer (13
R367), judged on the block of the job it belongs to, drawn first where no context of the job is open or planned (the
model's choice, assumption log 8); GROUP_SET sets ACTIVE; TENSOR_SET stores the pending values, STEP first and the
flags beside them (10 R259). Completion: exec answers the next state named, for every state and operands that meet
the conditions on them alone, for planLoad, groupSet, tensorSet. -/
def Obligations.PlanCommandsComplete : Prop :=
  (∀ (s v : State) (m : BitVec 6) (r : Req) (img : List Byte) (es : List (List Byte)) (gs : List GrpRec),
    s.fits m 0x104 → r = s.reqAt m → v = (s.taken m).planJob (r.b 0) → s.staged (r.h 2) = some img → es = planEntries img →
    gs = v.readGroups (r.b 0) img (fld img 2 2) (fld img 8 8) → planReadable img = true →
    s.collHeld (fun d => dCtx d == r.b 0) = false → v.planFault (r.b 0) img = none →
    exec (.planLoad m) s = .next (if v.planTooLarge (r.b 0) es (gs.map (fun g => g.grp))
      then v.complete r.cmd 0x44 0 (toLe 4 (planNeed s.addr (s.otherEntries (r.b 0) ++ es)))
      else (((v.installPlan (r.b 0) es gs).extend 3 (sha256 img)).endXfer (r.h 2)).complete r.cmd 0 0
        (toLe 4 (planNeed s.addr (s.otherEntries (r.b 0) ++ es))))) ∧
  (∀ (s : State) (x : Nat), (s.planJob x = { s with
      sys := { s.sys with block := (s.planJob x).sys.block }, freeCtr := (s.planJob x).freeCtr }) ∧ ((∃ e ∈ s.ctxs, e.2.st ≠ .free) → s.planJob x = s)) ∧
  (∀ (s : State) (m : BitVec 6) (r : Req) (g g' : Group), s.fits m 0x105 → r = s.reqAt m →
    tfind s.groups (r.h 0) = some g → g' = { g with active := bit (r.b 2) 0 } →
    (g'.active = true → (s.groups.filter (fun e => e.1 != r.h 0)).all (fun e =>
      !(s.taken m).clash (s.taken m).entriesOf g' e.2) = true) →
    (g'.active = false → g.active = true → s.collHeld (fun d => dGroup d == r.h 0) = false) →
    exec (.groupSet m) s =
      .next (State.complete { s.taken m with groups := tset s.groups (r.h 0) g' } r.cmd 0 0 [])) ∧
  (∀ (s : State) (m : BitVec 6) (r : Req) (x : Tensor), s.fits m 0x106 → r = s.reqAt m →
    s.tensor (r.b 0) (r.h 2) = some x → x.maxStep ≤ r.w 8 → ((r.b 4 ^^^ tFlags x.entry) &&& 0x90) = 0 →
    hyperFaults r.args 12 = [] → x.entry.length = 128 →
    ∃ (t : State) (y : Tensor), exec (.tensorSet m) s = .next (t.complete r.cmd 0 0 []) ∧
      t = (s.taken m).setTensor (r.b 0) (r.h 2) y ∧ y = { x with entry := y.entry } ∧
      fld y.entry 60 4 = r.w 8 ∧ fld y.entry 56 1 = r.b 4 ∧ bytesAt y.entry 64 24 = bytesAt r.args 12 24 ∧
      (∀ i, i < 56 → y.entry.getD i 0 = x.entry.getD i 0))

/-- POOL_SET, STATE_LOAD, REGION_ALLOC and REGION_FREE (12 R323, 10 R272, 11 R302): the pool ranges change while nothing
is held; a tensor's state is loaded whole, at version 0 and with its LAST_STEP, and is no longer LOST; a region's
header is made on every Fixus, with its pages on the root alone, and goes again. Completion: exec answers the next
state named, for every state and operands that meet the conditions on them alone, for poolSet, stateLoad,
regionAlloc, regionFree. -/
def Obligations.StateAndRegionCommandsComplete : Prop :=
  (∀ (s : State) (m : BitVec 6) (r : Req), s.fits m 0x107 → r = s.reqAt m → 16 * r.w 4 ≤ 2312192 →
    r.w 0 + 16 * r.w 4 ≤ 2312192 → s.ing.pages = [] →
    exec (.poolSet m) s = .next (State.complete
      { s.taken m with ing := { s.ing with pool3 := r.w 0, pool4 := r.w 4 } } r.cmd 0 0 [])) ∧
  (∀ (s t : State) (m : BitVec 6) (r : Req) (x : Tensor), s.fits m 0x401 → r = s.reqAt m →
    s.tensor (r.b 0) (r.h 2) = some x → holdsTensor s.addr x.entry = true →
    [(0, r.h 4), (1, r.h 6), (2, r.h 8)].all (fun p =>
      p.2 == 0xFFFF || (s.arrXfer (r.b 0) (r.h 2) p.1 x.entry p.2).isSome) = true →
    s.tensorBusy (r.b 0) (r.h 2) = false → (x.ver.lost = true → r.h 4 ≠ 0xFFFF) →
    (s.taken m).loadArrs x.entry (r.b 0) (r.h 2) x.ver.lost [(0, r.h 4), (1, r.h 6), (2, r.h 8)] = some t →
    ∃ y : Tensor, exec (.stateLoad m) s = .next ((t.setTensor (r.b 0) (r.h 2) y).complete r.cmd 0 0 []) ∧
      y.ver.version = 0 ∧ y.ver.lastStep = r.w 12 ∧ y.ver.lost = false ∧ y.ver.pending = x.ver.pending ∧
      (∀ bs, s.arrXfer (r.b 0) (r.h 2) 0 x.entry (r.h 4) = some bs → r.h 4 ≠ 0xFFFF → y.w = toWords bs) ∧
      (r.h 4 = 0xFFFF → y.w = x.w)) ∧
  (∀ (s t : State) (m : BitVec 6) (r : Req) (g : Region), s.fits m 0x402 → r = s.reqAt m →
    g = ⟨r.b 0, r.h 4, r.w 8, r.w 12, r.b 6, []⟩ → s.blockFixus (r.h 4) = true → s.region (r.b 0) (r.h 2) = none →
    ((r.h 4 ≠ s.addr ∧ t = s.taken m) ∨ (r.h 4 = s.addr ∧
      ∃ u : State, (s.taken m).drawShadow (r.b 0) 0 ((arrayStacks ((s.taken m).planStacks (r.b 0)) (r.b 6)
          (regionElems (r.b 6) (r.w 8) (r.w 12)) (r.h 2 % 4)).map (fun k => (k, Holder.region (r.b 0) (r.h 2)))) = some u ∧
        t = u.writeMap (.region (r.b 0) (r.h 2)) (r.b 6) (r.h 2 % 4) (regionElems (r.b 6) (r.w 8) (r.w 12)))) →
    exec (.regionAlloc m) s = .next ((t.setRegion (r.b 0) (r.h 2) g).complete r.cmd 0 0 [])) ∧
  (∀ (s : State) (m : BitVec 6) (r : Req), s.fits m 0x403 → r = s.reqAt m →
    (s.region (r.b 0) (r.h 2)).isSome = true →
    s.collHeld (fun d => dCtx d == r.b 0 && isKernel (dKind d) && namesRegion d (r.h 2)) = false →
    ∃ t : State, exec (.regionFree m) s = .next (t.complete r.cmd 0 0 []) ∧ t.region (r.b 0) (r.h 2) = none ∧
      t.ing.pages = s.ing.pages.filter (fun p => p.holder != .region (r.b 0) (r.h 2)))

/-- COLL_POST (08 R208, R209, R213; 04 R91): a descriptor without a fault that no held one equals takes a slot when one
is free, none waits in the launch queue and L > N; it waits at the end of the launch queue when no slot is free or
others wait; with L ≤ N it is refused LATE_LAUNCH. The queue's head takes a slot that has become free. Completion:
exec answers the next state named, for every state and operands that meet the conditions on them alone, for
collPost, launchQueueTake. -/
def Obligations.CollectivePostTakesSlotOrQueue : Prop :=
  (∀ (s : State) (m : BitVec 6) (r : Req) (d : List Byte), s.fits m 0x201 → r = s.reqAt m → d = bytesAt r.args 0 128 →
    s.sys.hostbrConflict = false → (s.irc.state = .locked ∨ s.irc.state = .holdover) →
    (s.taken m).descFault d = none → (s.taken m).heldDesc d = none →
    exec (.collPost m) s = .next
      (if 4096 ≤ s.slots.length ∨ s.queue ≠ [] then (s.taken m).enqueue d r.cmd
       else if dLaunch d ≤ s.now then State.refusePost { (s.taken m).sendLate d with
         lateDescs := s.lateDescs ++ [d] } r.cmd 0x13 0
       else match (s.taken m).freeSlot with
        | some (i, t) => t.acceptColl i (t.newColl d r.cmd (dLaunch d) false)
        | none => s.taken m)) ∧
  (∀ (s : State) (d : List Byte) (c : Cmd), 8192 * s.queueBufs > s.queue.length →
    (s.enqueue d c).queue = s.queue ++ [s.newColl d c (dLaunch d) false] ∧ (s.enqueue d c).slots = s.slots) ∧
  (∀ s : State, s.sys.hostbrConflict = true → exec .launchQueueTake s = .next s) ∧
  (∀ (s t : State) (c : Coll) (i : Nat), s.brass = true → (s.irc.state = .locked ∨ s.irc.state = .holdover) →
    s.sys.hostbrConflict = false → s.slots.length < 4096 → s.queueHead = some c →
    c.heldAt = none → c.unscheduled = false → s.now < dLaunch c.desc →
    (({ s with queue := s.queue.filter (fun q => q != c) } : State).queueShrink).freeSlot = some (i, t) →
    exec .launchQueueTake s = .next (t.acceptColl i (t.newColl c.desc c.cmd (dLaunch c.desc) false)))

/-- SCHED_LOAD, EPOCH_ARM, IRC_STEP and TABLE_ACK (07 R186, R187; 04 R100 to R102): a schedule is loaded into every
port, sent to the accelerators and answered once each of their ports has acknowledged; an arm is noted and READY
tables of its epoch become ARMED; a step is noted until its release. Completion: exec answers the next state named,
for every state and operands that meet the conditions on them alone, for schedLoad, epochArm, ircStep, tableAck. -/
def Obligations.ScheduleCommandsTaken : Prop :=
  (∀ (s t v : State) (m : BitVec 6) (r : Req) (img : List Byte) (bad : Nat), s.fits m 0x301 → r = s.reqAt m →
    s.staged (r.h 0) = some img → img.length = 96 * tblBytes (r.h 4) →
    v = (s.taken m).extend 3 (sha256 img) →
    ({ v with sch := { v.sch with loads := v.sch.loads + 1 } } : State).loadPorts (r.h 2) (r.h 4) img = (t, bad) →
    ∃ u : State, exec (.schedLoad m) s = .next u.finishLoads ∧ u.xfer (r.h 0) = none ∧
      u.sch.loading = t.sch.loading ++ [⟨r.cmd, r.h 2, bad, 0, t.loadAccs⟩] ∧
      (∀ p i, u.slotTbl p i = t.slotTbl p i)) ∧
  (∀ (s : State) (m : BitVec 6) (r : Req) (a : Arm), s.fits m 0x302 → r = s.reqAt m → s.now + 10000 ≤ r.d 8 →
    a = ⟨r.b 0, r.h 2, r.d 8, false, false, false, false, false, some r.cmd⟩ → s.now ≤ s.armB a →
    (∃ e ∈ s.sch.tbls, e.2.st = .ready ∧ e.2.epoch = r.h 2) → (r.b 0, r.h 2, r.d 8) ∉ s.sch.cancels →
    ∃ t : State, exec (.epochArm m) s = .next t ∧ t.sch.arms = s.sch.arms ++ [a] ∧
      (∀ p i, i < 2 → (s.slotTbl p i).st = .ready → (s.slotTbl p i).epoch = r.h 2 → (t.slotTbl p i).st = .armed) ∧
      t = { s.taken m with sch := t.sch }) ∧
  (∀ (s : State) (m : BitVec 6) (r : Req), s.fits m 0x303 → r = s.reqAt m → s.sch.step = none →
    ∃ t : State, exec (.ircStep m) s = .next t ∧
      t.sch.step = some ⟨(BitVec.ofNat 64 (r.d 0)).toInt, r.d 8, false, none, r.cmd⟩ ∧ t.irc = s.irc ∧
      t = { s.taken m with sch := t.sch }) ∧
  (∀ (s v : State) (f : Mgmt) (l : Load), s.brass = true → s.sys.outOfService = false → s.takeMgmt 0xC f = some v → addrIsFixus f.src.toNat = false →
    homeOf f.src.toNat = s.addr → s.sch.loading = [l] → l.epoch = f.arg.toNat % 65536 →
    l.wait = [2 * addrUnit f.src.toNat + b2n (f.arg.getLsbD 30)] →
    ∃ t : State, exec (.tableAck f) s = .next (t.complete l.cmd 0 0
        (toLe 8 l.refused ++ toLe 4 (l.accRef +
          if f.arg.getLsbD 31 then 2 ^ (2 * addrUnit f.src.toNat + b2n (f.arg.getLsbD 30)) else 0))) ∧
      t.sch.loading = [] ∧ t = { v with sch := t.sch })

/-- CONFIG_APPLY, FW_STAGE and FW_ACTIVATE (15 R432, R433, R435): an image that is signed and in order goes to the slot
that is not in use, and the next boot takes it; a running trial is committed. What an image's signature is found to
be is open in the model (assumption log 6), so both answers are stated. Completion: exec answers the next state
named, for every state and operands that meet the conditions on them alone, for configApply, fwStage, fwActivate. -/
def Obligations.ImageCommandsComplete : Prop :=
  (∀ (s : State) (m : BitVec 6) (r : Req) (img : List Byte) (f : Flash), s.fits m 0x304 → r = s.reqAt m →
    s.staged (r.h 0) = some img →
    f = (if s.flash.cfgActive then { s.flash with cfgA := img } else { s.flash with cfgB := img }) →
    exec (.configApply m) s = .next
      (if s.cfgSigned img = false then (s.taken m).complete r.cmd 0x43 0 []
       else if cfgHeader img = false ∨
           imgCfgSeq (Config.eContent img) < imgCfgSeq (Config.eContent (s.cfgSlot s.flash.cfgActive)) ∨
           (imgCfgSeq (Config.eContent img) = imgCfgSeq (Config.eContent (s.cfgSlot s.flash.cfgActive)) ∧
             img ≠ s.cfgSlot s.flash.cfgActive)
         then (s.taken m).complete r.cmd 0x41 0 []
       else (State.endXfer { s.taken m with
         flash := { f with cfgActive := !f.cfgActive, seq := s.flash.seq + 1, older := s.flash.select } }
         (r.h 0)).complete r.cmd 0 0 [])) ∧
  (∀ (s : State) (m : BitVec 6) (r : Req) (img : List Byte), s.fits m 0x602 → r = s.reqAt m →
    s.staged (r.h 0) = some img → (r.b 2 == 1) ≠ s.sec.slotB →
    exec (.fwStage m) s = .next
      (if fwSigned img = false then (s.taken m).complete r.cmd 0x43 0 []
       else if s.fwHeader img = false then (s.taken m).complete r.cmd 0x41 0 []
       else (State.endXfer { s.taken m with flash := if r.b 2 == 1 then { s.flash with fwB := img }
         else { s.flash with fwA := img } } (r.h 0)).complete r.cmd 0 0 [])) ∧
  (∀ (s : State) (m : BitVec 6) (r : Req) (b : Bool), s.fits m 0x603 → r = s.reqAt m → b = (r.b 0 == 1) →
    exec (.fwActivate m) s = .next
      (if b = s.sec.slotB then
         (if s.flash.trial = true ∧ s.flash.active = b
          then State.complete { s.taken m with
            fuses := { s.fuses with minver := max s.fuses.minver (imgRollback (Config.eContent (s.fwSlot b))) },
            flash := { s.flash with trial := false, seq := s.flash.seq + 1, older := s.flash.select },
            sec := { s.sec with trial := false } } r.cmd 0 0 []
          else (s.taken m).complete r.cmd 0 0 [])
       else if fwSigned (s.fwSlot b) = false then (s.taken m).complete r.cmd 0x43 0 []
       else if s.fwHeader (s.fwSlot b) = false then (s.taken m).complete r.cmd 0x41 0 []
       else State.complete { s.taken m with
         flash := { s.flash with active := b, trial := true, trialCount := 0, seq := s.flash.seq + 1,
                                 older := s.flash.select } } r.cmd 0 0 []))

/-- ING_FENCE, PORT_ENABLE and UNIT_FENCE (12 R335, 05 R142, 14 Table 14.4): a channel is queued to be fenced and its
command waits, a port leaves FENCED for training or DOWN, a unit is fenced and recorded with source 0x0707.
Completion: exec answers the next state named, for every state and operands that meet the conditions on them alone,
for ingFence, portEnable, unitFence. -/
def Obligations.FenceCommandsComplete : Prop :=
  (∀ (s : State) (m : BitVec 6) (r : Req), s.fits m 0x404 → r = s.reqAt m →
    exec (.ingFence m) s = .next (if (s.chan (r.b 0) (r.b 1)).fenced ∨ (s.stack (r.b 0)).fenced
      then (s.taken m).complete r.cmd 0 0 [] else (s.taken m).fenceChannelCmd r (r.b 0) (r.b 1))) ∧
  (∀ (s : State) (r : Req) (k c : Nat), (s.chan k c).fenced = false → (s.stack k).fenced = false →
    s.chanGone k c = false →
    ∃ t : State, s.fenceChannelCmd r k c =
        (t.record 2 7 (16 * k + c) 0x0707 (s.requester r)).queueFence k c ∧
      (t.stack k).fenceCmd = (s.stack k).fenceCmd ++ [(c, r.cmd)] ∧ t = { s with ing := t.ing }) ∧
  (∀ (s : State) (m : BitVec 6) (r : Req), s.fits m 0x501 → r = s.reqAt m → (s.port (r.b 0)).st = .fenced →
    ∃ t : State, exec (.portEnable m) s = .next (t.complete r.cmd 0 0 []) ∧
      ((t.port (r.b 0)).st = .training ∨ (t.port (r.b 0)).st = .down) ∧
      (∀ p, p ≠ r.b 0 → t.port p = s.port p) ∧ t = { s.taken m with ports := t.ports }) ∧
  (∀ (s : State) (m : BitVec 6) (r : Req), s.fits m 0x502 → r = s.reqAt m → r.b 0 < 5 →
    exec (.unitFence m) s = .next (State.complete
      (if s.unitFenced (r.b 0) (r.h 1) then s.taken m
       else if r.b 0 = 0 then ((s.taken m).record 2 2 (r.h 1) 0x0707 (s.requester r)).fenceLane (r.h 1)
       else if r.b 0 = 1 then (s.taken m).fencePort (r.h 1) 0x0707 (s.requester r)
       else if r.b 0 = 2 then ((s.taken m).record 2 4 (r.h 1) 0x0707 (s.requester r)).fenceEngine (r.h 1)
       else if r.b 0 = 3 then ((s.taken m).record 2 5 (r.h 1) 0x0707 (s.requester r)).fenceTile (r.h 1)
       else ((s.taken m).record 2 6 (r.h 1) 0x0707 (s.requester r)).fenceCluster (r.h 1)) r.cmd 0 0 []))

/-- RESET_WARM asks for a warm reset and never completes (14 R404); with SCOPE 1 it orders the other 15 Fixus of the
cell to reset with it at W := N + 100,000 ns (14 R408). ATTEST_QUOTE is answered with a quote of 5,332 bytes, signed
with the next leaf of the tree, while the tree has one (15 R420, R431); otherwise it waits for the next tree. Reset
exit and quotes (13 R354, R350; 15 R420, R431, R436): once the OTP is read, Brass runs, MBX 0 and MBX 63 open, and
training starts unless the cause is 3; with the tree computed the quotes that waited are served from leaf 0, and a
tree whose fuse does not read as burned is class X. Completion: exec answers the next state named, for every state
and operands that meet the conditions on them alone, for resetWarm, resetWarmCell, attestQuote, resetExit,
treeStartDone. -/
def Obligations.QuotesAndResetCommands : Prop :=
  (∀ (s : State) (m : BitVec 6), s.fits m 0x503 → fld (s.reqAt m).args 0 1 = 0 →
    exec (.resetWarm m) s = .next { s.taken m with sys := { s.sys with resetAsked := some 2 } }) ∧
  (∀ (s : State) (m : BitVec 6), s.fits m 0x503 → fld (s.reqAt m).args 0 1 = 1 →
    exec (.resetWarmCell m) s = .next
      (((List.range 16).filter (fun k => k != s.pins.sw % 16)).foldl (fun t k =>
        t.sendMgmt (fixusAddr s.sys.cell k) 0xE false 0 0 0 0 (nsBytes (s.now + 100000)))
        { s.taken m with sys := { s.sys with cellW := some (s.now + 100000) } })) ∧
  (∀ (s : State) (m : BitVec 6) (r : Req) (n : Nat), s.fits m 0x601 → r = s.reqAt m → s.sec.busy = false →
    s.signedOut = false → s.sec.leaf = some n → n < 1024 →
    ∃ (t : State) (q : List Byte), exec (.attestQuote m) s = .next ((t.sendBulk r.cmd.mbx (r.h 32) 0 q).complete r.cmd 0 0
        (toLe 4 5332)) ∧
      q = s.quoteBody (bytesAt r.args 0 32) ++
        (Config.hssSign (s.fuses.rsv - 1) n (s.quoteBody (bytesAt r.args 0 32))).toList ∧
      t = { s.taken m with sec := { s.sec with leaf := some (n + 1), quotes := s.sec.quotes + 1 } }) ∧
  (∀ (s : State) (m : BitVec 6) (r : Req), s.fits m 0x601 → r = s.reqAt m → s.sec.busy = false →
    s.signedOut = false → s.sec.leaf = none →
    exec (.attestQuote m) s = .next { s.taken m with
      fuses := { s.fuses with rsv := s.fuses.rsv + 1 },
      sec := { s.sec with busy := true, waiting := s.sec.waiting ++ [(r.cmd, bytesAt r.args 0 32, r.h 32)] } }) ∧
  (∀ s : State, s.on = true → s.sys.otpRead = true → s.sys.noFirmware = false → s.sys.fwReady = false →
    s.sec.cfgOk = false → s.pins.hostbr = (s.pins.sw == 0) → 10 ≤ s.pool1Free →
    (∀ p, p < 64 → (s.port p).st ≠ .active) →
    ∃ t : State, exec .resetExit s = .next t ∧ t.sys.fwReady = true ∧ (t.mbx 0).opened = true ∧
      (t.mbx 0).rqPages = 4 ∧ (t.mbx 0).cqPages = 4 ∧ (t.mbx 63).opened = true ∧ (t.mbx 63).rqPages = 1 ∧
      (t.mbx 63).cqPages = 1 ∧ t.sys.training = decide (s.sys.resetCause ≠ 3) ∧ t.pins.barLow = false ∧
      (∀ m, m ≠ 0 → m ≠ 63 → t.mbx m = s.mbx m) ∧
      t = { s with
        sys := { s.sys with fwReady := true, training := t.sys.training, helloAt := s.clk },
        mbxs := t.mbxs, sol := { s.sol with used1 := s.sol.used1 + 10 },
        pins := { s.pins with barLow := false, romBar := none } }) ∧
  (∀ s v : State, s.on = true → s.sys.otpRead = false → s.sys.fwReady = false → v = s.boot s.bootSeen →
    exec .resetExit s = .next (if v.sys.noFirmware then v else v.resetExit)) ∧
  (∀ s : State, s.on = true → s.sec.busy = true → s.sec.waiting = [] →
    exec (.treeStartDone true) s = .next { s with sec := { s.sec with leaf := some 0, busy := false, waiting := [] } }) ∧
  (∀ (s : State) (c : Cmd) (nonce : List Byte) (tag : Nat), s.on = true → s.sec.busy = true →
    s.sec.waiting = [(c, nonce, tag)] →
    exec (.treeStartDone true) s = .next (State.signQuote { s with sec := { s.sec with leaf := some 0, busy := false, waiting := [] } }
      c nonce tag 0)) ∧
  (∀ s : State, s.on = true → s.sec.busy = true →
    exec (.treeStartDone false) s = .next (s.enterX 0x0802 (s.fuses.rsv - 1)))

/-- Unlock keys (13 R371): the right word opens the writer's key, a wrong one is counted in SYS_UNLOCK_FAIL, any write
closes the writer's own key and no other, and keys close 100,000 ns after they opened. Where the key is open,
SYS_RESET starts a warm reset with the bits of cause 1 (14 R404), and SEC_CFGKEY_BURN burns the staged hash and LOCK
once (15 R437); where it is closed, neither happens. Completion: exec answers the next state named, for every state
and operands that meet the conditions on them alone, for sysUnlock, unlockKeyTimeout, sysReset, secCfgkeyBurn. -/
def Obligations.KeyedRegisterWrites : Prop :=
  (∀ (s : State) (w : Who), s.hears w → (s.keysLeft w).length < 8 →
    exec (.sysUnlock w 0x6A3F) s = .next { s with
      sys := { s.sys with keys := s.keysLeft w ++ [⟨w, s.clk⟩] }, bus := ⟨[], false⟩ }) ∧
  (∀ (s : State) (w : Who) (v : Word), s.hears w → v ≠ 0x6A3F →
    exec (.sysUnlock w v) s = .next { s with
      sys := { s.sys with keys := s.keysLeft w }, cnt := tset s.cnt 0x44 (s.cntAt 0x44 + 1), bus := ⟨[], false⟩ }) ∧
  (∀ s : State, s.on = true → exec .unlockKeyTimeout s = .next { s with
      sys := { s.sys with keys := s.sys.keys.filter (fun k => decide (s.clk < k.opened + 100000)) } }) ∧
  (∀ (s : State) (w : Who) (v : Word) (b : BootObs), s.hears w → v.getLsbD 0 = true → s.sys.resetAsked = none →
    exec (.sysReset w v b) s = .next (if s.keyOpen w
      then State.warm { s with sys := { s.sys with keys := s.keysLeft w, resetAsked := some 1 }, bus := ⟨[], false⟩ } 1 b
      else { s with sys := { s.sys with keys := s.keysLeft w }, cnt := tset s.cnt 0x44 (s.cntAt 0x44 + 1),
                    bus := ⟨[], false⟩ })) ∧
  (∀ (s : State) (w : Who) (v : Word), s.hears w → v.getLsbD 0 = true → s.keyOpen w = true →
    exec (.secCfgkeyBurn w v) s = .next { s with
      fuses := if s.fuses.lock then s.fuses else { s.fuses with
        cfgkey := (List.range 8).flatMap (fun i => toLe 4 (s.cfgAt (aSec + 0x220 + 4 * i)).toNat), lock := true },
      sys := { s.sys with keys := s.keysLeft w }, bus := ⟨[], false⟩ })

/-- Mailbox registers (13 R356, R360, R361): the doorbells move a request tail and a completion head forward within
their rings, a request tail that would pass the ring is a bus error, and MBX_CTL.RESET with the key open empties
both rings, unbinds the requester and sets every index to zero. Completion: exec answers the next state named, for
every state and operands that meet the conditions on them alone, for mbxRqTail, mbxCqHead, mbxCtlReset. -/
def Obligations.MailboxRegisterWrites : Prop :=
  (∀ (s : State) (w : Who) (m : BitVec 6) (v : Word), s.hears w → (s.mbx m.toNat).opened = true →
    ringUsed (v.toNat % 65536) (s.mbx m.toNat).rqHead ≤ (s.mbx m.toNat).rqN →
    ringUsed (s.mbx m.toNat).rqTail (s.mbx m.toNat).rqHead ≤ ringUsed (v.toNat % 65536) (s.mbx m.toNat).rqHead →
    exec (.mbxRqTail w m v) s = .next { s.setMbx m.toNat { s.mbx m.toNat with rqTail := v.toNat % 65536 } with
      sys := { s.sys with keys := s.keysLeft w }, bus := ⟨[], false⟩ }) ∧
  (∀ (s : State) (w : Who) (m : BitVec 6) (v : Word), s.hears w →
    (s.mbx m.toNat).rqN < ringUsed (v.toNat % 65536) (s.mbx m.toNat).rqHead →
    ∃ t : State, exec (.mbxRqTail w m v) s = .next t ∧ t.bus = ⟨[], true⟩ ∧ t.mbxs = s.mbxs ∧
      t = { s with sys := t.sys, cnt := t.cnt, bus := t.bus }) ∧
  (∀ (s : State) (w : Who) (m : BitVec 6) (v : Word), s.hears w → (s.mbx m.toNat).opened = true →
    (s.mbx m.toNat).held = [] →
    ringUsed (v.toNat % 65536) (s.mbx m.toNat).cqHead ≤ ringUsed (s.mbx m.toNat).cqTail (s.mbx m.toNat).cqHead →
    exec (.mbxCqHead w m v) s = .next { s.setMbx m.toNat { s.mbx m.toNat with cqHead := v.toNat % 65536 } with
      sys := { s.sys with keys := s.keysLeft w }, bus := ⟨[], false⟩ }) ∧
  (∀ (s : State) (w : Who) (m : BitVec 6) (v : Word), s.hears w → (s.mbx m.toNat).opened = true → s.keyOpen w = true →
    v.getLsbD 0 = true →
    ∃ t : State, exec (.mbxCtlReset w m v) s = .next t ∧ (t.mbx m.toNat).owner = none ∧ (t.mbx m.toNat).rq = [] ∧
      (t.mbx m.toNat).cq = [] ∧ (t.mbx m.toNat).rqTail = 0 ∧ (t.mbx m.toNat).rqHead = 0 ∧
      (t.mbx m.toNat).cqTail = 0 ∧ (t.mbx m.toNat).cqHead = 0 ∧ (t.mbx m.toNat).held = [] ∧
      (t.mbx m.toNat).opened = true ∧ (t.mbx m.toNat).running = (s.mbx m.toNat).running ∧
      (∀ j, j ≠ m.toNat → t.mbx j = s.mbx j) ∧
      t = { s with mbxs := t.mbxs, sys := { s.sys with keys := s.keysLeft w }, bus := ⟨[], false⟩ })

/-- FLT_CMD (14 R382): ACK moves an OPEN record that is not ESCALATED to ACKED, CLOSE closes a record of class C, D or F
(here class 0, 1 or 2) that is not CLOSED; every other record stays as it is. The fault collector's timers and
FAULT_N (14 Table 14.1, R381, R383, R385, R386; 13 R345): class C records close after 1 s; a class D record OPEN for
FLT_DEFER is escalated and stops its context; a pulse of FAULT_N lasts 2,000 ns and so does the gap after it; a
watchdog ends in a record of source 0x0704 and a warm reset of cause 4. Completion: exec answers the next state
named, for every state and operands that meet the conditions on them alone, for fltCmdAck, fltCmdClose,
recordAutoClose, deferredTimerExpiry, faultNPulseEnd, faultNGapEnd, watchdogExpiry. -/
def Obligations.FaultCollectorActs : Prop :=
  (∀ (s : State) (w : Who) (slot : BitVec 18) (r : Rec), s.hears w → tfind s.flt.recs slot.toNat = some r → r.st = 0 →
    r.escalated = false →
    ∃ t : State, exec (.fltCmdAck w slot) s = .next t ∧ tfind t.flt.recs slot.toNat = some { r with st := 1 } ∧
      (∀ j, j ≠ slot.toNat → tfind t.flt.recs j = tfind s.flt.recs j) ∧
      t = { s with cfg := t.cfg, sys := { s.sys with keys := s.keysLeft w }, flt := { s.flt with recs := t.flt.recs },
                   bus := ⟨[], false⟩ }) ∧
  (∀ (s : State) (w : Who) (slot : BitVec 18) (r : Rec), s.hears w → tfind s.flt.recs slot.toNat = some r → r.cls ≠ 3 →
    r.st ≠ 2 →
    ∃ t : State, exec (.fltCmdClose w slot) s = .next t ∧ tfind t.flt.recs slot.toNat = some { r with st := 2 } ∧
      (∀ j, j ≠ slot.toNat → tfind t.flt.recs j = tfind s.flt.recs j) ∧
      t = { s with cfg := t.cfg, sys := { s.sys with keys := s.keysLeft w }, flt := { s.flt with recs := t.flt.recs },
                   bus := ⟨[], false⟩ }) ∧
  (∀ s : State, s.on = true →
    ∃ t : State, exec .recordAutoClose s = .next t ∧
      (∀ k r, tfind s.flt.recs k = some r → tfind t.flt.recs k = some { r with
        st := if r.cls = 0 ∧ r.first + 1000000000 ≤ s.now then 2 else r.st }) ∧
      t = { s with flt := { s.flt with recs := t.flt.recs } }) ∧
  (∀ (s : State) (k : Nat) (r : Rec), s.on = true → s.flt.recs = [(k, r)] → s.flt.timers = [] → s.expires r = true →
    (s.ctx r.dindex).stopD = none →
    ∃ t : State, exec .deferredTimerExpiry s = .next t ∧ t.flt.recs = [(k, { r with escalated := true, timed := true })] ∧
      (t.ctx r.dindex).st = .draining ∧ (t.ctx r.dindex).stopD = some s.now ∧
      (∀ q ∈ s.floodPorts none, ∃ n : Notice, CtlMsg.ctxStop n ∈ (t.port q).ctlQ ∧ n.d = BitVec.ofNat 64 s.now) ∧
      t = { s with flt := { s.flt with recs := t.flt.recs }, ctxs := t.ctxs, ports := t.ports }) ∧
  (∀ (s : State) (n : Nat), s.on = true → s.pins.pulseAt = some n → n + 2000 ≤ s.clk →
    ∃ t : State, exec .faultNPulseEnd s = .next t ∧ t.pins.pulseAt = none ∧ t.pins.gapAt = some s.clk ∧
      t.pins.faultLow = (bit (s.cfgAt (aFlt + 4)).toNat 0 || bit (s.cfgAt (aFlt + 4)).toNat 1 || s.sys.noFirmware) ∧
      (∀ a, a ≠ aFlt + 4 → t.cfgAt a = s.cfgAt a) ∧
      t = { s with cfg := t.cfg, pins := { s.pins with
        pulseAt := none, gapAt := some s.clk, faultLow := t.pins.faultLow } }) ∧
  (∀ (s : State) (n : Nat), s.on = true → s.pins.gapAt = some n → n + 2000 ≤ s.clk →
    exec .faultNGapEnd s = .next { s with pins := if s.pins.pulseDue
      then { s.pins with gapAt := none, pulseDue := false, pulseAt := some s.clk, faultLow := true }
      else { s.pins with gapAt := none } }) ∧
  (∀ (s : State) (b : BootObs), s.brass = true → ∃ n, n < 4 ∧
    exec (.watchdogExpiry b) s = .next (State.warm (State.record { s with freeCtr := s.freeCtr + 1 } 2 0 0 0x0704 n) 4 b))

/-- Scheduler registers (07 R191 to R197): a weight byte of 0 is taken as 1; a write of a shaper's configuration or
limits sets its credit to the high limit with its MODE bit and to 0 without; a write of any register of a policer
fills both its buckets. Completion: exec answers the next state named, for every state and operands that meet the
conditions on them alone, for weightWrite, shaperWrite, policerWrite. -/
def Obligations.SchedulerRegisterWrites : Prop :=
  (∀ (s : State) (w : Who) (p : BitVec 6) (v : Word), s.hears w →
    ∃ t : State, exec (.weightWrite w p v) s = .next t ∧
      (∀ i, i < 4 → bits (t.cfgAt (aSchPort p.toNat + 0x20)).toNat (8 * i + 7) (8 * i) =
        max 1 (bits v.toNat (8 * i + 7) (8 * i))) ∧
      (∀ a, a ≠ aSchPort p.toNat + 0x20 → t.cfgAt a = s.cfgAt a) ∧
      t = { s with cfg := t.cfg, sys := { s.sys with keys := s.keysLeft w }, bus := ⟨[], false⟩ }) ∧
  (∀ (s : State) (w : Who) (p : BitVec 6) (k : BitVec 2) (limit : Bool) (v : Word) (a : Nat), s.hears w →
    a = (if limit then aShaperLim p.toNat k.toNat else aShaper p.toNat k.toNat) →
    ∃ t : State, exec (.shaperWrite w p k limit v) s = .next t ∧
      (t.cfgAt a).toNat = (if limit then v.toNat
        else if v.toNat % 65536 = 0 then (v.toNat &&& 0xC000FFFF) % 2 ^ 31 else v.toNat &&& 0xC000FFFF) ∧
      t.shaper p.toNat k.toNat =
        ⟨if bit (t.cfgAt (aShaper p.toNat k.toNat)).toNat 30 then (t.shaperHi p.toNat k.toNat : Int) else 0, s.clk,
          (s.shaperNow p.toNat k.toNat).busy⟩ ∧
      (∀ b, b ≠ a → t.cfgAt b = s.cfgAt b) ∧
      t = { s with cfg := t.cfg, sch := { s.sch with shapers := t.sch.shapers },
                   sys := { s.sys with keys := s.keysLeft w }, bus := ⟨[], false⟩ }) ∧
  (∀ (s : State) (w : Who) (k : BitVec 12) (r : PolReg) (v : Word), s.hears w →
    ∃ t : State, exec (.policerWrite w k r v) s = .next t ∧
      tget t.sch.pols k.toNat Pol.init = ⟨100 * (t.polCfg k.toNat 0xC % 2 ^ 24),
        100 * (t.polCfg k.toNat 0x10 % 2 ^ 24), s.clk⟩ ∧
      (∀ a, a ≠ aPol k.toNat + polOff r → t.cfgAt a = s.cfgAt a) ∧
      t = { s with cfg := t.cfg, sch := { s.sch with pols := t.sch.pols }, sys := { s.sys with keys := s.keysLeft w },
                   bus := ⟨[], false⟩ })

/-- Port and pool registers (05 R127, R142, R144; 06 R163, R166): PRT_VC_EN keeps bits 0, 1 and 15 set whatever is
written; PRT_VC_LIMIT and the reserves and counts of the pools take values that fit the pool, with the key where
they are WK; a port whose ENABLE falls goes DOWN with a LEAVE of reason 3. A value that does not fit is a bus error
and changes no register. Completion: exec answers the next state named, for every state and operands that meet the
conditions on them alone, for prtVcEnWrite, prtVcLimitWrite, sldPoolCfgWrite, sldRsvWrite, portDisable. -/
def Obligations.PortAndPoolRegisterWrites : Prop :=
  (∀ (s : State) (w : Who) (p : BitVec 6) (v : Word) (x : Nat), s.hears w → x = (v.toNat &&& 0x7FFC) ||| 0x8003 →
    (s.setCfg (aPrt p.toNat + 8) (BitVec.ofNat 32 x)).reservesFit false = true →
    exec (.prtVcEnWrite w p v) s = .next { s.setCfg (aPrt p.toNat + 8) (BitVec.ofNat 32 x) with
      sys := { s.sys with keys := s.keysLeft w }, bus := ⟨[], false⟩ }) ∧
  (∀ (s : State) (w : Who) (p : BitVec 6) (vc : BitVec 4) (v : Word) (a : Nat), s.hears w →
    a = aPrt p.toNat + 0x40 + 4 * vc.toNat → 1 ≤ v.toNat → v.toNat ≤ 2048 → (s.setCfg a v).reservesFit false = true →
    exec (.prtVcLimitWrite w p vc v) s = .next { s.setCfg a v with
      sys := { s.sys with keys := s.keysLeft w }, bus := ⟨[], false⟩ }) ∧
  (∀ (s : State) (w : Who) (p : BitVec 6) (vc : BitVec 4) (v : Word), s.hears w → (v.toNat = 0 ∨ 2048 < v.toNat) →
    ∃ t : State, exec (.prtVcLimitWrite w p vc v) s = .next t ∧ t.bus = ⟨[], true⟩ ∧
      t = { s with sys := t.sys, cnt := t.cnt, bus := t.bus }) ∧
  (∀ (s : State) (w : Who) (second : Bool) (v : Word) (a : Nat), s.hears w → a = aSld + (if second then 0x108 else 0x104) →
    s.keyOpen w = true → v.toNat ≤ (if second then 512 else 16384) → (s.setCfg a v).reservesFit true = true →
    exec (.sldPoolCfgWrite w second v) s = .next { s.setCfg a v with
      sys := { s.sys with keys := s.keysLeft w }, bus := ⟨[], false⟩ }) ∧
  (∀ (s : State) (w : Who) (pt : BitVec 7) (v : Word) (a : Nat), s.hears w → 64 ≤ pt.toNat → pt.toNat < 80 →
    a = aSld + 0x600 + 4 * pt.toNat → s.keyOpen w = true → (s.setCfg a v).reservesFit false = true →
    exec (.sldRsvWrite w pt v) s = .next { s.setCfg a v with
      sys := { s.sys with keys := s.keysLeft w }, bus := ⟨[], false⟩ }) ∧
  (∀ (s : State) (w : Who) (p : BitVec 6) (v : Word), s.hears w → (s.cfgAt (aPrt p.toNat)).getLsbD 2 = true →
    v.getLsbD 2 = false → v.toNat % 4 ≠ 3 → (s.port p.toNat).st ≠ .fenced →
    ∃ t u : State, exec (.portDisable w p v) s = .next t ∧
      t = { u.portOff p.toNat .down (some 3) with bus := ⟨[], false⟩ } ∧
      (u.cfgAt (aPrt p.toNat)).toNat = (v.toNat &&& 7) ∧
      u = { s with cfg := u.cfg, sys := { s.sys with keys := s.keysLeft w } })

/-- Reads that change something (04 R75; 07 R200; 00 R8; 13 R369): IRC_NOW_LO latches the high half and the fraction of
the count, SCH_TBL_DATA moves SCH_TBL_SEL.INDEX on, a read-clear counter reads and becomes 0 (what one that no
command reports has counted is a free value, assumption log 106; read again at once it is clear too), and the low
word of a 64-bit value latches its high word. Completion: exec answers the next state named, for every state and
operands that meet the conditions on them alone, for ircNowLoRead, schTblDataRead, rcRead, lowWordRead. -/
def Obligations.LatchingAndClearingReads : Prop :=
  (∀ (s : State) (w : Who), s.hears w →
    exec (.ircNowLoRead w) s = .next { s with
      irc := { s.irc with latchHi := BitVec.ofNat 32 (s.now / 2 ^ 32), latchFrac := BitVec.ofNat 32 (s.irc.frac % 65536) },
      bus := ⟨[BitVec.ofNat 32 s.now], false⟩ }) ∧
  (∀ (s : State) (w : Who) (i : Nat), s.hears w → i = (s.cfgAt (aSch + 4)).toNat →
    ∃ t : State, exec (.schTblDataRead w) s = .next t ∧ t.bus.err = false ∧ t.bus.data.length = 1 ∧
      (t.cfgAt (aSch + 4)).toNat = i / 8192 * 8192 + (i % 8192 + 1) % 8192 ∧
      t = { s with cfg := t.cfg, bus := t.bus }) ∧
  (∀ (s : State) (w : Who) (a : BitVec 26), s.hears w → s.plainAddr a.toNat → s.smbusOnly a.toNat = true →
    s.wideVal a.toNat = none → s.regVal w a.toNat = some (s.rcVal a.toNat) → isRc a.toNat = true → a.toNat ≠ aIrc →
    a.toNat ≠ aSch + 8 →
    ∃ t : State, exec (.rcRead w a) s = .next t ∧ t.bus = ⟨[BitVec.ofNat 32 (s.rcVal a.toNat)], false⟩ ∧
      (s.cntAt a.toNat < 2 ^ 32 → isUnseen a.toNat = false →
        t.bus = ⟨[BitVec.ofNat 32 (s.cntAt a.toNat)], false⟩ ∧ t.freeCtr = s.freeCtr) ∧
      t.cntAt a.toNat = 0 ∧ t.rcVal a.toNat = 0 ∧ (∀ b, b ≠ a.toNat → t.cntAt b = s.cntAt b) ∧
      t = { s with cnt := t.cnt, lanes := t.lanes, bus := t.bus, freeCtr := t.freeCtr, cleared := t.cleared }) ∧
  (∀ (s : State) (w : Who) (a : BitVec 26) (v : Nat), s.hears w → s.plainAddr a.toNat → s.wideVal a.toNat = some v →
    a.toNat ≠ aIrc → a.toNat ≠ aSch + 8 →
    ∃ t : State, exec (.lowWordRead w a) s = .next t ∧ t.bus = ⟨[BitVec.ofNat 32 (v % 2 ^ 32)], false⟩ ∧
      tfind t.latch (a.toNat + 4) = some (BitVec.ofNat 32 (v / 2 ^ 32)) ∧
      (isRc64 a.toNat = true → t.cntAt a.toNat = 0 ∧ t.wideVal a.toNat = some 0) ∧ (∀ b, b ≠ a.toNat → t.cntAt b = s.cntAt b) ∧
      (isUnseen a.toNat = false → t.freeCtr = s.freeCtr) ∧
      t = { s with cnt := t.cnt, latch := t.latch, bus := t.bus, freeCtr := t.freeCtr, cleared := t.cleared })

/-- Writes of the register space (13 R370, R372, R374, R375), with SYS_SCRATCH, PRT_CFG and the lanes' LNK_TH as the
registers written: a register takes the value written; an alias word changes the one bit it stands for; a broadcast
reaches every lane, a group window the ports of its mask; no other register changes. A write that no register
answers is a bus error. Completion: exec answers the next state named, for every state and operands that meet the
conditions on them alone, for registerWrite, bitAliasWrite, broadcastWrite, groupWindowWrite. -/
def Obligations.RegisterSpaceWrites : Prop :=
  (∀ (s : State) (w : Who) (v : Word), s.hears w →
    exec (.registerWrite w 0x60 v) s = .next { s.setCfg 0x60 v with
      sys := { s.sys with keys := s.keysLeft w }, bus := ⟨[], false⟩ }) ∧
  (∀ (s : State) (w : Who) (a : BitVec 26) (v : Word), s.hears w → s.plainAddr a.toNat → s.regVal w a.toNat = none →
    exec (.registerWrite w a v) s = .next { s with
      cnt := tset s.cnt 0x50 (s.cntAt 0x50 + 1),
      sys := { s.sys with keys := s.keysLeft w, busErrAddr := BitVec.ofNat 32 (2 ^ 28 * pathOf w + a.toNat % 2 ^ 26) },
      bus := ⟨[], true⟩ }) ∧
  (∀ (s : State) (w : Who) (a : BitVec 26) (i : Nat) (v : Word), s.hears w → i < 32 →
    a.toNat = 0x1000000 + 0x80 * 0x18 + 4 * i →
    ∃ t : State, exec (.bitAliasWrite w a v) s = .next t ∧ t.bus = ⟨[], false⟩ ∧
      (∀ j, j < 32 → bit (t.cfgAt 0x60).toNat j = if j = i then v.getLsbD 0 else bit (s.cfgAt 0x60).toNat j) ∧
      (∀ b, b ≠ 0x60 → t.cfgAt b = s.cfgAt b) ∧
      t = { s with cfg := t.cfg, sys := { s.sys with keys := s.keysLeft w }, bus := t.bus }) ∧
  (∀ (s : State) (w : Who) (v : Word), s.hears w →
    ∃ t : State, exec (.broadcastWrite w 0x700018 v) s = .next t ∧ t.bus = ⟨[], false⟩ ∧
      (∀ l, l < 256 → (t.cfgAt (aLnk l + 0x18)).toNat = v.toNat &&& 0x3FFFFFFF) ∧
      (∀ b, (∀ l, l < 256 → b ≠ aLnk l + 0x18) → t.cfgAt b = s.cfgAt b) ∧
      t = { s with cfg := t.cfg, sys := { s.sys with keys := s.keysLeft w }, bus := t.bus }) ∧
  (∀ (s : State) (w : Who) (a : BitVec 26) (g m : Nat) (v : Word), s.hears w → g < 8 →
    a.toNat = 0x540000 + 0x4000 * g → m = (s.cfgAt (0x100 + 8 * g)).toNat + 2 ^ 32 * (s.cfgAt (0x104 + 8 * g)).toNat →
    v.getLsbD 2 = true → v.toNat % 4 ≠ 3 →
    ∃ t : State, exec (.groupWindowWrite w a v) s = .next t ∧ t.bus = ⟨[], false⟩ ∧
      (∀ p, p < 64 → (t.cfgAt (aPrt p)).toNat = if bit m p then v.toNat &&& 7 else (s.cfgAt (aPrt p)).toNat) ∧
      (∀ b, (∀ p, p < 64 → b ≠ aPrt p) → t.cfgAt b = s.cfgAt b) ∧
      t = { s with cfg := t.cfg, sys := { s.sys with keys := s.keysLeft w }, bus := t.bus })

/-- The SMBus target (13 R353, Table 13.5): the pointer, the data at it (SYS_SCRATCH here), which moves it on, RDLEN and
the status, cleared by its read. A transaction with a wrong or missing PEC is not acted on and only noted.
Completion: exec answers the next state named, for every state and operands that meet the conditions on them alone,
for smbusAddr, smbusDataWrite, smbusDataRead, smbusRdlen, smbusStatus. -/
def Obligations.SmbusTransactions : Prop :=
  (∀ (s : State) (v : BitVec 32), s.reachable .smbus = true →
    exec (.smbusAddr true (some v)) s = .next { s with smb := { s.smb with ptr := v } } ∧
    exec (.smbusAddr true none) s = .next { s with smb := { s.smb with out := toLe 4 s.smb.ptr.toNat } }) ∧
  (∀ (s : State) (b0 b1 b2 b3 : Byte), s.hears .smbus → s.smb.ptr = 0x60 →
    exec (.smbusDataWrite true [b0, b1, b2, b3]) s = .next
      { s.setCfg 0x60 (BitVec.ofNat 32 (leNat [b0, b1, b2, b3])) with
        sys := { s.sys with keys := s.keysLeft .smbus }, smb := { s.smb with ptr := 0x64, busErr := false } }) ∧
  (∀ s : State, s.hears .smbus → s.smb.ptr = 0x60 → s.smb.rdlen = 4 →
    exec (.smbusDataRead true) s = .next
      { s with smb := { s.smb with ptr := 0x64, busErr := false, out := toLe 4 (s.cfgAt 0x60).toNat } }) ∧
  (∀ (s : State) (v : Byte), s.reachable .smbus = true →
    exec (.smbusRdlen true (some v)) s = .next (if 4 ≤ v.toNat ∧ v.toNat ≤ 32 ∧ v.toNat % 4 = 0
      then { s with smb := { s.smb with rdlen := v.toNat } } else s) ∧
    exec (.smbusRdlen true none) s = .next { s with smb := { s.smb with out := [BitVec.ofNat 8 s.smb.rdlen] } }) ∧
  (∀ s : State, s.reachable .smbus = true →
    exec (.smbusStatus true) s = .next { s with
      smb := { s.smb with out := [BitVec.ofNat 8 (b2n s.smb.busErr + 2 * b2n s.smb.pecErr)], busErr := false,
                          pecErr := false } }) ∧
  (∀ (s : State) (wr : Option (BitVec 32)) (data : List Byte) (n : Option Byte), s.reachable .smbus = true →
    exec (.smbusAddr false wr) s = .next { s with smb := { s.smb with pecErr := true } } ∧
    exec (.smbusDataWrite false data) s = .next { s with smb := { s.smb with pecErr := true } } ∧
    exec (.smbusDataRead false) s = .next { s with smb := { s.smb with pecErr := true } } ∧
    exec (.smbusRdlen false n) s = .next { s with smb := { s.smb with pecErr := true } } ∧
    exec (.smbusStatus false) s = .next { s with smb := { s.smb with pecErr := true } })

/-- JTAG (16 R448): BYPASS captures one 0; IDCODE answers version 1, part 0x0F12, the JEP106 code and a low bit of 1, in
that order from the top, bit 0 first; SAMPLE/PRELOAD captures the pins and holds what is shifted in; EXTEST drives
it, and is accepted only while RESET_N is low. None touches anything but the TAP, and without power none has effect.
The parity scan (13 R373): with no mismatch nothing happens; one in a configuration register of a port fences that
port with source 0x0702, and the register's address stands in SYS_PARITY. Completion: exec answers the next state
named, for every state and operands that meet the conditions on them alone, for bypass, idcode, samplePreload,
extest, configParityScan. -/
def Obligations.JtagAndParityScan : Prop :=
  (∀ (s : State) (pins shift : List Bool), s.pins.pwrgd = true →
    exec .bypass s = .next { s with pins := { s.pins with ir := .bypass, tdo := [false] } } ∧
    (∃ t : State, exec .idcode s = .next t ∧ t.pins.tdo.length = 32 ∧
      (∀ i, i < 32 → t.pins.tdo.getD i false =
        bit (2 ^ 28 * 1 + 2 ^ 12 * 0x0F12 + 2 * Config.jep106.toNat + 1) i) ∧
      t = { s with pins := { s.pins with ir := .idcode, tdo := t.pins.tdo } }) ∧
    exec (.samplePreload pins shift) s = .next { s with pins := { s.pins with ir := .sample, tdo := pins, driven := shift } } ∧
    exec (.extest pins shift) s = .next (if s.pins.resetN then s
      else { s with pins := { s.pins with ir := .extest, tdo := pins, driven := shift } })) ∧
  (∀ (s : State) (pins shift : List Bool), s.pins.pwrgd = false →
    exec .bypass s = .next s ∧ exec .idcode s = .next s ∧ exec (.samplePreload pins shift) s = .next s ∧
    exec (.extest pins shift) s = .next s) ∧
  (∀ s : State, s.on = true → s.sys.parityBad = [] → exec (.configParityScan none) s = .next s) ∧
  (∀ (s : State) (p : Nat) (a : BitVec 26), s.on = true → s.sys.parityBad = [] → p < 64 → a.toNat = aPrt p + 8 →
    exec (.configParityScan (some a)) s = .next (State.fencePort { s with
      sys := { s.sys with parityBad := [a.toNat], parityAddr := BitVec.ofNat 32 a.toNat } } p 0x0702 a.toNat))

/-- RING_WRITE and BULK_WRITE (13 R352, R362, R363, Table 13.4): once the frame has left Solder (below), one without a
fault puts its bytes at its OFFSET of the request ring, binding the mailbox where nobody is bound, and moves the
tail where its doorbell is set and may; or puts them at its OFFSET of the open transfer. Every other byte stays. A
refused frame stores nothing and is answered with ERROR. A MGMT frame that Solder holds is taken once it has come
whole and is the next of its input: its entry leaves the queue and its cells are freed; until then nothing happens.
REG_READ and REG_WRITE (13 R352): the words that are read are answered with REG_DATA, and a write with REG_DATA that
holds nothing; the word that fails is answered with ERROR and its index. With one word, SYS_SCRATCH stands for the
register. A count of words outside 1 to 64 is a FORMAT error. Completion: exec answers the next state named, for
every state and operands that meet the conditions on them alone, for ringWrite, bulkWrite, regRead, regWrite. -/
def Obligations.ManagementFramesTaken : Prop :=
  (∀ (s v : State) (f : Mgmt), s.brass = true → s.sys.outOfService = false → s.takeMgmt 1 f = some v → s.ringFault f = none →
    (s.mbx f.mbx.toNat).rq.wf = true →
    (f.arg.getLsbD 31 = true → ringUsed (f.arg.toNat % 65536) (s.mbx f.mbx.toNat).rqHead ≤ (s.mbx f.mbx.toNat).rqN ∧
      ringUsed (s.mbx f.mbx.toNat).rqTail (s.mbx f.mbx.toNat).rqHead ≤
        ringUsed (f.arg.toNat % 65536) (s.mbx f.mbx.toNat).rqHead) →
    ∃ t : State, exec (.ringWrite f) s = .next t ∧
      (∀ i, i < f.payload.length → Mem.read (t.mbx f.mbx.toNat).rq (f.offset.toNat + i) = f.payload.getD i 0) ∧
      (∀ a, (a < f.offset.toNat ∨ f.offset.toNat + f.payload.length ≤ a) →
        Mem.read (t.mbx f.mbx.toNat).rq a = Mem.read (s.mbx f.mbx.toNat).rq a) ∧
      (t.mbx f.mbx.toNat).owner = some ((s.mbx f.mbx.toNat).owner.getD (f.src, f.host)) ∧
      (t.mbx f.mbx.toNat).rqTail = (if f.arg.getLsbD 31 then f.arg.toNat % 65536 else (s.mbx f.mbx.toNat).rqTail) ∧
      (t.mbx f.mbx.toNat).rqHead = (s.mbx f.mbx.toNat).rqHead ∧ (t.mbx f.mbx.toNat).cq = (s.mbx f.mbx.toNat).cq ∧
      (∀ j, j ≠ f.mbx.toNat → t.mbx j = s.mbx j) ∧
      (∀ e, e ∈ t.bound ↔ e ∈ s.bound ∧ ((s.mbx f.mbx.toNat).owner = none → e.2.2 ≠ f.mbx.toNat)) ∧
      t = { v with mbxs := t.mbxs, bound := t.bound }) ∧
  (∀ (s : State) (f : Mgmt), s.sys.outOfService = true → exec (.ringWrite f) s = .next s ∧ exec (.bulkWrite f) s = .next s ∧
    exec (.regRead f) s = .next s ∧ exec (.regWrite f) s = .next s) ∧
  (∀ (s v : State) (f : Mgmt) (e : Nat), s.brass = true → s.sys.outOfService = false → s.takeMgmt 1 f = some v → s.ringFault f = some e → e ≠ 7 →
    exec (.ringWrite f) s = .next (v.sendError f 1 e 0)) ∧
  (∀ (s v : State) (f : Mgmt) (x : Xfer) (h : Nat), s.brass = true → s.sys.outOfService = false → s.takeMgmt 3 f = some v → s.bulkFault f = none →
    h = f.arg.toNat % 65536 → s.xfer h = some x → x.data.wf = true →
    ∃ (t : State) (y : Xfer), exec (.bulkWrite f) s = .next t ∧ t.xfer h = some y ∧ y = { x with data := y.data } ∧
      (∀ i, i < f.payload.length → Mem.read y.data (f.offset.toNat + i) = f.payload.getD i 0) ∧
      (∀ a, (a < f.offset.toNat ∨ f.offset.toNat + f.payload.length ≤ a) → Mem.read y.data a = Mem.read x.data a) ∧
      (∀ k, k ≠ h → t.xfer k = s.xfer k) ∧ t = { v with xfers := t.xfers }) ∧
  (∀ (s v : State) (f : Mgmt) (e : Nat), s.brass = true → s.sys.outOfService = false → s.takeMgmt 3 f = some v → s.bulkFault f = some e →
    exec (.bulkWrite f) s = .next (v.sendError f 3 e 0)) ∧
  (∀ (s : State) (k : Nat) (f : Mgmt), (∀ q ∈ s.sol.queues, mgmtIs k f q = false) → s.takeMgmt k f = some s) ∧
  (∀ (s : State) (k : Nat) (f : Mgmt) (q : QEnt), s.sol.queues.find? (mgmtIs k f) = some q → q.outs = [79] →
    s.isNext q = true →
    ∃ t : State, s.takeMgmt k f = some t ∧ t.sol.queues = s.sol.queues.filter (fun x => x != q) ∧
      (∀ i, i < 64 → (∀ c, tfind s.sol.cells (64 * q.id + i) = some c → c.copies ≤ 1) →
        tfind t.sol.cells (64 * q.id + i) = none) ∧ t = { s with ports := t.ports, sol := t.sol }) ∧
  (∀ (s : State) (f : Mgmt) (q : QEnt), s.isNext q = false →
    (s.sol.queues.find? (mgmtIs 1 f) = some q → exec (.ringWrite f) s = .next s) ∧
    (s.sol.queues.find? (mgmtIs 3 f) = some q → exec (.bulkWrite f) s = .next s) ∧
    (s.sol.queues.find? (mgmtIs 5 f) = some q → exec (.regRead f) s = .next s) ∧
    (s.sol.queues.find? (mgmtIs 6 f) = some q → exec (.regWrite f) s = .next s)) ∧
  (∀ (s v u : State) (f : Mgmt) (n i : Nat) (bs : List Byte), s.brass = true → s.sys.outOfService = false → s.takeMgmt 5 f = some v →
    f.payload.length = 4 → n = fld f.payload 0 4 → 1 ≤ n → n ≤ 64 →
    State.readWords (reqPath f) n n (f.arg.toNat % 2 ^ 26) v [] = (u, some bs, i) →
    exec (.regRead f) s = .next (u.sendRegData f bs)) ∧
  (∀ (s v u : State) (f : Mgmt) (n i : Nat), s.brass = true → s.sys.outOfService = false → s.takeMgmt 5 f = some v → f.payload.length = 4 →
    n = fld f.payload 0 4 → 1 ≤ n → n ≤ 64 →
    State.readWords (reqPath f) n n (f.arg.toNat % 2 ^ 26) v [] = (u, none, i) →
    exec (.regRead f) s = .next (u.sendError f 5 4 i)) ∧
  (∀ (s v : State) (f : Mgmt), s.brass = true → s.sys.outOfService = false → s.takeMgmt 5 f = some v → s.hears (reqPath f) →
    f.payload = [1, 0, 0, 0] → f.arg.toNat % 2 ^ 26 = 0x60 →
    exec (.regRead f) s = .next (v.sendRegData f (toLe 4 (s.cfgAt 0x60).toNat))) ∧
  (∀ (s v u : State) (f : Mgmt) (o : Option Nat), s.brass = true → s.sys.outOfService = false → s.takeMgmt 6 f = some v → f.payload ≠ [] →
    f.payload.length % 4 = 0 → f.payload.length ≤ 256 →
    State.writeWords (reqPath f) (toWords f.payload) (f.arg.toNat % 2 ^ 26) 0 v = (u, o) →
    exec (.regWrite f) s = .next (match o with
      | none => u.sendRegData f []
      | some i => u.sendError f 6 4 i)) ∧
  (∀ (s v : State) (f : Mgmt) (b0 b1 b2 b3 : Byte), s.brass = true → s.sys.outOfService = false → s.takeMgmt 6 f = some v → s.hears (reqPath f) →
    f.payload = [b0, b1, b2, b3] → f.arg.toNat % 2 ^ 26 = 0x60 →
    exec (.regWrite f) s = .next (State.sendRegData { v.setCfg 0x60 (BitVec.ofNat 32 (leNat [b0, b1, b2, b3])) with
      sys := { s.sys with keys := s.keysLeft (reqPath f) } } f [])) ∧
  (∀ (s v : State) (f : Mgmt), s.brass = true → s.sys.outOfService = false → s.takeMgmt 5 f = some v → f.payload.length = 4 →
    (fld f.payload 0 4 = 0 ∨ 64 < fld f.payload 0 4) →
    exec (.regRead f) s = .next (v.sendError f 5 8 0))

/-- Frames between the Fixus of a cell (13 R350; 14 R400, R408; 01 R25): a HELLO of the right place and strap marks the
neighbour heard, a wrong one, or one that tells of a conflict elsewhere in the cell, is a strap conflict; HELLO is
repeated every 100,000,000 ns; a held descriptor of a set still to end is kept; a CELL_RESET notes the count W. The
cell's warm reset (14 R408): at the count W every Fixus resets with cause 3; it pulls BAR_N low from W + 10,000 ns;
lane training starts once BAR_N has read high, and at W + 3,000,000,000 ns at the latest. Completion: exec answers
the next state named, for every state and operands that meet the conditions on them alone, for hello, helloRepeat,
heldDesc, heldDescSend, cellReset, cellResetEntry, cellRelease, cellReleaseTimeout. -/
def Obligations.CellFramesAndReset : Prop :=
  (∀ (s v : State) (f : Mgmt) (cell : Bool), s.brass = true → s.sys.outOfService = false → s.takeMgmt 0xD f = some v →
    s.meshGroup (f.port.toNat / 4) = true →
    exec (.hello f cell) s = .next (if cell = false ∧ f.arg.toNat % 16 = meshSwitch s.pins.sw (f.port.toNat / 4) ∧
        f.arg.getLsbD 31 = (f.arg.toNat % 16 == 0)
      then { v with sys := { s.sys with
        helloSeen := if s.sys.helloSeen.contains (f.port.toNat / 4) then s.sys.helloSeen
          else s.sys.helloSeen ++ [f.port.toNat / 4] } }
      else State.strapConflict { v with sys := { s.sys with
        helloSeen := if s.sys.helloSeen.contains (f.port.toNat / 4) then s.sys.helloSeen
          else s.sys.helloSeen ++ [f.port.toNat / 4] } } (strapInfo (f.arg.getLsbD 31) (f.arg.toNat % 16)))) ∧
  (∀ s : State, s.brass = true → s.sys.helloAt + 100000000 ≤ s.clk →
    exec .helloRepeat s = .next (s.unheard.foldl (fun t g => t.sendHello g)
      { s with sys := { s.sys with helloAt := s.clk } })) ∧
  (∀ (s v : State) (f : Mgmt), s.brass = true → s.sys.outOfService = false → s.takeMgmt 9 f = some v → s.cellMate f.src.toNat = true →
    f.payload.length = 128 → f.arg.getLsbD 31 = false →
    exec (.heldDesc f) s = .next { v with heldRx := s.heldRx ++ [f.payload] }) ∧
  (∀ (s v : State) (f : Mgmt), s.brass = true → s.sys.outOfService = false → s.takeMgmt 9 f = some v → s.cellMate f.src.toNat = true →
    f.payload.length = 128 → f.arg.getLsbD 31 = true → (s.heldRx ++ [f.payload]).length = f.arg.toNat % 65536 →
    exec (.heldDesc f) s = .next ((s.heldRx ++ [f.payload]).foldl (fun t d => t.takeHeld d) { v with heldRx := [] })) ∧
  (∀ s : State, s.brass = true → s.flt.lost = [] →
    (s.ctxs.filter (fun e => e.2.holdUntil.isSome && !e.2.heldSent)) ≠ [] → ∀ ds : List Nat,
    ds = ((((s.ctxs.filter (fun e => e.2.holdUntil.isSome && !e.2.heldSent)).flatMap (fun e => e.2.holdLost)).eraseDups).filter
      (fun a => addrCell a == s.sys.cell && a != s.addr)) → s.heldSender ds = true →
    exec .heldDescSend s = .next (ds.foldl (fun t a => t.sendHeld a) { s with
      ctxs := tmap s.ctxs (fun _ c => if c.holdUntil.isSome then { c with heldSent := true } else c) })) ∧
  (∀ (s v : State) (f : Mgmt), s.brass = true → s.sys.outOfService = false → s.takeMgmt 0xE f = some v → s.cellMate f.src.toNat = true →
    f.host = false → f.payload.length = 10 →
    exec (.cellReset f) s = .next { v with sys := { s.sys with cellW := some (fld f.payload 2 8) } }) ∧
  (∀ (s : State) (b : BootObs) (w : Nat), s.on = true → s.sys.cellW = some w → w ≤ s.now →
    exec (.cellResetEntry b) s = .next { s.warm 3 b with
      sys := { (s.warm 3 b).sys with cellW := none },
      pins := { (s.warm 3 b).pins with
        romBar := if (s.warm 3 b).sys.noFirmware ∨ (s.warm 3 b).sys.classX then none else some (s.clk + 10000) } }) ∧
  (∀ (s : State) (n : Nat), s.pins.romBar = some n →
    s.tick.pins.barLow = (s.pins.barLow || decide (n ≤ s.clk + 1)) ∧
    s.tick.pins.romBar = (if n ≤ s.clk + 1 then none else some n)) ∧
  (∀ (s : State) (b : BootObs) (w : Nat), s.sys.cellW = some w → s.now < w → exec (.cellResetEntry b) s = .next s) ∧
  (∀ s : State, s.brass = true → s.sys.resetCause = 3 → s.sys.resetAt + 100000 ≤ s.clk →
    exec .cellRelease s = .next { s with sys := { s.sys with training := true } }) ∧
  (∀ s : State, s.brass = true → s.sys.resetCause = 3 → s.sys.resetAt + 3000000000 ≤ s.clk →
    exec .cellReleaseTimeout s = .next { s with sys := { s.sys with training := true } })

/-- FLIT_RECEIVE (05 R109, R123 to R125, R128 to R131, Table 5.11; 06 R148). A flit's fields are those of its 256 bytes
where its CRC is good and every codeword that holds a byte of it can be corrected; the symbols corrected are counted
by lane. Every good flit acknowledges and returns credit; a sequenced one with SEQ = E raises E and, as the first of
a frame, takes a Solder cell and a credit; an older one is discarded; a later one is answered by NAK with E.
Completion: exec answers the next state named, for every state and operands that meet the conditions on them alone,
for flitReceive. -/
def Obligations.FlitsReceivedInSequence : Prop :=
  (∀ (s : State) (p : BitVec 6) (raw : List Byte) (ws : List LaneWord) (f : Flit), rxFlit raw ws = some f → s.on = true →
    (s.port p.toNat).st = .active → f.typ = 0 →
    flitMalformed f = false →
    ∃ t : State, exec (.flitReceive p raw ws) s = .next t ∧
      (t.port p.toNat).unacked = (s.port p.toNat).unacked.filter (fun u => !seqBefore u.seq f.ackSeq) ∧
      tget (t.port p.toNat).avail f.crVc.toNat 0 = tget (s.port p.toNat).avail f.crVc.toNat 0 +
        (f.crCount.toNat + 4096 - tget (s.port p.toNat).crSeen f.crVc.toNat 0) % 4096 ∧
      tget (t.port p.toNat).crSeen f.crVc.toNat 0 = f.crCount.toNat ∧
      (∀ v, v ≠ f.crVc.toNat → tget (t.port p.toNat).avail v 0 = tget (s.port p.toNat).avail v 0) ∧
      (t.port p.toNat).e = (s.port p.toNat).e ∧ (t.paux p.toNat).lastGood = s.clk ∧
      (∀ i, i < 4 → t.cntAt (aLnk (4 * p.toNat + i) + 0x10) = s.cntAt (aLnk (4 * p.toNat + i) + 0x10) +
        ((ws.filter (fun w => w.lane.toNat == i)).map (fun w => (wordResult w).getD 0)).sum) ∧
      (∀ a, (∀ i, i < 4 → a ≠ aLnk (4 * p.toNat + i) + 0x10) → t.cntAt a = s.cntAt a) ∧
      t = { s with ports := t.ports, aux := t.aux, cnt := t.cnt, sol := { s.sol with cells := t.sol.cells } }) ∧
  (∀ (s : State) (p : BitVec 6) (raw : List Byte) (ws : List LaneWord) (f : Flit), rxFlit raw ws = some f → s.on = true →
    (s.port p.toNat).st = .active → f.typ = 1 → f.sof = true →
    f.seq = (s.port p.toNat).e → flitMalformed f = false → s.vcOn p.toNat f.vc.toNat = true →
    tget (s.port p.toNat).rxHeld f.vc.toNat 0 < tget (s.port p.toNat).plimit f.vc.toNat (s.vcLimit p.toNat f.vc.toNat) →
    (∀ u ∈ (s.port p.toNat).unacked, seqBefore u.seq f.ackSeq = false) →
    (∀ x ∈ (s.paux p.toNat).asm, x.vc = f.vc.toNat → x.eof = true) → (∀ q ∈ s.sol.queues, q.id ≠ s.sol.nextId) →
    (∀ q ∈ s.sol.descWait, q.id ≠ s.sol.nextId) →
    ∃ t : State, exec (.flitReceive p raw ws) s = .next t ∧ (t.port p.toNat).e = (s.port p.toNat).e + 1 ∧
      (t.port p.toNat).nakWait = false ∧
      tget (t.port p.toNat).rxHeld f.vc.toNat 0 = tget (s.port p.toNat).rxHeld f.vc.toNat 0 + 1 ∧
      tfind t.sol.cells (64 * s.sol.nextId) = some { inp := p.toNat, vc := f.vc.toNat, copies := 1 } ∧
      (∀ k, k ≠ 64 * s.sol.nextId → tfind t.sol.cells k = tfind s.sol.cells k) ∧ t.sol.nextId = s.sol.nextId + 1 ∧
      (∀ a, (∀ i, i < 4 → a ≠ aLnk (4 * p.toNat + i) + 0x10) → t.cntAt a = s.cntAt a) ∧
      t = { s with ports := t.ports, aux := t.aux, cnt := t.cnt, sol := { s.sol with
              cells := t.sol.cells, nextId := t.sol.nextId, acc := t.sol.acc } }) ∧
  (∀ (s : State) (p : BitVec 6) (raw : List Byte) (ws : List LaneWord) (f : Flit), rxFlit raw ws = some f → s.on = true →
    (s.port p.toNat).st = .active → f.typ = 1 ∨ f.typ = 2 →
    seqBefore f.seq (s.port p.toNat).e = true → (∀ u ∈ (s.port p.toNat).unacked, seqBefore u.seq f.ackSeq = false) →
    ∃ t : State, exec (.flitReceive p raw ws) s = .next t ∧ (t.port p.toNat).e = (s.port p.toNat).e ∧
      (t.port p.toNat).rxHeld = (s.port p.toNat).rxHeld ∧ (t.port p.toNat).linkQ = (s.port p.toNat).linkQ ∧
      (∀ a, (∀ i, i < 4 → a ≠ aLnk (4 * p.toNat + i) + 0x10) → t.cntAt a = s.cntAt a) ∧
      t = { s with ports := t.ports, aux := t.aux, cnt := t.cnt, sol := { s.sol with acc := t.sol.acc } }) ∧
  (∀ (s : State) (p : BitVec 6) (raw : List Byte) (ws : List LaneWord) (f : Flit), rxFlit raw ws = some f → s.on = true →
    (s.port p.toNat).st = .active → f.typ = 1 ∨ f.typ = 2 →
    f.seq ≠ (s.port p.toNat).e → seqBefore f.seq (s.port p.toNat).e = false → (s.port p.toNat).nakWait = false →
    (∀ u ∈ (s.port p.toNat).unacked, seqBefore u.seq f.ackSeq = false) → (s.paux p.toNat).viols.length < 63 →
    ∃ t : State, exec (.flitReceive p raw ws) s = .next t ∧ (t.port p.toNat).e = (s.port p.toNat).e ∧
      (t.port p.toNat).nakWait = true ∧ LinkMsg.nak (s.port p.toNat).e ∈ (t.port p.toNat).linkQ ∧
      t.cntAt (aPrt p.toNat + 0x84) = s.cntAt (aPrt p.toNat + 0x84) + 1 ∧
      t = { s with ports := t.ports, aux := t.aux, cnt := t.cnt, sol := { s.sol with acc := t.sol.acc } })

/-- Retry (05 R131, R132): a bad flit is answered by NAK with E, its uncorrectable codewords counted; NAK is repeated
every 2,000 ns; a NAK for a flit still held starts the replay there, for one no longer held RETRAIN_REQ; so does an
ACK_SEQ unchanged for 10,000 ns, eight times; the ninth time RETRAIN_REQ is sent. Completion: exec answers the next
state named, for every state and operands that meet the conditions on them alone, for badCrcFlit, nakRepeat, nak,
replayTimeout. -/
def Obligations.RetryMessages : Prop :=
  (∀ (s : State) (p : BitVec 6) (raw : List Byte) (ws : List LaneWord), rxFlit raw ws = none → s.on = true →
    (s.port p.toNat).st = .active ∨ (s.port p.toNat).st = .retrain →
    (∀ i, i < 4 → (s.lane (4 * p.toNat + i)).uncorr.length + ws.length ≤ 16) →
    ∃ t : State, exec (.badCrcFlit p raw ws) s = .next t ∧
      t.cntAt (aPrt p.toNat + 0x8C) = s.cntAt (aPrt p.toNat + 0x8C) + (ws.filter (fun w => (wordResult w).isNone)).length ∧
      t.port p.toNat = (if (s.port p.toNat).nakWait then s.port p.toNat else { s.port p.toNat with
        nakWait := true, nakAt := s.clk, linkQ := (s.port p.toNat).linkQ ++ [.nak (s.port p.toNat).e] }) ∧
      (∀ q, q ≠ p.toNat → t.port q = s.port q) ∧
      t = { s with lanes := t.lanes, ports := t.ports, cnt := t.cnt }) ∧
  (∀ (s : State) (p : BitVec 6), s.on = true → (s.port p.toNat).st = .active → (s.port p.toNat).nakWait = true →
    (s.port p.toNat).nakAt + 2000 ≤ s.clk →
    ∃ t : State, exec (.nakRepeat p) s = .next t ∧ t.port p.toNat = { s.port p.toNat with
        nakAt := s.clk, linkQ := (s.port p.toNat).linkQ ++ [.nak (s.port p.toNat).e] } ∧
      (∀ q, q ≠ p.toNat → t.port q = s.port q) ∧
      t.cntAt (aPrt p.toNat + 0x84) = s.cntAt (aPrt p.toNat + 0x84) + 1 ∧
      t = { s with ports := t.ports, cnt := t.cnt }) ∧
  (∀ (s : State) (p : BitVec 6) (e : BitVec 13) (a b : List TxFlit) (u : TxFlit), s.on = true →
    (s.port p.toNat).st = .active → (s.port p.toNat).unacked = a ++ u :: b → u.seq = e →
    (∀ x ∈ a, seqBefore x.seq e = true) → (∀ x ∈ b, seqBefore x.seq e = false) →
    (a ≠ [] ∨ (s.port p.toNat).replays < 8) →
    ∃ t : State, exec (.nak p e) s = .next t ∧ (t.port p.toNat).unacked = u :: b ∧ (t.port p.toNat).replay = u :: b ∧
      (t.port p.toNat).ackAt = s.clk ∧ t = { s with ports := t.ports, sol := { s.sol with cells := t.sol.cells } }) ∧
  (∀ (s : State) (p : BitVec 6) (e : BitVec 13), s.on = true → (s.port p.toNat).st = .active →
    (∀ u ∈ (s.port p.toNat).unacked, u.seq ≠ e) → e ≠ (s.port p.toNat).seqNext →
    ∃ t : State, exec (.nak p e) s = .next t ∧
      (t.port p.toNat).linkQ = (s.port p.toNat).linkQ ++ [.retrainReq 0] ∧
      t = { s with ports := t.ports, sol := { s.sol with cells := t.sol.cells } }) ∧
  (∀ (s : State) (p : BitVec 6) (u : TxFlit) (l : List TxFlit), s.on = true → (s.port p.toNat).st = .active →
    (s.port p.toNat).unacked = u :: l → (s.port p.toNat).ackAt + 10000 ≤ s.clk →
    exec (.replayTimeout p) s = .next (s.setPort p.toNat (if (s.port p.toNat).replays < 8
      then { s.port p.toNat with replay := u :: l, replays := (s.port p.toNat).replays + 1, ackAt := s.clk }
      else { s.port p.toNat with replays := 0, linkQ := (s.port p.toNat).linkQ ++ [.retrainReq 0] })))

/-- Retrain and CREDIT_SYNC (05 R133, R141): a retrain stops the port's flits and takes its lanes in service back to
phase 1; the partner's CREDIT_SYNC gives the credits and is acknowledged; with both ends acknowledged the port is
ACTIVE on its lanes in phase 7. Completion: exec answers the next state named, for every state and operands that
meet the conditions on them alone, for retrainReq, creditSync, creditSyncAck, protocolViolation. -/
def Obligations.RetrainAndCreditSync : Prop :=
  (∀ (s : State) (p : BitVec 6) (r : Byte), s.on = true → (s.port p.toNat).st = .active →
    ((s.paux p.toNat).retrains.filter (fun t => decide (s.clk < t + 1000000000))).length < 3 →
    ∃ t : State, exec (.retrainReq p r) s = .next t ∧
      t.port p.toNat = { s.port p.toNat with st := .retrain, replay := [] } ∧
      (∀ q, q ≠ p.toNat → t.port q = s.port q) ∧ (t.paux p.toNat).retrainAt = some s.clk ∧
      (∀ i, i < 4 → (s.lane (4 * p.toNat + i)).inService = true → (t.lane (4 * p.toNat + i)).phase = 1) ∧
      t.cntAt (aPrt p.toNat + 0x88) = s.cntAt (aPrt p.toNat + 0x88) + 1 ∧
      t = { s with ports := t.ports, aux := t.aux, lanes := t.lanes, cnt := t.cnt, flt := t.flt }) ∧
  (∀ (s : State) (p : BitVec 6) (next : BitVec 13) (lims : List (BitVec 16 × BitVec 16)), s.on = true →
    (s.port p.toNat).st = .training ∨ (s.port p.toNat).st = .retrain → s.lanes7 p.toNat ≠ [] →
    (s.paux p.toNat).syncAck = false → (∀ u ∈ (s.port p.toNat).unacked, seqBefore u.seq next = false) →
    ∃ t : State, exec (.creditSync p next lims) s = .next t ∧ (t.paux p.toNat).syncRx = true ∧
      (t.port p.toNat).st = (s.port p.toNat).st ∧ (t.port p.toNat).replay = (s.port p.toNat).unacked ∧
      (∀ v, v < 16 → tget (t.port p.toNat).avail v 0 = (lims.getD v (0, 0)).2.toNat -
        ((s.port p.toNat).unacked.filter (fun u => u.vc == v)).length) ∧
      (t.port p.toNat).linkQ = (s.port p.toNat).linkQ ++ [.creditSyncAck next] ∧
      t = { s with ports := t.ports, aux := t.aux }) ∧
  (∀ (s : State) (p : BitVec 6) (next : BitVec 13), s.on = true →
    (s.port p.toNat).st = .training ∨ (s.port p.toNat).st = .retrain → s.lanes7 p.toNat ≠ [] →
    next = (s.port p.toNat).e → (s.paux p.toNat).syncRx = true →
    ∃ t : State, exec (.creditSyncAck p next) s = .next t ∧ (t.port p.toNat).st = .active ∧
      (t.port p.toNat).lanes = laneMask (s.lanes7 p.toNat) ∧
      (∀ i, i ∈ s.lanes7 p.toNat → (t.lane (4 * p.toNat + i)).inService = true) ∧
      (∀ n, s.portPeer p.toNat = some n → n ∉ t.flt.lost) ∧
      t = { s with ports := t.ports, aux := t.aux, lanes := t.lanes, flt := { s.flt with lost := t.flt.lost, acts := t.flt.acts } }) ∧
  (∀ (s : State) (p : BitVec 6) (c n : Byte) (q : BitVec 13) (v : Byte) (k : Count), s.on = true →
    (s.port p.toNat).st = .active ∨ (s.port p.toNat).st = .retrain →
    exec (.protocolViolation p c n q v k) s = .next (s.bump (aPrt p.toNat + 0x94) 1))

/-- A port goes (05 R133, R135): LEAVE and 2,000 ns without a good flit record source 0x0115 in the port's domain and
take it DOWN; a retrain of 50 ms fences it. A port that goes sends the LEAVE it owes on its lanes before they fall
idle, and keeps nothing but its state, its receive cells, the flit on its wire and its message number; its lanes
return to phase 0. Completion: exec answers the next state named, for every state and operands that meet the
conditions on them alone, for leave, linkLost, retrainTimeout. -/
def Obligations.PortsGo : Prop :=
  (∀ (s : State) (p : BitVec 6) (r : Byte) (c : Count), s.on = true → (s.port p.toNat).st = .active →
    exec (.leave p r c) s = .next (match s.portPeer p.toNat with
      | some a => if r = 0 || r = 2
          then State.neighbourLeft ((s.record 0 3 p.toNat 0x0115 r.toNat).portOff p.toNat .down none) a
          else (s.record 0 3 p.toNat 0x0115 r.toNat).portOff p.toNat .down none
      | none => (s.record 0 3 p.toNat 0x0115 r.toNat).portOff p.toNat .down none)) ∧
  (∀ (s : State) (p : BitVec 6), s.on = true → (s.port p.toNat).st = .active →
    (s.paux p.toNat).lastGood + 2000 ≤ s.clk →
    exec (.linkLost p) s = .next ((s.record 0 3 p.toNat 0x0115 0xFF).portOff p.toNat .down none)) ∧
  (∀ (s : State) (p : BitVec 6) (t0 : Nat), s.on = true → (s.port p.toNat).st = .retrain →
    (s.paux p.toNat).retrainAt = some t0 → t0 + 50000000 ≤ s.clk →
    exec (.retrainTimeout p) s = .next ((s.record 2 3 p.toNat 0x0112 (s.paux p.toNat).retrains.length).portOff p.toNat
      .fenced (some 1))) ∧
  (∀ (s : State) (p : Nat) (st : PortState) (r : Option Nat), p < 32 → (s.port ((p + 16) % 32)).st = .active →
    (s.paux ((p + 16) % 32)).badVersion = false → (s.port p).st = .active ∨ (s.port p).st = .retrain →
    (s.paux p).asm = [] → (s.port p).unacked = [] → (s.port p).egress = [] → (∀ q ∈ s.sol.queues, p ∉ q.outs) → (∀ q ∈ s.sol.descWait, p ∉ q.outs) →
    (s.portOff p st r).port p = { Port.init with
      st := st, rxHeld := (s.port p).rxHeld, wire := ((s.portOff p st r).port p).wire, ctlSeq := (s.port p).ctlSeq } ∧
    (r = none ∨ s.streamLanes p = [] → ((s.portOff p st r).port p).wire = (s.port p).wire) ∧
    (∀ k, r = some k → s.streamLanes p ≠ [] →
      ((s.portOff p st r).port p).wire.map TxFlit.pay = some (.link (.leave k s.now))) ∧
    (∀ q, q ≠ p → (s.portOff p st r).port q = s.port q) ∧
    (∀ i, i < 4 → ((s.portOff p st r).lane (4 * p + i)).phase = 0 ∧
      ((s.portOff p st r).lane (4 * p + i)).inService = false) ∧
    (∃ t : State, t = s.portOff p st r ∧ t = { s with
      ports := t.ports, aux := t.aux, lanes := t.lanes, sol := { s.sol with vcOwner := t.sol.vcOwner }, sch := { s.sch with
        wfqV := t.sch.wfqV, wfqF := t.sch.wfqF, slot := t.sch.slot }, irc := { s.irc with
        peers := t.irc.peers, reqs := t.irc.reqs, parent := t.irc.parent, hops := t.irc.hops, masterAddr := t.irc.masterAddr, noMasterAt := t.irc.noMasterAt } }))

/-- What a partner or a lane reports (05 Table 5.3, R114, R119, R136): FoM, phase, marker lock and its loss, and
equaliser requests, which hold, raise, lower or preset one tap. A sideband message counts once two consecutive
blocks carry the same framing word of its type with a good CHECK (R113), and means nothing before; lock needs 64
inner levels and two markers 2,048 blocks apart, aligns the port's lanes on them, and is lost with the third marker
missed in a row. Completion: exec answers the next state named, for every state and operands that meet the
conditions on them alone, for fomReport, ready, markerLock, markerLoss, txEqReq, fomWindow. -/
def Obligations.LaneReportsTaken : Prop :=
  (∀ (s : State) (l : BitVec 9) (ws : List (BitVec 40)) (w : BitVec 40), s.on = true →
    sideHeard 1 ws = some w →
    exec (.fomReport l ws) s = .next (s.setLane l.toNat { s.lane l.toNat with partnerFom := bits (wordSb w) 9 0 })) ∧
  (∀ (s : State) (l : BitVec 9) (ws : List (BitVec 40)) (w : BitVec 40), s.on = true →
    sideHeard 7 ws = some w →
    exec (.ready l ws) s = .next (s.setLane l.toNat { s.lane l.toNat with partnerPhase := bits (wordSb w) 2 0 })) ∧
  (∀ (s : State) (l : BitVec 9) (ws : List (BitVec 40)), s.on = true → (sideHeard 1 ws = none → exec (.fomReport l ws) s = .next s) ∧
    (sideHeard 7 ws = none → exec (.ready l ws) s = .next s) ∧ (sideHeard 2 ws = none → exec (.txEqReq l ws) s = .next s)) ∧
  (∀ (s : State) (l : BitVec 9) (o : MarkerObs) (inv : Bool), s.on = true →
    aligned o = some inv → 256 ≤ l.toNat → s.sparedFor l.toNat = none →
    exec (.markerLock l o) s = .next (s.setLane l.toNat { s.lane l.toNat with
      lock := true, marker := true, missed := 0, inverted := inv, markAt := some o.at_, lockClk := s.clk })) ∧
  (∀ (s : State) (l : BitVec 9) (o : MarkerObs) (inv : Bool) (k : Nat), s.on = true →
    aligned o = some inv → (if l.toNat < 256 then some l.toNat else s.sparedFor l.toNat) = some k →
    ∃ t : State, exec (.markerLock l o) s = .next t ∧
    t.lane l.toNat = { s.lane l.toNat with
      lock := true, marker := true, missed := 0, inverted := inv, markAt := some o.at_, lockClk := s.clk,
      deskew := (t.lane l.toNat).deskew } ∧
    (∃ (last : Int) (ref : Nat), ∀ i m, i < 4 → (t.lane (s.circuit (4 * (k / 4) + i))).markAt = some m →
      markerLag m ref ≤ last ∧ (t.lane (s.circuit (4 * (k / 4) + i))).deskew = (last - markerLag m ref).toNat) ∧
    (∀ j, j ≠ l.toNat → (∀ i, i < 4 → j ≠ s.circuit (4 * (k / 4) + i)) → t.lane j = s.lane j) ∧
    t = { s with lanes := t.lanes }) ∧
  (∀ (s : State) (l : BitVec 9) (ms : List (List (BitVec 2))) (m : Nat), s.on = true →
    (s.lane l.toNat).lock = true → (s.lane l.toNat).inService = false →
    m = missedAfter (s.lane l.toNat).inverted (s.lane l.toNat).missed ms →
    exec (.markerLoss l ms) s = .next (s.setLane l.toNat { s.lane l.toNat with
      missed := m, lock := decide (m < 3), marker := (s.lane l.toNat).marker && decide (m < 3) })) ∧
  (∀ (s : State) (l : BitVec 9) (ws : List (BitVec 40)) (w : BitVec 40) (tap op v : Nat), s.on = true →
    sideHeard 2 ws = some w → tap = bits (wordSb w) 3 0 →
    op = bits (wordSb w) 5 4 → tap < 6 → (s.lane l.toNat).txEq.length = 6 →
    v = (s.lane l.toNat).txEq.getD tap 0 → ¬(op = 1 ∧ v = 31) → ¬(op = 2 ∧ v = 0) →
    ∃ t : State, exec (.txEqReq l ws) s = .next t ∧
      (t.lane l.toNat).txEq.getD tap 0 =
        (if op = 1 then v + 1 else if op = 2 then v - 1 else if op = 3 then 0 else v) ∧
      (∀ j, j ≠ tap → (t.lane l.toNat).txEq.getD j 0 = (s.lane l.toNat).txEq.getD j 0) ∧
      t = { s with lanes := t.lanes }) ∧
  (∀ (s : State) (l : BitVec 9) (f : FomSample) (n : Nat), s.on = true →
    fomValue f = some n →
    (s.lane l.toNat).inService = false ∨ (s.warnAt l.toNat ≤ n ∧ s.failAt l.toNat ≤ n) →
    exec (.fomWindow l f) s = .next ((s.setLane l.toNat { s.lane l.toNat with
      fom := n, fomMin := some (min n ((s.lane l.toNat).fomMin.getD n)), below := decide (n < s.warnAt l.toNat),
      warned := false, foms := ((s.lane l.toNat).foms ++ [n]).drop ((s.lane l.toNat).foms.length - 7),
      failSince := none }).tune l.toNat n)) ∧
  (∀ (s : State) (l n : Nat), l < 256 → (s.lane l).phase = 4 →
    ∃ (t : State) (tap op : Nat), s.tune l n = t ∧ tap < 6 ∧ op < 4 ∧ (s.trainAt l ≤ n → op = 0) ∧
      (t.port (l / 4)).sideQ = (s.port (l / 4)).sideQ ++ [.fomReport (l % 4) n, .txEqReq (l % 4) tap op] ∧
      (∀ q, q ≠ l / 4 → t.port q = s.port q) ∧ t = { s with ports := t.ports, freeCtr := s.freeCtr + 1 }) ∧
  (∀ (s : State) (l n : Nat), l < 256 → (s.lane l).phase < 4 ∨ 5 < (s.lane l).phase → s.tune l n = s)

/-- The figure of merit in units of 1/16 dB (05 R117) is the greatest n with 10^n · (9 · Σσ²)^160 ≤ (μ3 − μ0)^320, where
the ten bits of LNK_FOM can hold it; a figure between −1/16 and 0 dB rounds toward zero to 0. -/
def Obligations.FigureOfMeritIsFloor : Prop :=
  ∀ (f : FomSample) (n d v : Nat), f.mu3 - f.mu0 = d → v = f.var0 + f.var1 + f.var2 + f.var3 → 0 < d → 0 < v →
    (fomValue f = some n ↔
      (n < 1024 ∧ 10 ^ n * (9 * v) ^ 160 ≤ d ^ 320 ∧ d ^ 320 < 10 ^ (n + 1) * (9 * v) ^ 160) ∨
      (n = 0 ∧ d ^ 320 < (9 * v) ^ 160 ∧ (9 * v) ^ 160 < 10 * d ^ 320))

/-- Lane failure, sparing and width changes (05 R136 to R139): a lane in service that fails leaves by a width change and
its die's spare trains in its place within 60 ms; the outcome restores or fences it; an announced mask takes effect
at the block fixed for it, of this end's frame or of the partner's. Completion: exec answers the next state named,
for every state and operands that meet the conditions on them alone, for loopLockLoss, spareTrainDone, spareReq,
spareDone, widthChange, widthChangeEffective. -/
def Obligations.SparingAndWidthChange : Prop :=
  (∀ (s : State) (l : BitVec 9), s.on = true → l.toNat < 256 → (s.lane l.toNat).inService = true →
    (s.lane l.toNat).failed = false → (s.lane l.toNat).fenced = false →
    (s.lane (spareOf l.toNat)).spared = false → (s.lane (spareOf l.toNat)).failed = false →
    (s.lane (spareOf l.toNat)).fenced = false →
    ∃ t : State, exec (.loopLockLoss l) s = .next t ∧ t.lane l.toNat = { s.lane l.toNat with
        failed := true, lock := false, partnerFom := 0, partnerPhase := 0 } ∧
      (t.lane (spareOf l.toNat)).spared = true ∧ (t.lane (spareOf l.toNat)).phase = 1 ∧
      (t.paux (l.toNat / 4)).sparing = some (l.toNat % 4) ∧ (t.paux (l.toNat / 4)).spareAt = s.clk ∧
      (∃ m, m = s.goalMask (l.toNat / 4) &&& ~~~ laneMask [l.toNat % 4] ∧ (t.paux (l.toNat / 4)).width =
        (if m &&& (s.port (l.toNat / 4)).lanes = 0 then [(m, some (blockAt s.clk))]
         else (s.paux (l.toNat / 4)).width ++ [(m, none)])) ∧
      t = { s with lanes := t.lanes, ports := t.ports, aux := t.aux }) ∧
  (∀ (s : State) (p : BitVec 6) (i : BitVec 2) (o : PhaseObs), s.on = true → (s.paux p.toNat).sparing = some i.toNat →
    (s.lane (spareOf (4 * p.toNat + i.toNat))).phase = 5 →
    (s.lane (spareOf (4 * p.toNat + i.toNat))).phaseAt + 10000000 ≤ s.clk → fecOk o = true →
    s.clk ≤ (s.paux p.toNat).spareAt + 60000000 →
    ∃ t : State, exec (.spareTrainDone p i o) s = .next t ∧ (t.paux p.toNat).sparing = none ∧
      (t.lane (4 * p.toNat + i.toNat)).spared = true ∧ (t.lane (4 * p.toNat + i.toNat)).failed = false ∧
      t.goalMask p.toNat = s.goalMask p.toNat ||| laneMask [i.toNat] ∧
      t = { s with lanes := t.lanes, ports := t.ports, aux := t.aux, flt := t.flt, cnt := t.cnt }) ∧
  (∀ (s : State) (p : BitVec 6) (i : BitVec 2) (o : PhaseObs), s.on = true → (s.paux p.toNat).sparing = some i.toNat →
    (s.lane (4 * p.toNat + i.toNat)).failed = false → (s.paux p.toNat).spareAt + 60000000 < s.clk →
    ∃ t : State, exec (.spareTrainDone p i o) s = .next t ∧ (t.paux p.toNat).sparing = none ∧
      (t.lane (spareOf (4 * p.toNat + i.toNat))).spared = false ∧
      (t.port p.toNat).sideQ = (s.port p.toNat).sideQ ++
        (if i.toNat ∈ (s.paux p.toNat).spareAsk then [.spareDone i.toNat false] else []) ∧
      t = { s with lanes := t.lanes, ports := t.ports, aux := t.aux }) ∧
  (∀ (s u : State) (p : BitVec 6) (i : BitVec 2) (o : PhaseObs) (l : Nat), s.on = true → l = 4 * p.toNat + i.toNat →
    (s.paux p.toNat).sparing = some i.toNat → (s.lane l).failed = true → (s.paux p.toNat).spareAt + 60000000 < s.clk →
    u = State.answerSpare ((s.setPaux p.toNat { s.paux p.toNat with sparing := none }).setLane (spareOf l)
      { s.lane (spareOf l) with spared := false, phase := 0 }) p.toNat i.toNat false →
    exec (.spareTrainDone p i o) s =
      .next (if (s.paux p.toNat).spareAsk.contains i.toNat then u.fenceLaneFinal l else u.spareElsewhere l)) ∧
  (∀ (s : State) (p : BitVec 6) (ws : List (BitVec 40)) (w : BitVec 40) (i : Nat), sideHeard 5 ws = some w →
    i = bits (wordSb w) 1 0 → s.on = true → (s.port p.toNat).st = .active ∨ (s.port p.toNat).st = .retrain →
    (s.portPeer p.toNat).isSome = true →
    ((s.paux p.toNat).sparing = some i → exec (.spareReq p ws) s = .next (s.setPaux p.toNat { s.paux p.toNat with
      spareAsk := (s.paux p.toNat).spareAsk.filter (· != i) ++ [i] })) ∧
    ((s.paux p.toNat).sparing ≠ some i → ((s.lane (spareOf (4 * p.toNat + i))).spared = true ∨ (s.lane (spareOf (4 * p.toNat + i))).failed = true ∨
      (s.lane (spareOf (4 * p.toNat + i))).fenced = true) →
      exec (.spareReq p ws) s = .next (s.sendSide p.toNat (.spareDone i false))) ∧
    ((s.paux p.toNat).sparing ≠ some i → (s.lane (spareOf (4 * p.toNat + i))).spared = false → (s.lane (spareOf (4 * p.toNat + i))).failed = false →
      (s.lane (spareOf (4 * p.toNat + i))).fenced = false →
      ∃ t : State, exec (.spareReq p ws) s = .next t ∧ (t.paux p.toNat).sparing = some i ∧ i ∈ (t.paux p.toNat).spareAsk ∧
        (t.lane (spareOf (4 * p.toNat + i))).spared = true ∧ (t.lane (spareOf (4 * p.toNat + i))).phase = 1 ∧
        t = { s with lanes := t.lanes, aux := t.aux })) ∧
  (∀ (s : State) (p : BitVec 6) (ws : List (BitVec 40)) (w : BitVec 40) (i : Nat), sideHeard 6 ws = some w →
    i = bits (wordSb w) 1 0 → s.on = true → (s.lane (4 * p.toNat + i)).failed = true →
    (s.lane (4 * p.toNat + i)).fenced = false → (s.paux p.toNat).sparing ≠ some i →
    (bit (wordSb w) 2 = true → ∃ t : State, exec (.spareDone p ws) s = .next t ∧ (t.lane (4 * p.toNat + i)).failed = false ∧
      t.goalMask p.toNat = s.goalMask p.toNat ||| laneMask [i] ∧
      t = { s with lanes := t.lanes, ports := t.ports, aux := t.aux }) ∧
    (bit (wordSb w) 2 = false → exec (.spareDone p ws) s = .next (s.fenceLaneFinal (4 * p.toNat + i)))) ∧
  (∀ (s : State) (l : Nat), (s.port (l / 4)).st = .active →
    ∃ t : State, s.fenceLaneFinal l = t ∧ (t.lane l).fenced = true ∧
      t = { s with lanes := t.lanes, flt := t.flt, cnt := t.cnt, pins := t.pins }) ∧
  (∀ (s : State) (l : Nat), (s.port (l / 4)).st ≠ .active →
    (∀ i, i < s.trainWidth (l / 4) → 4 * (l / 4) + i = l ∨ (s.lane (4 * (l / 4) + i)).fenced = true) →
    s.fenceLaneFinal l = ((s.setLane l { s.lane l with fenced := true, failed := true }).record 2 2 l 0x0103
      (s.goalMask (l / 4)).toNat).fencePort (l / 4) 0x0103 0) ∧
  (∀ (s : State) (p : BitVec 6) (ws : List (BitVec 40)) (w : BitVec 40) (m : BitVec 4), sideHeard 4 ws = some w →
    m = BitVec.ofNat 4 (bits (wordSb w) 3 0) → s.on = true → 
    (s.port p.toNat).st = .active ∨ (s.port p.toNat).st = .retrain →
    ∃ t : State, exec (.widthChange p ws) s = .next t ∧
      (t.paux p.toNat).rxWidth = (s.paux p.toNat).rxWidth ++ [(m, bits (wordSb w) 14 4)] ∧
      t.goalMask p.toNat = m ∧ (t.port p.toNat).rxLanes = (s.port p.toNat).rxLanes ∧
      t = { s with ports := t.ports, aux := t.aux }) ∧
  (∀ (s : State) (p : BitVec 6) (m : BitVec 4) (b : Nat) (l : List (BitVec 4 × Nat)), s.on = true →
    (s.paux p.toNat).rxWidth = (m, b) :: l → (s.rxBlock p.toNat + 2048 - b) % 2048 < 1024 →
    ((s.paux p.toNat).width.head?.bind Prod.snd) = none →
    ∃ t : State, exec (.widthChangeEffective p) s = .next t ∧ t.port p.toNat = { s.port p.toNat with rxLanes := m } ∧
      (t.paux p.toNat).rxWidth = l ∧ t = { s with ports := t.ports, aux := t.aux }) ∧
  (∀ (s : State) (p : BitVec 6) (m : BitVec 4) (b : Nat) (l : List (BitVec 4 × Option Nat)), s.on = true →
    (s.paux p.toNat).width = (m, some b) :: l → b ≤ blockAt s.clk → m ≠ 0 →
    ∃ t : State, exec (.widthChangeEffective p) s = .next t ∧ (t.port p.toNat).lanes = m ∧ (t.paux p.toNat).width = l ∧
      (∀ i, i < 4 → (t.lane (4 * p.toNat + i)).inService = m.getLsbD i) ∧
      t = { s with lanes := t.lanes, ports := t.ports, aux := t.aux })

/-- Training (05 R119 to R121, Table 5.4): a lane's phase ends with READY to the partner and the next phase; phase 6
needs a good PARAM, refused with source 0x0114 and repeated after 100 ms; with the PARAM of every passing lane good
the port enters phase 7 and sends CREDIT_SYNC. A phase over its time limit fails the lane, as do a loopback more
than 50 ps from the calibrated delays and bad codeword results; a spare passes the same phases with nobody told.
Completion: exec answers the next state named, for every state and operands that meet the conditions on them alone,
for trainingPhaseDone, param, paramRepeat, trainingPhaseTimeout. -/
def Obligations.TrainingStepsTaken : Prop :=
  (∀ (s : State) (l : BitVec 9) (o : PhaseObs), l.toNat < 256 → s.mayTrain (l.toNat / 4) = true →
    l.toNat % 4 < s.trainWidth (l.toNat / 4) → (s.lane l.toNat).fenced = false → (s.lane l.toNat).failed = false →
    (s.port (l.toNat / 4)).st ≠ .active → (s.lane l.toNat).phase < 6 → s.phaseOk l.toNat = true →
    s.phasePass l.toNat o = false → exec (.trainingPhaseDone l o) s = .next (s.laneFailed l.toNat)) ∧
  (∀ (s : State) (l : BitVec 9) (o : PhaseObs) (k : Nat), 256 ≤ l.toNat → s.on = true → s.sparedFor l.toNat = some k →
    1 ≤ (s.lane l.toNat).phase → (s.lane l.toNat).phase < 5 → s.phaseOk l.toNat = true → s.phasePass l.toNat o = true →
    exec (.trainingPhaseDone l o) s = .next (State.sendSide (s.setLane l.toNat { s.lane l.toNat with
      phase := (s.lane l.toNat).phase + 1, phaseAt := s.clk, foms := [] }) (k / 4)
        (.ready (k % 4) (s.lane l.toNat).phase))) ∧
  (∀ (s : State) (l : BitVec 9) (o : PhaseObs), l.toNat < 256 → s.mayTrain (l.toNat / 4) = true →
    l.toNat % 4 < s.trainWidth (l.toNat / 4) → (s.lane l.toNat).fenced = false → (s.lane l.toNat).failed = false →
    (s.port (l.toNat / 4)).st ≠ .active → (s.lane l.toNat).phase < 6 → s.phaseOk l.toNat = true →
    s.phasePass l.toNat o = true →
    ∃ t : State, exec (.trainingPhaseDone l o) s = .next t ∧
      t.lane l.toNat = { s.lane l.toNat with phase := (s.lane l.toNat).phase + 1, phaseAt := s.clk, foms := [] } ∧
      (t.port (l.toNat / 4)).sideQ =
        (s.port (l.toNat / 4)).sideQ ++ [.ready (l.toNat % 4) (s.lane l.toNat).phase] ++
          (if (s.lane l.toNat).phase = 5 then [.param (l.toNat % 4)] else []) ∧
      (t.port (l.toNat / 4)).st = (if (s.port (l.toNat / 4)).st = .retrain then .retrain else .training) ∧
      (∀ q, q ≠ l.toNat / 4 → t.port q = s.port q) ∧ (∀ k, k ≠ l.toNat → t.lane k = s.lane k) ∧
      t = { s with lanes := t.lanes, ports := t.ports }) ∧
  (∀ (s : State) (l : BitVec 9) (o : PhaseObs), l.toNat < 256 → s.mayTrain (l.toNat / 4) = true →
    l.toNat % 4 < s.trainWidth (l.toNat / 4) → (s.lane l.toNat).fenced = false → (s.lane l.toNat).failed = false →
    (s.port (l.toNat / 4)).st ≠ .active → (s.lane l.toNat).phase = 6 →
    (∀ i ∈ s.lanesTraining (l.toNat / 4), (s.lane (4 * (l.toNat / 4) + i)).phase = 6 ∧
      (s.lane (4 * (l.toNat / 4) + i)).paramOk = some true) →
    ∃ t : State, exec (.trainingPhaseDone l o) s = .next t ∧
      (∀ i ∈ s.lanesTraining (l.toNat / 4), (t.lane (4 * (l.toNat / 4) + i)).phase = 7) ∧
      (∃ lims, .creditSync (s.port (l.toNat / 4)).e lims ∈ (t.port (l.toNat / 4)).linkQ) ∧
      (t.paux (l.toNat / 4)).refused = false ∧ t = { s with lanes := t.lanes, ports := t.ports, aux := t.aux }) ∧
  (∀ (s : State) (l : BitVec 9) (ws : List (BitVec 40)) (w : BitVec 40), sideHeard 3 ws = some w → s.on = true →
    l.toNat < 256 → (s.lane l.toNat).phase = 6 → bits (wordSb w) 3 0 = 1 → bit (wordSb w) 4 = s.irc.hall →
    (∀ q, s.peerPort (l.toNat / 4) = some q → q = wordPort w) → wordLane w = l.toNat % 4 →
    l.toNat % 4 < bits (wordSb w) 7 5 →
    ∃ t : State, exec (.param l ws) s = .next t ∧ t.lane l.toNat = { s.lane l.toNat with paramOk := some true } ∧
      (t.paux (l.toNat / 4)).partnerW = bits (wordSb w) 7 5 ∧ (t.paux (l.toNat / 4)).badVersion = false ∧
      (t.paux (l.toNat / 4)).refused = (List.range 4).any (fun i =>
        (t.lane (4 * (l.toNat / 4) + i)).paramOk == some false) ∧ t = { s with lanes := t.lanes, aux := t.aux }) ∧
  (∀ (s : State) (l : BitVec 9) (ws : List (BitVec 40)) (w : BitVec 40), sideHeard 3 ws = some w →
    s.on = true → l.toNat < 256 → (s.lane l.toNat).phase = 6 →
    bits (wordSb w) 3 0 ≠ 1 ∨ bit (wordSb w) 4 ≠ s.irc.hall ∨ wordLane w ≠ l.toNat % 4 ∨
      (∃ q, s.peerPort (l.toNat / 4) = some q ∧ q ≠ wordPort w) →
    ∃ t : State, exec (.param l ws) s = .next t ∧ t.lane l.toNat = { s.lane l.toNat with paramOk := some false } ∧
      (t.paux (l.toNat / 4)).refused = true ∧
      (t.paux (l.toNat / 4)).badVersion = decide (bits (wordSb w) 3 0 ≠ 1) ∧ (t.paux (l.toNat / 4)).paramAt = s.clk ∧ t.ports = s.ports ∧
      t = { s with lanes := t.lanes, aux := t.aux, flt := t.flt, cnt := t.cnt }) ∧
  (∀ (s : State) (p : BitVec 6), s.on = true → (s.paux p.toNat).refused = true →
    (s.paux p.toNat).paramAt + 100000000 ≤ s.clk → s.lanesIn p.toNat 6 ≠ [] →
    ∃ t : State, exec (.paramRepeat p) s = .next t ∧ (t.port p.toNat).sideQ =
        (s.port p.toNat).sideQ ++ (s.lanesIn p.toNat 6).map SideMsg.param ∧ (t.paux p.toNat).paramAt = s.clk ∧
      t = { s with ports := t.ports, aux := t.aux }) ∧
  (∀ (s : State) (l : BitVec 9) (n : Nat), s.on = true → l.toNat < 256 → (s.port (l.toNat / 4)).st = .training →
    phaseLimit (s.lane l.toNat).phase = some n → (s.lane l.toNat).phaseAt + n ≤ s.clk →
    ((s.lane l.toNat).phase = 6 → (s.lane l.toNat).paramOk = none) →
    exec (.trainingPhaseTimeout l) s =
      .next ((s.setLane l.toNat { s.lane l.toNat with phase := 0 }).laneFailed l.toNat))

/-- One flit time of an ACTIVE port (05 R134; 07 R180, R181), and the slot boundary before it: a LINK message goes
first, then what is replayed, then a CONTROL message with a credit of VC1, stamped as it leaves, and with nothing to
send IDLE. Violations not yet reported are reported first. Completion: exec answers the next state named, for every
state and operands that meet the conditions on them alone, for transmitFlit, slotBoundary. -/
def Obligations.FlitTimesInOrder : Prop :=
  (∀ (s : State) (p : BitVec 6) (c k : Nat) (sq : BitVec 13) (vc : BitVec 4), s.pins.floating = false →
    (s.port p.toNat).st = .active → (s.port p.toNat).linkQ = [] → (s.paux p.toNat).violSince ≠ 0 → (∀ k, (s.paux p.toNat).violAt = some k → k + 100 ≤ s.clk) →
    (s.paux p.toNat).violLast = (c, sq, vc, k) → ∃ t : State, exec (.transmitFlit p) s = .next t ∧
      (t.port p.toNat).wire.map TxFlit.pay =
        some (.link (.protocolViolation c (min 255 (s.paux p.toNat).violSince) sq vc k)) ∧
      (t.paux p.toNat).violSince = 0 ∧ (t.paux p.toNat).violAt = some s.clk ∧
      t = { s with ports := t.ports, aux := t.aux }) ∧
  (∀ (s : State) (p : BitVec 6) (m : LinkMsg) (l : List LinkMsg), s.pins.floating = false → (s.paux p.toNat).violSince = 0 →
    (s.port p.toNat).st = .active → (s.port p.toNat).linkQ = m :: l → (∀ r, m ≠ .retrainReq r) →
    ∃ t : State, exec (.transmitFlit p) s = .next t ∧ (t.port p.toNat).wire.map TxFlit.pay = some (.link m) ∧
      (t.port p.toNat).linkQ = l ∧ (t.port p.toNat).ctlQ = (s.port p.toNat).ctlQ ∧
      (t.port p.toNat).egress = (s.port p.toNat).egress ∧ (t.port p.toNat).unacked = (s.port p.toNat).unacked ∧
      (∀ q, q ≠ p.toNat → t.port q = s.port q) ∧ t = { s with ports := t.ports }) ∧
  (∀ (s : State) (p : BitVec 6) (u : TxFlit) (l : List TxFlit), s.pins.floating = false → (s.paux p.toNat).violSince = 0 →
    (s.port p.toNat).st = .active → (s.port p.toNat).linkQ = [] → (s.port p.toNat).replay = u :: l →
    ∃ t : State, exec (.transmitFlit p) s = .next t ∧
      (t.port p.toNat).wire.map (fun w => (w.pay, w.vc, w.seq)) = some (u.pay, u.vc, u.seq) ∧
      (t.port p.toNat).replay = l ∧ (t.port p.toNat).egress = (s.port p.toNat).egress ∧
      t.cntAt (aPrt p.toNat + 0x80) = s.cntAt (aPrt p.toNat + 0x80) + 1 ∧
      t = { s with ports := t.ports, cnt := t.cnt, sch := { s.sch with shapers := t.sch.shapers },
                   sol := { s.sol with acc := t.sol.acc } }) ∧
  (∀ (s : State) (p : BitVec 6) (m : CtlMsg) (l : List CtlMsg), s.pins.floating = false → (s.paux p.toNat).violSince = 0 →
    (s.port p.toNat).st = .active → (s.port p.toNat).linkQ = [] → (s.port p.toNat).replay = [] →
    (s.port p.toNat).ctlQ = m :: l → 0 < tget (s.port p.toNat).avail 1 0 → (s.port p.toNat).unacked.length < 4096 →
    ∃ t : State, exec (.transmitFlit p) s = .next t ∧
      (t.port p.toNat).wire.map (fun w => (w.pay, w.vc, w.seq)) = some (.ctl (s.stampCtl p.toNat m).2, 1, (s.port p.toNat).seqNext) ∧
      (t.port p.toNat).seqNext = (s.port p.toNat).seqNext + 1 ∧ (t.port p.toNat).ctlQ = l ∧
      tget (t.port p.toNat).avail 1 0 = tget (s.port p.toNat).avail 1 0 - 1 ∧
      (t.port p.toNat).unacked.length = (s.port p.toNat).unacked.length + 1 ∧
      t = { s with ports := t.ports, irc := { s.irc with reqs := t.irc.reqs }, sol := { s.sol with acc := t.sol.acc } }) ∧
  (∀ (s : State) (p : BitVec 6), s.pins.floating = false → (s.port p.toNat).st = .active →
    (s.paux p.toNat).violSince = 0 → (s.port p.toNat).linkQ = [] → (s.port p.toNat).replay = [] → (s.port p.toNat).ctlQ = [] →
    (s.port p.toNat).egress = [] → s.activeTbl p.toNat = none →
    ∃ t : State, exec (.transmitFlit p) s = .next t ∧ (t.port p.toNat).wire.map TxFlit.pay = some .idle ∧
      (t.port p.toNat).seqNext = (s.port p.toNat).seqNext ∧ (t.port p.toNat).unacked = (s.port p.toNat).unacked ∧
      t = { s with ports := t.ports, sch := { s.sch with shapers := t.sch.shapers } }) ∧
  (∀ (s : State) (p : BitVec 6) (e : Staged), s.pins.floating = false → (s.port p.toNat).st = .active →
    (s.paux p.toNat).violSince = 0 →
    (s.port p.toNat).linkQ = [] → (s.port p.toNat).replay = [] → (s.port p.toNat).ctlQ = [] →
    (s.port p.toNat).egress = [e] → e.frame.vc = 0 → e.frame.hdr.sched = false → e.tail = none → e.sent < e.avail →
    s.activeTbl p.toNat = none → (s.port p.toNat).unacked.length < 4096 → 0 < tget (s.port p.toNat).avail 0 0 →
    ∃ t : State, exec (.transmitFlit p) s = .next t ∧
      (t.port p.toNat).wire.map (fun w => (w.pay, w.vc, w.seq)) =
        some (.data e.frame e.id e.sent none, 0, (s.port p.toNat).seqNext) ∧
      (t.port p.toNat).egress = (if frameFlits e.frame ≤ e.sent + 1 then [] else [{ e with sent := e.sent + 1 }]) ∧
      tget (t.port p.toNat).avail 0 0 = tget (s.port p.toNat).avail 0 0 - 1 ∧
      t = { s with ports := t.ports, cnt := t.cnt, sch := { s.sch with shapers := t.sch.shapers },
                   sol := { s.sol with acc := t.sol.acc } }) ∧
  (∀ (s : State) (p : BitVec 6) (t : SlotTbl), s.on = true → s.activeTbl p.toNat = some t → t.start ≤ s.now →
    exec (.slotBoundary p) s = .next { s with sch := { s.sch with
      slot := tset s.sch.slot p.toNat (slotAt t s.now) } })

/-- Time exchanges (04 R77, R79 to R82): TIME_REQ to each neighbour every 16,384 ns, its T1 stamped as it leaves; one
received is answered with its SEQ and T1 and with T2; every stamp is taken at the ball, the lane's delay taken off;
a TIME_RESP counts only with the SEQ of the request outstanding, θ is ((T4 − T3) − (T2 − T1)) / 2 and the path delay
((T4 − T1) − (T3 − T2)) / 2. In HOLDOVER an exchange within 500 ps locks again and one beyond is time FAULT; ACQUIRE
becomes LOCKED with the mean of eight within 250 ps. Completion: exec answers the next state named, for every state
and operands that meet the conditions on them alone, for timeReqSend, transmitFlit, timeReq, timeResp. -/
def Obligations.TimeExchanges : Prop :=
  (∀ s : State, s.on = true → s.irc.state ≠ .fault → s.clk % 16384 = 0 →
    ∃ t : State, exec .timeReqSend s = .next t ∧
      (∀ p ∈ s.timePorts, ∃ m : TimeMsg, (t.port p).ctlQ = (s.port p).ctlQ ++ [.timeReq m] ∧
        m.locked = (s.irc.state == .locked) ∧ m.master = s.irc.master ∧ m.source = BitVec.ofNat 15 s.addr) ∧
      (∀ p, p ∉ s.timePorts → t.port p = s.port p) ∧
      t = { s with ports := t.ports, irc := { s.irc with reqSeq := t.irc.reqSeq } }) ∧
  (∀ (s : State) (p : BitVec 6) (m : TimeMsg) (l : List CtlMsg) (t1 : Int), s.pins.floating = false →
    (s.port p.toNat).st = .active → (s.paux p.toNat).violSince = 0 → (s.port p.toNat).linkQ = [] →
    (s.port p.toNat).replay = [] → (s.port p.toNat).ctlQ = .timeReq m :: l → 0 < tget (s.port p.toNat).avail 1 0 →
    (s.port p.toNat).unacked.length < 4096 → t1 = s.unitsNow - psUnits (txDelay (s.stampLane p.toNat)) →
    ∃ t : State, exec (.transmitFlit p) s = .next t ∧
      (t.port p.toNat).wire.map TxFlit.pay = some (.ctl (.timeReq { m with t1 := countOf t1 })) ∧
      tfind t.irc.reqs p.toNat = some { seq := m.seq, t1 := t1 } ∧
      (∀ q, q ≠ p.toNat → tfind t.irc.reqs q = tfind s.irc.reqs q)) ∧
  (∀ (s : State) (p : BitVec 6) (m : TimeMsg), s.on = true → s.irc.state ≠ .fault → s.timePort p.toNat = true →
    m.locked = false →
    ∃ (t : State) (r : TimeMsg), exec (.timeReq p m) s = .next t ∧
      t.port p.toNat = { s.port p.toNat with ctlQ := (s.port p.toNat).ctlQ ++ [.timeResp r] } ∧
      r.seq = m.seq ∧ r.t1 = m.t1 ∧ r.t2 = s.rxStamp (s.stampRxLane p.toNat) ∧ r.locked = (s.irc.state == .locked) ∧
      tfind t.irc.peers p.toNat = some
        { addr := m.source.toNat, hops := m.hops.toNat, locked := false, candidate := m.candidate.toNat,
          heard := s.clk, delay := ((tfind s.irc.peers p.toNat).map (fun q => q.delay)).getD 0 } ∧
      t = { s with ports := t.ports, irc := { s.irc with
        peers := t.irc.peers, hops := t.irc.hops, parent := t.irc.parent, masterAddr := t.irc.masterAddr,
        noMasterAt := t.irc.noMasterAt, cands := t.irc.cands, gone := t.irc.gone } }) ∧
  (∀ (s : State) (p : BitVec 6) (m : TimeMsg) (r : TimeOut), tfind s.irc.reqs p.toNat = some r →
    r.seq ≠ m.seq → exec (.timeResp p m) s = .next s) ∧
  (∀ (s u v : State) (p : BitVec 6) (m : TimeMsg) (r : TimeOut) (th d t4 : Int), s.on = true →
    tfind s.irc.reqs p.toNat = some r → r.seq = m.seq → s.irc.hall = false → s.irc.master = false → s.irc.state ≠ .fault →
    v = State.hear { s with irc := { s.irc with reqs := tdel s.irc.reqs p.toNat } } p.toNat m →
    t4 = cUnits (s.rxStamp (s.stampRxLane p.toNat)) → d = ((t4 - r.t1) - (cUnits m.t3 - cUnits m.t2)) / 2 →
    u = { v with irc := { v.irc with
      peers := v.irc.peers.map (fun e => if e.1 = p.toNat then (p.toNat, { e.2 with delay := d }) else e) } } →
    m.locked = true → m.hops ≠ 0xFF → th = ((t4 - cUnits m.t3) - (cUnits m.t2 - r.t1)) / 2 →
    (u.irc.parent ≠ m.source.toNat ∨ u.irc.hops = 0xFF → exec (.timeResp p m) s = .next u) ∧
    (u.irc.parent = m.source.toNat → u.irc.hops ≠ 0xFF → s.irc.state = .holdover → absLe th 32768 = true →
      ∃ t : State, exec (.timeResp p m) s = .next t ∧ t.irc.state = .locked ∧ t.irc.slew = th ∧ t.irc.rate = th ∧
        t.pins.barLow = (s.pins.barLow || s.pins.barFor.isNone) ∧
        t = { u with
          irc := { u.irc with
            state := .locked, offsets := t.irc.offsets, lastExch := s.clk, slew := th, rate := th, rateOver := t.irc.rateOver },
          pins := { u.pins with barLow := t.pins.barLow } }) ∧
    (u.irc.parent = m.source.toNat → u.irc.hops ≠ 0xFF → s.irc.state = .holdover → absLe th 32768 = false →
      ∃ t : State, exec (.timeResp p m) s = .next t ∧ t.irc.state = .fault ∧ t.sys.outOfService = true ∧
        t.pins.barLow = false) ∧
    (u.irc.parent = m.source.toNat → u.irc.hops ≠ 0xFF → s.irc.state = .acquire → s.irc.offsets.length = 7 →
      absLe ((s.irc.offsets ++ [th]).foldl (· + ·) 0 / 8) 16384 = true →
      ∃ t : State, exec (.timeResp p m) s = .next t ∧ t.irc.state = .locked) ∧
    (u.irc.parent = m.source.toNat → u.irc.hops ≠ 0xFF → s.irc.state = .free →
      ∃ t : State, exec (.timeResp p m) s = .next t ∧ t.irc.state = .acquire ∧
        t.unitsNow = (s.unitsNow - th).toNat % (65536 * 2 ^ 64)))

/-- Master, lock states and PPS (04 R77, R78, R88, Table 4.3, Table 4.6): the lowest candidate is master after 2 s with
none; one that hears no LOCKED neighbour for 2 s starts from zero; 100 µs without an exchange is HOLDOVER with
source 0x0201, and 10 ms of it time FAULT, which aborts the collectives of every context in use; a PPS edge sets the
count in hall mode and PPS_OUT is high for 1,000 ns from each second on. Completion: exec answers the next state
named, for every state and operands that meet the conditions on them alone, for masterElection, selfStart, ppsIn,
ppsOut, holdoverEntry, holdoverExpiry. -/
def Obligations.MasterAndLockStates : Prop :=
  (∀ s v : State, v = s.reparent → s.brass = true → v.masterKnown = false → v.irc.noMasterAt + 2000000000 ≤ s.clk →
    v.candidate = s.addr → s.irc.state = .free →
    exec .masterElection s = .next { v with irc := { v.irc with
      master := true, hops := 0, parent := 0, masterAddr := s.addr, slew := 0 } }) ∧
  (∀ s v : State, v = s.reparent → s.brass = true → v.masterKnown = false → v.irc.noMasterAt + 2000000000 ≤ s.clk →
    v.candidate = s.addr →
    s.irc.state = .locked ∨ s.irc.state = .holdover ∨ (s.irc.state = .acquire ∧ s.irc.ppsSecond = none) →
    v.irc.masterAddr ∈ s.flt.lost ++ s.irc.gone →
    exec .masterElection s = .next { v with
      irc := { v.irc with
        master := true, hops := 0, parent := 0, masterAddr := s.addr, slew := 0, state := .locked },
      pins := { s.pins with barLow := s.pins.barLow || s.pins.barFor.isNone } }) ∧
  (∀ s v : State, v = s.reparent → s.brass = true → v.masterKnown = false → v.irc.noMasterAt + 2000000000 ≤ s.clk →
    v.candidate = s.addr →
    s.irc.state = .acquire → s.irc.ppsSecond.isSome = true → v.irc.masterAddr ∈ s.flt.lost ++ s.irc.gone →
    exec .masterElection s = .next { v with irc := { v.irc with
      master := true, hops := 0, parent := 0, masterAddr := s.addr, slew := 0 } }) ∧
  (∀ s : State, s.on = true → s.irc.master = true → s.irc.state = .free → s.irc.noLockedAt + 2000000000 ≤ s.clk →
    s.irc.hall = false →
    exec .selfStart s = .next { s with
      irc := { s.irc with count := 0, frac := 0, state := .locked },
      pins := { s.pins with barLow := s.pins.barLow || s.pins.barFor.isNone } }) ∧
  (∀ s : State, s.on = true → s.irc.master = true → s.irc.state = .free → s.irc.noLockedAt + 2000000000 ≤ s.clk →
    s.irc.hall = true →
    exec .selfStart s = .next { s with irc := { s.irc with state := .acquire, ppsSecond := some 0 } }) ∧
  (∀ (s : State) (n : Nat), s.on = true → s.irc.hall = true → s.irc.ppsSecond = some n → s.irc.master = false →
    exec .ppsIn s = .next { s with irc := { s.irc with
      count := n % 2 ^ 64, frac := 0, ppsSecond := none, offsets := [], slew := 0, ppsSeen := true,
      ppsCap := BitVec.ofNat 32 (n % 2 ^ 64) } }) ∧
  (∀ s : State, s.on = true → s.irc.hall = true → s.irc.ppsSecond = none → s.irc.master = false →
    exec .ppsIn s = .next { s with irc := { s.irc with ppsSeen := true, ppsCap := BitVec.ofNat 32 s.irc.count } }) ∧
  (∀ s : State, s.on = true → bit (s.cfgAt (aIrc + 0x18)).toNat 1 = true → s.now % 1000000000 = 0 →
    exec .ppsOut s = .next { s with pins := { s.pins with ppsOutAt := some s.clk } }) ∧
  (∀ (s : State) (k : Nat), s.pins.ppsOutAt = some k → (s.tick.ppsOutHigh = true ↔ s.clk + 1 < k + 1000)) ∧
  (∀ s : State, s.on = true → s.irc.state = .locked → s.irc.master = false → s.irc.lastExch + 100000 ≤ s.clk →
    exec .holdoverEntry s = .next (State.bump (State.record { s with irc := { s.irc with
      state := .holdover, holdAt := s.clk, rateAcc := 0 } } 0 0 0 0x0201 0) (aIrc + 0x24) 1)) ∧
  (∀ s : State, s.on = true → s.irc.state = .holdover → s.irc.holdAt + 10000000 ≤ s.clk →
    ∃ t : State, exec .holdoverExpiry s = .next t ∧ t.irc.state = .fault ∧ t.sys.outOfService = true ∧
      t.pins.barLow = false ∧ (∀ p, p < 64 → (t.port p).st ≠ .active ∧ (t.port p).st ≠ .retrain) ∧
      (∀ x, (s.ctx x).st ≠ .free → (t.ctx x).aborts = (noteAbort (s.ctx x).aborts s.now s.addr false).1) ∧
      t = { s with irc := t.irc, pins := t.pins, flt := t.flt, cnt := t.cnt, ports := t.ports, lanes := t.lanes, aux := t.aux,
                   ctxs := t.ctxs, sol := t.sol, sch := t.sch, sys := { s.sys with outOfService := true } })

/-- Launches and late launches (04 R91, R93, R94, R96): at its count a collective starts, unless a stop of it is due; a
LATE_NOTICE not seen yet is flooded on and sets the stop count D + 20,000 ns on its collective; at the stop count
one waiting in the launch queue ends with LATE_LAUNCH, and the members of a descriptor refused here as late get
their records. A Fixus that is neither LOCKED nor in HOLDOVER launches nothing (R84). The barrier (04 R97 to R101):
a ready Fixus releases BAR_N before B − 1,000 ns and one not ready holds it low; a low level at B cancels the arm;
the line is pulled low again at B + 1,000 ns; after a high barrier the count steps at C and the command completes
with OK. A Fixus that is neither LOCKED nor in HOLDOVER takes no part (R99). Completion: exec answers the next state
named, for every state and operands that meet the conditions on them alone, for launch, lateNotice, lateLaunchStop,
barrierRelease, barrierSample, barrierPullLow, stepCorrection. -/
def Obligations.LaunchesAndBarrier : Prop :=
  (∀ (s : State) (k : Nat) (c : Coll), s.on = true → s.switchFirst = false → s.timeGood = true → s.slots = [(k, c)] → c.launched = false →
    c.heldAt = none → c.launch ≤ s.now → s.stopFirst c = false → exec .launch s = .next (s.startColl k c)) ∧
  (∀ s : State, s.timeGood = false ∨ (∀ e ∈ s.slots, e.2.launched = true ∨ s.now < e.2.launch) → exec .launch s = .next s) ∧
  (∀ (s : State) (p : BitVec 6) (n n' : LateNotice), s.on = true → (s.ctx n.ctx.toNat).st ≠ .free →
    (s.ctx n.ctx.toNat).gen = n.gen.toNat →
    (∀ e ∈ (s.ctx n.ctx.toNat).lates, e.1 ≠ (n.collId.toNat, n.launch.toNat)) →
    n' = (if p.toNat < 32 then { n with source := BitVec.ofNat 15 s.addr } else n) →
    ∃ t : State, exec (.lateNotice p n) s = .next t ∧
      t.ctx n.ctx.toNat = { s.ctx n.ctx.toNat with
        lates := (s.ctx n.ctx.toNat).lates ++ [((n.collId.toNat, n.launch.toNat), n.d.toNat)] } ∧
      (∀ q ∈ s.floodPorts (some p.toNat), CtlMsg.lateNotice n' ∈ (t.port q).ctlQ) ∧
      (∀ (k : Nat) (c : Coll), s.coll k = some c → dCtx c.desc = n.ctx.toNat → dId c.desc = n.collId.toNat →
        c.launch = n.launch.toNat → t.coll k = some { c with
          stopAt := some (min (n.d.toNat + 20000) (c.stopAt.getD (n.d.toNat + 20000))) }) ∧
      t = { s with ctxs := t.ctxs, ports := t.ports, slots := t.slots, queue := t.queue }) ∧
  (∀ (s : State) (p : BitVec 6) (n n' : LateNotice), s.on = true →
    (s.ctx n.ctx.toNat).st = .free ∨ (s.ctx n.ctx.toNat).gen ≠ n.gen.toNat →
    n' = (if p.toNat < 32 then { n with source := BitVec.ofNat 15 s.addr } else n) →
    exec (.lateNotice p n) s = .next (s.passOn (some p.toNat)
      [0, n.ctx.toNat, n.gen.toNat, n.collId.toNat, n.launch.toNat] n.d.toNat 20000 (.lateNotice n'))) ∧
  (∀ (s : State) (o : Option Nat) (key : List Nat) (d w : Nat) (m : CtlMsg),
    ((∃ e ∈ s.flt.passed, e.1 = key ∧ e.2 ≤ d ∧ d ≤ e.2 + w) → s.passOn o key d w m = s) ∧
    ((∀ e ∈ s.flt.passed, e.1 = key → d < e.2 ∨ e.2 + w < d) →
      ∃ t : State, s.passOn o key d w m = t ∧ (∀ q ∈ s.floodPorts o, m ∈ (t.port q).ctlQ) ∧ (key, d) ∈ t.flt.passed ∧
        t = { s with ports := t.ports, flt := { s.flt with passed := t.flt.passed } })) ∧
  (∀ (s : State) (c : Coll) (n : Nat), s.on = true → s.switchFirst = false → s.slots = [] → s.queue = [c] →
    s.lateDescs = [] → c.stopAt = some n → n ≤ s.now → c.isDecided = false →
    exec .lateLaunchStop s = .next (s.stopQueued c stLateLaunch n)) ∧
  (∀ (s : State) (d : List Byte), s.on = true → s.switchFirst = false → s.slots = [] → s.queue = [] → s.lateDescs = [d] →
    s.lateAt d ≤ s.now → (s.ctx (dCtx d)).st ≠ .free → (s.ctx (dCtx d)).gen = dGen d →
    exec .lateLaunchStop s = .next (State.writeRecords { s with lateDescs := [] } d (stopRecord d stLateLaunch (s.lateAt d)))) ∧
  (∀ (s : State) (a : Arm), s.brass = true → s.sch.arms = [a] → s.sch.step = none → a.released = false →
    a.sampled = false → s.epochReady a.epoch = true → s.now + 1000 < s.armB a → s.pins.barFor = none →
    exec .barrierRelease s = .next { s with
      sch := { s.sch with arms := [{ a with released := true, ready := true }] },
      pins := { s.pins with barLow := false, barFor := some (s.armB a) } }) ∧
  (∀ (s : State) (a : Arm), s.brass = true → s.timeGood = true → s.sch.arms = [a] → s.sch.step = none →
    a.sampled = false → s.epochReady a.epoch = false → s.now + 1000 < s.armB a → s.pins.barFor = none →
    exec .barrierRelease s = .next { s with
      sch := { s.sch with arms := [{ a with released := false, ready := false }] },
      pins := { s.pins with barLow := true } }) ∧
  (∀ (s : State) (high : Bool), s.timeGood = false → exec .barrierRelease s = .next s ∧
    exec (.barrierSample high) s = .next s ∧ exec .barrierPullLow s = .next s) ∧
  (∀ (s : State) (a : Arm) (high : Bool), s.brass = true → s.timeGood = true → s.sch.arms = [a] → s.sch.step = none → a.sampled = false →
    s.armB a ≤ s.now →
    ∃ t : State, exec (.barrierSample high) s = .next t ∧
      t.sch.arms = [{ a with sampled := true, cancelled := a.cancelled || !(high && !s.pins.barLow) }] ∧
      (high = true → s.pins.barLow = false → t.ports = s.ports) ∧
      (high = false → s.multiCell = true → ∀ q ∈ s.floodPorts none, ∃ m : EpochMsg,
        CtlMsg.epochCancel m ∈ (t.port q).ctlQ ∧ m.epoch = BitVec.ofNat 16 a.epoch) ∧
      t = { s with sch := { s.sch with arms := t.sch.arms, cancels := t.sch.cancels }, ports := t.ports,
                   pins := { s.pins with barFor := if s.pins.barLow then some (s.armB a) else s.pins.barFor } }) ∧
  (∀ (s : State) (a : Arm) (b : Nat), s.brass = true → s.timeGood = true → s.sch.arms = [a] → s.sch.step = none →
    a.sampled = true → s.pins.barFor = some b → b + 1000 ≤ s.now →
    exec .barrierPullLow s = .next { s with pins := { s.pins with barLow := true, barFor := none } }) ∧
  (∀ (s : State) (r : StepReq), s.brass = true → s.sch.step = some r → r.ok = some true → r.c ≤ s.now →
    exec .stepCorrection s = .next (State.complete { s with
      irc := { s.irc with count := (s.irc.count + r.delta).toNat % 2 ^ 64 }, sch := { s.sch with step := none } }
      r.cmd rOk 0 []))

/-- Epoch switches (04 R101 to R105; 07 R188; 14 R407): EPOCH_CANCEL before the decision cancels and is flooded on once,
and after it is class D for the contexts and nothing else; a barrier that was high decides the switch and sends
EPOCH_GO, one that was not ends it CANCELLED; at S the ARMED tables of the epoch become ACTIVE; EPOCH_INFO makes a
joining Fixus know the epoch, and its tables start at a whole period. Completion: exec answers the next state named,
for every state and operands that meet the conditions on them alone, for epochCancel, epochDecision, epochSwitch,
epochInfo, epochJoinActivate. -/
def Obligations.EpochSwitchCommands : Prop :=
  (∀ (s : State) (p : BitVec 6) (m : EpochMsg) (a : Arm), s.on = true → s.sch.arms = [a] → sameArm m a = true →
    a.decided = false → s.now + 10000 ≤ m.s.toNat → (m.ctx.toNat, m.epoch.toNat, m.s.toNat) ∉ s.sch.cancels →
    ∃ t : State, exec (.epochCancel p m) s = .next t ∧ t.sch.arms = [{ a with cancelled := true }] ∧
      t.sch.cancels = s.sch.cancels ++ [(m.ctx.toNat, m.epoch.toNat, m.s.toNat)] ∧
      (∀ q ∈ s.floodPorts (some p.toNat), CtlMsg.epochCancel m ∈ (t.port q).ctlQ) ∧
      t = { s with sch := { s.sch with arms := t.sch.arms, cancels := t.sch.cancels }, ports := t.ports }) ∧
  (∀ (s : State) (p : BitVec 6) (m : EpochMsg) (x : Nat) (c : Ctx), s.on = true → m.s.toNat < s.now + 10000 →
    s.ctxs = [(x, c)] → c.st ≠ .free →
    exec (.epochCancel p m) s = .next (s.record 1 1 x 0x0203 m.epoch.toNat)) ∧
  (∀ (s : State) (a : Arm), s.brass = true → s.sch.arms = [a] → a.decided = false → a.s ≤ s.now + 10000 →
    a.sampled = true → a.cancelled = false → a.released = true →
    ∃ t : State, exec .epochDecision s = .next t ∧ t.sch.arms = [{ a with decided := true }] ∧
      (∀ q p, q < 16 → s.kth (accPorts q) 0 = some p → ∃ m : EpochMsg, CtlMsg.epochGo m ∈ (t.port p).ctlQ ∧
        m.epoch = BitVec.ofNat 16 a.epoch ∧ m.s = BitVec.ofNat 64 a.s) ∧
      t = { s with sch := { s.sch with arms := t.sch.arms }, ports := t.ports }) ∧
  (∀ (s : State) (a : Arm), s.brass = true → s.sch.arms = [a] → a.decided = false → a.s ≤ s.now + 10000 →
    a.cancelled = true → s.slots = [] → s.queue = [] → a.cmd = none →
    ∃ t : State, exec .epochDecision s = .next t ∧ t.sch.arms = [] ∧
      (∀ k, (tget s.sch.tbls k SlotTbl.init).st = .armed → (tget s.sch.tbls k SlotTbl.init).epoch = a.epoch →
        (tget t.sch.tbls k SlotTbl.init).st = .ready) ∧
      t = { s with sch := { s.sch with arms := [], tbls := t.sch.tbls } }) ∧
  (∀ (s : State) (a : Arm), s.on = true → s.sch.arms = [a] → a.decided = true → a.s ≤ s.now → a.cmd = none →
    ∃ t : State, exec .epochSwitch s = .next t ∧ t.sch.arms = [] ∧
      (∀ k, (tget s.sch.tbls k SlotTbl.init).st = .armed → (tget s.sch.tbls k SlotTbl.init).epoch = a.epoch →
        (tget t.sch.tbls k SlotTbl.init).st = .active ∧ (tget t.sch.tbls k SlotTbl.init).start = a.s) ∧
      (∃ r ∈ t.sch.epochs, r.ctx = a.ctx ∧ r.epoch = a.epoch ∧ r.s = a.s) ∧
      t = { s with sch := { s.sch with arms := [], tbls := t.sch.tbls, slot := t.sch.slot, epochs := t.sch.epochs } }) ∧
  (∀ (s : State) (p : BitVec 6) (m : EpochMsg), s.on = true → s.sch.epochs = [] →
    ∃ t : State, exec (.epochInfo p m) s = .next t ∧
      t.sch.epochs = [{ ctx := m.ctx.toNat, epoch := m.epoch.toNat, s := m.s.toNat, len := m.len.toNat, joining := true }] ∧
      (∀ k, (tget s.sch.tbls k SlotTbl.init).st = .ready → (tget s.sch.tbls k SlotTbl.init).epoch = m.epoch.toNat →
        (tget t.sch.tbls k SlotTbl.init).st = .armed) ∧
      t = { s with sch := { s.sch with epochs := t.sch.epochs, tbls := t.sch.tbls } }) ∧
  (∀ (s : State) (r : EpochRec) (k : Nat), s.on = true → s.sch.epochs = [r] → r.joining = true →
    (∀ j, (tget s.sch.tbls j SlotTbl.init).st = .armed → j = k) → (tget s.sch.tbls k SlotTbl.init).st = .armed →
    (tget s.sch.tbls k SlotTbl.init).epoch = r.epoch → (s.sch.tbls.map Prod.fst).Nodup →
    firstPeriod r.s r.len ((tget s.sch.tbls k SlotTbl.init).at_ + 1000) ≤ s.now →
    ∃ t : State, exec .epochJoinActivate s = .next t ∧ (tget t.sch.tbls k SlotTbl.init).st = .active ∧
      (tget t.sch.tbls k SlotTbl.init).start = firstPeriod r.s r.len ((tget s.sch.tbls k SlotTbl.init).at_ + 1000) ∧
      t.sch.epochs = [{ r with joining := false }] ∧
      t = { s with sch := { s.sch with tbls := t.sch.tbls, slot := t.sch.slot, epochs := t.sch.epochs } })

/-- FRAME_INGRESS (06 R147, R148, R151, Table 6.4): a frame that fails a check is dropped whole and counted under its
reason; a contribution for this Fixus is queued for the contribution network that leads to Bronze (02 R47), and one
for another Fixus for the port of its next hop, with HOPS one less and one cell for each flit. A frame that comes
whole needs the credits of its cells (05 R129). Completion: exec answers the next state named, for every state and
operands that meet the conditions on them alone, for frameIngress. -/
def Obligations.FrameIngressChecksAndQueues : Prop :=
  (∀ (s : State) (p : BitVec 6) (f : Frame) (r : Nat), s.on = true → (s.port p.toNat).st = .active →
    (∀ x ∈ (s.paux p.toNat).asm, x.vc = f.vc.toNat → x.taken = true) →
    s.mayCome p.toNat f = true → State.ingressFail (s.heardFrom f) p.toNat (hopDown f) = some r →
    ∃ t : State, exec (.frameIngress p f) s = .next t ∧ 1 ≤ r ∧ r ≤ 6 ∧
      t.cntAt (aSld + 0x40 + 4 * (r - 1)) = s.cntAt (aSld + 0x40 + 4 * (r - 1)) + 1 ∧
      t = { s with ports := t.ports, aux := t.aux, cnt := t.cnt, flt := t.flt, pins := t.pins,
                   sol := { s.sol with nextId := s.sol.nextId + 1, cells := t.sol.cells } }) ∧
  (∀ (s : State) (p : BitVec 6) (f : Frame) (outs : List Nat), s.on = true → (s.port p.toNat).st = .active →
    (∀ x ∈ (s.paux p.toNat).asm, x.vc = f.vc.toNat → x.taken = true) →
    s.mayCome p.toNat f = true → s.ingressFail p.toNat (hopDown f) = none → f.hdr.ftype.toNat = ftContrib → f.hdr.mcast = 0 →
    (f.hdr.dest.toNat = s.addr → s.fromAbandoned p.toNat (hopDown f) = false) →
    s.sol.queues.length < 262144 → (∀ x ∈ s.sol.descWait, x.inp ≠ p.toNat ∨ x.frame.vc ≠ f.vc) →
    outs = (if f.hdr.dest.toNat = s.addr then [netPoint] else (s.route (hopDown f)).toList) →
    ∃ t : State, exec (.frameIngress p f) s = .next t ∧
      t.sol.queues = s.sol.queues ++ [
        { inp := p.toNat, outs := outs, mc := false, frame := hopDown f, id := s.sol.nextId,
          cells := cdiv f.hdr.frameLen.toNat 240, passed := [], since := s.sol.arrivals,
          noRoute := if outs = [] then some s.clk else none, sent := false, noCredit := none, atUnit := none }] ∧
      (∀ k, k < cdiv f.hdr.frameLen.toNat 240 →
        tfind t.sol.cells (64 * s.sol.nextId + k) = some { inp := p.toNat, vc := f.vc.toNat, copies := 1 }) ∧
      tget (t.port p.toNat).rxHeld f.vc.toNat 0 =
        tget (s.port p.toNat).rxHeld f.vc.toNat 0 + cdiv f.hdr.frameLen.toNat 240 ∧
      t = { s with ports := t.ports, sol := { s.sol with
              queues := t.sol.queues, nextId := s.sol.nextId + 1, arrivals := s.sol.arrivals + 1, cells := t.sol.cells } }) ∧
  (∀ (s : State) (p : BitVec 6) (f : Frame), s.on = true → (s.port p.toNat).st = .active →
    (∀ x ∈ (s.paux p.toNat).asm, x.vc = f.vc.toNat → x.taken = true) →
    s.mayCome p.toNat f = true → s.ingressFail p.toNat (hopDown f) = none → f.hdr.ftype.toNat = ftContrib → f.hdr.mcast = 0 →
    f.hdr.dest.toNat = s.addr → s.fromAbandoned p.toNat (hopDown f) = true →
    ∃ t : State, exec (.frameIngress p f) s = .next t ∧
      (∀ k, 64 * s.sol.nextId ≤ k → k < 64 * s.sol.nextId + 64 → tfind t.sol.cells k = none) ∧
      t = { s with ports := t.ports, aux := t.aux, cnt := t.cnt, sol := { s.sol with
              nextId := s.sol.nextId + 1, cells := t.sol.cells } })

/-- Waiting frames (06 R154, R160, R165, R169): a free descriptor or free cells go to the first frame that waits for
them; a frame without a route takes a port that lives again, and is dropped after SLD_NO_ROUTE_WAIT; one without
credit for SLD_ESC_WAIT moves to VC15. Completion: exec answers the next state named, for every state and operands
that meet the conditions on them alone, for frameDescriptorFree, noRouteWait, escapeMove, bufferGrant. -/
def Obligations.WaitingFramesMove : Prop :=
  (∀ (s : State) (q : QEnt), s.on = true → s.sol.queues.length < 262144 →
    s.sol.descWait.find? (fun x => s.sol.cells.any (fun e => e.1 / 64 == x.id) &&
      (s.sol.descWait.find? (fun y => y.inp == x.inp && y.frame.vc == x.frame.vc)) == some x) = some q →
    exec .frameDescriptorFree s = .next { s with sol := { s.sol with
      queues := insertSince q s.sol.queues, descWait := s.sol.descWait.erase q } }) ∧
  (∀ (s : State) (q : QEnt) (t0 o : Nat), s.on = true → s.sol.queues = [q] → q.noRoute = some t0 →
    s.route q.frame = some o →
    ∃ t : State, exec .noRouteWait s = .next t ∧ t.sol.queues = [{ q with outs := [o], noRoute := none }] ∧
      t = { s with sol := { s.sol with queues := t.sol.queues, lastSpray := t.sol.lastSpray } }) ∧
  (∀ (s : State) (q : QEnt) (t0 : Nat), s.on = true → s.sol.queues = [q] → q.noRoute = some t0 →
    s.route q.frame = none → t0 + (s.cfgAt (aSld + 0x1C)).toNat ≤ s.clk →
    exec .noRouteWait s = .next (State.dropFrame { s with sol := { s.sol with queues := [] } } q.inp q.frame q.id 3)) ∧
  (∀ (s : State) (q : QEnt) (t0 o o' : Nat), s.on = true → s.sol.queues = [q] → q.mc = false → q.outs = [o] → o < 64 →
    q.frame.hdr.spray = true → tget (s.port o).avail q.frame.vc.toNat 0 = 0 → q.noCredit = some t0 → q.passed = [] →
    q.frame.hdr.ftype.toNat = ftData → q.frame.hdr.esc = false → 10 ≤ q.frame.vc.toNat → q.frame.vc.toNat ≤ 13 →
    t0 + (s.cfgAt (aSld + 0x10)).toNat ≤ s.clk →
    s.choose { q.frame with vc := 15, hdr := { q.frame.hdr with esc := true } } = some o' →
    0 < tget (s.port o').avail 15 0 → (∀ x ∈ s.sol.descWait, x.inp ≠ q.inp ∨ x.frame.vc ≠ 15) →
    ∃ t : State, exec .escapeMove s = .next t ∧
      t.sol.queues = [{ q with frame := { q.frame with vc := 15, hdr := { q.frame.hdr with esc := true } },
                               outs := [o'], noCredit := none, since := s.sol.arrivals }] ∧
      t.cntAt (aSld + 0x38) = s.cntAt (aSld + 0x38) + 1 ∧
      t = { s with cnt := t.cnt, sol := { s.sol with queues := t.sol.queues, arrivals := s.sol.arrivals + 1 } }) ∧
  (∀ (s : State) (r : PoolReq) (q : QEnt), s.on = true → tget s.sol.waits 0 [] = [r] → s.cellsFor r.owner r.n = true →
    s.sol.descWait.find? (fun x => x.id == r.tag) = some q → s.sol.queues.length < 262144 →
    (∀ x ∈ s.sol.descWait.erase q, x.inp = q.inp → x.frame.vc = q.frame.vc → q.since ≤ x.since) →
    exec (.bufferGrant 0) s = .next { s with sol := { s.sol with
      waits := tset s.sol.waits 0 [],
      cells := storeCells q.inp q.frame.vc.toNat q.id (max 1 q.outs.length) q.cells 0 s.sol.cells,
      queues := insertSince q s.sol.queues, descWait := s.sol.descWait.erase q } }) ∧
  (∀ (s : State) (k : BitVec 3) (r : PoolReq), s.on = true → k = 1 ∨ k = 2 →
    (tget s.sol.waits k.toNat []).find? (fun x => s.mayServe k.toNat x) = some r →
    ((k = 1 ∧ r.tag % 4 ≠ 2) ∨ (k = 2 ∧ r.tag % 4 ≠ 1) → exec (.bufferGrant k) s = .next (s.unwait k.toNat r.tag)) ∧
    (∀ i, s.findColl (r.tag / 4 / 2 ^ 32) (r.tag / 4 % 2 ^ 32) = some i →
      (k = 1 → r.tag % 4 = 2 → exec (.bufferGrant k) s = .next ((s.unwait 1 r.tag).progress i)) ∧
      (k = 2 → r.tag % 4 = 1 → exec (.bufferGrant k) s = .next (s.restage i r.tag))))

/-- CELL_TIME_MATCH (06 R161, R162) with one unicast frame waiting: where its output may take a cell, the cell crosses
and is staged at the port, and a frame of one cell leaves its queue. TELEMETRY_SAMPLE (06 R174, Table 6.12): one
sample for each port at a count that is a multiple of 1,000 ns, once. What the code of a cell finds (06 R148, R156):
a word that it corrects is counted and recorded as 0x0301, one that it cannot as 0x0302. Completion: exec answers
the next state named, for every state and operands that meet the conditions on them alone, for cellTimeMatch,
telemetrySample. -/
def Obligations.CellTimesAndTelemetry : Prop :=
  (∀ (s : State) (q : QEnt) (o : Nat), s.on = true → s.sol.queues = [q] → q.mc = false → q.outs = [o] → o < 64 →
    q.inp < 80 → q.cells = 1 → q.passed = [] → q.noCredit = none → s.offers q o = true →
    (∀ e ∈ (s.port o).egress, e.id ≠ q.id) →
    ∃ t : State, exec (.cellTimeMatch []) s = .next t ∧ t.sol.queues = [] ∧
      (t.port o).egress.map (fun e => (e.frame, e.id, e.inp, e.avail, e.sent, e.tail)) =
        (s.port o).egress.map (fun e => (e.frame, e.id, e.inp, e.avail, e.sent, e.tail)) ++
          [(q.frame, q.id, q.inp, 1, 0, none)] ∧
      (∀ p, p ≠ o → t.port p = s.port p) ∧
      t = { s with ports := t.ports, sch := { s.sch with shapers := t.sch.shapers, wfqF := t.sch.wfqF },
                   sol := { s.sol with
                     queues := [], vcOwner := t.sol.vcOwner, gptr := t.sol.gptr, aptr := t.sol.aptr,
                     acc := t.sol.acc } }) ∧
  (∀ (s : State) (k : Nat) (c : Cell), s.on = true → s.sol.queues = [] → tfind s.sol.cells k = some c →
    ∃ t : State, exec (.cellTimeMatch [(k, false)]) s = .next t ∧
      t.cntAt (aSld + 0x34) = s.cntAt (aSld + 0x34) + 1 ∧
      t = { (s.bump (aSld + 0x34) 1).record 0 0 0 0x0301 s.free.1 with freeCtr := s.freeCtr + 1 }) ∧
  (∀ (s : State) (k : Nat) (c : Cell), s.on = true → s.sol.queues = [] → tfind s.sol.cells k = some c →
    s.frameOf (k / 64) = none → s.sol.ues.length < 15 →
    ∃ t : State, exec (.cellTimeMatch [(k, true)]) s = .next t ∧ s.clk ∈ t.sol.ues ∧
      t = { s with freeCtr := s.freeCtr + 1, flt := t.flt, cnt := t.cnt, sol := { s.sol with ues := t.sol.ues } }) ∧
  (∀ s : State, s.sol.telemAt = some s.now → exec .telemetrySample s = .next s) ∧
  (∀ s : State, s.on = true → s.now % 1000 = 0 → s.sol.telemAt ≠ some s.now →
    ∃ t : State, exec .telemetrySample s = .next t ∧
      (∀ p, p < 64 → tfind t.sol.telem (64 * p + s.sol.telemPos) = some { tget s.sol.acc p Sample.init with
        count := s.now % 2 ^ 32, rxHeld := (s.port p).rxHeld.foldl (fun n e => n + e.2) 0 }) ∧
      (∀ k, (∀ p, p < 64 → k ≠ 64 * p + s.sol.telemPos) → tfind t.sol.telem k = tfind s.sol.telem k) ∧
      t = { s with sol := { s.sol with telem := t.sol.telem, telemPos := (s.sol.telemPos + 1) % 64,
                                       telemAt := some s.now, acc := [] } })

/-- Flows (06 R167 to R172, Table 6.9): FLOW_GRANT lets an OPEN flow spray and FLOW_DENY makes it SINGLE; FLOW_CLOSE
frees the receive entry once all is delivered and is acknowledged; the acknowledgement frees the send entry; an idle
flow closes; a receive entry goes after 500,000 ns; a gap that runs out is skipped and the frames behind it are
released. A message for another Fixus goes on along its escape path. Completion: exec answers the next state named,
for every state and operands that meet the conditions on them alone, for flowGrant, flowDeny, flowClose,
flowCloseAck, flowIdle, receiveFlowTimeout, gapExpiry. -/
def Obligations.FlowCommands : Prop :=
  (∀ (s : State) (p : BitVec 6) (m : FlowMsg), s.on = true → m.target.toNat ≠ s.addr →
    exec (.flowGrant p m) s = .next (s.sendCtlTo m.target.toNat (.flowGrant m)) ∧
    exec (.flowDeny p m) s = .next (s.sendCtlTo m.target.toNat (.flowDeny m)) ∧
    exec (.flowClose p m) s = .next (s.sendCtlTo m.target.toNat (.flowClose m)) ∧
    exec (.flowCloseAck p m) s = .next (s.sendCtlTo m.target.toNat (.flowCloseAck m))) ∧
  (∀ (s : State) (p : BitVec 6) (m : FlowMsg) (k : Nat) (e : Flow), s.on = true → m.target.toNat = s.addr →
    s.msgFlow false m = some (k, e) →
    (e.st = .sOpen → exec (.flowGrant p m) s = .next (s.setFlow k { e with st := .sSpray, last := s.clk }) ∧
      exec (.flowDeny p m) s = .next (s.setFlow k { e with st := .sSingle, last := s.clk })) ∧
    (e.st = .sClosing → e.waiting = [] → exec (.flowCloseAck p m) s = .next (s.delFlow k))) ∧
  (∀ (s : State) (p : BitVec 6) (m : FlowMsg) (k : Nat) (e : Flow), s.on = true → m.target.toNat = s.addr →
    s.msgFlow true m = some (k, e) →
    (e.held = [] → e.num = (m.last.toNat + 1) % 65536 →
      ∃ t : State, exec (.flowClose p m) s = .next t ∧ tfind t.sol.flows k = none ∧
        (∀ j, j ≠ k → tfind t.sol.flows j = tfind s.sol.flows j) ∧
        t.ports = (s.sendCtlTo (homeOf e.src) (.flowCloseAck (flowMsg s (homeOf e.src) e 0))).ports ∧
        t = { s with ports := t.ports, sol := { s.sol with flows := t.sol.flows } }) ∧
    (e.held ≠ [] → exec (.flowClose p m) s = .next (s.setFlow k { e with close := some m.last.toNat }))) ∧
  (∀ (s : State) (k : Nat) (e : Flow), s.on = true → s.sol.flows = [(k, e)] → e.last + (s.cfgAt (aSld + 0x14)).toNat ≤ s.clk →
    (e.st = .sSpray → exec .flowIdle s = .next (State.sendCtlTo (s.setFlow k { e with st := .sClosing }) (homeOf e.dest)
      (.flowClose (flowMsg s (homeOf e.dest) e ((e.num + 65535) % 65536))))) ∧
    (e.st = .sSingle → exec .flowIdle s = .next (s.delFlow k))) ∧
  (∀ (s : State) (k : Nat) (e : Flow), s.on = true → s.sol.flows = [(k, e)] → e.st = .rOpen → e.close = none →
    e.last + 500000 ≤ s.clk → e.held = [] → exec .receiveFlowTimeout s = .next (s.delFlow k)) ∧
  (∀ (s : State) (k id t0 n : Nat) (e : Flow) (f : Frame), s.on = true → s.sol.flows = [(k, e)] → e.gap = some t0 →
    t0 + (s.cfgAt (aSld + 0x18)).toNat ≤ s.clk → e.held = [(f, id)] → e.close = none → e.num < 65536 →
    f.hdr.dest.toNat ≠ s.addr →
    n = (f.hdr.flowSeq.toNat + 65536 - e.num) % 65536 →
    ∃ t : State, exec .gapExpiry s = .next t ∧
      tfind t.sol.flows k = some { e with num := (f.hdr.flowSeq.toNat + 1) % 65536, held := [], gap := none } ∧
      t.cntAt (aSld + 0x2C) = s.cntAt (aSld + 0x2C) + n ∧
      (∃ q, q.frame = f ∧ q.id = id ∧ (q ∈ t.sol.queues ∨ q ∈ t.sol.descWait)) ∧
      t = { s with cnt := t.cnt, flt := t.flt, pins := t.pins, sol := { s.sol with
              flows := t.sol.flows, queues := t.sol.queues, descWait := t.sol.descWait, arrivals := s.sol.arrivals + 1 } })

/-- Contributions and partials (08 R226; 09 R241, R249; 14 R409): a frame of no collective held here is dropped and
counted; one that is awaited joins its segment of its node, which takes the engines of R230, after which the
collective progresses; the first of a segment waits while pool 1 has no staging buffer for it, and its frame with it
(06 R165). Lateness (09 R250, R251; 11 Table 11.9): the inputs missing when a segment's budget runs out are
abandoned for the rest of the collective, with the node's outputs LATE and source 0x0404 in the context; a kernel's
root abandons the members missing. Completion: exec answers the next state named, for every state and operands that
meet the conditions on them alone, for contribReceive, partialReceive, lateBudgetExpiry. -/
def Obligations.InputsJoinOrAreAbandoned : Prop :=
  (∀ (s v : State) (p : BitVec 6) (f : Frame) (ecc : List (BitVec 4 × BitVec 20 × Bool)), s.on = true →
    s.notYet f = false → v = s.accErrors ecc → v.findColl f.hdr.ctx.toNat f.hdr.collId.toNat = none →
    (∃ t : State, exec (.contribReceive p f ecc) s = .next t ∧ t.cntAt (aFlt + 0x80) = v.cntAt (aFlt + 0x80) + 1 ∧
      t.cntAt (aFlt + 0xA0) = v.cntAt (aFlt + 0xA0) + 1 ∧
      t = { v with cnt := t.cnt, ports := t.ports, sol := { s.sol with
              queues := t.sol.queues, cells := t.sol.cells, vcOwner := t.sol.vcOwner } }) ∧
    (∃ t : State, exec (.partialReceive p f ecc) s = .next t ∧ t.cntAt (aFlt + 0x88) = v.cntAt (aFlt + 0x88) + 1 ∧
      t.cntAt (aFlt + 0xA0) = v.cntAt (aFlt + 0xA0) + 1 ∧
      t = { v with cnt := t.cnt, ports := t.ports, sol := { s.sol with
              queues := t.sol.queues, cells := t.sol.cells, vcOwner := t.sol.vcOwner } })) ∧
  (∀ (s v : State) (p : BitVec 6) (f : Frame) (ecc : List (BitVec 4 × BitVec 20 × Bool)) (k r ni g : Nat) (c : Coll) (n : Node) (sg : Seg), s.on = true → v = s.accErrors ecc →
    v.findColl f.hdr.ctx.toNat f.hdr.collId.toNat = some k → v.coll k = some c →
    (v.membersOf c.desc).findIdx? (fun a => a == f.hdr.src.toNat) = some r →
    c.nodes.findIdx? (fun n => n.stage == .loc) = some ni → c.nodes[ni]? = some n →
    0 < segBytes (dCfmt c.desc) → f.hdr.offset.toNat = g * segBytes (dCfmt c.desc) → g < segCount c.desc →
    tget n.segs g Seg.init = sg → sg.done = false → sg.spilled = [] → s.notYet f = false →
    Src.rank r ∉ n.abandoned →
    (∀ i ∈ sg.ins, i.src ≠ .rank r) → c.launched = false →
    (∀ e ∈ v.enginesOf c.desc n g sg, segAccs c.desc g ≤ v.accFree e) →
    ∃ u : State, exec (.contribReceive p f ecc) s = .next (u.progress k) ∧
      u.coll k = some (c.setNode ni { n with segs := tset n.segs g { sg with
        ins := sg.ins ++ [contribIn c.desc r g (v.takeQueued f).2 f], start := some (sg.start.getD v.now),
        first := some (sg.first.getD v.now), engines := v.enginesOf c.desc n g sg } }) ∧
      (∀ j, j ≠ k → u.coll j = v.coll j) ∧ u.cntAt (aFlt + 0x80) = v.cntAt (aFlt + 0x80) + 1 ∧
      u = { v with slots := u.slots, cnt := u.cnt, flt := u.flt, pins := u.pins, sol := { v.sol with
              queues := u.sol.queues, vcOwner := u.sol.vcOwner, waits := u.sol.waits } }) ∧
  (∀ (s : State) (k ni g : Nat) (c : Coll) (n : Node), s.coll k = some c → c.nodes[ni]? = some n →
    s.segStaging (waitTag (dCtx c.desc) (dId c.desc) 2) = false →
    s.completeSeg k ni g = s.waitPool 1 { owner := 64, n := 1, tag := waitTag (dCtx c.desc) (dId c.desc) 2 }) ∧
  (∀ (s v : State) (p : BitVec 6) (f : Frame) (ecc : List (BitVec 4 × BitVec 20 × Bool)) (k ni g x : Nat) (c : Coll) (n : Node) (sg : Seg), s.on = true → v = s.accErrors ecc →
    v.findColl f.hdr.ctx.toNat f.hdr.collId.toNat = some k → v.coll k = some c → v.isMirror c.desc = false →
    c.nodes.findIdx? (fun n => n.inputs.any (fun e => e.1 == .group (p.toNat / 4))) = some ni → c.nodes[ni]? = some n →
    n.inputs.find? (fun e => e.1 == .group (p.toNat / 4)) = some (.group (p.toNat / 4), x) →
    0 < partialBytes (dCfmt c.desc) → f.hdr.offset.toNat = g * partialBytes (dCfmt c.desc) → g < segCount c.desc →
    tget n.segs g Seg.init = sg → sg.done = false → sg.spilled = [] → s.notYet f = false →
    Src.group (p.toNat / 4) ∉ n.abandoned →
    (∀ i ∈ sg.ins, i.src ≠ .group (p.toNat / 4)) → c.launched = false →
    (∀ e ∈ v.enginesOf c.desc n g sg, segAccs c.desc g ≤ v.accFree e) →
    ∃ u : State, exec (.partialReceive p f ecc) s = .next (u.progress k) ∧
      u.coll k = some (c.setNode ni { n with segs := tset n.segs g { sg with
        ins := sg.ins ++ [partialIn c.desc (.group (p.toNat / 4)) x g (v.takeQueued f).2 f],
        start := some (sg.start.getD v.now),
        first := some (sg.first.getD v.now), engines := v.enginesOf c.desc n g sg } }) ∧
      (∀ j, j ≠ k → u.coll j = v.coll j) ∧ u.cntAt (aFlt + 0x88) = v.cntAt (aFlt + 0x88) + 1 ∧
      u = { v with slots := u.slots, cnt := u.cnt, flt := u.flt, pins := u.pins, sol := { v.sol with
              queues := u.sol.queues, vcOwner := u.sol.vcOwner, waits := u.sol.waits } }) ∧
  (∀ (s : State) (k ni : Nat) (ks : List Src) (c : Coll) (n : Node), s.on = true → s.expired = some (k, ni, ks) →
    s.coll k = some c → c.nodes[ni]? = some n → (∀ x ∈ ks, x ∉ n.abandoned) →
    ∃ u : State, exec .lateBudgetExpiry s = .next (u.progress k) ∧
      u.coll k = some (c.setNode ni { n with
        abandoned := n.abandoned ++ ks, late := true,
        segs := tmap n.segs (fun _ e => { e with ins := e.ins.filter (fun i => !ks.contains i.src) }) }) ∧
      (∀ j, j ≠ k → u.coll j = s.coll j) ∧
      u = { s with slots := u.slots, flt := u.flt, cnt := u.cnt, pins := u.pins, ports := u.ports,
                   sol := { s.sol with cells := u.sol.cells } }) ∧
  (∀ (s : State) (k : Nat) (c : Coll), s.on = true → s.expired = none → s.kernelExpired = some (k, c) →
    ∃ u : State, exec .lateBudgetExpiry s = .next (u.kernelTry k) ∧
      u.coll k = some { c with kern := some { c.kern.getD Kernel.init with
        abandoned := (List.range (s.membersOf c.desc).length).filter (fun r =>
          (tfind (c.kern.getD Kernel.init).rows r).isNone) } } ∧
      u = { s with slots := u.slots, flt := u.flt, cnt := u.cnt, pins := u.pins })

/-- Returns and records at a home and at the root (08 R216, R220; 10 R284 to R286): a RETURN frame counts once for its
OFFSET; a record is kept until every byte is there; RETURN_DONE marks its home; RETURN_RESEND of 0xFFFF_FFFF sends
the record again, any other OFFSET the frame that holds it; a message for another owner goes on toward it.
Completion: exec answers the next state named, for every state and operands that meet the conditions on them alone,
for returnReceive, completionReceive, returnDone, returnResend. -/
def Obligations.ReturnsAndRecords : Prop :=
  (∀ (s : State) (p : BitVec 6) (f : Frame) (k : Nat) (c : Coll) (h h' : Home), s.on = true → s.notYet f = false →
    s.findColl f.hdr.ctx.toNat f.hdr.collId.toNat = some k → s.coll k = some c → h = c.home.getD Home.init →
    s.myUnits c.desc ≠ [] → (∀ e ∈ h.got, e.1 ≠ f.hdr.offset.toNat) → h.record = none →
    h' = { h with got := h.got ++ (s.myUnits c.desc).map (fun u => (f.hdr.offset.toNat, u, f.payload.length)) } →
    s.inPlace c.desc h' = false →
    ∃ t : State, exec (.returnReceive p f) s = .next t ∧
      t.coll k = some { c with home := some h' } ∧
      (∀ j, j ≠ k → t.coll j = s.coll j) ∧
      t = { s with slots := t.slots, ports := t.ports, sol := { s.sol with
              queues := t.sol.queues, cells := t.sol.cells, vcOwner := t.sol.vcOwner } }) ∧
  (∀ (s : State) (p : BitVec 6) (f : Frame) (k : Nat) (c : Coll) (h : Home), s.on = true → f.hdr.ts.toNat % 256 = 1 →
    s.notYet f = false →
    s.findColl f.hdr.ctx.toNat f.hdr.collId.toNat = some k → s.coll k = some c → h = c.home.getD Home.init →
    s.myMembers c.desc ≠ [] → h.written = false →
    (s.returns c.desc (BitVec.ofNat 16 (fld (f.payload.take 64) 56 2)) (s.newValues (f.payload.take 64) c.desc) = true ∨
      h.got ≠ []) → s.inPlace c.desc h = false →
    ∃ t : State, exec (.completionReceive p f) s = .next t ∧
      t.coll k = some { c with home := some { h with record := some (f.payload.take 64) } } ∧
      (∀ j, j ≠ k → t.coll j = s.coll j) ∧
      t = { s with slots := t.slots, ports := t.ports, sol := { s.sol with
              queues := t.sol.queues, cells := t.sol.cells, vcOwner := t.sol.vcOwner } }) ∧
  (∀ (s : State) (p : BitVec 6) (m : ReturnMsg), s.on = true → m.target.toNat ≠ s.addr →
    exec (.returnDone p m) s = .next (s.sendCtlTo m.target.toNat (.returnDone m)) ∧
    exec (.returnResend p m) s = .next (s.sendCtlTo m.target.toNat (.returnResend m))) ∧
  (∀ (s : State) (p : BitVec 6) (m : ReturnMsg) (k a : Nat) (c : Coll) (r : Ret), s.on = true → m.target.toNat = s.addr →
    s.findColl m.ctx.toNat m.collId.toNat = some k → s.coll k = some c → c.ret = some r → m.source.toNat ∉ r.homes →
    a ∈ s.homesDue c.desc → a ∉ r.homes → a ≠ m.source.toNat → a ≠ s.addr →
    exec (.returnDone p m) s = .next (s.setColl k { c with ret := some { r with
      homes := r.homes ++ [m.source.toNat] } })) ∧
  (∀ (s : State) (p : BitVec 6) (m : ReturnMsg) (k : Nat) (c : Coll) (r : List Byte), s.on = true →
    m.target.toNat = s.addr → m.offset = 0xFFFFFFFF → s.findColl m.ctx.toNat m.collId.toNat = some k →
    s.coll k = some c → c.record = some r →
    exec (.returnResend p m) s = .next (s.sendFrame 78 (Frame.mk 14
      (s.hdr m.source.toNat ftCompletion (dCtx c.desc) (dGen c.desc) (dId c.desc) 0 1 false 0 64) r))) ∧
  (∀ (s : State) (p : BitVec 6) (m : ReturnMsg) (k : Nat) (c : Coll) (r : Ret) (bs : List Byte), s.on = true →
    m.target.toNat = s.addr → m.offset ≠ 0xFFFFFFFF → s.findColl m.ctx.toNat m.collId.toNat = some k →
    s.coll k = some c → c.ret = some r → isKernel (dKind c.desc) = false →
    bs = (r.image.drop m.offset.toNat).take (returnChunk (dRfmt c.desc)) → bs ≠ [] →
    exec (.returnResend p m) s = .next (s.sendFrame (s.returnPoint (dCtx c.desc) (dId c.desc) m.offset.toNat)
      (s.returnFrame c c.frozenVer m.source.toNat 0 (m.offset.toNat / returnChunk (dRfmt c.desc)) bs))) ∧
  (∀ (s : State) (p : BitVec 6) (m : ReturnMsg) (k : Nat) (c : Coll) (r : Ret), s.on = true →
    m.target.toNat = s.addr → m.offset ≠ 0xFFFFFFFF → s.findColl m.ctx.toNat m.collId.toNat = some k →
    s.coll k = some c → c.ret = some r → isKernel (dKind c.desc) = true →
    exec (.returnResend p m) s = .next (s.resendResult c r.image m.offset.toNat m.source.toNat))

/-- Kernel frames (11 R305, R309 to R311): the pieces of a lookup image and of a converted row gather by OFFSET at the
root; a home converts what its member sends and sends it to the root; a result is written to the members homed here;
a REQUANT of an Ingot array is converted whole. A piece whose operands wait for a buffer of Solder stays where it
was (06 R164). Completion: exec answers the next state named, for every state and operands that meet the conditions
on them alone, for lookupReceive, sourceReceive, convertedReceive, resultReceive, conversionDone. -/
def Obligations.KernelFramesTaken : Prop :=
  (∀ (s : State) (p : BitVec 6) (f : Frame), s.steelNotYet f = true →
    exec (.lookupReceive p f) s = .next s ∧ exec (.sourceReceive p f) s = .next s ∧
    exec (.convertedReceive p f) s = .next s ∧ exec (.resultReceive p f) s = .next s) ∧
  (∀ (s v : State) (p : BitVec 6) (f : Frame) (k : Nat) (c : Coll) (j : Kernel), s.on = true → s.steelNotYet f = false →
    v = (s.takeQueued f).1.dropFrom (s.takeQueued f).2 0 →
    s.findColl f.hdr.ctx.toNat f.hdr.collId.toNat = some k → s.coll k = some c → dKind c.desc = kGather →
    s.iAmRoot c.desc = true → c.decided = none → (s.membersOf c.desc)[ksRank f]? = some f.hdr.src.toNat →
    tfind (c.kern.getD Kernel.init).rows (ksRank f) = none →
    j = (c.kern.getD Kernel.init).take (ksRank f) f.hdr.offset.toNat f.payload s.now →
    (∀ (pool : Nat) (r : PoolReq), v.operandWait c.desc (c.kern.getD Kernel.init) j = some (pool, r) →
      exec (.lookupReceive p f) s = .next (s.waitPool pool r)) ∧
    (v.operandWait c.desc (c.kern.getD Kernel.init) j = none → (j.joined (ksRank f)).length < 4 →
      ∃ t : State, exec (.lookupReceive p f) s = .next t ∧ t.coll k = some { c with kern := some j } ∧
      (∀ i, i ≠ k → t.coll i = s.coll i) ∧
      t = { s with slots := t.slots, ports := t.ports, sol := { s.sol with
              queues := t.sol.queues, cells := t.sol.cells, vcOwner := t.sol.vcOwner, waits := t.sol.waits } })) ∧
  (∀ (s : State) (p : BitVec 6) (f : Frame) (k r e0 : Nat) (c : Coll) (u : State) (vs : List Fv), s.on = true →
    s.steelNotYet f = false →
    s.findColl f.hdr.ctx.toNat f.hdr.collId.toNat = some k → s.coll k = some c → dKind c.desc = kRequant →
    fld c.desc 66 2 = 0 → (s.membersOf c.desc).findIdx? (fun a => a == f.hdr.src.toNat) = some r →
    e0 = (if isMx (dCfmt c.desc) then f.hdr.offset.toNat / blockBytes (dCfmt c.desc) * 32
      else f.hdr.offset.toNat / elemBytes (dCfmt c.desc)) → e0 < dElements c.desc → s.iAmRoot c.desc = false →
    vs = (decodeArr (dCfmt c.desc) f.payload).take (dElements c.desc - e0) →
    u = ((s.takeQueued f).1.dropFrom (s.takeQueued f).2 0).setColl k { c with kern := some (c.kern.getD Kernel.init) } →
    exec (.sourceReceive p f) s = .next (u.sendFrame (u.kernelFrom (arrayBytes (kOfmt c.desc) e0)) (u.kernelFrame c 4 (kOfmt c.desc) r
      (r / partRows c.desc (s.membersOf c.desc).length) (s.rootOf c.desc) (arrayBytes (kOfmt c.desc) e0)
      (encodeArr (kOfmt c.desc) (givenScale c.desc) vs)))) ∧
  (∀ (s v : State) (p : BitVec 6) (f : Frame) (k : Nat) (c : Coll) (j : Kernel), s.on = true → s.steelNotYet f = false →
    v = (s.takeQueued f).1.dropFrom (s.takeQueued f).2 0 → j.partFail = 0 →
    v.operandWait c.desc j (j.take (ksRank f) f.hdr.offset.toNat f.payload s.now) = none →
    s.findColl f.hdr.ctx.toNat f.hdr.collId.toNat = some k → s.coll k = some c → dKind c.desc = kRequant →
    s.iAmRoot c.desc = true → c.decided = none → f.hdr.src.toNat = s.addr →
    j = c.kern.getD Kernel.init → tfind j.rows (ksRank f) = none → ksRank f ∉ j.abandoned →
    ksRank f < (s.membersOf c.desc).length → (∀ e ∈ tget j.got (ksRank f) [], e.1 ≠ f.hdr.offset.toNat) →
    ((j.take (ksRank f) f.hdr.offset.toNat f.payload s.now).joined (ksRank f)).length <
      arrayBytes (kOfmt c.desc) (dElements c.desc) → fld c.desc 66 2 = 0 →
    ∃ (t : State) (i : Kernel), exec (.convertedReceive p f) s = .next t ∧ t.coll k = some { c with kern := some i } ∧
      i.got = (j.take (ksRank f) f.hdr.offset.toNat f.payload s.now).got ∧ i.rows = j.rows ∧ i.served = j.served ∧
      i.nonfin = j.nonfin + (((decodeArr (kOfmt c.desc) f.payload).take (dElements c.desc -
        (if isMx (kOfmt c.desc) then f.hdr.offset.toNat / blockBytes (kOfmt c.desc) * 32
         else f.hdr.offset.toNat / elemBytes (kOfmt c.desc)))).filter Fv.isNonfin).length ∧
      t = { s with slots := t.slots, ports := t.ports, sol := { s.sol with
              queues := t.sol.queues, cells := t.sol.cells, vcOwner := t.sol.vcOwner, waits := t.sol.waits } }) ∧
  (∀ (s : State) (p : BitVec 6) (f : Frame) (k : Nat) (c : Coll) (u : State), s.on = true →
    s.steelNotYet f = false → u = (s.takeQueued f).1.dropFrom (s.takeQueued f).2 0 →
    s.findColl f.hdr.ctx.toNat f.hdr.collId.toNat = some k → s.coll k = some c →
    exec (.resultReceive p f) s = .next (
      if dKind c.desc ≠ kGather ∧ 48 ≤ p.toNat ∧ addrSw (s.rootOf c.desc) = s.pins.sw
      then u.spreadResult k (ksPart f) f.hdr.offset.toNat f.payload (s.rootOf c.desc)
      else u.homeResult k (ksRank f) (ksPart f) f.hdr.offset.toNat f.payload)) ∧
  (∀ (s : State) (k : Nat) (c : Coll) (bs : List Byte), s.on = true → s.relocks = false →
    (s.pointOn 72 = true ∨ s.pointOn 73 = true) → s.firstConversion = some (k, c) →
    (c.kern.getD Kernel.init).partFail = 0 →
    bs = (s.operandMat c (fld c.desc 66 2)).2.flatMap (encodeArr (kOfmt c.desc) (givenScale c.desc)) →
    ∃ (u : State) (j : Kernel), exec .conversionDone s = .next (State.kernelDecide
        (u.writeRows (dCtx c.desc) (fld c.desc 68 2) 0 bs) k 0) ∧
      u = s.setColl k { c with kern := some j } ∧ j.rows = [(0, bs)] ∧
      j.nonfin = nonfinIn (kOfmt c.desc) (((s.operandMat c (fld c.desc 66 2)).2.headD []).length) bs) ∧
  (∀ s : State, s.relocks = true ∨ (s.pointOn 72 = false ∧ s.pointOn 73 = false) → exec .conversionDone s = .next s)

/-- The start of an update (10 R267, R271 to R274): a tensor that is LOST ends it FENCED and one whose LAST_STEP is not
STEP − 1 ends it STEP_GAP, both counted; otherwise PENDING_STEP is set, the update takes the committed arrays, and a
non-finite gradient or a FROZEN tensor leaves the state unchanged. Completion: exec answers the next state named,
for every state and operands that meet the conditions on them alone, for updateStart. -/
def Obligations.UpdateStarts : Prop :=
  ∀ (s : State) (k : Nat) (c : Coll) (r : Root) (t : Tensor) (e : List Byte), s.on = true →
    s.firstUpdate = some (k, c) → r = c.root.getD Root.init → s.tensor (dCtx c.desc) (dTensor c.desc) = some t →
    (dCtx c.desc, dId c.desc) ∈ s.pwt.ready → s.pwt.upd = none → t.ver.resync = false →
    e = applyPend t.entry (dStep c.desc) →
    (t.ver.lost = true →
      ∃ u : State, exec .updateStart s = .next (u.settle k (addCond r.conds stFenced) 0 0 r.nfRank none 0) ∧
        u.cntAt (aPwt + 0x20) = s.cntAt (aPwt + 0x20) + 1 ∧
        u = { s with pwt := { s.pwt with ready := u.pwt.ready }, tensors := u.tensors, cnt := u.cnt }) ∧
    (t.ver.lost = false → (s.ctx (dCtx c.desc)).planFenced = false → tFrozen e = false → tResume e = false →
      t.ver.lastStep ≠ (dStep c.desc + 2 ^ 32 - 1) % 2 ^ 32 →
      ∃ u : State, exec .updateStart s = .next (u.settle k (addCond r.conds stStepGap) 0 0 r.nfRank none 0) ∧
        u.cntAt (aPwt + 0x1C) = s.cntAt (aPwt + 0x1C) + 1 ∧
        u = { s with pwt := { s.pwt with ready := u.pwt.ready }, tensors := u.tensors, cnt := u.cnt }) ∧
    (t.ver.lost = false → (s.ctx (dCtx c.desc)).planFenced = false →
      (tFrozen e = true ∨ tResume e = true ∨ t.ver.lastStep = (dStep c.desc + 2 ^ 32 - 1) % 2 ^ 32) →
      ∃ (u : State) (v : Update), exec .updateStart s = .next u.tryPages ∧ u.pwt.upd = some v ∧
        v.ctx = dCtx c.desc ∧ v.cid = dId c.desc ∧ v.phase = .pages ∧ v.w = t.w ∧ v.m1 = t.m1 ∧ v.m2 = t.m2 ∧
        v.changes = (!tFrozen e && (!r.conds.getLsbD 6 || tZero e)) ∧ v.setStep = !tFrozen e ∧
        u.tensor (dCtx c.desc) (dTensor c.desc) = some { t with entry := e, ver := { t.ver with pending := dStep c.desc } } ∧
        (dCtx c.desc, dId c.desc) ∉ u.pwt.ready ∧
        v.tag = s.free.1 ∧
        u = { s with pwt := { s.pwt with upd := some v, ready := u.pwt.ready }, tensors := u.tensors,
                     freeCtr := s.freeCtr + 1 })

/-- The end of a pass (10 R263, R269, R275, R460; 12 R341): the new arrays are finished, or a non-finite one leaves the
committed state unchanged and ends NONFINITE, and the base dies get the command of an IMAGE pass (12 R340); a lost
state ends FENCED; the image pass of a FETCH, which needs the pages of its image, is decided and returned at once.
Completion: exec answers the next state named, for every state and operands that meet the conditions on them alone,
for passDone. -/
def Obligations.PassesEnd : Prop :=
  (∀ (s : State) (r : PassReport) (u v : Update) (k : Nat) (c : Coll) (t : Tensor), s.on = true → r.fetch = false →
    s.pwt.upd = some u → u.phase = .rule ∨ u.phase = .pass2 ∨ u.phase = .image →
    s.findColl u.ctx u.cid = some k → s.coll k = some c → s.tensor u.ctx (dTensor c.desc) = some t →
    r.failParts = 0 → u.partFail = 0 → r.stateLost = false → t.ver.lost = false →
    v = passResult c.desc t.entry t u →
    (v.nonfin = false → v.phase = .finished ∧
      exec (.passDone r) s = .next (State.freePages { s with pwt := { s.pwt with upd := none, finished := s.pwt.finished ++ [v] } }
        (tempArea u.ctx u.cid))) ∧
    (v.nonfin = true → ∃ (x : State) (y : Update), exec (.passDone r) s = .next x ∧ x.pwt.upd = some y ∧
      y.phase = .image ∧ y.changes = false ∧ y.conds = addCond v.conds stNonfinite ∧ x.pwt.cmd.headD 0 = 6 ∧
      x = { s with pwt := { s.pwt with upd := some y, cmd := x.pwt.cmd }, ing := { s.ing with
              pages := x.ing.pages, poison := x.ing.poison, maps := x.ing.maps } })) ∧
  (∀ (s : State) (r : PassReport) (u : Update) (k : Nat) (c : Coll) (t : Tensor), s.on = true → r.fetch = false →
    s.pwt.upd = some u → u.phase = .rule → s.findColl u.ctx u.cid = some k → s.coll k = some c →
    s.tensor u.ctx (dTensor c.desc) = some t → r.stateLost = true → r.failParts = 0 → u.partFail = 0 →
    ∃ x : State, exec (.passDone r) s = .next (x.settle k (addCond u.conds stFenced) 0 0 u.lowest none 0) ∧
      (x.tensor u.ctx (dTensor c.desc)).map (fun t => t.ver.lost) = some true ∧ x.pwt.upd = none ∧
      x = { s with pwt := { s.pwt with upd := none }, tensors := x.tensors, cnt := x.cnt, ing := { s.ing with
              pages := x.ing.pages, poison := x.ing.poison, maps := x.ing.maps } }) ∧
  (∀ (s : State) (r : PassReport) (ctx cid k : Nat) (l : List (Nat × Nat)) (c : Coll) (t : Tensor), s.on = true →
    r.fetch = true → s.pwt.fetches = (ctx, cid) :: l → s.findColl ctx cid = some k → s.coll k = some c →
    s.tensor ctx (dTensor c.desc) = some t → (s.ctx ctx).planFenced = false → r.stateLost = false → t.ver.lost = false →
    r.failParts = 0 → s.fetchReady = true → c.memberLost = false →
    ∃ x : State, exec (.passDone r) s = .next (x.settle k 0 (imageDigest (dRfmt c.desc) c.wImage) 0 0xFFFF
        (some (imageOf (dRfmt c.desc) c.wImage)) c.frozenVer) ∧
      x = { s with pwt := { s.pwt with fetches := l }, ing := { s.ing with
              pages := x.ing.pages, poison := x.ing.poison, maps := x.ing.maps } })

/-- Steel (11 R293, R296 to R300, R307): the free arrays take the ready job that is first, and each cluster of its tiles
works at its share; each product of a Newton–Schulz iteration is followed by the next, and the last by pass 2; a
part of a MATMUL writes its rows and counts. While the clock of a cluster of the job relocks, the job waits (02
R44). A corrected word of a tile's SRAM is counted with source 0x0501; an uncorrectable one fences the tile with
source 0x0502 (11 R289, R314), and what ran on it starts again. Completion: exec answers the next state named, for
every state and operands that meet the conditions on them alone, for steelJobStart, productDone. -/
def Obligations.SteelRunsJobs : Prop :=
  (∀ s : State, s.relocks = true → exec .steelJobStart s = .next s) ∧
  (∀ s : State, s.jobRelocks = true → exec (.productDone []) s = .next s) ∧
  (∀ (s v : State) (ctx cid : Nat) (u : Update), s.on = true → s.relocks = false → s.stl.job = none →
    s.firstJob = some (.ns ctx cid) → s.pwt.upd = some u → s.tiles ≠ 0 →
    v = State.beginShares { s with stl := { s.stl with job := some (.ns ctx cid) } } →
    exec .steelJobStart s = .next { v with
      stl := { v.stl with split := kSplit (nsK (s.entryOf ctx cid) 1) s.tiles },
      pwt := { s.pwt with upd := some { u with phase := .ns 1 1 } } }) ∧
  (∀ (s v : State) (ctx cid k i : Nat) (c : Coll), s.on = true → s.relocks = false → s.stl.job = none →
    s.firstJob = some (.matmul ctx cid i) → s.findColl ctx cid = some k → s.coll k = some c → s.tiles ≠ 0 →
    v = State.beginShares { s with stl := { s.stl with job := some (.matmul ctx cid i) } } →
    exec .steelJobStart s = .next { v with stl := { v.stl with split := kSplit (fld c.desc 88 4) s.tiles } }) ∧
  (∀ s : State, s.beginShares = { s with stl := { s.stl with clusters := s.beginShares.stl.clusters } } ∧
    s.endJob = { s with stl := { s.stl with job := none, clusters := s.endJob.stl.clusters } } ∧
    (∀ k, k < 8 → (s.beginShares.cluster k).share = (if s.clusterIn k then .working else (s.cluster k).share)) ∧
    (∀ k, (s.endJob.cluster k).share = (if (s.cluster k).share = .working then .finished else (s.cluster k).share))) ∧
  (∀ (s : State) (ctx cid k j : Nat) (u : Update), s.on = true → s.stl.job = some (.ns ctx cid) →
    s.jobRelocks = false → s.pwt.upd = some u → u.phase = .ns k j → j < 3 ∨ k < 5 →
    ∃ t : State, exec (.productDone []) s = .next t ∧
      t.pwt.upd = some { nsProduct (s.entryOf u.ctx u.cid) s.tiles k j u with
        phase := if j < 3 then .ns k (j + 1) else .ns (k + 1) 1 } ∧
      t = { s with cnt := t.cnt, freeCtr := t.freeCtr, stl := { s.stl with split := t.stl.split }, pwt := { s.pwt with
              upd := t.pwt.upd } }) ∧
  (∀ (s : State) (ctx cid k j : Nat) (u : Update), s.on = true → s.stl.job = some (.ns ctx cid) →
    s.jobRelocks = false → s.pwt.upd = some u → u.phase = .ns k j → 3 ≤ j → 5 ≤ k →
    ∃ t : State, exec (.productDone []) s = .next t ∧ t.stl.job = none ∧
      t.pwt.upd = some { nsProduct (s.entryOf u.ctx u.cid) s.tiles k j u with phase := .pass2 } ∧
      t = { s with cnt := t.cnt, freeCtr := t.freeCtr, stl := s.endJob.stl, pwt := { s.pwt with
              upd := t.pwt.upd, cmd := t.pwt.cmd } }) ∧
  (∀ (s : State) (ctx cid k i : Nat) (c : Coll) (bs : List Byte), s.on = true → s.stl.job = some (.matmul ctx cid i) →
    s.jobRelocks = false → s.findColl ctx cid = some k → s.coll k = some c → i + 1 < dParts c.desc →
    (c.kern.getD Kernel.init).partFail = 0 →
    bs = (s.matmulPart c i).flatMap (fun r => encodeArr (kOfmt c.desc) none (r.map f32)) →
    ∃ (t : State) (j : Kernel), exec (.productDone []) s = .next t ∧ t.stl.job = none ∧
      t.coll k = some { c with kern := some j } ∧ j.part = i + 1 ∧ tfind j.rows i = some bs ∧
      t = { s with cnt := t.cnt, freeCtr := t.freeCtr, stl := s.endJob.stl, slots := t.slots,
                   regions := t.regions }) ∧
  (∀ (s v : State) (n w : Nat) (ecc : List (BitVec 6 × BitVec 18 × Bool)), s.tileIn n = true →
    s.sramError (n, w, false) = (s.bump (aStl n + 0x14) 1).record 0 5 n 0x0501 w ∧
    s.sramError (n, w, true) = (s.record 2 5 n 0x0502 w).fenceTile n ∧
    (v = ecc.foldl (fun u e => u.sramError (e.1.toNat, e.2.1.toNat, e.2.2)) s → s.on = true → s.stl.job.isSome = true →
      exec (.productDone ecc) s = if v.stl.fenced = s.stl.fenced then exec (.productDone []) v else .next v))

/-- The flip (10 R268, R270, R460): at L + RET_DELAY a finished update that changes state commits its arrays with the
next VERSION and LAST_STEP = STEP, its pages become the state's, the old ones stay while a reader of that version
runs, and it is decided and counted; one that does not change state keeps the arrays and the version; one with an
error in its pages, or whose tensor is LOST or plan fenced by then, commits nothing (R276, R277); before that count
nothing happens. Twin mode (10 R282, R283): at the mirror alone, the owner's digests are compared with its own once
both are there; a difference sets RESYNC, and the copy of the owner's state ends it, counted; a rejoined Fixus
installs its partner's copy where its own record shows REEXEC, LOST or an older VERSION, and is the owner again from
the count at which its last copy is complete. Completion: exec answers the next state named, for every state and
operands that meet the conditions on them alone, for flip, twinDigest, resyncDone, rejoinCopyDone. -/
def Obligations.FlipAndTwinCopies : Prop :=
  (∀ (s : State) (u : Update) (k : Nat) (c : Coll) (t : Tensor), s.on = true →
    s.pwt.finished.find? (fun u => s.flipDue u) = some u → s.findColl u.ctx u.cid = some k → s.coll k = some c →
    s.tensor u.ctx (dTensor c.desc) = some t → u.partFail = 0 → t.ver.lost = false → (s.ctx u.ctx).planFenced = false →
    u.changes = true →
    ∃ (x : State) (im : Option (List Byte)) (y : Tensor),
      exec .flip s = .next (x.settle k u.conds u.pdig u.partFail u.lowest im y.ver.version) ∧
      x.tensor u.ctx (dTensor c.desc) = some y ∧ y.w = u.w ∧ y.m1 = u.m1 ∧ y.m2 = u.m2 ∧
      y.ver.version = (t.ver.version + 1) % 2 ^ 32 ∧ y.ver.lastStep = dStep c.desc ∧ y.ver.pending = 0 ∧
      tResume y.entry = false ∧
      x.cntAt (aPwt + 0x10) = s.cntAt (aPwt + 0x10) + 1 ∧ x.pwt.lastFlip = s.now ∧
      im = (if s.returns c.desc u.conds true then some u.image else none) ∧
      (s.isMirror c.desc = false → y.twinDig = t.twinDig ∧ x.pwt.resyncing = s.pwt.resyncing) ∧
      (∀ p n, 2 ≤ n → n < 5 → (⟨p, .work u.ctx u.cid n⟩ : Page) ∈ s.ing.pages →
        (⟨p, .state u.ctx (dTensor c.desc) (n - 2)⟩ : Page) ∈ x.ing.pages) ∧
      (∀ p, (⟨p, .state u.ctx (dTensor c.desc) 0⟩ : Page) ∈ s.ing.pages →
        s.readsVersion u.ctx (dTensor c.desc) t.ver.version = true →
        (⟨p, .old u.ctx (dTensor c.desc) t.ver.version⟩ : Page) ∈ x.ing.pages) ∧
      x = { s with cnt := x.cnt, tensors := x.tensors, pwt := { s.pwt with
              finished := x.pwt.finished, lastFlip := s.now, resyncing := x.pwt.resyncing }, ing := { s.ing with
              pages := x.ing.pages, poison := x.ing.poison, maps := x.ing.maps } }) ∧
  (∀ (s : State) (u : Update) (k : Nat) (c : Coll) (t : Tensor), s.on = true →
    s.pwt.finished.find? (fun u => s.flipDue u) = some u → s.findColl u.ctx u.cid = some k → s.coll k = some c →
    s.tensor u.ctx (dTensor c.desc) = some t → u.partFail = 0 → t.ver.lost = false → (s.ctx u.ctx).planFenced = false →
    u.changes = false → s.isMirror c.desc = false →
    ∃ (x : State) (im : Option (List Byte)) (y : Tensor),
      exec .flip s = .next (x.settle k u.conds u.pdig u.partFail u.lowest im t.ver.version) ∧
      x.tensor u.ctx (dTensor c.desc) = some y ∧ y.w = t.w ∧ y.m1 = t.m1 ∧ y.m2 = t.m2 ∧
      y.ver = { t.ver with lastStep := if u.setStep then dStep c.desc else t.ver.lastStep, pending := 0 } ∧
      x.cntAt (aPwt + 0x14) = s.cntAt (aPwt + 0x14) + 1 ∧
      x.cntAt (aPwt + 0x18) = s.cntAt (aPwt + 0x18) + (if statusOf u.conds = stNonfinite then 1 else 0) ∧
      (im = none ∨ im = some u.image) ∧
      x = { s with cnt := x.cnt, tensors := x.tensors, pwt := { s.pwt with finished := x.pwt.finished }, ing := { s.ing with
              pages := x.ing.pages, poison := x.ing.poison, maps := x.ing.maps } }) ∧
  (∀ (s v : State) (u : Update) (k : Nat) (c : Coll) (t : Tensor), s.on = true →
    s.pwt.finished.find? (fun u => s.flipDue u) = some u → s.findColl u.ctx u.cid = some k → s.coll k = some c →
    s.tensor u.ctx (dTensor c.desc) = some t →
    u.partFail ≠ 0 ∨ t.ver.lost = true ∨ (s.ctx u.ctx).planFenced = true →
    v = { s with pwt := { s.pwt with finished := s.pwt.finished.filter (fun w => w != u) } } →
    exec .flip s = .next (v.failUpdate u k c t u.partFail)) ∧
  (∀ s : State, (∀ u ∈ s.pwt.finished, s.flipDue u = false) → exec .flip s = .next s) ∧
  (∀ (s : State) (x : Byte) (i : BitVec 16) (pd sd p q : BitVec 64) (t : Tensor), s.on = true →
    s.tensor x.toNat i.toNat = some t → t.twinDig = some (p, q) → p ≠ pd ∨ q ≠ sd →
    s.mirrorsNow t.entry = true →
    exec (.twinDigest x i pd sd) s = .next { s.setTensor x.toNat i.toNat { t with
        twinDig := none, theirDig := none, ver := { t.ver with resync := true } } with
      pwt := { s.pwt with resyncing := s.pwt.resyncing.filter (fun k => k != (x.toNat, i.toNat)) ++ [(x.toNat, i.toNat)] } }) ∧
  (∀ (s : State) (x : Byte) (i : BitVec 16) (pd sd : BitVec 64) (t : Tensor), s.on = true →
    s.tensor x.toNat i.toNat = some t → t.twinDig = some (pd, sd) → s.mirrorsNow t.entry = true →
    exec (.twinDigest x i pd sd) s = .next (s.setTensor x.toNat i.toNat { t with twinDig := none, theirDig := none })) ∧
  (∀ (s : State) (x : Byte) (i : BitVec 16) (pd sd : BitVec 64) (t : Tensor), s.on = true →
    s.tensor x.toNat i.toNat = some t → s.mirrorsNow t.entry = true → t.twinDig = none →
    exec (.twinDigest x i pd sd) s = .next (s.setTensor x.toNat i.toNat { t with theirDig := some (pd, sd) })) ∧
  (∀ (s : State) (x : Byte) (i : BitVec 16) (pd sd : BitVec 64) (t : Tensor), s.tensor x.toNat i.toNat = some t →
    s.mirrorsNow t.entry = false → exec (.twinDigest x i pd sd) s = .next s) ∧
  (∀ (s : State) (c : TwinCopy) (t : Tensor), s.on = true → s.tensor c.ctx.toNat c.tensor.toNat = some t →
    (c.ctx.toNat, c.tensor.toNat) ∈ s.pwt.resyncing →
    ∃ (u : State) (y : Tensor), exec (.resyncDone c) s = .next u ∧ u.tensor c.ctx.toNat c.tensor.toNat = some y ∧
      y.w = c.w ∧ y.m1 = c.m1 ∧ y.m2 = c.m2 ∧ y.ver.version = c.version.toNat ∧ y.ver.lastStep = c.lastStep.toNat ∧
      y.ver.resync = false ∧ y.ver.lost = false ∧ (c.ctx.toNat, c.tensor.toNat) ∉ u.pwt.resyncing ∧
      u.cntAt (aPwt + 0x28) = s.cntAt (aPwt + 0x28) + 1 ∧
      u = { s with tensors := u.tensors, cnt := u.cnt, pwt := { s.pwt with resyncing := u.pwt.resyncing } }) ∧
  (∀ (s : State) (c : TwinCopy) (t : Tensor), s.on = true → s.tensor c.ctx.toNat c.tensor.toNat = some t →
    ∃ (u : State) (y : Tensor), exec (.rejoinCopyDone c) s = .next u ∧ u.tensor c.ctx.toNat c.tensor.toNat = some y ∧
      y = (if t.acting then { t with acting := false }
        else if t.ver.reexec ∨ t.ver.lost ∨ t.ver.version < c.version.toNat then installCopy t c else t) ∧
      tkey c.ctx.toNat c.tensor.toNat ∉ u.flt.rejoin ∧
      (s.flt.rejoin = [tkey c.ctx.toNat c.tensor.toNat] → s.addr ∉ u.flt.lost ∧
        u.flt.acts = s.flt.acts.map (fun e => if e.1 = s.addr then (e.1, some (e.2.getD s.now)) else e)) ∧
      u = { s with
        tensors := u.tensors, pwt := { s.pwt with takeover := u.tensors.any (fun e => e.2.acting) },
        flt := { s.flt with rejoin := u.flt.rejoin, lost := u.flt.lost, acts := u.flt.acts } })

/-- Cluster clocks and temperatures (11 R292 to R294; 02 R44; 14 R388; 16 Table 16.8): the layer boundary of a cluster
that is done with its share, or works at the last product of its job, moves its step and asks for a relock; a
cluster that does not relock is fenced with source 0x0503; a source at its threshold holds TEMP_ALERT_N low, until
it has fallen 3 °C below it; a thermal trip is class X. Completion: exec answers the next state named, for every
state and operands that meet the conditions on them alone, for layerBoundary, clusterRelock, tempAlert, thermalTrip. -/
def Obligations.ClocksAndTemperatures : Prop :=
  (∀ (s : State) (k : BitVec 3) (temp : Byte) (n : Nat), s.on = true → s.clusterIn k.toNat = true →
    (s.cluster k.toNat).relocking = false → (s.cluster k.toNat).share = .finished ∨
      ((s.cluster k.toNat).share = .working ∧ s.lastProduct = true) →
    n = stepAt (s.cfgAt (aStl 0 + 0x3000)).toNat s.cap temp.toNat (s.clk - (s.cluster k.toNat).since)
      (s.cluster k.toNat).step →
    ∃ t : State, exec (.layerBoundary k temp) s = .next t ∧ (t.cluster k.toNat).step = n ∧
      (t.cluster k.toNat).temp = temp.toNat ∧ (t.cluster k.toNat).share = .decided ∧
      (.cluster k ∈ t.pins.tempSrc ↔ s.alertAt (.cluster k) ≤ temp.toNat ∨
        (.cluster k ∈ s.pins.tempSrc ∧ s.alertAt (.cluster k) < temp.toNat + 3)) ∧
      (∀ j, j ≠ k.toNat → t.cluster j = s.cluster j) ∧
      (n ≠ (s.cluster k.toNat).step → (t.cluster k.toNat).relocking = true ∧ (t.cluster k.toNat).since = s.clk ∧
        t.cntAt (aStl (8 * k.toNat) + 0x2008) = s.cntAt (aStl (8 * k.toNat) + 0x2008) + 1) ∧
      t = { s with
        cnt := t.cnt, stl := { s.stl with clusters := t.stl.clusters }, pins := { s.pins with tempSrc := t.pins.tempSrc } }) ∧
  (∀ (s : State) (k : BitVec 3), s.on = true → (s.cluster k.toNat).relocking = true → s.clusterIn k.toNat = true →
    s.clk ≤ (s.cluster k.toNat).since + 2000 →
    exec (.clusterRelock k true) s = .next (s.setCluster k.toNat { s.cluster k.toNat with relocking := false })) ∧
  (∀ (s : State) (k : BitVec 3) (ok : Bool), s.on = true → (s.cluster k.toNat).relocking = true →
    s.clusterIn k.toNat = true → (s.cluster k.toNat).since + 2000 ≤ s.clk →
    (ok = true → (s.cluster k.toNat).since + 2000 < s.clk) → s.stl.job = none →
    ∃ t : State, exec (.clusterRelock k ok) s = .next t ∧ (t.cluster k.toNat).fenced = true ∧
      (∀ j, j ≠ k.toNat → t.cluster j = s.cluster j) ∧
      t = { s with cnt := t.cnt, flt := t.flt, pins := t.pins, ports := t.ports, sol := t.sol, stl := { s.stl with
        clusters := t.stl.clusters } }) ∧
  (∀ (s : State) (x : TempSource) (temp : Byte), s.on = true →
    ∃ t : State, exec (.tempAlert x temp) s = .next t ∧ (x ∈ t.pins.tempSrc ↔
        s.alertAt x ≤ temp.toNat ∨ (x ∈ s.pins.tempSrc ∧ s.alertAt x < temp.toNat + 3)) ∧
      (∀ y, y ≠ x → (y ∈ t.pins.tempSrc ↔ y ∈ s.pins.tempSrc)) ∧
      (∀ k : BitVec 2, x = .ingot k → (t.stack k.toNat).temp = temp.toNat) ∧
      (∀ k : BitVec 3, x = .cluster k → (t.cluster k.toNat).temp = temp.toNat) ∧
      t = { s with
        stl := { s.stl with clusters := t.stl.clusters }, ing := { s.ing with stks := t.ing.stks },
        pins := { s.pins with tempSrc := t.pins.tempSrc } }) ∧
  (∀ (s : State) (i : Byte), s.on = true →
    ∃ t : State, exec (.thermalTrip i) s = .next t ∧ t.sys.classX = true ∧ t.pins.faultLow = true ∧ t.on = false ∧
      t.ing = s.ing ∧ t.tensors = s.tensors ∧ t.mbxs = s.mbxs)

/-- Upkeep of Ingot (12 R329, R334, R335, R338; 14 R406): a clean row moves the scrubber on; the sixty-fourth codeword
in a row that is corrected on one data line fences the channel; a slice is refreshed when 5,200 ns, or 2,600 ns with
HOT, have passed, two rows in each bank, a slice 433.33 ns after the one before it; a die above 85 °C sets HOT with
source 0x0606; a page that is copied is remapped to the RESERVE, in boot flash too; when training ends the stacks
are ready, the open records CLOSED, and every page returns but those of states and regions. Completion: exec answers
the next state named, for every state and operands that meet the conditions on them alone, for scrubRow, refresh,
dramHot, pageMoveDone, ingotTrained. -/
def Obligations.IngotUpkeep : Prop :=
  (∀ (s : State) (k : BitVec 2) (c : BitVec 4) (ws : List (List Byte)), s.on = true →
    (s.stack k.toNat).ready = true → (s.stack k.toNat).fenced = false → (s.chan k.toNat c.toNat).fenced = false →
    tfind (s.stack k.toNat).scrubbed c.toNat = none → s.ing.poison = [] → ws.map codewordOf = List.replicate 32 .clean →
    ∃ t : State, exec (.scrubRow k c ws) s = .next t ∧
      tget (t.stack k.toNat).scrubPos c.toNat 0 = (if 2359296 ≤ tget (s.stack k.toNat).scrubPos c.toNat 0 + 1 then 0
        else tget (s.stack k.toNat).scrubPos c.toNat 0 + 1) ∧
      tfind (t.stack k.toNat).scrubbed c.toNat = some s.clk ∧
      t.cntAt (aIng k.toNat + 0x28) = s.cntAt (aIng k.toNat + 0x28) +
        (if 2359296 ≤ tget (s.stack k.toNat).scrubPos c.toNat 0 + 1 then 1 else 0) ∧
      t = { s with cnt := t.cnt, ing := { s.ing with stks := t.ing.stks } }) ∧
  (∀ (s : State) (k : BitVec 2) (c : BitVec 4) (l : BitVec 7) (n : Nat) (ws : List (List Byte)), s.on = true →
    (s.stack k.toNat).ready = true → (s.stack k.toNat).fenced = false → (s.chan k.toNat c.toNat).fenced = false →
    tfind (s.stack k.toNat).scrubbed c.toNat = none → (s.chan k.toNat c.toNat).lineRun = some (l.toNat, n) → 32 ≤ n →
    s.ing.poison = [] →
    ws.map codewordOf = List.replicate 32 (.corrected (some l)) →
    ∃ t : State, exec (.scrubRow k c ws) s = .next t ∧
      t.chanGone k.toNat c.toNat = true) ∧
  (∀ (s : State) (k : BitVec 2) (c i : BitVec 4) (at_ row : Nat), s.on = true → i.toNat < 12 →
    tfind (s.stack k.toNat).refreshed (16 * c.toNat + i.toNat) = some (at_, row) →
    exec (.refresh k c i) s = .next (if at_ + (if (s.stack k.toNat).hot then 2600 else 5200) ≤ s.clk
      then s.setStack k.toNat { s.stack k.toNat with
        refreshed := tset (s.stack k.toNat).refreshed (16 * c.toNat + i.toNat) (s.clk, (row + 2) % 12288) }
      else s)) ∧
  (∀ (s : State) (k : BitVec 2) (c i : BitVec 4) (at_ row : Nat), s.on = true → 0 < i.toNat → i.toNat < 12 →
    tfind (s.stack k.toNat).refreshed (16 * c.toNat + i.toNat) = none →
    tfind (s.stack k.toNat).refreshed (16 * c.toNat + i.toNat - 1) = some (at_, row) →
    exec (.refresh k c i) s = .next (if 3 * at_ + 1300 ≤ 3 * s.clk
      then s.setStack k.toNat { s.stack k.toNat with
        refreshed := tset (s.stack k.toNat).refreshed (16 * c.toNat + i.toNat) (s.clk, 2) }
      else s)) ∧
  (∀ (s : State) (k : BitVec 2) (temp : Byte), s.on = true →
    exec (.dramHot k temp) s = .next (if 85 < temp.toNat ∧ (s.stack k.toNat).hot = false
      then (s.setStack k.toNat { s.stack k.toNat with temp := temp.toNat, hot := true }).record 0 8 k.toNat 0x0606 temp.toNat
      else s.setStack k.toNat { s.stack k.toNat with temp := temp.toNat, hot := decide (85 < temp.toNat) })) ∧
  (∀ (s : State) (k : BitVec 2) (c p q r : Nat) (l : List Nat), s.on = true → (s.stack k.toNat).ready = true →
    s.evacChan k.toNat = some c → (s.stack k.toNat).moving = p :: q :: l → 0 < s.rsvFree k.toNat →
    s.rsvFrom k.toNat 9216 0 = some r →
    ∃ t : State, exec (.pageMoveDone k true) s = .next t ∧ (t.stack k.toNat).moving = q :: l ∧
      tfind (t.stack k.toNat).remap p = some r ∧ tfind t.flash.remaps p = some r ∧
      t.ing.lostPages = s.ing.lostPages ++ (tfind (s.stack k.toNat).remap p).toList ∧
      (∀ j, j ≠ k.toNat → t.stack j = s.stack j) ∧ t = { s with
        flash := { s.flash with remaps := t.flash.remaps },
        ing := { s.ing with stks := t.ing.stks, lostPages := t.ing.lostPages } }) ∧
  (∀ s : State, s.brass = true → (∀ k, k < 4 → (s.stack k).fenced = false ∧ (s.stack k).ready = false) →
    (∀ k, k < 4 → ∃ c, c < 16 ∧ (s.chan k c).fenced = false) →
    ∃ t : State, exec (.ingotTrained []) s = .next t ∧ (∀ k, k < 4 → (t.stack k).ready = true) ∧
      (∀ e ∈ t.flt.recs, e.2.st = 2 ∨ e.2.cls = 3) ∧
      (∀ p ∈ t.ing.pages, (∃ x i a, p.holder = .state x i a) ∨ (∃ x i, p.holder = .region x i)) ∧
      (∀ c i v, s.tensor c i = some v → ∃ w, t.tensor c i = some w ∧ w.ver.pending = 0 ∧ w.w = v.w ∧
        w.ver.reexec = (v.ver.reexec || v.ver.pending != 0)) ∧
      t = { s with
        flt := { s.flt with recs := t.flt.recs, timers := [], rejoin := t.flt.rejoin, acts := t.flt.acts }, tensors := t.tensors,
        ing := { s.ing with stks := t.ing.stks, pages := t.ing.pages, poison := t.ing.poison, maps := t.ing.maps } })

/-- An uncorrectable codeword in the committed state of a tensor (10 R277; 12 R328, R330, R331, R333), read through the
remap table: it is counted and kept as poison, the tensor is LOST with source 0x0602 in its context, and the row it
was read from is spared. Completion: exec answers the next state named, for every state and operands that meet the
conditions on them alone, for uncorrectableCodeword. -/
def Obligations.UncorrectableStateIsLost : Prop :=
  ∀ (s : State) (a : BitVec 40) (word : List Byte) (p q k c x i n : Nat) (t : Tensor), s.on = true →
    codewordOf word = .uncorrectable → addrExists a.toNat = true →
    p = addrPage a.toNat → q = s.physPage p → k = pageStack q → c = pageChan q → (s.stack k).fenced = false → p < planLo →
    s.holderAt p = some (.state x i n) → s.tensor x i = some t → (s.stack k).sparesUsed = [] →
    (s.chan k c).ueRows.length < 15 → s.openRec 1 x = none → (tfind s.flt.recs (s.flt.head % 262144)) = none →
    ∃ u : State, exec (.uncorrectableCodeword a word) s = .next u ∧
      (u.tensor x i).map (fun t => t.ver.lost) = some true ∧ a.toNat / 32 ∈ u.ing.poison ∧
      u.cntAt (aIng k + 0x14) = s.cntAt (aIng k + 0x14) + 1 ∧ u.cntAt (aIng k + 0x18) = s.cntAt (aIng k + 0x18) + 1 ∧
      (∃ r, tfind u.flt.recs (s.flt.head % 262144) = some r ∧ r.source = 0x0602 ∧ r.cls = 1 ∧ r.dkind = 1 ∧ r.dindex = x) ∧
      tget (u.stack k).sparesUsed ((rowOfAddr (65536 * q + a.toNat % 65536)).bankNo c) 0 = 1 ∧
      u = { s with
        cnt := u.cnt, tensors := u.tensors, flt := u.flt, pins := u.pins, slots := u.slots,
        ing := { s.ing with stks := u.ing.stks, poison := u.ing.poison } }

/-- Notices on VC1 (04 R94; 14 R390 to R392, R400): a notice of an event not seen yet in a context open here is flooded
on and noted; CTX_STOP takes the context into DRAINING; RESUME makes the Fixus it names present again. A notice for
a context that is FREE here or of another generation is flooded on once and has no effect besides, but for the Fixus
that a RESUME names; which notices count as the same event there is the model's choice (assumption log 165).
Completion: exec answers the next state named, for every state and operands that meet the conditions on them alone,
for abortNotice, ctxStop, resume. -/
def Obligations.NoticesSpread : Prop :=
  (∀ (s : State) (p : BitVec 6) (n : Notice), s.on = true → (s.ctx n.ctx.toNat).st ≠ .free →
    (s.ctx n.ctx.toNat).gen = n.gen.toNat → (∀ e ∈ (s.ctx n.ctx.toNat).aborts, e.2.1 ≠ n.lost.toNat) →
    ∃ t : State, exec (.abortNotice p n) s = .next t ∧
      t.ctx n.ctx.toNat = { s.ctx n.ctx.toNat with
        aborts := (s.ctx n.ctx.toNat).aborts ++ [(n.d.toNat, n.lost.toNat, n.flags.getLsbD 0, false)] } ∧
      (∀ x, x ≠ n.ctx.toNat → t.ctx x = s.ctx x) ∧
      (∀ q ∈ s.floodPorts (some p.toNat), CtlMsg.abortNotice n ∈ (t.port q).ctlQ) ∧
      t = { s with ctxs := t.ctxs, ports := t.ports }) ∧
  (∀ (s : State) (p : BitVec 6) (n : Notice), s.on = true → (s.ctx n.ctx.toNat).st = .opened →
    (s.ctx n.ctx.toNat).gen = n.gen.toNat → (s.ctx n.ctx.toNat).stopD = none →
    ∃ t : State, exec (.ctxStop p n) s = .next t ∧
      t.ctx n.ctx.toNat = { s.ctx n.ctx.toNat with
        st := .draining, stopD := some n.d.toNat, teardown := (s.ctx n.ctx.toNat).teardown || !n.flags.getLsbD 0 } ∧
      (∀ x, x ≠ n.ctx.toNat → t.ctx x = s.ctx x) ∧
      (∀ q ∈ s.floodPorts (some p.toNat), CtlMsg.ctxStop n ∈ (t.port q).ctlQ) ∧
      t = { s with ctxs := t.ctxs, ports := t.ports }) ∧
  (∀ (s : State) (p : BitVec 6) (n : Notice), s.on = true → (s.ctx n.ctx.toNat).st ≠ .free →
    (s.ctx n.ctx.toNat).gen = n.gen.toNat → (n.d.toNat, n.lost.toNat) ∉ (s.ctx n.ctx.toNat).resumes →
    (s.ctx n.ctx.toNat).resumeU = none → s.slots = [] → s.queue = [] →
    ∃ t : State, exec (.resume p n) s = .next t ∧
      t.ctx n.ctx.toNat = { s.ctx n.ctx.toNat with
        resumes := (s.ctx n.ctx.toNat).resumes ++ [(n.d.toNat, n.lost.toNat)], resumeU := some n.d.toNat } ∧
      n.lost.toNat ∉ t.flt.lost ∧
      (∀ q ∈ s.floodPorts (some p.toNat), CtlMsg.resume n ∈ (t.port q).ctlQ) ∧
      t = { s with ctxs := t.ctxs, ports := t.ports, flt := { s.flt with lost := t.flt.lost, acts := t.flt.acts } }) ∧
  (∀ (s : State) (p : BitVec 6) (n : Notice), s.on = true → s.concerns n = false →
    exec (.abortNotice p n) s = .next (s.passOn (some p.toNat)
      [2, n.ctx.toNat, n.gen.toNat, n.lost.toNat, n.flags.toNat] n.d.toNat 20000 (.abortNotice n)) ∧
    exec (.resume p n) s = .next ((s.ownerBack n.lost.toNat (n.d.toNat - 40000)).passOn (some p.toNat)
      [3, n.ctx.toNat, n.gen.toNat, n.lost.toNat] n.d.toNat 0 (.resume n)) ∧
    ((s.ctx n.ctx.toNat).st ≠ .free ∨ n.flags.getLsbD 0 = true →
      exec (.ctxStop p n) s = .next (s.passOn (some p.toNat) [1, n.ctx.toNat, n.gen.toNat, n.flags.toNat] n.d.toNat 20000
        (.ctxStop n)))) ∧
  (∀ (s : State) (f : Option Nat) (key : List Nat) (d w : Nat) (m : CtlMsg),
    ((∃ e ∈ s.flt.passed, e.1 = key ∧ e.2 ≤ d ∧ d ≤ e.2 + w) → s.passOn f key d w m = s) ∧
    ((∀ e ∈ s.flt.passed, e.1 = key → e.2 ≤ d → e.2 + w < d) →
      (∀ q ∈ s.floodPorts f, m ∈ ((s.passOn f key d w m).port q).ctlQ) ∧
      s.passOn f key d w m = { s with
        ports := (s.passOn f key d w m).ports, flt := { s.flt with passed := (key, d) :: s.flt.passed.take 63 } }))

/-- Counts of a stop and of an abort, the drain and the hold (14 R393, R394, R397 to R401): at D + 20,000 ns a stopped
context's collectives are gone and it waits only for its drain, after which it is FREE; at an abort count the lost
Fixus is absent and a twin context's collectives are held; at RESUME's count they launch unscheduled; a hold that
runs out ends. Completion: exec answers the next state named, for every state and operands that meet the conditions
on them alone, for stopCount, drainComplete, abortCount, heldLaunch, holdLimitExpiry, resumeFlood. -/
def Obligations.RecoveryCountsAct : Prop :=
  (∀ (s : State) (x d : Nat) (c : Ctx), s.on = true → s.switchFirst = false → s.ctxs = [(x, c)] → c.st = .draining →
    c.stopD = some d → c.stopDone = false → d + 20000 ≤ s.now → c.aborts = [] → s.slots = [] → s.queue = [] →
    s.sol.queues = [] → s.sol.descWait = [] → (∀ p, p < 64 → (s.port p).egress = []) → s.sol.flows = [] →
    (s.xfers.map Prod.fst).Nodup →
    ∃ t : State, exec .stopCount s = .next t ∧ t.ctx x = { c with
        stopDone := true, holdUntil := none, holdLost := [], resumeU := none } ∧
      (∀ p ∈ t.ing.pages, drainPage x p.holder = false) ∧
      (∀ e ∈ t.xfers, e.2.target = .staging ∨ e.2.ctx ≠ x) ∧
      (∀ e ∈ s.xfers, e.2.target = .staging ∨ e.2.ctx ≠ x → e ∈ t.xfers) ∧
      (∀ i, tget t.sol.waits i [] = tget s.sol.waits i []) ∧
      t = { s with ctxs := t.ctxs, aux := t.aux, xfers := t.xfers, sol := { s.sol with waits := t.sol.waits },
                   ing := { s.ing with pages := t.ing.pages, poison := t.ing.poison, maps := t.ing.maps } }) ∧
  (∀ (s : State) (x : Nat) (c : Ctx), s.on = true → s.ctxs = [(x, c)] → c.st = .draining → c.stopDone = true →
    s.ctxDrain x = 0 → c.teardown = false → c.waiting = [] →
    ∃ t : State, exec .drainComplete s = .next t ∧ (t.ctx x).st = .free ∧ (t.ctx x).gen = c.gen ∧
      (t.ctx x).planned = c.planned ∧ (t.ctx x).stopD = none ∧
      (∀ e ∈ t.flt.recs, e.2.dkind = 1 → e.2.dindex = x → e.2.cls = 1 → e.2.st = 2) ∧
      t = { s with ctxs := t.ctxs, flt := { s.flt with recs := t.flt.recs, timers := t.flt.timers } }) ∧
  (∀ (s : State) (x d a : Nat) (c : Ctx) (h : Bool) (dec : List (BitVec 8 × BitVec 32)), s.on = true →
    s.switchFirst = false → s.ctxs = [(x, c)] →
    c.aborts = [(d, a, h, false)] → d + 20000 ≤ s.now → c.stopD = none → c.holdUntil = none → h = true →
    s.slots = [] → s.queue = [] → a ≠ s.addr → a ∉ s.flt.lost → s.inBlock a = true →
    ∃ t : State, exec (.abortCount dec) s = .next t ∧ a ∈ t.flt.lost ∧ (a, none) ∈ t.flt.acts ∧
      t.ctx x = { c with
        aborts := [(d, a, true, true)], holdUntil := some (d + 20000 + s.holdLimit), holdLost := c.holdLost ++ [a],
        heldSent := false } ∧
      (∀ i j v, s.tensor i j = some v → t.tensor i j = some (
        if tIsTwin v.entry ∧ tTwin v.entry = s.addr ∧ tOwner v.entry = a
        then { v with acting := true, twinDig := none, theirDig := none, ver := { v.ver with resync := false } } else v)) ∧
      t = { s with
        ctxs := t.ctxs, flt := { s.flt with lost := t.flt.lost, acts := t.flt.acts }, tensors := t.tensors,
        pwt := { s.pwt with takeover := t.pwt.takeover, resyncing := t.pwt.resyncing } }) ∧
  (∀ (s : State) (x u : Nat) (c : Ctx), s.on = true → s.switchFirst = false → s.ctxs = [(x, c)] →
    c.resumeU = some u → u ≤ s.now → c.holdUntil = none → s.slots = [] →
    ∃ t : State, exec .heldLaunch s = .next t ∧
      t.ctx x = { c with holdUntil := none, holdLost := [], heldSent := false, resumeU := none } ∧
      t.queue = s.queue.map (fun k => if dCtx k.desc = x ∧ k.heldAt.isSome
        then { k with heldAt := none, launch := u, unscheduled := true } else k) ∧
      t = { s with ctxs := t.ctxs, queue := t.queue }) ∧
  (∀ (s : State) (x d : Nat) (c : Ctx), s.on = true → s.ctxs = [(x, c)] → c.holdUntil = some d → d ≤ s.now →
    c.resumeU = none → s.slots = [] → s.queue = [] →
    exec .holdLimitExpiry s = .next (s.setCtx x { c with
      holdUntil := none, holdLost := [], heldSent := false, resumeU := none })) ∧
  (∀ (s : State) (x : Nat) (c : Ctx), s.brass = true → s.irc.state = .locked → s.heldRx = [] → s.ctxs = [(x, c)] →
    s.flt.heldDescs = [] → s.heldForMe x = true → s.copiesDue x = false → exec .resumeFlood s = .next (s.floodResume x))

/-- Warm reset (14 R404 to R406, Table 14.9) by a requested cause with a boot that finds nothing wrong: what Ingot holds
committed, its regions, the remaps, fences and fault records stay; mailboxes, transfers, collectives, links, flows
and the count start anew, and no firmware runs yet. Reset and power pins, and the reference (14 R404; 16 R443, R450,
R451, R456): RESET_N low for 1,000 ns is a cold reset, without effect under class X; PWRGD low for 1,000 ns alone
ends class X; both leave Ingot empty and every output floating; a reference that stops for 1,000 ns is time FAULT.
Completion: exec answers the next state named, for every state and operands that meet the conditions on them alone,
for warmReset, resetN, pwrgd, refclkStop, refclkRestore. -/
def Obligations.ResetsAct : Prop :=
  (∀ (s : State) (cause : BitVec 4) (b : BootObs), s.on = true →
    cause = 1 ∨ cause = 2 → s.sys.resetAsked = some cause.toNat → exec (.warmReset cause b) s = .next (s.warm cause.toNat b)) ∧
  (∀ (s : State) (b : BootObs), s.on = true → ∃ n, n < 2 ^ 20 ∧
    exec (.warmReset 5 b) s = .next (State.warm (State.record { s with freeCtr := s.freeCtr + 1 } 2 0 0 0x0705 n) 5 b)) ∧
  (∀ (s : State) (cause : Nat) (b : BootObs), s.on = true → b.romOk = true → b.otpOk = true → b.prefixOk = true →
    b.rsvPartial = false →
    let t := s.warm cause b
    t.sys.resetCause = cause ∧ t.sys.fwReady = false ∧ t.sys.otpRead = true ∧ t.sys.classX = false ∧
    t.pins.hostbr = b.hostbr ∧ t.pins.sw = b.pos.toNat ∧ t.irc.count = 0 ∧ t.mbxs = [] ∧ t.xfers = [] ∧ t.slots = [] ∧
    t.queue = [] ∧ t.sol.queues = [] ∧ t.sol.flows = [] ∧
    (∀ p, (t.port p).st = Port.init.st ∧ (t.port p).egress = []) ∧
    (∀ l, (t.lane l).phase = 0 ∧ (t.lane l).inService = false) ∧ t.regions = s.regions ∧ t.groups = s.groups ∧
    t.ing.pages = s.ing.pages ∧ (∃ d, tfind t.flt.dumps (s.flt.dumpNext % 4) = some d ∧ d.cause = cause ∧ d.count = s.now ∧ d.cfg = s.cfg) ∧
    (∀ c i v, s.tensor c i = some v → ∃ w, t.tensor c i = some w ∧ w.entry = v.entry ∧ w.ver = v.ver ∧ w.w = v.w ∧
      w.m1 = v.m1 ∧ w.m2 = v.m2) ∧
    (∀ c, (t.ctx c).st = .free ∧ (t.ctx c).gen = (s.ctx c).gen) ∧
    (∀ k, (t.stack k).ready = false ∧ (t.stack k).fenced = (s.stack k).fenced ∧ (t.stack k).remap = (s.stack k).remap)) ∧
  (∀ (s : State) (w : BitVec 32) (b : BootObs), s.pins.pwrgd = true → 1000 ≤ w.toNat → s.sys.classX = false →
    s.pins.floating = false →
    ∃ t : State, exec (.resetN false w b) s = .next t ∧ t.pins.resetN = false ∧ t.pins.floating = true ∧ t.ing.pages = [] ∧
      t.tensors = [] ∧ t.flt.recs = [] ∧ t.irc.count = 0 ∧ t.mbxs = [] ∧ t.fuses = s.fuses ∧ t.flash = s.flash) ∧
  (∀ (s : State) (w : BitVec 32) (b : BootObs), s.sys.classX = true → exec (.resetN false w b) s = .next s) ∧
  (∀ (s : State) (w : BitVec 32) (b : BootObs), s.pins.pwrgd = true → s.pins.floating = true → s.pins.resetN = false →
    exec (.resetN true w b) s = .next (State.boot (State.unitsReset { s with
      pins := { s.pins with resetN := true } } 0 b) b)) ∧
  (∀ (s : State) (w : BitVec 32), 1000 ≤ w.toNat →
    ∃ t : State, exec (.pwrgd false w) s = .next t ∧ t.pins.pwrgd = false ∧ t.pins.floating = true ∧
      t.sys.classX = false ∧ t.ing.pages = [] ∧ t.tensors = [] ∧ t.flt.recs = [] ∧ t.fuses = s.fuses ∧ t.flash = s.flash) ∧
  (∀ (s : State) (w : BitVec 32), exec (.pwrgd true w) s = .next { s with pins := { s.pins with pwrgd := true } }) ∧
  (∀ (s : State) (w : BitVec 32), 1000 ≤ w.toNat → s.irc.state = .free →
    exec (.refclkStop w) s = .next { s with pins := { s.pins with refclkOk := false } }) ∧
  (∀ (s : State) (w : BitVec 32), 1000 ≤ w.toNat → s.on = true → s.irc.state ≠ .free → s.irc.state ≠ .fault →
    exec (.refclkStop w) s = .next (State.timeFault { s with pins := { s.pins with refclkOk := false } } 0)) ∧
  (∀ s : State, exec .refclkRestore s = .next { s with pins := { s.pins with refclkOk := true } })

/-- The machine right after reset: it meets the invariant of StepKeepsInvariant; the count is 0 and FREE (04 Table 4.6),
no context, mailbox, transfer, collective or key is open, every port is ABSENT, and the registers named stand at the
reset values of the spec's register tables (05 Table 5.7, R118; 06 Table 6.13; 07 Tables 7.9, 7.12; 10 Table 10.13;
12 R329; 14 Table 14.14). -/
def Obligations.ResetState : Prop :=
  State.reset.Inv ∧ State.reset.pending = [] ∧ State.reset.irc.state = .free ∧ State.reset.irc.count = 0 ∧
  State.reset.irc.hall = false ∧ State.reset.irc.hops = 0xFF ∧ (∀ x, (State.reset.ctx x).st = .free) ∧
  (∀ m, (State.reset.mbx m).opened = false) ∧ (∀ p, (State.reset.port p).st = .absent) ∧ State.reset.xfers = [] ∧
  State.reset.slots = [] ∧ State.reset.queue = [] ∧ State.reset.sys.keys = [] ∧ State.reset.smb.rdlen = 4 ∧
  (∀ p, p < 64 → State.reset.cfgAt (aPrt p) = 6 ∧ State.reset.cfgAt (aPrt p + 8) = 0xFFFF ∧
    State.reset.cfgAt (aPrt p + 0x40) = 64 ∧ State.reset.cfgAt (aPrt p + 0x48) = 384 ∧
    State.reset.cfgAt (aPrt p + 0x68) = 128 ∧ State.reset.cfgAt (aPrt p + 0x78) = 256 ∧
    State.reset.cfgAt (aSchPort p + 0x20) = 0x08102040 ∧ (∀ k, k < 4 → State.reset.shaperOn p k = false)) ∧
  (∀ l, l < 256 → State.reset.trainAt l = 0xD0 ∧ State.reset.warnAt l = 0xE0 ∧ State.reset.failAt l = 0xC0) ∧
  State.reset.cfgAt (aSld + 0x10) = 5000 ∧ State.reset.cfgAt (aSld + 0x14) = 50000 ∧
  State.reset.cfgAt (aSld + 0x18) = 200000 ∧ State.reset.cfgAt (aSld + 0x1C) = 1000000 ∧
  State.reset.cfgAt (aSld + 0x104) = 8192 ∧ State.reset.cfgAt (aSld + 0x108) = 256 ∧
  State.reset.cfgAt (aFlt + 8) = 10000 ∧ State.reset.cfgAt (aFlt + 0xC) = 10000 ∧ State.reset.cfgAt 0x60 = 0 ∧
  (∀ k, k < 4 → State.reset.cfgAt (aIng k + 0x20) = 36000)

/-- Every command of the block is answered with a next state, and none changes the queue of waiting commands, the grade,
the serial number or the presence fuses, so none changes SYS_ID (00 R3, R4; 02 R49; 15 Table 15.1). -/
def Obligations.EveryCommandAnswersAndKeepsIdentity : Prop :=
  ∀ (c : Instr) (s : State), ∃ t : State, exec c s = .next t ∧ t.pending = s.pending ∧ t.sysId = s.sysId ∧
    t.fuses.grade = s.fuses.grade ∧ t.fuses.serial = s.fuses.serial ∧ t.fuses.bz = s.fuses.bz ∧
    t.fuses.st = s.fuses.st ∧ t.fuses.cl = s.fuses.cl

/-- Every step keeps the invariant: the byte stores of mailboxes, transfers and regions stay in canonical form, RDLEN
stays a length that SMBUS_RDLEN takes, every Steel cluster stays at a step of Table 11.2, and no page of Ingot gets
two holders. -/
def Obligations.StepKeepsInvariant : Prop :=
  ∀ s t : State, s.Inv → step s = .next t → t.Inv

/-- Direct and seam ports train only when both ends run in hall mode, and stay in electrical idle in cell mode (01 R31):
in cell mode no training phase of their lanes ends and PORT_ENABLE leaves them DOWN; in hall mode a partner whose
PARAM names cell mode is refused and the port goes no further. Completion: exec answers the next state named, for
every state and operands that meet the conditions on them alone, for portEnable, param. -/
def Obligations.DirectAndSeamPortsNeedHallMode : Prop :=
  (∀ (s : State) (l : BitVec 9) (o : PhaseObs), l.toNat < 256 → s.seamOrHall (l.toNat / 4) = true → s.irc.hall = false →
    exec (.trainingPhaseDone l o) s = .next s) ∧
  (∀ (s : State) (m : BitVec 6) (r : Req), s.fits m 0x501 → r = s.reqAt m → (s.port (r.b 0)).st = .fenced →
    s.seamOrHall (r.b 0) = true → s.irc.hall = false →
    ∃ t : State, exec (.portEnable m) s = .next (t.complete r.cmd 0 0 []) ∧ (t.port (r.b 0)).st = .down) ∧
  (∀ (s : State) (l : BitVec 9) (ws : List (BitVec 40)) (w : BitVec 40) (o : PhaseObs), s.on = true →
    sideHeard 3 ws = some w → bit (wordSb w) 4 = false → l.toNat < 256 → s.seamOrHall (l.toNat / 4) = true → s.irc.hall = true → (s.lane l.toNat).phase = 6 →
    ∃ t u : State, exec (.param l ws) s = .next t ∧
      t.lane l.toNat = { s.lane l.toNat with paramOk := some false } ∧ (t.port (l.toNat / 4)).st = (s.port (l.toNat / 4)).st ∧
      exec (.trainingPhaseDone l o) t = .next u ∧ (u.lane l.toNat).phase = 6 ∧
      (u.port (l.toNat / 4)).st = (s.port (l.toNat / 4)).st)

/-- A context is FREE, OPEN or DRAINING, and CTX_OPEN of a context that is not FREE is refused with NO_SLOT, so that
with no FREE context every open is (08 R202). Completion: exec answers the next state named, for every state and
operands that meet the conditions on them alone, for ctxOpen. -/
def Obligations.OpenOfHeldContextRefused : Prop :=
  (∀ c : Ctx, c.st = .free ∨ c.st = .opened ∨ c.st = .draining) ∧
  (∀ (s : State) (m : BitVec 6) (r : Req), s.fits m 0x101 → r = s.reqAt m → (s.ctx (r.b 0)).st ≠ .free →
    exec (.ctxOpen m) s = .next ((s.taken m).complete r.cmd 0x17 0 [])) ∧
  (∀ (s : State) (m : BitVec 6) (r : Req), s.fits m 0x101 → r = s.reqAt m → (∀ x, x < 256 → (s.ctx x).st ≠ .free) →
    exec (.ctxOpen m) s = .next ((s.taken m).complete r.cmd 0x17 0 []))

/-- Shapers (07 R193): a write of SCH_SHAPER_CFG or SCH_SHAPER_LIMIT sets the credit at the count of the write to HI
with RESET_MODE 1 and to 0 with RESET_MODE 0; a warm reset disables every shaper; a context reset changes no
register. Completion: exec answers the next state named, for every state and operands that meet the conditions on
them alone, for shaperWrite, ctxReset. -/
def Obligations.ShaperCreditAndReset : Prop :=
  (∀ (s : State) (w : Who) (p : BitVec 6) (k : BitVec 2) (limit : Bool) (v : Word), s.hears w →
    ∃ t : State, exec (.shaperWrite w p k limit v) s = .next t ∧ (t.shaper p.toNat k.toNat).at_ = s.clk ∧
      (bit (t.cfgAt (aShaper p.toNat k.toNat)).toNat 30 = true →
        (t.shaper p.toNat k.toNat).c = (t.shaperHi p.toNat k.toNat : Int)) ∧
      (bit (t.cfgAt (aShaper p.toNat k.toNat)).toNat 30 = false → (t.shaper p.toNat k.toNat).c = 0)) ∧
  (∀ (s : State) (cause : Nat) (b : BootObs) (p k : Nat), s.sys.classX = false → s.pins.floating = false → p < 64 → k < 4 →
    (s.warm cause b).shaperOn p k = false) ∧
  (∀ (s : State) (m : BitVec 6), ∃ t : State, exec (.ctxReset m) s = .next t ∧ t.cfg = s.cfg ∧
    t.sch.shapers = s.sch.shapers)

/-- With all 1,024 RSV fuses burned and no leaf left, ATTEST_QUOTE completes with BAD_STATE and signs nothing, then and
at every later ATTEST_QUOTE, and no tree is started; every other state stays but the mailbox that is answered (15
R423). Completion: exec answers the next state named, for every state and operands that meet the conditions on them
alone, for attestQuote. -/
def Obligations.SignaturesRunOut : Prop :=
  (∀ (s : State) (m : BitVec 6), s.fits m 0x601 → s.sec.busy = false → 1024 ≤ s.fuses.rsv →
    (s.sec.leaf = none ∨ s.sec.leaf = some 1024) →
    ∃ t : State, exec (.attestQuote m) s = .next t ∧ t = (s.taken m).complete (s.cmdAt m) 0x42 0 [] ∧ t.sec = s.sec ∧
      t.fuses = s.fuses ∧ t = { s with mbxs := t.mbxs, sol := t.sol }) ∧
  (∀ s : State, s.sec.busy = false → (∀ b : Bool, exec (.treeStartDone b) s = .next s))

/-- Exact sums (03 R66): whatever contributions of MX data meet, up to one of each of the 16,384 accelerators of a hall,
an accumulator, which counts in units of scale A, is at most 7,340,032 in magnitude and is what 32 bits of two's
complement hold of it. -/
def Obligations.ExactSumsNeverOverflow : Prop :=
  ∀ (d : List Byte) (g n : Nat) (fs : List (Nat × Nat × Frame)), isExact d = true → fs.length ≤ 16384 →
    ∀ b ∈ exactSum (dAscale d) n (fs.map (fun x => contribIn d x.1 g x.2.1 x.2.2)), ∀ v ∈ b.2,
      v.natAbs ≤ 7340032 ∧ (BitVec.ofInt 32 v).toInt = v

end
end

