-- ==== Sys2Proof/Laws/Mem.lean ====
section
/-! SUPPORT. Byte stores: every operation keeps the canonical form; what a read answers after a write; tables. -/

namespace Sys2Proof.Machine

/-! ### The canonical form -/

theorem Mem.wfFrom_mono {m : Mem} {lo lo' : Nat} (hl : lo' ≤ lo) (h : Mem.wfFrom lo m = true) :
    Mem.wfFrom lo' m = true := by
  cases m with
  | nil => rfl
  | cons e t =>
    simp only [Mem.wfFrom, Bool.and_eq_true, decide_eq_true_eq] at h ⊢
    exact ⟨⟨by omega, h.1.2⟩, h.2⟩

theorem Mem.wfFrom_write {m : Mem} {lo a : Nat} {v : Byte} (hl : lo ≤ a) (h : Mem.wfFrom lo m = true) :
    Mem.wfFrom lo (Mem.write m a v) = true := by
  induction m generalizing lo with
  | nil =>
    unfold Mem.write
    split
    · rfl
    · rename_i hv
      simpa [Mem.wfFrom, hl] using hv
  | cons e t ih =>
    obtain ⟨b, w⟩ := e
    simp only [Mem.wfFrom, Bool.and_eq_true, decide_eq_true_eq] at h
    obtain ⟨⟨h1, h2⟩, h3⟩ := h
    unfold Mem.write
    repeat' split
    · simpa [Mem.wfFrom, h1, h3] using h2
    · rename_i hb hv
      simp only [Mem.wfFrom, Bool.and_eq_true, decide_eq_true_eq]
      exact ⟨⟨hl, hv⟩, ⟨hb, h2⟩, h3⟩
    · exact Mem.wfFrom_mono (by omega) h3
    · rename_i hb hv
      subst hb
      simpa [Mem.wfFrom, hl, h3] using hv
    · rename_i hb hn
      simp only [Mem.wfFrom, Bool.and_eq_true, decide_eq_true_eq]
      exact ⟨⟨h1, h2⟩, ih (by omega) h3⟩

/-- A write keeps the canonical form. -/
theorem Mem.wf_write {m : Mem} {a : Nat} {v : Byte} (h : m.wf = true) : (Mem.write m a v).wf = true :=
  Mem.wfFrom_write (Nat.zero_le a) h

/-- Writing a run of bytes keeps the canonical form. -/
theorem Mem.wf_splice {m : Mem} {a : Nat} {bs : List Byte} (h : m.wf = true) : (Mem.splice m a bs).wf = true := by
  induction bs generalizing m a with
  | nil => exact h
  | cons b bs ih => exact ih (Mem.wf_write h)

/-! ### Reads after writes -/

theorem Mem.read_below {m : Mem} {lo a : Nat} (h : Mem.wfFrom lo m = true) (ha : a < lo) : Mem.read m a = 0 := by
  induction m generalizing lo with
  | nil => rfl
  | cons e t ih =>
    obtain ⟨b, w⟩ := e
    simp only [Mem.wfFrom, Bool.and_eq_true, decide_eq_true_eq] at h
    have hb : b ≠ a := by omega
    rw [Mem.read, if_neg hb]
    exact ih h.2 (by omega)

theorem Mem.read_writeFrom {m : Mem} {lo a x : Nat} {v : Byte} (h : Mem.wfFrom lo m = true) :
    Mem.read (Mem.write m a v) x = if a = x then v else Mem.read m x := by
  induction m generalizing lo with
  | nil =>
    unfold Mem.write
    by_cases hv : v = 0#8 <;> by_cases hx : a = x <;> simp [hv, hx, Mem.read]
  | cons e t ih =>
    obtain ⟨b, w⟩ := e
    simp only [Mem.wfFrom, Bool.and_eq_true, decide_eq_true_eq] at h
    obtain ⟨⟨h1, h2⟩, h3⟩ := h
    unfold Mem.write
    by_cases hab : a < b
    · rw [if_pos hab]
      by_cases hx : a = x
      · subst hx
        have hba : b ≠ a := by omega
        by_cases hv : v = 0#8
        · simp [hv, Mem.read, hba, Mem.read_below h3 (show a < b + 1 by omega)]
        · simp [hv, Mem.read]
      · by_cases hv : v = 0#8 <;> simp [hv, hx, Mem.read]
    · rw [if_neg hab]
      by_cases he : a = b
      · subst he
        rw [if_pos rfl]
        by_cases hx : a = x
        · subst hx
          by_cases hv : v = 0#8
          · simp [hv, Mem.read_below h3 (show a < a + 1 by omega)]
          · simp [hv, Mem.read]
        · by_cases hv : v = 0#8 <;> simp [hv, hx, Mem.read]
      · rw [if_neg he]
        by_cases hx : b = x
        · subst hx
          simp [Mem.read, he]
        · simp [Mem.read, hx, ih h3]

/-- A byte reads as written, and every other byte as before. -/
theorem Mem.read_write {m : Mem} {a x : Nat} {v : Byte} (h : m.wf = true) :
    Mem.read (Mem.write m a v) x = if a = x then v else Mem.read m x := Mem.read_writeFrom h

/-- A byte outside a run that is written reads as before. -/
theorem Mem.read_splice_outside {m : Mem} {a x : Nat} {bs : List Byte} (h : m.wf = true)
    (hx : x < a ∨ a + bs.length ≤ x) : Mem.read (Mem.splice m a bs) x = Mem.read m x := by
  induction bs generalizing m a with
  | nil => rfl
  | cons b bs ih =>
    rw [List.length_cons] at hx
    rw [Mem.splice, ih (Mem.wf_write h) (by omega), Mem.read_write h, if_neg (by omega)]

/-- A byte of a run that is written reads as written. -/
theorem Mem.read_splice_inside {m : Mem} {a i : Nat} {bs : List Byte} (h : m.wf = true) (hi : i < bs.length) :
    Mem.read (Mem.splice m a bs) (a + i) = bs[i] := by
  induction bs generalizing m a i with
  | nil => exact absurd hi (Nat.not_lt_zero i)
  | cons b bs ih =>
    rw [Mem.splice]
    cases i with
    | zero => rw [Mem.read_splice_outside (Mem.wf_write h) (by omega), Mem.read_write h, if_pos (Nat.add_zero a).symm]; rfl
    | succ i =>
      have hi' : i < bs.length := by simpa using hi
      rw [show a + (i + 1) = a + 1 + i by omega, ih (Mem.wf_write h) hi']
      rfl

/-! ### Tables -/

theorem tfind_mem {α : Type} {t : Tbl α} {k : Nat} {v : α} (h : tfind t k = some v) : (k, v) ∈ t := by
  induction t with
  | nil => cases h
  | cons e t ih =>
    obtain ⟨j, w⟩ := e
    unfold tfind at h
    split at h
    · rename_i hj
      cases h
      subst hj
      exact List.mem_cons_self
    · exact List.mem_cons_of_mem _ (ih h)

/-- What is in a table after an entry is set was set or was there. -/
theorem mem_tset {α : Type} {t : Tbl α} {k : Nat} {v : α} {e : Nat × α} (h : e ∈ tset t k v) :
    e = (k, v) ∨ e ∈ t := by
  induction t with
  | nil => exact .inl (by simpa [tset] using h)
  | cons x t ih =>
    obtain ⟨j, w⟩ := x
    unfold tset at h
    repeat' split at h
    · rcases List.mem_cons.mp h with h | h
      · exact .inl h
      · exact .inr h
    · rcases List.mem_cons.mp h with h | h
      · exact .inl h
      · exact .inr (List.mem_cons_of_mem _ h)
    · rcases List.mem_cons.mp h with h | h
      · exact .inr (h ▸ List.mem_cons_self)
      · exact (ih h).imp id (List.mem_cons_of_mem _)

/-- What is in a table after an entry is deleted was there. -/
theorem mem_tdel {α : Type} {t : Tbl α} {k : Nat} {e : Nat × α} (h : e ∈ tdel t k) : e ∈ t :=
  (List.mem_filter.mp h).1

/-- A key that was set is found; every other key is found as before. -/
theorem tfind_tset {α : Type} {t : Tbl α} {k x : Nat} {v : α} :
    tfind (tset t k v) x = if k = x then some v else tfind t x := by
  induction t with
  | nil => simp [tset, tfind]
  | cons e t ih =>
    obtain ⟨j, w⟩ := e
    unfold tset
    split
    · simp [tfind]
    · split
      · rename_i hk
        subst hk
        by_cases hx : k = x <;> simp [tfind, hx]
      · by_cases hx : j = x
        · subst hx
          rename_i h1 h2
          simp [tfind, h2]
        · simp [tfind, hx, ih]

/-- A key that was deleted is not found; every other key is found as before. -/
theorem tfind_tdel {α : Type} {t : Tbl α} {k x : Nat} :
    tfind (tdel t k) x = if k = x then none else tfind t x := by
  induction t with
  | nil => simp [tdel, tfind]
  | cons e t ih =>
    obtain ⟨j, w⟩ := e
    unfold tdel at *
    by_cases hj : j = k
    · subst hj
      rw [List.filter_cons_of_neg (by simp), ih]
      by_cases hx : j = x <;> simp [tfind, hx]
    · rw [List.filter_cons_of_pos (by simp [hj])]
      by_cases hx : j = x
      · subst hx
        simp [tfind, Ne.symm hj]
      · simp [tfind, hx, ih]

/-- A table reads as set at the key, and as before at every other. -/
theorem tget_tset {α : Type} {t : Tbl α} {k x : Nat} {v d : α} :
    tget (tset t k v) x d = if k = x then v else tget t x d := by
  unfold tget
  rw [tfind_tset]
  split <;> rfl

end Sys2Proof.Machine
end

