-- ==== Sys2Proof/Laws/State.lean ====
section
/-! SUPPORT. What each named update of the state leaves and what it sets: one lemma per field. -/

namespace Sys2Proof.Machine

section
variable (s : State)

/-! #### setLane -/

@[simp] theorem State.setLane_pending (l : Nat) (v : Lane) : (s.setLane l v).pending = s.pending := rfl
@[simp] theorem State.setLane_clk (l : Nat) (v : Lane) : (s.setLane l v).clk = s.clk := rfl
@[simp] theorem State.setLane_freeCtr (l : Nat) (v : Lane) : (s.setLane l v).freeCtr = s.freeCtr := rfl
@[simp] theorem State.setLane_fuses (l : Nat) (v : Lane) : (s.setLane l v).fuses = s.fuses := rfl
@[simp] theorem State.setLane_flash (l : Nat) (v : Lane) : (s.setLane l v).flash = s.flash := rfl
@[simp] theorem State.setLane_pins (l : Nat) (v : Lane) : (s.setLane l v).pins = s.pins := rfl
@[simp] theorem State.setLane_smb (l : Nat) (v : Lane) : (s.setLane l v).smb = s.smb := rfl
@[simp] theorem State.setLane_bus (l : Nat) (v : Lane) : (s.setLane l v).bus = s.bus := rfl
@[simp] theorem State.setLane_cfg (l : Nat) (v : Lane) : (s.setLane l v).cfg = s.cfg := rfl
@[simp] theorem State.setLane_cnt (l : Nat) (v : Lane) : (s.setLane l v).cnt = s.cnt := rfl
@[simp] theorem State.setLane_cleared (l : Nat) (v : Lane) : (s.setLane l v).cleared = s.cleared := rfl
@[simp] theorem State.setLane_latch (l : Nat) (v : Lane) : (s.setLane l v).latch = s.latch := rfl
@[simp] theorem State.setLane_sys (l : Nat) (v : Lane) : (s.setLane l v).sys = s.sys := rfl
@[simp] theorem State.setLane_irc (l : Nat) (v : Lane) : (s.setLane l v).irc = s.irc := rfl
@[simp] theorem State.setLane_mbxs (l : Nat) (v : Lane) : (s.setLane l v).mbxs = s.mbxs := rfl
@[simp] theorem State.setLane_bound (l : Nat) (v : Lane) : (s.setLane l v).bound = s.bound := rfl
@[simp] theorem State.setLane_xfers (l : Nat) (v : Lane) : (s.setLane l v).xfers = s.xfers := rfl
@[simp] theorem State.setLane_heldRx (l : Nat) (v : Lane) : (s.setLane l v).heldRx = s.heldRx := rfl
@[simp] theorem State.setLane_ports (l : Nat) (v : Lane) : (s.setLane l v).ports = s.ports := rfl
@[simp] theorem State.setLane_aux (l : Nat) (v : Lane) : (s.setLane l v).aux = s.aux := rfl
@[simp] theorem State.setLane_sol (l : Nat) (v : Lane) : (s.setLane l v).sol = s.sol := rfl
@[simp] theorem State.setLane_sch (l : Nat) (v : Lane) : (s.setLane l v).sch = s.sch := rfl
@[simp] theorem State.setLane_ctxs (l : Nat) (v : Lane) : (s.setLane l v).ctxs = s.ctxs := rfl
@[simp] theorem State.setLane_groups (l : Nat) (v : Lane) : (s.setLane l v).groups = s.groups := rfl
@[simp] theorem State.setLane_tensors (l : Nat) (v : Lane) : (s.setLane l v).tensors = s.tensors := rfl
@[simp] theorem State.setLane_regions (l : Nat) (v : Lane) : (s.setLane l v).regions = s.regions := rfl
@[simp] theorem State.setLane_slots (l : Nat) (v : Lane) : (s.setLane l v).slots = s.slots := rfl
@[simp] theorem State.setLane_queue (l : Nat) (v : Lane) : (s.setLane l v).queue = s.queue := rfl
@[simp] theorem State.setLane_lateDescs (l : Nat) (v : Lane) : (s.setLane l v).lateDescs = s.lateDescs := rfl
@[simp] theorem State.setLane_bzFenced (l : Nat) (v : Lane) : (s.setLane l v).bzFenced = s.bzFenced := rfl
@[simp] theorem State.setLane_pwt (l : Nat) (v : Lane) : (s.setLane l v).pwt = s.pwt := rfl
@[simp] theorem State.setLane_stl (l : Nat) (v : Lane) : (s.setLane l v).stl = s.stl := rfl
@[simp] theorem State.setLane_ing (l : Nat) (v : Lane) : (s.setLane l v).ing = s.ing := rfl
@[simp] theorem State.setLane_flt (l : Nat) (v : Lane) : (s.setLane l v).flt = s.flt := rfl
@[simp] theorem State.setLane_sec (l : Nat) (v : Lane) : (s.setLane l v).sec = s.sec := rfl

/-! #### setPort -/

@[simp] theorem State.setPort_pending (p : Nat) (v : Port) : (s.setPort p v).pending = s.pending := rfl
@[simp] theorem State.setPort_clk (p : Nat) (v : Port) : (s.setPort p v).clk = s.clk := rfl
@[simp] theorem State.setPort_freeCtr (p : Nat) (v : Port) : (s.setPort p v).freeCtr = s.freeCtr := rfl
@[simp] theorem State.setPort_fuses (p : Nat) (v : Port) : (s.setPort p v).fuses = s.fuses := rfl
@[simp] theorem State.setPort_flash (p : Nat) (v : Port) : (s.setPort p v).flash = s.flash := rfl
@[simp] theorem State.setPort_pins (p : Nat) (v : Port) : (s.setPort p v).pins = s.pins := rfl
@[simp] theorem State.setPort_smb (p : Nat) (v : Port) : (s.setPort p v).smb = s.smb := rfl
@[simp] theorem State.setPort_bus (p : Nat) (v : Port) : (s.setPort p v).bus = s.bus := rfl
@[simp] theorem State.setPort_cfg (p : Nat) (v : Port) : (s.setPort p v).cfg = s.cfg := rfl
@[simp] theorem State.setPort_cnt (p : Nat) (v : Port) : (s.setPort p v).cnt = s.cnt := rfl
@[simp] theorem State.setPort_cleared (p : Nat) (v : Port) : (s.setPort p v).cleared = s.cleared := rfl
@[simp] theorem State.setPort_latch (p : Nat) (v : Port) : (s.setPort p v).latch = s.latch := rfl
@[simp] theorem State.setPort_sys (p : Nat) (v : Port) : (s.setPort p v).sys = s.sys := rfl
@[simp] theorem State.setPort_irc (p : Nat) (v : Port) : (s.setPort p v).irc = s.irc := rfl
@[simp] theorem State.setPort_mbxs (p : Nat) (v : Port) : (s.setPort p v).mbxs = s.mbxs := rfl
@[simp] theorem State.setPort_bound (p : Nat) (v : Port) : (s.setPort p v).bound = s.bound := rfl
@[simp] theorem State.setPort_xfers (p : Nat) (v : Port) : (s.setPort p v).xfers = s.xfers := rfl
@[simp] theorem State.setPort_heldRx (p : Nat) (v : Port) : (s.setPort p v).heldRx = s.heldRx := rfl
@[simp] theorem State.setPort_lanes (p : Nat) (v : Port) : (s.setPort p v).lanes = s.lanes := rfl
@[simp] theorem State.setPort_aux (p : Nat) (v : Port) : (s.setPort p v).aux = s.aux := rfl
@[simp] theorem State.setPort_sol (p : Nat) (v : Port) : (s.setPort p v).sol = s.sol := rfl
@[simp] theorem State.setPort_sch (p : Nat) (v : Port) : (s.setPort p v).sch = s.sch := rfl
@[simp] theorem State.setPort_ctxs (p : Nat) (v : Port) : (s.setPort p v).ctxs = s.ctxs := rfl
@[simp] theorem State.setPort_groups (p : Nat) (v : Port) : (s.setPort p v).groups = s.groups := rfl
@[simp] theorem State.setPort_tensors (p : Nat) (v : Port) : (s.setPort p v).tensors = s.tensors := rfl
@[simp] theorem State.setPort_regions (p : Nat) (v : Port) : (s.setPort p v).regions = s.regions := rfl
@[simp] theorem State.setPort_slots (p : Nat) (v : Port) : (s.setPort p v).slots = s.slots := rfl
@[simp] theorem State.setPort_queue (p : Nat) (v : Port) : (s.setPort p v).queue = s.queue := rfl
@[simp] theorem State.setPort_lateDescs (p : Nat) (v : Port) : (s.setPort p v).lateDescs = s.lateDescs := rfl
@[simp] theorem State.setPort_bzFenced (p : Nat) (v : Port) : (s.setPort p v).bzFenced = s.bzFenced := rfl
@[simp] theorem State.setPort_pwt (p : Nat) (v : Port) : (s.setPort p v).pwt = s.pwt := rfl
@[simp] theorem State.setPort_stl (p : Nat) (v : Port) : (s.setPort p v).stl = s.stl := rfl
@[simp] theorem State.setPort_ing (p : Nat) (v : Port) : (s.setPort p v).ing = s.ing := rfl
@[simp] theorem State.setPort_flt (p : Nat) (v : Port) : (s.setPort p v).flt = s.flt := rfl
@[simp] theorem State.setPort_sec (p : Nat) (v : Port) : (s.setPort p v).sec = s.sec := rfl

/-! #### setPaux -/

@[simp] theorem State.setPaux_pending (p : Nat) (v : PortAux) : (s.setPaux p v).pending = s.pending := rfl
@[simp] theorem State.setPaux_clk (p : Nat) (v : PortAux) : (s.setPaux p v).clk = s.clk := rfl
@[simp] theorem State.setPaux_freeCtr (p : Nat) (v : PortAux) : (s.setPaux p v).freeCtr = s.freeCtr := rfl
@[simp] theorem State.setPaux_fuses (p : Nat) (v : PortAux) : (s.setPaux p v).fuses = s.fuses := rfl
@[simp] theorem State.setPaux_flash (p : Nat) (v : PortAux) : (s.setPaux p v).flash = s.flash := rfl
@[simp] theorem State.setPaux_pins (p : Nat) (v : PortAux) : (s.setPaux p v).pins = s.pins := rfl
@[simp] theorem State.setPaux_smb (p : Nat) (v : PortAux) : (s.setPaux p v).smb = s.smb := rfl
@[simp] theorem State.setPaux_bus (p : Nat) (v : PortAux) : (s.setPaux p v).bus = s.bus := rfl
@[simp] theorem State.setPaux_cfg (p : Nat) (v : PortAux) : (s.setPaux p v).cfg = s.cfg := rfl
@[simp] theorem State.setPaux_cnt (p : Nat) (v : PortAux) : (s.setPaux p v).cnt = s.cnt := rfl
@[simp] theorem State.setPaux_cleared (p : Nat) (v : PortAux) : (s.setPaux p v).cleared = s.cleared := rfl
@[simp] theorem State.setPaux_latch (p : Nat) (v : PortAux) : (s.setPaux p v).latch = s.latch := rfl
@[simp] theorem State.setPaux_sys (p : Nat) (v : PortAux) : (s.setPaux p v).sys = s.sys := rfl
@[simp] theorem State.setPaux_irc (p : Nat) (v : PortAux) : (s.setPaux p v).irc = s.irc := rfl
@[simp] theorem State.setPaux_mbxs (p : Nat) (v : PortAux) : (s.setPaux p v).mbxs = s.mbxs := rfl
@[simp] theorem State.setPaux_bound (p : Nat) (v : PortAux) : (s.setPaux p v).bound = s.bound := rfl
@[simp] theorem State.setPaux_xfers (p : Nat) (v : PortAux) : (s.setPaux p v).xfers = s.xfers := rfl
@[simp] theorem State.setPaux_heldRx (p : Nat) (v : PortAux) : (s.setPaux p v).heldRx = s.heldRx := rfl
@[simp] theorem State.setPaux_lanes (p : Nat) (v : PortAux) : (s.setPaux p v).lanes = s.lanes := rfl
@[simp] theorem State.setPaux_ports (p : Nat) (v : PortAux) : (s.setPaux p v).ports = s.ports := rfl
@[simp] theorem State.setPaux_sol (p : Nat) (v : PortAux) : (s.setPaux p v).sol = s.sol := rfl
@[simp] theorem State.setPaux_sch (p : Nat) (v : PortAux) : (s.setPaux p v).sch = s.sch := rfl
@[simp] theorem State.setPaux_ctxs (p : Nat) (v : PortAux) : (s.setPaux p v).ctxs = s.ctxs := rfl
@[simp] theorem State.setPaux_groups (p : Nat) (v : PortAux) : (s.setPaux p v).groups = s.groups := rfl
@[simp] theorem State.setPaux_tensors (p : Nat) (v : PortAux) : (s.setPaux p v).tensors = s.tensors := rfl
@[simp] theorem State.setPaux_regions (p : Nat) (v : PortAux) : (s.setPaux p v).regions = s.regions := rfl
@[simp] theorem State.setPaux_slots (p : Nat) (v : PortAux) : (s.setPaux p v).slots = s.slots := rfl
@[simp] theorem State.setPaux_queue (p : Nat) (v : PortAux) : (s.setPaux p v).queue = s.queue := rfl
@[simp] theorem State.setPaux_lateDescs (p : Nat) (v : PortAux) : (s.setPaux p v).lateDescs = s.lateDescs := rfl
@[simp] theorem State.setPaux_bzFenced (p : Nat) (v : PortAux) : (s.setPaux p v).bzFenced = s.bzFenced := rfl
@[simp] theorem State.setPaux_pwt (p : Nat) (v : PortAux) : (s.setPaux p v).pwt = s.pwt := rfl
@[simp] theorem State.setPaux_stl (p : Nat) (v : PortAux) : (s.setPaux p v).stl = s.stl := rfl
@[simp] theorem State.setPaux_ing (p : Nat) (v : PortAux) : (s.setPaux p v).ing = s.ing := rfl
@[simp] theorem State.setPaux_flt (p : Nat) (v : PortAux) : (s.setPaux p v).flt = s.flt := rfl
@[simp] theorem State.setPaux_sec (p : Nat) (v : PortAux) : (s.setPaux p v).sec = s.sec := rfl

/-! #### setMbx -/

@[simp] theorem State.setMbx_pending (m : Nat) (v : Mbx) : (s.setMbx m v).pending = s.pending := rfl
@[simp] theorem State.setMbx_clk (m : Nat) (v : Mbx) : (s.setMbx m v).clk = s.clk := rfl
@[simp] theorem State.setMbx_freeCtr (m : Nat) (v : Mbx) : (s.setMbx m v).freeCtr = s.freeCtr := rfl
@[simp] theorem State.setMbx_fuses (m : Nat) (v : Mbx) : (s.setMbx m v).fuses = s.fuses := rfl
@[simp] theorem State.setMbx_flash (m : Nat) (v : Mbx) : (s.setMbx m v).flash = s.flash := rfl
@[simp] theorem State.setMbx_pins (m : Nat) (v : Mbx) : (s.setMbx m v).pins = s.pins := rfl
@[simp] theorem State.setMbx_smb (m : Nat) (v : Mbx) : (s.setMbx m v).smb = s.smb := rfl
@[simp] theorem State.setMbx_bus (m : Nat) (v : Mbx) : (s.setMbx m v).bus = s.bus := rfl
@[simp] theorem State.setMbx_cfg (m : Nat) (v : Mbx) : (s.setMbx m v).cfg = s.cfg := rfl
@[simp] theorem State.setMbx_cnt (m : Nat) (v : Mbx) : (s.setMbx m v).cnt = s.cnt := rfl
@[simp] theorem State.setMbx_cleared (m : Nat) (v : Mbx) : (s.setMbx m v).cleared = s.cleared := rfl
@[simp] theorem State.setMbx_latch (m : Nat) (v : Mbx) : (s.setMbx m v).latch = s.latch := rfl
@[simp] theorem State.setMbx_sys (m : Nat) (v : Mbx) : (s.setMbx m v).sys = s.sys := rfl
@[simp] theorem State.setMbx_irc (m : Nat) (v : Mbx) : (s.setMbx m v).irc = s.irc := rfl
@[simp] theorem State.setMbx_bound (m : Nat) (v : Mbx) : (s.setMbx m v).bound = s.bound := rfl
@[simp] theorem State.setMbx_xfers (m : Nat) (v : Mbx) : (s.setMbx m v).xfers = s.xfers := rfl
@[simp] theorem State.setMbx_heldRx (m : Nat) (v : Mbx) : (s.setMbx m v).heldRx = s.heldRx := rfl
@[simp] theorem State.setMbx_lanes (m : Nat) (v : Mbx) : (s.setMbx m v).lanes = s.lanes := rfl
@[simp] theorem State.setMbx_ports (m : Nat) (v : Mbx) : (s.setMbx m v).ports = s.ports := rfl
@[simp] theorem State.setMbx_aux (m : Nat) (v : Mbx) : (s.setMbx m v).aux = s.aux := rfl
@[simp] theorem State.setMbx_sol (m : Nat) (v : Mbx) : (s.setMbx m v).sol = s.sol := rfl
@[simp] theorem State.setMbx_sch (m : Nat) (v : Mbx) : (s.setMbx m v).sch = s.sch := rfl
@[simp] theorem State.setMbx_ctxs (m : Nat) (v : Mbx) : (s.setMbx m v).ctxs = s.ctxs := rfl
@[simp] theorem State.setMbx_groups (m : Nat) (v : Mbx) : (s.setMbx m v).groups = s.groups := rfl
@[simp] theorem State.setMbx_tensors (m : Nat) (v : Mbx) : (s.setMbx m v).tensors = s.tensors := rfl
@[simp] theorem State.setMbx_regions (m : Nat) (v : Mbx) : (s.setMbx m v).regions = s.regions := rfl
@[simp] theorem State.setMbx_slots (m : Nat) (v : Mbx) : (s.setMbx m v).slots = s.slots := rfl
@[simp] theorem State.setMbx_queue (m : Nat) (v : Mbx) : (s.setMbx m v).queue = s.queue := rfl
@[simp] theorem State.setMbx_lateDescs (m : Nat) (v : Mbx) : (s.setMbx m v).lateDescs = s.lateDescs := rfl
@[simp] theorem State.setMbx_bzFenced (m : Nat) (v : Mbx) : (s.setMbx m v).bzFenced = s.bzFenced := rfl
@[simp] theorem State.setMbx_pwt (m : Nat) (v : Mbx) : (s.setMbx m v).pwt = s.pwt := rfl
@[simp] theorem State.setMbx_stl (m : Nat) (v : Mbx) : (s.setMbx m v).stl = s.stl := rfl
@[simp] theorem State.setMbx_ing (m : Nat) (v : Mbx) : (s.setMbx m v).ing = s.ing := rfl
@[simp] theorem State.setMbx_flt (m : Nat) (v : Mbx) : (s.setMbx m v).flt = s.flt := rfl
@[simp] theorem State.setMbx_sec (m : Nat) (v : Mbx) : (s.setMbx m v).sec = s.sec := rfl

/-! #### setCtx -/

@[simp] theorem State.setCtx_pending (c : Nat) (v : Ctx) : (s.setCtx c v).pending = s.pending := rfl
@[simp] theorem State.setCtx_clk (c : Nat) (v : Ctx) : (s.setCtx c v).clk = s.clk := rfl
@[simp] theorem State.setCtx_freeCtr (c : Nat) (v : Ctx) : (s.setCtx c v).freeCtr = s.freeCtr := rfl
@[simp] theorem State.setCtx_fuses (c : Nat) (v : Ctx) : (s.setCtx c v).fuses = s.fuses := rfl
@[simp] theorem State.setCtx_flash (c : Nat) (v : Ctx) : (s.setCtx c v).flash = s.flash := rfl
@[simp] theorem State.setCtx_pins (c : Nat) (v : Ctx) : (s.setCtx c v).pins = s.pins := rfl
@[simp] theorem State.setCtx_smb (c : Nat) (v : Ctx) : (s.setCtx c v).smb = s.smb := rfl
@[simp] theorem State.setCtx_bus (c : Nat) (v : Ctx) : (s.setCtx c v).bus = s.bus := rfl
@[simp] theorem State.setCtx_cfg (c : Nat) (v : Ctx) : (s.setCtx c v).cfg = s.cfg := rfl
@[simp] theorem State.setCtx_cnt (c : Nat) (v : Ctx) : (s.setCtx c v).cnt = s.cnt := rfl
@[simp] theorem State.setCtx_cleared (c : Nat) (v : Ctx) : (s.setCtx c v).cleared = s.cleared := rfl
@[simp] theorem State.setCtx_latch (c : Nat) (v : Ctx) : (s.setCtx c v).latch = s.latch := rfl
@[simp] theorem State.setCtx_sys (c : Nat) (v : Ctx) : (s.setCtx c v).sys = s.sys := rfl
@[simp] theorem State.setCtx_irc (c : Nat) (v : Ctx) : (s.setCtx c v).irc = s.irc := rfl
@[simp] theorem State.setCtx_mbxs (c : Nat) (v : Ctx) : (s.setCtx c v).mbxs = s.mbxs := rfl
@[simp] theorem State.setCtx_bound (c : Nat) (v : Ctx) : (s.setCtx c v).bound = s.bound := rfl
@[simp] theorem State.setCtx_xfers (c : Nat) (v : Ctx) : (s.setCtx c v).xfers = s.xfers := rfl
@[simp] theorem State.setCtx_heldRx (c : Nat) (v : Ctx) : (s.setCtx c v).heldRx = s.heldRx := rfl
@[simp] theorem State.setCtx_lanes (c : Nat) (v : Ctx) : (s.setCtx c v).lanes = s.lanes := rfl
@[simp] theorem State.setCtx_ports (c : Nat) (v : Ctx) : (s.setCtx c v).ports = s.ports := rfl
@[simp] theorem State.setCtx_aux (c : Nat) (v : Ctx) : (s.setCtx c v).aux = s.aux := rfl
@[simp] theorem State.setCtx_sol (c : Nat) (v : Ctx) : (s.setCtx c v).sol = s.sol := rfl
@[simp] theorem State.setCtx_sch (c : Nat) (v : Ctx) : (s.setCtx c v).sch = s.sch := rfl
@[simp] theorem State.setCtx_groups (c : Nat) (v : Ctx) : (s.setCtx c v).groups = s.groups := rfl
@[simp] theorem State.setCtx_tensors (c : Nat) (v : Ctx) : (s.setCtx c v).tensors = s.tensors := rfl
@[simp] theorem State.setCtx_regions (c : Nat) (v : Ctx) : (s.setCtx c v).regions = s.regions := rfl
@[simp] theorem State.setCtx_slots (c : Nat) (v : Ctx) : (s.setCtx c v).slots = s.slots := rfl
@[simp] theorem State.setCtx_queue (c : Nat) (v : Ctx) : (s.setCtx c v).queue = s.queue := rfl
@[simp] theorem State.setCtx_lateDescs (c : Nat) (v : Ctx) : (s.setCtx c v).lateDescs = s.lateDescs := rfl
@[simp] theorem State.setCtx_bzFenced (c : Nat) (v : Ctx) : (s.setCtx c v).bzFenced = s.bzFenced := rfl
@[simp] theorem State.setCtx_pwt (c : Nat) (v : Ctx) : (s.setCtx c v).pwt = s.pwt := rfl
@[simp] theorem State.setCtx_stl (c : Nat) (v : Ctx) : (s.setCtx c v).stl = s.stl := rfl
@[simp] theorem State.setCtx_ing (c : Nat) (v : Ctx) : (s.setCtx c v).ing = s.ing := rfl
@[simp] theorem State.setCtx_flt (c : Nat) (v : Ctx) : (s.setCtx c v).flt = s.flt := rfl
@[simp] theorem State.setCtx_sec (c : Nat) (v : Ctx) : (s.setCtx c v).sec = s.sec := rfl

/-! #### setCluster -/

@[simp] theorem State.setCluster_pending (k : Nat) (v : Cluster) : (s.setCluster k v).pending = s.pending := rfl
@[simp] theorem State.setCluster_clk (k : Nat) (v : Cluster) : (s.setCluster k v).clk = s.clk := rfl
@[simp] theorem State.setCluster_freeCtr (k : Nat) (v : Cluster) : (s.setCluster k v).freeCtr = s.freeCtr := rfl
@[simp] theorem State.setCluster_fuses (k : Nat) (v : Cluster) : (s.setCluster k v).fuses = s.fuses := rfl
@[simp] theorem State.setCluster_flash (k : Nat) (v : Cluster) : (s.setCluster k v).flash = s.flash := rfl
@[simp] theorem State.setCluster_pins (k : Nat) (v : Cluster) : (s.setCluster k v).pins = s.pins := rfl
@[simp] theorem State.setCluster_smb (k : Nat) (v : Cluster) : (s.setCluster k v).smb = s.smb := rfl
@[simp] theorem State.setCluster_bus (k : Nat) (v : Cluster) : (s.setCluster k v).bus = s.bus := rfl
@[simp] theorem State.setCluster_cfg (k : Nat) (v : Cluster) : (s.setCluster k v).cfg = s.cfg := rfl
@[simp] theorem State.setCluster_cnt (k : Nat) (v : Cluster) : (s.setCluster k v).cnt = s.cnt := rfl
@[simp] theorem State.setCluster_cleared (k : Nat) (v : Cluster) : (s.setCluster k v).cleared = s.cleared := rfl
@[simp] theorem State.setCluster_latch (k : Nat) (v : Cluster) : (s.setCluster k v).latch = s.latch := rfl
@[simp] theorem State.setCluster_sys (k : Nat) (v : Cluster) : (s.setCluster k v).sys = s.sys := rfl
@[simp] theorem State.setCluster_irc (k : Nat) (v : Cluster) : (s.setCluster k v).irc = s.irc := rfl
@[simp] theorem State.setCluster_mbxs (k : Nat) (v : Cluster) : (s.setCluster k v).mbxs = s.mbxs := rfl
@[simp] theorem State.setCluster_bound (k : Nat) (v : Cluster) : (s.setCluster k v).bound = s.bound := rfl
@[simp] theorem State.setCluster_xfers (k : Nat) (v : Cluster) : (s.setCluster k v).xfers = s.xfers := rfl
@[simp] theorem State.setCluster_heldRx (k : Nat) (v : Cluster) : (s.setCluster k v).heldRx = s.heldRx := rfl
@[simp] theorem State.setCluster_lanes (k : Nat) (v : Cluster) : (s.setCluster k v).lanes = s.lanes := rfl
@[simp] theorem State.setCluster_ports (k : Nat) (v : Cluster) : (s.setCluster k v).ports = s.ports := rfl
@[simp] theorem State.setCluster_aux (k : Nat) (v : Cluster) : (s.setCluster k v).aux = s.aux := rfl
@[simp] theorem State.setCluster_sol (k : Nat) (v : Cluster) : (s.setCluster k v).sol = s.sol := rfl
@[simp] theorem State.setCluster_sch (k : Nat) (v : Cluster) : (s.setCluster k v).sch = s.sch := rfl
@[simp] theorem State.setCluster_ctxs (k : Nat) (v : Cluster) : (s.setCluster k v).ctxs = s.ctxs := rfl
@[simp] theorem State.setCluster_groups (k : Nat) (v : Cluster) : (s.setCluster k v).groups = s.groups := rfl
@[simp] theorem State.setCluster_tensors (k : Nat) (v : Cluster) : (s.setCluster k v).tensors = s.tensors := rfl
@[simp] theorem State.setCluster_regions (k : Nat) (v : Cluster) : (s.setCluster k v).regions = s.regions := rfl
@[simp] theorem State.setCluster_slots (k : Nat) (v : Cluster) : (s.setCluster k v).slots = s.slots := rfl
@[simp] theorem State.setCluster_queue (k : Nat) (v : Cluster) : (s.setCluster k v).queue = s.queue := rfl
@[simp] theorem State.setCluster_lateDescs (k : Nat) (v : Cluster) : (s.setCluster k v).lateDescs = s.lateDescs := rfl
@[simp] theorem State.setCluster_bzFenced (k : Nat) (v : Cluster) : (s.setCluster k v).bzFenced = s.bzFenced := rfl
@[simp] theorem State.setCluster_pwt (k : Nat) (v : Cluster) : (s.setCluster k v).pwt = s.pwt := rfl
@[simp] theorem State.setCluster_ing (k : Nat) (v : Cluster) : (s.setCluster k v).ing = s.ing := rfl
@[simp] theorem State.setCluster_flt (k : Nat) (v : Cluster) : (s.setCluster k v).flt = s.flt := rfl
@[simp] theorem State.setCluster_sec (k : Nat) (v : Cluster) : (s.setCluster k v).sec = s.sec := rfl

/-! #### setStack -/

@[simp] theorem State.setStack_pending (k : Nat) (v : Stack) : (s.setStack k v).pending = s.pending := rfl
@[simp] theorem State.setStack_clk (k : Nat) (v : Stack) : (s.setStack k v).clk = s.clk := rfl
@[simp] theorem State.setStack_freeCtr (k : Nat) (v : Stack) : (s.setStack k v).freeCtr = s.freeCtr := rfl
@[simp] theorem State.setStack_fuses (k : Nat) (v : Stack) : (s.setStack k v).fuses = s.fuses := rfl
@[simp] theorem State.setStack_flash (k : Nat) (v : Stack) : (s.setStack k v).flash = s.flash := rfl
@[simp] theorem State.setStack_pins (k : Nat) (v : Stack) : (s.setStack k v).pins = s.pins := rfl
@[simp] theorem State.setStack_smb (k : Nat) (v : Stack) : (s.setStack k v).smb = s.smb := rfl
@[simp] theorem State.setStack_bus (k : Nat) (v : Stack) : (s.setStack k v).bus = s.bus := rfl
@[simp] theorem State.setStack_cfg (k : Nat) (v : Stack) : (s.setStack k v).cfg = s.cfg := rfl
@[simp] theorem State.setStack_cnt (k : Nat) (v : Stack) : (s.setStack k v).cnt = s.cnt := rfl
@[simp] theorem State.setStack_cleared (k : Nat) (v : Stack) : (s.setStack k v).cleared = s.cleared := rfl
@[simp] theorem State.setStack_latch (k : Nat) (v : Stack) : (s.setStack k v).latch = s.latch := rfl
@[simp] theorem State.setStack_sys (k : Nat) (v : Stack) : (s.setStack k v).sys = s.sys := rfl
@[simp] theorem State.setStack_irc (k : Nat) (v : Stack) : (s.setStack k v).irc = s.irc := rfl
@[simp] theorem State.setStack_mbxs (k : Nat) (v : Stack) : (s.setStack k v).mbxs = s.mbxs := rfl
@[simp] theorem State.setStack_bound (k : Nat) (v : Stack) : (s.setStack k v).bound = s.bound := rfl
@[simp] theorem State.setStack_xfers (k : Nat) (v : Stack) : (s.setStack k v).xfers = s.xfers := rfl
@[simp] theorem State.setStack_heldRx (k : Nat) (v : Stack) : (s.setStack k v).heldRx = s.heldRx := rfl
@[simp] theorem State.setStack_lanes (k : Nat) (v : Stack) : (s.setStack k v).lanes = s.lanes := rfl
@[simp] theorem State.setStack_ports (k : Nat) (v : Stack) : (s.setStack k v).ports = s.ports := rfl
@[simp] theorem State.setStack_aux (k : Nat) (v : Stack) : (s.setStack k v).aux = s.aux := rfl
@[simp] theorem State.setStack_sol (k : Nat) (v : Stack) : (s.setStack k v).sol = s.sol := rfl
@[simp] theorem State.setStack_sch (k : Nat) (v : Stack) : (s.setStack k v).sch = s.sch := rfl
@[simp] theorem State.setStack_ctxs (k : Nat) (v : Stack) : (s.setStack k v).ctxs = s.ctxs := rfl
@[simp] theorem State.setStack_groups (k : Nat) (v : Stack) : (s.setStack k v).groups = s.groups := rfl
@[simp] theorem State.setStack_tensors (k : Nat) (v : Stack) : (s.setStack k v).tensors = s.tensors := rfl
@[simp] theorem State.setStack_regions (k : Nat) (v : Stack) : (s.setStack k v).regions = s.regions := rfl
@[simp] theorem State.setStack_slots (k : Nat) (v : Stack) : (s.setStack k v).slots = s.slots := rfl
@[simp] theorem State.setStack_queue (k : Nat) (v : Stack) : (s.setStack k v).queue = s.queue := rfl
@[simp] theorem State.setStack_lateDescs (k : Nat) (v : Stack) : (s.setStack k v).lateDescs = s.lateDescs := rfl
@[simp] theorem State.setStack_bzFenced (k : Nat) (v : Stack) : (s.setStack k v).bzFenced = s.bzFenced := rfl
@[simp] theorem State.setStack_pwt (k : Nat) (v : Stack) : (s.setStack k v).pwt = s.pwt := rfl
@[simp] theorem State.setStack_stl (k : Nat) (v : Stack) : (s.setStack k v).stl = s.stl := rfl
@[simp] theorem State.setStack_flt (k : Nat) (v : Stack) : (s.setStack k v).flt = s.flt := rfl
@[simp] theorem State.setStack_sec (k : Nat) (v : Stack) : (s.setStack k v).sec = s.sec := rfl

/-! #### setTensor -/

@[simp] theorem State.setTensor_pending (c t : Nat) (v : Tensor) : (s.setTensor c t v).pending = s.pending := rfl
@[simp] theorem State.setTensor_clk (c t : Nat) (v : Tensor) : (s.setTensor c t v).clk = s.clk := rfl
@[simp] theorem State.setTensor_freeCtr (c t : Nat) (v : Tensor) : (s.setTensor c t v).freeCtr = s.freeCtr := rfl
@[simp] theorem State.setTensor_fuses (c t : Nat) (v : Tensor) : (s.setTensor c t v).fuses = s.fuses := rfl
@[simp] theorem State.setTensor_flash (c t : Nat) (v : Tensor) : (s.setTensor c t v).flash = s.flash := rfl
@[simp] theorem State.setTensor_pins (c t : Nat) (v : Tensor) : (s.setTensor c t v).pins = s.pins := rfl
@[simp] theorem State.setTensor_smb (c t : Nat) (v : Tensor) : (s.setTensor c t v).smb = s.smb := rfl
@[simp] theorem State.setTensor_bus (c t : Nat) (v : Tensor) : (s.setTensor c t v).bus = s.bus := rfl
@[simp] theorem State.setTensor_cfg (c t : Nat) (v : Tensor) : (s.setTensor c t v).cfg = s.cfg := rfl
@[simp] theorem State.setTensor_cnt (c t : Nat) (v : Tensor) : (s.setTensor c t v).cnt = s.cnt := rfl
@[simp] theorem State.setTensor_cleared (c t : Nat) (v : Tensor) : (s.setTensor c t v).cleared = s.cleared := rfl
@[simp] theorem State.setTensor_latch (c t : Nat) (v : Tensor) : (s.setTensor c t v).latch = s.latch := rfl
@[simp] theorem State.setTensor_sys (c t : Nat) (v : Tensor) : (s.setTensor c t v).sys = s.sys := rfl
@[simp] theorem State.setTensor_irc (c t : Nat) (v : Tensor) : (s.setTensor c t v).irc = s.irc := rfl
@[simp] theorem State.setTensor_mbxs (c t : Nat) (v : Tensor) : (s.setTensor c t v).mbxs = s.mbxs := rfl
@[simp] theorem State.setTensor_bound (c t : Nat) (v : Tensor) : (s.setTensor c t v).bound = s.bound := rfl
@[simp] theorem State.setTensor_xfers (c t : Nat) (v : Tensor) : (s.setTensor c t v).xfers = s.xfers := rfl
@[simp] theorem State.setTensor_heldRx (c t : Nat) (v : Tensor) : (s.setTensor c t v).heldRx = s.heldRx := rfl
@[simp] theorem State.setTensor_lanes (c t : Nat) (v : Tensor) : (s.setTensor c t v).lanes = s.lanes := rfl
@[simp] theorem State.setTensor_ports (c t : Nat) (v : Tensor) : (s.setTensor c t v).ports = s.ports := rfl
@[simp] theorem State.setTensor_aux (c t : Nat) (v : Tensor) : (s.setTensor c t v).aux = s.aux := rfl
@[simp] theorem State.setTensor_sol (c t : Nat) (v : Tensor) : (s.setTensor c t v).sol = s.sol := rfl
@[simp] theorem State.setTensor_sch (c t : Nat) (v : Tensor) : (s.setTensor c t v).sch = s.sch := rfl
@[simp] theorem State.setTensor_ctxs (c t : Nat) (v : Tensor) : (s.setTensor c t v).ctxs = s.ctxs := rfl
@[simp] theorem State.setTensor_groups (c t : Nat) (v : Tensor) : (s.setTensor c t v).groups = s.groups := rfl
@[simp] theorem State.setTensor_regions (c t : Nat) (v : Tensor) : (s.setTensor c t v).regions = s.regions := rfl
@[simp] theorem State.setTensor_slots (c t : Nat) (v : Tensor) : (s.setTensor c t v).slots = s.slots := rfl
@[simp] theorem State.setTensor_queue (c t : Nat) (v : Tensor) : (s.setTensor c t v).queue = s.queue := rfl
@[simp] theorem State.setTensor_lateDescs (c t : Nat) (v : Tensor) : (s.setTensor c t v).lateDescs = s.lateDescs := rfl
@[simp] theorem State.setTensor_bzFenced (c t : Nat) (v : Tensor) : (s.setTensor c t v).bzFenced = s.bzFenced := rfl
@[simp] theorem State.setTensor_pwt (c t : Nat) (v : Tensor) : (s.setTensor c t v).pwt = s.pwt := rfl
@[simp] theorem State.setTensor_stl (c t : Nat) (v : Tensor) : (s.setTensor c t v).stl = s.stl := rfl
@[simp] theorem State.setTensor_ing (c t : Nat) (v : Tensor) : (s.setTensor c t v).ing = s.ing := rfl
@[simp] theorem State.setTensor_flt (c t : Nat) (v : Tensor) : (s.setTensor c t v).flt = s.flt := rfl
@[simp] theorem State.setTensor_sec (c t : Nat) (v : Tensor) : (s.setTensor c t v).sec = s.sec := rfl

/-! #### setRegion -/

@[simp] theorem State.setRegion_pending (c k : Nat) (v : Region) : (s.setRegion c k v).pending = s.pending := rfl
@[simp] theorem State.setRegion_clk (c k : Nat) (v : Region) : (s.setRegion c k v).clk = s.clk := rfl
@[simp] theorem State.setRegion_freeCtr (c k : Nat) (v : Region) : (s.setRegion c k v).freeCtr = s.freeCtr := rfl
@[simp] theorem State.setRegion_fuses (c k : Nat) (v : Region) : (s.setRegion c k v).fuses = s.fuses := rfl
@[simp] theorem State.setRegion_flash (c k : Nat) (v : Region) : (s.setRegion c k v).flash = s.flash := rfl
@[simp] theorem State.setRegion_pins (c k : Nat) (v : Region) : (s.setRegion c k v).pins = s.pins := rfl
@[simp] theorem State.setRegion_smb (c k : Nat) (v : Region) : (s.setRegion c k v).smb = s.smb := rfl
@[simp] theorem State.setRegion_bus (c k : Nat) (v : Region) : (s.setRegion c k v).bus = s.bus := rfl
@[simp] theorem State.setRegion_cfg (c k : Nat) (v : Region) : (s.setRegion c k v).cfg = s.cfg := rfl
@[simp] theorem State.setRegion_cnt (c k : Nat) (v : Region) : (s.setRegion c k v).cnt = s.cnt := rfl
@[simp] theorem State.setRegion_cleared (c k : Nat) (v : Region) : (s.setRegion c k v).cleared = s.cleared := rfl
@[simp] theorem State.setRegion_latch (c k : Nat) (v : Region) : (s.setRegion c k v).latch = s.latch := rfl
@[simp] theorem State.setRegion_sys (c k : Nat) (v : Region) : (s.setRegion c k v).sys = s.sys := rfl
@[simp] theorem State.setRegion_irc (c k : Nat) (v : Region) : (s.setRegion c k v).irc = s.irc := rfl
@[simp] theorem State.setRegion_mbxs (c k : Nat) (v : Region) : (s.setRegion c k v).mbxs = s.mbxs := rfl
@[simp] theorem State.setRegion_bound (c k : Nat) (v : Region) : (s.setRegion c k v).bound = s.bound := rfl
@[simp] theorem State.setRegion_xfers (c k : Nat) (v : Region) : (s.setRegion c k v).xfers = s.xfers := rfl
@[simp] theorem State.setRegion_heldRx (c k : Nat) (v : Region) : (s.setRegion c k v).heldRx = s.heldRx := rfl
@[simp] theorem State.setRegion_lanes (c k : Nat) (v : Region) : (s.setRegion c k v).lanes = s.lanes := rfl
@[simp] theorem State.setRegion_ports (c k : Nat) (v : Region) : (s.setRegion c k v).ports = s.ports := rfl
@[simp] theorem State.setRegion_aux (c k : Nat) (v : Region) : (s.setRegion c k v).aux = s.aux := rfl
@[simp] theorem State.setRegion_sol (c k : Nat) (v : Region) : (s.setRegion c k v).sol = s.sol := rfl
@[simp] theorem State.setRegion_sch (c k : Nat) (v : Region) : (s.setRegion c k v).sch = s.sch := rfl
@[simp] theorem State.setRegion_ctxs (c k : Nat) (v : Region) : (s.setRegion c k v).ctxs = s.ctxs := rfl
@[simp] theorem State.setRegion_groups (c k : Nat) (v : Region) : (s.setRegion c k v).groups = s.groups := rfl
@[simp] theorem State.setRegion_tensors (c k : Nat) (v : Region) : (s.setRegion c k v).tensors = s.tensors := rfl
@[simp] theorem State.setRegion_slots (c k : Nat) (v : Region) : (s.setRegion c k v).slots = s.slots := rfl
@[simp] theorem State.setRegion_queue (c k : Nat) (v : Region) : (s.setRegion c k v).queue = s.queue := rfl
@[simp] theorem State.setRegion_lateDescs (c k : Nat) (v : Region) : (s.setRegion c k v).lateDescs = s.lateDescs := rfl
@[simp] theorem State.setRegion_bzFenced (c k : Nat) (v : Region) : (s.setRegion c k v).bzFenced = s.bzFenced := rfl
@[simp] theorem State.setRegion_pwt (c k : Nat) (v : Region) : (s.setRegion c k v).pwt = s.pwt := rfl
@[simp] theorem State.setRegion_stl (c k : Nat) (v : Region) : (s.setRegion c k v).stl = s.stl := rfl
@[simp] theorem State.setRegion_ing (c k : Nat) (v : Region) : (s.setRegion c k v).ing = s.ing := rfl
@[simp] theorem State.setRegion_flt (c k : Nat) (v : Region) : (s.setRegion c k v).flt = s.flt := rfl
@[simp] theorem State.setRegion_sec (c k : Nat) (v : Region) : (s.setRegion c k v).sec = s.sec := rfl

/-! #### delRegion -/

@[simp] theorem State.delRegion_pending (c k : Nat) : (s.delRegion c k).pending = s.pending := rfl
@[simp] theorem State.delRegion_clk (c k : Nat) : (s.delRegion c k).clk = s.clk := rfl
@[simp] theorem State.delRegion_freeCtr (c k : Nat) : (s.delRegion c k).freeCtr = s.freeCtr := rfl
@[simp] theorem State.delRegion_fuses (c k : Nat) : (s.delRegion c k).fuses = s.fuses := rfl
@[simp] theorem State.delRegion_flash (c k : Nat) : (s.delRegion c k).flash = s.flash := rfl
@[simp] theorem State.delRegion_pins (c k : Nat) : (s.delRegion c k).pins = s.pins := rfl
@[simp] theorem State.delRegion_smb (c k : Nat) : (s.delRegion c k).smb = s.smb := rfl
@[simp] theorem State.delRegion_bus (c k : Nat) : (s.delRegion c k).bus = s.bus := rfl
@[simp] theorem State.delRegion_cfg (c k : Nat) : (s.delRegion c k).cfg = s.cfg := rfl
@[simp] theorem State.delRegion_cnt (c k : Nat) : (s.delRegion c k).cnt = s.cnt := rfl
@[simp] theorem State.delRegion_cleared (c k : Nat) : (s.delRegion c k).cleared = s.cleared := rfl
@[simp] theorem State.delRegion_latch (c k : Nat) : (s.delRegion c k).latch = s.latch := rfl
@[simp] theorem State.delRegion_sys (c k : Nat) : (s.delRegion c k).sys = s.sys := rfl
@[simp] theorem State.delRegion_irc (c k : Nat) : (s.delRegion c k).irc = s.irc := rfl
@[simp] theorem State.delRegion_mbxs (c k : Nat) : (s.delRegion c k).mbxs = s.mbxs := rfl
@[simp] theorem State.delRegion_bound (c k : Nat) : (s.delRegion c k).bound = s.bound := rfl
@[simp] theorem State.delRegion_xfers (c k : Nat) : (s.delRegion c k).xfers = s.xfers := rfl
@[simp] theorem State.delRegion_heldRx (c k : Nat) : (s.delRegion c k).heldRx = s.heldRx := rfl
@[simp] theorem State.delRegion_lanes (c k : Nat) : (s.delRegion c k).lanes = s.lanes := rfl
@[simp] theorem State.delRegion_ports (c k : Nat) : (s.delRegion c k).ports = s.ports := rfl
@[simp] theorem State.delRegion_aux (c k : Nat) : (s.delRegion c k).aux = s.aux := rfl
@[simp] theorem State.delRegion_sol (c k : Nat) : (s.delRegion c k).sol = s.sol := rfl
@[simp] theorem State.delRegion_sch (c k : Nat) : (s.delRegion c k).sch = s.sch := rfl
@[simp] theorem State.delRegion_ctxs (c k : Nat) : (s.delRegion c k).ctxs = s.ctxs := rfl
@[simp] theorem State.delRegion_groups (c k : Nat) : (s.delRegion c k).groups = s.groups := rfl
@[simp] theorem State.delRegion_tensors (c k : Nat) : (s.delRegion c k).tensors = s.tensors := rfl
@[simp] theorem State.delRegion_slots (c k : Nat) : (s.delRegion c k).slots = s.slots := rfl
@[simp] theorem State.delRegion_queue (c k : Nat) : (s.delRegion c k).queue = s.queue := rfl
@[simp] theorem State.delRegion_lateDescs (c k : Nat) : (s.delRegion c k).lateDescs = s.lateDescs := rfl
@[simp] theorem State.delRegion_bzFenced (c k : Nat) : (s.delRegion c k).bzFenced = s.bzFenced := rfl
@[simp] theorem State.delRegion_pwt (c k : Nat) : (s.delRegion c k).pwt = s.pwt := rfl
@[simp] theorem State.delRegion_stl (c k : Nat) : (s.delRegion c k).stl = s.stl := rfl
@[simp] theorem State.delRegion_ing (c k : Nat) : (s.delRegion c k).ing = s.ing := rfl
@[simp] theorem State.delRegion_flt (c k : Nat) : (s.delRegion c k).flt = s.flt := rfl
@[simp] theorem State.delRegion_sec (c k : Nat) : (s.delRegion c k).sec = s.sec := rfl

/-! #### setXfer -/

@[simp] theorem State.setXfer_pending (h : Nat) (v : Xfer) : (s.setXfer h v).pending = s.pending := rfl
@[simp] theorem State.setXfer_clk (h : Nat) (v : Xfer) : (s.setXfer h v).clk = s.clk := rfl
@[simp] theorem State.setXfer_freeCtr (h : Nat) (v : Xfer) : (s.setXfer h v).freeCtr = s.freeCtr := rfl
@[simp] theorem State.setXfer_fuses (h : Nat) (v : Xfer) : (s.setXfer h v).fuses = s.fuses := rfl
@[simp] theorem State.setXfer_flash (h : Nat) (v : Xfer) : (s.setXfer h v).flash = s.flash := rfl
@[simp] theorem State.setXfer_pins (h : Nat) (v : Xfer) : (s.setXfer h v).pins = s.pins := rfl
@[simp] theorem State.setXfer_smb (h : Nat) (v : Xfer) : (s.setXfer h v).smb = s.smb := rfl
@[simp] theorem State.setXfer_bus (h : Nat) (v : Xfer) : (s.setXfer h v).bus = s.bus := rfl
@[simp] theorem State.setXfer_cfg (h : Nat) (v : Xfer) : (s.setXfer h v).cfg = s.cfg := rfl
@[simp] theorem State.setXfer_cnt (h : Nat) (v : Xfer) : (s.setXfer h v).cnt = s.cnt := rfl
@[simp] theorem State.setXfer_cleared (h : Nat) (v : Xfer) : (s.setXfer h v).cleared = s.cleared := rfl
@[simp] theorem State.setXfer_latch (h : Nat) (v : Xfer) : (s.setXfer h v).latch = s.latch := rfl
@[simp] theorem State.setXfer_sys (h : Nat) (v : Xfer) : (s.setXfer h v).sys = s.sys := rfl
@[simp] theorem State.setXfer_irc (h : Nat) (v : Xfer) : (s.setXfer h v).irc = s.irc := rfl
@[simp] theorem State.setXfer_mbxs (h : Nat) (v : Xfer) : (s.setXfer h v).mbxs = s.mbxs := rfl
@[simp] theorem State.setXfer_bound (h : Nat) (v : Xfer) : (s.setXfer h v).bound = s.bound := rfl
@[simp] theorem State.setXfer_heldRx (h : Nat) (v : Xfer) : (s.setXfer h v).heldRx = s.heldRx := rfl
@[simp] theorem State.setXfer_lanes (h : Nat) (v : Xfer) : (s.setXfer h v).lanes = s.lanes := rfl
@[simp] theorem State.setXfer_ports (h : Nat) (v : Xfer) : (s.setXfer h v).ports = s.ports := rfl
@[simp] theorem State.setXfer_aux (h : Nat) (v : Xfer) : (s.setXfer h v).aux = s.aux := rfl
@[simp] theorem State.setXfer_sol (h : Nat) (v : Xfer) : (s.setXfer h v).sol = s.sol := rfl
@[simp] theorem State.setXfer_sch (h : Nat) (v : Xfer) : (s.setXfer h v).sch = s.sch := rfl
@[simp] theorem State.setXfer_ctxs (h : Nat) (v : Xfer) : (s.setXfer h v).ctxs = s.ctxs := rfl
@[simp] theorem State.setXfer_groups (h : Nat) (v : Xfer) : (s.setXfer h v).groups = s.groups := rfl
@[simp] theorem State.setXfer_tensors (h : Nat) (v : Xfer) : (s.setXfer h v).tensors = s.tensors := rfl
@[simp] theorem State.setXfer_regions (h : Nat) (v : Xfer) : (s.setXfer h v).regions = s.regions := rfl
@[simp] theorem State.setXfer_slots (h : Nat) (v : Xfer) : (s.setXfer h v).slots = s.slots := rfl
@[simp] theorem State.setXfer_queue (h : Nat) (v : Xfer) : (s.setXfer h v).queue = s.queue := rfl
@[simp] theorem State.setXfer_lateDescs (h : Nat) (v : Xfer) : (s.setXfer h v).lateDescs = s.lateDescs := rfl
@[simp] theorem State.setXfer_bzFenced (h : Nat) (v : Xfer) : (s.setXfer h v).bzFenced = s.bzFenced := rfl
@[simp] theorem State.setXfer_pwt (h : Nat) (v : Xfer) : (s.setXfer h v).pwt = s.pwt := rfl
@[simp] theorem State.setXfer_stl (h : Nat) (v : Xfer) : (s.setXfer h v).stl = s.stl := rfl
@[simp] theorem State.setXfer_ing (h : Nat) (v : Xfer) : (s.setXfer h v).ing = s.ing := rfl
@[simp] theorem State.setXfer_flt (h : Nat) (v : Xfer) : (s.setXfer h v).flt = s.flt := rfl
@[simp] theorem State.setXfer_sec (h : Nat) (v : Xfer) : (s.setXfer h v).sec = s.sec := rfl

/-! #### delXfer -/

@[simp] theorem State.delXfer_pending (h : Nat) : (s.delXfer h).pending = s.pending := rfl
@[simp] theorem State.delXfer_clk (h : Nat) : (s.delXfer h).clk = s.clk := rfl
@[simp] theorem State.delXfer_freeCtr (h : Nat) : (s.delXfer h).freeCtr = s.freeCtr := rfl
@[simp] theorem State.delXfer_fuses (h : Nat) : (s.delXfer h).fuses = s.fuses := rfl
@[simp] theorem State.delXfer_flash (h : Nat) : (s.delXfer h).flash = s.flash := rfl
@[simp] theorem State.delXfer_pins (h : Nat) : (s.delXfer h).pins = s.pins := rfl
@[simp] theorem State.delXfer_smb (h : Nat) : (s.delXfer h).smb = s.smb := rfl
@[simp] theorem State.delXfer_bus (h : Nat) : (s.delXfer h).bus = s.bus := rfl
@[simp] theorem State.delXfer_cfg (h : Nat) : (s.delXfer h).cfg = s.cfg := rfl
@[simp] theorem State.delXfer_cnt (h : Nat) : (s.delXfer h).cnt = s.cnt := rfl
@[simp] theorem State.delXfer_cleared (h : Nat) : (s.delXfer h).cleared = s.cleared := rfl
@[simp] theorem State.delXfer_latch (h : Nat) : (s.delXfer h).latch = s.latch := rfl
@[simp] theorem State.delXfer_sys (h : Nat) : (s.delXfer h).sys = s.sys := rfl
@[simp] theorem State.delXfer_irc (h : Nat) : (s.delXfer h).irc = s.irc := rfl
@[simp] theorem State.delXfer_mbxs (h : Nat) : (s.delXfer h).mbxs = s.mbxs := rfl
@[simp] theorem State.delXfer_bound (h : Nat) : (s.delXfer h).bound = s.bound := rfl
@[simp] theorem State.delXfer_heldRx (h : Nat) : (s.delXfer h).heldRx = s.heldRx := rfl
@[simp] theorem State.delXfer_lanes (h : Nat) : (s.delXfer h).lanes = s.lanes := rfl
@[simp] theorem State.delXfer_ports (h : Nat) : (s.delXfer h).ports = s.ports := rfl
@[simp] theorem State.delXfer_aux (h : Nat) : (s.delXfer h).aux = s.aux := rfl
@[simp] theorem State.delXfer_sol (h : Nat) : (s.delXfer h).sol = s.sol := rfl
@[simp] theorem State.delXfer_sch (h : Nat) : (s.delXfer h).sch = s.sch := rfl
@[simp] theorem State.delXfer_ctxs (h : Nat) : (s.delXfer h).ctxs = s.ctxs := rfl
@[simp] theorem State.delXfer_groups (h : Nat) : (s.delXfer h).groups = s.groups := rfl
@[simp] theorem State.delXfer_tensors (h : Nat) : (s.delXfer h).tensors = s.tensors := rfl
@[simp] theorem State.delXfer_regions (h : Nat) : (s.delXfer h).regions = s.regions := rfl
@[simp] theorem State.delXfer_slots (h : Nat) : (s.delXfer h).slots = s.slots := rfl
@[simp] theorem State.delXfer_queue (h : Nat) : (s.delXfer h).queue = s.queue := rfl
@[simp] theorem State.delXfer_lateDescs (h : Nat) : (s.delXfer h).lateDescs = s.lateDescs := rfl
@[simp] theorem State.delXfer_bzFenced (h : Nat) : (s.delXfer h).bzFenced = s.bzFenced := rfl
@[simp] theorem State.delXfer_pwt (h : Nat) : (s.delXfer h).pwt = s.pwt := rfl
@[simp] theorem State.delXfer_stl (h : Nat) : (s.delXfer h).stl = s.stl := rfl
@[simp] theorem State.delXfer_ing (h : Nat) : (s.delXfer h).ing = s.ing := rfl
@[simp] theorem State.delXfer_flt (h : Nat) : (s.delXfer h).flt = s.flt := rfl
@[simp] theorem State.delXfer_sec (h : Nat) : (s.delXfer h).sec = s.sec := rfl

/-! #### setSlotTbl -/

@[simp] theorem State.setSlotTbl_pending (p t : Nat) (v : SlotTbl) : (s.setSlotTbl p t v).pending = s.pending := rfl
@[simp] theorem State.setSlotTbl_clk (p t : Nat) (v : SlotTbl) : (s.setSlotTbl p t v).clk = s.clk := rfl
@[simp] theorem State.setSlotTbl_freeCtr (p t : Nat) (v : SlotTbl) : (s.setSlotTbl p t v).freeCtr = s.freeCtr := rfl
@[simp] theorem State.setSlotTbl_fuses (p t : Nat) (v : SlotTbl) : (s.setSlotTbl p t v).fuses = s.fuses := rfl
@[simp] theorem State.setSlotTbl_flash (p t : Nat) (v : SlotTbl) : (s.setSlotTbl p t v).flash = s.flash := rfl
@[simp] theorem State.setSlotTbl_pins (p t : Nat) (v : SlotTbl) : (s.setSlotTbl p t v).pins = s.pins := rfl
@[simp] theorem State.setSlotTbl_smb (p t : Nat) (v : SlotTbl) : (s.setSlotTbl p t v).smb = s.smb := rfl
@[simp] theorem State.setSlotTbl_bus (p t : Nat) (v : SlotTbl) : (s.setSlotTbl p t v).bus = s.bus := rfl
@[simp] theorem State.setSlotTbl_cfg (p t : Nat) (v : SlotTbl) : (s.setSlotTbl p t v).cfg = s.cfg := rfl
@[simp] theorem State.setSlotTbl_cnt (p t : Nat) (v : SlotTbl) : (s.setSlotTbl p t v).cnt = s.cnt := rfl
@[simp] theorem State.setSlotTbl_cleared (p t : Nat) (v : SlotTbl) : (s.setSlotTbl p t v).cleared = s.cleared := rfl
@[simp] theorem State.setSlotTbl_latch (p t : Nat) (v : SlotTbl) : (s.setSlotTbl p t v).latch = s.latch := rfl
@[simp] theorem State.setSlotTbl_sys (p t : Nat) (v : SlotTbl) : (s.setSlotTbl p t v).sys = s.sys := rfl
@[simp] theorem State.setSlotTbl_irc (p t : Nat) (v : SlotTbl) : (s.setSlotTbl p t v).irc = s.irc := rfl
@[simp] theorem State.setSlotTbl_mbxs (p t : Nat) (v : SlotTbl) : (s.setSlotTbl p t v).mbxs = s.mbxs := rfl
@[simp] theorem State.setSlotTbl_bound (p t : Nat) (v : SlotTbl) : (s.setSlotTbl p t v).bound = s.bound := rfl
@[simp] theorem State.setSlotTbl_xfers (p t : Nat) (v : SlotTbl) : (s.setSlotTbl p t v).xfers = s.xfers := rfl
@[simp] theorem State.setSlotTbl_heldRx (p t : Nat) (v : SlotTbl) : (s.setSlotTbl p t v).heldRx = s.heldRx := rfl
@[simp] theorem State.setSlotTbl_lanes (p t : Nat) (v : SlotTbl) : (s.setSlotTbl p t v).lanes = s.lanes := rfl
@[simp] theorem State.setSlotTbl_ports (p t : Nat) (v : SlotTbl) : (s.setSlotTbl p t v).ports = s.ports := rfl
@[simp] theorem State.setSlotTbl_aux (p t : Nat) (v : SlotTbl) : (s.setSlotTbl p t v).aux = s.aux := rfl
@[simp] theorem State.setSlotTbl_sol (p t : Nat) (v : SlotTbl) : (s.setSlotTbl p t v).sol = s.sol := rfl
@[simp] theorem State.setSlotTbl_ctxs (p t : Nat) (v : SlotTbl) : (s.setSlotTbl p t v).ctxs = s.ctxs := rfl
@[simp] theorem State.setSlotTbl_groups (p t : Nat) (v : SlotTbl) : (s.setSlotTbl p t v).groups = s.groups := rfl
@[simp] theorem State.setSlotTbl_tensors (p t : Nat) (v : SlotTbl) : (s.setSlotTbl p t v).tensors = s.tensors := rfl
@[simp] theorem State.setSlotTbl_regions (p t : Nat) (v : SlotTbl) : (s.setSlotTbl p t v).regions = s.regions := rfl
@[simp] theorem State.setSlotTbl_slots (p t : Nat) (v : SlotTbl) : (s.setSlotTbl p t v).slots = s.slots := rfl
@[simp] theorem State.setSlotTbl_queue (p t : Nat) (v : SlotTbl) : (s.setSlotTbl p t v).queue = s.queue := rfl
@[simp] theorem State.setSlotTbl_lateDescs (p t : Nat) (v : SlotTbl) : (s.setSlotTbl p t v).lateDescs = s.lateDescs := rfl
@[simp] theorem State.setSlotTbl_bzFenced (p t : Nat) (v : SlotTbl) : (s.setSlotTbl p t v).bzFenced = s.bzFenced := rfl
@[simp] theorem State.setSlotTbl_pwt (p t : Nat) (v : SlotTbl) : (s.setSlotTbl p t v).pwt = s.pwt := rfl
@[simp] theorem State.setSlotTbl_stl (p t : Nat) (v : SlotTbl) : (s.setSlotTbl p t v).stl = s.stl := rfl
@[simp] theorem State.setSlotTbl_ing (p t : Nat) (v : SlotTbl) : (s.setSlotTbl p t v).ing = s.ing := rfl
@[simp] theorem State.setSlotTbl_flt (p t : Nat) (v : SlotTbl) : (s.setSlotTbl p t v).flt = s.flt := rfl
@[simp] theorem State.setSlotTbl_sec (p t : Nat) (v : SlotTbl) : (s.setSlotTbl p t v).sec = s.sec := rfl

/-! #### movePages -/

@[simp] theorem State.movePages_pending (f : Holder → Holder) : (s.movePages f).pending = s.pending := rfl
@[simp] theorem State.movePages_clk (f : Holder → Holder) : (s.movePages f).clk = s.clk := rfl
@[simp] theorem State.movePages_freeCtr (f : Holder → Holder) : (s.movePages f).freeCtr = s.freeCtr := rfl
@[simp] theorem State.movePages_fuses (f : Holder → Holder) : (s.movePages f).fuses = s.fuses := rfl
@[simp] theorem State.movePages_flash (f : Holder → Holder) : (s.movePages f).flash = s.flash := rfl
@[simp] theorem State.movePages_pins (f : Holder → Holder) : (s.movePages f).pins = s.pins := rfl
@[simp] theorem State.movePages_smb (f : Holder → Holder) : (s.movePages f).smb = s.smb := rfl
@[simp] theorem State.movePages_bus (f : Holder → Holder) : (s.movePages f).bus = s.bus := rfl
@[simp] theorem State.movePages_cfg (f : Holder → Holder) : (s.movePages f).cfg = s.cfg := rfl
@[simp] theorem State.movePages_cnt (f : Holder → Holder) : (s.movePages f).cnt = s.cnt := rfl
@[simp] theorem State.movePages_cleared (f : Holder → Holder) : (s.movePages f).cleared = s.cleared := rfl
@[simp] theorem State.movePages_latch (f : Holder → Holder) : (s.movePages f).latch = s.latch := rfl
@[simp] theorem State.movePages_sys (f : Holder → Holder) : (s.movePages f).sys = s.sys := rfl
@[simp] theorem State.movePages_irc (f : Holder → Holder) : (s.movePages f).irc = s.irc := rfl
@[simp] theorem State.movePages_mbxs (f : Holder → Holder) : (s.movePages f).mbxs = s.mbxs := rfl
@[simp] theorem State.movePages_bound (f : Holder → Holder) : (s.movePages f).bound = s.bound := rfl
@[simp] theorem State.movePages_xfers (f : Holder → Holder) : (s.movePages f).xfers = s.xfers := rfl
@[simp] theorem State.movePages_heldRx (f : Holder → Holder) : (s.movePages f).heldRx = s.heldRx := rfl
@[simp] theorem State.movePages_lanes (f : Holder → Holder) : (s.movePages f).lanes = s.lanes := rfl
@[simp] theorem State.movePages_ports (f : Holder → Holder) : (s.movePages f).ports = s.ports := rfl
@[simp] theorem State.movePages_aux (f : Holder → Holder) : (s.movePages f).aux = s.aux := rfl
@[simp] theorem State.movePages_sol (f : Holder → Holder) : (s.movePages f).sol = s.sol := rfl
@[simp] theorem State.movePages_sch (f : Holder → Holder) : (s.movePages f).sch = s.sch := rfl
@[simp] theorem State.movePages_ctxs (f : Holder → Holder) : (s.movePages f).ctxs = s.ctxs := rfl
@[simp] theorem State.movePages_groups (f : Holder → Holder) : (s.movePages f).groups = s.groups := rfl
@[simp] theorem State.movePages_tensors (f : Holder → Holder) : (s.movePages f).tensors = s.tensors := rfl
@[simp] theorem State.movePages_regions (f : Holder → Holder) : (s.movePages f).regions = s.regions := rfl
@[simp] theorem State.movePages_slots (f : Holder → Holder) : (s.movePages f).slots = s.slots := rfl
@[simp] theorem State.movePages_queue (f : Holder → Holder) : (s.movePages f).queue = s.queue := rfl
@[simp] theorem State.movePages_lateDescs (f : Holder → Holder) : (s.movePages f).lateDescs = s.lateDescs := rfl
@[simp] theorem State.movePages_bzFenced (f : Holder → Holder) : (s.movePages f).bzFenced = s.bzFenced := rfl
@[simp] theorem State.movePages_pwt (f : Holder → Holder) : (s.movePages f).pwt = s.pwt := rfl
@[simp] theorem State.movePages_stl (f : Holder → Holder) : (s.movePages f).stl = s.stl := rfl
@[simp] theorem State.movePages_flt (f : Holder → Holder) : (s.movePages f).flt = s.flt := rfl
@[simp] theorem State.movePages_sec (f : Holder → Holder) : (s.movePages f).sec = s.sec := rfl

/-! #### Reading back -/

theorem State.lane_setLane (l j : Nat) (v : Lane) : (s.setLane l v).lane j = if l = j then v else s.lane j := tget_tset

@[simp] theorem State.lane_setLane_self (l : Nat) (v : Lane) : (s.setLane l v).lane l = v := by rw [State.lane_setLane, if_pos rfl]

theorem State.port_setPort (p j : Nat) (v : Port) : (s.setPort p v).port j = if p = j then v else s.port j := tget_tset

@[simp] theorem State.port_setPort_self (p : Nat) (v : Port) : (s.setPort p v).port p = v := by rw [State.port_setPort, if_pos rfl]

theorem State.paux_setPaux (p j : Nat) (v : PortAux) : (s.setPaux p v).paux j = if p = j then v else s.paux j := tget_tset

@[simp] theorem State.paux_setPaux_self (p : Nat) (v : PortAux) : (s.setPaux p v).paux p = v := by rw [State.paux_setPaux, if_pos rfl]

theorem State.mbx_setMbx (m j : Nat) (v : Mbx) : (s.setMbx m v).mbx j = if m = j then v else s.mbx j := tget_tset

@[simp] theorem State.mbx_setMbx_self (m : Nat) (v : Mbx) : (s.setMbx m v).mbx m = v := by rw [State.mbx_setMbx, if_pos rfl]

theorem State.ctx_setCtx (c j : Nat) (v : Ctx) : (s.setCtx c v).ctx j = if c = j then v else s.ctx j := tget_tset

@[simp] theorem State.ctx_setCtx_self (c : Nat) (v : Ctx) : (s.setCtx c v).ctx c = v := by rw [State.ctx_setCtx, if_pos rfl]

theorem State.cluster_setCluster (k j : Nat) (v : Cluster) : (s.setCluster k v).cluster j = if k = j then v else s.cluster j := tget_tset

@[simp] theorem State.cluster_setCluster_self (k : Nat) (v : Cluster) : (s.setCluster k v).cluster k = v := by rw [State.cluster_setCluster, if_pos rfl]

theorem State.stack_setStack (k j : Nat) (v : Stack) : (s.setStack k v).stack j = if k = j then v else s.stack j := tget_tset

@[simp] theorem State.stack_setStack_self (k : Nat) (v : Stack) : (s.setStack k v).stack k = v := by rw [State.stack_setStack, if_pos rfl]

@[simp] theorem State.xfer_setXfer_self (h : Nat) (v : Xfer) : (s.setXfer h v).xfer h = some v := by
  unfold State.xfer State.setXfer
  rw [tfind_tset, if_pos rfl]

@[simp] theorem State.region_setRegion_self (c k : Nat) (v : Region) : (s.setRegion c k v).region c k = some v := by
  unfold State.region State.setRegion
  rw [tfind_tset, if_pos rfl]

@[simp] theorem State.tensor_setTensor_self (c t : Nat) (v : Tensor) : (s.setTensor c t v).tensor c t = some v := by
  unfold State.tensor State.setTensor
  rw [tfind_tset, if_pos rfl]

@[simp] theorem State.slotTbl_setSlotTbl_self (p t : Nat) (v : SlotTbl) : (s.setSlotTbl p t v).slotTbl p t = v := by
  unfold State.slotTbl State.setSlotTbl
  rw [tget_tset, if_pos rfl]

/-- A configuration register reads as set; every other reads as before. -/
theorem State.cfgAt_setCfg (a b : Nat) (v : Word) : (s.setCfg a v).cfgAt b = if a = b then v else s.cfgAt b := by
  unfold State.cfgAt State.setCfg
  by_cases hv : v = cfgReset a
  · rw [if_pos hv]
    unfold tget
    rw [tfind_tdel]
    by_cases hb : a = b
    · subst hb
      simp [hv]
    · simp [hb]
  · rw [if_neg hv]
    exact tget_tset

end

end Sys2Proof.Machine
end

