-- ==== Sys2Proof/Laws/Command.lean ====
section
/-! SUPPORT. What a Ghewyn command does once it is taken: its run, from the state in which it has left the ring. -/

namespace Sys2Proof.Machine

/-- A request that fits, of an opcode of Table 13.9, runs. -/
theorem State.command_fits {s : State} {m : BitVec 6} {op : Nat} {run : State → Req → State} (h : s.fits m op)
    (ho : knownOp op = true) : s.command m op run = .next (run (s.taken m) (s.reqAt m)) := by
  obtain ⟨h1, h2, h3, h4⟩ := h
  subst h2
  have ho' : knownOp ((s.mbx m.toNat).cmd m.toNat).opcode = true := ho
  have h4' : (decide (m = 63) && hostOnly ((s.mbx m.toNat).cmd m.toNat).opcode) = false := h4
  unfold State.command State.takeEntry
  simp only [h1, h3, ho', State.cmdAt, beq_self_eq_true, Bool.not_true, Bool.or_self, Bool.false_eq_true, if_false]
  rw [h4']
  rfl

/-- What may be taken waits in an open mailbox of a Fixus whose firmware runs, and is not closing; the completion ring
has room; while the Fixus is out of service only mailbox 63 is served. -/
theorem State.canTake_spec {s : State} {m : Nat} (h : s.canTake m = true) :
    s.brass = true ∧ (s.mbx m).opened = true ∧ (s.mbx m).closing = none ∧ (s.mbx m).cqFull = false ∧
    (s.mbx m).held = [] ∧ (s.sys.outOfService = true → m = 63) := by
  unfold State.canTake at h
  simp only [Bool.and_eq_true, Option.isNone_iff_eq_none, Bool.not_eq_true', List.isEmpty_iff] at h
  refine ⟨h.1.1.1.1.1.1.1.1, h.1.1.1.1.1.1.2, h.1.1.1.1.1.2, h.1.1.1.2, h.1.1.2, fun ho => ?_⟩
  have h5 := h.1.1.1.1.1.1.1.2
  rw [ho] at h5
  simpa using h5

end Sys2Proof.Machine
end

