-- ==== Sys2Proof/Laws/Frame.lean ====
section
/-! SUPPORT. What the shared operations may change: one lemma for each, which says that the state after it is the state before
it in every field but those named. -/

namespace Sys2Proof.Machine

/-- A frame that is queued changes Solder alone. -/
theorem State.queueEnt_only (s : State) (q : QEnt) : s.queueEnt q = { s with sol := (s.queueEnt q).sol } := by
  unfold State.queueEnt
  cases decide (262144 ≤ s.sol.queues.length) || s.inLine q <;> rfl

/-- A frame that enters Solder changes Solder alone. -/
theorem State.enter_only (s : State) (i : Nat) (f : Frame) (o : List Nat) (m : Bool) :
    s.enter i f o m = { s with sol := (s.enter i f o m).sol } := by
  unfold State.enter
  dsimp only
  split
  · rw [State.queueEnt_only]
  · rfl

/-- The choice of a port changes Solder alone. -/
theorem State.routed_only (s : State) (f : Frame) : (s.routed f).1 = { s with sol := (s.routed f).1.sol } := by
  unfold State.routed
  split
  · dsimp only
    split <;> rfl
  · rfl

/-- A frame of a unit changes Solder alone. -/
theorem State.sendFrame_only (s : State) (i : Nat) (f : Frame) :
    s.sendFrame i f = { s with sol := (s.sendFrame i f).sol } := by
  unfold State.sendFrame
  split
  · exact State.enter_only _ _ _ _ _
  · dsimp only
    rw [State.enter_only, State.routed_only]

/-- A frame on one port group changes Solder alone. -/
theorem State.sendGroup_only (s : State) (i g : Nat) (f : Frame) :
    s.sendGroup i g f = { s with sol := (s.sendGroup i g f).sol } := State.enter_only _ _ _ _ _

/-- A MGMT frame from Brass changes Solder alone. -/
theorem State.sendMgmt_only (s : State) (dest msub : Nat) (host : Bool) (mbx tag offset arg : Nat) (bs : List Byte) :
    s.sendMgmt dest msub host mbx tag offset arg bs =
      { s with sol := (s.sendMgmt dest msub host mbx tag offset arg bs).sol } := State.sendFrame_only _ _ _

/-- What is sent of a read changes Solder alone. -/
theorem State.sendBulk_only (s : State) (m tag off : Nat) (bs : List Byte) :
    s.sendBulk m tag off bs = { s with sol := (s.sendBulk m tag off bs).sol } := by
  unfold State.sendBulk
  split
  · rfl
  · rename_i a h _
    have hf (l : List (List Byte)) : ∀ p : State × Nat, p.1 = { s with sol := p.1.sol } →
        (l.foldl (fun (p : State × Nat) c => (p.1.sendMgmt a.toNat 4 h m 0 p.2 tag c, p.2 + c.length)) p).1 =
          { s with sol := (l.foldl (fun (p : State × Nat) c =>
            (p.1.sendMgmt a.toNat 4 h m 0 p.2 tag c, p.2 + c.length)) p).1.sol } := by
      induction l with
      | nil => exact fun _ hp => hp
      | cons c l ih =>
        intro p hp
        refine ih _ ?_
        dsimp only
        rw [State.sendMgmt_only]
        generalize (p.1.sendMgmt a.toNat 4 h m 0 p.2 tag c).sol = x
        rw [hp]
    exact hf _ _ rfl

/-- A completion that is written changes its mailbox and Solder. -/
theorem State.writeCpl_only (s : State) (m : Nat) (c : Cpl) :
    s.writeCpl m c = { s with mbxs := (s.writeCpl m c).mbxs, sol := (s.writeCpl m c).sol } ∧
    ∀ j, j ≠ m → (s.writeCpl m c).mbx j = s.mbx j := by
  have ho (v : Mbx) (j : Nat) (hj : j ≠ m) : (s.setMbx m v).mbx j = s.mbx j := by
    rw [State.mbx_setMbx, if_neg (Ne.symm hj)]
  unfold State.writeCpl
  dsimp only
  split
  · split
    · exact ⟨rfl, fun j hj => ho _ j hj⟩
    · rw [State.sendMgmt_only]
      exact ⟨rfl, fun j hj => ho _ j hj⟩
  · exact ⟨rfl, fun j hj => ho _ j hj⟩

/-- A completion that is posted changes its mailbox, Solder and the count of records lost. -/
theorem State.postCpl_only (s : State) (m inst : Nat) (c : Cpl) :
    s.postCpl m inst c = { s with
      mbxs := (s.postCpl m inst c).mbxs, sol := (s.postCpl m inst c).sol, cnt := (s.postCpl m inst c).cnt } ∧
    ∀ j, j ≠ m → (s.postCpl m inst c).mbx j = s.mbx j := by
  have ho (v : Mbx) (j : Nat) (hj : j ≠ m) : (s.setMbx m v).mbx j = s.mbx j := by
    rw [State.mbx_setMbx, if_neg (Ne.symm hj)]
  unfold State.postCpl
  dsimp only
  split
  · exact ⟨rfl, fun _ _ => rfl⟩
  · split
    · split <;> exact ⟨rfl, fun _ _ => rfl⟩
    · split
      · split
        · split
          · exact ⟨rfl, fun j hj => ho _ j hj⟩
          · exact ⟨rfl, fun j hj => ho _ j hj⟩
        · exact ⟨rfl, fun j hj => ho _ j hj⟩
      · have h := State.writeCpl_only s m c
        exact ⟨h.1.trans (by rw [h.1]), h.2⟩

/-- A command that finishes changes its mailbox, Solder and the count of records lost. -/
theorem State.finish_only (s : State) (c : Cmd) (result detail : Nat) (ret : List Byte) :
    s.finish c result detail ret = { s with
      mbxs := (s.finish c result detail ret).mbxs, sol := (s.finish c result detail ret).sol,
      cnt := (s.finish c result detail ret).cnt } ∧
    ∀ j, j ≠ c.mbx → (s.finish c result detail ret).mbx j = s.mbx j := by
  unfold State.finish
  dsimp only
  split
  · exact State.postCpl_only _ _ _ _
  · have h := State.postCpl_only (s.setMbx c.mbx { s.mbx c.mbx with
      running := (s.mbx c.mbx).running.filter (· != c) }) c.mbx c.inst
      { opcode := c.opcode, result := result, tag := c.tag, index := c.index, detail := detail, count := s.now,
        ret := ret }
    refine ⟨h.1, fun j hj => (h.2 j hj).trans ?_⟩
    rw [State.mbx_setMbx, if_neg (Ne.symm hj)]

/-- The closes that waited change mailboxes, Solder and the count of records lost. -/
theorem State.tryClose_only (n : Nat) (s : State) (m : Nat) :
    State.tryClose n s m = { s with
      mbxs := (State.tryClose n s m).mbxs, sol := (State.tryClose n s m).sol, cnt := (State.tryClose n s m).cnt } := by
  induction n generalizing s m with
  | zero => rfl
  | succ n ih =>
    unfold State.tryClose
    split
    · rfl
    · split
      · rw [ih]
        generalize State.tryClose n _ _ = x
        rw [(State.finish_only _ _ _ _ _).1]
        rfl
      · rfl

/-- A command that completes changes mailboxes, Solder and the count of records lost. -/
theorem State.complete_only (s : State) (c : Cmd) (result detail : Nat) (ret : List Byte) :
    s.complete c result detail ret = { s with
      mbxs := (s.complete c result detail ret).mbxs, sol := (s.complete c result detail ret).sol,
      cnt := (s.complete c result detail ret).cnt } := by
  unfold State.complete
  rw [State.tryClose_only]
  generalize State.tryClose 64 _ _ = x
  rw [(State.finish_only _ _ _ _ _).1]

/-- An error taken by the fault collector changes its records, its counters and FAULT_N. -/
theorem State.record_only (s : State) (cls dk di src info : Nat) :
    s.record cls dk di src info = { s with
      flt := (s.record cls dk di src info).flt, cnt := (s.record cls dk di src info).cnt,
      pins := (s.record cls dk di src info).pins } := by
  have hp (t : State) : t.pulse = { t with pins := t.pulse.pins } := by
    unfold State.pulse
    split <;> rfl
  unfold State.record
  split
  · dsimp only
    split
    · rw [hp]
    · rfl
  · dsimp only
    split <;> split
    · by_cases hc : cls = 1
      · simp only [if_pos hc]
        rfl
      · simp only [if_neg hc]
        rfl
    · by_cases hc : 1 ≤ cls
      · simp only [if_pos hc]
        rw [hp]
      · simp only [if_neg hc]
    · by_cases hc : cls = 1
      · simp only [if_pos hc]
        rfl
      · simp only [if_neg hc]
        rfl
    · by_cases hc : 1 ≤ cls
      · simp only [if_pos hc]
        rw [hp]
      · simp only [if_neg hc]

/-- A message that floods changes ports alone. -/
theorem State.flood_only (s : State) (p : Option Nat) (m : CtlMsg) :
    s.flood p m = { s with ports := (s.flood p m).ports } := by
  have h (l : List Nat) : ∀ t : State, t = { s with ports := t.ports } →
      l.foldl (fun s p => s.sendCtl p m) t = { s with ports := (l.foldl (fun s p => s.sendCtl p m) t).ports } := by
    induction l with
    | nil => exact fun _ ht => ht
    | cons p l ih =>
      intro t ht
      refine ih _ ?_
      rw [ht]
      rfl
  exact h _ _ rfl

/-- A message toward a Fixus changes ports alone. -/
theorem State.sendCtlTo_only (s : State) (dest : Nat) (m : CtlMsg) :
    s.sendCtlTo dest m = { s with ports := (s.sendCtlTo dest m).ports } := by
  unfold State.sendCtlTo
  split
  · split <;> rfl
  · rfl

end Sys2Proof.Machine
end

