-- ==== Sys2Proof/Laws/Keep.lean ====
section
/-! SUPPORT. What every operation keeps: the identity of the part and the queue, and the soundness of the state.
One lemma `<operation>_keep` per operation follows in the files Keep<File>.lean; the lemmas here are their steps. -/

namespace Sys2Proof.Machine

/-- What is kept: the queue and identity `q.1` as they were, and soundness if it held (`q.2`). -/
abbrev Base := (List Instr × Grade × BitVec 64 × BitVec 16 × BitVec 64 × BitVec 8) × Prop

/-- A state that keeps `q`. -/
structure Keep (q : Base) (s : State) : Prop where
  part : s.part = q.1
  inv : q.2 → s.Inv

/-- A state, if there is one, that keeps `q`. -/
structure KeepOpt (q : Base) (o : Option State) : Prop where
  of : ∀ t, o = some t → Keep q t

/-- A number and a state, if there are, of which the state keeps `q`. -/
structure KeepNum (q : Base) (o : Option (Nat × State)) : Prop where
  of : ∀ n t, o = some (n, t) → Keep q t

/-- An outcome whose next state keeps `q`. -/
structure KeepOut (q : Base) (o : Host.Outcome State Fault Refusal) : Prop where
  of : ∀ t, o = .next t → Keep q t

/-- A mailbox whose rings are sound. -/
def KeepMbx (q : Base) (b : Mbx) : Prop := q.2 → b.rq.wf = true ∧ b.cq.wf = true

/-- A cluster at a legal step. -/
def KeepClu (q : Base) (c : Cluster) : Prop := q.2 → c.step ≤ 5

/-- Every state keeps its own queue, identity and soundness. -/
theorem Keep.self (s : State) : Keep (s.part, s.Inv) s := ⟨rfl, id⟩

section
variable {q : Base} {s t : State}

theorem mk_keep
    {x1 : _} {x2 : _} {x4 : _} {x5 : _} {x7 : _} {x8 : _} {x9 : _} {x10 : _} {x11 : _} {x12 : _} {x13 : _} {x15 : _}
    {x17 : _} {x18 : _} {x19 : _} {x20 : _} {x21 : _} {x22 : _} {x23 : _} {x24 : _} {x25 : _} {x27 : _} {x28 : _}
    {x29 : _} {x30 : _} {x31 : _} {x34 : _} {x35 : _}
    {b : Smbus} {c : Steel} {i : Ingot} (h : Keep q s) (hb : b.rdlen = s.smb.rdlen)
    (hc : c.clusters = s.stl.clusters) (hi : i.pages = s.ing.pages) :
    Keep q (State.mk
      s.pending x1 x2 s.fuses x4 x5 b x7 x8 x9 x10 x11 x12 x13 s.mbxs x15 s.xfers x17 x18 x19 x20 x21 x22 x23 x24
      x25 s.regions x27 x28 x29 x30 x31 c i x34 x35) :=
  ⟨h.part, fun hq => by
    have v := h.inv hq
    exact ⟨v.1, v.2.1, v.2.2.1, hb ▸ v.2.2.2.1, hc ▸ v.2.2.2.2.1, hi ▸ v.2.2.2.2.2⟩⟩

theorem mkf_keep
    {x1 : _} {x2 : _} {x4 : _} {x5 : _} {x7 : _} {x8 : _} {x9 : _} {x10 : _} {x11 : _} {x12 : _} {x13 : _} {x15 : _}
    {x17 : _} {x18 : _} {x19 : _} {x20 : _} {x21 : _} {x22 : _} {x23 : _} {x24 : _} {x25 : _} {x27 : _} {x28 : _}
    {x29 : _} {x30 : _} {x31 : _} {x34 : _} {x35 : _}
    {b : Smbus} {c : Steel} {i : Ingot} {y0 y1 y2 y3 : _} (h : Keep q s) (hb : b.rdlen = s.smb.rdlen)
    (hc : c.clusters = s.stl.clusters) (hi : i.pages = s.ing.pages) :
    Keep q (State.mk
      s.pending x1 x2 ⟨s.fuses.grade, s.fuses.serial, s.fuses.bz, s.fuses.st, s.fuses.cl, y0, y1, y2, y3⟩ x4 x5 b x7
      x8 x9 x10 x11 x12 x13 s.mbxs x15 s.xfers x17 x18 x19 x20 x21 x22 x23 x24 x25 s.regions x27 x28 x29 x30 x31 c i
      x34 x35) :=
  ⟨h.part, fun hq => by
    have v := h.inv hq
    exact ⟨v.1, v.2.1, v.2.2.1, hb ▸ v.2.2.2.1, hc ▸ v.2.2.2.2.1, hi ▸ v.2.2.2.2.2⟩⟩

theorem ite_keep {c : Prop} [Decidable c] (h : Keep q s) (h' : Keep q t) : Keep q (if c then s else t) := by
  split <;> assumption

theorem foldl_keep {α : Type} {f : State → α → State} {l : List α} (h : Keep q s)
    (hf : ∀ (t : State) (x : α), Keep q t → Keep q (f t x)) : Keep q (l.foldl f s) := by
  induction l generalizing s with
  | nil => exact h
  | cons x l ih => exact ih (hf s x h)

theorem foldl1_keep {α β : Type} {f : State × β → α → State × β} {l : List α} {p : State × β} (h : Keep q p.1)
    (hf : ∀ (t : State × β) (x : α), Keep q t.1 → Keep q (f t x).1) : Keep q (l.foldl f p).1 := by
  induction l generalizing p with
  | nil => exact h
  | cons x l ih => exact ih (hf p x h)

theorem foldl2_keep {α β : Type} {f : β × State → α → β × State} {l : List α} {p : β × State} (h : Keep q p.2)
    (hf : ∀ (t : β × State) (x : α), Keep q t.2 → Keep q (f t x).2) : Keep q (l.foldl f p).2 := by
  induction l generalizing p with
  | nil => exact h
  | cons x l ih => exact ih (hf p x h)

theorem fst_keep {α : Type} {p : State × α} {x : α} (h : p = (t, x)) (hp : Keep q p.1) : Keep q t := by
  subst h; exact hp

theorem snd_keep {α : Type} {p : α × State} {x : α} (h : p = (x, t)) (hp : Keep q p.2) : Keep q t := by
  subst h; exact hp

theorem ite1_keep {c : Prop} [Decidable c] {α : Type} {a b : State × α} (h : Keep q a.1) (h' : Keep q b.1) :
    Keep q (if c then a else b).1 := by split <;> assumption

theorem ite2_keep {c : Prop} [Decidable c] {α : Type} {a b : α × State} (h : Keep q a.2) (h' : Keep q b.2) :
    Keep q (if c then a else b).2 := by split <;> assumption

theorem opt_keep {o : Option State} (h : o = some t) (ho : KeepOpt q o) : Keep q t := ho.of t h

theorem getD_keep {o : Option State} (h : Keep q s) (ho : KeepOpt q o) : Keep q (o.getD s) := by
  cases o with
  | none => exact h
  | some t => exact ho.of t rfl

theorem none_keep : KeepOpt q none := ⟨fun _ h => nomatch h⟩

theorem some_keep (h : Keep q s) : KeepOpt q (some s) := ⟨fun t ht => by cases ht; exact h⟩

theorem oite_keep {c : Prop} [Decidable c] {a b : Option State} (h : KeepOpt q a) (h' : KeepOpt q b) :
    KeepOpt q (if c then a else b) := by split <;> assumption

theorem omap_keep {f : State → State} {o : Option State} (h : KeepOpt q o)
    (hf : ∀ t, Keep q t → Keep q (f t)) : KeepOpt q (o.map f) := ⟨fun t ht => by
  cases o with
  | none => cases ht
  | some x => cases ht; exact hf x (h.of x rfl)⟩

theorem obind_keep {f : State → Option State} {o : Option State} (h : KeepOpt q o)
    (hf : ∀ t, Keep q t → KeepOpt q (f t)) : KeepOpt q (o.bind f) := ⟨fun t ht => by
  cases o with
  | none => cases ht
  | some x => exact (hf x (h.of x rfl)).of t ht⟩

theorem num_keep {o : Option (Nat × State)} {n : Nat} (h : o = some (n, t)) (ho : KeepNum q o) : Keep q t :=
  ho.of n t h

theorem nnone_keep : KeepNum q none := ⟨fun _ _ h => nomatch h⟩

theorem nsome_keep {n : Nat} (h : Keep q s) : KeepNum q (some (n, s)) := ⟨fun n t ht => by cases ht; exact h⟩

theorem nite_keep {c : Prop} [Decidable c] {a b : Option (Nat × State)} (h : KeepNum q a) (h' : KeepNum q b) :
    KeepNum q (if c then a else b) := by split <;> assumption

theorem next_keep (h : Keep q s) : KeepOut q (.next s) := ⟨fun t ht => by cases ht; exact h⟩

theorem outite_keep {c : Prop} [Decidable c] {a b : Host.Outcome State Fault Refusal} (h : KeepOut q a)
    (h' : KeepOut q b) : KeepOut q (if c then a else b) := by split <;> assumption

/-! ### The parts of a state that soundness speaks of -/

theorem setMbx_keep {m : Nat} {b : Mbx} (h : Keep q s) (hb : KeepMbx q b) : Keep q (s.setMbx m b) :=
  ⟨h.part, fun hq => by
    have v := h.inv hq
    refine ⟨fun e he => ?_, v.2⟩
    rcases mem_tset he with he | he
    · subst he
      exact hb hq
    · exact v.1 e he⟩

theorem mbx_keep {m : Nat} (h : Keep q s) : KeepMbx q (s.mbx m) := fun hq => by
  unfold State.mbx tget
  cases hm : tfind s.mbxs m with
  | none => exact ⟨rfl, rfl⟩
  | some b => exact (h.inv hq).1 _ (tfind_mem hm)

theorem mbxInit_keep : KeepMbx q Mbx.init := fun _ => ⟨rfl, rfl⟩

theorem mbxMk_keep {b : Mbx} {x0 x1 x2 x3 x6 x7 x8 x9 x10 x11 x12 x13 : _} (h : KeepMbx q b) :
    KeepMbx q (Mbx.mk x0 x1 x2 x3 b.rq b.cq x6 x7 x8 x9 x10 x11 x12 x13) := h

theorem mbxRq_keep {b : Mbx} {x0 x1 x2 x3 x6 x7 x8 x9 x10 x11 x12 x13 : _} {a : Nat} {l : List Byte}
    (h : KeepMbx q b) :
    KeepMbx q (Mbx.mk x0 x1 x2 x3 (Mem.splice b.rq a l) b.cq x6 x7 x8 x9 x10 x11 x12 x13) :=
  fun hq => ⟨Mem.wf_splice (h hq).1, (h hq).2⟩

theorem mbxCq_keep {b : Mbx} {x0 x1 x2 x3 x6 x7 x8 x9 x10 x11 x12 x13 : _} {a : Nat} {l : List Byte}
    (h : KeepMbx q b) :
    KeepMbx q (Mbx.mk x0 x1 x2 x3 b.rq (Mem.splice b.cq a l) x6 x7 x8 x9 x10 x11 x12 x13) :=
  fun hq => ⟨(h hq).1, Mem.wf_splice (h hq).2⟩

theorem mbxNil_keep {x0 x1 x2 x3 x6 x7 x8 x9 x10 x11 x12 x13 : _} :
    KeepMbx q (Mbx.mk x0 x1 x2 x3 [] [] x6 x7 x8 x9 x10 x11 x12 x13) := fun _ => ⟨rfl, rfl⟩

theorem setXfer_keep {n : Nat} {x : Xfer} (h : Keep q s) (hx : q.2 → x.data.wf = true) : Keep q (s.setXfer n x) :=
  ⟨h.part, fun hq => by
    have v := h.inv hq
    refine ⟨v.1, fun e he => ?_, v.2.2⟩
    rcases mem_tset he with he | he
    · subst he
      exact hx hq
    · exact v.2.1 e he⟩

theorem delXfer_keep {n : Nat} (h : Keep q s) : Keep q (s.delXfer n) :=
  ⟨h.part, fun hq => by
    have v := h.inv hq
    exact ⟨v.1, fun e he => v.2.1 e (mem_tdel he), v.2.2⟩⟩

theorem xfer_keep {n : Nat} {x : Xfer} (hx : s.xfer n = some x) (h : Keep q s) : q.2 → x.data.wf = true :=
  fun hq => (h.inv hq).2.1 _ (tfind_mem hx)

theorem setRegion_keep {c k : Nat} {r : Region} (h : Keep q s) (hr : q.2 → r.data.wf = true) :
    Keep q (s.setRegion c k r) :=
  ⟨h.part, fun hq => by
    have v := h.inv hq
    refine ⟨v.1, v.2.1, fun e he => ?_, v.2.2.2⟩
    rcases mem_tset he with he | he
    · subst he
      exact hr hq
    · exact v.2.2.1 e he⟩

theorem delRegion_keep {c k : Nat} (h : Keep q s) : Keep q (s.delRegion c k) :=
  ⟨h.part, fun hq => by
    have v := h.inv hq
    exact ⟨v.1, v.2.1, fun e he => v.2.2.1 e (mem_tdel he), v.2.2.2⟩⟩

theorem region_keep {c k : Nat} {r : Region} (hr : s.region c k = some r) (h : Keep q s) :
    q.2 → r.data.wf = true := fun hq => (h.inv hq).2.2.1 _ (tfind_mem hr)

theorem splice_keep {m : Mem} {a : Nat} {l : List Byte} (h : q.2 → m.wf = true) :
    q.2 → (Mem.splice m a l).wf = true := fun hq => Mem.wf_splice (h hq)

theorem nil_keep : q.2 → Mem.wf [] = true := fun _ => rfl

theorem setCluster_keep {k : Nat} {c : Cluster} (h : Keep q s) (hc : KeepClu q c) : Keep q (s.setCluster k c) :=
  ⟨h.part, fun hq => by
    have v := h.inv hq
    refine ⟨v.1, v.2.1, v.2.2.1, v.2.2.2.1, fun e he => ?_, v.2.2.2.2.2⟩
    rcases mem_tset he with he | he
    · subst he
      exact hc hq
    · exact v.2.2.2.2.1 e he⟩

theorem cluster_keep {k : Nat} (h : Keep q s) : KeepClu q (s.cluster k) := fun hq => by
  unfold State.cluster tget
  cases hm : tfind s.stl.clusters k with
  | none => exact Nat.zero_le 5
  | some b => exact (h.inv hq).2.2.2.2.1 _ (tfind_mem hm)

theorem clusterMk_keep {c : Cluster} {x1 x2 x3 x4 x5 : _} (h : KeepClu q c) :
    KeepClu q (Cluster.mk c.step x1 x2 x3 x4 x5) := h

/-- Pages taken from among those held, and a page that nobody holds, keep the pages sound. -/
theorem pages_keep {i : Ingot} (h : Keep q s) (hi : q.2 → pagesOk s.ing.pages → pagesOk i.pages) :
    Keep q { s with ing := i } :=
  ⟨h.part, fun hq => by
    have v := h.inv hq
    exact ⟨v.1, v.2.1, v.2.2.1, v.2.2.2.1, v.2.2.2.2.1, hi hq v.2.2.2.2.2⟩⟩

theorem pagesOk_add {l : List Page} {p : Page} (h : pagesOk l) (hp : ∀ u ∈ l, u.no ≠ p.no) : pagesOk (l ++ [p]) := by
  unfold pagesOk at *
  rw [List.map_append, List.nodup_append]
  refine ⟨h, by simp, ?_⟩
  intro a ha b hb
  obtain ⟨u, hu, rfl⟩ := List.mem_map.mp ha
  have : b = p.no := by simpa using hb
  subst this
  exact hp u hu

theorem pagesOk_filter {l : List Page} {f : Page → Bool} (h : pagesOk l) : pagesOk (l.filter f) :=
  h.sublist (List.filter_sublist.map Page.no)

end

end Sys2Proof.Machine
end

