-- ==== Sys2Proof/Laws/KeepOps.lean ====
section
/-! SUPPORT. Every operation and meaning of Machine/Ops.lean keeps the identity of the part and soundness. -/

namespace Sys2Proof.Machine

section
variable {q : Base}

theorem State.setCfg_keep {s : State} {a : Nat} {v : Word} (h0 : Keep q s) :
    Keep q (State.setCfg s a v) := by
  unfold State.setCfg
  with_reducible repeat' first | assumption | (fail_if_no_progress refine mk_keep ?_ rfl rfl rfl)

theorem State.bump_keep {s : State} {a : Nat} {n : Nat} (h0 : Keep q s) : Keep q (State.bump s a n) := by
  unfold State.bump
  with_reducible repeat' first
    | assumption | apply ite_keep | (fail_if_no_progress refine mk_keep ?_ rfl rfl rfl)

theorem State.raiseTo_keep {s : State} {a : Nat} {n : Nat} (h0 : Keep q s) :
    Keep q (State.raiseTo s a n) := by
  unfold State.raiseTo
  with_reducible repeat' first
    | assumption | apply ite_keep | (fail_if_no_progress refine mk_keep ?_ rfl rfl rfl)

theorem due_keep {c : Bool} {s : State} {s' : State} (h0 : Keep q s) (h1 : Keep q s') :
    KeepOut q (due c s s') := by
  unfold due
  with_reducible repeat' first | assumption | apply ite_keep | apply next_keep

theorem State.elapse_keep {s : State} (h0 : Keep q s) : Keep q (State.elapse s) := by
  unfold State.elapse
  dsimp only
  with_reducible repeat' first | assumption | (fail_if_no_progress refine mk_keep ?_ rfl rfl rfl)

theorem State.free_keep {s : State} (h0 : Keep q s) : Keep q (State.free s).2 := by
  unfold State.free
  dsimp only
  with_reducible repeat' first | assumption | (fail_if_no_progress refine mk_keep ?_ rfl rfl rfl)

theorem State.freeBytes_keep {s : State} {n : Nat} (h0 : Keep q s) : Keep q (State.freeBytes s n).2 := by
  unfold State.freeBytes
  dsimp only
  with_reducible repeat' first | assumption | (fail_if_no_progress refine mk_keep ?_ rfl rfl rfl)

theorem State.setLane_keep {s : State} {l : Nat} {v : Lane} (h0 : Keep q s) :
    Keep q (State.setLane s l v) := by
  unfold State.setLane
  with_reducible repeat' first | assumption | (fail_if_no_progress refine mk_keep ?_ rfl rfl rfl)

theorem State.setPort_keep {s : State} {p : Nat} {v : Port} (h0 : Keep q s) :
    Keep q (State.setPort s p v) := by
  unfold State.setPort
  with_reducible repeat' first | assumption | (fail_if_no_progress refine mk_keep ?_ rfl rfl rfl)

theorem State.setPaux_keep {s : State} {p : Nat} {v : PortAux} (h0 : Keep q s) :
    Keep q (State.setPaux s p v) := by
  unfold State.setPaux
  with_reducible repeat' first | assumption | (fail_if_no_progress refine mk_keep ?_ rfl rfl rfl)

theorem State.setCtx_keep {s : State} {c : Nat} {v : Ctx} (h0 : Keep q s) :
    Keep q (State.setCtx s c v) := by
  unfold State.setCtx
  with_reducible repeat' first | assumption | (fail_if_no_progress refine mk_keep ?_ rfl rfl rfl)

theorem State.setStack_keep {s : State} {k : Nat} {v : Stack} (h0 : Keep q s) :
    Keep q (State.setStack s k v) := by
  unfold State.setStack
  dsimp only
  with_reducible repeat' first | assumption | (fail_if_no_progress refine mk_keep ?_ rfl rfl rfl)

theorem State.setChan_keep {s : State} {k : Nat} {c : Nat} {v : Chan} (h0 : Keep q s) :
    Keep q (State.setChan s k c v) := by
  unfold State.setChan
  dsimp only
  with_reducible repeat' first | assumption | apply State.setStack_keep

theorem State.setTensor_keep {s : State} {c : Nat} {t : Nat} {v : Tensor} (h0 : Keep q s) :
    Keep q (State.setTensor s c t v) := by
  unfold State.setTensor
  with_reducible repeat' first | assumption | (fail_if_no_progress refine mk_keep ?_ rfl rfl rfl)

theorem State.setSlotTbl_keep {s : State} {p : Nat} {t : Nat} {v : SlotTbl} (h0 : Keep q s) :
    Keep q (State.setSlotTbl s p t v) := by
  unfold State.setSlotTbl
  dsimp only
  with_reducible repeat' first | assumption | (fail_if_no_progress refine mk_keep ?_ rfl rfl rfl)

theorem State.beginShares_keep {s : State} (h0 : Keep q s) : Keep q (State.beginShares s) := by
  unfold State.beginShares
  dsimp only
  with_reducible repeat' first
    | assumption | apply ite_keep | apply setCluster_keep | apply foldl_keep | apply cluster_keep
    | (fail_if_no_progress apply clusterMk_keep) | (intro _ _ _)

theorem State.endJob_keep {s : State} (h0 : Keep q s) : Keep q s.endJob :=
  ⟨h0.part, fun hq => by
    have v := h0.inv hq
    refine ⟨v.1, v.2.1, v.2.2.1, v.2.2.2.1, fun e he => ?_, v.2.2.2.2.2⟩
    obtain ⟨c, hc, rfl⟩ := List.mem_map.mp he
    have h := v.2.2.2.2.1 c hc
    dsimp only
    split
    · exact h
    · exact h⟩

theorem State.endJobIf_keep {s : State} {test : SteelJob → Bool} (h0 : Keep q s) :
    Keep q (State.endJobIf s test) := by
  unfold State.endJobIf
  with_reducible repeat' first | assumption | apply ite_keep | apply State.endJob_keep

theorem State.pulse_keep {s : State} (h0 : Keep q s) : Keep q (State.pulse s) := by
  unfold State.pulse
  dsimp only
  with_reducible repeat' first
    | assumption | apply ite_keep | (fail_if_no_progress refine mk_keep ?_ rfl rfl rfl)

theorem State.record_keep {s : State} {cls : Nat} {dk : Nat} {di : Nat} {src : Nat} {info : Nat}
    (h0 : Keep q s) : Keep q (State.record s cls dk di src info) := by
  unfold State.record
  dsimp only
  with_reducible repeat' first
    | assumption | apply ite_keep | apply State.bump_keep | apply State.pulse_keep
    | (fail_if_no_progress refine mk_keep ?_ rfl rfl rfl) | split

theorem State.sendCtl_keep {s : State} {p : Nat} {m : CtlMsg} (h0 : Keep q s) :
    Keep q (State.sendCtl s p m) := by
  unfold State.sendCtl
  dsimp only
  with_reducible repeat' first | assumption | apply State.setPort_keep

theorem State.sendLink_keep {s : State} {p : Nat} {m : LinkMsg} (h0 : Keep q s) :
    Keep q (State.sendLink s p m) := by
  unfold State.sendLink
  dsimp only
  with_reducible repeat' first | assumption | apply State.setPort_keep

theorem State.sendSide_keep {s : State} {p : Nat} {m : SideMsg} (h0 : Keep q s) :
    Keep q (State.sendSide s p m) := by
  unfold State.sendSide
  dsimp only
  with_reducible repeat' first | assumption | apply State.setPort_keep

theorem State.flood_keep {s : State} {from_ : Option Nat} {m : CtlMsg} (h0 : Keep q s) :
    Keep q (State.flood s from_ m) := by
  unfold State.flood
  with_reducible repeat' first | assumption | apply State.sendCtl_keep | apply foldl_keep | (intro _ _ _)

theorem State.sendCtlTo_keep {s : State} {dest : Nat} {m : CtlMsg} (h0 : Keep q s) :
    Keep q (State.sendCtlTo s dest m) := by
  unfold State.sendCtlTo
  with_reducible repeat' first | assumption | apply State.sendCtl_keep | split

theorem State.routed_keep {s : State} {f : Frame} (h0 : Keep q s) : Keep q (State.routed s f).1 := by
  unfold State.routed
  dsimp only
  with_reducible repeat' first
    | assumption | apply ite_keep | (fail_if_no_progress refine mk_keep ?_ rfl rfl rfl) | split

theorem State.headTags_keep {s : State} {p : Nat} (h0 : Keep q s) : Keep q (State.headTags s p) := by
  unfold State.headTags
  dsimp only
  with_reducible repeat' first
    | assumption | apply ite_keep | apply State.setPort_keep | (fail_if_no_progress refine mk_keep ?_ rfl rfl rfl)
    | apply foldl_keep | (intro _ _ _) | split

theorem State.returnCredit_keep {s : State} {p : Nat} {vc : Nat} (h0 : Keep q s) :
    Keep q (State.returnCredit s p vc) := by
  unfold State.returnCredit
  dsimp only
  with_reducible repeat' first | assumption | apply State.setPort_keep

theorem State.dropCopy_keep {s : State} {key : Nat} (h0 : Keep q s) : Keep q (State.dropCopy s key) := by
  unfold State.dropCopy
  dsimp only
  with_reducible repeat' first
    | assumption | apply ite_keep | apply State.returnCredit_keep
    | (fail_if_no_progress refine mk_keep ?_ rfl rfl rfl) | split

theorem State.dropFrom_keep {s : State} {id : Nat} {k : Nat} (h0 : Keep q s) :
    Keep q (State.dropFrom s id k) := by
  unfold State.dropFrom
  with_reducible repeat' first | assumption | apply State.dropCopy_keep | apply foldl_keep | (intro _ _ _)

theorem State.freeCells_keep {s : State} {id : Nat} (h0 : Keep q s) : Keep q (State.freeCells s id) := by
  unfold State.freeCells
  dsimp only
  with_reducible repeat' first
    | assumption | apply ite_keep | apply State.returnCredit_keep
    | (fail_if_no_progress refine mk_keep ?_ rfl rfl rfl) | apply foldl_keep | (intro _ _ _) | split

theorem State.discardRest_keep {s : State} {id : Nat} (h0 : Keep q s) :
    Keep q (State.discardRest s id) := by
  unfold State.discardRest
  with_reducible repeat' first | assumption | (fail_if_no_progress refine mk_keep ?_ rfl rfl rfl)

theorem State.tokenLost_keep {s : State} {ft : Nat} (h0 : Keep q s) : Keep q (State.tokenLost s ft) := by
  unfold State.tokenLost
  with_reducible repeat' first | assumption | apply State.bump_keep

theorem State.loseToken_keep {s : State} {f : Frame} {id : Nat} (h0 : Keep q s) :
    Keep q (State.loseToken s f id) := by
  unfold State.loseToken
  dsimp only
  with_reducible repeat' first
    | assumption | apply ite_keep | apply State.tokenLost_keep | (fail_if_no_progress refine mk_keep ?_ rfl rfl rfl)

theorem State.discard_keep {s : State} {id : Nat} (h0 : Keep q s) : Keep q (State.discard s id) := by
  unfold State.discard
  with_reducible repeat' first | assumption | apply State.freeCells_keep | apply State.discardRest_keep

theorem State.dropUnacked_keep {s : State} {p : Nat} (h0 : Keep q s) : Keep q (State.dropUnacked s p) := by
  unfold State.dropUnacked
  dsimp only
  with_reducible repeat' first
    | assumption | apply ite_keep | apply State.bump_keep | apply State.dropCopy_keep | apply foldl_keep
    | (intro _ _ _) | split

theorem State.stamp_keep {s : State} {p : Nat} {t : TxFlit} (h0 : Keep q s) :
    Keep q (State.stamp s p t).1 := by
  unfold State.stamp
  dsimp only
  with_reducible repeat' first | assumption | apply State.setPort_keep

theorem State.putWire_keep {s : State} {p : Nat} {t : TxFlit} (h0 : Keep q s) :
    Keep q (State.putWire s p t) := by
  unfold State.putWire
  dsimp only
  with_reducible repeat' first | assumption | apply State.setPort_keep | apply State.stamp_keep

theorem State.sendBlock_keep {s : State} {b : Nat} {p : Nat} {i : Nat} {bs : List Byte} (h0 : Keep q s) :
    Keep q (State.sendBlock s b p i bs) := by
  unfold State.sendBlock
  dsimp only
  with_reducible repeat' first | assumption | apply State.setLane_keep

theorem State.sendLeave_keep {s : State} {p : Nat} {reason : Nat} (h0 : Keep q s) :
    Keep q (State.sendLeave s p reason) := by
  unfold State.sendLeave
  dsimp only
  with_reducible repeat' first
    | assumption | apply ite_keep | apply State.setPort_keep | apply State.stamp_keep | apply State.sendBlock_keep
    | apply foldl_keep | (intro _ _ _)

theorem State.idlePort_keep {s : State} {p : Nat} {st : PortState} (h0 : Keep q s) :
    Keep q (State.idlePort s p st) := by
  unfold State.idlePort
  dsimp only
  with_reducible repeat' first
    | assumption | apply State.setLane_keep | apply State.setPort_keep | apply foldl_keep | (intro _ _ _)

theorem State.leaveAll_keep {s : State} {reason : Nat} {st : PortState} (h0 : Keep q s) :
    Keep q (State.leaveAll s reason st) := by
  unfold State.leaveAll
  dsimp only
  with_reducible repeat' first
    | assumption | apply ite_keep | apply State.setPaux_keep | apply State.freeCells_keep
    | apply State.dropUnacked_keep | apply State.sendLeave_keep | apply State.idlePort_keep | apply foldl_keep
    | (intro _ _ _) | split

theorem State.numbered_keep {s : State} {q' : QEnt} (h0 : Keep q s) : Keep q (State.numbered s q').1 := by
  unfold State.numbered
  dsimp only
  with_reducible repeat' first | assumption | (fail_if_no_progress refine mk_keep ?_ rfl rfl rfl)

theorem State.queueEnt_keep {s : State} {q' : QEnt} (h0 : Keep q s) : Keep q (State.queueEnt s q') := by
  unfold State.queueEnt
  dsimp only
  with_reducible repeat' first
    | assumption | apply ite_keep | apply State.numbered_keep | (fail_if_no_progress refine mk_keep ?_ rfl rfl rfl)

theorem State.enter_keep {s : State} {inp : Nat} {f : Frame} {outs : List Nat} {mc : Bool}
    (h0 : Keep q s) : Keep q (State.enter s inp f outs mc) := by
  unfold State.enter
  dsimp only
  with_reducible repeat' first
    | assumption | apply ite_keep | apply State.numbered_keep | apply State.queueEnt_keep
    | (fail_if_no_progress refine mk_keep ?_ rfl rfl rfl)

theorem State.sendFrame_keep {s : State} {inp : Nat} {f : Frame} (h0 : Keep q s) :
    Keep q (State.sendFrame s inp f) := by
  unfold State.sendFrame
  dsimp only
  with_reducible repeat' first | assumption | apply State.routed_keep | apply State.enter_keep | split

theorem State.takeEnt_keep {s : State} {q' : QEnt} (h0 : Keep q s) : Keep q (State.takeEnt s q') := by
  unfold State.takeEnt
  dsimp only
  with_reducible repeat' first | assumption | (fail_if_no_progress refine mk_keep ?_ rfl rfl rfl)

theorem State.takeQueued_keep {s : State} {f : Frame} (h0 : Keep q s) :
    Keep q (State.takeQueued s f).1 := by
  unfold State.takeQueued
  with_reducible repeat' first | assumption | apply State.takeEnt_keep | split

theorem State.takeMgmt_keep {s : State} {msub : Nat} {m : Mgmt} (h0 : Keep q s) :
    KeepOpt q (State.takeMgmt s msub m) := by
  unfold State.takeMgmt
  with_reducible repeat' first
    | assumption | apply State.dropFrom_keep | apply State.takeEnt_keep | apply oite_keep | apply none_keep
    | apply some_keep | split

theorem State.brassFrame_keep {s : State} {msub : Nat} {m : Mgmt} {act : State → State} (h0 : Keep q s)
    (h1 : ∀ t, Keep q t → Keep q (act t)) : KeepOut q (s.brassFrame msub m act) := by
  unfold State.brassFrame
  split
  · exact next_keep h0
  · rename_i t ht
    exact due_keep h0 (h1 t ((State.takeMgmt_keep h0).of t ht))

theorem State.sendGroup_keep {s : State} {inp : Nat} {g : Nat} {f : Frame} (h0 : Keep q s) :
    Keep q (State.sendGroup s inp g f) := by
  unfold State.sendGroup
  dsimp only
  with_reducible repeat' first | assumption | apply State.enter_keep

theorem State.repoint_keep {s : State} (h0 : Keep q s) : Keep q (State.repoint s) := by
  unfold State.repoint
  dsimp only
  with_reducible repeat' first | assumption | (fail_if_no_progress refine mk_keep ?_ rfl rfl rfl)

theorem State.sendMgmt_keep {s : State} {dest : Nat} {msub : Nat} {host : Bool} {mbx : Nat} {tag : Nat}
    {offset : Nat} {arg : Nat} {payload : List Byte} (h0 : Keep q s) :
    Keep q (State.sendMgmt s dest msub host mbx tag offset arg payload) := by
  unfold State.sendMgmt
  with_reducible repeat' first | assumption | apply State.sendFrame_keep

theorem State.sendBulk_keep {s : State} {m : Nat} {tag : Nat} {off : Nat} {bs : List Byte}
    (h0 : Keep q s) : Keep q (State.sendBulk s m tag off bs) := by
  unfold State.sendBulk
  with_reducible repeat' first
    | assumption | apply State.sendMgmt_keep | (intro _ _ _) | apply foldl1_keep | split

theorem State.writeCpl_keep {s : State} {m : Nat} {c : Cpl} (h0 : Keep q s) :
    Keep q (State.writeCpl s m c) := by
  unfold State.writeCpl
  dsimp only
  with_reducible repeat' first
    | assumption | apply ite_keep | apply State.sendMgmt_keep | apply setMbx_keep | apply mbx_keep
    | apply mbxCq_keep | split

theorem State.postCpl_keep {s : State} {m : Nat} {inst : Nat} {c : Cpl} (h0 : Keep q s) :
    Keep q (State.postCpl s m inst c) := by
  unfold State.postCpl
  dsimp only
  with_reducible repeat' first
    | assumption | apply ite_keep | apply State.bump_keep | apply State.writeCpl_keep | apply setMbx_keep
    | apply mbx_keep | (fail_if_no_progress apply mbxMk_keep) | split

theorem State.finish_keep {s : State} {c : Cmd} {result : Nat} {detail : Nat} {ret : List Byte}
    (h0 : Keep q s) : Keep q (State.finish s c result detail ret) := by
  unfold State.finish
  dsimp only
  with_reducible repeat' first
    | assumption | apply ite_keep | apply State.postCpl_keep | apply setMbx_keep | apply mbx_keep
    | (fail_if_no_progress apply mbxMk_keep)

theorem State.closeMbx_keep {s : State} {m : Nat} (h0 : Keep q s) : Keep q (State.closeMbx s m) := by
  unfold State.closeMbx
  dsimp only
  with_reducible repeat' first
    | assumption | apply setMbx_keep | (fail_if_no_progress refine mk_keep ?_ rfl rfl rfl) | apply mbxInit_keep
    | (fail_if_no_progress apply mbxMk_keep)

theorem State.tryClose_keep {n : Nat} {s : State} {m : Nat} (h0 : Keep q s) :
    Keep q (State.tryClose n s m) := by
  induction n generalizing s m with
  | zero => exact h0
  | succ n ih =>
    unfold State.tryClose
    split
    · exact h0
    · apply ite_keep
      · exact ih (State.finish_keep (State.closeMbx_keep h0))
      · exact h0

theorem State.complete_keep {s : State} {c : Cmd} {result detail : Nat} {ret : List Byte}
    (h0 : Keep q s) : Keep q (State.complete s c result detail ret) :=
  State.tryClose_keep (State.finish_keep h0)

theorem State.finishLoads_keep {s : State} (h0 : Keep q s) : Keep q (State.finishLoads s) := by
  unfold State.finishLoads
  dsimp only
  with_reducible repeat' first
    | assumption | apply State.complete_keep | (fail_if_no_progress refine mk_keep ?_ rfl rfl rfl)
    | apply foldl_keep | (intro _ _ _)

theorem State.mem_freeOn {s : State} {k c p : Nat} (h : p ∈ s.freeOn k c) : ∀ u ∈ s.ing.pages, u.no ≠ p := by
  intro u hu e
  have h2 := (List.mem_filter.mp h).2
  simp only [Bool.and_eq_true, Bool.not_eq_true', List.any_eq_false, beq_iff_eq] at h2
  exact h2.2 u hu e

theorem State.drawPage_keep {s : State} {k : Nat} {h : Holder} (h0 : Keep q s) :
    KeepOpt q (s.drawPage k h) := by
  constructor
  intro t ht
  unfold State.drawPage at ht
  split at ht
  · cases ht
  · rename_i c hc
    have hm (p : Nat) (hp : p ∈ s.freeOn k c) : ∀ u ∈ s.ing.pages, u.no ≠ p := State.mem_freeOn hp
    generalize s.freeOn k c = l at ht hm
    dsimp only at ht
    split at ht
    · cases ht
    · rename_i p hp
      rw [← Option.some.inj ht]
      refine State.setStack_keep (pages_keep (s := s.free.2) (State.free_keep h0) ?_)
      exact fun _ hv => pagesOk_add hv (hm p (List.mem_of_getElem? hp))

theorem State.drawPages_keep {s : State} {l : List (Nat × Holder)} (h0 : Keep q s) :
    KeepOpt q (s.drawPages l) := by
  induction l generalizing s with
  | nil => exact some_keep h0
  | cons x l ih =>
    rw [State.drawPages]
    exact obind_keep (State.drawPage_keep h0) (fun t ht => ih ht)

theorem State.writeMap_keep {s : State} {h : Holder} {fmt : Nat} {rot : Nat} {elements : Nat}
    (h0 : Keep q s) : Keep q (State.writeMap s h fmt rot elements) := by
  unfold State.writeMap
  dsimp only
  with_reducible repeat' first | assumption | (fail_if_no_progress refine mk_keep ?_ rfl rfl rfl)

theorem State.freePages_keep {s : State} {test : Holder → Bool} (h0 : Keep q s) :
    Keep q (s.freePages test) := pages_keep h0 (fun _ hv => pagesOk_filter hv)

theorem State.movePages_keep {s : State} {f : Holder → Holder} (h0 : Keep q s) :
    Keep q (s.movePages f) := pages_keep h0 (fun _ hv => by
  unfold pagesOk at *
  rwa [List.map_map])

theorem State.mem_freeBufs {s : State} {b : Nat} (h : b ∈ s.freeBufs) : ∀ u ∈ s.ing.pages, u.no ≠ 16 * b := by
  intro u hu e
  have h2 := (List.mem_filter.mp h).2
  simp only [Bool.and_eq_true, Bool.not_eq_true', State.pageUsed, List.any_eq_false, Bool.or_eq_true, not_or,
    beq_iff_eq] at h2
  exact (h2.2 u hu).1 e

theorem State.drawBufs_keep {s : State} {h : Holder} {n : Nat} (h0 : Keep q s) :
    KeepOpt q (s.drawBufs h n) := by
  induction n generalizing s with
  | zero => exact some_keep h0
  | succ n ih =>
    unfold State.drawBufs
    dsimp only
    split
    · exact none_keep
    · rename_i b hb
      refine ih (pages_keep (s := s.free.2) (State.free_keep h0) ?_)
      exact fun _ hv => pagesOk_add hv (State.mem_freeBufs (List.mem_of_getElem? hb))

end

end Sys2Proof.Machine
end

