-- ==== Sys2Proof/Laws/KeepReset.lean ====
section
/-! SUPPORT. Every operation and meaning of Machine/Reset.lean keeps the identity of the part and soundness. -/

namespace Sys2Proof.Machine

section
variable {q : Base}

theorem State.crashDump_keep {s : State} {cause : Nat} (h0 : Keep q s) :
    Keep q (State.crashDump s cause) := by
  unfold State.crashDump
  dsimp only
  with_reducible repeat' first | assumption | (fail_if_no_progress refine mk_keep ?_ rfl rfl rfl)

theorem State.lanesIdle_keep {s : State} (h0 : Keep q s) : Keep q (State.lanesIdle s) := by
  unfold State.lanesIdle
  with_reducible repeat' first | assumption | (fail_if_no_progress refine mk_keep ?_ rfl rfl rfl)

theorem State.enterX_keep {s : State} {src : Nat} {info : Nat} (h0 : Keep q s) :
    Keep q (State.enterX s src info) := by
  unfold State.enterX
  dsimp only
  with_reducible repeat' first
    | assumption | apply ite_keep | apply State.record_keep | apply State.leaveAll_keep | apply State.crashDump_keep
    | apply State.lanesIdle_keep | (fail_if_no_progress refine mk_keep ?_ rfl rfl rfl)

theorem State.extend_keep {s : State} {i : Nat} {d : List Byte} (h0 : Keep q s) :
    Keep q (State.extend s i d) := by
  unfold State.extend
  dsimp only
  with_reducible repeat' first | assumption | (fail_if_no_progress refine mk_keep ?_ rfl rfl rfl)

theorem State.trialBoot_keep {s : State} (h0 : Keep q s) : Keep q (State.trialBoot s) := by
  unfold State.trialBoot
  dsimp only
  with_reducible repeat' first
    | assumption | apply ite_keep | apply State.record_keep | (fail_if_no_progress refine mk_keep ?_ rfl rfl rfl)

theorem State.runImage_keep {s : State} {b : Bool} (h0 : Keep q s) : Keep q (State.runImage s b) := by
  unfold State.runImage
  dsimp only
  with_reducible repeat' first
    | assumption | apply State.extend_keep | (fail_if_no_progress refine mk_keep ?_ rfl rfl rfl)

theorem State.bootImages_keep {s : State} (h0 : Keep q s) : Keep q (State.bootImages s) := by
  unfold State.bootImages
  dsimp only
  with_reducible repeat' first
    | assumption | apply ite_keep | apply State.record_keep | apply State.extend_keep | apply State.trialBoot_keep
    | apply State.runImage_keep | (fail_if_no_progress refine mk_keep ?_ rfl rfl rfl)

theorem State.boot_keep {s : State} {b : BootObs} (h0 : Keep q s) : Keep q (State.boot s b) := by
  unfold State.boot
  dsimp only
  with_reducible repeat' first
    | assumption | apply ite_keep | apply State.free_keep | apply State.record_keep | apply State.enterX_keep
    | apply State.extend_keep | apply State.bootImages_keep | (fail_if_no_progress refine mkf_keep ?_ rfl rfl rfl)

theorem State.unitsReset_keep {s : State} {cause : Nat} {b : BootObs} (h0 : Keep q s) :
    Keep q (s.unitsReset cause b) :=
  ⟨h0.part, fun hq => by
    have v := h0.inv hq
    refine ⟨nofun, nofun, v.2.2.1, (by decide : rdlenOk 4), fun e he => ?_, v.2.2.2.2.2⟩
    obtain ⟨c, _, rfl⟩ := List.mem_map.mp he
    exact Nat.zero_le 5⟩

theorem State.warm_keep {s : State} {cause : Nat} {b : BootObs} (h0 : Keep q s) :
    Keep q (State.warm s cause b) := by
  unfold State.warm
  dsimp only
  with_reducible repeat' first
    | assumption | apply ite_keep | apply State.leaveAll_keep | apply State.crashDump_keep | apply State.boot_keep
    | apply State.unitsReset_keep

theorem State.clearIngot_keep {s : State} (h0 : Keep q s) : Keep q s.clearIngot :=
  ⟨h0.part, fun hq => by
    have v := h0.inv hq
    exact ⟨v.1, v.2.1, nofun, v.2.2.2.1, v.2.2.2.2.1, List.nodup_nil⟩⟩

theorem State.heldReset_keep {s : State} (h0 : Keep q s) : Keep q (State.heldReset s) := by
  unfold State.heldReset
  dsimp only
  with_reducible repeat' first
    | assumption | apply State.unitsReset_keep | apply State.clearIngot_keep
    | (fail_if_no_progress refine mk_keep ?_ rfl rfl rfl)

end

end Sys2Proof.Machine
end

