-- ==== Sys2Proof/Laws/KeepColl.lean ====
section
/-! SUPPORT. Every operation and meaning of Machine/Coll.lean keeps the identity of the part and soundness. -/

namespace Sys2Proof.Machine

section
variable {q : Base}

theorem State.ownerBack_keep {s : State} {a : Nat} {n : Nat} (h0 : Keep q s) :
    Keep q (State.ownerBack s a n) := by
  unfold State.ownerBack
  dsimp only
  with_reducible repeat' first | assumption | (fail_if_no_progress refine mk_keep ?_ rfl rfl rfl)

theorem State.heardBack_keep {s : State} {a : Nat} (h0 : Keep q s) : Keep q (State.heardBack s a) := by
  unfold State.heardBack
  dsimp only
  with_reducible repeat' first
    | assumption | apply ite_keep | apply State.ownerBack_keep | (fail_if_no_progress refine mk_keep ?_ rfl rfl rfl)

theorem State.setColl_keep {s : State} {slot : Nat} {c : Coll} (h0 : Keep q s) :
    Keep q (State.setColl s slot c) := by
  unfold State.setColl
  with_reducible repeat' first | assumption | (fail_if_no_progress refine mk_keep ?_ rfl rfl rfl)

theorem State.queueCopies_keep {s : State} {inp : Nat} {id : Nat} {f : Frame} {outs : List Nat}
    (h0 : Keep q s) : Keep q (State.queueCopies s inp id f outs) := by
  unfold State.queueCopies
  dsimp only
  with_reducible repeat' first
    | assumption | apply ite_keep | apply State.discard_keep | apply State.queueEnt_keep
    | (fail_if_no_progress refine mk_keep ?_ rfl rfl rfl)

theorem State.mcastLost_keep {s : State} {inp : Nat} {f : Frame} {gs : List Nat} (h0 : Keep q s) :
    Keep q (State.mcastLost s inp f gs) := by
  unfold State.mcastLost
  dsimp only
  with_reducible repeat' first
    | assumption | apply ite_keep | apply State.bump_keep | apply State.record_keep | apply State.sendCtlTo_keep
    | apply State.sendFrame_keep | apply foldl_keep | (intro _ _ _) | split

theorem State.sendTree_keep {s : State} {inp : Nat} {root : Nat} {f : Frame} (h0 : Keep q s) :
    Keep q (State.sendTree s inp root f) := by
  unfold State.sendTree
  dsimp only
  with_reducible repeat' first
    | assumption | apply ite_keep | apply State.enter_keep | apply State.mcastLost_keep

theorem State.writeRecords_keep {s : State} {d : List Byte} {rec_ : List Byte} (h0 : Keep q s) :
    Keep q (State.writeRecords s d rec_) := by
  unfold State.writeRecords
  dsimp only
  with_reducible repeat' first | assumption | apply State.sendFrame_keep | apply foldl_keep | (intro _ _ _)

theorem State.postRecord_keep {s : State} {c : Coll} {rec_ : List Byte} (h0 : Keep q s) :
    Keep q (State.postRecord s c rec_) := by
  unfold State.postRecord
  with_reducible repeat' first | assumption | apply State.postCpl_keep

theorem State.sendRecord_keep {s : State} {d : List Byte} {rec_ : List Byte} (h0 : Keep q s) :
    Keep q (State.sendRecord s d rec_) := by
  unfold State.sendRecord
  dsimp only
  with_reducible repeat' first | assumption | apply State.sendTree_keep

theorem State.freeNodes_keep {s : State} {ns : List Node} (h0 : Keep q s) :
    Keep q (State.freeNodes s ns) := by
  unfold State.freeNodes
  with_reducible repeat' first | assumption | apply State.dropFrom_keep | apply foldl_keep | (intro _ _ _)

theorem State.askAgain_keep {s : State} {f : Frame} (h0 : Keep q s) : Keep q (State.askAgain s f) := by
  unfold State.askAgain
  dsimp only
  with_reducible repeat' first
    | assumption | apply ite_keep | apply State.sendCtlTo_keep | apply State.setColl_keep | split

theorem State.cutFrame_keep {s : State} {id : Nat} {tail : Nat × List Byte} (h0 : Keep q s) :
    Keep q (State.cutFrame s id tail) := by
  unfold State.cutFrame
  dsimp only
  with_reducible repeat' first
    | assumption | apply ite_keep | apply State.bump_keep | apply State.setPort_keep | apply State.returnCredit_keep
    | apply State.discardRest_keep | apply State.loseToken_keep | apply State.askAgain_keep
    | (fail_if_no_progress refine mk_keep ?_ rfl rfl rfl) | apply foldl_keep | (intro _ _ _) | split

theorem State.allTags_keep {s : State} (h0 : Keep q s) : Keep q (State.allTags s) := by
  unfold State.allTags
  with_reducible repeat' first | assumption | apply State.headTags_keep | apply foldl_keep

theorem State.badFrame_keep {s : State} {id : Nat} {tail : Nat × List Byte} (h0 : Keep q s) :
    Keep q (State.badFrame s id tail) := by
  unfold State.badFrame
  with_reducible repeat' first | assumption | apply State.cutFrame_keep | apply State.allTags_keep

theorem State.purge_keep {s : State} {test : Frame → Bool} (h0 : Keep q s) :
    Keep q (State.purge s test) := by
  unfold State.purge
  dsimp only
  with_reducible repeat' first
    | assumption | apply State.cutFrame_keep | apply State.allTags_keep
    | (fail_if_no_progress refine mk_keep ?_ rfl rfl rfl) | apply foldl_keep | (intro _ _ _)

theorem State.freeOld_keep {s : State} {ctx : Nat} {tensor : Nat} (h0 : Keep q s) :
    Keep q (State.freeOld s ctx tensor) := by
  unfold State.freeOld
  with_reducible repeat' first | assumption | apply State.freePages_keep

theorem State.clearColl_keep {s : State} {c : Coll} (h0 : Keep q s) : Keep q (State.clearColl s c) := by
  unfold State.clearColl
  dsimp only
  with_reducible repeat' first
    | assumption | apply State.bump_keep | apply State.setTensor_keep | apply State.endJobIf_keep
    | apply State.freePages_keep | apply State.freeNodes_keep | (fail_if_no_progress refine mk_keep ?_ rfl rfl rfl)
    | split

theorem State.stopSlot_keep {s : State} {slot : Nat} {status : Nat} {done : Nat} (h0 : Keep q s) :
    Keep q (State.stopSlot s slot status done) := by
  unfold State.stopSlot
  dsimp only
  with_reducible repeat' first
    | assumption | apply ite_keep | apply State.writeRecords_keep | apply State.postRecord_keep
    | apply State.purge_keep | apply State.freeOld_keep | apply State.clearColl_keep
    | (fail_if_no_progress refine mk_keep ?_ rfl rfl rfl) | split

theorem State.stopQueued_keep {s : State} {c : Coll} {status : Nat} {done : Nat} (h0 : Keep q s) :
    Keep q (State.stopQueued s c status done) := by
  unfold State.stopQueued
  dsimp only
  with_reducible repeat' first
    | assumption | apply ite_keep | apply State.complete_keep | apply State.writeRecords_keep
    | apply State.postRecord_keep | (fail_if_no_progress refine mk_keep ?_ rfl rfl rfl)

theorem State.countRefused_keep {s : State} (h0 : Keep q s) : Keep q (State.countRefused s) := by
  unfold State.countRefused
  with_reducible repeat' first | assumption | apply State.bump_keep

theorem State.trySlot_keep {s : State} {slot : Nat} (h0 : Keep q s) : Keep q (State.trySlot s slot) := by
  unfold State.trySlot
  dsimp only
  with_reducible repeat' first
    | assumption | apply ite_keep | apply State.freePages_keep | (fail_if_no_progress refine mk_keep ?_ rfl rfl rfl)
    | split

theorem State.homeTell_keep {s : State} {slot : Nat} (h0 : Keep q s) : Keep q (State.homeTell s slot) := by
  unfold State.homeTell
  dsimp only
  with_reducible repeat' first
    | assumption | apply ite_keep | apply State.sendCtlTo_keep | apply State.setColl_keep | split

theorem State.homeTry_keep {s : State} {slot : Nat} (h0 : Keep q s) : Keep q (State.homeTry s slot) := by
  unfold State.homeTry
  dsimp only
  with_reducible repeat' first
    | assumption | apply ite_keep | apply State.setColl_keep | apply State.writeRecords_keep
    | apply State.trySlot_keep | apply State.homeTell_keep | split

theorem State.homeRecord_keep {s : State} {slot : Nat} {r : List Byte} (h0 : Keep q s) :
    Keep q (State.homeRecord s slot r) := by
  unfold State.homeRecord
  dsimp only
  with_reducible repeat' first
    | assumption | apply ite_keep | apply State.setColl_keep | apply State.homeTry_keep | split

theorem State.homeReturn_keep {s : State} {slot : Nat} {off : Nat} {len : Nat} {us : List Nat}
    (h0 : Keep q s) : Keep q (State.homeReturn s slot off len us) := by
  unfold State.homeReturn
  dsimp only
  with_reducible repeat' first
    | assumption | apply ite_keep | apply State.setColl_keep | apply State.homeTry_keep | split

theorem State.rootTry_keep {s : State} {slot : Nat} (h0 : Keep q s) : Keep q (State.rootTry s slot) := by
  unfold State.rootTry
  dsimp only
  with_reducible repeat' first
    | assumption | apply ite_keep | apply State.freePages_keep | apply State.setColl_keep
    | apply State.postRecord_keep | apply State.trySlot_keep | split

theorem State.homesTry_keep {s : State} (h0 : Keep q s) : Keep q (State.homesTry s) := by
  unfold State.homesTry
  with_reducible repeat' first
    | assumption | apply State.homeTry_keep | apply State.rootTry_keep | apply foldl_keep | (intro _ _ _) | split

theorem State.waitPool_keep {s : State} {pool : Nat} {r : PoolReq} (h0 : Keep q s) :
    Keep q (State.waitPool s pool r) := by
  unfold State.waitPool
  dsimp only
  with_reducible repeat' first
    | assumption | apply ite_keep | (fail_if_no_progress refine mk_keep ?_ rfl rfl rfl)

theorem State.drawShadow_keep {s : State} {c : Nat} {tag : Nat} {l : List (Nat × Holder)}
    (h0 : Keep q s) : KeepOpt q (State.drawShadow s c tag l) := by
  unfold State.drawShadow
  with_reducible repeat' first | assumption | apply State.drawPages_keep | apply oite_keep | apply none_keep

theorem State.unwait_keep {s : State} {pool : Nat} {tag : Nat} (h0 : Keep q s) :
    Keep q (State.unwait s pool tag) := by
  unfold State.unwait
  dsimp only
  with_reducible repeat' first | assumption | (fail_if_no_progress refine mk_keep ?_ rfl rfl rfl)

theorem State.sendReturnFrame_keep {s : State} {slot : Nat} {c : Coll} {g : Nat} {bs : List Byte}
    (h0 : Keep q s) : Keep q (State.sendReturnFrame s slot c g bs) := by
  unfold State.sendReturnFrame
  dsimp only
  with_reducible repeat' first | assumption | apply State.sendTree_keep | apply State.homeReturn_keep

theorem State.stageReturn_keep {n slot : Nat} {s : State} (h0 : Keep q s) :
    Keep q (State.stageReturn n s slot) := by
  induction n generalizing s with
  | zero => exact h0
  | succ n ih =>
    rw [State.stageReturn]
    split
    · exact h0
    · split
      · exact h0
      · dsimp only
        refine ite_keep (State.unwait_keep h0) (ite_keep (State.waitPool_keep h0) (ih ?_))
        exact foldl_keep (State.setColl_keep (State.unwait_keep h0)) (fun _ _ ht => State.sendReturnFrame_keep ht)

theorem State.restage_keep {s : State} {slot : Nat} {tag : Nat} (h0 : Keep q s) :
    Keep q (State.restage s slot tag) := by
  unfold State.restage
  with_reducible repeat' first | assumption | apply State.unwait_keep | apply State.stageReturn_keep | split

theorem State.sendReturn_keep {s : State} {slot : Nat} {version : Nat} {image : List Byte}
    (h0 : Keep q s) : Keep q (State.sendReturn s slot version image) := by
  unfold State.sendReturn
  dsimp only
  with_reducible repeat' first
    | assumption | apply State.setColl_keep | apply State.stageReturn_keep | split

theorem State.homeResult_keep {s : State} {slot : Nat} {rank : Nat} {part : Nat} {off : Nat}
    {bs : List Byte} (h0 : Keep q s) : Keep q (State.homeResult s slot rank part off bs) := by
  unfold State.homeResult
  dsimp only
  with_reducible repeat' first
    | assumption | apply State.sendFrame_keep | apply State.homeReturn_keep | apply foldl_keep | (intro _ _ _)
    | split

theorem State.spreadResult_keep {s : State} {slot : Nat} {part : Nat} {off : Nat} {bs : List Byte}
    {root : Nat} (h0 : Keep q s) : Keep q (State.spreadResult s slot part off bs root) := by
  unfold State.spreadResult
  dsimp only
  with_reducible repeat' first
    | assumption | apply State.sendFrame_keep | apply State.sendGroup_keep | apply State.homeResult_keep
    | apply foldl_keep | (intro _ _ _) | split

theorem State.memberResult_keep {s : State} {slot : Nat} {rank : Nat} {part : Nat} {off : Nat}
    {bs : List Byte} (h0 : Keep q s) : Keep q (State.memberResult s slot rank part off bs) := by
  unfold State.memberResult
  dsimp only
  with_reducible repeat' first
    | assumption | apply ite_keep | apply State.sendFrame_keep | apply State.homeResult_keep | split

theorem State.sendResults_keep {s : State} {slot : Nat} {image : List Byte} (h0 : Keep q s) :
    Keep q (State.sendResults s slot image) := by
  unfold State.sendResults
  dsimp only
  with_reducible repeat' first
    | assumption | apply ite_keep | apply State.setColl_keep | apply State.spreadResult_keep | apply foldl_keep
    | (intro _ _ _) | split

theorem State.decide__keep {s : State} {slot : Nat} {status : Nat} {rec_ : List Byte} {image : Option
    (List Byte)} {version : Nat} (h0 : Keep q s) : Keep q (State.decide_ s slot status rec_ image version) := by
  unfold State.decide_
  dsimp only
  with_reducible repeat' first
    | assumption | apply ite_keep | apply State.freePages_keep | apply State.setColl_keep
    | apply State.postRecord_keep | apply State.sendRecord_keep | apply State.trySlot_keep
    | apply State.homeRecord_keep | apply State.rootTry_keep | apply State.sendReturn_keep
    | apply State.sendResults_keep | split

end

end Sys2Proof.Machine
end

