-- ==== Sys2Proof/Laws/KeepBronze.lean ====
section
/-! SUPPORT. Every operation and meaning of Machine/Bronze.lean keeps the identity of the part and soundness. -/

namespace Sys2Proof.Machine

section
variable {q : Base}

theorem State.setHalf_keep {s : State} {slot : Nat} {g : Nat} {h : Option (Nat × Option Nat × Bool)}
    (h0 : Keep q s) : Keep q (State.setHalf s slot g h) := by
  unfold State.setHalf
  dsimp only
  with_reducible repeat' first | assumption | apply State.setColl_keep | split

theorem State.setSeg_keep {s : State} {slot : Nat} {ni : Nat} {g : Nat} {sg : Seg} (h0 : Keep q s) :
    Keep q (State.setSeg s slot ni g sg) := by
  unfold State.setSeg
  with_reducible repeat' first | assumption | apply State.setColl_keep | split

theorem State.spillOne_keep {s : State} {k : Nat} {slot : Nat} {ni : Nat} {g : Nat} (h0 : Keep q s) :
    KeepOpt q (State.spillOne s k slot ni g) := by
  unfold State.spillOne
  dsimp only
  with_reducible repeat' first
    | assumption | apply State.bump_keep | apply State.drawBufs_keep | apply State.setHalf_keep
    | apply State.setSeg_keep | apply some_keep | apply omap_keep | (intro _ _) | split

theorem State.engineRoom_keep {k slot ni g need tag n : Nat} {s : State} (h0 : Keep q s) :
    KeepOpt q (State.engineRoom k slot ni g need tag n s) := by
  induction n generalizing s with
  | zero => exact some_keep h0
  | succ n ih =>
    rw [State.engineRoom]
    refine oite_keep (some_keep h0) ?_
    split
    · exact some_keep h0
    · refine oite_keep ?_ none_keep
      split
      · exact none_keep
      · rename_i t ht
        exact ih (State.unwait_keep ((State.spillOne_keep h0).of t ht))

theorem State.accRoom_keep {s : State} {slot ni g need tag : Nat} {ks : List Nat} (h0 : Keep q s) :
    KeepOpt q (s.accRoom slot ni g need tag ks) := by
  have h (l : List Nat) : ∀ o, KeepOpt q o →
      KeepOpt q (l.foldl (fun o k => o.bind (State.engineRoom k slot ni g need tag 4096)) o) := by
    induction l with
    | nil => exact fun _ ho => ho
    | cons k l ih => exact fun o ho => ih _ (obind_keep ho (fun _ ht => State.engineRoom_keep ht))
  exact h ks _ (some_keep h0)

theorem State.joinSeg_keep {s : State} {slot : Nat} {ni : Nat} {g : Nat} {i : SegIn} (h0 : Keep q s) :
    KeepOpt q (State.joinSeg s slot ni g i) := by
  unfold State.joinSeg
  dsimp only
  with_reducible repeat' first
    | assumption | apply State.freePages_keep | apply State.setSeg_keep | apply State.accRoom_keep | apply some_keep
    | apply omap_keep | (intro _ _) | split

theorem State.ensureG_keep {s : State} {d : List Byte} (h0 : Keep q s) :
    KeepOpt q (State.ensureG s d) := by
  unfold State.ensureG
  dsimp only
  with_reducible repeat' first
    | assumption | apply State.writeMap_keep | apply State.drawShadow_keep | apply State.unwait_keep
    | apply oite_keep | apply some_keep | apply omap_keep | (intro _ _)

theorem State.settle_keep {s : State} {slot : Nat} {conds : BitVec 16} {pdig : BitVec 64}
    {partFail : BitVec 64} {lowest : Nat} {image : Option (List Byte)} {version : Nat} (h0 : Keep q s) :
    Keep q (State.settle s slot conds pdig partFail lowest image version) := by
  unfold State.settle
  dsimp only
  with_reducible repeat' first
    | assumption | apply ite_keep | apply State.setTensor_keep | apply State.freePages_keep
    | apply State.setColl_keep | apply State.trySlot_keep | apply State.decide__keep | split

theorem State.rootComplete_keep {s : State} {slot : Nat} (h0 : Keep q s) :
    Keep q (State.rootComplete s slot) := by
  unfold State.rootComplete
  dsimp only
  with_reducible repeat' first
    | assumption | apply ite_keep | apply State.setColl_keep | apply State.settle_keep
    | (fail_if_no_progress refine mk_keep ?_ rfl rfl rfl) | split

theorem State.rootTake_keep {s : State} {slot : Nat} {g : Nat} {blocks : List IBlock} {maxAbs : Nat}
    {vals : List Word} {flags : BitVec 6} {nfRank : Nat} (h0 : Keep q s) :
    Keep q (State.rootTake s slot g blocks maxAbs vals flags nfRank) := by
  unfold State.rootTake
  dsimp only
  with_reducible repeat' first
    | assumption | apply ite_keep | apply State.setColl_keep | apply State.rootComplete_keep | split

theorem State.sendTwin_keep {s : State} {pt : Nat} {c : Coll} {g : Nat} {blocks : List IBlock}
    {vals : List Word} {fl : BitVec 6} {nr : Nat} (h0 : Keep q s) :
    Keep q (State.sendTwin s pt c g blocks vals fl nr) := by
  unfold State.sendTwin
  dsimp only
  with_reducible repeat' first | assumption | apply ite_keep | apply State.sendGroup_keep | split

theorem State.dropToken_keep {s : State} {id : Nat} (h0 : Keep q s) : Keep q (State.dropToken s id) := by
  unfold State.dropToken
  with_reducible repeat' first | assumption | apply State.bump_keep | apply State.dropFrom_keep

theorem State.abandonAt_keep {s : State} {slot : Nat} {ni : Nat} {ks : List Src} {late : Bool}
    (h0 : Keep q s) : Keep q (State.abandonAt s slot ni ks late) := by
  unfold State.abandonAt
  dsimp only
  with_reducible repeat' first
    | assumption | apply ite_keep | apply State.record_keep | apply State.setColl_keep | apply State.dropToken_keep
    | apply foldl_keep | (intro _ _ _) | split

theorem State.closeSeg_keep {s : State} {slot : Nat} {ni : Nat} {g : Nat} {bad : Bool} (h0 : Keep q s) :
    Keep q (State.closeSeg s slot ni g bad) := by
  unfold State.closeSeg
  dsimp only
  with_reducible repeat' first
    | assumption | apply ite_keep | apply State.bump_keep | apply State.record_keep | apply State.dropFrom_keep
    | apply State.freePages_keep | apply State.setSeg_keep | apply foldl_keep | (intro _ _ _) | split

theorem State.handOn_keep {s : State} {slot : Nat} {ni : Nat} {g : Nat} {r : NodeSum} (h0 : Keep q s) :
    KeepOpt q (State.handOn s slot ni g r) := by
  unfold State.handOn
  dsimp only
  with_reducible repeat' first
    | assumption | apply State.joinSeg_keep | apply State.abandonAt_keep | apply oite_keep | apply some_keep | split

theorem State.sendPartial_keep {s : State} {pt : Nat} {c : Coll} {g : Nat} {q' : Nat} {r : NodeSum}
    (h0 : Keep q s) : Keep q (State.sendPartial s pt c g q' r) := by
  unfold State.sendPartial
  dsimp only
  with_reducible repeat' first | assumption | apply State.sendGroup_keep

theorem State.toRoot_keep {s : State} {pt : Nat} {slot : Nat} {g : Nat} {c : Coll} {r : NodeSum}
    (h0 : Keep q s) : Keep q (State.toRoot s pt slot g c r) := by
  unfold State.toRoot
  dsimp only
  with_reducible repeat' first | assumption | apply State.rootTake_keep | apply State.sendTwin_keep

theorem State.reRoom_keep {s : State} {slot : Nat} {ni : Nat} {g : Nat} {d : List Byte} {sg : Seg}
    {es : List Nat} (h0 : Keep q s) : KeepOpt q (State.reRoom s slot ni g d sg es) := by
  unfold State.reRoom
  with_reducible repeat' first | assumption | apply State.accRoom_keep | apply oite_keep | apply some_keep

theorem State.completeSeg_keep {s : State} {slot : Nat} {ni : Nat} {g : Nat} (h0 : Keep q s) :
    Keep q (State.completeSeg s slot ni g) := by
  unfold State.completeSeg
  dsimp only
  with_reducible repeat' first
    | assumption | apply ite_keep | apply State.trySlot_keep | apply State.waitPool_keep | apply State.unwait_keep
    | apply State.ensureG_keep | apply State.closeSeg_keep | apply State.handOn_keep | apply State.sendPartial_keep
    | apply State.toRoot_keep | apply State.reRoom_keep | (apply opt_keep; assumption) | split

theorem State.progress_keep {s : State} {slot : Nat} (h0 : Keep q s) : Keep q (State.progress s slot) := by
  unfold State.progress
  dsimp only
  with_reducible repeat' first
    | assumption | apply ite_keep | apply State.completeSeg_keep | apply foldl_keep | (intro _ _ _) | split

theorem State.abandon_keep {s : State} {slot : Nat} {ni : Nat} {ks : List Src} {late : Bool}
    (h0 : Keep q s) : Keep q (State.abandon s slot ni ks late) := by
  unfold State.abandon
  with_reducible repeat' first | assumption | apply State.abandonAt_keep | apply State.progress_keep

theorem State.nodeInput_keep {s : State} {back : State} {slot : Nat} {ni : Nat} {g : Nat} {i : SegIn}
    (h0 : Keep q s) (h1 : Keep q back) : Keep q (State.nodeInput s back slot ni g i) := by
  unfold State.nodeInput
  dsimp only
  with_reducible repeat' first
    | assumption | apply ite_keep | apply State.bump_keep | apply State.record_keep | apply State.waitPool_keep
    | apply State.joinSeg_keep | apply State.dropToken_keep | apply State.progress_keep | apply State.abandon_keep
    | (apply opt_keep; assumption) | split

theorem State.resum_keep {s : State} {slot : Nat} {ni : Nat} {g : Nat} (h0 : Keep q s) :
    Keep q (State.resum s slot ni g) := by
  unfold State.resum
  dsimp only
  with_reducible repeat' first
    | assumption | apply State.freePages_keep | apply State.waitPool_keep | apply State.setHalf_keep
    | apply State.setSeg_keep | apply State.accRoom_keep | (apply opt_keep; assumption) | split

theorem State.fenceEngine_keep {s : State} {k : Nat} (h0 : Keep q s) : Keep q (State.fenceEngine s k) := by
  unfold State.fenceEngine
  dsimp only
  with_reducible repeat' first
    | assumption | apply ite_keep | apply State.bump_keep | apply State.repoint_keep | apply State.resum_keep
    | (fail_if_no_progress refine mk_keep ?_ rfl rfl rfl) | apply foldl_keep | (intro _ _ _)

theorem State.accError_keep {s : State} {e : Nat × Nat × Bool} (h0 : Keep q s) :
    Keep q (State.accError s e) := by
  unfold State.accError
  dsimp only
  with_reducible repeat' first
    | assumption | apply ite_keep | apply State.free_keep | apply State.record_keep | apply State.fenceEngine_keep

theorem State.accErrors_keep {s : State} {ecc : List (BitVec 4 × BitVec 20 × Bool)} (h0 : Keep q s) :
    Keep q (State.accErrors s ecc) := by
  unfold State.accErrors
  with_reducible repeat' first | assumption | apply State.accError_keep | apply foldl_keep | (intro _ _ _)

theorem execContribReceive_keep {_p : BitVec 6} {f : Frame} {ecc : List (BitVec 4 × BitVec 20 × Bool)}
    {s : State} (h0 : Keep q s) : KeepOut q (execContribReceive _p f ecc s) := by
  unfold execContribReceive
  dsimp only
  with_reducible repeat' first
    | assumption | apply State.bump_keep | apply State.takeQueued_keep | apply State.dropToken_keep
    | apply State.nodeInput_keep | apply State.accErrors_keep | apply next_keep | apply outite_keep | split

theorem State.mirrorTake_keep {s : State} {slot : Nat} {c : Coll} {f : Frame} (h0 : Keep q s) :
    Keep q (State.mirrorTake s slot c f) := by
  unfold State.mirrorTake
  dsimp only
  with_reducible repeat' first
    | assumption | apply ite_keep | apply State.bump_keep | apply State.record_keep | apply State.setColl_keep
    | apply State.setHalf_keep | apply State.rootTake_keep | split

theorem State.mirrorRoom_keep {s : State} {back : State} {slot : Nat} {c : Coll} {g : Nat}
    (h0 : Keep q s) (h1 : Keep q back) : Keep q (State.mirrorRoom s back slot c g).1 := by
  unfold State.mirrorRoom
  dsimp only
  with_reducible repeat' first
    | assumption | apply State.freePages_keep | apply State.waitPool_keep | apply State.setHalf_keep
    | apply State.accRoom_keep | apply State.ensureG_keep | apply ite1_keep | (apply opt_keep; assumption) | split

theorem execPartialReceive_keep {p : BitVec 6} {f : Frame} {ecc : List (BitVec 4 × BitVec 20 × Bool)}
    {s : State} (h0 : Keep q s) : KeepOut q (execPartialReceive p f ecc s) := by
  unfold execPartialReceive
  dsimp only
  with_reducible repeat' first
    | assumption | apply State.bump_keep | apply State.dropFrom_keep | apply State.takeQueued_keep
    | apply State.dropToken_keep | apply State.nodeInput_keep | apply State.accErrors_keep
    | apply State.mirrorTake_keep | apply State.mirrorRoom_keep | apply next_keep | apply outite_keep
    | (apply fst_keep; assumption) | split

end

end Sys2Proof.Machine
end

