-- ==== Sys2Proof/Laws/KeepPewter.lean ====
section
/-! SUPPORT. Every operation and meaning of Machine/Pewter.lean keeps the identity of the part and soundness. -/

namespace Sys2Proof.Machine

section
variable {q : Base}

theorem State.writeMaps_keep {s : State} {rot : Nat} {l : List (Holder × Nat × Nat)} (h0 : Keep q s) :
    Keep q (State.writeMaps s rot l) := by
  unfold State.writeMaps
  with_reducible repeat' first | assumption | apply State.writeMap_keep | apply foldl_keep | (intro _ _ _)

theorem State.issue_keep {s : State} {d : List Byte} {t : Tensor} {u : Update} (h0 : Keep q s) :
    Keep q (State.issue s d t u) := by
  unfold State.issue
  dsimp only
  with_reducible repeat' first | assumption | (fail_if_no_progress refine mk_keep ?_ rfl rfl rfl)

theorem State.tryPages_keep {s : State} (h0 : Keep q s) : Keep q (State.tryPages s) := by
  unfold State.tryPages
  dsimp only
  with_reducible repeat' first
    | assumption | apply ite_keep | apply State.waitPool_keep | apply State.drawShadow_keep
    | apply State.unwait_keep | apply State.writeMaps_keep | apply State.issue_keep
    | (fail_if_no_progress refine mk_keep ?_ rfl rfl rfl) | (apply opt_keep; assumption) | split

theorem State.updateStart_keep {s : State} (h0 : Keep q s) : Keep q (State.updateStart s) := by
  unfold State.updateStart
  dsimp only
  with_reducible repeat' first
    | assumption | apply ite_keep | apply State.bump_keep | apply State.free_keep | apply State.setTensor_keep
    | apply State.settle_keep | apply State.tryPages_keep | (fail_if_no_progress refine mk_keep ?_ rfl rfl rfl)
    | split

theorem execUpdateStart_keep {s : State} (h0 : Keep q s) : KeepOut q (execUpdateStart s) := by
  unfold execUpdateStart
  with_reducible repeat' first | assumption | apply due_keep | apply State.updateStart_keep

theorem State.noUpdate_keep {s : State} (h0 : Keep q s) : Keep q (State.noUpdate s) := by
  unfold State.noUpdate
  dsimp only
  with_reducible repeat' first | assumption | (fail_if_no_progress refine mk_keep ?_ rfl rfl rfl)

theorem State.clearPending_keep {s : State} {ctx : Nat} {tensor : Nat} (h0 : Keep q s) :
    Keep q (State.clearPending s ctx tensor) := by
  unfold State.clearPending
  dsimp only
  with_reducible repeat' first | assumption | apply State.setTensor_keep | split

theorem State.freeNew_keep {s : State} {ctx : Nat} {cid : Nat} (h0 : Keep q s) :
    Keep q (State.freeNew s ctx cid) := by
  unfold State.freeNew
  with_reducible repeat' first | assumption | apply State.freePages_keep

theorem State.finishUpdate_keep {s : State} {u : Update} (h0 : Keep q s) :
    Keep q (State.finishUpdate s u) := by
  unfold State.finishUpdate
  dsimp only
  with_reducible repeat' first
    | assumption | apply State.freePages_keep | (fail_if_no_progress refine mk_keep ?_ rfl rfl rfl)

theorem State.failUpdate_keep {s : State} {u : Update} {slot : Nat} {c : Coll} {t : Tensor}
    {parts : BitVec 64} (h0 : Keep q s) : Keep q (State.failUpdate s u slot c t parts) := by
  unfold State.failUpdate
  dsimp only
  with_reducible repeat' first
    | assumption | apply State.bump_keep | apply State.freePages_keep | apply State.settle_keep
    | apply State.clearPending_keep | apply State.freeNew_keep

theorem State.updatePass_keep {s : State} {r : PassReport} (h0 : Keep q s) :
    Keep q (State.updatePass s r) := by
  unfold State.updatePass
  dsimp only
  with_reducible repeat' first
    | assumption | apply ite_keep | apply State.setTensor_keep | apply State.issue_keep | apply State.noUpdate_keep
    | apply State.freeNew_keep | apply State.finishUpdate_keep | apply State.failUpdate_keep
    | (fail_if_no_progress refine mk_keep ?_ rfl rfl rfl) | split

theorem State.fetchPages_keep {s : State} {ctx : Nat} {cid : Nat} (h0 : Keep q s) :
    Keep q (State.fetchPages s ctx cid) := by
  unfold State.fetchPages
  dsimp only
  with_reducible repeat' first
    | assumption | apply ite_keep | apply State.free_keep | apply State.waitPool_keep | apply State.drawShadow_keep
    | apply State.unwait_keep | apply State.writeMaps_keep | apply State.issue_keep | (apply opt_keep; assumption)
    | split

theorem State.fetchPass_keep {s : State} {r : PassReport} (h0 : Keep q s) :
    Keep q (State.fetchPass s r) := by
  unfold State.fetchPass
  dsimp only
  with_reducible repeat' first
    | assumption | apply ite_keep | apply State.setTensor_keep | apply State.freeOld_keep | apply State.settle_keep
    | (fail_if_no_progress refine mk_keep ?_ rfl rfl rfl) | split

theorem execPassDone_keep {r : PassReport} {s : State} (h0 : Keep q s) : KeepOut q (execPassDone r s) := by
  unfold execPassDone
  with_reducible repeat' first
    | assumption | apply due_keep | apply State.updatePass_keep | apply State.fetchPass_keep | apply outite_keep

theorem State.flipPages_keep {s : State} {ctx : Nat} {cid : Nat} {tensor : Nat} {v : Nat}
    (h0 : Keep q s) : Keep q (State.flipPages s ctx cid tensor v) := by
  unfold State.flipPages
  dsimp only
  with_reducible repeat' first | assumption | apply State.freePages_keep | apply State.movePages_keep

theorem State.countUpdate_keep {s : State} {u : Update} (h0 : Keep q s) :
    Keep q (State.countUpdate s u) := by
  unfold State.countUpdate
  dsimp only
  with_reducible repeat' first
    | assumption | apply ite_keep | apply State.bump_keep | (fail_if_no_progress refine mk_keep ?_ rfl rfl rfl)

theorem State.compareTwins_keep {s : State} {ctx : Nat} {tensor : Nat} (h0 : Keep q s) :
    Keep q (State.compareTwins s ctx tensor) := by
  unfold State.compareTwins
  dsimp only
  with_reducible repeat' first
    | assumption | apply ite_keep | apply State.setTensor_keep | (fail_if_no_progress refine mk_keep ?_ rfl rfl rfl)
    | split

theorem State.flip_keep {s : State} {u : Update} (h0 : Keep q s) : Keep q (State.flip s u) := by
  unfold State.flip
  dsimp only
  with_reducible repeat' first
    | assumption | apply ite_keep | apply State.setTensor_keep | apply State.freePages_keep
    | apply State.settle_keep | apply State.failUpdate_keep | apply State.flipPages_keep
    | apply State.countUpdate_keep | apply State.compareTwins_keep
    | (fail_if_no_progress refine mk_keep ?_ rfl rfl rfl) | split

theorem execFlip_keep {s : State} (h0 : Keep q s) : KeepOut q (execFlip s) := by
  unfold execFlip
  with_reducible repeat' first
    | assumption | apply due_keep | apply State.flip_keep | apply next_keep | split

theorem execTwinDigest_keep {ctx : Byte} {tensor : BitVec 16} {pd : BitVec 64} {sd : BitVec 64}
    {s : State} (h0 : Keep q s) : KeepOut q (execTwinDigest ctx tensor pd sd s) := by
  unfold execTwinDigest
  with_reducible repeat' first
    | assumption | apply State.setTensor_keep | apply State.compareTwins_keep | apply next_keep | apply outite_keep
    | split

theorem execResyncDone_keep {c : TwinCopy} {s : State} (h0 : Keep q s) :
    KeepOut q (execResyncDone c s) := by
  unfold execResyncDone
  dsimp only
  with_reducible repeat' first
    | assumption | apply State.bump_keep | apply State.setTensor_keep
    | (fail_if_no_progress refine mk_keep ?_ rfl rfl rfl) | apply next_keep | apply outite_keep | split

theorem State.rejoined_keep {s : State} {k : Nat} (h0 : Keep q s) : Keep q (State.rejoined s k) := by
  unfold State.rejoined
  dsimp only
  with_reducible repeat' first
    | assumption | apply ite_keep | apply State.ownerBack_keep | (fail_if_no_progress refine mk_keep ?_ rfl rfl rfl)

theorem execRejoinCopyDone_keep {c : TwinCopy} {s : State} (h0 : Keep q s) :
    KeepOut q (execRejoinCopyDone c s) := by
  unfold execRejoinCopyDone
  dsimp only
  with_reducible repeat' first
    | assumption | apply ite_keep | apply State.setTensor_keep | apply State.rejoined_keep
    | (fail_if_no_progress refine mk_keep ?_ rfl rfl rfl) | apply next_keep | apply outite_keep | split

theorem State.actFor_keep {s : State} {slot : Nat} {c : Coll} (h0 : Keep q s) :
    Keep q (State.actFor s slot c) := by
  unfold State.actFor
  with_reducible repeat' first | assumption | apply State.setColl_keep | apply State.decide__keep | split

theorem State.takeover_keep {s : State} {lost : Nat} (h0 : Keep q s) : Keep q (State.takeover s lost) := by
  unfold State.takeover
  dsimp only
  with_reducible repeat' first
    | assumption | apply ite_keep | apply State.actFor_keep | (fail_if_no_progress refine mk_keep ?_ rfl rfl rfl)
    | apply foldl_keep | (intro _ _ _)

theorem execReturnReceive_keep {_p : BitVec 6} {f : Frame} {s : State} (h0 : Keep q s) :
    KeepOut q (execReturnReceive _p f s) := by
  unfold execReturnReceive
  dsimp only
  with_reducible repeat' first
    | assumption | apply State.dropFrom_keep | apply State.takeQueued_keep | apply State.homeReturn_keep
    | apply next_keep | apply outite_keep | split

theorem execCompletionReceive_keep {_p : BitVec 6} {f : Frame} {s : State} (h0 : Keep q s) :
    KeepOut q (execCompletionReceive _p f s) := by
  unfold execCompletionReceive
  dsimp only
  with_reducible repeat' first
    | assumption | apply State.dropFrom_keep | apply State.takeQueued_keep | apply State.trySlot_keep
    | apply State.homeRecord_keep | apply next_keep | apply outite_keep | split

theorem execReturnDone_keep {_p : BitVec 6} {m : ReturnMsg} {s : State} (h0 : Keep q s) :
    KeepOut q (execReturnDone _p m s) := by
  unfold execReturnDone
  dsimp only
  with_reducible repeat' first
    | assumption | apply State.sendCtlTo_keep | apply State.setColl_keep | apply State.rootTry_keep
    | apply next_keep | apply outite_keep | split

theorem State.resendResult_keep {s : State} {c : Coll} {image : List Byte} {off : Nat} {home : Nat}
    (h0 : Keep q s) : Keep q (State.resendResult s c image off home) := by
  unfold State.resendResult
  dsimp only
  with_reducible repeat' first
    | assumption | apply ite_keep | apply State.sendFrame_keep | apply foldl_keep | (intro _ _ _)

theorem execReturnResend_keep {_p : BitVec 6} {m : ReturnMsg} {s : State} (h0 : Keep q s) :
    KeepOut q (execReturnResend _p m s) := by
  unfold execReturnResend
  dsimp only
  with_reducible repeat' first
    | assumption | apply State.sendCtlTo_keep | apply State.sendFrame_keep | apply State.resendResult_keep
    | apply next_keep | apply outite_keep | split

end

end Sys2Proof.Machine
end

