-- ==== Sys2Proof/Laws/KeepSteel.lean ====
section
/-! SUPPORT. Every operation and meaning of Machine/Steel.lean keeps the identity of the part and soundness. -/

namespace Sys2Proof.Machine

section
variable {q : Base}

theorem State.kernelDecide_keep {s : State} {slot : Nat} {conds : BitVec 16} (h0 : Keep q s) :
    Keep q (State.kernelDecide s slot conds) := by
  unfold State.kernelDecide
  dsimp only
  with_reducible repeat' first
    | assumption | apply ite_keep | apply State.freeOld_keep | apply State.decide__keep | split

theorem State.writeRows_keep {s : State} {ctx : Nat} {key : Nat} {r0 : Nat} {bs : List Byte}
    (h0 : Keep q s) : Keep q (State.writeRows s ctx key r0 bs) := by
  unfold State.writeRows
  with_reducible repeat' first
    | assumption | apply ite_keep | apply setRegion_keep | (apply region_keep <;> assumption) | apply splice_keep
    | split

theorem State.validBytes_keep {s : State} {k : Kernel} {part : Nat} {bs : List Byte} (h0 : Keep q s) :
    Keep q (State.validBytes s k part bs).2 := by
  unfold State.validBytes
  with_reducible repeat' first | assumption | apply State.freeBytes_keep | apply ite2_keep

theorem State.hitKernel_keep {s : State} {slot : Nat} {p : Nat} (h0 : Keep q s) :
    Keep q (State.hitKernel s slot p) := by
  unfold State.hitKernel
  dsimp only
  with_reducible repeat' first | assumption | apply ite_keep | apply State.setColl_keep | split

theorem State.failKernels_keep {s : State} {p : Nat} (h0 : Keep q s) : Keep q (State.failKernels s p) := by
  unfold State.failKernels
  with_reducible repeat' first | assumption | apply State.hitKernel_keep | apply foldl_keep | (intro _ _ _)

theorem State.hitPoison_keep {s : State} {slot : Nat} (h0 : Keep q s) :
    Keep q (State.hitPoison s slot) := by
  unfold State.hitPoison
  dsimp only
  with_reducible repeat' first | assumption | apply State.hitKernel_keep | apply foldl_keep | (intro _ _ _)

theorem State.setSplit_keep {s : State} {k : Nat} (h0 : Keep q s) : Keep q (State.setSplit s k) := by
  unfold State.setSplit
  dsimp only
  with_reducible repeat' first | assumption | (fail_if_no_progress refine mk_keep ?_ rfl rfl rfl)

theorem State.dealUnits_keep {s : State} {m : Nat} {n : Nat} {k : Nat} (h0 : Keep q s) :
    Keep q (State.dealUnits s m n k) := by
  unfold State.dealUnits
  dsimp only
  with_reducible repeat' first
    | assumption | apply State.bump_keep | apply State.free_keep | apply foldl_keep | (intro _ _ _)

theorem State.failRun_keep {s : State} {u : Update} {slot : Nat} {c : Coll} {parts : BitVec 64}
    (h0 : Keep q s) : Keep q (State.failRun s u slot c parts) := by
  unfold State.failRun
  with_reducible repeat' first
    | assumption | apply State.noUpdate_keep | apply State.failUpdate_keep | split

theorem State.failParts_keep {s : State} {slot : Nat} {c : Coll} (h0 : Keep q s) :
    Keep q (State.failParts s slot c) := by
  unfold State.failParts
  dsimp only
  with_reducible repeat' first
    | assumption | apply State.freeBytes_keep | apply State.setColl_keep | apply State.writeRows_keep
    | (intro _ _ _) | apply foldl2_keep

theorem State.failJob_keep {s : State} {j : SteelJob} (h0 : Keep q s) : Keep q (State.failJob s j) := by
  unfold State.failJob
  dsimp only
  with_reducible repeat' first
    | assumption | apply State.endJob_keep | apply State.kernelDecide_keep | apply State.failRun_keep
    | apply State.failParts_keep | split

theorem State.startJob_keep {s : State} {j : SteelJob} (h0 : Keep q s) : Keep q (State.startJob s j) := by
  unfold State.startJob
  dsimp only
  with_reducible repeat' first
    | assumption | apply ite_keep | apply State.beginShares_keep | apply State.setSplit_keep
    | apply State.failJob_keep | (fail_if_no_progress refine mk_keep ?_ rfl rfl rfl) | split

theorem execSteelJobStart_keep {s : State} (h0 : Keep q s) : KeepOut q (execSteelJobStart s) := by
  unfold execSteelJobStart
  with_reducible repeat' first
    | assumption | apply due_keep | apply State.startJob_keep | apply next_keep | split

theorem State.restart_keep {s : State} (h0 : Keep q s) : Keep q (State.restart s) := by
  unfold State.restart
  dsimp only
  with_reducible repeat' first
    | assumption | apply ite_keep | apply State.bump_keep | apply State.beginShares_keep | apply State.setSplit_keep
    | apply State.failJob_keep | (fail_if_no_progress refine mk_keep ?_ rfl rfl rfl) | split

theorem State.fenceTile_keep {s : State} {n : Nat} (h0 : Keep q s) : Keep q (State.fenceTile s n) := by
  unfold State.fenceTile
  dsimp only
  with_reducible repeat' first
    | assumption | apply ite_keep | apply State.repoint_keep | apply State.restart_keep
    | (fail_if_no_progress refine mk_keep ?_ rfl rfl rfl)

theorem State.fenceCluster_keep {s : State} {k : Nat} (h0 : Keep q s) :
    Keep q (State.fenceCluster s k) := by
  unfold State.fenceCluster
  dsimp only
  with_reducible repeat' first
    | assumption | apply ite_keep | apply State.repoint_keep | apply State.restart_keep | apply setCluster_keep
    | apply cluster_keep | (fail_if_no_progress apply clusterMk_keep)

theorem State.sramError_keep {s : State} {e : Nat × Nat × Bool} (h0 : Keep q s) :
    Keep q (State.sramError s e) := by
  unfold State.sramError
  with_reducible repeat' first
    | assumption | apply ite_keep | apply State.bump_keep | apply State.record_keep | apply State.fenceTile_keep

theorem State.nsDone_keep {s : State} {u : Update} {k : Nat} {j : Nat} (h0 : Keep q s) :
    Keep q (State.nsDone s u k j) := by
  unfold State.nsDone
  dsimp only
  with_reducible repeat' first
    | assumption | apply ite_keep | apply State.endJob_keep | apply State.issue_keep | apply State.setSplit_keep
    | apply State.dealUnits_keep | (fail_if_no_progress refine mk_keep ?_ rfl rfl rfl) | split

theorem State.matmulDone_keep {s : State} {slot : Nat} {c : Coll} {i : Nat} (h0 : Keep q s) :
    Keep q (State.matmulDone s slot c i) := by
  unfold State.matmulDone
  dsimp only
  with_reducible repeat' first
    | assumption | apply ite_keep | apply State.endJob_keep | apply State.setColl_keep
    | apply State.kernelDecide_keep | apply State.writeRows_keep | apply State.validBytes_keep
    | apply State.dealUnits_keep

theorem State.productDone_keep {s : State} (h0 : Keep q s) : KeepOut q (State.productDone s) := by
  unfold State.productDone
  with_reducible repeat' first
    | assumption | apply due_keep | apply State.nsDone_keep | apply State.matmulDone_keep | apply next_keep | split

theorem execProductDone_keep {ecc : List (BitVec 6 × BitVec 18 × Bool)} {s : State} (h0 : Keep q s) :
    KeepOut q (execProductDone ecc s) := by
  unfold execProductDone
  dsimp only
  with_reducible repeat' first
    | assumption | apply State.sramError_keep | apply State.productDone_keep | apply foldl_keep | apply next_keep
    | apply outite_keep | (intro _ _ _)

theorem State.tempRead_keep {s : State} {src : TempSource} {temp : Nat} (h0 : Keep q s) :
    Keep q (State.tempRead s src temp) := by
  unfold State.tempRead
  dsimp only
  with_reducible repeat' first | assumption | (fail_if_no_progress refine mk_keep ?_ rfl rfl rfl)

theorem State.realert_keep {s : State} (h0 : Keep q s) : Keep q (State.realert s) := by
  unfold State.realert
  with_reducible repeat' first | assumption | apply State.tempRead_keep | apply foldl_keep | (intro _ _ _)

theorem State.cap_le (s : State) : s.cap ≤ 5 := Nat.min_le_left 5 _

theorem stepAt_le {cfg cap temp held step : Nat} (hc : cap ≤ 5) (hs : step ≤ 5) : stepAt cfg cap temp held step ≤ 5 := by
  unfold stepAt
  refine Nat.max_le.mpr ⟨?_, hc⟩
  repeat' split
  all_goals simp_all <;> omega

theorem execLayerBoundary_keep {k : BitVec 3} {temp : Byte} {s : State} (h0 : Keep q s) :
    KeepOut q (execLayerBoundary k temp s) := by
  unfold execLayerBoundary
  dsimp only
  refine due_keep h0 (ite_keep (State.bump_keep (State.tempRead_keep ?_)) (State.tempRead_keep ?_)) <;>
    exact setCluster_keep h0 (fun hq => stepAt_le s.cap_le (cluster_keep h0 hq))

theorem execClusterRelock_keep {k : BitVec 3} {ok : Bool} {s : State} (h0 : Keep q s) :
    KeepOut q (execClusterRelock k ok s) := by
  unfold execClusterRelock
  dsimp only
  with_reducible repeat' first
    | assumption | apply ite_keep | apply due_keep | apply State.record_keep | apply State.fenceCluster_keep
    | apply setCluster_keep | apply cluster_keep | (fail_if_no_progress apply clusterMk_keep)

theorem execTempAlert_keep {src : TempSource} {temp : Byte} {s : State} (h0 : Keep q s) :
    KeepOut q (execTempAlert src temp s) := by
  unfold execTempAlert
  dsimp only
  with_reducible repeat' first
    | assumption | apply due_keep | apply State.setStack_keep | apply State.tempRead_keep | apply setCluster_keep
    | apply cluster_keep | (fail_if_no_progress apply clusterMk_keep) | split

theorem execThermalTrip_keep {sensor : Byte} {s : State} (h0 : Keep q s) :
    KeepOut q (execThermalTrip sensor s) := by
  unfold execThermalTrip
  dsimp only
  with_reducible repeat' first
    | assumption | apply due_keep | apply State.enterX_keep | (fail_if_no_progress refine mk_keep ?_ rfl rfl rfl)

theorem State.kernelTry_keep {s : State} {slot : Nat} (h0 : Keep q s) :
    Keep q (State.kernelTry s slot) := by
  unfold State.kernelTry
  dsimp only
  with_reducible repeat' first | assumption | apply ite_keep | apply State.kernelDecide_keep | split

theorem State.unwaitOps_keep {s : State} {d : List Byte} (h0 : Keep q s) :
    Keep q (State.unwaitOps s d) := by
  unfold State.unwaitOps
  with_reducible repeat' first | assumption | apply State.unwait_keep | apply foldl_keep | (intro _ _ _)

theorem State.gatherRank_keep {s : State} {slot : Nat} {c : Coll} {k : Kernel} {rank : Nat}
    {img : List Byte} (h0 : Keep q s) : Keep q (State.gatherRank s slot c k rank img) := by
  unfold State.gatherRank
  dsimp only
  with_reducible repeat' first
    | assumption | apply State.setColl_keep | apply State.memberResult_keep | apply State.validBytes_keep
    | apply State.kernelTry_keep | apply foldl_keep | (intro _ _ _) | split

theorem State.gatherStage_keep {s : State} {d : List Byte} (h0 : Keep q s) :
    KeepOpt q (State.gatherStage s d) := by
  unfold State.gatherStage
  dsimp only
  with_reducible repeat' first
    | assumption | apply State.drawBufs_keep | apply State.unwait_keep | apply oite_keep | apply none_keep
    | apply omap_keep | (intro _ _)

theorem execLookupReceive_keep {_p : BitVec 6} {f : Frame} {s : State} (h0 : Keep q s) :
    KeepOut q (execLookupReceive _p f s) := by
  unfold execLookupReceive
  dsimp only
  with_reducible repeat' first
    | assumption | apply State.dropFrom_keep | apply State.takeQueued_keep | apply State.setColl_keep
    | apply State.waitPool_keep | apply State.unwaitOps_keep | apply State.gatherRank_keep
    | apply State.gatherStage_keep | apply next_keep | apply outite_keep | (apply opt_keep; assumption) | split

theorem execSourceReceive_keep {_p : BitVec 6} {f : Frame} {s : State} (h0 : Keep q s) :
    KeepOut q (execSourceReceive _p f s) := by
  unfold execSourceReceive
  dsimp only
  with_reducible repeat' first
    | assumption | apply State.dropFrom_keep | apply State.sendFrame_keep | apply State.takeQueued_keep
    | apply State.setColl_keep | apply next_keep | apply outite_keep | split

theorem execConvertedReceive_keep {_p : BitVec 6} {f : Frame} {s : State} (h0 : Keep q s) :
    KeepOut q (execConvertedReceive _p f s) := by
  unfold execConvertedReceive
  dsimp only
  with_reducible repeat' first
    | assumption | apply ite_keep | apply State.free_keep | apply State.dropFrom_keep | apply State.takeQueued_keep
    | apply State.setColl_keep | apply State.waitPool_keep | apply State.writeRows_keep
    | apply State.validBytes_keep | apply State.kernelTry_keep | apply State.unwaitOps_keep | apply next_keep
    | apply outite_keep | apply ite2_keep | split

theorem State.convert_keep {s : State} {slot : Nat} {c : Coll} (h0 : Keep q s) :
    Keep q (State.convert s slot c) := by
  unfold State.convert
  dsimp only
  with_reducible repeat' first
    | assumption | apply State.setColl_keep | apply State.kernelDecide_keep | apply State.writeRows_keep
    | apply State.validBytes_keep | (intro _ _ _) | apply foldl2_keep

theorem execConversionDone_keep {s : State} (h0 : Keep q s) : KeepOut q (execConversionDone s) := by
  unfold execConversionDone
  with_reducible repeat' first
    | assumption | apply due_keep | apply State.convert_keep | apply next_keep | split

theorem execResultReceive_keep {p : BitVec 6} {f : Frame} {s : State} (h0 : Keep q s) :
    KeepOut q (execResultReceive p f s) := by
  unfold execResultReceive
  dsimp only
  with_reducible repeat' first
    | assumption | apply State.dropFrom_keep | apply State.takeQueued_keep | apply State.homeResult_keep
    | apply State.spreadResult_keep | apply next_keep | apply outite_keep | split

theorem State.abandonMembers_keep {s : State} {slot : Nat} {c : Coll} (h0 : Keep q s) :
    Keep q (State.abandonMembers s slot c) := by
  unfold State.abandonMembers
  dsimp only
  with_reducible repeat' first
    | assumption | apply State.record_keep | apply State.setColl_keep | apply State.kernelTry_keep

theorem execLateBudgetExpiry_keep {s : State} (h0 : Keep q s) : KeepOut q (execLateBudgetExpiry s) := by
  unfold execLateBudgetExpiry
  with_reducible repeat' first
    | assumption | apply due_keep | apply State.abandon_keep | apply State.abandonMembers_keep | apply next_keep
    | split

end

end Sys2Proof.Machine
end

