-- ==== Sys2Proof/Laws/KeepLink.lean ====
section
/-! SUPPORT. Every operation and meaning of Machine/Link.lean keeps the identity of the part and soundness. -/

namespace Sys2Proof.Machine

section
variable {q : Base}

theorem State.rechoose_keep {s : State} {p : Nat} {q' : QEnt} (h0 : Keep q s) :
    Keep q (State.rechoose s p q').1 := by
  unfold State.rechoose
  dsimp only
  with_reducible repeat' first
    | assumption | apply State.routed_keep | apply ite1_keep | (apply fst_keep; assumption) | split

theorem State.rerouteEnt_keep {s : State} {p : Nat} {q' : QEnt} (h0 : Keep q s) :
    Keep q (State.rerouteEnt s p q') := by
  unfold State.rerouteEnt
  dsimp only
  with_reducible repeat' first
    | assumption | apply ite_keep | apply State.dropFrom_keep | apply State.discardRest_keep
    | apply State.mcastLost_keep | apply State.rechoose_keep | (fail_if_no_progress refine mk_keep ?_ rfl rfl rfl)

theorem State.reroute_keep {s : State} {p : Nat} (h0 : Keep q s) : Keep q (State.reroute s p) := by
  unfold State.reroute
  dsimp only
  with_reducible repeat' first
    | assumption | apply ite_keep | apply State.setPort_keep | apply State.dropFrom_keep
    | apply State.discardRest_keep | apply State.rerouteEnt_keep
    | (fail_if_no_progress refine mk_keep ?_ rfl rfl rfl) | apply foldl_keep | (intro _ _ _)

theorem State.markLost_keep {s : State} {a : Nat} (h0 : Keep q s) : Keep q (State.markLost s a) := by
  unfold State.markLost
  dsimp only
  with_reducible repeat' first
    | assumption | apply ite_keep | apply State.takeover_keep | (fail_if_no_progress refine mk_keep ?_ rfl rfl rfl)

theorem State.neighbourLeft_keep {s0 : State} {a : Nat} (h0 : Keep q s0) :
    Keep q (State.neighbourLeft s0 a) := by
  unfold State.neighbourLeft
  dsimp only
  with_reducible repeat' first
    | assumption | apply ite_keep | apply State.setCtx_keep | apply State.record_keep | apply State.flood_keep
    | apply State.markLost_keep | (fail_if_no_progress refine mk_keep ?_ rfl rfl rfl) | apply foldl_keep
    | (intro _ _ _)

theorem State.accLost_keep {s : State} {a : Nat} (h0 : Keep q s) : Keep q (State.accLost s a) := by
  unfold State.accLost
  dsimp only
  with_reducible repeat' first
    | assumption | apply ite_keep | apply State.record_keep | apply State.finishLoads_keep
    | apply State.setColl_keep | apply State.abandon_keep | apply State.kernelTry_keep
    | (fail_if_no_progress refine mk_keep ?_ rfl rfl rfl) | apply foldl_keep | (intro _ _ _) | split

theorem State.reparent_keep {s : State} (h0 : Keep q s) : Keep q (State.reparent s) := by
  unfold State.reparent
  dsimp only
  with_reducible repeat' first
    | assumption | apply ite_keep | (fail_if_no_progress refine mk_keep ?_ rfl rfl rfl) | split

theorem State.releaseSpare_keep {s : State} {p : Nat} (h0 : Keep q s) :
    Keep q (State.releaseSpare s p) := by
  unfold State.releaseSpare
  dsimp only
  with_reducible repeat' first | assumption | apply State.setLane_keep | split

theorem State.portDown_keep {s : State} {p : Nat} {st : PortState} {leave : Option Nat} (h0 : Keep q s) :
    Keep q (State.portDown s p st leave) := by
  unfold State.portDown
  dsimp only
  with_reducible repeat' first
    | assumption | apply ite_keep | apply State.setPort_keep | apply State.setPaux_keep | apply State.freeCells_keep
    | apply State.dropUnacked_keep | apply State.sendLeave_keep | apply State.idlePort_keep
    | apply State.badFrame_keep | apply State.reroute_keep | apply State.reparent_keep
    | apply State.releaseSpare_keep | (fail_if_no_progress refine mk_keep ?_ rfl rfl rfl) | apply foldl_keep
    | (intro _ _ _) | split

theorem State.portOff_keep {s : State} {p : Nat} {st : PortState} {leave : Option Nat} (h0 : Keep q s) :
    Keep q (State.portOff s p st leave) := by
  unfold State.portOff
  dsimp only
  with_reducible repeat' first
    | assumption | apply ite_keep | apply State.neighbourLeft_keep | apply State.accLost_keep
    | apply State.portDown_keep | split

theorem State.leaveService_keep {s : State} {reason : Nat} (h0 : Keep q s) :
    Keep q (State.leaveService s reason) := by
  unfold State.leaveService
  dsimp only
  with_reducible repeat' first
    | assumption | apply State.lanesIdle_keep | apply State.portDown_keep
    | (fail_if_no_progress refine mk_keep ?_ rfl rfl rfl) | apply foldl_keep | (intro _ _ _) | split

theorem State.fencePort_keep {s : State} {p : Nat} {src : Nat} {info : Nat} (h0 : Keep q s) :
    Keep q (State.fencePort s p src info) := by
  unfold State.fencePort
  with_reducible repeat' first
    | assumption | apply ite_keep | apply State.record_keep | apply State.portOff_keep

theorem execLeave_keep {p : BitVec 6} {reason : Byte} {_c : Count} {s : State} (h0 : Keep q s) :
    KeepOut q (execLeave p reason _c s) := by
  unfold execLeave
  dsimp only
  with_reducible repeat' first
    | assumption | apply ite_keep | apply due_keep | apply State.record_keep | apply State.neighbourLeft_keep
    | apply State.portOff_keep | split

theorem execLinkLost_keep {p : BitVec 6} {s : State} (h0 : Keep q s) : KeepOut q (execLinkLost p s) := by
  unfold execLinkLost
  dsimp only
  with_reducible repeat' first
    | assumption | apply due_keep | apply State.record_keep | apply State.portOff_keep

theorem State.takeAck_keep {s : State} {p : Nat} {a : BitVec 13} (h0 : Keep q s) :
    Keep q (State.takeAck s p a) := by
  unfold State.takeAck
  dsimp only
  with_reducible repeat' first
    | assumption | apply ite_keep | apply State.setPort_keep | apply State.dropCopy_keep | apply foldl_keep
    | (intro _ _ _) | split

theorem State.takeCredit_keep {s : State} {p : Nat} {v : Nat} {c : Nat} (h0 : Keep q s) :
    Keep q (State.takeCredit s p v c) := by
  unfold State.takeCredit
  dsimp only
  with_reducible repeat' first | assumption | apply State.setPort_keep

theorem State.violation_keep {s : State} {p : Nat} {code : Nat} {vc : Nat} {typ : Nat} {seq : Nat}
    (h0 : Keep q s) : Keep q (State.violation s p code vc typ seq) := by
  unfold State.violation
  dsimp only
  with_reducible repeat' first
    | assumption | apply ite_keep | apply State.bump_keep | apply State.setPaux_keep | apply State.sendLink_keep
    | apply State.fencePort_keep

theorem State.reportViols_keep {s : State} {p : Nat} (h0 : Keep q s) : Keep q (State.reportViols s p) := by
  unfold State.reportViols
  dsimp only
  with_reducible repeat' first
    | assumption | apply ite_keep | apply State.setPaux_keep | apply State.sendLink_keep

theorem execProtocolViolation_keep {p : BitVec 6} {_code : Byte} {_n : Byte} {_seq : BitVec 13}
    {_vc : Byte} {_c : Count} {s : State} (h0 : Keep q s) :
    KeepOut q (execProtocolViolation p _code _n _seq _vc _c s) := by
  unfold execProtocolViolation
  with_reducible repeat' first | assumption | apply State.bump_keep | apply due_keep

theorem State.sendNak_keep {s : State} {p : Nat} (h0 : Keep q s) : Keep q (State.sendNak s p) := by
  unfold State.sendNak
  dsimp only
  with_reducible repeat' first
    | assumption | apply State.bump_keep | apply State.setPort_keep | apply State.sendLink_keep

theorem State.takeData_keep {s : State} {p : Nat} {f : Flit} (h0 : Keep q s) :
    Keep q (State.takeData s p f) := by
  unfold State.takeData
  dsimp only
  with_reducible repeat' first
    | assumption | apply ite_keep | apply State.setPort_keep | apply State.setPaux_keep | apply State.dropCopy_keep
    | apply State.freeCells_keep | apply State.tokenLost_keep | apply State.badFrame_keep
    | (fail_if_no_progress refine mk_keep ?_ rfl rfl rfl) | split

theorem State.takeFlit_keep {s : State} {p : Nat} {f : Flit} (h0 : Keep q s) :
    Keep q (State.takeFlit s p f) := by
  unfold State.takeFlit
  dsimp only
  with_reducible repeat' first
    | assumption | apply ite_keep | apply State.setPort_keep | apply State.violation_keep
    | apply State.takeData_keep

theorem State.takeGood_keep {s : State} {n : Nat} {f : Flit} (h0 : Keep q s) :
    Keep q (State.takeGood s n f) := by
  unfold State.takeGood
  dsimp only
  with_reducible repeat' first
    | assumption | apply ite_keep | apply State.setPaux_keep | apply State.takeAck_keep
    | apply State.takeCredit_keep | apply State.violation_keep | apply State.sendNak_keep
    | apply State.takeFlit_keep | (fail_if_no_progress refine mk_keep ?_ rfl rfl rfl)

theorem State.announce_keep {s : State} {p : Nat} {m : BitVec 4} (h0 : Keep q s) :
    Keep q (State.announce s p m) := by
  unfold State.announce
  dsimp only
  with_reducible repeat' first
    | assumption | apply ite_keep | apply State.setPaux_keep | apply State.sendSide_keep

theorem State.checkLanes_keep {s : State} {p : Nat} (h0 : Keep q s) : Keep q (State.checkLanes s p) := by
  unfold State.checkLanes
  with_reducible repeat' first | assumption | apply ite_keep | apply State.fencePort_keep

theorem State.fenceLaneFinal_keep {s : State} {l : Nat} (h0 : Keep q s) :
    Keep q (State.fenceLaneFinal s l) := by
  unfold State.fenceLaneFinal
  dsimp only
  with_reducible repeat' first
    | assumption | apply State.setLane_keep | apply State.record_keep | apply State.checkLanes_keep

theorem State.trySpare_keep {s : State} {l : Nat} (h0 : Keep q s) : KeepOpt q (State.trySpare s l) := by
  unfold State.trySpare
  dsimp only
  with_reducible repeat' first
    | assumption | apply State.setLane_keep | apply State.setPaux_keep | apply oite_keep | apply none_keep
    | apply some_keep

theorem State.spareElsewhere_keep {s : State} {l : Nat} (h0 : Keep q s) :
    Keep q (State.spareElsewhere s l) := by
  unfold State.spareElsewhere
  with_reducible repeat' first
    | assumption | apply ite_keep | apply State.sendSide_keep | apply State.fenceLaneFinal_keep

theorem State.laneFailed_keep {s : State} {l : Nat} (h0 : Keep q s) : Keep q (State.laneFailed s l) := by
  unfold State.laneFailed
  dsimp only
  with_reducible repeat' first
    | assumption | apply ite_keep | apply State.setLane_keep | apply State.announce_keep | apply State.trySpare_keep
    | apply State.spareElsewhere_keep | (apply opt_keep; assumption) | split

theorem State.restoreLane_keep {s : State} {l : Nat} (h0 : Keep q s) : Keep q (State.restoreLane s l) := by
  unfold State.restoreLane
  dsimp only
  with_reducible repeat' first | assumption | apply State.setLane_keep | apply State.announce_keep

theorem State.answerSpare_keep {s : State} {p : Nat} {i : Nat} {ok : Bool} (h0 : Keep q s) :
    Keep q (State.answerSpare s p i ok) := by
  unfold State.answerSpare
  dsimp only
  with_reducible repeat' first
    | assumption | apply ite_keep | apply State.setPaux_keep | apply State.sendSide_keep

theorem execSpareTrainDone_keep {p : BitVec 6} {idx : BitVec 2} {o : PhaseObs} {s : State}
    (h0 : Keep q s) : KeepOut q (execSpareTrainDone p idx o s) := by
  unfold execSpareTrainDone
  dsimp only
  with_reducible repeat' first
    | assumption | apply ite_keep | apply due_keep | apply State.setLane_keep | apply State.setPaux_keep
    | apply State.record_keep | apply State.fenceLaneFinal_keep | apply State.spareElsewhere_keep
    | apply State.restoreLane_keep | apply State.answerSpare_keep

theorem execSpareReq_keep {p : BitVec 6} {ws : List (BitVec 40)} {s : State} (h0 : Keep q s) :
    KeepOut q (execSpareReq p ws s) := by
  unfold execSpareReq
  dsimp only
  with_reducible repeat' first
    | assumption | apply ite_keep | apply due_keep | apply State.setPaux_keep | apply State.sendSide_keep
    | apply State.trySpare_keep | apply next_keep | (apply opt_keep; assumption) | split

theorem execSpareDone_keep {p : BitVec 6} {ws : List (BitVec 40)} {s : State} (h0 : Keep q s) :
    KeepOut q (execSpareDone p ws s) := by
  unfold execSpareDone
  dsimp only
  with_reducible repeat' first
    | assumption | apply ite_keep | apply due_keep | apply State.fenceLaneFinal_keep | apply State.restoreLane_keep
    | apply next_keep | split

theorem execWidthChange_keep {p : BitVec 6} {ws : List (BitVec 40)} {s : State} (h0 : Keep q s) :
    KeepOut q (execWidthChange p ws s) := by
  unfold execWidthChange
  dsimp only
  with_reducible repeat' first
    | assumption | apply ite_keep | apply due_keep | apply State.setPaux_keep | apply State.announce_keep
    | apply next_keep | split

theorem State.rxWidthNow_keep {s : State} {p : Nat} (h0 : Keep q s) : Keep q (State.rxWidthNow s p) := by
  unfold State.rxWidthNow
  dsimp only
  with_reducible repeat' first
    | assumption | apply ite_keep | apply State.setPort_keep | apply State.setPaux_keep | split

theorem execWidthChangeEffective_keep {p : BitVec 6} {s : State} (h0 : Keep q s) :
    KeepOut q (execWidthChangeEffective p s) := by
  unfold execWidthChangeEffective
  dsimp only
  with_reducible repeat' first
    | assumption | apply ite_keep | apply due_keep | apply State.setLane_keep | apply State.setPort_keep
    | apply State.setPaux_keep | apply State.fencePort_keep | apply State.rxWidthNow_keep | apply foldl_keep
    | apply next_keep | (intro _ _ _) | split

theorem State.tallyWords_keep {s : State} {n : Nat} {words : List LaneWord} (h0 : Keep q s) :
    Keep q (State.tallyWords s n words) := by
  unfold State.tallyWords
  dsimp only
  with_reducible repeat' first
    | assumption | apply ite_keep | apply State.bump_keep | apply State.setLane_keep | apply State.laneFailed_keep
    | apply foldl_keep | (intro _ _ _) | split

theorem execFlitReceive_keep {p : BitVec 6} {raw : List Byte} {words : List LaneWord} {s : State}
    (h0 : Keep q s) : KeepOut q (execFlitReceive p raw words s) := by
  unfold execFlitReceive
  with_reducible repeat' first
    | assumption | apply due_keep | apply State.takeGood_keep | apply State.tallyWords_keep | apply next_keep
    | split

theorem execBadCrcFlit_keep {p : BitVec 6} {raw : List Byte} {words : List LaneWord} {s : State}
    (h0 : Keep q s) : KeepOut q (execBadCrcFlit p raw words s) := by
  unfold execBadCrcFlit
  dsimp only
  with_reducible repeat' first
    | assumption | apply ite_keep | apply due_keep | apply State.sendNak_keep | apply State.tallyWords_keep
    | apply next_keep | split

theorem execNakRepeat_keep {p : BitVec 6} {s : State} (h0 : Keep q s) : KeepOut q (execNakRepeat p s) := by
  unfold execNakRepeat
  dsimp only
  with_reducible repeat' first | assumption | apply due_keep | apply State.sendNak_keep

theorem State.replayFrom_keep {s : State} {p : Nat} {e : BitVec 13} (h0 : Keep q s) :
    Keep q (State.replayFrom s p e) := by
  unfold State.replayFrom
  dsimp only
  with_reducible repeat' first
    | assumption | apply ite_keep | apply State.setPort_keep | apply State.sendLink_keep

theorem execNak_keep {p : BitVec 6} {e : BitVec 13} {s : State} (h0 : Keep q s) :
    KeepOut q (execNak p e s) := by
  unfold execNak
  dsimp only
  with_reducible repeat' first
    | assumption | apply ite_keep | apply due_keep | apply State.sendLink_keep | apply State.takeAck_keep
    | apply State.replayFrom_keep

theorem execReplayTimeout_keep {p : BitVec 6} {s : State} (h0 : Keep q s) :
    KeepOut q (execReplayTimeout p s) := by
  unfold execReplayTimeout
  dsimp only
  with_reducible repeat' first
    | assumption | apply due_keep | apply State.replayFrom_keep | apply next_keep | split

theorem State.startRetrain_keep {s : State} {p : Nat} {reason : Nat} (h0 : Keep q s) :
    Keep q (State.startRetrain s p reason) := by
  unfold State.startRetrain
  dsimp only
  with_reducible repeat' first
    | assumption | apply ite_keep | apply State.bump_keep | apply State.setLane_keep | apply State.setPort_keep
    | apply State.setPaux_keep | apply State.record_keep | apply State.fencePort_keep | apply foldl_keep
    | (intro _ _ _)

theorem execRetrainReq_keep {p : BitVec 6} {reason : Byte} {s : State} (h0 : Keep q s) :
    KeepOut q (execRetrainReq p reason s) := by
  unfold execRetrainReq
  with_reducible repeat' first | assumption | apply due_keep | apply State.startRetrain_keep

theorem execRetrainTimeout_keep {p : BitVec 6} {s : State} (h0 : Keep q s) :
    KeepOut q (execRetrainTimeout p s) := by
  unfold execRetrainTimeout
  dsimp only
  with_reducible repeat' first
    | assumption | apply due_keep | apply State.fencePort_keep | apply next_keep | split

theorem State.sendSync_keep {s : State} {p : Nat} (h0 : Keep q s) : Keep q (State.sendSync s p) := by
  unfold State.sendSync
  dsimp only
  with_reducible repeat' first | assumption | apply State.setPort_keep | apply State.sendLink_keep

theorem State.tryActive_keep {s : State} {p : Nat} (h0 : Keep q s) : Keep q (State.tryActive s p) := by
  unfold State.tryActive
  dsimp only
  with_reducible repeat' first
    | assumption | apply ite_keep | apply State.setLane_keep | apply State.setPort_keep | apply State.setPaux_keep
    | apply State.heardBack_keep | apply foldl_keep | (intro _ _ _) | split

theorem execCreditSync_keep {p : BitVec 6} {next : BitVec 13} {lims : List (BitVec 16 × BitVec 16)}
    {s : State} (h0 : Keep q s) : KeepOut q (execCreditSync p next lims s) := by
  unfold execCreditSync
  dsimp only
  with_reducible repeat' first
    | assumption | apply due_keep | apply State.setPort_keep | apply State.setPaux_keep | apply State.sendLink_keep
    | apply State.takeAck_keep | apply State.tryActive_keep

theorem execCreditSyncAck_keep {p : BitVec 6} {next : BitVec 13} {s : State} (h0 : Keep q s) :
    KeepOut q (execCreditSyncAck p next s) := by
  unfold execCreditSyncAck
  dsimp only
  with_reducible repeat' first
    | assumption | apply due_keep | apply State.setPaux_keep | apply State.tryActive_keep

theorem State.lanePhase_keep {s : State} {l : Nat} {ph : Nat} (h0 : Keep q s) :
    Keep q (State.lanePhase s l ph) := by
  unfold State.lanePhase
  dsimp only
  with_reducible repeat' first | assumption | apply State.setLane_keep

theorem State.toPhase7_keep {s : State} {p : Nat} (h0 : Keep q s) : Keep q (State.toPhase7 s p) := by
  unfold State.toPhase7
  dsimp only
  with_reducible repeat' first
    | assumption | apply ite_keep | apply State.setPaux_keep | apply State.sendSide_keep | apply State.sendSync_keep
    | apply State.lanePhase_keep | apply foldl_keep | (intro _ _ _)

theorem execTrainingPhaseDone_keep {l : BitVec 9} {o : PhaseObs} {s : State} (h0 : Keep q s) :
    KeepOut q (execTrainingPhaseDone l o s) := by
  unfold execTrainingPhaseDone
  dsimp only
  with_reducible repeat' first
    | assumption | apply ite_keep | apply due_keep | apply State.setPort_keep | apply State.sendSide_keep
    | apply State.laneFailed_keep | apply State.tryActive_keep | apply State.lanePhase_keep
    | apply State.toPhase7_keep | apply outite_keep

theorem execTrainingPhaseTimeout_keep {l : BitVec 9} {s : State} (h0 : Keep q s) :
    KeepOut q (execTrainingPhaseTimeout l s) := by
  unfold execTrainingPhaseTimeout
  dsimp only
  with_reducible repeat' first
    | assumption | apply due_keep | apply State.setLane_keep | apply State.laneFailed_keep | apply next_keep | split

theorem execReady_keep {l : BitVec 9} {ws : List (BitVec 40)} {s : State} (h0 : Keep q s) :
    KeepOut q (execReady l ws s) := by
  unfold execReady
  dsimp only
  with_reducible repeat' first
    | assumption | apply due_keep | apply State.setLane_keep | apply next_keep | split

theorem execFomReport_keep {l : BitVec 9} {ws : List (BitVec 40)} {s : State} (h0 : Keep q s) :
    KeepOut q (execFomReport l ws s) := by
  unfold execFomReport
  dsimp only
  with_reducible repeat' first
    | assumption | apply due_keep | apply State.setLane_keep | apply next_keep | split

theorem execTxEqReq_keep {l : BitVec 9} {ws : List (BitVec 40)} {s : State} (h0 : Keep q s) :
    KeepOut q (execTxEqReq l ws s) := by
  unfold execTxEqReq
  dsimp only
  with_reducible repeat' first
    | assumption | apply ite_keep | apply due_keep | apply State.free_keep | apply State.setLane_keep
    | apply next_keep | split

theorem execParam_keep {l : BitVec 9} {ws : List (BitVec 40)} {s : State} (h0 : Keep q s) :
    KeepOut q (execParam l ws s) := by
  unfold execParam
  dsimp only
  with_reducible repeat' first
    | assumption | apply ite_keep | apply due_keep | apply State.setLane_keep | apply State.setPaux_keep
    | apply State.record_keep | apply State.violation_keep | apply foldl_keep | apply next_keep | (intro _ _ _)
    | split

theorem execParamRepeat_keep {p : BitVec 6} {s : State} (h0 : Keep q s) :
    KeepOut q (execParamRepeat p s) := by
  unfold execParamRepeat
  dsimp only
  with_reducible repeat' first
    | assumption | apply due_keep | apply State.setPaux_keep | apply State.sendSide_keep | apply foldl_keep
    | (intro _ _ _)

theorem State.deskew_keep {s : State} {p : Nat} (h0 : Keep q s) : Keep q (State.deskew s p) := by
  unfold State.deskew
  dsimp only
  with_reducible repeat' first
    | assumption | apply State.setLane_keep | apply foldl_keep | (intro _ _ _) | split

theorem execMarkerLock_keep {l : BitVec 9} {o : MarkerObs} {s : State} (h0 : Keep q s) :
    KeepOut q (execMarkerLock l o s) := by
  unfold execMarkerLock
  dsimp only
  with_reducible repeat' first
    | assumption | apply due_keep | apply State.setLane_keep | apply State.deskew_keep | apply next_keep | split

theorem execMarkerLoss_keep {l : BitVec 9} {ms : List (List (BitVec 2))} {s : State} (h0 : Keep q s) :
    KeepOut q (execMarkerLoss l ms s) := by
  unfold execMarkerLoss
  dsimp only
  with_reducible repeat' first
    | assumption | apply ite_keep | apply due_keep | apply State.setLane_keep | apply State.laneFailed_keep

theorem execLoopLockLoss_keep {l : BitVec 9} {s : State} (h0 : Keep q s) :
    KeepOut q (execLoopLockLoss l s) := by
  unfold execLoopLockLoss
  with_reducible repeat' first | assumption | apply due_keep | apply State.laneFailed_keep

theorem State.tune_keep {s : State} {l : Nat} {fom : Nat} (h0 : Keep q s) :
    Keep q (State.tune s l fom) := by
  unfold State.tune
  dsimp only
  with_reducible repeat' first
    | assumption | apply ite_keep | apply State.free_keep | apply State.sendSide_keep

theorem State.judgeFom_keep {s : State} {l : Nat} {fom : Nat} (h0 : Keep q s) :
    Keep q (State.judgeFom s l fom) := by
  unfold State.judgeFom
  dsimp only
  with_reducible repeat' first
    | assumption | apply ite_keep | apply State.setLane_keep | apply State.record_keep | apply State.laneFailed_keep
    | apply State.tune_keep | split

theorem execFomWindow_keep {l : BitVec 9} {f : FomSample} {s : State} (h0 : Keep q s) :
    KeepOut q (execFomWindow l f s) := by
  unfold execFomWindow
  with_reducible repeat' first
    | assumption | apply due_keep | apply State.free_keep | apply State.judgeFom_keep | split

theorem State.dropLane_keep {s : State} {l : Nat} (h0 : Keep q s) : Keep q (State.dropLane s l) := by
  unfold State.dropLane
  with_reducible repeat' first | assumption | apply ite_keep | apply State.announce_keep

theorem State.fenceLane_keep {s : State} {l : Nat} (h0 : Keep q s) : Keep q (State.fenceLane s l) := by
  unfold State.fenceLane
  dsimp only
  with_reducible repeat' first
    | assumption | apply ite_keep | apply State.setLane_keep | apply State.checkLanes_keep
    | apply State.dropLane_keep | split

end

end Sys2Proof.Machine
end

