-- ==== Sys2Proof/Laws/KeepSched.lean ====
section
/-! SUPPORT. Every operation and meaning of Machine/Sched.lean keeps the identity of the part and soundness. -/

namespace Sys2Proof.Machine

section
variable {q : Base}

theorem execSlotBoundary_keep {p : BitVec 6} {s : State} (h0 : Keep q s) :
    KeepOut q (execSlotBoundary p s) := by
  unfold execSlotBoundary
  dsimp only
  with_reducible repeat' first
    | assumption | apply due_keep | (fail_if_no_progress refine mk_keep ?_ rfl rfl rfl) | apply next_keep | split

theorem State.setShaper_keep {s : State} {p : Nat} {k : Nat} {h : Shaper} (h0 : Keep q s) :
    Keep q (State.setShaper s p k h) := by
  unfold State.setShaper
  dsimp only
  with_reducible repeat' first | assumption | (fail_if_no_progress refine mk_keep ?_ rfl rfl rfl)

theorem State.takeShaper_keep {s : State} {p : Nat} {v : Nat} (h0 : Keep q s) :
    Keep q (State.takeShaper s p v) := by
  unfold State.takeShaper
  dsimp only
  with_reducible repeat' first | assumption | apply ite_keep | apply State.setShaper_keep

theorem State.syncShapers_keep {s : State} {p : Nat} (h0 : Keep q s) : Keep q (State.syncShapers s p) := by
  unfold State.syncShapers
  with_reducible repeat' first
    | assumption | apply ite_keep | apply State.setShaper_keep | apply foldl_keep | (intro _ _ _)

theorem State.putSeq_keep {s : State} {p : Nat} {v : Nat} {pay : TxPay} (h0 : Keep q s) :
    Keep q (State.putSeq s p v pay) := by
  unfold State.putSeq
  dsimp only
  with_reducible repeat' first
    | assumption | apply State.setPort_keep | apply State.stamp_keep
    | (fail_if_no_progress refine mk_keep ?_ rfl rfl rfl)

theorem State.sendData_keep {s : State} {p : Nat} {e : Staged} (h0 : Keep q s) :
    Keep q (State.sendData s p e) := by
  unfold State.sendData
  dsimp only
  with_reducible repeat' first
    | assumption | apply ite_keep | apply State.bump_keep | apply State.setPort_keep | apply State.headTags_keep
    | apply State.takeShaper_keep | apply State.putSeq_keep | (fail_if_no_progress refine mk_keep ?_ rfl rfl rfl)

theorem State.slotFlit_keep {s : State} {p : Nat} (h0 : Keep q s) : Keep q (State.slotFlit s p) := by
  unfold State.slotFlit
  dsimp only
  with_reducible repeat' first
    | assumption | apply ite_keep | apply State.bump_keep | apply State.putWire_keep | apply State.sendData_keep
    | split

theorem State.stampCtl_keep {s : State} {p : Nat} {m : CtlMsg} (h0 : Keep q s) :
    Keep q (State.stampCtl s p m).1 := by
  unfold State.stampCtl
  dsimp only
  with_reducible repeat' first
    | assumption | apply State.setPort_keep | (fail_if_no_progress refine mk_keep ?_ rfl rfl rfl) | apply ite1_keep
    | split

theorem State.transmit_keep {s : State} {p : Nat} (h0 : Keep q s) : Keep q (State.transmit s p) := by
  unfold State.transmit
  dsimp only
  with_reducible repeat' first
    | assumption | apply ite_keep | apply State.bump_keep | apply State.setPort_keep | apply State.putWire_keep
    | apply State.reportViols_keep | apply State.startRetrain_keep | apply State.takeShaper_keep
    | apply State.syncShapers_keep | apply State.putSeq_keep | apply State.slotFlit_keep | apply State.stampCtl_keep
    | (fail_if_no_progress refine mk_keep ?_ rfl rfl rfl) | split

theorem execTransmitFlit_keep {p : BitVec 6} {s : State} (h0 : Keep q s) :
    KeepOut q (execTransmitFlit p s) := by
  unfold execTransmitFlit
  with_reducible repeat' first | assumption | apply due_keep | apply State.transmit_keep

theorem State.loadSideband_keep {b p n : Nat} {s : State} (h0 : Keep q s) :
    Keep q (State.loadSideband b p n s) := by
  induction n generalizing s with
  | zero => exact h0
  | succ n ih =>
    rw [State.loadSideband]
    with_reducible repeat' first
      | assumption | apply ite_keep | apply ih | apply State.setPort_keep | apply State.setPaux_keep
      | apply State.setLane_keep | apply foldl_keep | (intro _ _ _) | split

theorem State.fillFlits_keep {p len n : Nat} {s : State} (h0 : Keep q s) :
    Keep q (State.fillFlits p len n s) := by
  induction n generalizing s with
  | zero => exact h0
  | succ n ih =>
    have h := State.transmit_keep (p := p) h0
    rw [State.fillFlits]
    split
    · exact h0
    · dsimp only
      split
      · exact ih h
      · exact ih (State.putWire_keep h)

theorem State.portBlock_keep {s : State} {b : Nat} {p : Nat} (h0 : Keep q s) :
    Keep q (State.portBlock s b p) := by
  unfold State.portBlock
  dsimp only
  with_reducible repeat' first
    | assumption | apply ite_keep | apply State.setPort_keep | apply State.sendBlock_keep
    | apply State.loadSideband_keep | apply State.fillFlits_keep | apply foldl_keep | (intro _ _ _) | split

end

end Sys2Proof.Machine
end

