-- ==== Sys2Proof/Laws/KeepSolder.lean ====
section
/-! SUPPORT. Every operation and meaning of Machine/Solder.lean keeps the identity of the part and soundness. -/

namespace Sys2Proof.Machine

section
variable {q : Base}

theorem State.police_keep {s : State} {p : Nat} {f : Frame} (h0 : Keep q s) :
    Keep q (State.police s p f).1 := by
  unfold State.police
  dsimp only
  with_reducible repeat' first
    | assumption | apply ite_keep | apply State.bump_keep | (fail_if_no_progress refine mk_keep ?_ rfl rfl rfl)
    | apply ite1_keep | split

theorem State.countDrop_keep {s : State} {p : Nat} {f : Frame} {reason : Nat} (h0 : Keep q s) :
    Keep q (State.countDrop s p f reason) := by
  unfold State.countDrop
  dsimp only
  with_reducible repeat' first
    | assumption | apply ite_keep | apply State.bump_keep | apply State.record_keep

theorem State.dropFrame_keep {s : State} {p : Nat} {f : Frame} {id : Nat} {reason : Nat}
    (h0 : Keep q s) : Keep q (State.dropFrame s p f id reason) := by
  unfold State.dropFrame
  with_reducible repeat' first
    | assumption | apply State.loseToken_keep | apply State.discard_keep | apply State.countDrop_keep

theorem State.putFrame_keep {s : State} {p : Nat} {id : Nat} {f : Frame} {outs : List Nat}
    (h0 : Keep q s) : Keep q (State.putFrame s p id f outs) := by
  unfold State.putFrame
  dsimp only
  with_reducible repeat' first | assumption | apply State.queueEnt_keep

theorem State.forward_keep {s : State} {p : Nat} {id : Nat} {f : Frame} (h0 : Keep q s) :
    Keep q (State.forward s p id f) := by
  unfold State.forward
  dsimp only
  with_reducible repeat' first | assumption | apply State.routed_keep | apply State.putFrame_keep

theorem State.mcastIn_keep {s : State} {p : Nat} {id : Nat} {f : Frame} {from_ : Option Nat}
    {extra : List Nat} (h0 : Keep q s) : Keep q (State.mcastIn s p id f from_ extra) := by
  unfold State.mcastIn
  dsimp only
  with_reducible repeat' first
    | assumption | apply ite_keep | apply State.queueCopies_keep | apply State.mcastLost_keep
    | apply State.countDrop_keep

theorem State.setFlow_keep {s : State} {k : Nat} {f : Flow} (h0 : Keep q s) :
    Keep q (State.setFlow s k f) := by
  unfold State.setFlow
  dsimp only
  with_reducible repeat' first | assumption | (fail_if_no_progress refine mk_keep ?_ rfl rfl rfl)

theorem State.delFlow_keep {s : State} {k : Nat} (h0 : Keep q s) : Keep q (State.delFlow s k) := by
  unfold State.delFlow
  dsimp only
  with_reducible repeat' first | assumption | (fail_if_no_progress refine mk_keep ?_ rfl rfl rfl)

theorem State.flowSend_keep {s : State} {p : Nat} {id : Nat} {f : Frame} (h0 : Keep q s) :
    Keep q (State.flowSend s p id f) := by
  unfold State.flowSend
  dsimp only
  with_reducible repeat' first
    | assumption | apply ite_keep | apply State.bump_keep | apply State.forward_keep | apply State.setFlow_keep
    | split

theorem State.flowDeliver_keep {s : State} {p : Nat} {id : Nat} {f : Frame} (h0 : Keep q s) :
    Keep q (State.flowDeliver s p id f) := by
  unfold State.flowDeliver
  dsimp only
  with_reducible repeat' first
    | assumption | apply ite_keep | apply State.putFrame_keep | apply State.mcastIn_keep

theorem State.flowRelease_keep {s : State} {k n : Nat} {e : Flow} (h0 : Keep q s) :
    Keep q (s.flowRelease k n e) := by
  induction n generalizing s e with
  | zero => exact State.setFlow_keep h0
  | succ n ih =>
    unfold State.flowRelease
    split
    · exact State.setFlow_keep h0
    · exact ih (State.flowDeliver_keep h0)

theorem State.flowTryClose_keep {s : State} {k : Nat} (h0 : Keep q s) :
    Keep q (State.flowTryClose s k) := by
  unfold State.flowTryClose
  with_reducible repeat' first
    | assumption | apply ite_keep | apply State.sendCtlTo_keep | apply State.delFlow_keep | split

theorem State.flowReceive_keep {s : State} {p : Nat} {id : Nat} {f : Frame} (h0 : Keep q s) :
    Keep q (State.flowReceive s p id f) := by
  unfold State.flowReceive
  dsimp only
  with_reducible repeat' first
    | assumption | apply ite_keep | apply State.bump_keep | apply State.sendCtlTo_keep | apply State.dropFrame_keep
    | apply State.setFlow_keep | apply State.flowDeliver_keep | apply State.flowRelease_keep
    | apply State.flowTryClose_keep | split

theorem State.flowFor_keep {s : State} {m : FlowMsg} {wrap : FlowMsg → CtlMsg} {mine : State}
    (h0 : Keep q s) (h1 : Keep q mine) : Keep q (State.flowFor s m wrap mine) := by
  unfold State.flowFor
  with_reducible repeat' first | assumption | apply ite_keep | apply State.sendCtlTo_keep

theorem execFlowGrant_keep {_p : BitVec 6} {m : FlowMsg} {s : State} (h0 : Keep q s) :
    KeepOut q (execFlowGrant _p m s) := by
  unfold execFlowGrant
  with_reducible repeat' first
    | assumption | apply ite_keep | apply due_keep | apply State.setFlow_keep | apply State.flowFor_keep | split

theorem execFlowDeny_keep {_p : BitVec 6} {m : FlowMsg} {s : State} (h0 : Keep q s) :
    KeepOut q (execFlowDeny _p m s) := by
  unfold execFlowDeny
  with_reducible repeat' first
    | assumption | apply ite_keep | apply due_keep | apply State.setFlow_keep | apply State.flowFor_keep | split

theorem execFlowClose_keep {_p : BitVec 6} {m : FlowMsg} {s : State} (h0 : Keep q s) :
    KeepOut q (execFlowClose _p m s) := by
  unfold execFlowClose
  with_reducible repeat' first
    | assumption | apply due_keep | apply State.setFlow_keep | apply State.flowTryClose_keep
    | apply State.flowFor_keep | split

theorem execFlowCloseAck_keep {_p : BitVec 6} {m : FlowMsg} {s : State} (h0 : Keep q s) :
    KeepOut q (execFlowCloseAck _p m s) := by
  unfold execFlowCloseAck
  with_reducible repeat' first
    | assumption | apply ite_keep | apply due_keep | apply State.delFlow_keep | apply State.flowSend_keep
    | apply State.flowFor_keep | apply foldl_keep | (intro _ _ _) | split

theorem execFlowIdle_keep {s : State} (h0 : Keep q s) : KeepOut q (execFlowIdle s) := by
  unfold execFlowIdle
  dsimp only
  with_reducible repeat' first
    | assumption | apply ite_keep | apply due_keep | apply State.sendCtlTo_keep | apply State.setFlow_keep
    | apply State.delFlow_keep | apply foldl_keep | (intro _ _ _) | split

theorem execReceiveFlowTimeout_keep {s : State} (h0 : Keep q s) :
    KeepOut q (execReceiveFlowTimeout s) := by
  unfold execReceiveFlowTimeout
  with_reducible repeat' first
    | assumption | apply ite_keep | apply due_keep | apply State.discard_keep | apply State.delFlow_keep
    | apply foldl_keep | (intro _ _ _)

theorem State.gapExpire_keep {s : State} {k : Nat} {e : Flow} (h0 : Keep q s) :
    Keep q (State.gapExpire s k e) := by
  unfold State.gapExpire
  dsimp only
  with_reducible repeat' first
    | assumption | apply State.bump_keep | apply State.record_keep | apply State.setFlow_keep
    | apply State.flowRelease_keep | apply State.flowTryClose_keep | split

theorem execGapExpiry_keep {s : State} (h0 : Keep q s) : KeepOut q (execGapExpiry s) := by
  unfold execGapExpiry
  dsimp only
  with_reducible repeat' first
    | assumption | apply ite_keep | apply due_keep | apply State.gapExpire_keep | apply foldl_keep | (intro _ _ _)
    | split

theorem State.chainIn_keep {s : State} {p : Nat} {id : Nat} {f : Frame} (h0 : Keep q s) :
    Keep q (State.chainIn s p id f) := by
  unfold State.chainIn
  dsimp only
  with_reducible repeat' first | assumption | apply State.mcastIn_keep

theorem State.mgmtIn_keep {s : State} {p : Nat} {id : Nat} {f : Frame} (h0 : Keep q s) :
    Keep q (State.mgmtIn s p id f) := by
  unfold State.mgmtIn
  dsimp only
  with_reducible repeat' first
    | assumption | apply ite_keep | apply State.discard_keep | apply State.sendMgmt_keep
    | apply State.dropFrame_keep | apply State.putFrame_keep

theorem State.accept_keep {s : State} {p : Nat} {id : Nat} {f : Frame} (h0 : Keep q s) :
    Keep q (State.accept s p id f) := by
  unfold State.accept
  dsimp only
  with_reducible repeat' first
    | assumption | apply ite_keep | apply State.loseToken_keep | apply State.discard_keep
    | apply State.queueCopies_keep | apply State.dropFrame_keep | apply State.putFrame_keep
    | apply State.forward_keep | apply State.mcastIn_keep | apply State.flowSend_keep | apply State.flowReceive_keep
    | apply State.chainIn_keep | apply State.mgmtIn_keep

theorem State.claimFrame_keep {s : State} {p : Nat} {f : Frame} (h0 : Keep q s) :
    Keep q (State.claimFrame s p f).1 := by
  unfold State.claimFrame
  dsimp only
  with_reducible repeat' first
    | assumption | apply State.setPort_keep | apply State.setPaux_keep
    | (fail_if_no_progress refine mk_keep ?_ rfl rfl rfl) | split

theorem State.heardFrom_keep {s : State} {f : Frame} (h0 : Keep q s) : Keep q (State.heardFrom s f) := by
  unfold State.heardFrom
  with_reducible repeat' first | assumption | apply ite_keep | apply State.heardBack_keep

theorem State.ingress_keep {s : State} {p : Nat} {f : Frame} (h0 : Keep q s) :
    Keep q (State.ingress s p f) := by
  unfold State.ingress
  dsimp only
  with_reducible repeat' first
    | assumption | apply ite_keep | apply State.loseToken_keep | apply State.discard_keep
    | apply State.askAgain_keep | apply State.police_keep | apply State.dropFrame_keep | apply State.accept_keep
    | apply State.claimFrame_keep | split

theorem execFrameIngress_keep {p : BitVec 6} {f : Frame} {s : State} (h0 : Keep q s) :
    KeepOut q (execFrameIngress p f s) := by
  unfold execFrameIngress
  dsimp only
  with_reducible repeat' first
    | assumption | apply due_keep | apply State.heardFrom_keep | apply State.ingress_keep

theorem execFrameDescriptorFree_keep {s : State} (h0 : Keep q s) :
    KeepOut q (execFrameDescriptorFree s) := by
  unfold execFrameDescriptorFree
  dsimp only
  with_reducible repeat' first
    | assumption | apply due_keep | (fail_if_no_progress refine mk_keep ?_ rfl rfl rfl) | apply next_keep | split

theorem State.routeWait_keep {s : State} {q' : QEnt} (h0 : Keep q s) : Keep q (State.routeWait s q') := by
  unfold State.routeWait
  dsimp only
  with_reducible repeat' first
    | assumption | apply ite_keep | apply State.routed_keep | apply State.dropFrame_keep
    | (fail_if_no_progress refine mk_keep ?_ rfl rfl rfl) | (apply fst_keep; assumption) | split

theorem execNoRouteWait_keep {s : State} (h0 : Keep q s) : KeepOut q (execNoRouteWait s) := by
  unfold execNoRouteWait
  with_reducible repeat' first | assumption | apply due_keep | apply State.routeWait_keep | apply foldl_keep

theorem State.markCredit_keep {s : State} (h0 : Keep q s) : Keep q (State.markCredit s) := by
  unfold State.markCredit
  dsimp only
  with_reducible repeat' first | assumption | (fail_if_no_progress refine mk_keep ?_ rfl rfl rfl)

theorem State.escapeOne_keep {s : State} {q' : QEnt} (h0 : Keep q s) : Keep q (State.escapeOne s q') := by
  unfold State.escapeOne
  dsimp only
  with_reducible repeat' first
    | assumption | apply ite_keep | apply State.bump_keep | apply State.queueEnt_keep
    | (fail_if_no_progress refine mk_keep ?_ rfl rfl rfl) | split

theorem execEscapeMove_keep {s : State} (h0 : Keep q s) : KeepOut q (execEscapeMove s) := by
  unfold execEscapeMove
  dsimp only
  with_reducible repeat' first
    | assumption | apply due_keep | apply State.markCredit_keep | apply State.escapeOne_keep | apply foldl_keep

theorem State.moveCell_keep {s : State} {q0 : QEnt} {o : Nat} (h0 : Keep q s) :
    Keep q (State.moveCell s q0 o) := by
  unfold State.moveCell
  dsimp only
  with_reducible repeat' first
    | assumption | apply ite_keep | apply State.setPort_keep | apply State.headTags_keep
    | (fail_if_no_progress refine mk_keep ?_ rfl rfl rfl) | split

theorem State.stalls_keep {s : State} {pairs : List (Nat × Nat × QEnt)} {o : Nat} (h0 : Keep q s) :
    Keep q (State.stalls s pairs o) := by
  unfold State.stalls
  dsimp only
  with_reducible repeat' first
    | assumption | apply ite_keep | (fail_if_no_progress refine mk_keep ?_ rfl rfl rfl)

theorem State.cellTime_keep {s : State} (h0 : Keep q s) : Keep q (State.cellTime s) := by
  unfold State.cellTime
  dsimp only
  with_reducible repeat' first
    | assumption | apply State.markCredit_keep | apply State.moveCell_keep | apply State.stalls_keep
    | (fail_if_no_progress refine mk_keep ?_ rfl rfl rfl) | apply foldl_keep | (intro _ _ _)

theorem State.cellError_keep {s : State} {e : Nat × Bool} (h0 : Keep q s) :
    Keep q (State.cellError s e) := by
  unfold State.cellError
  dsimp only
  with_reducible repeat' first
    | assumption | apply ite_keep | apply State.bump_keep | apply State.free_keep | apply State.record_keep
    | apply State.badFrame_keep | apply State.leaveService_keep
    | (fail_if_no_progress refine mk_keep ?_ rfl rfl rfl) | split

theorem execCellTimeMatch_keep {ecc : List (Nat × Bool)} {s : State} (h0 : Keep q s) :
    KeepOut q (execCellTimeMatch ecc s) := by
  unfold execCellTimeMatch
  with_reducible repeat' first
    | assumption | apply due_keep | apply State.cellTime_keep | apply State.cellError_keep | apply foldl_keep

theorem State.telemetry_keep {s : State} (h0 : Keep q s) : Keep q (State.telemetry s) := by
  unfold State.telemetry
  dsimp only
  with_reducible repeat' first | assumption | (fail_if_no_progress refine mk_keep ?_ rfl rfl rfl)

theorem execTelemetrySample_keep {s : State} (h0 : Keep q s) : KeepOut q (execTelemetrySample s) := by
  unfold execTelemetrySample
  with_reducible repeat' first | assumption | apply due_keep | apply State.telemetry_keep

theorem State.grantSpill_keep {s : State} {tag : Nat} (h0 : Keep q s) :
    Keep q (State.grantSpill s tag) := by
  unfold State.grantSpill
  dsimp only
  with_reducible repeat' first
    | assumption | apply ite_keep | apply State.unwait_keep | apply State.spillOne_keep | apply State.progress_keep
    | apply foldl_keep | apply getD_keep | (intro _ _ _) | split

theorem State.grantCells_keep {s : State} (h0 : Keep q s) : Keep q (State.grantCells s) := by
  unfold State.grantCells
  dsimp only
  with_reducible repeat' first
    | assumption | apply ite_keep | (fail_if_no_progress refine mk_keep ?_ rfl rfl rfl) | split

theorem State.bufferGrant_keep {s : State} {pool : Nat} (h0 : Keep q s) :
    Keep q (State.bufferGrant s pool) := by
  unfold State.bufferGrant
  dsimp only
  with_reducible repeat' first
    | assumption | apply ite_keep | apply State.unwait_keep | apply State.restage_keep | apply State.progress_keep
    | apply State.tryPages_keep | apply State.fetchPages_keep | apply State.grantSpill_keep
    | apply State.grantCells_keep | split

theorem execBufferGrant_keep {pool : BitVec 3} {s : State} (h0 : Keep q s) :
    KeepOut q (execBufferGrant pool s) := by
  unfold execBufferGrant
  with_reducible repeat' first | assumption | apply due_keep | apply State.bufferGrant_keep

theorem State.tick_keep {s : State} (h0 : Keep q s) : Keep q (State.tick s) := by
  unfold State.tick
  dsimp only
  with_reducible repeat' first
    | assumption | apply ite_keep | apply State.elapse_keep | apply State.homesTry_keep
    | apply State.syncShapers_keep | apply State.portBlock_keep | apply State.markCredit_keep | apply foldl_keep
    | (intro _ _ _)

end

end Sys2Proof.Machine
end

