-- ==== Sys2Proof/Laws/KeepTime.lean ====
section
/-! SUPPORT. Every operation and meaning of Machine/Time.lean keeps the identity of the part and soundness. -/

namespace Sys2Proof.Machine

section
variable {q : Base}

theorem State.setCount_keep {s : State} {u : Int} (h0 : Keep q s) : Keep q (State.setCount s u) := by
  unfold State.setCount
  dsimp only
  with_reducible repeat' first | assumption | (fail_if_no_progress refine mk_keep ?_ rfl rfl rfl)

theorem State.sendEpochInfo_keep {s : State} {p : Nat} (h0 : Keep q s) :
    Keep q (State.sendEpochInfo s p) := by
  unfold State.sendEpochInfo
  with_reducible repeat' first | assumption | apply State.sendCtl_keep | apply foldl_keep | (intro _ _ _)

theorem State.hear_keep {s : State} {p : Nat} {m : TimeMsg} (h0 : Keep q s) :
    Keep q (State.hear s p m) := by
  unfold State.hear
  dsimp only
  with_reducible repeat' first
    | assumption | apply ite_keep | apply State.reparent_keep | apply State.sendEpochInfo_keep
    | (fail_if_no_progress refine mk_keep ?_ rfl rfl rfl)

theorem State.sendTimeReqs_keep {s : State} (h0 : Keep q s) : Keep q (State.sendTimeReqs s) := by
  unfold State.sendTimeReqs
  dsimp only
  with_reducible repeat' first
    | assumption | apply State.sendCtl_keep | (fail_if_no_progress refine mk_keep ?_ rfl rfl rfl) | apply foldl_keep
    | (intro _ _ _)

theorem execTimeReqSend_keep {s : State} (h0 : Keep q s) : KeepOut q (execTimeReqSend s) := by
  unfold execTimeReqSend
  with_reducible repeat' first | assumption | apply due_keep | apply State.sendTimeReqs_keep

theorem execTimeReq_keep {p : BitVec 6} {m : TimeMsg} {s : State} (h0 : Keep q s) :
    KeepOut q (execTimeReq p m s) := by
  unfold execTimeReq
  dsimp only
  with_reducible repeat' first
    | assumption | apply due_keep | apply State.sendCtl_keep | apply State.hear_keep

theorem State.timeFault_keep {s : State} {offset : Nat} (h0 : Keep q s) :
    Keep q (State.timeFault s offset) := by
  unfold State.timeFault
  dsimp only
  with_reducible repeat' first
    | assumption | apply State.record_keep | apply State.leaveService_keep
    | (fail_if_no_progress refine mk_keep ?_ rfl rfl rfl)

theorem State.lockNow_keep {s : State} (h0 : Keep q s) : Keep q (State.lockNow s) := by
  unfold State.lockNow
  dsimp only
  with_reducible repeat' first | assumption | (fail_if_no_progress refine mk_keep ?_ rfl rfl rfl)

theorem State.exchange_keep {s : State} {th : Int} {m : TimeMsg} (h0 : Keep q s) :
    Keep q (State.exchange s th m) := by
  unfold State.exchange
  dsimp only
  with_reducible repeat' first
    | assumption | apply ite_keep | apply State.setCount_keep | apply State.timeFault_keep
    | apply State.lockNow_keep | (fail_if_no_progress refine mk_keep ?_ rfl rfl rfl) | split

theorem execTimeResp_keep {p : BitVec 6} {m : TimeMsg} {s : State} (h0 : Keep q s) :
    KeepOut q (execTimeResp p m s) := by
  unfold execTimeResp
  dsimp only
  with_reducible repeat' first
    | assumption | apply State.hear_keep | apply State.exchange_keep
    | (fail_if_no_progress refine mk_keep ?_ rfl rfl rfl) | apply next_keep | apply outite_keep | split

theorem execMasterElection_keep {s0 : State} (h0 : Keep q s0) : KeepOut q (execMasterElection s0) := by
  unfold execMasterElection
  dsimp only
  with_reducible repeat' first
    | assumption | apply ite_keep | apply due_keep | apply State.reparent_keep | apply State.lockNow_keep
    | (fail_if_no_progress refine mk_keep ?_ rfl rfl rfl)

theorem execSelfStart_keep {s : State} (h0 : Keep q s) : KeepOut q (execSelfStart s) := by
  unfold execSelfStart
  dsimp only
  with_reducible repeat' first
    | assumption | apply ite_keep | apply due_keep | apply State.setCount_keep | apply State.lockNow_keep
    | (fail_if_no_progress refine mk_keep ?_ rfl rfl rfl)

theorem execPpsIn_keep {s : State} (h0 : Keep q s) : KeepOut q (execPpsIn s) := by
  unfold execPpsIn
  dsimp only
  with_reducible repeat' first
    | assumption | apply ite_keep | apply due_keep | apply State.lockNow_keep
    | (fail_if_no_progress refine mk_keep ?_ rfl rfl rfl) | split

theorem execPpsOut_keep {s : State} (h0 : Keep q s) : KeepOut q (execPpsOut s) := by
  unfold execPpsOut
  dsimp only
  with_reducible repeat' first
    | assumption | apply due_keep | (fail_if_no_progress refine mk_keep ?_ rfl rfl rfl)

theorem execHoldoverEntry_keep {s : State} (h0 : Keep q s) : KeepOut q (execHoldoverEntry s) := by
  unfold execHoldoverEntry
  dsimp only
  with_reducible repeat' first
    | assumption | apply State.bump_keep | apply due_keep | apply State.record_keep
    | (fail_if_no_progress refine mk_keep ?_ rfl rfl rfl)

theorem execHoldoverExpiry_keep {s : State} (h0 : Keep q s) : KeepOut q (execHoldoverExpiry s) := by
  unfold execHoldoverExpiry
  with_reducible repeat' first | assumption | apply due_keep | apply State.timeFault_keep

theorem State.startColl_keep {s : State} {slot : Nat} {c : Coll} (h0 : Keep q s) :
    Keep q (State.startColl s slot c) := by
  unfold State.startColl
  dsimp only
  with_reducible repeat' first
    | assumption | apply ite_keep | apply State.setColl_keep | apply State.progress_keep
    | apply State.fetchPages_keep | apply State.hitPoison_keep | (fail_if_no_progress refine mk_keep ?_ rfl rfl rfl)

theorem State.launchDue_keep {s : State} (h0 : Keep q s) : Keep q (State.launchDue s) := by
  unfold State.launchDue
  with_reducible repeat' first
    | assumption | apply ite_keep | apply State.startColl_keep | apply foldl_keep | (intro _ _ _) | split

theorem execLaunch_keep {s : State} (h0 : Keep q s) : KeepOut q (execLaunch s) := by
  unfold execLaunch
  with_reducible repeat' first | assumption | apply due_keep | apply State.launchDue_keep

theorem State.setStop_keep {s : State} {ctx : Nat} {cid : Nat} {launch : Nat} {t : Nat} (h0 : Keep q s) :
    Keep q (State.setStop s ctx cid launch t) := by
  unfold State.setStop
  dsimp only
  with_reducible repeat' first | assumption | (fail_if_no_progress refine mk_keep ?_ rfl rfl rfl)

theorem State.passOn_keep {s : State} {from_ : Option Nat} {key : List Nat} {d : Nat} {window : Nat}
    {m : CtlMsg} (h0 : Keep q s) : Keep q (State.passOn s from_ key d window m) := by
  unfold State.passOn
  dsimp only
  with_reducible repeat' first
    | assumption | apply ite_keep | apply State.flood_keep | (fail_if_no_progress refine mk_keep ?_ rfl rfl rfl)

theorem State.takeLate_keep {s : State} {from_ : Option Nat} {n : LateNotice} (h0 : Keep q s) :
    Keep q (State.takeLate s from_ n) := by
  unfold State.takeLate
  dsimp only
  with_reducible repeat' first
    | assumption | apply ite_keep | apply State.setCtx_keep | apply State.flood_keep | apply State.setStop_keep
    | apply State.passOn_keep

theorem execLateNotice_keep {p : BitVec 6} {n : LateNotice} {s : State} (h0 : Keep q s) :
    KeepOut q (execLateNotice p n s) := by
  unfold execLateNotice
  dsimp only
  with_reducible repeat' first | assumption | apply due_keep | apply State.takeLate_keep

theorem State.lateStops_keep {s : State} (h0 : Keep q s) : Keep q (State.lateStops s) := by
  unfold State.lateStops
  dsimp only
  with_reducible repeat' first
    | assumption | apply State.stopSlot_keep | apply State.stopQueued_keep | apply foldl_keep | (intro _ _ _)

theorem State.lateRecords_keep {s : State} (h0 : Keep q s) : Keep q (State.lateRecords s) := by
  unfold State.lateRecords
  dsimp only
  with_reducible repeat' first
    | assumption | apply ite_keep | apply State.writeRecords_keep
    | (fail_if_no_progress refine mk_keep ?_ rfl rfl rfl) | apply foldl_keep | (intro _ _ _)

theorem execLateLaunchStop_keep {s : State} (h0 : Keep q s) : KeepOut q (execLateLaunchStop s) := by
  unfold execLateLaunchStop
  with_reducible repeat' first
    | assumption | apply due_keep | apply State.lateStops_keep | apply State.lateRecords_keep

theorem State.barRelease_keep {s : State} (h0 : Keep q s) : Keep q (State.barRelease s) := by
  unfold State.barRelease
  dsimp only
  with_reducible repeat' first
    | assumption | apply ite_keep | (fail_if_no_progress refine mk_keep ?_ rfl rfl rfl) | split

theorem execBarrierRelease_keep {s : State} (h0 : Keep q s) : KeepOut q (execBarrierRelease s) := by
  unfold execBarrierRelease
  with_reducible repeat' first | assumption | apply due_keep | apply State.barRelease_keep

theorem State.floodCancel_keep {s : State} {a : Arm} (h0 : Keep q s) : Keep q (State.floodCancel s a) := by
  unfold State.floodCancel
  dsimp only
  with_reducible repeat' first
    | assumption | apply State.flood_keep | (fail_if_no_progress refine mk_keep ?_ rfl rfl rfl)

theorem State.barSample_keep {s : State} {high : Bool} (h0 : Keep q s) :
    Keep q (State.barSample s high) := by
  unfold State.barSample
  dsimp only
  with_reducible repeat' first
    | assumption | apply ite_keep | apply State.complete_keep | apply State.floodCancel_keep
    | (fail_if_no_progress refine mk_keep ?_ rfl rfl rfl) | apply foldl_keep | split

theorem execBarrierSample_keep {high : Bool} {s : State} (h0 : Keep q s) :
    KeepOut q (execBarrierSample high s) := by
  unfold execBarrierSample
  with_reducible repeat' first | assumption | apply due_keep | apply State.barSample_keep

theorem execBarrierPullLow_keep {s : State} (h0 : Keep q s) : KeepOut q (execBarrierPullLow s) := by
  unfold execBarrierPullLow
  dsimp only
  with_reducible repeat' first
    | assumption | apply due_keep | (fail_if_no_progress refine mk_keep ?_ rfl rfl rfl) | split

theorem execStepCorrection_keep {s : State} (h0 : Keep q s) : KeepOut q (execStepCorrection s) := by
  unfold execStepCorrection
  dsimp only
  with_reducible repeat' first
    | assumption | apply due_keep | apply State.complete_keep | (fail_if_no_progress refine mk_keep ?_ rfl rfl rfl)
    | apply next_keep | split

theorem State.mapTbls_keep {s : State} {f : SlotTbl → SlotTbl} (h0 : Keep q s) :
    Keep q (State.mapTbls s f) := by
  unfold State.mapTbls
  dsimp only
  with_reducible repeat' first | assumption | (fail_if_no_progress refine mk_keep ?_ rfl rfl rfl)

theorem execEpochCancel_keep {p : BitVec 6} {m : EpochMsg} {s : State} (h0 : Keep q s) :
    KeepOut q (execEpochCancel p m s) := by
  unfold execEpochCancel
  dsimp only
  with_reducible repeat' first
    | assumption | apply ite_keep | apply due_keep | apply State.record_keep | apply State.flood_keep
    | (fail_if_no_progress refine mk_keep ?_ rfl rfl rfl) | apply foldl_keep | (intro _ _ _)

theorem State.cancelEpoch_keep {s : State} {a : Arm} (h0 : Keep q s) : Keep q (State.cancelEpoch s a) := by
  unfold State.cancelEpoch
  dsimp only
  with_reducible repeat' first
    | assumption | apply State.stopSlot_keep | apply State.stopQueued_keep | apply foldl_keep | (intro _ _ _)

theorem State.sendGo_keep {s : State} {a : Arm} (h0 : Keep q s) : Keep q (State.sendGo s a) := by
  unfold State.sendGo
  with_reducible repeat' first
    | assumption | apply State.sendCtl_keep | apply foldl_keep | (intro _ _ _) | split

theorem State.endArm_keep {s : State} {a : Arm} {result : Nat} (h0 : Keep q s) :
    Keep q (State.endArm s a result) := by
  unfold State.endArm
  dsimp only
  with_reducible repeat' first
    | assumption | apply State.complete_keep | (fail_if_no_progress refine mk_keep ?_ rfl rfl rfl) | split

theorem State.decideArm_keep {s : State} {a : Arm} (h0 : Keep q s) : Keep q (State.decideArm s a) := by
  unfold State.decideArm
  dsimp only
  with_reducible repeat' first
    | assumption | apply ite_keep | apply State.mapTbls_keep | apply State.cancelEpoch_keep
    | apply State.sendGo_keep | apply State.endArm_keep | (fail_if_no_progress refine mk_keep ?_ rfl rfl rfl)

theorem execEpochDecision_keep {s : State} (h0 : Keep q s) : KeepOut q (execEpochDecision s) := by
  unfold execEpochDecision
  with_reducible repeat' first | assumption | apply due_keep | apply State.decideArm_keep | apply foldl_keep

theorem State.activate_keep {s : State} {epoch : Nat} {start : Nat} (h0 : Keep q s) :
    Keep q (State.activate s epoch start) := by
  unfold State.activate
  dsimp only
  with_reducible repeat' first | assumption | (fail_if_no_progress refine mk_keep ?_ rfl rfl rfl)

theorem State.switchArm_keep {s : State} {a : Arm} (h0 : Keep q s) : Keep q (State.switchArm s a) := by
  unfold State.switchArm
  dsimp only
  with_reducible repeat' first
    | assumption | apply State.endArm_keep | apply State.activate_keep
    | (fail_if_no_progress refine mk_keep ?_ rfl rfl rfl)

theorem execEpochSwitch_keep {s : State} (h0 : Keep q s) : KeepOut q (execEpochSwitch s) := by
  unfold execEpochSwitch
  with_reducible repeat' first | assumption | apply due_keep | apply State.switchArm_keep | apply foldl_keep

theorem execEpochInfo_keep {_p : BitVec 6} {m : EpochMsg} {s : State} (h0 : Keep q s) :
    KeepOut q (execEpochInfo _p m s) := by
  unfold execEpochInfo
  dsimp only
  with_reducible repeat' first
    | assumption | apply due_keep | apply State.mapTbls_keep | (fail_if_no_progress refine mk_keep ?_ rfl rfl rfl)

theorem State.joinActivate_keep {s : State} {r : EpochRec} (h0 : Keep q s) :
    Keep q (State.joinActivate s r) := by
  unfold State.joinActivate
  dsimp only
  with_reducible repeat' first
    | assumption | apply ite_keep | apply State.activate_keep | (fail_if_no_progress refine mk_keep ?_ rfl rfl rfl)

theorem execEpochJoinActivate_keep {s : State} (h0 : Keep q s) : KeepOut q (execEpochJoinActivate s) := by
  unfold execEpochJoinActivate
  with_reducible repeat' first
    | assumption | apply due_keep | apply State.joinActivate_keep | apply foldl_keep

end

end Sys2Proof.Machine
end

