-- ==== Sys2Proof/Laws/KeepFault.lean ====
section
/-! SUPPORT. Every operation and meaning of Machine/Fault.lean keeps the identity of the part and soundness. -/

namespace Sys2Proof.Machine

section
variable {q : Base}

theorem State.fwdDesc_keep {s : State} {bytes : List Byte} {d : List Byte} (h0 : Keep q s) :
    Keep q (State.fwdDesc s bytes d) := by
  unfold State.fwdDesc
  with_reducible repeat' first | assumption | apply State.sendMgmt_keep | apply foldl_keep | (intro _ _ _)

theorem State.freeFlows_keep {s : State} {x : Nat} (h0 : Keep q s) : Keep q (State.freeFlows s x) := by
  unfold State.freeFlows
  dsimp only
  with_reducible repeat' first
    | assumption | apply State.bump_keep | apply State.discard_keep
    | (fail_if_no_progress refine mk_keep ?_ rfl rfl rfl) | apply foldl_keep | (intro _ _ _)

theorem State.endXfers_keep {s : State} {x : Nat} (h0 : Keep q s) : Keep q (s.endXfers x) := by
  have h1 := State.freePages_keep (test := fun h => match h with
    | .xfer k => ((s.xfers.filter (fun t => t.2.target != .staging && t.2.ctx == x)).map Prod.fst).contains k
    | _ => false) h0
  exact ⟨h1.part, fun hq => by
    have v := h1.inv hq
    exact ⟨v.1, fun e he => v.2.1 e (List.mem_filter.mp he).1, v.2.2⟩⟩

theorem State.freePlan_keep {s : State} {x : Nat} (h0 : Keep q s) : Keep q (s.freePlan x) := by
  have h1 := State.freePages_keep (test := fun h => match h with
    | .state c _ _ => c == x
    | .old c _ _ => c == x
    | .region c _ => c == x
    | _ => false) h0
  apply State.setCtx_keep
  exact ⟨h1.part, fun hq => by
    have v := h1.inv hq
    exact ⟨v.1, v.2.1, fun e he => v.2.2.1 e (List.mem_filter.mp he).1, v.2.2.2⟩⟩

theorem State.endWaiting_keep {s : State} {x : Nat} (h0 : Keep q s) : Keep q (State.endWaiting s x) := by
  unfold State.endWaiting
  dsimp only
  with_reducible repeat' first
    | assumption | apply State.setCtx_keep | apply State.complete_keep | apply foldl_keep | (intro _ _ _)

theorem State.closeCtxRec_keep {s : State} {x : Nat} (h0 : Keep q s) : Keep q (State.closeCtxRec s x) := by
  unfold State.closeCtxRec
  dsimp only
  with_reducible repeat' first | assumption | (fail_if_no_progress refine mk_keep ?_ rfl rfl rfl)

theorem State.noteStop_keep {s : State} {x : Nat} {d : Nat} {teardown : Bool} (h0 : Keep q s) :
    Keep q (State.noteStop s x d teardown).1 := by
  unfold State.noteStop
  dsimp only
  with_reducible repeat' first | assumption | apply State.setCtx_keep | apply ite1_keep

theorem State.beginStop_keep {s : State} {x : Nat} {teardown : Bool} {escalated : Bool} (h0 : Keep q s) :
    Keep q (State.beginStop s x teardown escalated) := by
  unfold State.beginStop
  dsimp only
  with_reducible repeat' first
    | assumption | apply ite_keep | apply State.flood_keep | apply State.noteStop_keep

theorem execCtxStop_keep {p : BitVec 6} {n : Notice} {s : State} (h0 : Keep q s) :
    KeepOut q (execCtxStop p n s) := by
  unfold execCtxStop
  dsimp only
  with_reducible repeat' first
    | assumption | apply ite_keep | apply due_keep | apply State.flood_keep | apply State.passOn_keep
    | apply State.noteStop_keep

theorem execAbortNotice_keep {p : BitVec 6} {n : Notice} {s : State} (h0 : Keep q s) :
    KeepOut q (execAbortNotice p n s) := by
  unfold execAbortNotice
  dsimp only
  with_reducible repeat' first
    | assumption | apply ite_keep | apply due_keep | apply State.setCtx_keep | apply State.flood_keep
    | apply State.passOn_keep

theorem State.holdSlot_keep {s : State} {slot : Nat} {a : Nat} (h0 : Keep q s) :
    Keep q (State.holdSlot s slot a) := by
  unfold State.holdSlot
  dsimp only
  with_reducible repeat' first
    | assumption | apply State.setColl_keep | apply State.purge_keep | apply State.clearColl_keep | split

theorem State.abortColls_keep {s : State} {dec : List (Nat × Nat)} {x : Nat} {a : Nat} {lost : Nat}
    {status : Nat} (h0 : Keep q s) : Keep q (State.abortColls s dec x a lost status) := by
  unfold State.abortColls
  dsimp only
  with_reducible repeat' first
    | assumption | apply ite_keep | apply State.stopSlot_keep | apply State.stopQueued_keep | apply foldl_keep
    | (intro _ _ _)

theorem State.holdColls_keep {s : State} {dec : List (Nat × Nat)} {x : Nat} {a : Nat} (h0 : Keep q s) :
    Keep q (State.holdColls s dec x a) := by
  unfold State.holdColls
  dsimp only
  with_reducible repeat' first
    | assumption | apply ite_keep | apply State.holdSlot_keep | (fail_if_no_progress refine mk_keep ?_ rfl rfl rfl)
    | apply foldl_keep | (intro _ _ _)

theorem State.takeResume_keep {s : State} {x : Nat} {u : Nat} {lost : Nat} (h0 : Keep q s) :
    Keep q (State.takeResume s x u lost) := by
  unfold State.takeResume
  dsimp only
  with_reducible repeat' first
    | assumption | apply ite_keep | apply State.setCtx_keep | apply State.ownerBack_keep | apply State.fwdDesc_keep
    | apply foldl_keep | (intro _ _ _)

theorem State.floodResume_keep {s : State} {x : Nat} (h0 : Keep q s) : Keep q (State.floodResume s x) := by
  unfold State.floodResume
  dsimp only
  with_reducible repeat' first | assumption | apply State.flood_keep | apply State.takeResume_keep

theorem execResume_keep {p : BitVec 6} {n : Notice} {s : State} (h0 : Keep q s) :
    KeepOut q (execResume p n s) := by
  unfold execResume
  dsimp only
  with_reducible repeat' first
    | assumption | apply ite_keep | apply due_keep | apply State.flood_keep | apply State.ownerBack_keep
    | apply State.passOn_keep | apply State.takeResume_keep

theorem State.abortEvent_keep {s : State} {dec : List (Nat × Nat)} {x : Nat}
    {e : Nat × Nat × Bool × Bool} (h0 : Keep q s) : Keep q (State.abortEvent s dec x e) := by
  unfold State.abortEvent
  dsimp only
  with_reducible repeat' first
    | assumption | apply ite_keep | apply State.setCtx_keep | apply State.rootTry_keep | apply State.markLost_keep
    | apply State.abortColls_keep | apply State.holdColls_keep | apply State.floodResume_keep | apply foldl_keep
    | (intro _ _ _)

theorem State.abortsDue_keep {s : State} {dec : List (Nat × Nat)} {x : Nat} (h0 : Keep q s) :
    Keep q (State.abortsDue s dec x) := by
  unfold State.abortsDue
  with_reducible repeat' first | assumption | apply State.abortEvent_keep | apply foldl_keep | (intro _ _ _)

theorem execAbortCount_keep {decided : List (BitVec 8 × BitVec 32)} {s : State} (h0 : Keep q s) :
    KeepOut q (execAbortCount decided s) := by
  unfold execAbortCount
  dsimp only
  with_reducible repeat' first
    | assumption | apply due_keep | apply State.abortsDue_keep | apply foldl_keep | (intro _ _ _)

theorem State.stopCtx_keep {s : State} {x : Nat} {d : Nat} (h0 : Keep q s) :
    Keep q (State.stopCtx s x d) := by
  unfold State.stopCtx
  dsimp only
  with_reducible repeat' first
    | assumption | apply ite_keep | apply State.setCtx_keep | apply State.freePages_keep | apply State.purge_keep
    | apply State.stopSlot_keep | apply State.stopQueued_keep | apply State.freeFlows_keep
    | apply State.endXfers_keep | apply foldl_keep | (intro _ _ _)

theorem State.stopDue_keep {s : State} {x : Nat} (h0 : Keep q s) : Keep q (State.stopDue s x) := by
  unfold State.stopDue
  dsimp only
  with_reducible repeat' first
    | assumption | apply ite_keep | apply State.setCtx_keep | apply State.freePlan_keep
    | apply State.endWaiting_keep | apply State.abortsDue_keep | apply State.stopCtx_keep | split

theorem execStopCount_keep {s : State} (h0 : Keep q s) : KeepOut q (execStopCount s) := by
  unfold execStopCount
  with_reducible repeat' first
    | assumption | apply due_keep | apply State.stopDue_keep | apply foldl_keep | (intro _ _ _)

theorem State.drainDone_keep {s : State} {x : Nat} (h0 : Keep q s) : Keep q (State.drainDone s x) := by
  unfold State.drainDone
  dsimp only
  with_reducible repeat' first
    | assumption | apply ite_keep | apply State.setCtx_keep | apply State.freePlan_keep
    | apply State.endWaiting_keep | apply State.closeCtxRec_keep

theorem execDrainComplete_keep {s : State} (h0 : Keep q s) : KeepOut q (execDrainComplete s) := by
  unfold execDrainComplete
  with_reducible repeat' first
    | assumption | apply due_keep | apply State.drainDone_keep | apply foldl_keep | (intro _ _ _)

theorem State.sendHeld_keep {s : State} {dest : Nat} (h0 : Keep q s) : Keep q (State.sendHeld s dest) := by
  unfold State.sendHeld
  dsimp only
  with_reducible repeat' first | assumption | apply State.sendMgmt_keep | apply foldl_keep | (intro _ _ _)

theorem execHeldDescSend_keep {s : State} (h0 : Keep q s) : KeepOut q (execHeldDescSend s) := by
  unfold execHeldDescSend
  dsimp only
  with_reducible repeat' first
    | assumption | apply due_keep | apply State.sendHeld_keep | (fail_if_no_progress refine mk_keep ?_ rfl rfl rfl)
    | apply foldl_keep

theorem State.freeSlot_keep {s : State} (h0 : Keep q s) : KeepNum q s.freeSlot := by
  constructor
  intro n t ht
  unfold State.freeSlot at ht
  generalize (List.range 4096).filter (fun i => (tfind s.slots i).isNone) = l at ht
  obtain ⟨i, _, h2⟩ := Option.map_eq_some_iff.mp ht
  cases h2
  exact State.free_keep h0

theorem State.queueRoom_keep {s : State} (h0 : Keep q s) : KeepOpt q (State.queueRoom s) := by
  unfold State.queueRoom
  with_reducible repeat' first
    | assumption | apply State.drawBufs_keep | apply oite_keep | apply none_keep | apply some_keep

theorem State.takeHeld_keep {s : State} {d : List Byte} (h0 : Keep q s) : Keep q (State.takeHeld s d) := by
  unfold State.takeHeld
  dsimp only
  with_reducible repeat' first
    | assumption | apply ite_keep | apply State.setColl_keep | apply State.freeSlot_keep
    | apply State.queueRoom_keep | (fail_if_no_progress refine mk_keep ?_ rfl rfl rfl)
    | (apply num_keep; assumption) | (apply opt_keep; assumption) | split

theorem State.retakeHeld_keep {s : State} (h0 : Keep q s) : Keep q (State.retakeHeld s) := by
  unfold State.retakeHeld
  dsimp only
  with_reducible repeat' first
    | assumption | apply State.takeHeld_keep | (fail_if_no_progress refine mk_keep ?_ rfl rfl rfl)
    | apply foldl_keep

theorem State.heldDescIn_keep {s : State} {f : Mgmt} (h0 : Keep q s) : Keep q (State.heldDescIn s f) := by
  unfold State.heldDescIn
  dsimp only
  with_reducible repeat' first
    | assumption | apply ite_keep | apply State.sendMgmt_keep | apply State.sendHeld_keep
    | apply State.takeHeld_keep | (fail_if_no_progress refine mk_keep ?_ rfl rfl rfl) | apply foldl_keep

theorem execHeldDesc_keep {f : Mgmt} {s : State} (h0 : Keep q s) : KeepOut q (execHeldDesc f s) := by
  unfold execHeldDesc
  with_reducible repeat' first
    | assumption | apply State.brassFrame_keep | apply State.heldDescIn_keep | (intro _ _)

theorem execResumeFlood_keep {s : State} (h0 : Keep q s) : KeepOut q (execResumeFlood s) := by
  unfold execResumeFlood
  dsimp only
  with_reducible repeat' first
    | assumption | apply ite_keep | apply due_keep | apply State.floodResume_keep | apply State.retakeHeld_keep
    | apply foldl_keep | (intro _ _ _)

theorem State.heldLaunch_keep {s : State} {x : Nat} (h0 : Keep q s) : Keep q (State.heldLaunch s x) := by
  unfold State.heldLaunch
  dsimp only
  with_reducible repeat' first
    | assumption | apply ite_keep | apply State.setCtx_keep | apply State.setColl_keep | apply State.startColl_keep
    | (fail_if_no_progress refine mk_keep ?_ rfl rfl rfl) | apply foldl_keep | (intro _ _ _) | split

theorem execHeldLaunch_keep {s : State} (h0 : Keep q s) : KeepOut q (execHeldLaunch s) := by
  unfold execHeldLaunch
  with_reducible repeat' first
    | assumption | apply due_keep | apply State.heldLaunch_keep | apply foldl_keep | (intro _ _ _)

theorem State.holdOver_keep {s : State} {x : Nat} (h0 : Keep q s) : Keep q (State.holdOver s x) := by
  unfold State.holdOver
  dsimp only
  with_reducible repeat' first
    | assumption | apply ite_keep | apply State.setCtx_keep | apply State.stopSlot_keep
    | apply State.stopQueued_keep | apply foldl_keep | (intro _ _ _) | split

theorem execHoldLimitExpiry_keep {s : State} (h0 : Keep q s) : KeepOut q (execHoldLimitExpiry s) := by
  unfold execHoldLimitExpiry
  with_reducible repeat' first
    | assumption | apply due_keep | apply State.holdOver_keep | apply foldl_keep | (intro _ _ _)

theorem execRecordAutoClose_keep {s : State} (h0 : Keep q s) : KeepOut q (execRecordAutoClose s) := by
  unfold execRecordAutoClose
  dsimp only
  with_reducible repeat' first
    | assumption | apply due_keep | (fail_if_no_progress refine mk_keep ?_ rfl rfl rfl)

theorem State.deferExpiry_keep {s : State} (h0 : Keep q s) : Keep q (State.deferExpiry s) := by
  unfold State.deferExpiry
  dsimp only
  with_reducible repeat' first
    | assumption | apply ite_keep | apply State.beginStop_keep | (fail_if_no_progress refine mk_keep ?_ rfl rfl rfl)
    | apply foldl_keep | (intro _ _ _)

theorem execDeferredTimerExpiry_keep {s : State} (h0 : Keep q s) :
    KeepOut q (execDeferredTimerExpiry s) := by
  unfold execDeferredTimerExpiry
  with_reducible repeat' first | assumption | apply due_keep | apply State.deferExpiry_keep

theorem execFaultNPulseEnd_keep {s : State} (h0 : Keep q s) : KeepOut q (execFaultNPulseEnd s) := by
  unfold execFaultNPulseEnd
  dsimp only
  with_reducible repeat' first
    | assumption | apply ite_keep | apply State.setCfg_keep | apply due_keep
    | (fail_if_no_progress refine mk_keep ?_ rfl rfl rfl) | apply next_keep | split

theorem execFaultNGapEnd_keep {s : State} (h0 : Keep q s) : KeepOut q (execFaultNGapEnd s) := by
  unfold execFaultNGapEnd
  dsimp only
  with_reducible repeat' first
    | assumption | apply ite_keep | apply due_keep | (fail_if_no_progress refine mk_keep ?_ rfl rfl rfl)
    | apply next_keep | split

theorem execWatchdogExpiry_keep {b : BootObs} {s : State} (h0 : Keep q s) :
    KeepOut q (execWatchdogExpiry b s) := by
  unfold execWatchdogExpiry
  dsimp only
  with_reducible repeat' first
    | assumption | apply due_keep | apply State.free_keep | apply State.record_keep | apply State.warm_keep

end

end Sys2Proof.Machine
end

