-- ==== Sys2Proof/Laws/KeepIngot.lean ====
section
/-! SUPPORT. Every operation and meaning of Machine/Ingot.lean keeps the identity of the part and soundness. -/

namespace Sys2Proof.Machine

section
variable {q : Base}

theorem State.errLog_keep {s : State} {k : Nat} {c : Nat} {kind : Nat} {r : RowAt} (h0 : Keep q s) :
    Keep q (State.errLog s k c kind r) := by
  unfold State.errLog
  dsimp only
  with_reducible repeat' first | assumption | apply State.setStack_keep

theorem State.corrected_keep {s : State} {k : Nat} {c : Nat} {kind : Nat} {r : RowAt} (h0 : Keep q s) :
    Keep q (State.corrected s k c kind r) := by
  unfold State.corrected
  with_reducible repeat' first | assumption | apply State.record_keep | apply State.errLog_keep

theorem State.remapPage_keep {s : State} {k : Nat} {p : Nat} (h0 : Keep q s) :
    Keep q (State.remapPage s k p) := by
  unfold State.remapPage
  dsimp only
  with_reducible repeat' first
    | assumption | apply State.setStack_keep | (fail_if_no_progress refine mk_keep ?_ rfl rfl rfl) | split

theorem State.failPart_keep {s : State} {ctx : Nat} {cid : Nat} {area : Nat} {p : Nat} (h0 : Keep q s) :
    Keep q (State.failPart s ctx cid area p) := by
  unfold State.failPart
  dsimp only
  with_reducible repeat' first
    | assumption | apply ite_keep | apply State.endJobIf_keep | apply State.setColl_keep | apply State.failRun_keep
    | (fail_if_no_progress refine mk_keep ?_ rfl rfl rfl) | split

theorem State.failSpill_keep {s0 : State} {ctx : Nat} {cid : Nat} {node : Nat} {seg : Nat}
    (h0 : Keep q s0) : Keep q (State.failSpill s0 ctx cid node seg) := by
  unfold State.failSpill
  dsimp only
  with_reducible repeat' first | assumption | apply State.record_keep | apply State.setColl_keep | split

theorem State.failQueued_keep {s : State} {a : Nat} (h0 : Keep q s) : Keep q (State.failQueued s a) := by
  unfold State.failQueued
  dsimp only
  with_reducible repeat' first
    | assumption | apply State.free_keep | apply State.record_keep | apply State.complete_keep
    | apply State.countRefused_keep | apply State.takeLate_keep
    | (fail_if_no_progress refine mk_keep ?_ rfl rfl rfl) | split

theorem State.mapHit_keep {s : State} {p : Nat} {a : Nat} {ch : Nat} (h0 : Keep q s) :
    Keep q (State.mapHit s p a ch) := by
  unfold State.mapHit
  dsimp only
  with_reducible repeat' first
    | assumption | apply ite_keep | apply State.setTensor_keep | apply State.record_keep | apply foldl_keep
    | (intro _ _ _) | split

theorem State.planHit_keep {s : State} {p : Nat} {a : Nat} {ch : Nat} (h0 : Keep q s) :
    Keep q (State.planHit s p a ch) := by
  unfold State.planHit
  dsimp only
  with_reducible repeat' first
    | assumption | apply ite_keep | apply State.setCtx_keep | apply State.record_keep
    | (fail_if_no_progress refine mk_keep ?_ rfl rfl rfl) | apply foldl_keep | (intro _ _ _)

theorem State.logHit_keep {s : State} {a : Nat} {ch : Nat} (h0 : Keep q s) :
    Keep q (State.logHit s a ch) := by
  unfold State.logHit
  dsimp only
  with_reducible repeat' first
    | assumption | apply State.record_keep | (fail_if_no_progress refine mk_keep ?_ rfl rfl rfl)

theorem State.outcome_keep {s : State} {a : Nat} (h0 : Keep q s) : Keep q (State.outcome s a) := by
  unfold State.outcome
  dsimp only
  with_reducible repeat' first
    | assumption | apply ite_keep | apply State.setTensor_keep | apply State.record_keep
    | apply State.failKernels_keep | apply State.failPart_keep | apply State.failSpill_keep
    | apply State.failQueued_keep | apply State.mapHit_keep | apply State.planHit_keep | apply State.logHit_keep
    | (fail_if_no_progress refine mk_keep ?_ rfl rfl rfl) | split

theorem State.remapFree_keep {s : State} {k : Nat} {c : Nat} (h0 : Keep q s) :
    Keep q (State.remapFree s k c) := by
  unfold State.remapFree
  dsimp only
  with_reducible repeat' first | assumption | apply State.remapPage_keep | apply foldl_keep | (intro _ _ _)

theorem State.checkShort_keep {s : State} (h0 : Keep q s) : Keep q (State.checkShort s) := by
  unfold State.checkShort
  with_reducible repeat' first | assumption | apply ite_keep | apply State.record_keep

theorem State.fenceStack_keep {s : State} {k : Nat} (h0 : Keep q s) : Keep q (State.fenceStack s k) := by
  unfold State.fenceStack
  dsimp only
  with_reducible repeat' first
    | assumption | apply ite_keep | apply State.setStack_keep | apply State.record_keep | apply State.complete_keep
    | apply State.failKernels_keep | apply State.checkShort_keep
    | (fail_if_no_progress refine mk_keep ?_ rfl rfl rfl) | apply foldl_keep | (intro _ _ _)

theorem State.chanFenced_keep {s : State} {k : Nat} {c : Nat} (h0 : Keep q s) :
    Keep q (State.chanFenced s k c) := by
  unfold State.chanFenced
  dsimp only
  with_reducible repeat' first
    | assumption | apply ite_keep | apply State.setStack_keep | apply State.setChan_keep | apply State.complete_keep
    | apply State.fenceStack_keep | (fail_if_no_progress refine mk_keep ?_ rfl rfl rfl) | apply foldl_keep
    | (intro _ _ _)

theorem State.startFence_keep {s : State} {k : Nat} {c : Nat} (h0 : Keep q s) :
    Keep q (State.startFence s k c) := by
  unfold State.startFence
  dsimp only
  with_reducible repeat' first
    | assumption | apply ite_keep | apply State.setStack_keep | apply State.setChan_keep
    | apply State.remapFree_keep | apply State.checkShort_keep | apply State.chanFenced_keep

theorem State.queueFence_keep {s : State} {k : Nat} {c : Nat} (h0 : Keep q s) :
    Keep q (State.queueFence s k c) := by
  unfold State.queueFence
  dsimp only
  with_reducible repeat' first
    | assumption | apply ite_keep | apply State.setStack_keep | apply State.startFence_keep

theorem State.fenceChannel_keep {s : State} {k : Nat} {c : Nat} {cause : Nat} (h0 : Keep q s) :
    Keep q (State.fenceChannel s k c cause) := by
  unfold State.fenceChannel
  with_reducible repeat' first
    | assumption | apply ite_keep | apply State.record_keep | apply State.queueFence_keep

theorem State.nextFence_keep {s : State} {k : Nat} (h0 : Keep q s) : Keep q (State.nextFence s k) := by
  unfold State.nextFence
  dsimp only
  with_reducible repeat' first
    | assumption | apply State.setStack_keep | apply State.startFence_keep | split

theorem State.pageLost_keep {s : State} {k : Nat} {p : Nat} (h0 : Keep q s) :
    Keep q (State.pageLost s k p) := by
  unfold State.pageLost
  dsimp only
  with_reducible repeat' first
    | assumption | apply ite_keep | apply State.setStack_keep | apply State.outcome_keep
    | (fail_if_no_progress refine mk_keep ?_ rfl rfl rfl)

theorem State.pageMoved_keep {s : State} {k : Nat} {ok : Bool} (h0 : Keep q s) :
    Keep q (State.pageMoved s k ok) := by
  unfold State.pageMoved
  dsimp only
  with_reducible repeat' first
    | assumption | apply ite_keep | apply State.setStack_keep | apply State.remapPage_keep
    | apply State.chanFenced_keep | apply State.nextFence_keep | apply State.pageLost_keep | split

theorem execPageMoveDone_keep {stack : BitVec 2} {ok : Bool} {s : State} (h0 : Keep q s) :
    KeepOut q (execPageMoveDone stack ok s) := by
  unfold execPageMoveDone
  with_reducible repeat' first | assumption | apply due_keep | apply State.pageMoved_keep

theorem State.retire_keep {s : State} {k : Nat} {c : Nat} {r : RowAt} (h0 : Keep q s) :
    Keep q (State.retire s k c r) := by
  unfold State.retire
  dsimp only
  with_reducible repeat' first
    | assumption | apply ite_keep | apply State.bump_keep | apply State.corrected_keep | apply State.remapPage_keep
    | apply State.outcome_keep | (fail_if_no_progress refine mk_keep ?_ rfl rfl rfl) | split

theorem State.spareRow_keep {s : State} {k : Nat} {c : Nat} {r : RowAt} (h0 : Keep q s) :
    Keep q (State.spareRow s k c r) := by
  unfold State.spareRow
  dsimp only
  with_reducible repeat' first
    | assumption | apply ite_keep | apply State.bump_keep | apply State.setStack_keep | apply State.corrected_keep
    | apply State.fenceChannel_keep | apply State.retire_keep

theorem State.foundUe_keep {s : State} {k : Nat} {c : Nat} {r : RowAt} {a : Option Nat} (h0 : Keep q s) :
    Keep q (State.foundUe s k c r a) := by
  unfold State.foundUe
  dsimp only
  with_reducible repeat' first
    | assumption | apply State.bump_keep | apply State.setChan_keep | apply State.errLog_keep
    | apply State.outcome_keep | (fail_if_no_progress refine mk_keep ?_ rfl rfl rfl) | split

theorem State.rowFailed_keep {s : State} {k : Nat} {c : Nat} {r : RowAt} (h0 : Keep q s) :
    Keep q (State.rowFailed s k c r) := by
  unfold State.rowFailed
  dsimp only
  with_reducible repeat' first
    | assumption | apply ite_keep | apply State.setChan_keep | apply State.fenceChannel_keep
    | apply State.spareRow_keep

theorem State.wordsRead_keep {s : State} {k : Nat} {c : Nat} {r : RowAt} {ws : List
    (Option Nat × Codeword)} (h0 : Keep q s) : Keep q (State.wordsRead s k c r ws) := by
  unfold State.wordsRead
  dsimp only
  with_reducible repeat' first
    | assumption | apply ite_keep | apply State.bump_keep | apply State.setStack_keep | apply State.setChan_keep
    | apply State.corrected_keep | apply State.fenceChannel_keep | apply State.spareRow_keep
    | apply State.foundUe_keep | apply State.rowFailed_keep | apply foldl_keep | (intro _ _ _)

theorem execUncorrectableCodeword_keep {addr : BitVec 40} {word : List Byte} {s : State}
    (h0 : Keep q s) : KeepOut q (execUncorrectableCodeword addr word s) := by
  unfold execUncorrectableCodeword
  dsimp only
  with_reducible repeat' first | assumption | apply due_keep | apply State.wordsRead_keep

theorem State.scrub_keep {s : State} {k : Nat} {c : Nat} {ws : List (List Byte)} (h0 : Keep q s) :
    Keep q (State.scrub s k c ws) := by
  unfold State.scrub
  dsimp only
  with_reducible repeat' first
    | assumption | apply State.bump_keep | apply State.setStack_keep | apply State.wordsRead_keep

theorem execScrubRow_keep {stack : BitVec 2} {ch : BitVec 4} {words : List (List Byte)} {s : State}
    (h0 : Keep q s) : KeepOut q (execScrubRow stack ch words s) := by
  unfold execScrubRow
  dsimp only
  with_reducible repeat' first | assumption | apply due_keep | apply State.scrub_keep

theorem execRefresh_keep {stack : BitVec 2} {ch : BitVec 4} {sid : BitVec 4} {s : State}
    (h0 : Keep q s) : KeepOut q (execRefresh stack ch sid s) := by
  unfold execRefresh
  dsimp only
  with_reducible repeat' first | assumption | apply due_keep | apply State.setStack_keep

theorem execDramHot_keep {stack : BitVec 2} {temp : Byte} {s : State} (h0 : Keep q s) :
    KeepOut q (execDramHot stack temp s) := by
  unfold execDramHot
  dsimp only
  with_reducible repeat' first
    | assumption | apply ite_keep | apply due_keep | apply State.setStack_keep | apply State.record_keep

theorem State.recoverPewter_keep {s : State} (h0 : Keep q s) : Keep q (State.recoverPewter s) := by
  unfold State.recoverPewter
  dsimp only
  with_reducible repeat' first
    | assumption | apply State.freePages_keep | (fail_if_no_progress refine mk_keep ?_ rfl rfl rfl)

theorem State.trained_keep {s : State} {failed : List (Nat × Nat)} (h0 : Keep q s) :
    Keep q (State.trained s failed) := by
  unfold State.trained
  dsimp only
  with_reducible repeat' first
    | assumption | apply ite_keep | apply State.setStack_keep | apply State.setChan_keep | apply State.record_keep
    | apply State.fenceStack_keep | apply State.fenceChannel_keep | apply State.recoverPewter_keep
    | (fail_if_no_progress refine mk_keep ?_ rfl rfl rfl) | apply foldl_keep | (intro _ _ _)

theorem execIngotTrained_keep {failed : List (BitVec 2 × BitVec 4)} {s : State} (h0 : Keep q s) :
    KeepOut q (execIngotTrained failed s) := by
  unfold execIngotTrained
  dsimp only
  with_reducible repeat' first | assumption | apply due_keep | apply State.trained_keep

end

end Sys2Proof.Machine
end

