-- ==== Sys2Proof/Laws/KeepRegs.lean ====
section
/-! SUPPORT. Every operation and meaning of Machine/Regs.lean keeps the identity of the part and soundness. -/

namespace Sys2Proof.Machine

section
variable {q : Base}

theorem State.parityFault_keep {s : State} {a : Nat} (h0 : Keep q s) : Keep q (State.parityFault s a) := by
  unfold State.parityFault
  dsimp only
  with_reducible repeat' first
    | assumption | apply ite_keep | apply State.record_keep | apply State.enterX_keep
    | apply State.leaveService_keep | apply State.fencePort_keep | apply State.fenceLane_keep
    | apply State.fenceStack_keep | (fail_if_no_progress refine mk_keep ?_ rfl rfl rfl)

theorem State.parityCheck_keep {s : State} {a : Nat} (h0 : Keep q s) : Keep q (State.parityCheck s a) := by
  unfold State.parityCheck
  with_reducible repeat' first | assumption | apply ite_keep | apply State.parityFault_keep

theorem State.busError_keep {s : State} {w : Who} {a : Nat} (h0 : Keep q s) :
    Keep q (State.busError s w a) := by
  unfold State.busError
  dsimp only
  with_reducible repeat' first
    | assumption | apply State.bump_keep | (fail_if_no_progress refine mk_keep ?_ rfl rfl rfl)

theorem State.afterRead_keep {s : State} {a : Nat} (h0 : Keep q s) : Keep q (State.afterRead s a) := by
  unfold State.afterRead
  dsimp only
  with_reducible repeat' first
    | assumption | apply ite_keep | apply State.setCfg_keep | apply State.free_keep | apply State.setLane_keep
    | (fail_if_no_progress refine mk_keep ?_ rfl rfl rfl) | split

theorem State.readWord_keep {s : State} {w : Who} {a : Nat} (h0 : Keep q s) :
    KeepNum q (State.readWord s w a) := by
  unfold State.readWord
  with_reducible repeat' first
    | assumption | apply State.parityCheck_keep | apply State.afterRead_keep | apply nnone_keep | apply nsome_keep
    | split

theorem State.readAll_keep {s : State} {w : Who} {l : List Nat} (h0 : Keep q s) :
    KeepNum q (s.readAll w l) := by
  induction l generalizing s with
  | nil => exact nsome_keep h0
  | cons a l ih =>
    constructor
    intro n t ht
    rw [State.readAll] at ht
    obtain ⟨r, h1, h2⟩ := Option.bind_eq_some_iff.mp ht
    obtain ⟨q, h3, h4⟩ := Option.map_eq_some_iff.mp h2
    cases h4
    exact (ih ((State.readWord_keep h0).of r.1 r.2 h1)).of q.1 q.2 h3

theorem State.regRead_keep {s : State} {w : Who} {a : Nat} (h0 : Keep q s) :
    KeepNum q (State.regRead s w a) := by
  unfold State.regRead
  with_reducible repeat' first
    | assumption | apply State.parityCheck_keep | apply State.readWord_keep | apply State.readAll_keep
    | apply nite_keep | apply nnone_keep | apply nsome_keep | split

end

end Sys2Proof.Machine
end

