-- ==== Sys2Proof/Laws/KeepRegWrite.lean ====
section
/-! SUPPORT. Every operation and meaning of Machine/RegWrite.lean keeps the identity of the part and soundness. -/

namespace Sys2Proof.Machine

section
variable {q : Base}

theorem State.releaseHeld_keep {s : State} {m n : Nat} (h0 : Keep q s) :
    Keep q (State.releaseHeld m n s) := by
  induction n generalizing s with
  | zero => exact h0
  | succ n ih =>
    unfold State.releaseHeld
    dsimp only
    split
    · exact h0
    · apply ite_keep h0
      exact ih (State.writeCpl_keep (setMbx_keep h0 (mbxMk_keep (mbx_keep h0))))

theorem State.setRqTail_keep {s : State} {m : Nat} {v : Nat} (h0 : Keep q s) :
    KeepOpt q (State.setRqTail s m v) := by
  unfold State.setRqTail
  dsimp only
  with_reducible repeat' first
    | assumption | apply setMbx_keep | apply oite_keep | apply none_keep | apply some_keep | apply mbx_keep
    | (fail_if_no_progress apply mbxMk_keep)

theorem State.setCqHead_keep {s : State} {m : Nat} {v : Nat} (h0 : Keep q s) :
    KeepOpt q (State.setCqHead s m v) := by
  unfold State.setCqHead
  dsimp only
  with_reducible repeat' first
    | assumption | apply State.releaseHeld_keep | apply setMbx_keep | apply oite_keep | apply none_keep
    | apply some_keep | apply mbx_keep | (fail_if_no_progress apply mbxMk_keep)

theorem State.resetMbx_keep {s : State} {m : Nat} (h0 : Keep q s) : Keep q (State.resetMbx s m) := by
  unfold State.resetMbx
  dsimp only
  with_reducible repeat' first | assumption | apply ite_keep | apply setMbx_keep | apply mbxNil_keep

theorem State.fltCmd_keep {s : State} {v : Nat} (h0 : Keep q s) : Keep q (State.fltCmd s v) := by
  unfold State.fltCmd
  dsimp only
  with_reducible repeat' first
    | assumption | apply ite_keep | (fail_if_no_progress refine mk_keep ?_ rfl rfl rfl) | split

theorem State.pinLevel_keep {s : State} (h0 : Keep q s) : Keep q (State.pinLevel s) := by
  unfold State.pinLevel
  dsimp only
  with_reducible repeat' first
    | assumption | apply ite_keep | (fail_if_no_progress refine mk_keep ?_ rfl rfl rfl)

theorem State.burnKey_keep {s : State} (h0 : Keep q s) : Keep q (State.burnKey s) := by
  unfold State.burnKey
  dsimp only
  with_reducible repeat' first
    | assumption | apply ite_keep | (fail_if_no_progress refine mkf_keep ?_ rfl rfl rfl)

theorem State.fillPolicer_keep {s : State} {i : Nat} (h0 : Keep q s) : Keep q (State.fillPolicer s i) := by
  unfold State.fillPolicer
  dsimp only
  with_reducible repeat' first | assumption | (fail_if_no_progress refine mk_keep ?_ rfl rfl rfl)

theorem State.resetShaper_keep {s : State} {p : Nat} {k : Nat} (h0 : Keep q s) :
    Keep q (State.resetShaper s p k) := by
  unfold State.resetShaper
  dsimp only
  with_reducible repeat' first | assumption | apply State.setShaper_keep

theorem State.afterWrite_keep {s : State} {a : Nat} {old : Word} (h0 : Keep q s) :
    Keep q (State.afterWrite s a old) := by
  unfold State.afterWrite
  dsimp only
  with_reducible repeat' first
    | assumption | apply ite_keep | apply State.realert_keep | apply State.portOff_keep | apply State.fltCmd_keep
    | apply State.pinLevel_keep | apply State.fillPolicer_keep | apply State.resetShaper_keep
    | (fail_if_no_progress refine mk_keep ?_ rfl rfl rfl)

theorem State.unlockFail_keep {s : State} {c : Bool} (h0 : Keep q s) : Keep q (State.unlockFail s c) := by
  unfold State.unlockFail
  with_reducible repeat' first | assumption | apply ite_keep | apply State.bump_keep

theorem State.writeWord_keep {s : State} {w : Who} {key : Bool} {a : Nat} {v : Nat} (h0 : Keep q s) :
    KeepOpt q (State.writeWord s w key a v) := by
  unfold State.writeWord
  dsimp only
  with_reducible repeat' first
    | assumption | apply State.setCfg_keep | apply State.bump_keep | apply State.parityCheck_keep
    | apply State.setRqTail_keep | apply State.setCqHead_keep | apply State.resetMbx_keep | apply State.burnKey_keep
    | apply State.afterWrite_keep | apply State.unlockFail_keep | apply setMbx_keep
    | (fail_if_no_progress refine mk_keep ?_ rfl rfl rfl) | apply oite_keep | apply none_keep | apply some_keep
    | apply mbx_keep | apply mbxRq_keep | split

theorem State.writeAll_keep {s : State} {w : Who} {key : Bool} {v : Nat} {l : List Nat}
    (h0 : Keep q s) : KeepOpt q (s.writeAll w key v l) := by
  induction l generalizing s with
  | nil => exact some_keep h0
  | cons a l ih =>
    rw [State.writeAll]
    exact obind_keep (State.writeWord_keep h0) (fun t ht => ih ht)

theorem State.closeKey_keep {s : State} {w : Who} (h0 : Keep q s) : Keep q (State.closeKey s w) := by
  unfold State.closeKey
  dsimp only
  with_reducible repeat' first | assumption | (fail_if_no_progress refine mk_keep ?_ rfl rfl rfl)

theorem State.regWrite_keep {s : State} {w : Who} {a : Nat} {v : Nat} (h0 : Keep q s) :
    KeepOpt q (State.regWrite s w a v) := by
  unfold State.regWrite
  dsimp only
  with_reducible repeat' first
    | assumption | apply State.writeWord_keep | apply State.writeAll_keep | apply State.closeKey_keep
    | apply oite_keep | apply none_keep | apply some_keep | (apply opt_keep; assumption) | split

theorem State.access_keep {s : State} {w : Who} {a : Nat} (h0 : Keep q s) :
    Keep q (State.access s w a).1 := by
  unfold State.access
  with_reducible repeat' first
    | assumption | apply State.busError_keep | apply State.regRead_keep | apply nite_keep | apply nnone_keep
    | (apply num_keep; assumption) | split

theorem State.store_keep {s : State} {w : Who} {a : Nat} {v : Nat} (h0 : Keep q s) :
    Keep q (State.store s w a v).1 := by
  unfold State.store
  with_reducible repeat' first
    | assumption | apply State.busError_keep | apply State.closeKey_keep | apply State.regWrite_keep
    | apply oite_keep | apply none_keep | (apply opt_keep; assumption) | split

theorem State.busRead_keep {s : State} {w : Who} {a : Nat} (h0 : Keep q s) :
    Keep q (State.busRead s w a) := by
  unfold State.busRead
  dsimp only
  with_reducible repeat' first
    | assumption | apply State.access_keep | (fail_if_no_progress refine mk_keep ?_ rfl rfl rfl)

theorem State.busWrite_keep {s : State} {w : Who} {a : Nat} {v : Nat} (h0 : Keep q s) :
    Keep q (State.busWrite s w a v) := by
  unfold State.busWrite
  dsimp only
  with_reducible repeat' first
    | assumption | apply State.store_keep | (fail_if_no_progress refine mk_keep ?_ rfl rfl rfl)

end

end Sys2Proof.Machine
end

