-- ==== Sys2Proof/Laws/KeepAccess.lean ====
section
/-! SUPPORT. Every operation and meaning of Machine/Access.lean keeps the identity of the part and soundness. -/

namespace Sys2Proof.Machine

section
variable {q : Base}

theorem State.writeCmd_keep {s : State} {w : Who} {a : Nat} {v : Word} (h0 : Keep q s) :
    KeepOut q (State.writeCmd s w a v) := by
  unfold State.writeCmd
  with_reducible repeat' first | assumption | apply due_keep | apply State.busWrite_keep

theorem State.readCmd_keep {s : State} {w : Who} {a : Nat} (h0 : Keep q s) :
    KeepOut q (State.readCmd s w a) := by
  unfold State.readCmd
  with_reducible repeat' first | assumption | apply due_keep | apply State.busRead_keep

theorem execRegisterWrite_keep {w : Who} {a : BitVec 26} {v : Word} {s : State} (h0 : Keep q s) :
    KeepOut q (execRegisterWrite w a v s) := by
  unfold execRegisterWrite
  with_reducible repeat' first | assumption | apply State.writeCmd_keep

theorem execBitAliasWrite_keep {w : Who} {a : BitVec 26} {v : Word} {s : State} (h0 : Keep q s) :
    KeepOut q (execBitAliasWrite w a v s) := by
  unfold execBitAliasWrite
  with_reducible repeat' first | assumption | apply State.writeCmd_keep

theorem execBroadcastWrite_keep {w : Who} {a : BitVec 26} {v : Word} {s : State} (h0 : Keep q s) :
    KeepOut q (execBroadcastWrite w a v s) := by
  unfold execBroadcastWrite
  with_reducible repeat' first | assumption | apply State.writeCmd_keep

theorem execGroupWindowWrite_keep {w : Who} {a : BitVec 26} {v : Word} {s : State} (h0 : Keep q s) :
    KeepOut q (execGroupWindowWrite w a v s) := by
  unfold execGroupWindowWrite
  with_reducible repeat' first | assumption | apply State.writeCmd_keep

theorem execSysUnlock_keep {w : Who} {v : Word} {s : State} (h0 : Keep q s) :
    KeepOut q (execSysUnlock w v s) := by
  unfold execSysUnlock
  with_reducible repeat' first | assumption | apply State.writeCmd_keep

theorem execUnlockKeyTimeout_keep {s : State} (h0 : Keep q s) : KeepOut q (execUnlockKeyTimeout s) := by
  unfold execUnlockKeyTimeout
  dsimp only
  with_reducible repeat' first
    | assumption | apply due_keep | (fail_if_no_progress refine mk_keep ?_ rfl rfl rfl)

theorem execSysReset_keep {w : Who} {v : Word} {b : BootObs} {s : State} (h0 : Keep q s) :
    KeepOut q (execSysReset w v b s) := by
  unfold execSysReset
  dsimp only
  with_reducible repeat' first
    | assumption | apply ite_keep | apply due_keep | apply State.warm_keep | apply State.busWrite_keep

theorem execMbxRqTail_keep {w : Who} {m : BitVec 6} {v : Word} {s : State} (h0 : Keep q s) :
    KeepOut q (execMbxRqTail w m v s) := by
  unfold execMbxRqTail
  with_reducible repeat' first | assumption | apply State.writeCmd_keep

theorem execMbxCqHead_keep {w : Who} {m : BitVec 6} {v : Word} {s : State} (h0 : Keep q s) :
    KeepOut q (execMbxCqHead w m v s) := by
  unfold execMbxCqHead
  with_reducible repeat' first | assumption | apply State.writeCmd_keep

theorem execMbxCtlReset_keep {w : Who} {m : BitVec 6} {v : Word} {s : State} (h0 : Keep q s) :
    KeepOut q (execMbxCtlReset w m v s) := by
  unfold execMbxCtlReset
  with_reducible repeat' first | assumption | apply State.writeCmd_keep

theorem execFltCmdAck_keep {w : Who} {slot : BitVec 18} {s : State} (h0 : Keep q s) :
    KeepOut q (execFltCmdAck w slot s) := by
  unfold execFltCmdAck
  with_reducible repeat' first | assumption | apply State.writeCmd_keep

theorem execFltCmdClose_keep {w : Who} {slot : BitVec 18} {s : State} (h0 : Keep q s) :
    KeepOut q (execFltCmdClose w slot s) := by
  unfold execFltCmdClose
  with_reducible repeat' first | assumption | apply State.writeCmd_keep

theorem execSecCfgkeyBurn_keep {w : Who} {v : Word} {s : State} (h0 : Keep q s) :
    KeepOut q (execSecCfgkeyBurn w v s) := by
  unfold execSecCfgkeyBurn
  with_reducible repeat' first | assumption | apply State.writeCmd_keep

theorem execShaperWrite_keep {w : Who} {p : BitVec 6} {k : BitVec 2} {limit : Bool} {v : Word}
    {s : State} (h0 : Keep q s) : KeepOut q (execShaperWrite w p k limit v s) := by
  unfold execShaperWrite
  with_reducible repeat' first | assumption | apply State.writeCmd_keep

theorem execPolicerWrite_keep {w : Who} {i : BitVec 12} {r : PolReg} {v : Word} {s : State}
    (h0 : Keep q s) : KeepOut q (execPolicerWrite w i r v s) := by
  unfold execPolicerWrite
  with_reducible repeat' first | assumption | apply State.writeCmd_keep

theorem execWeightWrite_keep {w : Who} {p : BitVec 6} {v : Word} {s : State} (h0 : Keep q s) :
    KeepOut q (execWeightWrite w p v s) := by
  unfold execWeightWrite
  with_reducible repeat' first | assumption | apply State.writeCmd_keep

theorem execPortDisable_keep {w : Who} {p : BitVec 6} {v : Word} {s : State} (h0 : Keep q s) :
    KeepOut q (execPortDisable w p v s) := by
  unfold execPortDisable
  with_reducible repeat' first | assumption | apply State.writeCmd_keep

theorem execPrtVcLimitWrite_keep {w : Who} {p : BitVec 6} {vc : BitVec 4} {v : Word} {s : State}
    (h0 : Keep q s) : KeepOut q (execPrtVcLimitWrite w p vc v s) := by
  unfold execPrtVcLimitWrite
  with_reducible repeat' first | assumption | apply State.writeCmd_keep

theorem execPrtVcEnWrite_keep {w : Who} {p : BitVec 6} {v : Word} {s : State} (h0 : Keep q s) :
    KeepOut q (execPrtVcEnWrite w p v s) := by
  unfold execPrtVcEnWrite
  with_reducible repeat' first | assumption | apply State.writeCmd_keep

theorem execSldPoolCfgWrite_keep {w : Who} {second : Bool} {v : Word} {s : State} (h0 : Keep q s) :
    KeepOut q (execSldPoolCfgWrite w second v s) := by
  unfold execSldPoolCfgWrite
  with_reducible repeat' first | assumption | apply State.writeCmd_keep

theorem execSldRsvWrite_keep {w : Who} {pt : BitVec 7} {v : Word} {s : State} (h0 : Keep q s) :
    KeepOut q (execSldRsvWrite w pt v s) := by
  unfold execSldRsvWrite
  with_reducible repeat' first | assumption | apply State.writeCmd_keep

theorem execIrcNowLoRead_keep {w : Who} {s : State} (h0 : Keep q s) :
    KeepOut q (execIrcNowLoRead w s) := by
  unfold execIrcNowLoRead
  with_reducible repeat' first | assumption | apply State.readCmd_keep

theorem execSchTblDataRead_keep {w : Who} {s : State} (h0 : Keep q s) :
    KeepOut q (execSchTblDataRead w s) := by
  unfold execSchTblDataRead
  with_reducible repeat' first | assumption | apply State.readCmd_keep

theorem execRcRead_keep {w : Who} {a : BitVec 26} {s : State} (h0 : Keep q s) :
    KeepOut q (execRcRead w a s) := by
  unfold execRcRead
  with_reducible repeat' first | assumption | apply State.readCmd_keep

theorem execLowWordRead_keep {w : Who} {a : BitVec 26} {s : State} (h0 : Keep q s) :
    KeepOut q (execLowWordRead w a s) := by
  unfold execLowWordRead
  with_reducible repeat' first | assumption | apply State.readCmd_keep

theorem execConfigParityScan_keep {bad : Option (BitVec 26)} {s : State} (h0 : Keep q s) :
    KeepOut q (execConfigParityScan bad s) := by
  unfold execConfigParityScan
  dsimp only
  with_reducible repeat' first
    | assumption | apply due_keep | apply State.parityFault_keep
    | (fail_if_no_progress refine mk_keep ?_ rfl rfl rfl) | apply foldl_keep

theorem State.smbusCmd_keep {s : State} {pec : Bool} {t : State} (h0 : Keep q s) (h1 : Keep q t) :
    KeepOut q (State.smbusCmd s pec t) := by
  unfold State.smbusCmd
  dsimp only
  with_reducible repeat' first
    | assumption | apply ite_keep | apply due_keep | (fail_if_no_progress refine mk_keep ?_ rfl rfl rfl)

theorem execSmbusAddr_keep {pec : Bool} {wr : Option (BitVec 32)} {s : State} (h0 : Keep q s) :
    KeepOut q (execSmbusAddr pec wr s) := by
  unfold execSmbusAddr
  dsimp only
  with_reducible repeat' first
    | assumption | apply State.smbusCmd_keep | (fail_if_no_progress refine mk_keep ?_ rfl rfl rfl) | split

theorem State.smbusStore_keep {s : State} {l : List Word} (h0 : Keep q s) :
    Keep q (s.smbusStore l) := by
  induction l generalizing s with
  | nil => exact mk_keep h0 rfl rfl rfl
  | cons v l ih =>
    have h := State.store_keep (w := .smbus) (a := s.smb.ptr.toNat) (v := v.toNat) h0
    rw [State.smbusStore]
    exact ite_keep (ih (mk_keep h rfl rfl rfl)) (mk_keep h rfl rfl rfl)

theorem execSmbusDataWrite_keep {pec : Bool} {data : List Byte} {s : State} (h0 : Keep q s) :
    KeepOut q (execSmbusDataWrite pec data s) := by
  unfold execSmbusDataWrite
  dsimp only
  with_reducible repeat' first
    | assumption | apply ite_keep | apply State.smbusCmd_keep | apply State.smbusStore_keep

theorem State.smbusFetch_keep {n : Nat} {s : State} (h0 : Keep q s) :
    Keep q (State.smbusFetch n s).1 := by
  induction n generalizing s with
  | zero => exact mk_keep h0 rfl rfl rfl
  | succ n ih =>
    have h := State.access_keep (w := .smbus) (a := s.smb.ptr.toNat) h0
    rw [State.smbusFetch]
    exact ite1_keep (ih (mk_keep h rfl rfl rfl)) (mk_keep h rfl rfl rfl)

theorem execSmbusDataRead_keep {pec : Bool} {s : State} (h0 : Keep q s) :
    KeepOut q (execSmbusDataRead pec s) := by
  unfold execSmbusDataRead
  dsimp only
  with_reducible repeat' first
    | assumption | apply State.smbusCmd_keep | apply State.smbusFetch_keep
    | (fail_if_no_progress refine mk_keep ?_ rfl rfl rfl)

theorem execSmbusRdlen_keep {pec : Bool} {wr : Option Byte} {s : State} (h0 : Keep q s) :
    KeepOut q (execSmbusRdlen pec wr s) := by
  unfold execSmbusRdlen
  apply State.smbusCmd_keep h0
  split
  · rename_i v
    split
    · rename_i hv
      simp only [Bool.and_eq_true, decide_eq_true_eq] at hv
      exact ⟨h0.part, fun hq => by
        have i := h0.inv hq
        exact ⟨i.1, i.2.1, i.2.2.1, ⟨hv.1.1, hv.1.2, hv.2⟩, i.2.2.2.2⟩⟩
    · exact h0
  · exact mk_keep h0 rfl rfl rfl

theorem execSmbusStatus_keep {pec : Bool} {s : State} (h0 : Keep q s) :
    KeepOut q (execSmbusStatus pec s) := by
  unfold execSmbusStatus
  dsimp only
  with_reducible repeat' first
    | assumption | apply State.smbusCmd_keep | (fail_if_no_progress refine mk_keep ?_ rfl rfl rfl)

theorem execBypass_keep {s : State} (h0 : Keep q s) : KeepOut q (execBypass s) := by
  unfold execBypass
  dsimp only
  with_reducible repeat' first
    | assumption | apply due_keep | (fail_if_no_progress refine mk_keep ?_ rfl rfl rfl)

theorem execIdcode_keep {s : State} (h0 : Keep q s) : KeepOut q (execIdcode s) := by
  unfold execIdcode
  dsimp only
  with_reducible repeat' first
    | assumption | apply due_keep | (fail_if_no_progress refine mk_keep ?_ rfl rfl rfl)

theorem execSamplePreload_keep {pins : List Bool} {shift : List Bool} {s : State} (h0 : Keep q s) :
    KeepOut q (execSamplePreload pins shift s) := by
  unfold execSamplePreload
  dsimp only
  with_reducible repeat' first
    | assumption | apply due_keep | (fail_if_no_progress refine mk_keep ?_ rfl rfl rfl)

theorem execExtest_keep {pins : List Bool} {shift : List Bool} {s : State} (h0 : Keep q s) :
    KeepOut q (execExtest pins shift s) := by
  unfold execExtest
  dsimp only
  with_reducible repeat' first
    | assumption | apply due_keep | (fail_if_no_progress refine mk_keep ?_ rfl rfl rfl)

end

end Sys2Proof.Machine
end

