-- ==== Sys2Proof/Laws/KeepBoot.lean ====
section
/-! SUPPORT. Every operation and meaning of Machine/Boot.lean keeps the identity of the part and soundness. -/

namespace Sys2Proof.Machine

section
variable {q : Base}

theorem State.rebound_keep {s : State} {m : Nat} (h0 : Keep q s) : Keep q (State.rebound s m) := by
  unfold State.rebound
  with_reducible repeat' first | assumption | (fail_if_no_progress refine mk_keep ?_ rfl rfl rfl)

theorem State.openMbx_keep {s : State} {m : Nat} {rq : Nat} {cq : Nat} {owner : Option
    (BitVec 15 × Bool)} (h0 : Keep q s) : KeepOpt q (State.openMbx s m rq cq owner) := by
  unfold State.openMbx
  dsimp only
  with_reducible repeat' first
    | assumption | apply ite_keep | apply State.rebound_keep | apply setMbx_keep
    | (fail_if_no_progress refine mk_keep ?_ rfl rfl rfl) | apply oite_keep | apply none_keep | apply some_keep
    | apply mbxInit_keep | (fail_if_no_progress apply mbxMk_keep)

theorem State.applyPairs_keep {s : State} {bs : List Byte} {n k : Nat} (h0 : Keep q s) :
    Keep q (s.applyPairs bs n k).1 := by
  induction n generalizing s k with
  | zero => exact h0
  | succ n ih =>
    have h (t : State) (ht : Keep q t) : KeepOpt q (t.regWrite .brass (fld bs (8 + 8 * k) 4) (fld bs (12 + 8 * k) 4)) :=
      State.regWrite_keep ht
    rw [State.applyPairs]
    exact ite1_keep (ih (getD_keep h0 (h _ (mk_keep h0 rfl rfl rfl))))
      (State.busError_keep (State.closeKey_keep (mk_keep h0 rfl rfl rfl)))

theorem State.applyConfig_keep {s : State} {bs : List Byte} (h0 : Keep q s) :
    Keep q (State.applyConfig s bs) := by
  unfold State.applyConfig
  dsimp only
  with_reducible repeat' first
    | assumption | apply State.setCfg_keep | apply State.applyPairs_keep
    | (fail_if_no_progress refine mk_keep ?_ rfl rfl rfl)

theorem State.strapConflict_keep {s : State} {info : Nat} (h0 : Keep q s) :
    Keep q (State.strapConflict s info) := by
  unfold State.strapConflict
  dsimp only
  with_reducible repeat' first
    | assumption | apply ite_keep | apply State.record_keep | apply State.portOff_keep
    | (fail_if_no_progress refine mk_keep ?_ rfl rfl rfl) | apply foldl_keep | (intro _ _ _)

theorem State.sendHello_keep {s : State} {g : Nat} (h0 : Keep q s) : Keep q (State.sendHello s g) := by
  unfold State.sendHello
  dsimp only
  with_reducible repeat' first | assumption | apply State.sendGroup_keep | split

theorem State.resetExit_keep {s : State} (h0 : Keep q s) : Keep q (State.resetExit s) := by
  unfold State.resetExit
  dsimp only
  with_reducible repeat' first
    | assumption | apply ite_keep | apply State.openMbx_keep | apply State.applyConfig_keep
    | apply State.strapConflict_keep | apply State.sendHello_keep
    | (fail_if_no_progress refine mk_keep ?_ rfl rfl rfl) | apply foldl_keep | apply getD_keep

theorem execResetExit_keep {s : State} (h0 : Keep q s) : KeepOut q (execResetExit s) := by
  unfold execResetExit
  dsimp only
  with_reducible repeat' first
    | assumption | apply ite_keep | apply due_keep | apply State.boot_keep | apply State.resetExit_keep

theorem State.hello_keep {s : State} {f : Mgmt} {cell : Bool} (h0 : Keep q s) :
    Keep q (State.hello s f cell) := by
  unfold State.hello
  dsimp only
  with_reducible repeat' first
    | assumption | apply ite_keep | apply State.strapConflict_keep
    | (fail_if_no_progress refine mk_keep ?_ rfl rfl rfl)

theorem execHello_keep {f : Mgmt} {cell : Bool} {s : State} (h0 : Keep q s) :
    KeepOut q (execHello f cell s) := by
  unfold execHello
  with_reducible repeat' first
    | assumption | apply State.brassFrame_keep | apply State.hello_keep | (intro _ _)

theorem execHelloRepeat_keep {s : State} (h0 : Keep q s) : KeepOut q (execHelloRepeat s) := by
  unfold execHelloRepeat
  dsimp only
  with_reducible repeat' first
    | assumption | apply due_keep | apply State.sendHello_keep | (fail_if_no_progress refine mk_keep ?_ rfl rfl rfl)
    | apply foldl_keep

theorem execCellReset_keep {f : Mgmt} {s : State} (h0 : Keep q s) : KeepOut q (execCellReset f s) := by
  unfold execCellReset
  dsimp only
  with_reducible repeat' first
    | assumption | apply ite_keep | apply State.brassFrame_keep
    | (fail_if_no_progress refine mk_keep ?_ rfl rfl rfl) | (intro _ _)

theorem execCellResetEntry_keep {b : BootObs} {s : State} (h0 : Keep q s) :
    KeepOut q (execCellResetEntry b s) := by
  unfold execCellResetEntry
  dsimp only
  with_reducible repeat' first
    | assumption | apply due_keep | apply State.warm_keep | (fail_if_no_progress refine mk_keep ?_ rfl rfl rfl)
    | apply next_keep | split

theorem State.releaseCell_keep {s : State} (h0 : Keep q s) : Keep q (State.releaseCell s) := by
  unfold State.releaseCell
  dsimp only
  with_reducible repeat' first | assumption | (fail_if_no_progress refine mk_keep ?_ rfl rfl rfl)

theorem execCellRelease_keep {s : State} (h0 : Keep q s) : KeepOut q (execCellRelease s) := by
  unfold execCellRelease
  with_reducible repeat' first | assumption | apply due_keep | apply State.releaseCell_keep

theorem execCellReleaseTimeout_keep {s : State} (h0 : Keep q s) :
    KeepOut q (execCellReleaseTimeout s) := by
  unfold execCellReleaseTimeout
  with_reducible repeat' first | assumption | apply due_keep | apply State.releaseCell_keep

theorem execWarmReset_keep {cause : BitVec 4} {b : BootObs} {s : State} (h0 : Keep q s) :
    KeepOut q (execWarmReset cause b s) := by
  unfold execWarmReset
  dsimp only
  with_reducible repeat' first
    | assumption | apply due_keep | apply State.free_keep | apply State.record_keep | apply State.warm_keep
    | apply next_keep | apply outite_keep

theorem execResetN_keep {high : Bool} {width : BitVec 32} {b : BootObs} {s : State} (h0 : Keep q s) :
    KeepOut q (execResetN high width b s) := by
  unfold execResetN
  dsimp only
  with_reducible repeat' first
    | assumption | apply ite_keep | apply due_keep | apply State.boot_keep | apply State.unitsReset_keep
    | apply State.heldReset_keep | (fail_if_no_progress refine mk_keep ?_ rfl rfl rfl) | apply outite_keep

theorem execPwrgd_keep {high : Bool} {width : BitVec 32} {s : State} (h0 : Keep q s) :
    KeepOut q (execPwrgd high width s) := by
  unfold execPwrgd
  dsimp only
  with_reducible repeat' first
    | assumption | apply due_keep | apply State.heldReset_keep | (fail_if_no_progress refine mk_keep ?_ rfl rfl rfl)
    | apply next_keep | apply outite_keep

theorem execRefclkStop_keep {width : BitVec 32} {s : State} (h0 : Keep q s) :
    KeepOut q (execRefclkStop width s) := by
  unfold execRefclkStop
  dsimp only
  with_reducible repeat' first
    | assumption | apply ite_keep | apply due_keep | apply State.timeFault_keep
    | (fail_if_no_progress refine mk_keep ?_ rfl rfl rfl)

theorem execRefclkRestore_keep {s : State} (h0 : Keep q s) : KeepOut q (execRefclkRestore s) := by
  unfold execRefclkRestore
  dsimp only
  with_reducible repeat' first
    | assumption | (fail_if_no_progress refine mk_keep ?_ rfl rfl rfl) | apply next_keep

end

end Sys2Proof.Machine
end

