-- ==== Sys2Proof/Laws/KeepMailbox.lean ====
section
/-! SUPPORT. Every operation and meaning of Machine/Mailbox.lean keeps the identity of the part and soundness. -/

namespace Sys2Proof.Machine

section
variable {q : Base}

theorem State.refuse_keep {s : State} {c : Cmd} {result : Nat} {detail : Nat} (h0 : Keep q s) :
    Keep q (State.refuse s c result detail) := by
  unfold State.refuse
  with_reducible repeat' first | assumption | apply State.complete_keep

theorem State.startCmd_keep {s : State} {m : Nat} (h0 : Keep q s) : Keep q (State.startCmd s m) := by
  unfold State.startCmd
  dsimp only
  with_reducible repeat' first
    | assumption | apply setMbx_keep | apply mbx_keep | (fail_if_no_progress apply mbxMk_keep)

theorem State.takeEntry_keep {s : State} {m : BitVec 6} {test : Nat → List Byte → Bool}
    {run : State → Req → State} (h0 : Keep q s) (h1 : ∀ t r, Keep q t → Keep q (run t r)) :
    Keep q (s.takeEntry m test run) := by
  unfold State.takeEntry
  dsimp only
  apply ite_keep h0
  have h2 : Keep q (s.startCmd m.toNat) := State.startCmd_keep h0
  apply ite_keep (State.refuse_keep h2)
  split
  · exact State.refuse_keep h2
  · exact ite_keep (State.refuse_keep h2) (h1 _ _ h2)

theorem State.command_keep {s : State} {m : BitVec 6} {op : Nat}
    {run : State → Req → State} (h0 : Keep q s) (h1 : ∀ t r, Keep q t → Keep q (run t r)) :
    KeepOut q (s.command m op run) := next_keep (State.takeEntry_keep h0 h1)

theorem State.ok_keep {s : State} {r : Req} (h0 : Keep q s) : Keep q (State.ok s r) := by
  unfold State.ok
  with_reducible repeat' first | assumption | apply State.complete_keep

theorem execNop_keep {m : BitVec 6} {s : State} (h0 : Keep q s) : KeepOut q (execNop m s) := by
  unfold execNop
  with_reducible repeat' first | assumption | apply State.command_keep | apply State.ok_keep

theorem execIdentify_keep {m : BitVec 6} {s : State} (h0 : Keep q s) : KeepOut q (execIdentify m s) := by
  unfold execIdentify
  with_reducible repeat' first
    | assumption | apply State.complete_keep | apply State.command_keep | (intro _ _ _)

theorem State.runMbxOpen_keep {s : State} {r : Req} (h0 : Keep q s) : Keep q (State.runMbxOpen s r) := by
  unfold State.runMbxOpen
  with_reducible repeat' first
    | assumption | apply ite_keep | apply State.openMbx_keep | apply State.refuse_keep | apply State.ok_keep
    | (apply opt_keep; assumption) | split

theorem execMbxOpen_keep {m : BitVec 6} {s : State} (h0 : Keep q s) : KeepOut q (execMbxOpen m s) := by
  unfold execMbxOpen
  with_reducible repeat' first | assumption | apply State.command_keep | apply State.runMbxOpen_keep

theorem State.runMbxClose_keep {s : State} {r : Req} (h0 : Keep q s) : Keep q (State.runMbxClose s r) := by
  unfold State.runMbxClose
  dsimp only
  with_reducible repeat' first
    | assumption | apply ite_keep | apply State.tryClose_keep | apply State.refuse_keep | apply setMbx_keep
    | apply mbx_keep | (fail_if_no_progress apply mbxMk_keep)

theorem execMbxClose_keep {m : BitVec 6} {s : State} (h0 : Keep q s) : KeepOut q (execMbxClose m s) := by
  unfold execMbxClose
  with_reducible repeat' first | assumption | apply State.command_keep | apply State.runMbxClose_keep

theorem execBadOpcode_keep {m : BitVec 6} {s : State} (h0 : Keep q s) : KeepOut q (execBadOpcode m s) := by
  unfold execBadOpcode
  with_reducible repeat' first | assumption | apply State.takeEntry_keep | apply next_keep | (intro _ _ _)

end

end Sys2Proof.Machine
end

