-- ==== Sys2Proof/Laws/KeepXfer.lean ====
section
/-! SUPPORT. Every operation and meaning of Machine/Xfer.lean keeps the identity of the part and soundness. -/

namespace Sys2Proof.Machine

section
variable {q : Base}

theorem State.endXfer_keep {s : State} {h : Nat} (h0 : Keep q s) : Keep q (State.endXfer s h) := by
  unfold State.endXfer
  with_reducible repeat' first | assumption | apply State.freePages_keep | apply delXfer_keep

theorem State.freeHandle_keep {s : State} (h0 : Keep q s) : Keep q (State.freeHandle s).2 := by
  unfold State.freeHandle
  dsimp only
  with_reducible repeat' first | assumption | apply State.free_keep

theorem State.addXfer_keep {s : State} {r : Req} {h : Nat} {t : XTarget} (h0 : Keep q s) :
    Keep q (State.addXfer s r h t) := by
  unfold State.addXfer
  dsimp only
  with_reducible repeat' first
    | assumption | apply State.complete_keep | apply setXfer_keep | exact nil_keep

theorem State.runXferOpen_keep {s : State} {r : Req} (h0 : Keep q s) : Keep q (State.runXferOpen s r) := by
  unfold State.runXferOpen
  dsimp only
  with_reducible repeat' first
    | assumption | apply ite_keep | apply State.drawBufs_keep | apply State.drawShadow_keep
    | apply State.refuse_keep | apply State.freeHandle_keep | apply State.addXfer_keep | apply oite_keep
    | apply none_keep | (apply opt_keep; assumption) | split

theorem execXferOpen_keep {m : BitVec 6} {s : State} (h0 : Keep q s) : KeepOut q (execXferOpen m s) := by
  unfold execXferOpen
  with_reducible repeat' first | assumption | apply State.command_keep | apply State.runXferOpen_keep

theorem State.fillRegion_keep {s : State} {x : Xfer} {bs : List Byte} (h0 : Keep q s) :
    Keep q (State.fillRegion s x bs) := by
  unfold State.fillRegion
  with_reducible repeat' first
    | assumption | apply setRegion_keep | (apply region_keep <;> assumption) | apply splice_keep | split

theorem State.runXferClose_keep {s : State} {r : Req} (h0 : Keep q s) :
    Keep q (State.runXferClose s r) := by
  unfold State.runXferClose
  dsimp only
  with_reducible repeat' first
    | assumption | apply ite_keep | apply State.refuse_keep | apply State.ok_keep | apply State.endXfer_keep
    | apply State.fillRegion_keep | apply setXfer_keep
    | (dsimp only; first | apply nil_keep | apply xfer_keep <;> assumption | apply region_keep <;> assumption | apply splice_keep)
    | split

theorem execXferClose_keep {m : BitVec 6} {s : State} (h0 : Keep q s) : KeepOut q (execXferClose m s) := by
  unfold execXferClose
  with_reducible repeat' first | assumption | apply State.command_keep | apply State.runXferClose_keep

theorem State.runXferAbort_keep {s : State} {r : Req} (h0 : Keep q s) :
    Keep q (State.runXferAbort s r) := by
  unfold State.runXferAbort
  with_reducible repeat' first
    | assumption | apply State.refuse_keep | apply State.ok_keep | apply State.endXfer_keep | split

theorem execXferAbort_keep {m : BitVec 6} {s : State} (h0 : Keep q s) : KeepOut q (execXferAbort m s) := by
  unfold execXferAbort
  with_reducible repeat' first | assumption | apply State.command_keep | apply State.runXferAbort_keep

theorem State.runXferRead_keep {s : State} {r : Req} (h0 : Keep q s) : Keep q (State.runXferRead s r) := by
  unfold State.runXferRead
  dsimp only
  with_reducible repeat' first
    | assumption | apply ite_keep | apply State.sendBulk_keep | apply State.complete_keep | apply State.refuse_keep
    | split

theorem execXferRead_keep {m : BitVec 6} {s : State} (h0 : Keep q s) : KeepOut q (execXferRead m s) := by
  unfold execXferRead
  with_reducible repeat' first | assumption | apply State.command_keep | apply State.runXferRead_keep

end

end Sys2Proof.Machine
end

