-- ==== Sys2Proof/Laws/KeepPlan.lean ====
section
/-! SUPPORT. Every operation and meaning of Machine/Plan.lean keeps the identity of the part and soundness. -/

namespace Sys2Proof.Machine

section
variable {q : Base}

theorem State.drawBlock_keep {s : State} (h0 : Keep q s) : Keep q (State.drawBlock s) := by
  unfold State.drawBlock
  dsimp only
  with_reducible repeat' first
    | assumption | apply State.free_keep | (fail_if_no_progress refine mk_keep ?_ rfl rfl rfl)

theorem State.newJob_keep {s : State} (h0 : Keep q s) : Keep q (State.newJob s) := by
  unfold State.newJob
  with_reducible repeat' first | assumption | apply ite_keep | apply State.drawBlock_keep

theorem State.planJob_keep {s : State} {x : Nat} (h0 : Keep q s) : Keep q (State.planJob s x) := by
  unfold State.planJob
  dsimp only
  with_reducible repeat' first
    | assumption | apply ite_keep | apply State.free_keep | apply State.drawBlock_keep

theorem State.unreadyStep_keep {s : State} (h0 : Keep q s) : Keep q (State.unreadyStep s) := by
  unfold State.unreadyStep
  with_reducible repeat' first | assumption | apply ite_keep | apply State.barRelease_keep | split

theorem State.runCtxOpen_keep {s : State} {r : Req} (h0 : Keep q s) : Keep q (State.runCtxOpen s r) := by
  unfold State.runCtxOpen
  dsimp only
  with_reducible repeat' first
    | assumption | apply ite_keep | apply State.setCtx_keep | apply State.refuse_keep | apply State.ok_keep
    | apply State.newJob_keep | apply State.unreadyStep_keep

theorem execCtxOpen_keep {m : BitVec 6} {s : State} (h0 : Keep q s) : KeepOut q (execCtxOpen m s) := by
  unfold execCtxOpen
  with_reducible repeat' first | assumption | apply State.command_keep | apply State.runCtxOpen_keep

theorem State.waitCtx_keep {s : State} {x : Nat} {c : Cmd} (h0 : Keep q s) :
    Keep q (State.waitCtx s x c) := by
  unfold State.waitCtx
  dsimp only
  with_reducible repeat' first | assumption | apply State.setCtx_keep

theorem execCtxTeardown_keep {m : BitVec 6} {s : State} (h0 : Keep q s) :
    KeepOut q (execCtxTeardown m s) := by
  unfold execCtxTeardown
  with_reducible repeat' first
    | assumption | apply State.beginStop_keep | apply State.command_keep | apply State.waitCtx_keep | (intro _ _ _)

theorem State.runCtxReset_keep {s : State} {r : Req} (h0 : Keep q s) : Keep q (State.runCtxReset s r) := by
  unfold State.runCtxReset
  with_reducible repeat' first
    | assumption | apply ite_keep | apply State.beginStop_keep | apply State.ok_keep | apply State.waitCtx_keep

theorem execCtxReset_keep {m : BitVec 6} {s : State} (h0 : Keep q s) : KeepOut q (execCtxReset m s) := by
  unfold execCtxReset
  with_reducible repeat' first | assumption | apply State.command_keep | apply State.runCtxReset_keep

theorem State.asFixus_keep {s : State} {f : Nat} (h0 : Keep q s) : Keep q (State.asFixus s f) := by
  unfold State.asFixus
  dsimp only
  with_reducible repeat' first | assumption | (fail_if_no_progress refine mk_keep ?_ rfl rfl rfl)

theorem State.installPlan_keep {s : State} {x : Nat} {es : List (List Byte)} {gs : List GrpRec}
    (h0 : Keep q s) : Keep q (State.installPlan s x es gs) := by
  unfold State.installPlan
  dsimp only
  with_reducible repeat' first
    | assumption | apply State.setCtx_keep | apply State.freePages_keep
    | (fail_if_no_progress refine mk_keep ?_ rfl rfl rfl)

theorem State.runPlanLoad_keep {s0 : State} {r : Req} (h0 : Keep q s0) :
    Keep q (State.runPlanLoad s0 r) := by
  unfold State.runPlanLoad
  dsimp only
  with_reducible repeat' first
    | assumption | apply ite_keep | apply State.complete_keep | apply State.extend_keep | apply State.refuse_keep
    | apply State.endXfer_keep | apply State.planJob_keep | apply State.installPlan_keep | split

theorem execPlanLoad_keep {m : BitVec 6} {s : State} (h0 : Keep q s) : KeepOut q (execPlanLoad m s) := by
  unfold execPlanLoad
  with_reducible repeat' first | assumption | apply State.command_keep | apply State.runPlanLoad_keep

theorem State.runGroupSet_keep {s : State} {r : Req} (h0 : Keep q s) : Keep q (State.runGroupSet s r) := by
  unfold State.runGroupSet
  dsimp only
  with_reducible repeat' first
    | assumption | apply ite_keep | apply State.refuse_keep | apply State.ok_keep
    | (fail_if_no_progress refine mk_keep ?_ rfl rfl rfl) | split

theorem execGroupSet_keep {m : BitVec 6} {s : State} (h0 : Keep q s) : KeepOut q (execGroupSet m s) := by
  unfold execGroupSet
  with_reducible repeat' first | assumption | apply State.command_keep | apply State.runGroupSet_keep

theorem State.runTensorSet_keep {s : State} {r : Req} (h0 : Keep q s) :
    Keep q (State.runTensorSet s r) := by
  unfold State.runTensorSet
  dsimp only
  with_reducible repeat' first
    | assumption | apply ite_keep | apply State.setTensor_keep | apply State.refuse_keep | apply State.ok_keep
    | split

theorem execTensorSet_keep {m : BitVec 6} {s : State} (h0 : Keep q s) : KeepOut q (execTensorSet m s) := by
  unfold execTensorSet
  with_reducible repeat' first | assumption | apply State.command_keep | apply State.runTensorSet_keep

theorem State.runPoolSet_keep {s : State} {r : Req} (h0 : Keep q s) : Keep q (State.runPoolSet s r) := by
  unfold State.runPoolSet
  dsimp only
  with_reducible repeat' first
    | assumption | apply ite_keep | apply State.refuse_keep | apply State.ok_keep
    | (fail_if_no_progress refine mk_keep ?_ rfl rfl rfl)

theorem execPoolSet_keep {m : BitVec 6} {s : State} (h0 : Keep q s) : KeepOut q (execPoolSet m s) := by
  unfold execPoolSet
  with_reducible repeat' first | assumption | apply State.command_keep | apply State.runPoolSet_keep

theorem State.mapArr_keep {s : State} {e : List Byte} {x : Nat} {n : Nat} {arr : Nat} (h0 : Keep q s) :
    Keep q (State.mapArr s e x n arr) := by
  unfold State.mapArr
  with_reducible repeat' first | assumption | apply State.writeMap_keep

theorem State.takeArr_keep {s : State} {x : Nat} {n : Nat} {arr : Nat} {h : Nat} (h0 : Keep q s) :
    Keep q (State.takeArr s x n arr h) := by
  unfold State.takeArr
  dsimp only
  with_reducible repeat' first
    | assumption | apply State.freePages_keep | apply State.movePages_keep | apply delXfer_keep

theorem State.zeroArr_keep {s : State} {e : List Byte} {x : Nat} {n : Nat} {arr : Nat} (h0 : Keep q s) :
    KeepOpt q (State.zeroArr s e x n arr) := by
  unfold State.zeroArr
  dsimp only
  with_reducible repeat' first
    | assumption | apply State.freePages_keep | apply State.drawShadow_keep | apply State.mapArr_keep
    | apply omap_keep | (intro _ _)

theorem State.loadArrs_keep {s : State} {e : List Byte} {x n : Nat} {lost : Bool}
    {l : List (Nat × Nat)} (h0 : Keep q s) : KeepOpt q (s.loadArrs e x n lost l) := by
  induction l generalizing s with
  | nil => exact some_keep h0
  | cons p l ih =>
    rw [State.loadArrs]
    exact oite_keep (ih (State.mapArr_keep (State.takeArr_keep h0)))
      (oite_keep (obind_keep (State.zeroArr_keep h0) (fun t ht => ih ht)) (ih h0))

theorem State.runStateLoad_keep {s : State} {r : Req} (h0 : Keep q s) :
    Keep q (State.runStateLoad s r) := by
  unfold State.runStateLoad
  dsimp only
  with_reducible repeat' first
    | assumption | apply ite_keep | apply State.setTensor_keep | apply State.refuse_keep | apply State.ok_keep
    | apply State.loadArrs_keep | (apply opt_keep; assumption) | split

theorem execStateLoad_keep {m : BitVec 6} {s : State} (h0 : Keep q s) : KeepOut q (execStateLoad m s) := by
  unfold execStateLoad
  with_reducible repeat' first | assumption | apply State.command_keep | apply State.runStateLoad_keep

theorem State.runRegionAlloc_keep {s : State} {r : Req} (h0 : Keep q s) :
    Keep q (State.runRegionAlloc s r) := by
  unfold State.runRegionAlloc
  dsimp only
  with_reducible repeat' first
    | assumption | apply ite_keep | apply State.writeMap_keep | apply State.drawShadow_keep
    | apply State.refuse_keep | apply State.ok_keep | apply setRegion_keep | apply oite_keep | apply some_keep
    | apply omap_keep | exact nil_keep | (intro _ _) | (apply opt_keep; assumption) | split

theorem execRegionAlloc_keep {m : BitVec 6} {s : State} (h0 : Keep q s) :
    KeepOut q (execRegionAlloc m s) := by
  unfold execRegionAlloc
  with_reducible repeat' first | assumption | apply State.command_keep | apply State.runRegionAlloc_keep

theorem State.runRegionFree_keep {s : State} {r : Req} (h0 : Keep q s) :
    Keep q (State.runRegionFree s r) := by
  unfold State.runRegionFree
  dsimp only
  with_reducible repeat' first
    | assumption | apply ite_keep | apply State.freePages_keep | apply State.refuse_keep | apply State.ok_keep
    | apply delRegion_keep

theorem execRegionFree_keep {m : BitVec 6} {s : State} (h0 : Keep q s) :
    KeepOut q (execRegionFree m s) := by
  unfold execRegionFree
  with_reducible repeat' first | assumption | apply State.command_keep | apply State.runRegionFree_keep

end

end Sys2Proof.Machine
end

