-- ==== Sys2Proof/Laws/KeepPost.lean ====
section
/-! SUPPORT. Every operation and meaning of Machine/Post.lean keeps the identity of the part and soundness. -/

namespace Sys2Proof.Machine

section
variable {q : Base}

theorem State.refusePost_keep {s : State} {c : Cmd} {result : Nat} {detail : Nat} (h0 : Keep q s) :
    Keep q (State.refusePost s c result detail) := by
  unfold State.refusePost
  with_reducible repeat' first | assumption | apply State.complete_keep | apply State.countRefused_keep

theorem State.sendLate_keep {s : State} {d : List Byte} (h0 : Keep q s) : Keep q (State.sendLate s d) := by
  unfold State.sendLate
  with_reducible repeat' first | assumption | apply State.takeLate_keep

theorem State.noteStep_keep {s : State} {d : List Byte} (h0 : Keep q s) : Keep q (State.noteStep s d) := by
  unfold State.noteStep
  with_reducible repeat' first | assumption | apply ite_keep | apply State.setTensor_keep | split

theorem State.acceptColl_keep {s : State} {i : Nat} {c : Coll} (h0 : Keep q s) :
    Keep q (State.acceptColl s i c) := by
  unfold State.acceptColl
  with_reducible repeat' first
    | assumption | apply State.complete_keep | apply State.setColl_keep | apply State.trySlot_keep
    | apply State.fwdDesc_keep | apply State.noteStep_keep

theorem State.takeSlot_keep {s : State} {d : List Byte} {c : Cmd} (h0 : Keep q s) :
    Keep q (State.takeSlot s d c) := by
  unfold State.takeSlot
  dsimp only
  with_reducible repeat' first
    | assumption | apply ite_keep | apply State.freeSlot_keep | apply State.refusePost_keep
    | apply State.sendLate_keep | apply State.acceptColl_keep | (fail_if_no_progress refine mk_keep ?_ rfl rfl rfl)
    | (apply num_keep; assumption) | split

theorem State.enqueue_keep {s : State} {d : List Byte} {c : Cmd} (h0 : Keep q s) :
    Keep q (State.enqueue s d c) := by
  unfold State.enqueue
  dsimp only
  with_reducible repeat' first
    | assumption | apply State.raiseTo_keep | apply State.queueRoom_keep
    | (fail_if_no_progress refine mk_keep ?_ rfl rfl rfl) | apply getD_keep

theorem State.runCollPost_keep {s : State} {r : Req} (h0 : Keep q s) : Keep q (State.runCollPost s r) := by
  unfold State.runCollPost
  dsimp only
  with_reducible repeat' first
    | assumption | apply ite_keep | apply State.complete_keep | apply State.refusePost_keep
    | apply State.sendLate_keep | apply State.takeSlot_keep | apply State.enqueue_keep | split

theorem execCollPost_keep {m : BitVec 6} {s : State} (h0 : Keep q s) : KeepOut q (execCollPost m s) := by
  unfold execCollPost
  with_reducible repeat' first | assumption | apply State.command_keep | apply State.runCollPost_keep

theorem State.queueShrink_keep {s : State} (h0 : Keep q s) : Keep q (State.queueShrink s) := by
  unfold State.queueShrink
  with_reducible repeat' first | assumption | apply ite_keep | apply State.freePages_keep

theorem State.queueTake_keep {s : State} (h0 : Keep q s) : Keep q (State.queueTake s) := by
  unfold State.queueTake
  dsimp only
  with_reducible repeat' first
    | assumption | apply ite_keep | apply State.freeSlot_keep | apply State.acceptColl_keep
    | apply State.takeSlot_keep | apply State.queueShrink_keep | (fail_if_no_progress refine mk_keep ?_ rfl rfl rfl)
    | (apply num_keep; assumption) | split

theorem execLaunchQueueTake_keep {s : State} (h0 : Keep q s) : KeepOut q (execLaunchQueueTake s) := by
  unfold execLaunchQueueTake
  with_reducible repeat' first | assumption | apply due_keep | apply State.queueTake_keep

end

end Sys2Proof.Machine
end

