-- ==== Sys2Proof/Laws/KeepCommands.lean ====
section
/-! SUPPORT. Every operation and meaning of Machine/Commands.lean keeps the identity of the part and soundness. -/

namespace Sys2Proof.Machine

section
variable {q : Base}

theorem State.loadPort_keep {s : State} {p : Nat} {epoch : Nat} {len : Nat} {t : List Byte}
    (h0 : Keep q s) : Keep q (State.loadPort s p epoch len t).1 := by
  unfold State.loadPort
  dsimp only
  with_reducible repeat' first | assumption | apply State.setSlotTbl_keep | apply ite1_keep | split

theorem State.loadPorts_keep {s : State} {epoch : Nat} {len : Nat} {img : List Byte} (h0 : Keep q s) :
    Keep q (State.loadPorts s epoch len img).1 := by
  unfold State.loadPorts
  dsimp only
  with_reducible repeat' first | assumption | apply State.loadPort_keep | (intro _ _ _) | apply foldl1_keep

theorem State.sendTable_keep {s : State} {a : Nat} {i : Nat} {epoch : Nat} {len : Nat} {t : List Byte}
    (h0 : Keep q s) : Keep q (State.sendTable s a i epoch len t) := by
  unfold State.sendTable
  dsimp only
  with_reducible repeat' first | assumption | apply State.sendMgmt_keep | apply foldl_keep | (intro _ _ _)

theorem State.runSchedLoad_keep {s : State} {r : Req} (h0 : Keep q s) :
    Keep q (State.runSchedLoad s r) := by
  unfold State.runSchedLoad
  dsimp only
  with_reducible repeat' first
    | assumption | apply ite_keep | apply State.finishLoads_keep | apply State.extend_keep | apply State.refuse_keep
    | apply State.endXfer_keep | apply State.loadPorts_keep | apply State.sendTable_keep
    | (fail_if_no_progress refine mk_keep ?_ rfl rfl rfl) | apply foldl_keep | (intro _ _ _) | split

theorem execSchedLoad_keep {m : BitVec 6} {s : State} (h0 : Keep q s) : KeepOut q (execSchedLoad m s) := by
  unfold execSchedLoad
  with_reducible repeat' first | assumption | apply State.command_keep | apply State.runSchedLoad_keep

theorem State.tableAck_keep {s : State} {f : Mgmt} (h0 : Keep q s) : Keep q (State.tableAck s f) := by
  unfold State.tableAck
  dsimp only
  with_reducible repeat' first
    | assumption | apply ite_keep | apply State.finishLoads_keep
    | (fail_if_no_progress refine mk_keep ?_ rfl rfl rfl)

theorem execTableAck_keep {f : Mgmt} {s : State} (h0 : Keep q s) : KeepOut q (execTableAck f s) := by
  unfold execTableAck
  with_reducible repeat' first
    | assumption | apply State.brassFrame_keep | apply State.tableAck_keep | (intro _ _)

theorem State.runEpochArm_keep {s : State} {r : Req} (h0 : Keep q s) : Keep q (State.runEpochArm s r) := by
  unfold State.runEpochArm
  dsimp only
  with_reducible repeat' first
    | assumption | apply ite_keep | apply State.complete_keep | apply State.mapTbls_keep | apply State.refuse_keep
    | (fail_if_no_progress refine mk_keep ?_ rfl rfl rfl)

theorem execEpochArm_keep {m : BitVec 6} {s : State} (h0 : Keep q s) : KeepOut q (execEpochArm m s) := by
  unfold execEpochArm
  with_reducible repeat' first | assumption | apply State.command_keep | apply State.runEpochArm_keep

theorem State.runIrcStep_keep {s : State} {r : Req} (h0 : Keep q s) : Keep q (State.runIrcStep s r) := by
  unfold State.runIrcStep
  dsimp only
  with_reducible repeat' first
    | assumption | apply ite_keep | apply State.refuse_keep | (fail_if_no_progress refine mk_keep ?_ rfl rfl rfl)

theorem execIrcStep_keep {m : BitVec 6} {s : State} (h0 : Keep q s) : KeepOut q (execIrcStep m s) := by
  unfold execIrcStep
  with_reducible repeat' first | assumption | apply State.command_keep | apply State.runIrcStep_keep

theorem State.runConfigApply_keep {s : State} {r : Req} (h0 : Keep q s) :
    Keep q (State.runConfigApply s r) := by
  unfold State.runConfigApply
  dsimp only
  with_reducible repeat' first
    | assumption | apply ite_keep | apply State.refuse_keep | apply State.ok_keep | apply State.endXfer_keep
    | (fail_if_no_progress refine mk_keep ?_ rfl rfl rfl) | split

theorem execConfigApply_keep {m : BitVec 6} {s : State} (h0 : Keep q s) :
    KeepOut q (execConfigApply m s) := by
  unfold execConfigApply
  with_reducible repeat' first | assumption | apply State.command_keep | apply State.runConfigApply_keep

theorem State.runFwStage_keep {s : State} {r : Req} (h0 : Keep q s) : Keep q (State.runFwStage s r) := by
  unfold State.runFwStage
  dsimp only
  with_reducible repeat' first
    | assumption | apply ite_keep | apply State.refuse_keep | apply State.ok_keep | apply State.endXfer_keep
    | (fail_if_no_progress refine mk_keep ?_ rfl rfl rfl) | split

theorem execFwStage_keep {m : BitVec 6} {s : State} (h0 : Keep q s) : KeepOut q (execFwStage m s) := by
  unfold execFwStage
  with_reducible repeat' first | assumption | apply State.command_keep | apply State.runFwStage_keep

theorem State.runFwActivate_keep {s : State} {r : Req} (h0 : Keep q s) :
    Keep q (State.runFwActivate s r) := by
  unfold State.runFwActivate
  dsimp only
  with_reducible repeat' first
    | assumption | apply ite_keep | apply State.refuse_keep | apply State.ok_keep
    | (fail_if_no_progress refine mk_keep ?_ rfl rfl rfl) | (fail_if_no_progress refine mkf_keep ?_ rfl rfl rfl)

theorem execFwActivate_keep {m : BitVec 6} {s : State} (h0 : Keep q s) :
    KeepOut q (execFwActivate m s) := by
  unfold execFwActivate
  with_reducible repeat' first | assumption | apply State.command_keep | apply State.runFwActivate_keep

theorem State.fenceChannelCmd_keep {s : State} {r : Req} {k : Nat} {c : Nat} (h0 : Keep q s) :
    Keep q (State.fenceChannelCmd s r k c) := by
  unfold State.fenceChannelCmd
  dsimp only
  with_reducible repeat' first
    | assumption | apply ite_keep | apply State.setStack_keep | apply State.record_keep
    | apply State.queueFence_keep | apply State.ok_keep

theorem execIngFence_keep {m : BitVec 6} {s : State} (h0 : Keep q s) : KeepOut q (execIngFence m s) := by
  unfold execIngFence
  with_reducible repeat' first
    | assumption | apply State.command_keep | apply State.fenceChannelCmd_keep | (intro _ _ _)

theorem State.runPortEnable_keep {s : State} {r : Req} (h0 : Keep q s) :
    Keep q (State.runPortEnable s r) := by
  unfold State.runPortEnable
  dsimp only
  with_reducible repeat' first
    | assumption | apply ite_keep | apply State.setPort_keep | apply State.refuse_keep | apply State.ok_keep

theorem execPortEnable_keep {m : BitVec 6} {s : State} (h0 : Keep q s) :
    KeepOut q (execPortEnable m s) := by
  unfold execPortEnable
  with_reducible repeat' first | assumption | apply State.command_keep | apply State.runPortEnable_keep

theorem State.runUnitFence_keep {s : State} {r : Req} (h0 : Keep q s) :
    Keep q (State.runUnitFence s r) := by
  unfold State.runUnitFence
  dsimp only
  with_reducible repeat' first
    | assumption | apply ite_keep | apply State.record_keep | apply State.fenceEngine_keep
    | apply State.fenceTile_keep | apply State.fenceCluster_keep | apply State.fencePort_keep
    | apply State.fenceLane_keep | apply State.ok_keep | apply State.fenceChannelCmd_keep

theorem execUnitFence_keep {m : BitVec 6} {s : State} (h0 : Keep q s) : KeepOut q (execUnitFence m s) := by
  unfold execUnitFence
  with_reducible repeat' first | assumption | apply State.command_keep | apply State.runUnitFence_keep

theorem execResetWarm_keep {m : BitVec 6} {s : State} (h0 : Keep q s) : KeepOut q (execResetWarm m s) := by
  unfold execResetWarm
  dsimp only
  with_reducible repeat' first
    | assumption | apply State.takeEntry_keep | (fail_if_no_progress refine mk_keep ?_ rfl rfl rfl)
    | apply next_keep | (intro _ _ _)

theorem State.orderCell_keep {s : State} (h0 : Keep q s) : Keep q (State.orderCell s) := by
  unfold State.orderCell
  dsimp only
  with_reducible repeat' first
    | assumption | apply State.sendMgmt_keep | (fail_if_no_progress refine mk_keep ?_ rfl rfl rfl)
    | apply foldl_keep | (intro _ _ _)

theorem execResetWarmCell_keep {m : BitVec 6} {s : State} (h0 : Keep q s) :
    KeepOut q (execResetWarmCell m s) := by
  unfold execResetWarmCell
  with_reducible repeat' first
    | assumption | apply State.takeEntry_keep | apply State.orderCell_keep | apply next_keep | (intro _ _ _)

end

end Sys2Proof.Machine
end

