-- ==== Sys2Proof/Laws/KeepFrames.lean ====
section
/-! SUPPORT. Every operation and meaning of Machine/Frames.lean keeps the identity of the part and soundness. -/

namespace Sys2Proof.Machine

section
variable {q : Base}

theorem State.sendError_keep {s : State} {f : Mgmt} {msub : Nat} {reason : Nat} {index : Nat}
    (h0 : Keep q s) : Keep q (State.sendError s f msub reason index) := by
  unfold State.sendError
  with_reducible repeat' first | assumption | apply State.sendMgmt_keep

theorem State.ringStore_keep {s : State} {f : Mgmt} (h0 : Keep q s) : Keep q (State.ringStore s f) := by
  unfold State.ringStore
  dsimp only
  with_reducible repeat' first
    | assumption | apply ite_keep | apply State.rebound_keep | apply setMbx_keep | apply mbx_keep | apply mbxRq_keep

theorem State.ringWrite_keep {s : State} {f : Mgmt} (h0 : Keep q s) : Keep q (State.ringWrite s f) := by
  unfold State.ringWrite
  dsimp only
  with_reducible repeat' first
    | assumption | apply ite_keep | apply State.setRqTail_keep | apply State.sendError_keep
    | apply State.ringStore_keep | (fail_if_no_progress refine mk_keep ?_ rfl rfl rfl) | apply getD_keep | split

theorem execRingWrite_keep {f : Mgmt} {s : State} (h0 : Keep q s) : KeepOut q (execRingWrite f s) := by
  unfold execRingWrite
  with_reducible repeat' first
    | assumption | apply State.brassFrame_keep | apply State.ringWrite_keep | (intro _ _)

theorem State.bulkStore_keep {s : State} {f : Mgmt} (h0 : Keep q s) : Keep q (State.bulkStore s f) := by
  unfold State.bulkStore
  dsimp only
  with_reducible repeat' first
    | assumption | apply setXfer_keep | (apply xfer_keep <;> assumption) | apply splice_keep | split

theorem execBulkWrite_keep {f : Mgmt} {s : State} (h0 : Keep q s) : KeepOut q (execBulkWrite f s) := by
  unfold execBulkWrite
  with_reducible repeat' first
    | assumption | apply State.brassFrame_keep | apply State.sendError_keep | apply State.bulkStore_keep
    | (intro _ _) | split

theorem State.sendRegData_keep {s : State} {f : Mgmt} {bs : List Byte} (h0 : Keep q s) :
    Keep q (State.sendRegData s f bs) := by
  unfold State.sendRegData
  with_reducible repeat' first | assumption | apply State.sendMgmt_keep

theorem State.readWords_keep {w : Who} {n k a : Nat} {s : State} {bs : List Byte} (h0 : Keep q s) :
    Keep q (State.readWords w n k a s bs).1 := by
  induction k generalizing s a bs with
  | zero => exact h0
  | succ k ih =>
    have h := State.access_keep (w := w) (a := a) h0
    rw [State.readWords]
    exact ite1_keep (ih h) h

theorem State.regReads_keep {s : State} {f : Mgmt} (h0 : Keep q s) : Keep q (State.regReads s f) := by
  unfold State.regReads
  dsimp only
  with_reducible repeat' first
    | assumption | apply ite_keep | apply State.sendError_keep | apply State.sendRegData_keep
    | apply State.readWords_keep | (apply fst_keep; assumption) | split

theorem execRegRead_keep {f : Mgmt} {s : State} (h0 : Keep q s) : KeepOut q (execRegRead f s) := by
  unfold execRegRead
  with_reducible repeat' first
    | assumption | apply State.brassFrame_keep | apply State.regReads_keep | (intro _ _)

theorem State.writeWords_keep {w : Who} {l : List Word} {a i : Nat} {s : State} (h0 : Keep q s) :
    Keep q (State.writeWords w l a i s).1 := by
  induction l generalizing s a i with
  | nil => exact h0
  | cons v l ih =>
    have h := State.store_keep (w := w) (a := a) (v := v.toNat) h0
    rw [State.writeWords]
    exact ite1_keep (ih h) h

theorem State.regWrites_keep {s : State} {f : Mgmt} (h0 : Keep q s) : Keep q (State.regWrites s f) := by
  unfold State.regWrites
  dsimp only
  with_reducible repeat' first
    | assumption | apply ite_keep | apply State.sendError_keep | apply State.sendRegData_keep
    | apply State.writeWords_keep | (apply fst_keep; assumption) | split

theorem execRegWrite_keep {f : Mgmt} {s : State} (h0 : Keep q s) : KeepOut q (execRegWrite f s) := by
  unfold execRegWrite
  with_reducible repeat' first
    | assumption | apply State.brassFrame_keep | apply State.regWrites_keep | (intro _ _)

end

end Sys2Proof.Machine
end

