-- ==== Sys2Proof/Laws/KeepSec.lean ====
section
/-! SUPPORT. Every operation and meaning of Machine/Sec.lean keeps the identity of the part and soundness. -/

namespace Sys2Proof.Machine

section
variable {q : Base}

theorem State.signQuote_keep {s : State} {c : Cmd} {nonce : List Byte} {tag : Nat} {leaf : Nat}
    (h0 : Keep q s) : Keep q (State.signQuote s c nonce tag leaf) := by
  unfold State.signQuote
  dsimp only
  with_reducible repeat' first
    | assumption | apply State.sendBulk_keep | apply State.complete_keep
    | (fail_if_no_progress refine mk_keep ?_ rfl rfl rfl)

theorem State.tryQuote_keep {s : State} {c : Cmd} {nonce : List Byte} {tag : Nat} (h0 : Keep q s) :
    Keep q (State.tryQuote s c nonce tag) := by
  unfold State.tryQuote
  dsimp only
  with_reducible repeat' first
    | assumption | apply ite_keep | apply State.refuse_keep | apply State.signQuote_keep
    | (fail_if_no_progress refine mk_keep ?_ rfl rfl rfl) | (fail_if_no_progress refine mkf_keep ?_ rfl rfl rfl)
    | split

theorem execAttestQuote_keep {m : BitVec 6} {s : State} (h0 : Keep q s) :
    KeepOut q (execAttestQuote m s) := by
  unfold execAttestQuote
  with_reducible repeat' first
    | assumption | apply State.command_keep | apply State.tryQuote_keep | (intro _ _ _)

theorem State.treeDone_keep {s : State} (h0 : Keep q s) : Keep q (State.treeDone s) := by
  unfold State.treeDone
  dsimp only
  with_reducible repeat' first
    | assumption | apply State.tryQuote_keep | (fail_if_no_progress refine mk_keep ?_ rfl rfl rfl)
    | apply foldl_keep | (intro _ _ _)

theorem execTreeStartDone_keep {burned : Bool} {s : State} (h0 : Keep q s) :
    KeepOut q (execTreeStartDone burned s) := by
  unfold execTreeStartDone
  with_reducible repeat' first
    | assumption | apply ite_keep | apply due_keep | apply State.enterX_keep | apply State.treeDone_keep

end

end Sys2Proof.Machine
end

