-- ==== Sys2Proof/WellFormed.lean ====
section
/-! DEFINITION. Well-formed commands: operands that name something the device has, and frames, flits and
messages of lengths the spec allows. -/

namespace Sys2Proof

/-- A frame holds FRAME_LEN bytes, 32 of header and at most 15,328 of payload (06 R145). -/
def Frame.wf (f : Frame) : Bool :=
  f.hdr.frameLen.toNat == 32 + f.payload.length && decide (f.payload.length ≤ 15328)

/-- A flit is 256 bytes (05 R123). -/
def rawOk (raw : List Byte) : Bool := raw.length == 256

/-- A codeword of the lane code has 542 symbols (05 R109). -/
def laneWordOk (w : LaneWord) : Bool := w.syms.length == 542

/-- 64 inner UI at one phase, and twice the 40 UI of a marker (05 R111, R114). -/
def MarkerObs.wf (o : MarkerObs) : Bool := o.inner.length == 64 && o.first.length == 40 && o.second.length == 40

/-- A codeword of Ingot takes 36 bytes (12 R326). -/
def storedOk (w : List Byte) : Bool := w.length == 36

/-- A MGMT frame holds at most 15,328 bytes of payload (06 R145). -/
def Mgmt.wf (f : Mgmt) : Bool := decide (f.payload.length ≤ 15328)

/-- Lanes L000 to L255 and spares SP0 to SP7 (02 R41, 05 R107). -/
def laneOk (l : BitVec 9) : Bool := decide (l.toNat < 264)

/-- The 80 attachment points of Solder (02 R46). -/
def pointOk (p : BitVec 7) : Bool := decide (p.toNat < 80)

/-- Is a command well formed? A row of a channel holds 32 codewords (12 R316, R326). -/
def Instr.wf : Instr → Bool
  | .ringWrite f | .bulkWrite f | .regRead f | .regWrite f | .heldDesc f | .tableAck f | .hello f _
  | .cellReset f => f.wf
  | .frameIngress _ f | .contribReceive _ f _ | .partialReceive _ f _ | .returnReceive _ f
  | .completionReceive _ f | .lookupReceive _ f | .sourceReceive _ f | .convertedReceive _ f
  | .resultReceive _ f => f.wf
  | .flitReceive _ raw ws => rawOk raw && ws.all laneWordOk
  | .badCrcFlit _ raw ws => rawOk raw && ws.all laneWordOk
  | .fomReport l _ => laneOk l
  | .txEqReq l _ => laneOk l
  | .param l _ => laneOk l
  | .ready l _ => laneOk l
  | .trainingPhaseDone l _ => laneOk l
  | .trainingPhaseTimeout l => laneOk l
  | .markerLock l o => laneOk l && o.wf
  | .markerLoss l ms => laneOk l && ms.all (fun m => m.length == 40)
  | .fomWindow l _ => laneOk l
  | .loopLockLoss l => laneOk l
  | .sldRsvWrite _ p _ => pointOk p
  | .creditSync _ _ lims => lims.length == 16
  | .smbusDataWrite _ d => decide (d.length ≤ 255)
  | .scrubRow _ _ ws => ws.length == 32 && ws.all storedOk
  | .uncorrectableCodeword _ w => storedOk w
  | _ => true

end Sys2Proof
end

