-- ==== Sys2Proof/Tests/Slice0.lean ====
section
/-! SUPPORT. Tests: values the spec works out itself, ill-formed commands that the well-formedness check refuses, and
for every clause of the obligations that has hypotheses a concrete state and operands that meet them all. -/

namespace Sys2Proof.Tests

open Sys2Proof Sys2Proof.Machine

set_option Elab.async false
set_option linter.unusedVariables false

/-! ### Small states -/

/-- A Fixus that runs: cell mode, alone in a hall of 1 × 1, LOCKED, training begun. -/
def up : State := { State.reset with
  clk := 10000000000,
  sys := { Sys.init with fwReady := true, otpRead := true, configured := true, training := true, hx := 1, hy := 1 },
  irc := { Irc.init with state := .locked, count := 1000000 } }

/-- The same in a hall of 2 × 1 in hall mode, at position (1, 0). -/
def hall2 : State := { up with
  sys := { up.sys with hx := 2, block := (0, 0, 2, 1) }, irc := { up.irc with hall := true },
  pins := { up.pins with sw := 4, hostbr := false } }

/-- With all sixteen register keys of the test's requester open. -/
def keyed (s : State) : State := { s with sys := { s.sys with keys := [⟨.brass, 10000000000⟩] } }

/-- Mailbox 0 open, with one request of an opcode and ARGS at its head. -/
def boxOn (s : State) (op : Nat) (args : List Byte) : State :=
  s.setMbx 0 { Mbx.init with
    opened := true, rqPages := 1, cqPages := 1, rqTail := 1,
    rq := Mem.splice [] 0 (toLe 2 op ++ [0, BitVec.ofNat 8 (cdiv args.length 8)] ++ toLe 4 7 ++ List.replicate 24 0 ++ args) }

def box (op : Nat) (args : List Byte) : State := boxOn up op args

/-- A port in service with credits on every channel. -/
def lit : Port := { Port.init with
  st := .active, lanes := 15, rxLanes := 15, avail := (List.range 16).map (fun v => (v, 64)) }

/-- Port `p` as given. -/
def onPort (p : Nat) (q : Port) : State := up.setPort p q

def hdr0 : Header :=
  { dest := 0x4000, src := 0, ftype := 0, ctx := 0, gen := 5, flowSeq := 0, frameLen := 36, esc := false,
    sched := false, newflow := false, single := false, spray := false, hops := 32, mcast := 0, path := 0,
    collId := 1, offset := 0, ts := 0, rsv := 0 }

def frame0 : Frame := { vc := 2, hdr := hdr0, payload := [1, 2, 3, 4] }

def flit0 : Flit :=
  { typ := 0, vc := 0, sof := false, eof := false, bad := false, len := 0, seq := 0, ackSeq := 0, crVc := 2,
    crCount := 3, rsv := 0, payload := List.replicate 240 0 }

def mgmt0 : Mgmt := { port := 40, src := 0x4040, host := false, mbx := 0, tag := 9, offset := 0, arg := 0, payload := [] }

def time0 : TimeMsg :=
  { locked := false, master := false, hall := false, seq := 1, hops := 1, source := 0x4040, t1 := ⟨0, 0⟩, t2 := ⟨0, 0⟩,
    t3 := ⟨0, 0⟩, candidate := 0x4000 }

def flow0 : Flow :=
  { st := .sOpen, src := 1, dest := 0x41, ctx := 0, vc := 10, num := 0, held := [], gap := none, last := 0,
    close := none, waiting := [] }

def flowMsg0 : FlowMsg := { source := 0x4040, target := 0x4000, src := 1, dest := 0x41, ctx := 0, vc := 10, last := 0xFFFF }

def open0 : Ctx := { Ctx.init with st := .opened, gen := 5, budget := 2000 }

def withCtx (s : State) (c : Ctx) : State := { s with ctxs := [(0, c)] }

/-- A BARRIER descriptor of context 0 over group 0 with its launch count. -/
def barrier (l : Nat) : List Byte :=
  [3, 0] ++ toLe 2 5 ++ toLe 4 1 ++ toLe 8 l ++ toLe 4 0 ++ toLe 2 0 ++ toLe 2 0xFFFF ++ [0, 0, 0, 1] ++
  List.replicate 100 0

/-- A STEP descriptor of context 0 over group 0 and tensor 0 of 4 elements. -/
def stepDesc (cfmt : Byte) : List Byte :=
  [1, 0] ++ toLe 2 5 ++ toLe 4 1 ++ toLe 8 900000 ++ toLe 4 1 ++ toLe 2 0 ++ toLe 2 0 ++ [cfmt, 0, 0, 1] ++ toLe 4 0 ++
  toLe 8 4 ++ List.replicate 88 0

def coll0 (d : List Byte) : Coll :=
  { desc := d, cmd := ⟨0, 0, 7, 0, 0x201⟩, launch := dLaunch d, unscheduled := false, launched := false, heldAt := none,
    ring := false, nodes := [], root := none, decided := none, record := none, ret := none, home := none, kern := none,
    frozenVer := 0, stopAt := none, wImage := [] }

def group0 : Group := { ctx := 0, cls := 0, active := true, members := [0] }

/-- A running Fixus with context 0, group 0 of accelerator 0, and that accelerator present. -/
def job : State := { withCtx (up.setPort 0 lit) open0 with groups := [(0, group0)] }

/-- The same with one collective in slot 3. -/
def held (c : Coll) : State := { job with slots := [(3, c)] }

/-- A tensor of 4 FP32 elements under rule GD owned here, at step 0. -/
def entry0 : List Byte :=
  [3, 0, 0, 0] ++ toLe 2 0x4000 ++ toLe 2 0 ++ toLe 8 4 ++ toLe 4 1 ++ toLe 4 4 ++ List.replicate 104 0

/-- The same as a twin tensor of which this Fixus is the mirror. -/
def twin0 : List Byte :=
  [3, 128, 0, 0] ++ toLe 2 0x4010 ++ toLe 2 0x4000 ++ toLe 8 4 ++ toLe 4 1 ++ toLe 4 4 ++ List.replicate 104 0

def tensor0 : Tensor :=
  { entry := entry0, ver := { Version.init with lost := false }, w := [0, 0, 0, 0], m1 := [0, 0, 0, 0], m2 := [],
    calm := 0, maxStep := 0, acting := false, twinDig := none, theirDig := none, onStacks := [0, 1, 2, 3] }

def withTensor (s : State) (t : Tensor) : State := { s with tensors := [(0, t)] }

def upd0 (p : Phase) : Update :=
  { ctx := 0, cid := 1, phase := p, conds := 0, lowest := 0xFFFF, w := [0, 0, 0, 0], m1 := [0, 0, 0, 0], m2 := [], u := [],
    x := [], a := [], b := [], o := [0, 0, 0, 0], ssq := 0, image := [], pdig := 0, partFail := 0, nonfin := false,
    changes := true, setStep := true, mirror := false, tag := 0 }

def page0 : QEnt :=
  { inp := 40, outs := [0], mc := false, frame := frame0, id := 1, cells := 1, passed := [], since := 0, noRoute := none,
    sent := false, noCredit := none, atUnit := none }

def arm0 : Arm := ⟨0, 3, 1030000, false, false, false, false, false, none⟩

def boot0 : BootObs := ⟨true, true, true, 0, false, true, 0, 0xFFFF, 0xFFFFFFFFFFFFFFFF, 0xFF⟩

/-- A kernel descriptor: kind, then the fields of `l` from byte 64 on. -/
def kernelDesc (k : Byte) (elems : Nat) (l : List Byte) : List Byte :=
  [k, 0] ++ toLe 2 5 ++ toLe 4 1 ++ toLe 8 900000 ++ toLe 4 0 ++ toLe 2 0 ++ toLe 2 0xFFFF ++ [0, 0, 0, 2] ++ toLe 4 0 ++
  toLe 8 elems ++ List.replicate 24 0 ++ l ++ List.replicate (64 - l.length) 0

def notice0 : Notice := { ctx := 0, gen := 5, source := 0x4040, d := 1000000, lost := 0x4010, flags := 1 }

def txf (n : BitVec 13) : TxFlit := { pay := .idle, vc := 0, seq := n, ack := 0, crVc := 0, crCount := 0 }

/-- The queue entry of a MGMT frame of subtype `k` for this Fixus's Brass. -/
def mgmtQ (k : Nat) (m : Mgmt) : QEnt :=
  { page0 with
    inp := m.port.toNat, outs := [79], atUnit := some 0,
    frame := { frame0 with
      vc := 0, payload := m.payload, hdr := { hdr0 with
        ftype := BitVec.ofNat 8 ftMgmt, src := m.src, offset := m.offset,
        ts := BitVec.ofNat 64 (k + 2 ^ 8 * m.mbx.toNat + 2 ^ 14 * b2n m.host + 2 ^ 16 * m.tag.toNat + 2 ^ 32 * m.arg.toNat) } } }

def withMgmt (k : Nat) (m : Mgmt) : State :=
  { up with sol := { up.sol with queues := [mgmtQ k m], cells := [(64, { inp := 40, vc := 0, copies := 1 })] } }

/-- A sideband message as its two like words (05 R113). -/
def word (t sb lane port : Nat) : BitVec 40 := framingWord (BitVec.ofNat 28 (2 ^ 24 * t + sb)) lane port
def said (t sb lane port : Nat) : List (BitVec 40) := [word t sb lane port, word t sb lane port]

/-- Codeword results that pass phase 5. -/
def phase0 : PhaseObs := ⟨0, 0, 100000, 1, 0⟩

/-- A codeword of zeros with an error on data line 71. -/
def line71 : List Byte := List.replicate 35 0 ++ [0x10]

/-- Alignment found at once. -/
def marker0 : MarkerObs := ⟨List.replicate 64 1, markerLevels, markerLevels, 2048, 5⟩

/-! ### Small lemmas for the witnesses -/

theorem some_pair {α β : Type} {o : Option (α × β)} (h : o.isSome = true) : o = some ((o.get h).1, (o.get h).2) :=
  (Option.some_get h).symm

theorem freeSlot_isSome {s : State} (h : (tfind s.slots 5).isNone = true) : s.freeSlot.isSome = true := by
  have hm : 5 ∈ (List.range 4096).filter (fun i => (tfind s.slots i).isNone) := by
    simp only [List.mem_filter, List.mem_range]; exact ⟨by decide, h⟩
  have hl := List.length_pos_of_mem hm
  simp only [State.freeSlot, Option.isSome_map]
  rw [List.getElem?_eq_getElem (Nat.mod_lt _ hl)]
  rfl

theorem nextChan_free {s : State} {k c : Nat} (n : Nat) : ∀ x, s.nextChan k n x = some c → (s.freeOn k c).isEmpty = false := by
  induction n with
  | zero => intro x h; simp only [State.nextChan] at h; contradiction
  | succ n ih =>
    intro x h
    simp only [State.nextChan] at h
    cases he : (s.freeOn k (x % 16)).isEmpty with
    | true => rw [he] at h; exact ih _ h
    | false => rw [he] at h; rw [← Option.some.inj h]; exact he

theorem drawPage_isSome {s : State} {k : Nat} {h : Holder} (hc : (s.nextChan k 16 (s.stack k).rrCh).isSome = true) :
    (s.drawPage k h).isSome = true := by
  unfold State.drawPage
  generalize s.free = f
  split
  · rename_i hn; rw [hn] at hc; contradiction
  · rename_i c hn
    have hp := List.isEmpty_eq_false_iff.mp (nextChan_free _ _ hn)
    generalize s.freeOn k c = l at hp ⊢
    have hl : f.1 % l.length < l.length := Nat.mod_lt _ (List.length_pos_iff.mpr hp)
    simp only [List.getElem?_eq_getElem hl, Option.isSome_some]

theorem drawPages_one {s : State} {l : List (Nat × Holder)} {k : Nat} {h : Holder} (hl : l = [(k, h)])
    (hc : (s.nextChan k 16 (s.stack k).rrCh).isSome = true) : (s.drawPages l).isSome = true := by
  subst hl
  obtain ⟨t, ht⟩ := Option.isSome_iff_exists.mp (drawPage_isSome (h := h) hc)
  simp only [State.drawPages, ht, Option.bind_some, Option.isSome_some]

theorem drawShadow_one {s : State} {c tag : Nat} {l : List (Nat × Holder)} {k : Nat} {h : Holder} (hl : l = [(k, h)])
    (hp : (s.poolFirst 3 tag && s.shadowFor c l.length) = true) (hc : (s.nextChan k 16 (s.stack k).rrCh).isSome = true) :
    (s.drawShadow c tag l).isSome = true := by
  unfold State.drawShadow
  rw [hp]
  exact drawPages_one hl hc

theorem clean_row : (List.replicate 32 (List.replicate 36 0)).map codewordOf = List.replicate 32 .clean := by
  rw [List.map_replicate]; exact congrArg _ (by decide +kernel)

theorem line_row : (List.replicate 32 line71).map codewordOf = List.replicate 32 (.corrected (some 71)) := by
  rw [List.map_replicate]; exact congrArg _ (by decide +kernel)

theorem toLe_length (n v : Nat) : (toLe n v).length = n := by
  induction n generalizing v with
  | zero => rfl
  | succ n ih => simp [toLe, ih]

theorem toLe_read (n : Nat) (h : n < 2 ^ 32) : leNat (toLe 4 n) = n := by
  simp only [toLe, leNat, BitVec.toNat_ofNat]; omega

theorem rxFlit_own (f : Flit) (hl : (flitBody f).length = 252) (hb : (flitFields (flitBytes f)).bad = false)
    (hf : f.bad = false) : rxFlit (flitBytes f) [] = some (flitFields (flitBytes f)) := by
  have h1 : bytesAt (flitBytes f) 0 252 = flitBody f := by
    refine List.ext_getElem (by simp [bytesAt, hl]) fun i h h' => ?_
    simp only [bytesAt, flitBytes, List.getElem_map, List.getElem_range, Nat.zero_add, List.getD_eq_getElem?_getD]
    rw [List.getElem?_append_left h', List.getElem?_eq_getElem h']; rfl
  have h2 : (bytesAt (flitBytes f) 252 4) = toLe 4 (crc32c (flitBody f)).toNat := by
    refine List.ext_getElem (by simp [bytesAt, toLe_length]) fun i h h' => ?_
    simp only [bytesAt, flitBytes, hf, List.getElem_map, List.getElem_range, List.getD_eq_getElem?_getD]
    rw [List.getElem?_append_right (by omega), hl, Nat.add_sub_cancel_left]
    simp only [Bool.false_eq_true, ↓reduceIte, Nat.xor_zero]
    rw [List.getElem?_eq_getElem h']; rfl
  have h3 : (flitBytes f).length = 256 := by simp [flitBytes, hl, toLe_length]
  have h4 : fld (flitBytes f) 252 4 = (crc32c (flitBody f)).toNat := by
    rw [fld, h2]; exact toLe_read _ (crc32c (flitBody f)).isLt
  unfold rxFlit flitOf
  simp [h1, h3, h4, hb]

theorem readSource_log (s : State) (r : Req) (h : r.b 0 = 0) :
    s.readSource r = .inl (16777216, fun o n => (List.range n).map (fun i => s.logByte (o + i)), []) := by
  simp [State.readSource, h]

theorem only_armed : ∀ j, (tget [(7, ({ SlotTbl.init with st := .armed, epoch := 3 } : SlotTbl))] j SlotTbl.init).st = .armed → j = 7 := by
  intro j h
  by_contra hj
  have : ¬ 7 = j := Ne.symm hj
  simp [tget, tfind, this, SlotTbl.init] at h

/-! ### Values the spec itself works out -/

/-- 05 R124. -/
theorem test_crc32c : crc32c [0x31, 0x32, 0x33, 0x34, 0x35, 0x36, 0x37, 0x38, 0x39] = 0xE3069283 := by decide +kernel

/-- 03 R74. -/
theorem test_crc64 : crc64 [0x31, 0x32, 0x33, 0x34, 0x35, 0x36, 0x37, 0x38, 0x39] = 0x6C40DF5F0B497347 := by
  decide +kernel

/-- FIPS 180-4, the message "abc": first and last four bytes. -/
theorem test_sha256 : (sha256 [0x61, 0x62, 0x63]).take 4 = [0xBA, 0x78, 0x16, 0xBF] ∧
    (sha256 [0x61, 0x62, 0x63]).drop 28 = [0xF2, 0x00, 0x15, 0xAD] := by decide +kernel

/-- 03 R56: bytes 1 to 3 of the E3M2 block of 0x0E, 0x24, 0x1F. -/
theorem test_block_image :
    ((blockImage 3 (0x7A, [0x0E, 0x24, 0x1F] ++ List.replicate 29 0)).drop 1).take 3 = [0x0E, 0xF9, 0x01] := by
  decide +kernel

/-- 03 Table 3.9: the integers of the three codes, and 468 units of scale 0x7A in FP32. -/
theorem test_exact_codes : [0x0E, 0x24, 0x1F].map (mxInt 3) = [24, -4, 448] := by decide +kernel
theorem test_exact_to_fp32 : accToF32 3 0x7A 468 = 0x3F6A0000 := by decide +kernel

/-- 09 Table 9.4. -/
theorem test_csum : [[24, -16], [-4, 6], [448, 0], [468, -10]].map csum = [0xFFFFFFF8, 8, 0x1C0, 0x1C0] := by
  decide +kernel

/-- 09 Table 9.5: node (1, 2), then node (2, 2). -/
theorem test_rescale_first : rescaleBlock 0x72 0x72 [35000, 101, -3] = ((0x73, [17500, 50, -2]), false) := by
  decide +kernel
theorem test_rescale_second : rescaleBlock 0x72 0x73 [47000, 107, -4] = ((0x73, [23500, 54, -2]), false) := by
  decide +kernel

/-- 04 Table 4.5: the offset of −1.250 ns in units of 2^-16 ns. -/
theorem test_offset : ((cUnits ⟨1000340, 0xC000⟩ - cUnits ⟨1000300, 0⟩) -
    (cUnits ⟨1000043, 0x4000⟩ - cUnits ⟨1000000, 0⟩)) / 2 = -81920 := by decide +kernel

/-- 07, after R193: −1,728 bytes at 50 GB/s are worked off in 34.56 ns. -/
theorem test_shaper : shaperAfter true 5000 409600 1638400 34 (-172800) < 0 ∧
    0 ≤ shaperAfter true 5000 409600 1638400 35 (-172800) := by decide +kernel

/-- 13, after R372: PPS_OUT_EN of IRC_CTRL. -/
theorem test_alias : aliasOf 0x1200304 = some (0x10018, 1) := by decide +kernel

/-- 13 Table 13.17: SYS_FW before firmware runs. -/
theorem test_sys_fw : (State.reset.regRead .smbus 0x10).map Prod.fst = some 0xFFFF := by decide +kernel

/-- 13 R370: a word that names nothing. -/
theorem test_unmapped : (State.reset.regRead .smbus 0x3FFFFFC).map Prod.fst = none := by decide +kernel

/-- 05 R107: the bit pairs 00, 01, 11, 10 are the levels 0 to 3. -/
theorem test_pam4 : levels [false, false, false, true, true, true, true, false] = [0, 1, 2, 3] := by decide +kernel

/-- 05, after R118: 13.23 dB reads as 0x0D3. -/
theorem test_fom : fomValue ⟨-300, 300, 400, 484, 576, 441⟩ = some 0xD3 := by decide +kernel

/-- 05 R109: two wrong symbols of a codeword, shortened here, are corrected. -/
theorem test_lane_code : gf10.correct 30 ([5, 0, 7] ++ List.replicate 37 0) = some (List.replicate 40 0, 2) := by
  decide +kernel

/-- 12 R326, R328: one wrong byte is corrected, two are not, nor is poison. -/
theorem test_memory_code : codewordOf (List.replicate 36 0) = .clean ∧ codewordOf line71 = .corrected (some 71) ∧
    codewordOf ([1, 1] ++ List.replicate 34 0) = .uncorrectable ∧
    codewordOf (eccEncode true (List.replicate 32 0)) = .uncorrectable := by decide +kernel

/-- 05 Table 5.6: a NAK for 0x1FFF. -/
theorem test_nak : linkBytes (.nak 0x1FFF) = [1, 0, 0, 0, 0xFF, 0x1F] := by decide +kernel

/-- 05 Table 5.5: TYPE, VC, SOF and EOF, LEN and SEQ of a DATA flit. -/
theorem test_flit_words : (flitWords { flit0 with typ := 1, vc := 10, sof := true, eof := true, len := 36, seq := 1 }).take 4 =
    toLe 4 0x1AC48001 := by decide +kernel

/-- 06 Table 6.1: DEST and SRC, then FTYPE and CTX, and HOPS at byte 13. -/
theorem test_header : (hdrBytes hdr0).take 6 = [0, 0x40, 0, 0, 0, 0] ∧ (hdrBytes hdr0).getD 13 0 = 32 ∧
    (hdrBytes hdr0).length = 32 := by decide +kernel

/-- Every VC1 message is 64 bytes (04 Table 4.4, 14 Table 14.5). -/
theorem test_message_length : (ctlBytes (.timeReq time0)).length = 64 ∧ (ctlBytes (.ctxStop notice0)).length = 64 ∧
    (ctlBytes (.flowGrant flowMsg0)).length = 64 := by decide +kernel

/-! ### Ill-formed commands are refused -/

theorem test_frame_length : (Instr.frameIngress 0 { frame0 with payload := [] }).wf = false := by decide +kernel
theorem test_frame_ok : (Instr.frameIngress 0 frame0).wf = true := by decide +kernel
theorem test_flit_length : (Instr.flitReceive 0 [] []).wf = false ∧
    (Instr.flitReceive 0 (List.replicate 256 0) []).wf = true := by decide +kernel
theorem test_codeword_length : (Instr.badCrcFlit 0 (List.replicate 256 0) [⟨0, []⟩]).wf = false ∧
    (Instr.badCrcFlit 0 (List.replicate 256 0) [⟨3, List.replicate 542 0⟩]).wf = true := by decide +kernel
theorem test_mgmt_length : (Instr.ringWrite { mgmt0 with payload := List.replicate 15329 0 }).wf = false := by decide +kernel
theorem test_lane : (Instr.ready 264 []).wf = false ∧ (Instr.ready 263 []).wf = true := by decide +kernel
theorem test_lanes : (Instr.fomReport 264 []).wf = false ∧ (Instr.txEqReq 264 []).wf = false ∧ (Instr.param 264 []).wf = false ∧
    (Instr.trainingPhaseDone 264 phase0).wf = false ∧ (Instr.trainingPhaseTimeout 264).wf = false ∧
    (Instr.loopLockLoss 264).wf = false ∧ (Instr.fomWindow 264 ⟨0, 0, 0, 0, 0, 0⟩).wf = false := by decide +kernel
theorem test_markers : (Instr.markerLock 0 { marker0 with inner := [] }).wf = false ∧ (Instr.markerLock 0 marker0).wf = true ∧
    (Instr.markerLoss 0 [[]]).wf = false := by decide +kernel
theorem test_word : (Instr.uncorrectableCodeword 0 []).wf = false ∧
    (Instr.uncorrectableCodeword 0 (List.replicate 36 0)).wf = true := by decide +kernel
theorem test_point : pointOk 80 = false ∧ pointOk 79 = true := by decide +kernel
theorem test_credit_lims : (Instr.creditSync 0 0 []).wf = false := by decide +kernel
theorem test_smbus_block : (Instr.smbusDataWrite false (List.replicate 256 0)).wf = false := by decide +kernel

theorem witness_ExactSumsNeverOverflow : ∃ (d : List Byte) (g n : Nat) (fs : List (Nat × Nat × Frame)) (b : IBlock)
    (v : Int), isExact d = true ∧ fs.length ≤ 16384 ∧
    b ∈ exactSum (dAscale d) n (fs.map (fun x => contribIn d x.1 g x.2.1 x.2.2)) ∧ v ∈ b.2 ∧ v = 448 :=
  ⟨stepDesc 3, 0, 1, [(0, 0, { frame0 with payload := [0, 0x1F] ++ List.replicate 23 0 })],
    (0, 448 :: List.replicate 31 0), 448, by decide +kernel⟩

/-- 12 R334: the sixty-fourth codeword in a row corrected on one line, across two rows, and not after a clean one. -/
theorem test_line_run : (lineRunAfter (some (5, 32)) (List.replicate 32 (.corrected (some 5)))).2 = true ∧
    (lineRunAfter (some (5, 32)) (List.replicate 31 (.corrected (some 5)))).2 = false ∧
    (lineRunAfter (some (5, 63)) (.clean :: List.replicate 31 (.corrected (some 5)))).2 = false := by decide +kernel
theorem test_row : (Instr.scrubRow 0 0 (List.replicate 31 line71)).wf = false ∧
    (Instr.scrubRow 0 0 (List.replicate 32 [])).wf = false ∧ (Instr.scrubRow 0 0 (List.replicate 32 line71)).wf = true := by
  decide +kernel

/-! ### Witnesses of the obligations' hypotheses -/

theorem witness_StepTakesFrontCommand_1 : ∃ (s : State) (c : Instr) (rest : List Instr), s.pending = c :: rest :=
  ⟨{ up with pending := [.nop 0, .bypass] }, .nop 0, [.bypass], by decide +kernel⟩

theorem witness_StepTakesFrontCommand_2 : ∃ (s : State), s.pending = [] := ⟨up, by decide +kernel⟩

theorem witness_NopIdentifyAndContextCommandsComplete_1 : ∃ (s : State) (m : BitVec 6), s.fits m 1 := ⟨box 1 [], 0, by
  decide +kernel⟩

theorem witness_NopIdentifyAndContextCommandsComplete_2 : ∃ (s : State) (m : BitVec 6), s.fits m 2 := ⟨box 2 [], 0, by
  decide +kernel⟩

theorem witness_NopIdentifyAndContextCommandsComplete_3 : ∃ (s : State) (m : BitVec 6), s.canTake m.toNat = true ∧
  knownOp (s.cmdAt m).opcode = false := ⟨box 9 [], 0, by decide +kernel⟩

theorem witness_NopIdentifyAndContextCommandsComplete_4 : ∃ (s : State) (m : BitVec 6) (r : Req) (c : Ctx), r =
  s.reqAt m ∧ c = s.ctx (r.b 0) ∧ s.fits m 0x101 ∧ c.st = .free ∧ c.stopD = none ∧ (s.irc.state = .locked ∨
  s.irc.state = .holdover) := ⟨box 0x101 ([255, 0] ++ toLe 2 5 ++ toLe 4 0 ++ toLe 8 0), 0, _, _, rfl, rfl, by
  decide +kernel⟩

theorem witness_NopIdentifyAndContextCommandsComplete_5 : ∃ (s : State) (m : BitVec 6) (r : Req), r = s.reqAt m ∧
  s.fits m 0x102 := ⟨box 0x102 (toLe 8 255), 0, _, rfl, by decide +kernel⟩

theorem witness_NopIdentifyAndContextCommandsComplete_6 : ∃ (s : State) (m : BitVec 6) (r : Req), r = s.reqAt m ∧
  s.fits m 0x103 := ⟨box 0x103 (toLe 8 0), 0, _, rfl, by decide +kernel⟩

theorem witness_CompletionEntryPosted_1 : ∃ (s : State) (m : BitVec 6), s.fits m 1 ∧ (s.mbx m.toNat).cq.wf = true :=
  ⟨box 1 [], 0, by decide +kernel⟩

theorem witness_MailboxAndTransferCommandsComplete_1 : ∃ (s : State) (m : BitVec 6) (r : Req), r = s.reqAt m ∧ s.fits
  m 3 ∧ (s.mbx (r.b 0)).opened = false ∧ r.b 1 + r.b 2 ≤ s.pool1Free := ⟨box 3 [62, 16, 1, 1, 0, 0x40, 0, 0], 0, _,
  rfl, by decide +kernel⟩

theorem witness_MailboxAndTransferCommandsComplete_2 : ∃ (s : State) (m : BitVec 6) (r : Req), r = s.reqAt m ∧ s.fits
  m 4 ∧ r.b 0 ≠ m.toNat ∧ (s.mbx (r.b 0)).opened = true ∧ (s.mbx (r.b 0)).closing = none ∧ (s.mbx (r.b 0)).running =
  [] := ⟨(box 4 (toLe 8 5)).setMbx 5 { Mbx.init with opened := true, rqPages := 1, cqPages := 1 }, 0, _, rfl, by
  decide +kernel⟩

theorem witness_MailboxAndTransferCommandsComplete_3 : ∃ (s t : State) (m : BitVec 6) (r : Req) (h : Nat) (target :
  XTarget) (x : Xfer), s.fits m 5 ∧ r = s.reqAt m ∧ h = (s.taken m).freeHandle.1 ∧ x = ⟨r.cmd.mbx, (t.mbx
  r.cmd.mbx).owner, target, r.b 2, r.h 4, r.d 8, [], false⟩ ∧ s.xfers.length < 64 ∧ ((r.b 0 = 0 ∧ target = .staging ∧
  r.d 8 ≤ 2 ^ 28 ∧ (s.taken m).poolFirst 4 0 = true ∧ (s.taken m).freeHandle.2.drawBufs (.staging h) (cdiv (r.d 8) (2
  ^ 20)) = some t) ∨ (∃ z, r.b 0 = 1 ∧ target = .tensor (r.b 1) ∧ s.tensor (r.b 2) (r.h 4) = some z ∧ holdsTensor
  s.addr z.entry = true ∧ hasArr z.entry (r.b 1) = true ∧ (s.taken m).freeHandle.2.drawShadow (r.b 2) 0 ((s.taken
  m).xferPages z.entry (r.b 2) (r.h 4) (r.b 1) h (r.d 8)) = some t) ∨ (∃ g, 2 ≤ r.b 0 ∧ target = .region ∧ s.region
  (r.b 2) (r.h 4) = some g ∧ g.root = s.addr ∧ r.d 8 ≤ g.bytes ∧ t = (s.taken m).freeHandle.2)) :=
  ⟨{ box 5 ([2, 0, 0, 0, 1, 0, 0, 0] ++ toLe 8 16) with regions := [(1, ⟨0, 0x4000, 1, 4, 0, []⟩)] }, State.freeHandle
  (State.taken ({ box 5 ([2, 0, 0, 0, 1, 0, 0, 0] ++ toLe 8 16) with regions := [(1, ⟨0, 0x4000, 1, 4, 0, []⟩)] }) 0)
  |>.2, 0, State.reqAt
  ({ box 5 ([2, 0, 0, 0, 1, 0, 0, 0] ++ toLe 8 16) with regions := [(1, ⟨0, 0x4000, 1, 4, 0, []⟩)] }) 0,
  (State.freeHandle (State.taken
  ({ box 5 ([2, 0, 0, 0, 1, 0, 0, 0] ++ toLe 8 16) with regions := [(1, ⟨0, 0x4000, 1, 4, 0, []⟩)] }) 0)).1, .region,
  ⟨0, none, .region, 0, 1, 16, [], false⟩, ⟨by decide +kernel, rfl, rfl, by decide +kernel, by decide +kernel, Or.inr
  (Or.inr ⟨⟨0, 0x4000, 1, 4, 0, []⟩, by decide +kernel, rfl, by decide +kernel, by decide +kernel, by decide +kernel,
  rfl⟩)⟩⟩

theorem witness_MailboxAndTransferCommandsComplete_4 : ∃ (s : State) (m : BitVec 6) (r : Req) (x : Xfer), r = s.reqAt
  m ∧ s.fits m 6 ∧ s.xfer (r.h 0) = some x ∧ x.closed = false ∧ crc32c (Mem.slice x.data 0 x.length) = BitVec.ofNat 32
  (r.w 4) ∧ s.poisoned (isXferPage (r.h 0)) = false :=
  ⟨{ box 6 (toLe 8 0) with xfers := [(0, ⟨0, none, .staging, 0, 0, 0, [], false⟩)] }, 0, _, ⟨0, none, .staging, 0, 0,
  0, [], false⟩, rfl, by decide +kernel⟩

theorem witness_MailboxAndTransferCommandsComplete_5 : ∃ (s : State) (m : BitVec 6) (r : Req), r = s.reqAt m ∧ s.fits
  m 7 ∧ (s.xfer (r.h 0)).isSome = true :=
  ⟨{ box 7 (toLe 8 0) with xfers := [(0, ⟨0, none, .staging, 0, 0, 0, [], false⟩)] }, 0, _, rfl, by decide +kernel⟩

theorem witness_MailboxAndTransferCommandsComplete_6 : ∃ (s : State) (m : BitVec 6) (r : Req) (size : Nat) (get : Nat
  → Nat → List Byte) (ret : List Byte), s.fits m 8 ∧ r = s.reqAt m ∧ (s.taken m).readSource r = .inl (size, get, ret)
  ∧ r.d 8 + r.d 16 ≤ size := ⟨box 8 ([0, 0, 0, 0, 0, 0, 0, 0] ++ toLe 8 0 ++ toLe 8 16777216), 0, (box 8 ([0, 0, 0, 0,
  0, 0, 0, 0] ++ toLe 8 0 ++ toLe 8 16777216)).reqAt 0, 16777216, fun o n => (List.range n).map (fun i => ((box 8 ([0,
  0, 0, 0, 0, 0, 0, 0] ++ toLe 8 0 ++ toLe 8 16777216)).taken 0).logByte (o + i)), [], ⟨by decide +kernel, rfl,
  readSource_log _ _ (by decide +kernel), by decide +kernel⟩⟩

theorem witness_PlanCommandsComplete_1 : ∃ (s v : State) (m : BitVec 6) (r : Req) (img : List Byte) (es : List (List
  Byte)) (gs : List GrpRec), r = s.reqAt m ∧ v = (s.taken m).planJob (r.b 0) ∧ es = planEntries img ∧ gs =
  v.readGroups (r.b 0) img (fld img 2 2) (fld img 8 8) ∧ s.fits m 0x104 ∧ s.staged (r.h 2) = some img ∧ planReadable
  img = true ∧ s.collHeld (fun d => dCtx d == r.b 0) = false ∧ v.planFault (r.b 0) img = none :=
  ⟨{ box 0x104 (toLe 8 0) with xfers := [(0, ⟨0, none, .staging, 0, 0, 64, Mem.splice [] 0 (toLe 8 0 ++ toLe 8 64 ++ List.replicate 48 0), true⟩)], ctxs := [(1, open0)] },
  _, 0, _, (toLe 8 0 ++ toLe 8 64 ++ List.replicate 48 0), _, _, rfl, rfl, rfl, rfl, by decide +kernel⟩

theorem witness_PlanCommandsComplete_3 : ∃ (s : State) (m : BitVec 6) (r : Req) (g g' : Group), r = s.reqAt m ∧ s.fits
  m 0x105 ∧ tfind s.groups (r.h 0) = some g ∧ g' = { g with active := bit (r.b 2) 0 } ∧ (g'.active = true →
  (s.groups.filter (fun e => e.1 != r.h 0)).all (fun e => !(s.taken m).clash (s.taken m).entriesOf g' e.2) = true) ∧
  (g'.active = false → g.active = true → s.collHeld (fun d => dGroup d == r.h 0) = false) :=
  ⟨{ box 0x105 ([0, 0, 1, 0, 0, 0, 0, 0]) with groups := [(0, { group0 with active := false })] }, 0, _,
  { group0 with active := false }, group0, rfl, by decide +kernel⟩

theorem witness_PlanCommandsComplete_4 : ∃ (s : State) (m : BitVec 6) (r : Req) (x : Tensor), r = s.reqAt m ∧ s.fits m
  0x106 ∧ s.tensor (r.b 0) (r.h 2) = some x ∧ x.maxStep ≤ r.w 8 ∧ ((r.b 4 ^^^ tFlags x.entry) &&& 0x90) = 0 ∧
  hyperFaults r.args 12 = [] ∧ x.entry.length = 128 := ⟨withTensor (box 0x106 (toLe 8 0 ++ toLe 4 1 ++ toLe 4 0 ++
  toLe 4 0 ++ toLe 4 0 ++ toLe 4 0 ++ toLe 4 0x3F800000 ++ toLe 4 0x3F800000)) tensor0, 0, _, tensor0, rfl, by
  decide +kernel⟩

theorem witness_StateAndRegionCommandsComplete_1 : ∃ (s : State) (m : BitVec 6) (r : Req), r = s.reqAt m ∧ s.fits m
  0x107 ∧ 16 * r.w 4 ≤ 2312192 ∧ r.w 0 + 16 * r.w 4 ≤ 2312192 ∧ s.ing.pages = [] := ⟨box 0x107 (toLe 4 262144 ++ toLe
  4 4096), 0, _, rfl, by decide +kernel⟩

theorem witness_StateAndRegionCommandsComplete_2 : ∃ (s t : State) (m : BitVec 6) (r : Req) (x : Tensor), r = s.reqAt
  m ∧ (s.taken m).loadArrs x.entry (r.b 0) (r.h 2) x.ver.lost [(0, r.h 4), (1, r.h 6), (2, r.h 8)] = some t ∧ s.fits m
  0x401 ∧ s.tensor (r.b 0) (r.h 2) = some x ∧ holdsTensor s.addr x.entry = true ∧ [(0, r.h 4), (1, r.h 6), (2, r.h
  8)].all (fun p => p.2 == 0xFFFF || (s.arrXfer (r.b 0) (r.h 2) p.1 x.entry p.2).isSome) = true ∧ s.tensorBusy (r.b 0)
  (r.h 2) = false ∧ (x.ver.lost = true → r.h 4 ≠ 0xFFFF) := ⟨withTensor (box 0x401 ([0, 0, 0, 0] ++ toLe 6
  0xFFFFFFFFFFFF ++ toLe 6 0x70000 ++ toLe 8 0)) tensor0, _, 0, _, tensor0, rfl, (Option.some_get (by
  decide +kernel)).symm, by decide +kernel⟩

theorem witness_StateAndRegionCommandsComplete_3 : ∃ (s t : State) (m : BitVec 6) (r : Req) (g : Region), s.fits m
  0x402 ∧ r = s.reqAt m ∧ g = ⟨r.b 0, r.h 4, r.w 8, r.w 12, r.b 6, []⟩ ∧ s.blockFixus (r.h 4) = true ∧ s.region (r.b
  0) (r.h 2) = none ∧ ((r.h 4 ≠ s.addr ∧ t = s.taken m) ∨ (r.h 4 = s.addr ∧ ∃ u : State, (s.taken m).drawShadow (r.b
  0) 0 ((arrayStacks ((s.taken m).planStacks (r.b 0)) (r.b 6) (regionElems (r.b 6) (r.w 8) (r.w 12)) (r.h 2 % 4)).map
  (fun k => (k, Holder.region (r.b 0) (r.h 2)))) = some u ∧ t = u.writeMap (.region (r.b 0) (r.h 2)) (r.b 6) (r.h 2 %
  4) (regionElems (r.b 6) (r.w 8) (r.w 12)))) :=
  ⟨{ box 0x402 ([0, 0, 1, 0, 0, 0x40, 0, 0] ++ toLe 4 2 ++ toLe 4 3) with pins := { up.pins with sw := 4, hostbr := false } },
  _, 0, _, _, by decide +kernel, rfl, rfl, by decide +kernel, by decide +kernel, Or.inl ⟨by decide +kernel, rfl⟩⟩

theorem witness_StateAndRegionCommandsComplete_3b : ∃ (s t : State) (m : BitVec 6) (r : Req) (g : Region), s.fits m
  0x402 ∧ r = s.reqAt m ∧ g = ⟨r.b 0, r.h 4, r.w 8, r.w 12, r.b 6, []⟩ ∧ s.blockFixus (r.h 4) = true ∧ s.region (r.b
  0) (r.h 2) = none ∧ ((r.h 4 ≠ s.addr ∧ t = s.taken m) ∨ (r.h 4 = s.addr ∧ ∃ u : State, (s.taken m).drawShadow (r.b
  0) 0 ((arrayStacks ((s.taken m).planStacks (r.b 0)) (r.b 6) (regionElems (r.b 6) (r.w 8) (r.w 12)) (r.h 2 % 4)).map
  (fun k => (k, Holder.region (r.b 0) (r.h 2)))) = some u ∧ t = u.writeMap (.region (r.b 0) (r.h 2)) (r.b 6) (r.h 2 %
  4) (regionElems (r.b 6) (r.w 8) (r.w 12)))) := ⟨box 0x402 ([0, 0, 1, 0, 0, 0x40, 0, 0] ++ toLe 4 2 ++ toLe 4 3), _,
  0, _, _, by decide +kernel, rfl, rfl, by decide +kernel, by decide +kernel, Or.inr ⟨by decide +kernel, _,
  (Option.some_get (drawShadow_one (k := 1) (h := .region 0 1) (by decide +kernel) (by decide +kernel) (by
  decide +kernel))).symm, rfl⟩⟩

theorem witness_StateAndRegionCommandsComplete_4 : ∃ (s : State) (m : BitVec 6) (r : Req), r = s.reqAt m ∧ s.fits m
  0x403 ∧ (s.region (r.b 0) (r.h 2)).isSome = true ∧ s.collHeld (fun d => dCtx d == r.b 0 && isKernel (dKind d) &&
  namesRegion d (r.h 2)) = false := ⟨{ box 0x403 (toLe 8 0x10000) with regions := [(1, ⟨0, 0x4000, 2, 3, 0, []⟩)] },
  0, _, rfl, by decide +kernel⟩

theorem witness_CollectivePostTakesSlotOrQueue_1 : ∃ (s : State) (m : BitVec 6) (r : Req) (d : List Byte), r = s.reqAt
  m ∧ d = bytesAt r.args 0 128 ∧ s.fits m 0x201 ∧ s.sys.hostbrConflict = false ∧ (s.irc.state = .locked ∨ s.irc.state
  = .holdover) ∧ (s.taken m).descFault d = none ∧ (s.taken m).heldDesc d = none := ⟨boxOn job 0x201 (barrier 2000000),
  0, _, _, rfl, rfl, by decide +kernel⟩

theorem witness_CollectivePostTakesSlotOrQueue_2 : ∃ (s : State) (d : List Byte) (c : Cmd), 8192 * s.queueBufs >
  s.queue.length := ⟨{ up with ing := { up.ing with pages := [⟨0, .launchQueue⟩] } }, barrier 2000000, ⟨0, 0, 7, 0,
  0x201⟩, by decide +kernel⟩

theorem witness_CollectivePostTakesSlotOrQueue_3 : ∃ (s : State), s.sys.hostbrConflict = true :=
  ⟨{ up with sys := { up.sys with hostbrConflict := true } }, by decide +kernel⟩

theorem witness_CollectivePostTakesSlotOrQueue_4 : ∃ (s t : State) (c : Coll) (i : Nat),
  (({ s with queue := s.queue.filter (fun q => q != c) } : State).queueShrink).freeSlot = some (i, t) ∧ s.brass = true
  ∧ (s.irc.state = .locked ∨ s.irc.state = .holdover) ∧ s.sys.hostbrConflict = false ∧ s.slots.length < 4096 ∧
  s.queueHead = some c ∧ c.heldAt = none ∧ c.unscheduled = false ∧ s.now < dLaunch c.desc :=
  ⟨{ job with queue := [coll0 (barrier 2000000)] }, _, coll0 (barrier 2000000), _, some_pair (freeSlot_isSome (by
  decide +kernel)), by decide +kernel⟩

theorem witness_ScheduleCommandsTaken_1 : ∃ (s t v : State) (m : BitVec 6) (r : Req) (img : List Byte) (bad : Nat), r
  = s.reqAt m ∧ v = (s.taken m).extend 3 (sha256 img) ∧ ({ v with sch := { v.sch with loads := v.sch.loads + 1 } } :
  State).loadPorts (r.h 2) (r.h 4) img = (t, bad) ∧ s.fits m 0x301 ∧ s.staged (r.h 0) = some img ∧ img.length = 96 *
  tblBytes (r.h 4) :=
  ⟨{ box 0x301 ([0, 0, 3, 0, 1, 0, 0, 0]) with xfers := [(0, ⟨0, none, .staging, 0, 0, 576, [], true⟩)] }, _, _, 0, _,
  List.replicate 576 0, _, rfl, rfl, Prod.mk.eta.symm, by decide +kernel⟩

theorem witness_ScheduleCommandsTaken_2 : ∃ (s : State) (m : BitVec 6) (r : Req) (a : Arm), r = s.reqAt m ∧ a = ⟨r.b
  0, r.h 2, r.d 8, false, false, false, false, false, some r.cmd⟩ ∧ s.fits m 0x302 ∧ s.now + 10000 ≤ r.d 8 ∧ s.now ≤
  s.armB a ∧ (∃ e ∈ s.sch.tbls, e.2.st = .ready ∧ e.2.epoch = r.h 2) ∧ (r.b 0, r.h 2, r.d 8) ∉ s.sch.cancels :=
  ⟨{ box 0x302 ([7, 0, 3, 0, 0, 0, 0, 0] ++ toLe 8 1020000) with sch := { up.sch with tbls := [(0, { SlotTbl.init with st := .ready, epoch := 3 })] } },
  0, _, _, rfl, rfl, by decide +kernel⟩

theorem witness_ScheduleCommandsTaken_3 : ∃ (s : State) (m : BitVec 6) (r : Req), r = s.reqAt m ∧ s.fits m 0x303 ∧
  s.sch.step = none := ⟨box 0x303 (toLe 8 5 ++ toLe 8 2000000), 0, _, rfl, by decide +kernel⟩

theorem witness_ScheduleCommandsTaken_4 : ∃ (s v : State) (f : Mgmt) (l : Load), s.takeMgmt 0xC f = some v ∧ s.brass =
  true ∧ s.sys.outOfService = false ∧ addrIsFixus f.src.toNat = false ∧ homeOf f.src.toNat = s.addr ∧ s.sch.loading =
  [l] ∧ l.epoch = f.arg.toNat % 65536 ∧ l.wait = [2 * addrUnit f.src.toNat + b2n (f.arg.getLsbD 30)] :=
  ⟨{ up with sch := { up.sch with loading := [⟨⟨0, 0, 7, 0, 0x301⟩, 3, 0, 0, [2]⟩] } }, _,
  { mgmt0 with src := 1, arg := 0x10003 }, ⟨⟨0, 0, 7, 0, 0x301⟩, 3, 0, 0, [2]⟩, (Option.some_get (by
  decide +kernel)).symm, by decide +kernel⟩

theorem witness_ImageCommandsComplete_1 : ∃ (s : State) (m : BitVec 6) (r : Req) (img : List Byte) (f : Flash), s.fits
  m 0x304 ∧ r = s.reqAt m ∧ s.staged (r.h 0) = some img ∧ f = (if s.flash.cfgActive then { s.flash with cfgA := img }
  else { s.flash with cfgB := img }) :=
  ⟨{ box 0x304 (toLe 8 0) with xfers := [(0, ⟨0, none, .staging, 0, 0, 2, [], true⟩)] }, 0, State.reqAt
  ({ box 0x304 (toLe 8 0) with xfers := [(0, ⟨0, none, .staging, 0, 0, 2, [], true⟩)] }) 0, [0, 0],
  { State.flash up with cfgB := [0, 0] }, ⟨by decide +kernel, rfl, by decide +kernel, rfl⟩⟩

theorem witness_ImageCommandsComplete_2 : ∃ (s : State) (m : BitVec 6) (r : Req) (img : List Byte), r = s.reqAt m ∧
  s.fits m 0x602 ∧ s.staged (r.h 0) = some img ∧ (r.b 2 == 1) ≠ s.sec.slotB :=
  ⟨{ box 0x602 [0, 0, 1, 0, 0, 0, 0, 0] with xfers := [(0, ⟨0, none, .staging, 0, 0, 2, [], true⟩)] }, 0, _, [0, 0],
  rfl, by decide +kernel⟩

theorem witness_ImageCommandsComplete_3 : ∃ (s : State) (m : BitVec 6) (r : Req) (b : Bool), r = s.reqAt m ∧ s.fits m
  0x603 ∧ b = (r.b 0 == 1) := ⟨box 0x603 (toLe 8 1), 0, _, true, rfl, by decide +kernel⟩

theorem witness_FenceCommandsComplete_1 : ∃ (s : State) (m : BitVec 6) (r : Req), r = s.reqAt m ∧ s.fits m 0x404 :=
  ⟨box 0x404 (toLe 8 0x0F03), 0, _, rfl, by decide +kernel⟩

theorem witness_FenceCommandsComplete_2 : ∃ (s : State) (r : Req) (k c : Nat), (s.chan k c).fenced = false ∧ (s.stack
  k).fenced = false ∧ s.chanGone k c = false := ⟨up, ⟨⟨0, 0, 7, 0, 0x404⟩, []⟩, 3, 15, by decide +kernel⟩

theorem witness_FenceCommandsComplete_3 : ∃ (s : State) (m : BitVec 6) (r : Req), r = s.reqAt m ∧ s.fits m 0x501 ∧
  (s.port (r.b 0)).st = .fenced := ⟨(box 0x501 (toLe 8 63)).setPort 63 { Port.init with st := .fenced }, 0, _, rfl, by
  decide +kernel⟩

theorem witness_FenceCommandsComplete_4 : ∃ (s : State) (m : BitVec 6) (r : Req), r = s.reqAt m ∧ s.fits m 0x502 ∧ r.b
  0 < 5 := ⟨box 0x502 [4, 7, 0, 0, 0, 0, 0, 0], 0, _, rfl, by decide +kernel⟩

theorem witness_QuotesAndResetCommands_1 : ∃ (s : State) (m : BitVec 6), s.fits m 0x503 ∧ fld (s.reqAt m).args 0 1 = 0
  := ⟨box 0x503 (toLe 8 0), 0, by decide +kernel⟩

theorem witness_QuotesAndResetCommands_2 : ∃ (s : State) (m : BitVec 6), s.fits m 0x503 ∧ fld (s.reqAt m).args 0 1 = 1
  := ⟨box 0x503 (toLe 8 1), 0, by decide +kernel⟩

theorem witness_QuotesAndResetCommands_3 : ∃ (s : State) (m : BitVec 6) (r : Req) (n : Nat), r = s.reqAt m ∧ s.fits m
  0x601 ∧ s.sec.busy = false ∧ s.signedOut = false ∧ s.sec.leaf = some n ∧ n < 1024 :=
  ⟨{ box 0x601 (List.replicate 40 0) with sec := { up.sec with leaf := some 1023 }, fuses := { up.fuses with rsv := 1024 } },
  0, _, 1023, rfl, by decide +kernel⟩

theorem witness_QuotesAndResetCommands_4 : ∃ (s : State) (m : BitVec 6) (r : Req), r = s.reqAt m ∧ s.fits m 0x601 ∧
  s.sec.busy = false ∧ s.signedOut = false ∧ s.sec.leaf = none := ⟨box 0x601 (List.replicate 40 0), 0, _, rfl, by
  decide +kernel⟩

theorem witness_QuotesAndResetCommands_5 : ∃ (s : State), s.on = true ∧ s.sys.otpRead = true ∧ s.sys.noFirmware =
  false ∧ s.sys.fwReady = false ∧ s.sec.cfgOk = false ∧ s.pins.hostbr = (s.pins.sw == 0) ∧ 10 ≤ s.pool1Free ∧ (∀ p, p
  < 64 → (s.port p).st ≠ .active) := ⟨{ State.reset with sys := { State.reset.sys with otpRead := true } }, by
  decide +kernel⟩

theorem witness_QuotesAndResetCommands_6 : ∃ (s v : State), v = s.boot s.bootSeen ∧ s.on = true ∧ s.sys.otpRead =
  false ∧ s.sys.fwReady = false := ⟨State.reset, _, rfl, by decide +kernel⟩

theorem witness_QuotesAndResetCommands_7 : ∃ (s : State), s.on = true ∧ s.sec.busy = true ∧ s.sec.waiting = [] :=
  ⟨{ up with sec := { up.sec with busy := true } }, by decide +kernel⟩

theorem witness_QuotesAndResetCommands_8 : ∃ (s : State) (c : Cmd) (nonce : List Byte) (tag : Nat), s.on = true ∧
  s.sec.busy = true ∧ s.sec.waiting = [(c, nonce, tag)] :=
  ⟨{ up with sec := { up.sec with busy := true, waiting := [(⟨0, 0, 7, 0, 0x601⟩, [], 3)] } }, ⟨0, 0, 7, 0, 0x601⟩,
  [], 3, by decide +kernel⟩

theorem witness_QuotesAndResetCommands_9 : ∃ (s : State), s.on = true ∧ s.sec.busy = true :=
  ⟨{ up with sec := { up.sec with busy := true } }, by decide +kernel⟩

theorem witness_KeyedRegisterWrites_1 : ∃ (s : State) (w : Who), s.hears w ∧ (s.keysLeft w).length < 8 := ⟨up, .host
  0x4000, by decide +kernel⟩

theorem witness_KeyedRegisterWrites_2 : ∃ (s : State) (w : Who) (v : Word), s.hears w ∧ v ≠ 0x6A3F := ⟨up, .smbus,
  0x6A3E, by decide +kernel⟩

theorem witness_KeyedRegisterWrites_3 : ∃ (s : State), s.on = true := ⟨keyed up, by decide +kernel⟩

theorem witness_KeyedRegisterWrites_4 : ∃ (s : State) (w : Who) (v : Word) (b : BootObs), s.hears w ∧ v.getLsbD 0 =
  true ∧ s.sys.resetAsked = none := ⟨keyed up, .brass, 1, boot0, by decide +kernel⟩

theorem witness_KeyedRegisterWrites_5 : ∃ (s : State) (w : Who) (v : Word), s.hears w ∧ v.getLsbD 0 = true ∧ s.keyOpen
  w = true := ⟨keyed up, .brass, 1, by decide +kernel⟩

theorem witness_MailboxRegisterWrites_1 : ∃ (s : State) (w : Who) (m : BitVec 6) (v : Word), s.hears w ∧ (s.mbx
  m.toNat).opened = true ∧ ringUsed (v.toNat % 65536) (s.mbx m.toNat).rqHead ≤ (s.mbx m.toNat).rqN ∧ ringUsed (s.mbx
  m.toNat).rqTail (s.mbx m.toNat).rqHead ≤ ringUsed (v.toNat % 65536) (s.mbx m.toNat).rqHead := ⟨box 1 [], .brass, 0,
  16, by decide +kernel⟩

theorem witness_MailboxRegisterWrites_2 : ∃ (s : State) (w : Who) (m : BitVec 6) (v : Word), s.hears w ∧ (s.mbx
  m.toNat).rqN < ringUsed (v.toNat % 65536) (s.mbx m.toNat).rqHead := ⟨box 1 [], .brass, 0, 17, by decide +kernel⟩

theorem witness_MailboxRegisterWrites_3 : ∃ (s : State) (w : Who) (m : BitVec 6) (v : Word), s.hears w ∧ (s.mbx
  m.toNat).opened = true ∧ (s.mbx m.toNat).held = [] ∧ ringUsed (v.toNat % 65536) (s.mbx m.toNat).cqHead ≤ ringUsed
  (s.mbx m.toNat).cqTail (s.mbx m.toNat).cqHead := ⟨(box 1 []).setMbx 0 { (box 1 []).mbx 0 with cqTail := 5 }, .brass,
  0, 5, by decide +kernel⟩

theorem witness_MailboxRegisterWrites_4 : ∃ (s : State) (w : Who) (m : BitVec 6) (v : Word), s.hears w ∧ (s.mbx
  m.toNat).opened = true ∧ s.keyOpen w = true ∧ v.getLsbD 0 = true := ⟨keyed (box 1 []), .brass, 0, 1, by
  decide +kernel⟩

theorem witness_FaultCollectorActs_1 : ∃ (s : State) (w : Who) (slot : BitVec 18) (r : Rec), s.hears w ∧ tfind
  s.flt.recs slot.toNat = some r ∧ r.st = 0 ∧ r.escalated = false :=
  ⟨{ up with flt := { up.flt with recs := [(262143, { Rec.init with cls := 1 })] } }, .brass, 262143,
  { Rec.init with cls := 1 }, by decide +kernel⟩

theorem witness_FaultCollectorActs_2 : ∃ (s : State) (w : Who) (slot : BitVec 18) (r : Rec), s.hears w ∧ tfind
  s.flt.recs slot.toNat = some r ∧ r.cls ≠ 3 ∧ r.st ≠ 2 :=
  ⟨{ up with flt := { up.flt with recs := [(262143, { Rec.init with cls := 1 })] } }, .brass, 262143,
  { Rec.init with cls := 1 }, by decide +kernel⟩

theorem witness_FaultCollectorActs_3 : ∃ (s : State), s.on = true := ⟨up, by decide +kernel⟩

theorem witness_FaultCollectorActs_4 : ∃ (s : State) (k : Nat) (r : Rec), s.on = true ∧ s.flt.recs = [(k, r)] ∧
  s.flt.timers = [] ∧ s.expires r = true ∧ (s.ctx r.dindex).stopD = none :=
  ⟨{ withCtx up open0 with irc := { up.irc with count := 1000000000000 }, flt := { up.flt with recs := [(0, { Rec.init with cls := 1, dkind := 1 })] } },
  0, { Rec.init with cls := 1, dkind := 1 }, by decide +kernel⟩

theorem witness_FaultCollectorActs_5 : ∃ (s : State) (n : Nat), s.on = true ∧ s.pins.pulseAt = some n ∧ n + 2000 ≤
  s.clk := ⟨{ up with pins := { up.pins with pulseAt := some 0 } }, 0, by decide +kernel⟩

theorem witness_FaultCollectorActs_6 : ∃ (s : State) (n : Nat), s.on = true ∧ s.pins.gapAt = some n ∧ n + 2000 ≤ s.clk
  := ⟨{ up with pins := { up.pins with gapAt := some 9999998000 } }, 9999998000, by decide +kernel⟩

theorem witness_FaultCollectorActs_7 : ∃ (s : State) (b : BootObs), s.brass = true := ⟨up, boot0, by decide +kernel⟩

theorem witness_SchedulerRegisterWrites_1 : ∃ (s : State) (w : Who) (p : BitVec 6) (v : Word), s.hears w := ⟨up,
  .brass, 63, 0, by decide +kernel⟩

theorem witness_SchedulerRegisterWrites_2 : ∃ (s : State) (w : Who) (p : BitVec 6) (k : BitVec 2) (limit : Bool) (v :
  Word) (a : Nat), a = (if limit then aShaperLim p.toNat k.toNat else aShaper p.toNat k.toNat) ∧ s.hears w := ⟨up,
  .brass, 63, 3, true, 0xFFFFFFFF, _, rfl, by decide +kernel⟩

theorem witness_SchedulerRegisterWrites_2b : ∃ (s : State) (w : Who) (p : BitVec 6) (k : BitVec 2) (limit : Bool) (v :
  Word) (a : Nat), a = (if limit then aShaperLim p.toNat k.toNat else aShaper p.toNat k.toNat) ∧ s.hears w := ⟨up,
  .brass, 0, 0, false, 0xC0000000, _, rfl, by decide +kernel⟩

theorem witness_SchedulerRegisterWrites_3 : ∃ (s : State) (w : Who) (k : BitVec 12) (r : PolReg) (v : Word), s.hears w
  := ⟨up, .brass, 4095, .epbs, 5, by decide +kernel⟩

theorem witness_PortAndPoolRegisterWrites_1 : ∃ (s : State) (w : Who) (p : BitVec 6) (v : Word) (x : Nat), x =
  (v.toNat &&& 0x7FFC) ||| 0x8003 ∧ s.hears w ∧ (s.setCfg (aPrt p.toNat + 8) (BitVec.ofNat 32 x)).reservesFit false =
  true := ⟨up, .brass, 63, 0, _, rfl, by decide +kernel⟩

theorem witness_PortAndPoolRegisterWrites_2 : ∃ (s : State) (w : Who) (p : BitVec 6) (vc : BitVec 4) (v : Word) (a :
  Nat), a = aPrt p.toNat + 0x40 + 4 * vc.toNat ∧ s.hears w ∧ 1 ≤ v.toNat ∧ v.toNat ≤ 2048 ∧ (s.setCfg a v).reservesFit
  false = true := ⟨up, .brass, 63, 15, 2048, _, rfl, by decide +kernel⟩

theorem witness_PortAndPoolRegisterWrites_2b : ∃ (s : State) (w : Who) (p : BitVec 6) (vc : BitVec 4) (v : Word) (a :
  Nat), a = aPrt p.toNat + 0x40 + 4 * vc.toNat ∧ s.hears w ∧ 1 ≤ v.toNat ∧ v.toNat ≤ 2048 ∧ (s.setCfg a v).reservesFit
  false = true := ⟨up, .brass, 0, 0, 1, _, rfl, by decide +kernel⟩

theorem witness_PortAndPoolRegisterWrites_3 : ∃ (s : State) (w : Who) (p : BitVec 6) (vc : BitVec 4) (v : Word),
  s.hears w ∧ (v.toNat = 0 ∨ 2048 < v.toNat) := ⟨up, .brass, 5, 2, 2049, by decide +kernel⟩

theorem witness_PortAndPoolRegisterWrites_3b : ∃ (s : State) (w : Who) (p : BitVec 6) (vc : BitVec 4) (v : Word),
  s.hears w ∧ (v.toNat = 0 ∨ 2048 < v.toNat) := ⟨up, .brass, 5, 2, 0, by decide +kernel⟩

theorem witness_PortAndPoolRegisterWrites_4 : ∃ (s : State) (w : Who) (second : Bool) (v : Word) (a : Nat), a = aSld +
  (if second then 0x108 else 0x104) ∧ s.hears w ∧ s.keyOpen w = true ∧ v.toNat ≤ (if second then 512 else 16384) ∧
  (s.setCfg a v).reservesFit true = true := ⟨keyed up, .brass, true, 512, _, rfl, by decide +kernel⟩

theorem witness_PortAndPoolRegisterWrites_5 : ∃ (s : State) (w : Who) (pt : BitVec 7) (v : Word) (a : Nat), a = aSld +
  0x600 + 4 * pt.toNat ∧ s.hears w ∧ 64 ≤ pt.toNat ∧ pt.toNat < 80 ∧ s.keyOpen w = true ∧ (s.setCfg a v).reservesFit
  false = true := ⟨keyed up, .brass, 79, 100, _, rfl, by decide +kernel⟩

theorem witness_PortAndPoolRegisterWrites_6 : ∃ (s : State) (w : Who) (p : BitVec 6) (v : Word), s.hears w ∧ (s.cfgAt
  (aPrt p.toNat)).getLsbD 2 = true ∧ v.getLsbD 2 = false ∧ v.toNat % 4 ≠ 3 ∧ (s.port p.toNat).st ≠ .fenced := ⟨keyed
  up, .brass, 0, 2, by decide +kernel⟩

theorem witness_LatchingAndClearingReads_1 : ∃ (s : State) (w : Who), s.hears w := ⟨up, .brass, by decide +kernel⟩

theorem witness_LatchingAndClearingReads_2 : ∃ (s : State) (w : Who) (i : Nat), i = (s.cfgAt (aSch + 4)).toNat ∧
  s.hears w := ⟨up.setCfg (aSch + 4) 8191, .brass, _, rfl, by decide +kernel⟩

theorem witness_LatchingAndClearingReads_3 : ∃ (s : State) (w : Who) (a : BitVec 26), s.hears w ∧ s.plainAddr a.toNat
  ∧ s.smbusOnly a.toNat = true ∧ s.wideVal a.toNat = none ∧ s.regVal w a.toNat = some (s.rcVal a.toNat) ∧ isRc a.toNat
  = true ∧ a.toNat ≠ aIrc ∧ a.toNat ≠ aSch + 8 := ⟨{ up with cnt := [(0x44, 7)] }, .brass, 0x44, by decide +kernel⟩

theorem witness_LatchingAndClearingReads_4 : ∃ (s : State) (w : Who) (a : BitVec 26) (v : Nat), s.hears w ∧
  s.plainAddr a.toNat ∧ s.wideVal a.toNat = some v ∧ a.toNat ≠ aIrc ∧ a.toNat ≠ aSch + 8 :=
  ⟨{ up with cnt := [(0x800008, 5)] }, .brass, 0x800008, 5, by decide +kernel⟩

theorem witness_RegisterSpaceWrites_1 : ∃ (s : State) (w : Who) (v : Word), s.hears w := ⟨up, .brass, 5, by
  decide +kernel⟩

theorem witness_RegisterSpaceWrites_2 : ∃ (s : State) (w : Who) (a : BitVec 26) (v : Word), s.hears w ∧ s.plainAddr
  a.toNat ∧ s.regVal w a.toNat = none := ⟨up, .brass, 0x300000, 5, by decide +kernel⟩

theorem witness_RegisterSpaceWrites_3 : ∃ (s : State) (w : Who) (a : BitVec 26) (i : Nat) (v : Word), s.hears w ∧ i <
  32 ∧ a.toNat = 0x1000000 + 0x80 * 0x18 + 4 * i := ⟨up, .brass, BitVec.ofNat 26 (0x1000000 + 0x80 * 0x18 + 4 * 31),
  31, 1, by decide +kernel⟩

theorem witness_RegisterSpaceWrites_4 : ∃ (s : State) (w : Who) (v : Word), s.hears w := ⟨up, .brass, 7, by
  decide +kernel⟩

theorem witness_RegisterSpaceWrites_5 : ∃ (s : State) (w : Who) (a : BitVec 26) (g m : Nat) (v : Word), m = (s.cfgAt
  (0x100 + 8 * g)).toNat + 2 ^ 32 * (s.cfgAt (0x104 + 8 * g)).toNat ∧ s.hears w ∧ g < 8 ∧ a.toNat = 0x540000 + 0x4000
  * g ∧ v.getLsbD 2 = true ∧ v.toNat % 4 ≠ 3 := ⟨(up.setCfg 0x138 3).setCfg 0x13C 0x80000000, .brass, BitVec.ofNat 26
  (0x540000 + 0x4000 * 7), 7, _, 6, rfl, by decide +kernel⟩

theorem witness_SmbusTransactions_1 : ∃ (s : State) (v : BitVec 32), s.reachable .smbus = true := ⟨up, 5, by
  decide +kernel⟩

theorem witness_SmbusTransactions_2 : ∃ (s : State) (b0 b1 b2 b3 : Byte), s.hears .smbus ∧ s.smb.ptr = 0x60 :=
  ⟨{ up with smb := { up.smb with ptr := 0x60 } }, 1, 2, 3, 4, by decide +kernel⟩

theorem witness_SmbusTransactions_3 : ∃ (s : State), s.hears .smbus ∧ s.smb.ptr = 0x60 ∧ s.smb.rdlen = 4 :=
  ⟨{ up with smb := { up.smb with ptr := 0x60 } }, by decide +kernel⟩

theorem witness_SmbusTransactions_4 : ∃ (s : State) (v : Byte), s.reachable .smbus = true := ⟨up, 32, by
  decide +kernel⟩

theorem witness_SmbusTransactions_5 : ∃ (s : State), s.reachable .smbus = true := ⟨up, by decide +kernel⟩

theorem witness_SmbusTransactions_6 : ∃ (s : State) (wr : Option (BitVec 32)) (data : List Byte) (n : Option Byte),
  s.reachable .smbus = true := ⟨up, none, [], none, by decide +kernel⟩

theorem witness_JtagAndParityScan_1 : ∃ (s : State) (pins shift : List Bool), s.pins.pwrgd = true := ⟨up, [], [], by
  decide +kernel⟩

theorem witness_JtagAndParityScan_2 : ∃ (s : State) (pins shift : List Bool), s.pins.pwrgd = false :=
  ⟨{ up with pins := { up.pins with pwrgd := false } }, [], [], by decide +kernel⟩

theorem witness_JtagAndParityScan_3 : ∃ (s : State), s.on = true ∧ s.sys.parityBad = [] := ⟨up, by decide +kernel⟩

theorem witness_JtagAndParityScan_4 : ∃ (s : State) (p : Nat) (a : BitVec 26), s.on = true ∧ s.sys.parityBad = [] ∧ p
  < 64 ∧ a.toNat = aPrt p + 8 := ⟨up, 63, BitVec.ofNat 26 (aPrt 63 + 8), by decide +kernel⟩

theorem witness_ManagementFramesTaken_1 : ∃ (s v : State) (f : Mgmt), s.takeMgmt 1 f = some v ∧ s.brass = true ∧
  s.sys.outOfService = false ∧ s.ringFault f = none ∧ (s.mbx f.mbx.toNat).rq.wf = true ∧ (f.arg.getLsbD 31 = true →
  ringUsed (f.arg.toNat % 65536) (s.mbx f.mbx.toNat).rqHead ≤ (s.mbx f.mbx.toNat).rqN ∧ ringUsed (s.mbx
  f.mbx.toNat).rqTail (s.mbx f.mbx.toNat).rqHead ≤ ringUsed (f.arg.toNat % 65536) (s.mbx f.mbx.toNat).rqHead) := ⟨box
  1 [], _, { mgmt0 with offset := 3840, payload := List.replicate 256 1 }, (Option.some_get (by decide +kernel)).symm,
  by decide +kernel⟩

theorem witness_ManagementFramesTaken_2 : ∃ (s : State) (f : Mgmt), s.sys.outOfService = true :=
  ⟨{ up with sys := { up.sys with outOfService := true } }, mgmt0, by decide +kernel⟩

theorem witness_ManagementFramesTaken_3 : ∃ (s v : State) (f : Mgmt) (e : Nat), s.takeMgmt 1 f = some v ∧ s.brass =
  true ∧ s.sys.outOfService = false ∧ s.ringFault f = some e ∧ e ≠ 7 := ⟨box 1 [], _,
  { mgmt0 with offset := 4096, payload := [1] }, 8, (Option.some_get (by decide +kernel)).symm, by decide +kernel⟩

theorem witness_ManagementFramesTaken_4 : ∃ (s v : State) (f : Mgmt) (x : Xfer) (h : Nat), s.takeMgmt 3 f = some v ∧ h
  = f.arg.toNat % 65536 ∧ s.brass = true ∧ s.sys.outOfService = false ∧ s.bulkFault f = none ∧ s.xfer h = some x ∧
  x.data.wf = true := ⟨{ up with xfers := [(2, ⟨0, some (0x4040, false), .staging, 0, 0, 4, [], false⟩)] }, _,
  { mgmt0 with offset := 0, arg := 2, payload := [1, 2, 3, 4] }, ⟨0, some (0x4040, false), .staging, 0, 0, 4, [],
  false⟩, _, (Option.some_get (by decide +kernel)).symm, rfl, by decide +kernel⟩

theorem witness_ManagementFramesTaken_5 : ∃ (s v : State) (f : Mgmt) (e : Nat), s.takeMgmt 3 f = some v ∧ s.brass =
  true ∧ s.sys.outOfService = false ∧ s.bulkFault f = some e :=
  ⟨{ up with xfers := [(2, ⟨0, some (0x4040, false), .staging, 0, 0, 4, [], false⟩)] }, _,
  { mgmt0 with offset := 1, arg := 2, payload := [1, 2, 3, 4] }, eRange, (Option.some_get (by decide +kernel)).symm,
  by decide +kernel⟩

theorem witness_ManagementFramesTaken_6 : ∃ (s : State) (k : Nat) (f : Mgmt), (∀ q ∈ s.sol.queues, mgmtIs k f q =
  false) := ⟨up, 1, mgmt0, by decide +kernel⟩

theorem witness_ManagementFramesTaken_7 : ∃ (s : State) (k : Nat) (f : Mgmt) (q : QEnt), s.sol.queues.find? (mgmtIs k
  f) = some q ∧ q.outs = [79] ∧ s.isNext q = true := ⟨withMgmt 5 mgmt0, 5, mgmt0, mgmtQ 5 mgmt0, by decide +kernel⟩

theorem witness_ManagementFramesTaken_8 : ∃ (s : State) (f : Mgmt) (q : QEnt), s.isNext q = false :=
  ⟨{ withMgmt 5 mgmt0 with sol := { (withMgmt 5 mgmt0).sol with queues := [mgmtQ 5 { mgmt0 with tag := 8 }, { mgmtQ 5 mgmt0 with atUnit := some 1 }] } },
  mgmt0, { mgmtQ 5 mgmt0 with atUnit := some 1 }, by decide +kernel⟩

theorem witness_ManagementFramesTaken_9 : ∃ (s v u : State) (f : Mgmt) (n i : Nat) (bs : List Byte), s.brass = true ∧
  s.sys.outOfService = false ∧ s.takeMgmt 5 f = some v ∧ f.payload.length = 4 ∧ n = fld f.payload 0 4 ∧ 1 ≤ n ∧ n ≤ 64
  ∧ State.readWords (reqPath f) n n (f.arg.toNat % 2 ^ 26) v [] = (u, some bs, i) := ⟨up, _, _,
  { mgmt0 with arg := 0x60, payload := [1, 0, 0, 0] }, 1, _, toLe 4 0, by decide +kernel, by decide +kernel,
  (Option.some_get (by decide +kernel)).symm, by decide +kernel, by decide +kernel, by decide +kernel, by
  decide +kernel, Prod.ext rfl (Prod.ext (by decide +kernel) rfl)⟩

theorem witness_ManagementFramesTaken_10 : ∃ (s v u : State) (f : Mgmt) (n i : Nat), s.brass = true ∧
  s.sys.outOfService = false ∧ s.takeMgmt 5 f = some v ∧ f.payload.length = 4 ∧ n = fld f.payload 0 4 ∧ 1 ≤ n ∧ n ≤ 64
  ∧ State.readWords (reqPath f) n n (f.arg.toNat % 2 ^ 26) v [] = (u, none, i) := ⟨up, _, _,
  { mgmt0 with arg := 0x3FFFFFC, payload := [1, 0, 0, 0] }, 1, _, by decide +kernel, by decide +kernel,
  (Option.some_get (by decide +kernel)).symm, by decide +kernel, by decide +kernel, by decide +kernel, by
  decide +kernel, Prod.ext rfl (Prod.ext (by decide +kernel) rfl)⟩

theorem witness_ManagementFramesTaken_11 : ∃ (s v : State) (f : Mgmt), s.takeMgmt 5 f = some v ∧ s.brass = true ∧
  s.sys.outOfService = false ∧ s.hears (reqPath f) ∧ f.payload = [1, 0, 0, 0] ∧ f.arg.toNat % 2 ^ 26 = 0x60 := ⟨up, _,
  { mgmt0 with arg := 0x60, payload := [1, 0, 0, 0] }, (Option.some_get (by decide +kernel)).symm, by decide +kernel⟩

theorem witness_ManagementFramesTaken_12 : ∃ (s v u : State) (f : Mgmt) (o : Option Nat), s.brass = true ∧
  s.sys.outOfService = false ∧ s.takeMgmt 6 f = some v ∧ f.payload ≠ [] ∧ f.payload.length % 4 = 0 ∧ f.payload.length
  ≤ 256 ∧ State.writeWords (reqPath f) (toWords f.payload) (f.arg.toNat % 2 ^ 26) 0 v = (u, o) := ⟨up, _, _,
  { mgmt0 with arg := 0x60, payload := [1, 2, 3, 4] }, _, by decide +kernel, by decide +kernel, (Option.some_get (by
  decide +kernel)).symm, by decide +kernel, by decide +kernel, by decide +kernel, Prod.mk.eta.symm⟩

theorem witness_ManagementFramesTaken_13 : ∃ (s v : State) (f : Mgmt) (b0 b1 b2 b3 : Byte), s.takeMgmt 6 f = some v ∧
  s.brass = true ∧ s.sys.outOfService = false ∧ s.hears (reqPath f) ∧ f.payload = [b0, b1, b2, b3] ∧ f.arg.toNat % 2 ^
  26 = 0x60 := ⟨up, _, { mgmt0 with arg := 0x60, payload := [1, 2, 3, 4] }, 1, 2, 3, 4, (Option.some_get (by
  decide +kernel)).symm, by decide +kernel⟩

theorem witness_ManagementFramesTaken_14 : ∃ (s v : State) (f : Mgmt), s.takeMgmt 5 f = some v ∧ s.brass = true ∧
  s.sys.outOfService = false ∧ f.payload.length = 4 ∧ (fld f.payload 0 4 = 0 ∨ 64 < fld f.payload 0 4) := ⟨up, _,
  { mgmt0 with payload := [65, 0, 0, 0] }, (Option.some_get (by decide +kernel)).symm, by decide +kernel⟩

theorem witness_CellFramesAndReset_1 : ∃ (s v : State) (f : Mgmt) (cell : Bool), s.takeMgmt 0xD f = some v ∧ s.brass =
  true ∧ s.sys.outOfService = false ∧ s.meshGroup (f.port.toNat / 4) = true := ⟨up, _, { mgmt0 with arg := 4 }, false,
  (Option.some_get (by decide +kernel)).symm, by decide +kernel⟩

theorem witness_CellFramesAndReset_2 : ∃ (s : State), s.brass = true ∧ s.sys.helloAt + 100000000 ≤ s.clk := ⟨up, by
  decide +kernel⟩

theorem witness_CellFramesAndReset_3 : ∃ (s v : State) (f : Mgmt), s.takeMgmt 9 f = some v ∧ s.brass = true ∧
  s.sys.outOfService = false ∧ s.cellMate f.src.toNat = true ∧ f.payload.length = 128 ∧ f.arg.getLsbD 31 = false :=
  ⟨up, _, { mgmt0 with payload := List.replicate 128 0 }, (Option.some_get (by decide +kernel)).symm, by
  decide +kernel⟩

theorem witness_CellFramesAndReset_4 : ∃ (s v : State) (f : Mgmt), s.takeMgmt 9 f = some v ∧ s.brass = true ∧
  s.sys.outOfService = false ∧ s.cellMate f.src.toNat = true ∧ f.payload.length = 128 ∧ f.arg.getLsbD 31 = true ∧
  (s.heldRx ++ [f.payload]).length = f.arg.toNat % 65536 := ⟨up, _,
  { mgmt0 with arg := 0x80000001, payload := List.replicate 128 0 }, (Option.some_get (by decide +kernel)).symm, by
  decide +kernel⟩

theorem witness_CellFramesAndReset_5 : ∃ (s : State) (ds : List Nat), ds = ((((s.ctxs.filter (fun e =>
  e.2.holdUntil.isSome && !e.2.heldSent)).flatMap (fun e => e.2.holdLost)).eraseDups).filter (fun a => addrCell a ==
  s.sys.cell && a != s.addr)) ∧ s.brass = true ∧ s.flt.lost = [] ∧ (s.ctxs.filter (fun e => e.2.holdUntil.isSome &&
  !e.2.heldSent)) ≠ [] ∧ s.heldSender ds = true := ⟨withCtx up
  { open0 with holdUntil := some 0, holdLost := [0x4010] }, _, rfl, by decide +kernel⟩

theorem witness_CellFramesAndReset_6 : ∃ (s v : State) (f : Mgmt), s.takeMgmt 0xE f = some v ∧ s.brass = true ∧
  s.sys.outOfService = false ∧ s.cellMate f.src.toNat = true ∧ f.host = false ∧ f.payload.length = 10 := ⟨up, _,
  { mgmt0 with payload := List.replicate 10 0 }, (Option.some_get (by decide +kernel)).symm, by decide +kernel⟩

theorem witness_CellFramesAndReset_7 : ∃ (s : State) (b : BootObs) (w : Nat), s.on = true ∧ s.sys.cellW = some w ∧ w ≤
  s.now := ⟨{ up with sys := { up.sys with cellW := some 1000000 } }, boot0, 1000000, by decide +kernel⟩

theorem witness_CellFramesAndReset_8 : ∃ (s : State) (n : Nat), s.pins.romBar = some n :=
  ⟨{ up with pins := { up.pins with romBar := some 1010000 } }, 1010000, by decide +kernel⟩

theorem witness_CellFramesAndReset_9 : ∃ (s : State) (b : BootObs) (w : Nat), s.sys.cellW = some w ∧ s.now < w :=
  ⟨{ up with sys := { up.sys with cellW := some 1000001 } }, boot0, 1000001, by decide +kernel⟩

theorem witness_CellFramesAndReset_10 : ∃ (s : State), s.brass = true ∧ s.sys.resetCause = 3 ∧ s.sys.resetAt + 100000
  ≤ s.clk := ⟨{ up with sys := { up.sys with resetCause := 3 } }, by decide +kernel⟩

theorem witness_CellFramesAndReset_11 : ∃ (s : State), s.brass = true ∧ s.sys.resetCause = 3 ∧ s.sys.resetAt +
  3000000000 ≤ s.clk := ⟨{ up with sys := { up.sys with resetCause := 3 } }, by decide +kernel⟩

theorem witness_FlitsReceivedInSequence_1 : ∃ (s : State) (p : BitVec 6) (raw : List Byte) (ws : List LaneWord) (f :
  Flit), rxFlit raw ws = some f ∧ s.on = true ∧ (s.port p.toNat).st = .active ∧ f.typ = 0 ∧ flitMalformed f = false :=
  ⟨onPort 40 lit, 40, flitBytes (flit0), [], flitFields (flitBytes (flit0)), rxFlit_own _ (by decide +kernel) (by
  decide +kernel) (by decide +kernel), by decide +kernel, by decide +kernel, by decide +kernel, by decide +kernel⟩

theorem witness_FlitsReceivedInSequence_2 : ∃ (s : State) (p : BitVec 6) (raw : List Byte) (ws : List LaneWord) (f :
  Flit), rxFlit raw ws = some f ∧ s.on = true ∧ (s.port p.toNat).st = .active ∧ f.typ = 1 ∧ f.sof = true ∧ f.seq =
  (s.port p.toNat).e ∧ flitMalformed f = false ∧ s.vcOn p.toNat f.vc.toNat = true ∧ tget (s.port p.toNat).rxHeld
  f.vc.toNat 0 < tget (s.port p.toNat).plimit f.vc.toNat (s.vcLimit p.toNat f.vc.toNat) ∧ (∀ u ∈ (s.port
  p.toNat).unacked, seqBefore u.seq f.ackSeq = false) ∧ (∀ x ∈ (s.paux p.toNat).asm, x.vc = f.vc.toNat → x.eof = true)
  ∧ (∀ q ∈ s.sol.queues, q.id ≠ s.sol.nextId) ∧ (∀ q ∈ s.sol.descWait, q.id ≠ s.sol.nextId) := ⟨onPort 40 lit, 40,
  flitBytes ({ flit0 with typ := 1, vc := 10, sof := true, eof := true, len := 36 }), [], flitFields (flitBytes
  ({ flit0 with typ := 1, vc := 10, sof := true, eof := true, len := 36 })), rxFlit_own _ (by decide +kernel) (by
  decide +kernel) (by decide +kernel), by decide +kernel, by decide +kernel, by decide +kernel, by decide +kernel, by
  decide +kernel, by decide +kernel, by decide +kernel, by decide +kernel, by decide +kernel, by decide +kernel, by
  decide +kernel⟩

theorem witness_FlitsReceivedInSequence_3 : ∃ (s : State) (p : BitVec 6) (raw : List Byte) (ws : List LaneWord) (f :
  Flit), rxFlit raw ws = some f ∧ s.on = true ∧ (s.port p.toNat).st = .active ∧ (f.typ = 1 ∨ f.typ = 2) ∧ seqBefore
  f.seq (s.port p.toNat).e = true ∧ (∀ u ∈ (s.port p.toNat).unacked, seqBefore u.seq f.ackSeq = false) := ⟨onPort 40
  { lit with e := 1 }, 40, flitBytes ({ flit0 with typ := 1, vc := 10, sof := true, eof := true, len := 36 }), [],
  flitFields (flitBytes ({ flit0 with typ := 1, vc := 10, sof := true, eof := true, len := 36 })), rxFlit_own _ (by
  decide +kernel) (by decide +kernel) (by decide +kernel), by decide +kernel, by decide +kernel, by decide +kernel, by
  decide +kernel, by decide +kernel⟩

theorem witness_FlitsReceivedInSequence_4 : ∃ (s : State) (p : BitVec 6) (raw : List Byte) (ws : List LaneWord) (f :
  Flit), rxFlit raw ws = some f ∧ s.on = true ∧ (s.port p.toNat).st = .active ∧ (f.typ = 1 ∨ f.typ = 2) ∧ f.seq ≠
  (s.port p.toNat).e ∧ seqBefore f.seq (s.port p.toNat).e = false ∧ (s.port p.toNat).nakWait = false ∧ (∀ u ∈ (s.port
  p.toNat).unacked, seqBefore u.seq f.ackSeq = false) ∧ (s.paux p.toNat).viols.length < 63 := ⟨onPort 40 lit, 40,
  flitBytes ({ flit0 with typ := 1, vc := 10, seq := 1, sof := true, eof := true, len := 36 }), [], flitFields
  (flitBytes ({ flit0 with typ := 1, vc := 10, seq := 1, sof := true, eof := true, len := 36 })), rxFlit_own _ (by
  decide +kernel) (by decide +kernel) (by decide +kernel), by decide +kernel, by decide +kernel, by decide +kernel, by
  decide +kernel, by decide +kernel, by decide +kernel, by decide +kernel, by decide +kernel⟩

theorem witness_RetryMessages_1 : ∃ (s : State) (p : BitVec 6) (raw : List Byte) (ws : List LaneWord), rxFlit raw ws =
  none ∧ s.on = true ∧ ((s.port p.toNat).st = .active ∨ (s.port p.toNat).st = .retrain) ∧ (∀ i, i < 4 → (s.lane (4 *
  p.toNat + i)).uncorr.length + ws.length ≤ 16) := ⟨onPort 40 lit, 40, [], [⟨1, []⟩], by decide +kernel⟩

theorem witness_RetryMessages_2 : ∃ (s : State) (p : BitVec 6), s.on = true ∧ (s.port p.toNat).st = .active ∧ (s.port
  p.toNat).nakWait = true ∧ (s.port p.toNat).nakAt + 2000 ≤ s.clk := ⟨onPort 40 { lit with nakWait := true }, 40, by
  decide +kernel⟩

theorem witness_RetryMessages_3 : ∃ (s : State) (p : BitVec 6) (e : BitVec 13) (a b : List TxFlit) (u : TxFlit), s.on
  = true ∧ (s.port p.toNat).st = .active ∧ (s.port p.toNat).unacked = a ++ u :: b ∧ u.seq = e ∧ (∀ x ∈ a, seqBefore
  x.seq e = true) ∧ (∀ x ∈ b, seqBefore x.seq e = false) ∧ (a ≠ [] ∨ (s.port p.toNat).replays < 8) := ⟨onPort 40
  { lit with unacked := [txf 0, txf 1, txf 2] }, 40, 1, [txf 0], [txf 2], txf 1, by decide +kernel⟩

theorem witness_RetryMessages_4 : ∃ (s : State) (p : BitVec 6) (e : BitVec 13), s.on = true ∧ (s.port p.toNat).st =
  .active ∧ (∀ u ∈ (s.port p.toNat).unacked, u.seq ≠ e) ∧ e ≠ (s.port p.toNat).seqNext := ⟨onPort 40
  { lit with unacked := [txf 8191], seqNext := 0 }, 40, 7, by decide +kernel⟩

theorem witness_RetryMessages_5 : ∃ (s : State) (p : BitVec 6) (u : TxFlit) (l : List TxFlit), s.on = true ∧ (s.port
  p.toNat).st = .active ∧ (s.port p.toNat).unacked = u :: l ∧ (s.port p.toNat).ackAt + 10000 ≤ s.clk := ⟨onPort 40
  { lit with unacked := [txf 8191] }, 40, txf 8191, [], by decide +kernel⟩

theorem witness_RetrainAndCreditSync_1 : ∃ (s : State) (p : BitVec 6) (r : Byte), s.on = true ∧ (s.port p.toNat).st =
  .active ∧ ((s.paux p.toNat).retrains.filter (fun t => decide (s.clk < t + 1000000000))).length < 3 := ⟨onPort 40
  lit, 40, 0, by decide +kernel⟩

theorem witness_RetrainAndCreditSync_2 : ∃ (s : State) (p : BitVec 6) (next : BitVec 13) (lims : List (BitVec 16 ×
  BitVec 16)), s.on = true ∧ ((s.port p.toNat).st = .training ∨ (s.port p.toNat).st = .retrain) ∧ s.lanes7 p.toNat ≠
  [] ∧ (s.paux p.toNat).syncAck = false ∧ (∀ u ∈ (s.port p.toNat).unacked, seqBefore u.seq next = false) := ⟨(onPort
  40 { lit with st := .retrain }).setLane 160 { Lane.init with phase := 7 }, 40, 0, List.replicate 16 (64, 64), by
  decide +kernel⟩

theorem witness_RetrainAndCreditSync_3 : ∃ (s : State) (p : BitVec 6) (next : BitVec 13), next = (s.port p.toNat).e ∧
  s.on = true ∧ ((s.port p.toNat).st = .training ∨ (s.port p.toNat).st = .retrain) ∧ s.lanes7 p.toNat ≠ [] ∧ (s.paux
  p.toNat).syncRx = true := ⟨((onPort 40 { lit with st := .retrain }).setLane 160
  { Lane.init with phase := 7 }).setPaux 40 { PortAux.init with syncRx := true }, 40, _, rfl, by decide +kernel⟩

theorem witness_RetrainAndCreditSync_4 : ∃ (s : State) (p : BitVec 6) (c n : Byte) (q : BitVec 13) (v : Byte) (k :
  Count), s.on = true ∧ ((s.port p.toNat).st = .active ∨ (s.port p.toNat).st = .retrain) := ⟨onPort 40 lit, 40, 1, 1,
  0, 0, ⟨0, 0⟩, by decide +kernel⟩

theorem witness_PortsGo_1 : ∃ (s : State) (p : BitVec 6) (r : Byte) (c : Count), s.on = true ∧ (s.port p.toNat).st =
  .active := ⟨onPort 40 lit, 40, 0, ⟨0, 0⟩, by decide +kernel⟩

theorem witness_PortsGo_2 : ∃ (s : State) (p : BitVec 6), s.on = true ∧ (s.port p.toNat).st = .active ∧ (s.paux
  p.toNat).lastGood + 2000 ≤ s.clk := ⟨onPort 40 lit, 40, by decide +kernel⟩

theorem witness_PortsGo_3 : ∃ (s : State) (p : BitVec 6) (t0 : Nat), s.on = true ∧ (s.port p.toNat).st = .retrain ∧
  (s.paux p.toNat).retrainAt = some t0 ∧ t0 + 50000000 ≤ s.clk := ⟨(onPort 40 { lit with st := .retrain }).setPaux 40
  { PortAux.init with retrainAt := some 0 }, 40, 0, by decide +kernel⟩

theorem witness_PortsGo_4 : ∃ (s : State) (p : Nat) (st : PortState) (r : Option Nat), p < 32 ∧ (s.port ((p + 16) %
  32)).st = .active ∧ (s.paux ((p + 16) % 32)).badVersion = false ∧ ((s.port p).st = .active ∨ (s.port p).st =
  .retrain) ∧ (s.paux p).asm = [] ∧ (s.port p).unacked = [] ∧ (s.port p).egress = [] ∧ (∀ q ∈ s.sol.queues, p ∉
  q.outs) ∧ (∀ q ∈ s.sol.descWait, p ∉ q.outs) := ⟨(onPort 31 lit).setPort 15 lit, 31, .down, some 3, by
  decide +kernel⟩

theorem witness_LaneReportsTaken_1 : ∃ (s : State) (l : BitVec 9) (ws : List (BitVec 40)) (w : BitVec 40), s.on = true
  ∧ sideHeard 1 ws = some w := ⟨up, 263, said 1 1023 3 63, word 1 1023 3 63, by decide +kernel⟩

theorem witness_LaneReportsTaken_2 : ∃ (s : State) (l : BitVec 9) (ws : List (BitVec 40)) (w : BitVec 40), s.on = true
  ∧ sideHeard 7 ws = some w := ⟨up, 263, said 7 6 3 63, word 7 6 3 63, by decide +kernel⟩

theorem witness_LaneReportsTaken_3 : ∃ (s : State) (l : BitVec 9) (ws : List (BitVec 40)), s.on = true := ⟨up, 263,
  [], by decide +kernel⟩

theorem witness_LaneReportsTaken_4 : ∃ (s : State) (l : BitVec 9) (o : MarkerObs) (inv : Bool), s.on = true ∧ aligned
  o = some inv ∧ 256 ≤ l.toNat ∧ s.sparedFor l.toNat = none := ⟨up, 263, marker0, false, by decide +kernel⟩

theorem witness_LaneReportsTaken_5 : ∃ (s : State) (l : BitVec 9) (o : MarkerObs) (inv : Bool) (k : Nat), s.on = true
  ∧ aligned o = some inv ∧ (if l.toNat < 256 then some l.toNat else s.sparedFor l.toNat) = some k := ⟨(up.setLane 252
  { Lane.init with markAt := some 9 }), 255, marker0, false, 255, by decide +kernel⟩

theorem witness_LaneReportsTaken_6 : ∃ (s : State) (l : BitVec 9) (ms : List (List (BitVec 2))) (m : Nat), m =
  missedAfter (s.lane l.toNat).inverted (s.lane l.toNat).missed ms ∧ s.on = true ∧ (s.lane l.toNat).lock = true ∧
  (s.lane l.toNat).inService = false := ⟨up.setLane 263 { Lane.init with lock := true }, 263, [[], [], []], _, rfl, by
  decide +kernel⟩

theorem witness_LaneReportsTaken_7 : ∃ (s : State) (l : BitVec 9) (ws : List (BitVec 40)) (w : BitVec 40) (tap op v :
  Nat), tap = bits (wordSb w) 3 0 ∧ op = bits (wordSb w) 5 4 ∧ v = (s.lane l.toNat).txEq.getD tap 0 ∧ s.on = true ∧
  sideHeard 2 ws = some w ∧ tap < 6 ∧ (s.lane l.toNat).txEq.length = 6 ∧ ¬(op = 1 ∧ v = 31) ∧ ¬(op = 2 ∧ v = 0) :=
  ⟨up, 263, said 2 (16 * 1 + 5) 3 63, word 2 (16 * 1 + 5) 3 63, _, _, _, rfl, rfl, rfl, by decide +kernel⟩

theorem witness_LaneReportsTaken_8 : ∃ (s : State) (l : BitVec 9) (f : FomSample) (n : Nat), s.on = true ∧ fomValue f
  = some n ∧ ((s.lane l.toNat).inService = false ∨ (s.warnAt l.toNat ≤ n ∧ s.failAt l.toNat ≤ n)) := ⟨up, 0, ⟨0, 30,
  1, 1, 1, 1⟩, 223, by decide +kernel⟩

theorem witness_LaneReportsTaken_9 : ∃ (s : State) (l n : Nat), l < 256 ∧ (s.lane l).phase = 4 := ⟨up.setLane 160
  { Lane.init with phase := 4 }, 160, 3, by decide +kernel⟩

theorem witness_LaneReportsTaken_10 : ∃ (s : State) (l n : Nat), l < 256 ∧ ((s.lane l).phase < 4 ∨ 5 < (s.lane
  l).phase) := ⟨up, 160, 3, by decide +kernel⟩

theorem witness_LaneReportsTaken_10b : ∃ (s : State) (l n : Nat), l < 256 ∧ ((s.lane l).phase < 4 ∨ 5 < (s.lane
  l).phase) := ⟨up.setLane 160 { Lane.init with phase := 6 }, 160, 3, by decide +kernel⟩

theorem witness_FigureOfMeritIsFloor_1 : ∃ (f : FomSample) (n d v : Nat), v = f.var0 + f.var1 + f.var2 + f.var3 ∧
  f.mu3 - f.mu0 = d ∧ 0 < d ∧ 0 < v := ⟨⟨0, 30, 1, 1, 1, 1⟩, 181, 30, _, rfl, by decide +kernel⟩

theorem witness_SparingAndWidthChange_1 : ∃ (s : State) (l : BitVec 9), s.on = true ∧ l.toNat < 256 ∧ (s.lane
  l.toNat).inService = true ∧ (s.lane l.toNat).failed = false ∧ (s.lane l.toNat).fenced = false ∧ (s.lane (spareOf
  l.toNat)).spared = false ∧ (s.lane (spareOf l.toNat)).failed = false ∧ (s.lane (spareOf l.toNat)).fenced = false :=
  ⟨(onPort 40 lit).setLane 160 { Lane.init with phase := 7, inService := true }, 160, by decide +kernel⟩

theorem witness_SparingAndWidthChange_2 : ∃ (s : State) (p : BitVec 6) (i : BitVec 2) (o : PhaseObs), s.on = true ∧
  (s.paux p.toNat).sparing = some i.toNat ∧ (s.lane (spareOf (4 * p.toNat + i.toNat))).phase = 5 ∧ (s.lane (spareOf (4
  * p.toNat + i.toNat))).phaseAt + 10000000 ≤ s.clk ∧ fecOk o = true ∧ s.clk ≤ (s.paux p.toNat).spareAt + 60000000 :=
  ⟨(((onPort 40 lit).setLane 160 { Lane.init with phase := 7, inService := true }).setLane 261
  { Lane.init with phase := 5, spared := true }).setPaux 40
  { PortAux.init with sparing := some 3, spareAt := 9990000000 }, 40, 3, phase0, by decide +kernel⟩

theorem witness_SparingAndWidthChange_3 : ∃ (s : State) (p : BitVec 6) (i : BitVec 2) (o : PhaseObs), s.on = true ∧
  (s.paux p.toNat).sparing = some i.toNat ∧ (s.lane (4 * p.toNat + i.toNat)).failed = false ∧ (s.paux p.toNat).spareAt
  + 60000000 < s.clk := ⟨(((onPort 40 lit).setLane 160 { Lane.init with phase := 7, inService := true }).setLane 261
  { Lane.init with phase := 5, spared := true }).setPaux 40 { PortAux.init with sparing := some 3 }, 40, 3, phase0, by
  decide +kernel⟩

theorem witness_SparingAndWidthChange_4 : ∃ (s u : State) (p : BitVec 6) (i : BitVec 2) (o : PhaseObs) (l : Nat), u =
  State.answerSpare ((s.setPaux p.toNat { s.paux p.toNat with sparing := none }).setLane (spareOf l)
  { s.lane (spareOf l) with spared := false, phase := 0 }) p.toNat i.toNat false ∧ s.on = true ∧ l = 4 * p.toNat +
  i.toNat ∧ (s.paux p.toNat).sparing = some i.toNat ∧ (s.lane l).failed = true ∧ (s.paux p.toNat).spareAt + 60000000 <
  s.clk := ⟨((onPort 40 lit).setLane 163 { Lane.init with failed := true }).setPaux 40
  { PortAux.init with sparing := some 3, spareAt := 0 }, _, 40, 3, phase0, 163, rfl, by decide +kernel⟩

theorem witness_SparingAndWidthChange_5 : ∃ (s : State) (p : BitVec 6) (ws : List (BitVec 40)) (w : BitVec 40) (i :
  Nat), i = bits (wordSb w) 1 0 ∧ sideHeard 5 ws = some w ∧ s.on = true ∧ ((s.port p.toNat).st = .active ∨ (s.port
  p.toNat).st = .retrain) ∧ (s.portPeer p.toNat).isSome = true := ⟨((onPort 40 lit).setLane 160
  { Lane.init with phase := 7, inService := true }).setLane 261 { Lane.init with spared := true }, 40, said 5 3 0 0,
  word 5 3 0 0, _, rfl, by decide +kernel⟩

theorem witness_SparingAndWidthChange_5b : ∃ (s : State) (p : BitVec 6) (ws : List (BitVec 40)) (w : BitVec 40) (i :
  Nat), i = bits (wordSb w) 1 0 ∧ sideHeard 5 ws = some w ∧ s.on = true ∧ ((s.port p.toNat).st = .active ∨ (s.port
  p.toNat).st = .retrain) ∧ (s.portPeer p.toNat).isSome = true := ⟨((onPort 40 lit).setLane 160
  { Lane.init with phase := 7, inService := true }), 40, said 5 3 0 0, word 5 3 0 0, _, rfl, by decide +kernel⟩

theorem witness_SparingAndWidthChange_6 : ∃ (s : State) (p : BitVec 6) (ws : List (BitVec 40)) (w : BitVec 40) (i :
  Nat), i = bits (wordSb w) 1 0 ∧ sideHeard 6 ws = some w ∧ s.on = true ∧ (s.lane (4 * p.toNat + i)).failed = true ∧
  (s.lane (4 * p.toNat + i)).fenced = false ∧ (s.paux p.toNat).sparing ≠ some i := ⟨(onPort 40 lit).setLane 163
  { Lane.init with failed := true }, 40, said 6 7 0 0, word 6 7 0 0, _, rfl, by decide +kernel⟩

theorem witness_SparingAndWidthChange_6b : ∃ (s : State) (p : BitVec 6) (ws : List (BitVec 40)) (w : BitVec 40) (i :
  Nat), i = bits (wordSb w) 1 0 ∧ sideHeard 6 ws = some w ∧ s.on = true ∧ (s.lane (4 * p.toNat + i)).failed = true ∧
  (s.lane (4 * p.toNat + i)).fenced = false ∧ (s.paux p.toNat).sparing ≠ some i := ⟨(onPort 40 lit).setLane 163
  { Lane.init with failed := true }, 40, said 6 3 0 0, word 6 3 0 0, _, rfl, by decide +kernel⟩

theorem witness_SparingAndWidthChange_7 : ∃ (s : State) (l : Nat), (s.port (l / 4)).st = .active := ⟨onPort 40 lit,
  160, by decide +kernel⟩

theorem witness_SparingAndWidthChange_8 : ∃ (s : State) (l : Nat), (s.port (l / 4)).st ≠ .active ∧ (∀ i, i <
  s.trainWidth (l / 4) → 4 * (l / 4) + i = l ∨ (s.lane (4 * (l / 4) + i)).fenced = true) := ⟨((((up.setPort 40
  { Port.init with st := .training }).setLane 161 { Lane.init with fenced := true }).setLane 162
  { Lane.init with fenced := true }).setLane 163 { Lane.init with fenced := true }), 160, by decide +kernel⟩

theorem witness_SparingAndWidthChange_9 : ∃ (s : State) (p : BitVec 6) (ws : List (BitVec 40)) (w : BitVec 40) (m :
  BitVec 4), m = BitVec.ofNat 4 (bits (wordSb w) 3 0) ∧ sideHeard 4 ws = some w ∧ s.on = true ∧ ((s.port p.toNat).st =
  .active ∨ (s.port p.toNat).st = .retrain) := ⟨((onPort 40 lit).setLane 160
  { Lane.init with phase := 7, inService := true }), 40, said 4 (7 + 16 * 9) 0 0, word 4 (7 + 16 * 9) 0 0, _, rfl, by
  decide +kernel⟩

theorem witness_SparingAndWidthChange_10 : ∃ (s : State) (p : BitVec 6) (m : BitVec 4) (b : Nat) (l : List (BitVec 4 ×
  Nat)), s.on = true ∧ (s.paux p.toNat).rxWidth = (m, b) :: l ∧ (s.rxBlock p.toNat + 2048 - b) % 2048 < 1024 ∧
  ((s.paux p.toNat).width.head?.bind Prod.snd) = none := ⟨(onPort 40 lit).setPaux 40
  { PortAux.init with rxWidth := [(7, 0)] }, 40, 7, 0, [], by decide +kernel⟩

theorem witness_SparingAndWidthChange_11 : ∃ (s : State) (p : BitVec 6) (m : BitVec 4) (b : Nat) (l : List (BitVec 4 ×
  Option Nat)), s.on = true ∧ (s.paux p.toNat).width = (m, some b) :: l ∧ b ≤ blockAt s.clk ∧ m ≠ 0 := ⟨(onPort 40
  lit).setPaux 40 { PortAux.init with width := [(7, some 0)] }, 40, 7, 0, [], by decide +kernel⟩

theorem witness_TrainingStepsTaken_1 : ∃ (s : State) (l : BitVec 9) (o : PhaseObs), l.toNat < 256 ∧ s.mayTrain
  (l.toNat / 4) = true ∧ l.toNat % 4 < s.trainWidth (l.toNat / 4) ∧ (s.lane l.toNat).fenced = false ∧ (s.lane
  l.toNat).failed = false ∧ (s.port (l.toNat / 4)).st ≠ .active ∧ (s.lane l.toNat).phase < 6 ∧ s.phaseOk l.toNat =
  true ∧ s.phasePass l.toNat o = false := ⟨(up.setPort 40 { Port.init with st := .training }).setLane 160
  { Lane.init with phase := 5 }, 160, ⟨0, 0, 1, 1, 0⟩, by decide +kernel⟩

theorem witness_TrainingStepsTaken_2 : ∃ (s : State) (l : BitVec 9) (o : PhaseObs) (k : Nat), 256 ≤ l.toNat ∧ s.on =
  true ∧ s.sparedFor l.toNat = some k ∧ 1 ≤ (s.lane l.toNat).phase ∧ (s.lane l.toNat).phase < 5 ∧ s.phaseOk l.toNat =
  true ∧ s.phasePass l.toNat o = true := ⟨((up.setPort 40 { Port.init with st := .training }).setLane 261
  { Lane.init with phase := 1, spared := true }).setPaux 40 { PortAux.init with sparing := some 3 }, 261, phase0, 163,
  by decide +kernel⟩

theorem witness_TrainingStepsTaken_3 : ∃ (s : State) (l : BitVec 9) (o : PhaseObs), l.toNat < 256 ∧ s.mayTrain
  (l.toNat / 4) = true ∧ l.toNat % 4 < s.trainWidth (l.toNat / 4) ∧ (s.lane l.toNat).fenced = false ∧ (s.lane
  l.toNat).failed = false ∧ (s.port (l.toNat / 4)).st ≠ .active ∧ (s.lane l.toNat).phase < 6 ∧ s.phaseOk l.toNat =
  true ∧ s.phasePass l.toNat o = true := ⟨up, 163, phase0, by decide +kernel⟩

theorem witness_TrainingStepsTaken_3b : ∃ (s : State) (l : BitVec 9) (o : PhaseObs), l.toNat < 256 ∧ s.mayTrain
  (l.toNat / 4) = true ∧ l.toNat % 4 < s.trainWidth (l.toNat / 4) ∧ (s.lane l.toNat).fenced = false ∧ (s.lane
  l.toNat).failed = false ∧ (s.port (l.toNat / 4)).st ≠ .active ∧ (s.lane l.toNat).phase < 6 ∧ s.phaseOk l.toNat =
  true ∧ s.phasePass l.toNat o = true := ⟨(up.setPort 40 { Port.init with st := .training }).setLane 160
  { Lane.init with phase := 5 }, 160, phase0, by decide +kernel⟩

theorem witness_TrainingStepsTaken_4 : ∃ (s : State) (l : BitVec 9) (o : PhaseObs), l.toNat < 256 ∧ s.mayTrain
  (l.toNat / 4) = true ∧ l.toNat % 4 < s.trainWidth (l.toNat / 4) ∧ (s.lane l.toNat).fenced = false ∧ (s.lane
  l.toNat).failed = false ∧ (s.port (l.toNat / 4)).st ≠ .active ∧ (s.lane l.toNat).phase = 6 ∧ (∀ i ∈ s.lanesTraining
  (l.toNat / 4), (s.lane (4 * (l.toNat / 4) + i)).phase = 6 ∧ (s.lane (4 * (l.toNat / 4) + i)).paramOk = some true) :=
  ⟨((((up.setPort 40 { Port.init with st := .training }).setLane 160
  { Lane.init with phase := 6, paramOk := some true }).setLane 161
  { Lane.init with phase := 6, paramOk := some true }).setLane 162
  { Lane.init with phase := 6, paramOk := some true }).setLane 163
  { Lane.init with phase := 6, paramOk := some true }, 160, phase0, by decide +kernel⟩

theorem witness_TrainingStepsTaken_5 : ∃ (s : State) (l : BitVec 9) (ws : List (BitVec 40)) (w : BitVec 40), sideHeard
  3 ws = some w ∧ s.on = true ∧ l.toNat < 256 ∧ (s.lane l.toNat).phase = 6 ∧ bits (wordSb w) 3 0 = 1 ∧ bit (wordSb w)
  4 = s.irc.hall ∧ (∀ q, s.peerPort (l.toNat / 4) = some q → q = wordPort w) ∧ wordLane w = l.toNat % 4 ∧ l.toNat % 4
  < bits (wordSb w) 7 5 := ⟨((((up.setPort 40 { Port.init with st := .training }).setLane 160
  { Lane.init with phase := 6, paramOk := some true }).setLane 161
  { Lane.init with phase := 6, paramOk := some true }).setLane 162
  { Lane.init with phase := 6, paramOk := some true }).setLane 163
  { Lane.init with phase := 6, paramOk := some true }, 160, said 3 (1 + 128) 0 32, word 3 (1 + 128) 0 32, by
  decide +kernel⟩

theorem witness_TrainingStepsTaken_6 : ∃ (s : State) (l : BitVec 9) (ws : List (BitVec 40)) (w : BitVec 40), sideHeard
  3 ws = some w ∧ s.on = true ∧ l.toNat < 256 ∧ (s.lane l.toNat).phase = 6 ∧ (bits (wordSb w) 3 0 ≠ 1 ∨ bit (wordSb w)
  4 ≠ s.irc.hall ∨ wordLane w ≠ l.toNat % 4 ∨ (∃ q, s.peerPort (l.toNat / 4) = some q ∧ q ≠ wordPort w)) :=
  ⟨((up.setPort 40 { Port.init with st := .training }).setLane 160 { Lane.init with phase := 6 }), 160, said 3 (2 +
  128) 0 32, word 3 (2 + 128) 0 32, by decide +kernel⟩

theorem witness_TrainingStepsTaken_6b : ∃ (s : State) (l : BitVec 9) (ws : List (BitVec 40)) (w : BitVec 40),
  sideHeard 3 ws = some w ∧ s.on = true ∧ l.toNat < 256 ∧ (s.lane l.toNat).phase = 6 ∧ (bits (wordSb w) 3 0 ≠ 1 ∨ bit
  (wordSb w) 4 ≠ s.irc.hall ∨ wordLane w ≠ l.toNat % 4 ∨ (∃ q, s.peerPort (l.toNat / 4) = some q ∧ q ≠ wordPort w)) :=
  ⟨((up.setPort 40 { Port.init with st := .training }).setLane 160 { Lane.init with phase := 6 }), 160, said 3 (1 +
  128) 1 32, word 3 (1 + 128) 1 32, by decide +kernel⟩

theorem witness_TrainingStepsTaken_6c : ∃ (s : State) (l : BitVec 9) (ws : List (BitVec 40)) (w : BitVec 40),
  sideHeard 3 ws = some w ∧ s.on = true ∧ l.toNat < 256 ∧ (s.lane l.toNat).phase = 6 ∧ (bits (wordSb w) 3 0 ≠ 1 ∨ bit
  (wordSb w) 4 ≠ s.irc.hall ∨ wordLane w ≠ l.toNat % 4 ∨ (∃ q, s.peerPort (l.toNat / 4) = some q ∧ q ≠ wordPort w)) :=
  ⟨((up.setPort 40 { Port.init with st := .training }).setLane 160 { Lane.init with phase := 6 }), 160, said 3 (1 + 16
  + 128) 0 32, word 3 (1 + 16 + 128) 0 32, by decide +kernel⟩

theorem witness_TrainingStepsTaken_7 : ∃ (s : State) (p : BitVec 6), s.on = true ∧ (s.paux p.toNat).refused = true ∧
  (s.paux p.toNat).paramAt + 100000000 ≤ s.clk ∧ s.lanesIn p.toNat 6 ≠ [] := ⟨((up.setPort 40
  { Port.init with st := .training }).setLane 160 { Lane.init with phase := 6 }).setPaux 40
  { PortAux.init with refused := true }, 40, by decide +kernel⟩

theorem witness_TrainingStepsTaken_8 : ∃ (s : State) (l : BitVec 9) (n : Nat), s.on = true ∧ l.toNat < 256 ∧ (s.port
  (l.toNat / 4)).st = .training ∧ phaseLimit (s.lane l.toNat).phase = some n ∧ (s.lane l.toNat).phaseAt + n ≤ s.clk ∧
  ((s.lane l.toNat).phase = 6 → (s.lane l.toNat).paramOk = none) := ⟨((up.setPort 40
  { Port.init with st := .training }).setLane 160 { Lane.init with phase := 6 }), 160, 5000000, by decide +kernel⟩

theorem witness_FlitTimesInOrder_1 : ∃ (s : State) (p : BitVec 6) (c k : Nat) (sq : BitVec 13) (vc : BitVec 4),
  s.pins.floating = false ∧ (s.port p.toNat).st = .active ∧ (s.port p.toNat).linkQ = [] ∧ (s.paux p.toNat).violSince ≠
  0 ∧ (∀ k, (s.paux p.toNat).violAt = some k → k + 100 ≤ s.clk) ∧ (s.paux p.toNat).violLast = (c, sq, vc, k) :=
  ⟨(onPort 40 lit).setPaux 40
  { PortAux.init with violSince := 3, violAt := some 9999999900, violLast := (0x10A, 5, 2, 77) }, 40, 0x10A, 77, 5, 2,
  by decide +kernel, by decide +kernel, by decide +kernel, by decide +kernel, fun k h => by cases h; decide +kernel,
  by decide +kernel⟩

theorem witness_FlitTimesInOrder_2 : ∃ (s : State) (p : BitVec 6) (m : LinkMsg) (l : List LinkMsg), s.pins.floating =
  false ∧ (s.paux p.toNat).violSince = 0 ∧ (s.port p.toNat).st = .active ∧ (s.port p.toNat).linkQ = m :: l ∧ (∀ r, m ≠
  .retrainReq r) := ⟨onPort 40 { lit with linkQ := [.nak 5] }, 40, .nak 5, [], by decide +kernel, by decide +kernel,
  by decide +kernel, by decide +kernel, fun r h => by cases h⟩

theorem witness_FlitTimesInOrder_3 : ∃ (s : State) (p : BitVec 6) (u : TxFlit) (l : List TxFlit), s.pins.floating =
  false ∧ (s.paux p.toNat).violSince = 0 ∧ (s.port p.toNat).st = .active ∧ (s.port p.toNat).linkQ = [] ∧ (s.port
  p.toNat).replay = u :: l := ⟨onPort 40 { lit with replay := [txf 3] }, 40, txf 3, [], by decide +kernel⟩

theorem witness_FlitTimesInOrder_4 : ∃ (s : State) (p : BitVec 6) (m : CtlMsg) (l : List CtlMsg), s.pins.floating =
  false ∧ (s.paux p.toNat).violSince = 0 ∧ (s.port p.toNat).st = .active ∧ (s.port p.toNat).linkQ = [] ∧ (s.port
  p.toNat).replay = [] ∧ (s.port p.toNat).ctlQ = m :: l ∧ 0 < tget (s.port p.toNat).avail 1 0 ∧ (s.port
  p.toNat).unacked.length < 4096 := ⟨onPort 40 { lit with ctlQ := [.ctxStop notice0] }, 40, .ctxStop notice0, [], by
  decide +kernel⟩

theorem witness_FlitTimesInOrder_5 : ∃ (s : State) (p : BitVec 6), s.pins.floating = false ∧ (s.port p.toNat).st =
  .active ∧ (s.paux p.toNat).violSince = 0 ∧ (s.port p.toNat).linkQ = [] ∧ (s.port p.toNat).replay = [] ∧ (s.port
  p.toNat).ctlQ = [] ∧ (s.port p.toNat).egress = [] ∧ s.activeTbl p.toNat = none := ⟨onPort 40 lit, 40, by
  decide +kernel⟩

theorem witness_FlitTimesInOrder_6 : ∃ (s : State) (p : BitVec 6) (e : Staged), s.pins.floating = false ∧ (s.port
  p.toNat).st = .active ∧ (s.paux p.toNat).violSince = 0 ∧ (s.port p.toNat).linkQ = [] ∧ (s.port p.toNat).replay = []
  ∧ (s.port p.toNat).ctlQ = [] ∧ (s.port p.toNat).egress = [e] ∧ e.frame.vc = 0 ∧ e.frame.hdr.sched = false ∧ e.tail =
  none ∧ e.sent < e.avail ∧ s.activeTbl p.toNat = none ∧ (s.port p.toNat).unacked.length < 4096 ∧ 0 < tget (s.port
  p.toNat).avail 0 0 := ⟨onPort 40 { lit with egress := [⟨{ frame0 with vc := 0 }, 1, 0, 1, 0, none, 0, 0⟩] }, 40,
  ⟨{ frame0 with vc := 0 }, 1, 0, 1, 0, none, 0, 0⟩, by decide +kernel⟩

theorem witness_FlitTimesInOrder_7 : ∃ (s : State) (p : BitVec 6) (t : SlotTbl), s.on = true ∧ s.activeTbl p.toNat =
  some t ∧ t.start ≤ s.now := ⟨up.setSlotTbl 63 1
  { SlotTbl.init with st := .active, epoch := 3, len := 1, entries := [0], start := 1000000 }, 63,
  { SlotTbl.init with st := .active, epoch := 3, len := 1, entries := [0], start := 1000000 }, by decide +kernel⟩

theorem witness_TimeExchanges_1 : ∃ (s : State), s.on = true ∧ s.irc.state ≠ .fault ∧ s.clk % 16384 = 0 :=
  ⟨{ onPort 40 lit with clk := 16384 }, by decide +kernel⟩

theorem witness_TimeExchanges_2 : ∃ (s : State) (p : BitVec 6) (m : TimeMsg) (l : List CtlMsg) (t1 : Int), t1 =
  s.unitsNow - psUnits (txDelay (s.stampLane p.toNat)) ∧ s.pins.floating = false ∧ (s.port p.toNat).st = .active ∧
  (s.paux p.toNat).violSince = 0 ∧ (s.port p.toNat).linkQ = [] ∧ (s.port p.toNat).replay = [] ∧ (s.port p.toNat).ctlQ
  = .timeReq m :: l ∧ 0 < tget (s.port p.toNat).avail 1 0 ∧ (s.port p.toNat).unacked.length < 4096 := ⟨onPort 40
  { lit with ctlQ := [.timeReq time0] }, 40, time0, [], _, rfl, by decide +kernel⟩

theorem witness_TimeExchanges_3 : ∃ (s : State) (p : BitVec 6) (m : TimeMsg), s.on = true ∧ s.irc.state ≠ .fault ∧
  s.timePort p.toNat = true ∧ m.locked = false := ⟨onPort 40 lit, 40, time0, by decide +kernel⟩

theorem witness_TimeExchanges_4 : ∃ (s : State) (p : BitVec 6) (m : TimeMsg) (r : TimeOut), tfind s.irc.reqs p.toNat =
  some r ∧ r.seq ≠ m.seq := ⟨{ onPort 40 lit with irc := { up.irc with state := .locked, reqs := [(40, ⟨2, 0⟩)] } },
  40, time0, ⟨2, 0⟩, by decide +kernel⟩

theorem witness_TimeExchanges_5 : ∃ (s u v : State) (p : BitVec 6) (m : TimeMsg) (r : TimeOut) (th d t4 : Int), v =
  State.hear { s with irc := { s.irc with reqs := tdel s.irc.reqs p.toNat } } p.toNat m ∧ t4 = cUnits (s.rxStamp
  (s.stampRxLane p.toNat)) ∧ d = ((t4 - r.t1) - (cUnits m.t3 - cUnits m.t2)) / 2 ∧ u =
  { v with irc := { v.irc with peers := v.irc.peers.map (fun e => if e.1 = p.toNat then (p.toNat, { e.2 with delay := d }) else e) } }
  ∧ th = ((t4 - cUnits m.t3) - (cUnits m.t2 - r.t1)) / 2 ∧ s.on = true ∧ tfind s.irc.reqs p.toNat = some r ∧ r.seq =
  m.seq ∧ s.irc.hall = false ∧ s.irc.master = false ∧ s.irc.state ≠ .fault ∧ m.locked = true ∧ m.hops ≠ 0xFF :=
  ⟨{ onPort 40 lit with irc := { up.irc with state := .holdover, reqs := [(40, ⟨1, 0⟩)] } }, _, _, 40,
  { time0 with locked := true }, ⟨1, 0⟩, _, _, _, rfl, rfl, rfl, rfl, rfl, by decide +kernel⟩

theorem witness_TimeExchanges_5b : ∃ (s u v : State) (p : BitVec 6) (m : TimeMsg) (r : TimeOut) (th d t4 : Int), v =
  State.hear { s with irc := { s.irc with reqs := tdel s.irc.reqs p.toNat } } p.toNat m ∧ t4 = cUnits (s.rxStamp
  (s.stampRxLane p.toNat)) ∧ d = ((t4 - r.t1) - (cUnits m.t3 - cUnits m.t2)) / 2 ∧ u =
  { v with irc := { v.irc with peers := v.irc.peers.map (fun e => if e.1 = p.toNat then (p.toNat, { e.2 with delay := d }) else e) } }
  ∧ th = ((t4 - cUnits m.t3) - (cUnits m.t2 - r.t1)) / 2 ∧ s.on = true ∧ tfind s.irc.reqs p.toNat = some r ∧ r.seq =
  m.seq ∧ s.irc.hall = false ∧ s.irc.master = false ∧ s.irc.state ≠ .fault ∧ m.locked = true ∧ m.hops ≠ 0xFF :=
  ⟨{ onPort 40 lit with irc := { up.irc with state := .free, reqs := [(40, ⟨1, 0⟩)] } }, _, _, 40,
  { time0 with locked := true }, ⟨1, 0⟩, _, _, _, rfl, rfl, rfl, rfl, rfl, by decide +kernel⟩

theorem witness_TimeExchanges_5c : ∃ (s u v : State) (p : BitVec 6) (m : TimeMsg) (r : TimeOut) (th d t4 : Int), v =
  State.hear { s with irc := { s.irc with reqs := tdel s.irc.reqs p.toNat } } p.toNat m ∧ t4 = cUnits (s.rxStamp
  (s.stampRxLane p.toNat)) ∧ d = ((t4 - r.t1) - (cUnits m.t3 - cUnits m.t2)) / 2 ∧ u =
  { v with irc := { v.irc with peers := v.irc.peers.map (fun e => if e.1 = p.toNat then (p.toNat, { e.2 with delay := d }) else e) } }
  ∧ th = ((t4 - cUnits m.t3) - (cUnits m.t2 - r.t1)) / 2 ∧ s.on = true ∧ tfind s.irc.reqs p.toNat = some r ∧ r.seq =
  m.seq ∧ s.irc.hall = false ∧ s.irc.master = false ∧ s.irc.state ≠ .fault ∧ m.locked = true ∧ m.hops ≠ 0xFF :=
  ⟨{ onPort 40 lit with irc := { up.irc with state := .acquire, offsets := List.replicate 7 0, reqs := [(40, ⟨1, 0⟩)] } },
  _, _, 40, { time0 with locked := true }, ⟨1, 0⟩, _, _, _, rfl, rfl, rfl, rfl, rfl, by decide +kernel⟩

theorem witness_MasterAndLockStates_1 : ∃ (s v : State), v = s.reparent ∧ s.brass = true ∧ v.masterKnown = false ∧
  v.irc.noMasterAt + 2000000000 ≤ s.clk ∧ v.candidate = s.addr ∧ s.irc.state = .free := ⟨{ up with irc := Irc.init },
  _, rfl, by decide +kernel⟩

theorem witness_MasterAndLockStates_2 : ∃ (s v : State), v = s.reparent ∧ s.brass = true ∧ v.masterKnown = false ∧
  v.irc.noMasterAt + 2000000000 ≤ s.clk ∧ v.candidate = s.addr ∧ (s.irc.state = .locked ∨ s.irc.state = .holdover ∨
  (s.irc.state = .acquire ∧ s.irc.ppsSecond = none)) ∧ v.irc.masterAddr ∈ s.flt.lost ++ s.irc.gone :=
  ⟨{ up with flt := { up.flt with lost := [0] } }, _, rfl, by decide +kernel⟩

theorem witness_MasterAndLockStates_3 : ∃ (s v : State), v = s.reparent ∧ s.brass = true ∧ v.masterKnown = false ∧
  v.irc.noMasterAt + 2000000000 ≤ s.clk ∧ v.candidate = s.addr ∧ s.irc.state = .acquire ∧ s.irc.ppsSecond.isSome =
  true ∧ v.irc.masterAddr ∈ s.flt.lost ++ s.irc.gone :=
  ⟨{ up with flt := { up.flt with lost := [0] }, irc := { up.irc with state := .acquire, ppsSecond := some 0, hall := true } },
  _, rfl, by decide +kernel⟩

theorem witness_MasterAndLockStates_4 : ∃ (s : State), s.on = true ∧ s.irc.master = true ∧ s.irc.state = .free ∧
  s.irc.noLockedAt + 2000000000 ≤ s.clk ∧ s.irc.hall = false := ⟨{ up with irc := { Irc.init with master := true } },
  by decide +kernel⟩

theorem witness_MasterAndLockStates_5 : ∃ (s : State), s.on = true ∧ s.irc.master = true ∧ s.irc.state = .free ∧
  s.irc.noLockedAt + 2000000000 ≤ s.clk ∧ s.irc.hall = true :=
  ⟨{ up with irc := { Irc.init with master := true, hall := true } }, by decide +kernel⟩

theorem witness_MasterAndLockStates_6 : ∃ (s : State) (n : Nat), s.on = true ∧ s.irc.hall = true ∧ s.irc.ppsSecond =
  some n ∧ s.irc.master = false := ⟨{ up with irc := { up.irc with hall := true, ppsSecond := some 0 } }, 0, by
  decide +kernel⟩

theorem witness_MasterAndLockStates_7 : ∃ (s : State), s.on = true ∧ s.irc.hall = true ∧ s.irc.ppsSecond = none ∧
  s.irc.master = false := ⟨{ up with irc := { up.irc with hall := true } }, by decide +kernel⟩

theorem witness_MasterAndLockStates_8 : ∃ (s : State), s.on = true ∧ bit (s.cfgAt (aIrc + 0x18)).toNat 1 = true ∧
  s.now % 1000000000 = 0 := ⟨{ up with irc := { up.irc with count := 0 } }.setCfg (aIrc + 0x18) 2, by decide +kernel⟩

theorem witness_MasterAndLockStates_9 : ∃ (s : State) (k : Nat), s.pins.ppsOutAt = some k :=
  ⟨{ up with pins := { up.pins with ppsOutAt := some 9999999001 } }, 9999999001, by decide +kernel⟩

theorem witness_MasterAndLockStates_10 : ∃ (s : State), s.on = true ∧ s.irc.state = .locked ∧ s.irc.master = false ∧
  s.irc.lastExch + 100000 ≤ s.clk := ⟨up, by decide +kernel⟩

theorem witness_MasterAndLockStates_11 : ∃ (s : State), s.on = true ∧ s.irc.state = .holdover ∧ s.irc.holdAt +
  10000000 ≤ s.clk := ⟨{ up with irc := { up.irc with state := .holdover } }, by decide +kernel⟩

theorem witness_LaunchesAndBarrier_1 : ∃ (s : State) (k : Nat) (c : Coll), s.on = true ∧ s.switchFirst = false ∧
  s.timeGood = true ∧ s.slots = [(k, c)] ∧ c.launched = false ∧ c.heldAt = none ∧ c.launch ≤ s.now ∧ s.stopFirst c =
  false := ⟨held (coll0 (barrier 1000000)), 3, coll0 (barrier 1000000), by decide +kernel⟩

theorem witness_LaunchesAndBarrier_2 : ∃ (s : State), (s.timeGood = false ∨ (∀ e ∈ s.slots, e.2.launched = true ∨
  s.now < e.2.launch)) := ⟨held (coll0 (barrier 1000001)), by decide +kernel⟩

theorem witness_LaunchesAndBarrier_3 : ∃ (s : State) (p : BitVec 6) (n n' : LateNotice), s.on = true ∧ (s.ctx
  n.ctx.toNat).st ≠ .free ∧ (s.ctx n.ctx.toNat).gen = n.gen.toNat ∧ (∀ e ∈ (s.ctx n.ctx.toNat).lates, e.1 ≠
  (n.collId.toNat, n.launch.toNat)) ∧ n' = (if p.toNat < 32 then { n with source := BitVec.ofNat 15 s.addr } else n)
  := ⟨job, 40, ⟨0, 0, 5, 0x4040, 1000000, 900000, 1⟩, ⟨0, 0, 5, 0x4040, 1000000, 900000, 1⟩, by decide +kernel⟩

theorem witness_LaunchesAndBarrier_3b : ∃ (s : State) (p : BitVec 6) (n n' : LateNotice), s.on = true ∧ (s.ctx
  n.ctx.toNat).st ≠ .free ∧ (s.ctx n.ctx.toNat).gen = n.gen.toNat ∧ (∀ e ∈ (s.ctx n.ctx.toNat).lates, e.1 ≠
  (n.collId.toNat, n.launch.toNat)) ∧ n' = (if p.toNat < 32 then { n with source := BitVec.ofNat 15 s.addr } else n)
  := ⟨job, 0, ⟨0, 0, 5, 0, 1000000, 900000, 1⟩, ⟨0, 0, 5, 0x4000, 1000000, 900000, 1⟩, by decide +kernel⟩

theorem witness_LaunchesAndBarrier_4 : ∃ (s : State) (p : BitVec 6) (n n' : LateNotice), s.on = true ∧ ((s.ctx
  n.ctx.toNat).st = .free ∨ (s.ctx n.ctx.toNat).gen ≠ n.gen.toNat) ∧ n' = (if p.toNat < 32 then
  { n with source := BitVec.ofNat 15 s.addr } else n) := ⟨up, 40, ⟨0, 0, 5, 0x4040, 1000000, 900000, 1⟩, ⟨0, 0, 5,
  0x4040, 1000000, 900000, 1⟩, by decide +kernel⟩

theorem witness_LaunchesAndBarrier_4b : ∃ (s : State) (p : BitVec 6) (n n' : LateNotice), s.on = true ∧ ((s.ctx
  n.ctx.toNat).st = .free ∨ (s.ctx n.ctx.toNat).gen ≠ n.gen.toNat) ∧ n' = (if p.toNat < 32 then
  { n with source := BitVec.ofNat 15 s.addr } else n) := ⟨job, 0, ⟨0, 0, 6, 0, 1000000, 900000, 1⟩, ⟨0, 0, 6, 0x4000,
  1000000, 900000, 1⟩, by decide +kernel⟩

theorem witness_LaunchesAndBarrier_6 : ∃ (s : State) (c : Coll) (n : Nat), s.on = true ∧ s.switchFirst = false ∧
  s.slots = [] ∧ s.queue = [c] ∧ s.lateDescs = [] ∧ c.stopAt = some n ∧ n ≤ s.now ∧ c.isDecided = false :=
  ⟨{ job with queue := [{ coll0 (barrier 900000) with stopAt := some 1000000 }] },
  { coll0 (barrier 900000) with stopAt := some 1000000 }, 1000000, by decide +kernel⟩

theorem witness_LaunchesAndBarrier_7 : ∃ (s : State) (d : List Byte), s.on = true ∧ s.switchFirst = false ∧ s.slots =
  [] ∧ s.queue = [] ∧ s.lateDescs = [d] ∧ s.lateAt d ≤ s.now ∧ (s.ctx (dCtx d)).st ≠ .free ∧ (s.ctx (dCtx d)).gen =
  dGen d :=
  ⟨{ job with lateDescs := [barrier 900000], irc := { up.irc with count := 2000000 }, ctxs := [(0, { open0 with lates := [((1, 900000), 900000)] })] },
  barrier 900000, by decide +kernel⟩

theorem witness_LaunchesAndBarrier_8 : ∃ (s : State) (a : Arm), s.brass = true ∧ s.sch.arms = [a] ∧ s.sch.step = none
  ∧ a.released = false ∧ a.sampled = false ∧ s.epochReady a.epoch = true ∧ s.now + 1000 < s.armB a ∧ s.pins.barFor =
  none :=
  ⟨{ up with sch := { up.sch with arms := [arm0], tbls := (List.range 64).map (fun p => (2 * p, { SlotTbl.init with st := .armed, epoch := 3 })) } },
  arm0, by decide +kernel⟩

theorem witness_LaunchesAndBarrier_9 : ∃ (s : State) (a : Arm), s.brass = true ∧ s.timeGood = true ∧ s.sch.arms = [a]
  ∧ s.sch.step = none ∧ a.sampled = false ∧ s.epochReady a.epoch = false ∧ s.now + 1000 < s.armB a ∧ s.pins.barFor =
  none := ⟨{ up with sch := { up.sch with arms := [arm0] } }, arm0, by decide +kernel⟩

theorem witness_LaunchesAndBarrier_10 : ∃ (s : State) (high : Bool), s.timeGood = false :=
  ⟨{ up with irc := Irc.init }, true, by decide +kernel⟩

theorem witness_LaunchesAndBarrier_11 : ∃ (s : State) (a : Arm) (high : Bool), s.brass = true ∧ s.timeGood = true ∧
  s.sch.arms = [a] ∧ s.sch.step = none ∧ a.sampled = false ∧ s.armB a ≤ s.now :=
  ⟨{ up with sch := { up.sch with arms := [{ arm0 with s := 1010000 }] } }, { arm0 with s := 1010000 }, true, by
  decide +kernel⟩

theorem witness_LaunchesAndBarrier_12 : ∃ (s : State) (a : Arm) (b : Nat), s.brass = true ∧ s.timeGood = true ∧
  s.sch.arms = [a] ∧ s.sch.step = none ∧ a.sampled = true ∧ s.pins.barFor = some b ∧ b + 1000 ≤ s.now :=
  ⟨{ { up with pins := { up.pins with barFor := some 999000 } } with sch := { up.sch with arms := [{ arm0 with s := 1009000, sampled := true }] } },
  { arm0 with s := 1009000, sampled := true }, 999000, by decide +kernel⟩

theorem witness_LaunchesAndBarrier_13 : ∃ (s : State) (r : StepReq), s.brass = true ∧ s.sch.step = some r ∧ r.ok =
  some true ∧ r.c ≤ s.now :=
  ⟨{ up with sch := { up.sch with step := some ⟨-5, 1000000, true, some true, ⟨0, 0, 7, 0, 0x303⟩⟩ } }, ⟨-5, 1000000,
  true, some true, ⟨0, 0, 7, 0, 0x303⟩⟩, by decide +kernel⟩

theorem witness_EpochSwitchCommands_1 : ∃ (s : State) (p : BitVec 6) (m : EpochMsg) (a : Arm), s.on = true ∧
  s.sch.arms = [a] ∧ sameArm m a = true ∧ a.decided = false ∧ s.now + 10000 ≤ m.s.toNat ∧ (m.ctx.toNat, m.epoch.toNat,
  m.s.toNat) ∉ s.sch.cancels := ⟨{ up with sch := { up.sch with arms := [arm0] } }, 40, ⟨0, 0, 0x4040, 1030000, 3, 1⟩,
  arm0, by decide +kernel⟩

theorem witness_EpochSwitchCommands_2 : ∃ (s : State) (p : BitVec 6) (m : EpochMsg) (x : Nat) (c : Ctx), s.on = true ∧
  m.s.toNat < s.now + 10000 ∧ s.ctxs = [(x, c)] ∧ c.st ≠ .free := ⟨withCtx up open0, 40, ⟨0, 0, 0x4040, 1009999, 3,
  1⟩, 0, open0, by decide +kernel⟩

theorem witness_EpochSwitchCommands_3 : ∃ (s : State) (a : Arm), s.brass = true ∧ s.sch.arms = [a] ∧ a.decided = false
  ∧ a.s ≤ s.now + 10000 ∧ a.sampled = true ∧ a.cancelled = false ∧ a.released = true :=
  ⟨{ up with sch := { up.sch with arms := [{ arm0 with s := 1010000, sampled := true, released := true }] } },
  { arm0 with s := 1010000, sampled := true, released := true }, by decide +kernel⟩

theorem witness_EpochSwitchCommands_4 : ∃ (s : State) (a : Arm), s.brass = true ∧ s.sch.arms = [a] ∧ a.decided = false
  ∧ a.s ≤ s.now + 10000 ∧ a.cancelled = true ∧ s.slots = [] ∧ s.queue = [] ∧ a.cmd = none :=
  ⟨{ up with sch := { up.sch with arms := [{ arm0 with s := 1010000, cancelled := true }] } },
  { arm0 with s := 1010000, cancelled := true }, by decide +kernel⟩

theorem witness_EpochSwitchCommands_5 : ∃ (s : State) (a : Arm), s.on = true ∧ s.sch.arms = [a] ∧ a.decided = true ∧
  a.s ≤ s.now ∧ a.cmd = none :=
  ⟨{ up with sch := { up.sch with arms := [{ arm0 with s := 1000000, decided := true }] } },
  { arm0 with s := 1000000, decided := true }, by decide +kernel⟩

theorem witness_EpochSwitchCommands_6 : ∃ (s : State) (p : BitVec 6) (m : EpochMsg), s.on = true ∧ s.sch.epochs = []
  := ⟨up, 40, ⟨0, 0, 0x4040, 1030000, 3, 1⟩, by decide +kernel⟩

theorem witness_EpochSwitchCommands_7 : ∃ (s : State) (r : EpochRec) (k : Nat), s.on = true ∧ s.sch.epochs = [r] ∧
  r.joining = true ∧ (∀ j, (tget s.sch.tbls j SlotTbl.init).st = .armed → j = k) ∧ (tget s.sch.tbls k SlotTbl.init).st
  = .armed ∧ (tget s.sch.tbls k SlotTbl.init).epoch = r.epoch ∧ (s.sch.tbls.map Prod.fst).Nodup ∧ firstPeriod r.s
  r.len ((tget s.sch.tbls k SlotTbl.init).at_ + 1000) ≤ s.now :=
  ⟨{ up with sch := { up.sch with epochs := [⟨0, 3, 900000, 1, true⟩], tbls := [(7, { SlotTbl.init with st := .armed, epoch := 3 })] } },
  ⟨0, 3, 900000, 1, true⟩, 7, ⟨by decide +kernel, rfl, rfl, only_armed, by decide +kernel, by decide +kernel, by
  decide +kernel, by decide +kernel⟩⟩

theorem witness_FrameIngressChecksAndQueues_1 : ∃ (s : State) (p : BitVec 6) (f : Frame) (r : Nat), s.on = true ∧
  (s.port p.toNat).st = .active ∧ (∀ x ∈ (s.paux p.toNat).asm, x.vc = f.vc.toNat → x.taken = true) ∧ s.mayCome p.toNat
  f = true ∧ State.ingressFail (s.heardFrom f) p.toNat (hopDown f) = some r := ⟨onPort 40 lit, 40,
  { frame0 with vc := 10 }, 1, by decide +kernel⟩

theorem witness_FrameIngressChecksAndQueues_2 : ∃ (s : State) (p : BitVec 6) (f : Frame) (outs : List Nat), outs = (if
  f.hdr.dest.toNat = s.addr then [netPoint] else (s.route (hopDown f)).toList) ∧ s.on = true ∧ (s.port p.toNat).st =
  .active ∧ (∀ x ∈ (s.paux p.toNat).asm, x.vc = f.vc.toNat → x.taken = true) ∧ s.mayCome p.toNat f = true ∧
  s.ingressFail p.toNat (hopDown f) = none ∧ f.hdr.ftype.toNat = ftContrib ∧ f.hdr.mcast = 0 ∧ (f.hdr.dest.toNat =
  s.addr → s.fromAbandoned p.toNat (hopDown f) = false) ∧ s.sol.queues.length < 262144 ∧ (∀ x ∈ s.sol.descWait, x.inp
  ≠ p.toNat ∨ x.frame.vc ≠ f.vc) := ⟨job, 0, { frame0 with hdr := { hdr0 with ftype := 2, hops := 32, ts := 0 } }, _,
  rfl, by decide +kernel⟩

theorem witness_FrameIngressChecksAndQueues_3 : ∃ (s : State) (p : BitVec 6) (f : Frame), s.on = true ∧ (s.port
  p.toNat).st = .active ∧ (∀ x ∈ (s.paux p.toNat).asm, x.vc = f.vc.toNat → x.taken = true) ∧ s.mayCome p.toNat f =
  true ∧ s.ingressFail p.toNat (hopDown f) = none ∧ f.hdr.ftype.toNat = ftContrib ∧ f.hdr.mcast = 0 ∧ f.hdr.dest.toNat
  = s.addr ∧ s.fromAbandoned p.toNat (hopDown f) = true := ⟨withTensor (held
  ({ coll0 (stepDesc 0) with nodes := [⟨.loc, [(.rank 0, 0)], [.rank 0], [], false, false, none⟩] })) tensor0, 0,
  { frame0 with hdr := { hdr0 with ftype := 2, hops := 32, ts := 0 } }, by decide +kernel⟩

theorem witness_WaitingFramesMove_1 : ∃ (s : State) (q : QEnt), s.on = true ∧ s.sol.queues.length < 262144 ∧
  s.sol.descWait.find? (fun x => s.sol.cells.any (fun e => e.1 / 64 == x.id) && (s.sol.descWait.find? (fun y => y.inp
  == x.inp && y.frame.vc == x.frame.vc)) == some x) = some q :=
  ⟨{ up with sol := { up.sol with descWait := [page0], cells := [(64, ⟨40, 2, 1⟩)] } }, page0, by decide +kernel⟩

theorem witness_WaitingFramesMove_2 : ∃ (s : State) (q : QEnt) (t0 o : Nat), s.on = true ∧ s.sol.queues = [q] ∧
  q.noRoute = some t0 ∧ s.route q.frame = some o :=
  ⟨{ up.setPort 17 lit with sol := { up.sol with queues := [{ page0 with outs := [], noRoute := some 0, frame := { frame0 with hdr := { hdr0 with dest := 1 } } }] } },
  { page0 with outs := [], noRoute := some 0, frame := { frame0 with hdr := { hdr0 with dest := 1 } } }, 0, 17, by
  decide +kernel⟩

theorem witness_WaitingFramesMove_3 : ∃ (s : State) (q : QEnt) (t0 : Nat), s.on = true ∧ s.sol.queues = [q] ∧
  q.noRoute = some t0 ∧ s.route q.frame = none ∧ t0 + (s.cfgAt (aSld + 0x1C)).toNat ≤ s.clk :=
  ⟨{ up with sol := { up.sol with queues := [{ page0 with outs := [], noRoute := some 0, frame := { frame0 with hdr := { hdr0 with dest := 1 } } }] } },
  { page0 with outs := [], noRoute := some 0, frame := { frame0 with hdr := { hdr0 with dest := 1 } } }, 0, by
  decide +kernel⟩

theorem witness_WaitingFramesMove_4 : ∃ (s : State) (q : QEnt) (t0 o o' : Nat), s.on = true ∧ s.sol.queues = [q] ∧
  q.mc = false ∧ q.outs = [o] ∧ o < 64 ∧ q.frame.hdr.spray = true ∧ tget (s.port o).avail q.frame.vc.toNat 0 = 0 ∧
  q.noCredit = some t0 ∧ q.passed = [] ∧ q.frame.hdr.ftype.toNat = ftData ∧ q.frame.hdr.esc = false ∧ 10 ≤
  q.frame.vc.toNat ∧ q.frame.vc.toNat ≤ 13 ∧ t0 + (s.cfgAt (aSld + 0x10)).toNat ≤ s.clk ∧ s.choose
  { q.frame with vc := 15, hdr := { q.frame.hdr with esc := true } } = some o' ∧ 0 < tget (s.port o').avail 15 0 ∧ (∀
  x ∈ s.sol.descWait, x.inp ≠ q.inp ∨ x.frame.vc ≠ 15) :=
  ⟨{ up.setPort 40 { lit with avail := [(15, 1)] } with sol := { up.sol with queues := [{ page0 with inp := 0, outs := [40], noCredit := some 0, frame := ⟨10, { hdr0 with ftype := 1, dest := 0x41, spray := true }, [1, 2, 3, 4]⟩ }] } },
  { page0 with inp := 0, outs := [40], noCredit := some 0, frame := ⟨10, { hdr0 with ftype := 1, dest := 0x41, spray := true }, [1, 2, 3, 4]⟩ },
  0, 40, 40, by decide +kernel⟩

theorem witness_WaitingFramesMove_5 : ∃ (s : State) (r : PoolReq) (q : QEnt), s.on = true ∧ tget s.sol.waits 0 [] =
  [r] ∧ s.cellsFor r.owner r.n = true ∧ s.sol.descWait.find? (fun x => x.id == r.tag) = some q ∧ s.sol.queues.length <
  262144 ∧ (∀ x ∈ s.sol.descWait.erase q, x.inp = q.inp → x.frame.vc = q.frame.vc → q.since ≤ x.since) :=
  ⟨{ up with sol := { up.sol with descWait := [page0], waits := [(0, [⟨40, 1, 1⟩])] } }, ⟨40, 1, 1⟩, page0, by
  decide +kernel⟩

theorem witness_WaitingFramesMove_6 : ∃ (s : State) (k : BitVec 3) (r : PoolReq), s.on = true ∧ (k = 1 ∨ k = 2) ∧
  (tget s.sol.waits k.toNat []).find? (fun x => s.mayServe k.toNat x) = some r :=
  ⟨{ up with sol := { up.sol with waits := [(2, [⟨40, 1, 1⟩])] } }, 2, ⟨40, 1, 1⟩, by decide +kernel⟩

theorem witness_CellTimesAndTelemetry_1 : ∃ (s : State) (q : QEnt) (o : Nat), s.on = true ∧ s.sol.queues = [q] ∧ q.mc
  = false ∧ q.outs = [o] ∧ o < 64 ∧ q.inp < 80 ∧ q.cells = 1 ∧ q.passed = [] ∧ q.noCredit = none ∧ s.offers q o = true
  ∧ (∀ e ∈ (s.port o).egress, e.id ≠ q.id) :=
  ⟨{ onPort 0 lit with sol := { up.sol with queues := [page0], cells := [(64, ⟨40, 2, 1⟩)] } }, page0, 0, by
  decide +kernel⟩

theorem witness_CellTimesAndTelemetry_2 : ∃ (s : State) (k : Nat) (c : Cell), s.on = true ∧ s.sol.queues = [] ∧ tfind
  s.sol.cells k = some c := ⟨{ up with sol := { up.sol with cells := [(64, ⟨40, 2, 1⟩)] } }, 64, ⟨40, 2, 1⟩, by
  decide +kernel⟩

theorem witness_CellTimesAndTelemetry_3 : ∃ (s : State) (k : Nat) (c : Cell), s.on = true ∧ s.sol.queues = [] ∧ tfind
  s.sol.cells k = some c ∧ s.frameOf (k / 64) = none ∧ s.sol.ues.length < 15 :=
  ⟨{ up with sol := { up.sol with cells := [(64, ⟨40, 2, 1⟩)] } }, 64, ⟨40, 2, 1⟩, by decide +kernel⟩

theorem witness_CellTimesAndTelemetry_4 : ∃ (s : State), s.sol.telemAt = some s.now :=
  ⟨{ up with sol := { up.sol with telemAt := some 1000000 } }, by decide +kernel⟩

theorem witness_CellTimesAndTelemetry_5 : ∃ (s : State), s.on = true ∧ s.now % 1000 = 0 ∧ s.sol.telemAt ≠ some s.now
  := ⟨up, by decide +kernel⟩

theorem witness_FlowCommands_1 : ∃ (s : State) (p : BitVec 6) (m : FlowMsg), s.on = true ∧ m.target.toNat ≠ s.addr :=
  ⟨up, 40, { flowMsg0 with target := 0x4040 }, by decide +kernel⟩

theorem witness_FlowCommands_2 : ∃ (s : State) (p : BitVec 6) (m : FlowMsg) (k : Nat) (e : Flow), s.on = true ∧
  m.target.toNat = s.addr ∧ s.msgFlow false m = some (k, e) :=
  ⟨{ up with sol := { up.sol with flows := [(9, flow0)] } }, 40, flowMsg0, 9, flow0, by decide +kernel⟩

theorem witness_FlowCommands_2b : ∃ (s : State) (p : BitVec 6) (m : FlowMsg) (k : Nat) (e : Flow), s.on = true ∧
  m.target.toNat = s.addr ∧ s.msgFlow false m = some (k, e) :=
  ⟨{ up with sol := { up.sol with flows := [(9, { flow0 with st := .sClosing })] } }, 40, flowMsg0, 9,
  { flow0 with st := .sClosing }, by decide +kernel⟩

theorem witness_FlowCommands_3 : ∃ (s : State) (p : BitVec 6) (m : FlowMsg) (k : Nat) (e : Flow), s.on = true ∧
  m.target.toNat = s.addr ∧ s.msgFlow true m = some (k, e) :=
  ⟨{ up with sol := { up.sol with flows := [(9, { flow0 with st := .rOpen })] } }, 40, flowMsg0, 9,
  { flow0 with st := .rOpen }, by decide +kernel⟩

theorem witness_FlowCommands_3b : ∃ (s : State) (p : BitVec 6) (m : FlowMsg) (k : Nat) (e : Flow), s.on = true ∧
  m.target.toNat = s.addr ∧ s.msgFlow true m = some (k, e) :=
  ⟨{ up with sol := { up.sol with flows := [(9, { flow0 with st := .rOpen, held := [(frame0, 1)] })] } }, 40,
  flowMsg0, 9, { flow0 with st := .rOpen, held := [(frame0, 1)] }, by decide +kernel⟩

theorem witness_FlowCommands_4 : ∃ (s : State) (k : Nat) (e : Flow), s.on = true ∧ s.sol.flows = [(k, e)] ∧ e.last +
  (s.cfgAt (aSld + 0x14)).toNat ≤ s.clk :=
  ⟨{ up with sol := { up.sol with flows := [(9, { flow0 with st := .sSpray })] } }, 9, { flow0 with st := .sSpray },
  by decide +kernel⟩

theorem witness_FlowCommands_4b : ∃ (s : State) (k : Nat) (e : Flow), s.on = true ∧ s.sol.flows = [(k, e)] ∧ e.last +
  (s.cfgAt (aSld + 0x14)).toNat ≤ s.clk :=
  ⟨{ up with sol := { up.sol with flows := [(9, { flow0 with st := .sSingle })] } }, 9, { flow0 with st := .sSingle },
  by decide +kernel⟩

theorem witness_FlowCommands_5 : ∃ (s : State) (k : Nat) (e : Flow), s.on = true ∧ s.sol.flows = [(k, e)] ∧ e.st =
  .rOpen ∧ e.close = none ∧ e.last + 500000 ≤ s.clk ∧ e.held = [] :=
  ⟨{ up with sol := { up.sol with flows := [(9, { flow0 with st := .rOpen })] } }, 9, { flow0 with st := .rOpen }, by
  decide +kernel⟩

theorem witness_FlowCommands_6 : ∃ (s : State) (k id t0 n : Nat) (e : Flow) (f : Frame), n = (f.hdr.flowSeq.toNat +
  65536 - e.num) % 65536 ∧ s.on = true ∧ s.sol.flows = [(k, e)] ∧ e.gap = some t0 ∧ t0 + (s.cfgAt (aSld + 0x18)).toNat
  ≤ s.clk ∧ e.held = [(f, id)] ∧ e.close = none ∧ e.num < 65536 ∧ f.hdr.dest.toNat ≠ s.addr :=
  ⟨{ up with sol := { up.sol with flows := [(9, { flow0 with st := .rOpen, held := [({ frame0 with hdr := { hdr0 with flowSeq := 2, dest := 1 } }, 1)], gap := some 0 })] } },
  9, 1, 0, _,
  { flow0 with st := .rOpen, held := [({ frame0 with hdr := { hdr0 with flowSeq := 2, dest := 1 } }, 1)], gap := some 0 },
  { frame0 with hdr := { hdr0 with flowSeq := 2, dest := 1 } }, rfl, by decide +kernel⟩

theorem witness_InputsJoinOrAreAbandoned_1 : ∃ (s v : State) (p : BitVec 6) (f : Frame) (ecc : List (BitVec 4 × BitVec
  20 × Bool)), v = s.accErrors ecc ∧ s.on = true ∧ s.notYet f = false ∧ v.findColl f.hdr.ctx.toNat f.hdr.collId.toNat
  = none := ⟨up, _, 40, frame0, [], rfl, by decide +kernel⟩

theorem witness_InputsJoinOrAreAbandoned_2 : ∃ (s v : State) (p : BitVec 6) (f : Frame) (ecc : List (BitVec 4 × BitVec
  20 × Bool)) (k r ni g : Nat) (c : Coll) (n : Node) (sg : Seg), v = s.accErrors ecc ∧ s.on = true ∧ v.findColl
  f.hdr.ctx.toNat f.hdr.collId.toNat = some k ∧ v.coll k = some c ∧ (v.membersOf c.desc).findIdx? (fun a => a ==
  f.hdr.src.toNat) = some r ∧ c.nodes.findIdx? (fun n => n.stage == .loc) = some ni ∧ c.nodes[ni]? = some n ∧ 0 <
  segBytes (dCfmt c.desc) ∧ f.hdr.offset.toNat = g * segBytes (dCfmt c.desc) ∧ g < segCount c.desc ∧ tget n.segs g
  Seg.init = sg ∧ sg.done = false ∧ sg.spilled = [] ∧ s.notYet f = false ∧ Src.rank r ∉ n.abandoned ∧ (∀ i ∈ sg.ins,
  i.src ≠ .rank r) ∧ c.launched = false ∧ (∀ e ∈ v.enginesOf c.desc n g sg, segAccs c.desc g ≤ v.accFree e) :=
  ⟨withTensor (held ({ coll0 (stepDesc 0) with nodes := [⟨.loc, [(.rank 0, 0)], [], [], false, false, none⟩] }))
  tensor0, _, 0, frame0, [], 3, 0, 0, 0,
  { coll0 (stepDesc 0) with nodes := [⟨.loc, [(.rank 0, 0)], [], [], false, false, none⟩] }, ⟨.loc, [(.rank 0, 0)],
  [], [], false, false, none⟩, Seg.init, rfl, by decide +kernel⟩

theorem witness_InputsJoinOrAreAbandoned_3 : ∃ (s : State) (k ni g : Nat) (c : Coll) (n : Node), s.coll k = some c ∧
  c.nodes[ni]? = some n ∧ s.segStaging (waitTag (dCtx c.desc) (dId c.desc) 2) = false :=
  ⟨{ withTensor (held { coll0 (stepDesc 0) with nodes := [⟨.loc, [(.rank 0, 0)], [], [], false, false, none⟩] }) tensor0 with sol := { up.sol with count := (786432, 0, 256) } },
  3, 0, 0, { coll0 (stepDesc 0) with nodes := [⟨.loc, [(.rank 0, 0)], [], [], false, false, none⟩] }, ⟨.loc, [(.rank
  0, 0)], [], [], false, false, none⟩, by decide +kernel⟩

theorem witness_InputsJoinOrAreAbandoned_4 : ∃ (s v : State) (p : BitVec 6) (f : Frame) (ecc : List (BitVec 4 × BitVec
  20 × Bool)) (k ni g x : Nat) (c : Coll) (n : Node) (sg : Seg), v = s.accErrors ecc ∧ s.on = true ∧ v.findColl
  f.hdr.ctx.toNat f.hdr.collId.toNat = some k ∧ v.coll k = some c ∧ v.isMirror c.desc = false ∧ c.nodes.findIdx? (fun
  n => n.inputs.any (fun e => e.1 == .group (p.toNat / 4))) = some ni ∧ c.nodes[ni]? = some n ∧ n.inputs.find? (fun e
  => e.1 == .group (p.toNat / 4)) = some (.group (p.toNat / 4), x) ∧ 0 < partialBytes (dCfmt c.desc) ∧
  f.hdr.offset.toNat = g * partialBytes (dCfmt c.desc) ∧ g < segCount c.desc ∧ tget n.segs g Seg.init = sg ∧ sg.done =
  false ∧ sg.spilled = [] ∧ s.notYet f = false ∧ Src.group (p.toNat / 4) ∉ n.abandoned ∧ (∀ i ∈ sg.ins, i.src ≠ .group
  (p.toNat / 4)) ∧ c.launched = false ∧ (∀ e ∈ v.enginesOf c.desc n g sg, segAccs c.desc g ≤ v.accFree e) :=
  ⟨withTensor (held { coll0 (stepDesc 0) with nodes := [⟨.col, [(.group 10, 1)], [], [], false, false, none⟩] })
  tensor0, _, 40, frame0, [], 3, 0, 0, 1,
  { coll0 (stepDesc 0) with nodes := [⟨.col, [(.group 10, 1)], [], [], false, false, none⟩] }, ⟨.col, [(.group 10,
  1)], [], [], false, false, none⟩, Seg.init, rfl, by decide +kernel⟩

theorem witness_InputsJoinOrAreAbandoned_5 : ∃ (s : State) (k ni : Nat) (ks : List Src) (c : Coll) (n : Node), s.on =
  true ∧ s.expired = some (k, ni, ks) ∧ s.coll k = some c ∧ c.nodes[ni]? = some n ∧ (∀ x ∈ ks, x ∉ n.abandoned) :=
  ⟨withCtx (withTensor (held
  { coll0 (stepDesc 0) with nodes := [⟨.loc, [(.rank 0, 0)], [], [], false, false, none⟩], launched := true })
  tensor0) { open0 with budget := 1 }, 3, 0, [.rank 0],
  { coll0 (stepDesc 0) with nodes := [⟨.loc, [(.rank 0, 0)], [], [], false, false, none⟩], launched := true }, ⟨.loc,
  [(.rank 0, 0)], [], [], false, false, none⟩, by decide +kernel⟩

theorem witness_InputsJoinOrAreAbandoned_6 : ∃ (s : State) (k : Nat) (c : Coll), s.on = true ∧ s.expired = none ∧
  s.kernelExpired = some (k, c) := ⟨withCtx (held
  { coll0 (kernelDesc 0x12 4 (toLe 2 0x4000 ++ toLe 2 1 ++ [0, 0, 0, 0] ++ toLe 4 1 ++ toLe 4 1)) with launched := true })
  { open0 with budget := 1 }, 3,
  { coll0 (kernelDesc 0x12 4 (toLe 2 0x4000 ++ toLe 2 1 ++ [0, 0, 0, 0] ++ toLe 4 1 ++ toLe 4 1)) with launched := true },
  by decide +kernel⟩

theorem witness_ReturnsAndRecords_1 : ∃ (s : State) (p : BitVec 6) (f : Frame) (k : Nat) (c : Coll) (h h' : Home), h =
  c.home.getD Home.init ∧ s.on = true ∧ s.notYet f = false ∧ s.findColl f.hdr.ctx.toNat f.hdr.collId.toNat = some k ∧
  s.coll k = some c ∧ s.myUnits c.desc ≠ [] ∧ (∀ e ∈ h.got, e.1 ≠ f.hdr.offset.toNat) ∧ h.record = none ∧ h' =
  { h with got := h.got ++ (s.myUnits c.desc).map (fun u => (f.hdr.offset.toNat, u, f.payload.length)) } ∧ s.inPlace
  c.desc h' = false := ⟨withTensor (held (coll0 (stepDesc 0))) tensor0, 40,
  { frame0 with hdr := { hdr0 with mcast := 1 } }, 3, coll0 (stepDesc 0), _, { Home.init with got := [(0, 0, 4)] },
  rfl, by decide +kernel⟩

theorem witness_ReturnsAndRecords_2 : ∃ (s : State) (p : BitVec 6) (f : Frame) (k : Nat) (c : Coll) (h : Home), h =
  c.home.getD Home.init ∧ s.on = true ∧ f.hdr.ts.toNat % 256 = 1 ∧ s.notYet f = false ∧ s.findColl f.hdr.ctx.toNat
  f.hdr.collId.toNat = some k ∧ s.coll k = some c ∧ s.myMembers c.desc ≠ [] ∧ h.written = false ∧ (s.returns c.desc
  (BitVec.ofNat 16 (fld (f.payload.take 64) 56 2)) (s.newValues (f.payload.take 64) c.desc) = true ∨ h.got ≠ []) ∧
  s.inPlace c.desc h = false := ⟨withTensor (held (coll0 (stepDesc 0))) tensor0, 40,
  { frame0 with hdr := { hdr0 with ts := 1 } }, 3, coll0 (stepDesc 0), _, rfl, by decide +kernel⟩

theorem witness_ReturnsAndRecords_3 : ∃ (s : State) (p : BitVec 6) (m : ReturnMsg), s.on = true ∧ m.target.toNat ≠
  s.addr := ⟨up, 40, ⟨0, 0, 0x4040, 0x4010, 1, 0⟩, by decide +kernel⟩

theorem witness_ReturnsAndRecords_4 : ∃ (s : State) (p : BitVec 6) (m : ReturnMsg) (k a : Nat) (c : Coll) (r : Ret),
  s.on = true ∧ m.target.toNat = s.addr ∧ s.findColl m.ctx.toNat m.collId.toNat = some k ∧ s.coll k = some c ∧ c.ret =
  some r ∧ m.source.toNat ∉ r.homes ∧ a ∈ s.homesDue c.desc ∧ a ∉ r.homes ∧ a ≠ m.source.toNat ∧ a ≠ s.addr :=
  ⟨{ withTensor (held ({ coll0 (stepDesc 0) with ret := some ⟨[], [], true, 0⟩ })) tensor0 with groups := [(0, { group0 with members := [0x40, 0x10] })] },
  40, ⟨0, 0, 0x4040, 0x4000, 1, 0⟩, 3, 0x4010, { coll0 (stepDesc 0) with ret := some ⟨[], [], true, 0⟩ }, ⟨[], [],
  true, 0⟩, by decide +kernel⟩

theorem witness_ReturnsAndRecords_5 : ∃ (s : State) (p : BitVec 6) (m : ReturnMsg) (k : Nat) (c : Coll) (r : List
  Byte), s.on = true ∧ m.target.toNat = s.addr ∧ m.offset = 0xFFFFFFFF ∧ s.findColl m.ctx.toNat m.collId.toNat = some
  k ∧ s.coll k = some c ∧ c.record = some r := ⟨withTensor (held ({ coll0 (stepDesc 0) with record := some [1] }))
  tensor0, 40, ⟨0, 0, 0x4040, 0x4000, 1, 0xFFFFFFFF⟩, 3, { coll0 (stepDesc 0) with record := some [1] }, [1], by
  decide +kernel⟩

theorem witness_ReturnsAndRecords_6 : ∃ (s : State) (p : BitVec 6) (m : ReturnMsg) (k : Nat) (c : Coll) (r : Ret) (bs
  : List Byte), bs = (r.image.drop m.offset.toNat).take (returnChunk (dRfmt c.desc)) ∧ s.on = true ∧ m.target.toNat =
  s.addr ∧ m.offset ≠ 0xFFFFFFFF ∧ s.findColl m.ctx.toNat m.collId.toNat = some k ∧ s.coll k = some c ∧ c.ret = some r
  ∧ isKernel (dKind c.desc) = false ∧ bs ≠ [] := ⟨withTensor (held
  ({ coll0 (stepDesc 0) with ret := some ⟨[1, 2, 3, 4], [], true, 0⟩ })) tensor0, 40, ⟨0, 0, 0x4040, 0x4000, 1, 0⟩, 3,
  { coll0 (stepDesc 0) with ret := some ⟨[1, 2, 3, 4], [], true, 0⟩ }, ⟨[1, 2, 3, 4], [], true, 0⟩, _, rfl, by
  decide +kernel⟩

theorem witness_ReturnsAndRecords_7 : ∃ (s : State) (p : BitVec 6) (m : ReturnMsg) (k : Nat) (c : Coll) (r : Ret),
  s.on = true ∧ m.target.toNat = s.addr ∧ m.offset ≠ 0xFFFFFFFF ∧ s.findColl m.ctx.toNat m.collId.toNat = some k ∧
  s.coll k = some c ∧ c.ret = some r ∧ isKernel (dKind c.desc) = true := ⟨held
  { coll0 (kernelDesc 0x12 4 (toLe 2 0x4000 ++ toLe 2 1 ++ [0, 0, 0, 0] ++ toLe 4 1 ++ toLe 4 1)) with ret := some ⟨[], [], true, 0⟩ },
  40, ⟨0, 0, 0x4040, 0x4000, 1, 0⟩, 3,
  { coll0 (kernelDesc 0x12 4 (toLe 2 0x4000 ++ toLe 2 1 ++ [0, 0, 0, 0] ++ toLe 4 1 ++ toLe 4 1)) with ret := some ⟨[], [], true, 0⟩ },
  ⟨[], [], true, 0⟩, by decide +kernel⟩

theorem witness_KernelFramesTaken_1 : ∃ (s : State) (p : BitVec 6) (f : Frame), s.steelNotYet f = true :=
  ⟨{ up with sol := { up.sol with queues := [{ page0 with outs := [72], frame := { frame0 with vc := 2, hdr := { hdr0 with ftype := 4, offset := 9 } } }, { page0 with outs := [72], frame := { frame0 with vc := 2, hdr := { hdr0 with ftype := 4 } } }] } },
  40, { frame0 with vc := 2, hdr := { hdr0 with ftype := 4 } }, by decide +kernel⟩

theorem witness_KernelFramesTaken_2 : ∃ (s v : State) (p : BitVec 6) (f : Frame) (k : Nat) (c : Coll) (j : Kernel), v
  = (s.takeQueued f).1.dropFrom (s.takeQueued f).2 0 ∧ j = (c.kern.getD Kernel.init).take (ksRank f)
  f.hdr.offset.toNat f.payload s.now ∧ s.on = true ∧ s.steelNotYet f = false ∧ s.findColl f.hdr.ctx.toNat
  f.hdr.collId.toNat = some k ∧ s.coll k = some c ∧ dKind c.desc = kGather ∧ s.iAmRoot c.desc = true ∧ c.decided =
  none ∧ (s.membersOf c.desc)[ksRank f]? = some f.hdr.src.toNat ∧ tfind (c.kern.getD Kernel.init).rows (ksRank f) =
  none :=
  ⟨{ held (coll0 (kernelDesc 0x12 4 (toLe 2 0x4000 ++ toLe 2 1 ++ [0, 0, 0, 0] ++ toLe 4 1 ++ toLe 4 1))) with fuses := { up.fuses with cl := 0xF0 } },
  _, 0, { frame0 with payload := [1, 2] }, 3, coll0 (kernelDesc 0x12 4 (toLe 2 0x4000 ++ toLe 2 1 ++ [0, 0, 0, 0] ++
  toLe 4 1 ++ toLe 4 1)), _, rfl, rfl, by decide +kernel⟩

theorem witness_KernelFramesTaken_3 : ∃ (s : State) (p : BitVec 6) (f : Frame) (k r e0 : Nat) (c : Coll) (u : State)
  (vs : List Fv), e0 = (if isMx (dCfmt c.desc) then f.hdr.offset.toNat / blockBytes (dCfmt c.desc) * 32 else
  f.hdr.offset.toNat / elemBytes (dCfmt c.desc)) ∧ vs = (decodeArr (dCfmt c.desc) f.payload).take (dElements c.desc -
  e0) ∧ u = ((s.takeQueued f).1.dropFrom (s.takeQueued f).2 0).setColl k
  { c with kern := some (c.kern.getD Kernel.init) } ∧ s.on = true ∧ s.steelNotYet f = false ∧ s.findColl
  f.hdr.ctx.toNat f.hdr.collId.toNat = some k ∧ s.coll k = some c ∧ dKind c.desc = kRequant ∧ fld c.desc 66 2 = 0 ∧
  (s.membersOf c.desc).findIdx? (fun a => a == f.hdr.src.toNat) = some r ∧ e0 < dElements c.desc ∧ s.iAmRoot c.desc =
  false :=
  ⟨{ held (coll0 (kernelDesc 0x11 4 (toLe 2 0x4040 ++ toLe 2 0 ++ toLe 2 1 ++ [1, 0, 0, 0]))) with fuses := { up.fuses with cl := 0xF0 } },
  0, frame0, 3, 0, _, coll0 (kernelDesc 0x11 4 (toLe 2 0x4040 ++ toLe 2 0 ++ toLe 2 1 ++ [1, 0, 0, 0])), _, _, rfl,
  rfl, rfl, by decide +kernel⟩

theorem witness_KernelFramesTaken_4 : ∃ (s v : State) (p : BitVec 6) (f : Frame) (k : Nat) (c : Coll) (j : Kernel), v
  = (s.takeQueued f).1.dropFrom (s.takeQueued f).2 0 ∧ j = c.kern.getD Kernel.init ∧ s.on = true ∧ s.steelNotYet f =
  false ∧ j.partFail = 0 ∧ v.operandWait c.desc j (j.take (ksRank f) f.hdr.offset.toNat f.payload s.now) = none ∧
  s.findColl f.hdr.ctx.toNat f.hdr.collId.toNat = some k ∧ s.coll k = some c ∧ dKind c.desc = kRequant ∧ s.iAmRoot
  c.desc = true ∧ c.decided = none ∧ f.hdr.src.toNat = s.addr ∧ tfind j.rows (ksRank f) = none ∧ ksRank f ∉
  j.abandoned ∧ ksRank f < (s.membersOf c.desc).length ∧ (∀ e ∈ tget j.got (ksRank f) [], e.1 ≠ f.hdr.offset.toNat) ∧
  ((j.take (ksRank f) f.hdr.offset.toNat f.payload s.now).joined (ksRank f)).length < arrayBytes (kOfmt c.desc)
  (dElements c.desc) ∧ fld c.desc 66 2 = 0 :=
  ⟨{ held (coll0 (kernelDesc 0x11 4 (toLe 2 0x4000 ++ toLe 2 0 ++ toLe 2 1 ++ [1, 0, 0, 0]))) with fuses := { up.fuses with cl := 0xF0 } },
  _, 0, { frame0 with hdr := { hdr0 with src := 0x4000 } }, 3, coll0 (kernelDesc 0x11 4 (toLe 2 0x4000 ++ toLe 2 0 ++
  toLe 2 1 ++ [1, 0, 0, 0])), _, rfl, rfl, by decide +kernel⟩

theorem witness_KernelFramesTaken_5 : ∃ (s : State) (p : BitVec 6) (f : Frame) (k : Nat) (c : Coll) (u : State), u =
  (s.takeQueued f).1.dropFrom (s.takeQueued f).2 0 ∧ s.on = true ∧ s.steelNotYet f = false ∧ s.findColl
  f.hdr.ctx.toNat f.hdr.collId.toNat = some k ∧ s.coll k = some c :=
  ⟨{ held (coll0 (kernelDesc 0x12 4 (toLe 2 0x4000 ++ toLe 2 1 ++ [0, 0, 0, 0] ++ toLe 4 1 ++ toLe 4 1))) with fuses := { up.fuses with cl := 0xF0 } },
  40, frame0, 3, coll0 (kernelDesc 0x12 4 (toLe 2 0x4000 ++ toLe 2 1 ++ [0, 0, 0, 0] ++ toLe 4 1 ++ toLe 4 1)), _,
  rfl, by decide +kernel⟩

theorem witness_KernelFramesTaken_6 : ∃ (s : State) (k : Nat) (c : Coll) (bs : List Byte), bs = (s.operandMat c (fld
  c.desc 66 2)).2.flatMap (encodeArr (kOfmt c.desc) (givenScale c.desc)) ∧ s.on = true ∧ s.relocks = false ∧
  (s.pointOn 72 = true ∨ s.pointOn 73 = true) ∧ s.firstConversion = some (k, c) ∧ (c.kern.getD Kernel.init).partFail =
  0 := ⟨held
  ({ coll0 (kernelDesc 0x11 4 (toLe 2 0x4000 ++ toLe 2 1 ++ toLe 2 1 ++ [1, 0, 0, 0])) with launched := true }), 3,
  { coll0 (kernelDesc 0x11 4 (toLe 2 0x4000 ++ toLe 2 1 ++ toLe 2 1 ++ [1, 0, 0, 0])) with launched := true }, _, rfl,
  by decide +kernel⟩

theorem witness_KernelFramesTaken_7 : ∃ (s : State), (s.relocks = true ∨ (s.pointOn 72 = false ∧ s.pointOn 73 =
  false)) := ⟨up.setCluster 7 { Cluster.init with relocking := true }, by decide +kernel⟩

theorem witness_KernelFramesTaken_7b : ∃ (s : State), (s.relocks = true ∨ (s.pointOn 72 = false ∧ s.pointOn 73 =
  false)) := ⟨{ up with fuses := { up.fuses with cl := 0 } }, by decide +kernel⟩

theorem witness_UpdateStarts_1 : ∃ (s : State) (k : Nat) (c : Coll) (r : Root) (t : Tensor) (e : List Byte), r =
  c.root.getD Root.init ∧ e = applyPend t.entry (dStep c.desc) ∧ s.on = true ∧ s.firstUpdate = some (k, c) ∧ s.tensor
  (dCtx c.desc) (dTensor c.desc) = some t ∧ (dCtx c.desc, dId c.desc) ∈ s.pwt.ready ∧ s.pwt.upd = none ∧ t.ver.resync
  = false :=
  ⟨{ withTensor (held (coll0 (stepDesc 0))) ({ tensor0 with ver := Version.init }) with pwt := { up.pwt with ready := [(0, 1)] } },
  3, coll0 (stepDesc 0), _, { tensor0 with ver := Version.init }, _, rfl, rfl, by decide +kernel⟩

theorem witness_UpdateStarts_1b : ∃ (s : State) (k : Nat) (c : Coll) (r : Root) (t : Tensor) (e : List Byte), r =
  c.root.getD Root.init ∧ e = applyPend t.entry (dStep c.desc) ∧ s.on = true ∧ s.firstUpdate = some (k, c) ∧ s.tensor
  (dCtx c.desc) (dTensor c.desc) = some t ∧ (dCtx c.desc, dId c.desc) ∈ s.pwt.ready ∧ s.pwt.upd = none ∧ t.ver.resync
  = false :=
  ⟨{ withTensor (held (coll0 (stepDesc 0))) ({ tensor0 with ver := { Version.init with lost := false, lastStep := 5 } }) with pwt := { up.pwt with ready := [(0, 1)] } },
  3, coll0 (stepDesc 0), _, { tensor0 with ver := { Version.init with lost := false, lastStep := 5 } }, _, rfl, rfl,
  by decide +kernel⟩

theorem witness_UpdateStarts_1c : ∃ (s : State) (k : Nat) (c : Coll) (r : Root) (t : Tensor) (e : List Byte), r =
  c.root.getD Root.init ∧ e = applyPend t.entry (dStep c.desc) ∧ s.on = true ∧ s.firstUpdate = some (k, c) ∧ s.tensor
  (dCtx c.desc) (dTensor c.desc) = some t ∧ (dCtx c.desc, dId c.desc) ∈ s.pwt.ready ∧ s.pwt.upd = none ∧ t.ver.resync
  = false := ⟨{ withTensor (held (coll0 (stepDesc 0))) (tensor0) with pwt := { up.pwt with ready := [(0, 1)] } }, 3,
  coll0 (stepDesc 0), _, tensor0, _, rfl, rfl, by decide +kernel⟩

theorem witness_PassesEnd_1 : ∃ (s : State) (r : PassReport) (u v : Update) (k : Nat) (c : Coll) (t : Tensor), v =
  passResult c.desc t.entry t u ∧ s.on = true ∧ r.fetch = false ∧ s.pwt.upd = some u ∧ (u.phase = .rule ∨ u.phase =
  .pass2 ∨ u.phase = .image) ∧ s.findColl u.ctx u.cid = some k ∧ s.coll k = some c ∧ s.tensor u.ctx (dTensor c.desc) =
  some t ∧ r.failParts = 0 ∧ u.partFail = 0 ∧ r.stateLost = false ∧ t.ver.lost = false :=
  ⟨{ withTensor (held (coll0 (stepDesc 0))) tensor0 with pwt := { up.pwt with upd := some (upd0 .rule) } }, ⟨false, 0,
  false⟩, upd0 .rule, _, 3, coll0 (stepDesc 0), tensor0, rfl, by decide +kernel⟩

theorem witness_PassesEnd_2 : ∃ (s : State) (r : PassReport) (u : Update) (k : Nat) (c : Coll) (t : Tensor), s.on =
  true ∧ r.fetch = false ∧ s.pwt.upd = some u ∧ u.phase = .rule ∧ s.findColl u.ctx u.cid = some k ∧ s.coll k = some c
  ∧ s.tensor u.ctx (dTensor c.desc) = some t ∧ r.stateLost = true ∧ r.failParts = 0 ∧ u.partFail = 0 :=
  ⟨{ withTensor (held (coll0 (stepDesc 0))) tensor0 with pwt := { up.pwt with upd := some (upd0 .rule) } }, ⟨false, 0,
  true⟩, upd0 .rule, 3, coll0 (stepDesc 0), tensor0, by decide +kernel⟩

theorem witness_PassesEnd_3 : ∃ (s : State) (r : PassReport) (ctx cid k : Nat) (l : List (Nat × Nat)) (c : Coll) (t :
  Tensor), s.on = true ∧ r.fetch = true ∧ s.pwt.fetches = (ctx, cid) :: l ∧ s.findColl ctx cid = some k ∧ s.coll k =
  some c ∧ s.tensor ctx (dTensor c.desc) = some t ∧ (s.ctx ctx).planFenced = false ∧ r.stateLost = false ∧ t.ver.lost
  = false ∧ r.failParts = 0 ∧ s.fetchReady = true ∧ c.memberLost = false :=
  ⟨{ { withTensor (held (coll0 (stepDesc 0))) tensor0 with ing := { up.ing with pages := [⟨0, .image 0 1⟩] } } with pwt := { up.pwt with fetches := [(0, 1)] } },
  ⟨true, 0, false⟩, 0, 1, 3, [], coll0 (stepDesc 0), tensor0, by decide +kernel⟩

theorem witness_SteelRunsJobs_1 : ∃ (s : State), s.relocks = true := ⟨up.setCluster 7
  { Cluster.init with relocking := true }, by decide +kernel⟩

theorem witness_SteelRunsJobs_2 : ∃ (s : State), s.jobRelocks = true := ⟨up.setCluster 7
  { Cluster.init with relocking := true, share := .working }, by decide +kernel⟩

theorem witness_SteelRunsJobs_3 : ∃ (s v : State) (ctx cid : Nat) (u : Update), v = State.beginShares
  { s with stl := { s.stl with job := some (.ns ctx cid) } } ∧ s.on = true ∧ s.relocks = false ∧ s.stl.job = none ∧
  s.firstJob = some (.ns ctx cid) ∧ s.pwt.upd = some u ∧ s.tiles ≠ 0 :=
  ⟨{ withTensor (held (coll0 (stepDesc 0))) tensor0 with pwt := { up.pwt with upd := some (upd0 .nsReady) } }, _, 0,
  1, upd0 .nsReady, rfl, by decide +kernel⟩

theorem witness_SteelRunsJobs_4 : ∃ (s v : State) (ctx cid k i : Nat) (c : Coll), v = State.beginShares
  { s with stl := { s.stl with job := some (.matmul ctx cid i) } } ∧ s.on = true ∧ s.relocks = false ∧ s.stl.job =
  none ∧ s.firstJob = some (.matmul ctx cid i) ∧ s.findColl ctx cid = some k ∧ s.coll k = some c ∧ s.tiles ≠ 0 :=
  ⟨held
  ({ coll0 (kernelDesc 0x10 1 (toLe 2 0x4000 ++ toLe 2 1 ++ toLe 2 2 ++ toLe 2 0 ++ toLe 2 3 ++ [0x11, 0, 0, 0, 0, 0] ++ toLe 4 1 ++ toLe 4 1 ++ toLe 4 1)) with launched := true }),
  _, 0, 1, 3, 0,
  { coll0 (kernelDesc 0x10 1 (toLe 2 0x4000 ++ toLe 2 1 ++ toLe 2 2 ++ toLe 2 0 ++ toLe 2 3 ++ [0x11, 0, 0, 0, 0, 0] ++ toLe 4 1 ++ toLe 4 1 ++ toLe 4 1)) with launched := true },
  rfl, by decide +kernel⟩

theorem witness_SteelRunsJobs_6 : ∃ (s : State) (ctx cid k j : Nat) (u : Update), s.on = true ∧ s.stl.job = some (.ns
  ctx cid) ∧ s.jobRelocks = false ∧ s.pwt.upd = some u ∧ u.phase = .ns k j ∧ (j < 3 ∨ k < 5) :=
  ⟨{ { up with pwt := { up.pwt with upd := some (upd0 (.ns 5 2)) } } with stl := { up.stl with job := some (.ns 0 1) } },
  0, 1, 5, 2, upd0 (.ns 5 2), by decide +kernel⟩

theorem witness_SteelRunsJobs_6b : ∃ (s : State) (ctx cid k j : Nat) (u : Update), s.on = true ∧ s.stl.job = some (.ns
  ctx cid) ∧ s.jobRelocks = false ∧ s.pwt.upd = some u ∧ u.phase = .ns k j ∧ (j < 3 ∨ k < 5) :=
  ⟨{ { up with pwt := { up.pwt with upd := some (upd0 (.ns 1 3)) } } with stl := { up.stl with job := some (.ns 0 1) } },
  0, 1, 1, 3, upd0 (.ns 1 3), by decide +kernel⟩

theorem witness_SteelRunsJobs_7 : ∃ (s : State) (ctx cid k j : Nat) (u : Update), s.on = true ∧ s.stl.job = some (.ns
  ctx cid) ∧ s.jobRelocks = false ∧ s.pwt.upd = some u ∧ u.phase = .ns k j ∧ 3 ≤ j ∧ 5 ≤ k :=
  ⟨{ { up with pwt := { up.pwt with upd := some (upd0 (.ns 5 3)) } } with stl := { up.stl with job := some (.ns 0 1) } },
  0, 1, 5, 3, upd0 (.ns 5 3), by decide +kernel⟩

theorem witness_SteelRunsJobs_8 : ∃ (s : State) (ctx cid k i : Nat) (c : Coll) (bs : List Byte), bs = (s.matmulPart c
  i).flatMap (fun r => encodeArr (kOfmt c.desc) none (r.map f32)) ∧ s.on = true ∧ s.stl.job = some (.matmul ctx cid i)
  ∧ s.jobRelocks = false ∧ s.findColl ctx cid = some k ∧ s.coll k = some c ∧ i + 1 < dParts c.desc ∧ (c.kern.getD
  Kernel.init).partFail = 0 :=
  ⟨{ held ({ coll0 (kernelDesc 0x10 1 (toLe 2 0x4000 ++ toLe 2 1 ++ toLe 2 2 ++ toLe 2 0 ++ toLe 2 3 ++ [0x11, 0, 0, 0, 0, 0] ++ toLe 4 1 ++ toLe 4 1 ++ toLe 4 1)) with launched := true }) with stl := { up.stl with job := some (.matmul 0 1 0) } },
  0, 1, 3, 0,
  { coll0 (kernelDesc 0x10 1 (toLe 2 0x4000 ++ toLe 2 1 ++ toLe 2 2 ++ toLe 2 0 ++ toLe 2 3 ++ [0x11, 0, 0, 0, 0, 0] ++ toLe 4 1 ++ toLe 4 1 ++ toLe 4 1)) with launched := true },
  _, rfl, by decide +kernel⟩

theorem witness_SteelRunsJobs_9 : ∃ (s v : State) (n w : Nat) (ecc : List (BitVec 6 × BitVec 18 × Bool)), s.tileIn n =
  true := ⟨up, up, 63, 0, [], by decide +kernel⟩

theorem witness_FlipAndTwinCopies_1 : ∃ (s : State) (u : Update) (k : Nat) (c : Coll) (t : Tensor), s.on = true ∧
  s.pwt.finished.find? (fun u => s.flipDue u) = some u ∧ s.findColl u.ctx u.cid = some k ∧ s.coll k = some c ∧
  s.tensor u.ctx (dTensor c.desc) = some t ∧ u.partFail = 0 ∧ t.ver.lost = false ∧ (s.ctx u.ctx).planFenced = false ∧
  u.changes = true :=
  ⟨{ withTensor (held (coll0 (stepDesc 0))) tensor0 with pwt := { up.pwt with finished := [upd0 .finished] } }, upd0
  .finished, 3, coll0 (stepDesc 0), tensor0, by decide +kernel⟩

theorem witness_FlipAndTwinCopies_2 : ∃ (s : State) (u : Update) (k : Nat) (c : Coll) (t : Tensor), s.on = true ∧
  s.pwt.finished.find? (fun u => s.flipDue u) = some u ∧ s.findColl u.ctx u.cid = some k ∧ s.coll k = some c ∧
  s.tensor u.ctx (dTensor c.desc) = some t ∧ u.partFail = 0 ∧ t.ver.lost = false ∧ (s.ctx u.ctx).planFenced = false ∧
  u.changes = false ∧ s.isMirror c.desc = false :=
  ⟨{ withTensor (held (coll0 (stepDesc 0))) tensor0 with pwt := { up.pwt with finished := [{ upd0 .finished with changes := false, conds := 1 }] } },
  { upd0 .finished with changes := false, conds := 1 }, 3, coll0 (stepDesc 0), tensor0, by decide +kernel⟩

theorem witness_FlipAndTwinCopies_3 : ∃ (s v : State) (u : Update) (k : Nat) (c : Coll) (t : Tensor), v =
  { s with pwt := { s.pwt with finished := s.pwt.finished.filter (fun w => w != u) } } ∧ s.on = true ∧
  s.pwt.finished.find? (fun u => s.flipDue u) = some u ∧ s.findColl u.ctx u.cid = some k ∧ s.coll k = some c ∧
  s.tensor u.ctx (dTensor c.desc) = some t ∧ (u.partFail ≠ 0 ∨ t.ver.lost = true ∨ (s.ctx u.ctx).planFenced = true) :=
  ⟨{ withTensor (held (coll0 (stepDesc 0))) tensor0 with pwt := { up.pwt with finished := [{ upd0 .finished with partFail := 8 }] } },
  _, { upd0 .finished with partFail := 8 }, 3, coll0 (stepDesc 0), tensor0, rfl, by decide +kernel⟩

theorem witness_FlipAndTwinCopies_4 : ∃ (s : State), (∀ u ∈ s.pwt.finished, s.flipDue u = false) := ⟨up, by
  decide +kernel⟩

theorem witness_FlipAndTwinCopies_5 : ∃ (s : State) (x : Byte) (i : BitVec 16) (pd sd p q : BitVec 64) (t : Tensor),
  s.on = true ∧ s.tensor x.toNat i.toNat = some t ∧ t.twinDig = some (p, q) ∧ (p ≠ pd ∨ q ≠ sd) ∧ s.mirrorsNow t.entry
  = true := ⟨withTensor up ({ tensor0 with entry := twin0, twinDig := some (1, 2) }), 0, 0, 1, 3, 1, 2,
  { tensor0 with entry := twin0, twinDig := some (1, 2) }, by decide +kernel⟩

theorem witness_FlipAndTwinCopies_6 : ∃ (s : State) (x : Byte) (i : BitVec 16) (pd sd : BitVec 64) (t : Tensor), s.on
  = true ∧ s.tensor x.toNat i.toNat = some t ∧ t.twinDig = some (pd, sd) ∧ s.mirrorsNow t.entry = true := ⟨withTensor
  up ({ tensor0 with entry := twin0, twinDig := some (1, 2) }), 0, 0, 1, 2,
  { tensor0 with entry := twin0, twinDig := some (1, 2) }, by decide +kernel⟩

theorem witness_FlipAndTwinCopies_7 : ∃ (s : State) (x : Byte) (i : BitVec 16) (pd sd : BitVec 64) (t : Tensor), s.on
  = true ∧ s.tensor x.toNat i.toNat = some t ∧ s.mirrorsNow t.entry = true ∧ t.twinDig = none := ⟨withTensor up
  ({ tensor0 with entry := twin0, twinDig := none }), 0, 0, 1, 2, { tensor0 with entry := twin0, twinDig := none }, by
  decide +kernel⟩

theorem witness_FlipAndTwinCopies_8 : ∃ (s : State) (x : Byte) (i : BitVec 16) (pd sd : BitVec 64) (t : Tensor),
  s.tensor x.toNat i.toNat = some t ∧ s.mirrorsNow t.entry = false := ⟨withTensor up
  ({ tensor0 with twinDig := some (1, 2) }), 0, 0, 1, 2, { tensor0 with twinDig := some (1, 2) }, by decide +kernel⟩

theorem witness_FlipAndTwinCopies_9 : ∃ (s : State) (c : TwinCopy) (t : Tensor), s.on = true ∧ s.tensor c.ctx.toNat
  c.tensor.toNat = some t ∧ (c.ctx.toNat, c.tensor.toNat) ∈ s.pwt.resyncing :=
  ⟨{ withTensor up tensor0 with pwt := { up.pwt with resyncing := [(0, 0)] } }, ⟨0, 0, 1, 1, [], [], []⟩, tensor0, by
  decide +kernel⟩

theorem witness_FlipAndTwinCopies_10 : ∃ (s : State) (c : TwinCopy) (t : Tensor), s.on = true ∧ s.tensor c.ctx.toNat
  c.tensor.toNat = some t := ⟨withTensor up tensor0, ⟨0, 0, 1, 1, [], [], []⟩, tensor0, by decide +kernel⟩

theorem witness_ClocksAndTemperatures_1 : ∃ (s : State) (k : BitVec 3) (temp : Byte) (n : Nat), n = stepAt (s.cfgAt
  (aStl 0 + 0x3000)).toNat s.cap temp.toNat (s.clk - (s.cluster k.toNat).since) (s.cluster k.toNat).step ∧ s.on = true
  ∧ s.clusterIn k.toNat = true ∧ (s.cluster k.toNat).relocking = false ∧ ((s.cluster k.toNat).share = .finished ∨
  ((s.cluster k.toNat).share = .working ∧ s.lastProduct = true)) := ⟨up.setCluster 7
  { Cluster.init with share := .finished }, 7, 100, _, rfl, by decide +kernel⟩

theorem witness_ClocksAndTemperatures_1b : ∃ (s : State) (k : BitVec 3) (temp : Byte) (n : Nat), n = stepAt (s.cfgAt
  (aStl 0 + 0x3000)).toNat s.cap temp.toNat (s.clk - (s.cluster k.toNat).since) (s.cluster k.toNat).step ∧ s.on = true
  ∧ s.clusterIn k.toNat = true ∧ (s.cluster k.toNat).relocking = false ∧ ((s.cluster k.toNat).share = .finished ∨
  ((s.cluster k.toNat).share = .working ∧ s.lastProduct = true)) :=
  ⟨{ up.setCluster 7 { Cluster.init with share := .working } with stl := { (up.setCluster 7 { Cluster.init with share := .working }).stl with job := some (.matmul 0 1 0) } },
  7, 100, _, rfl, by decide +kernel⟩

theorem witness_ClocksAndTemperatures_2 : ∃ (s : State) (k : BitVec 3), s.on = true ∧ (s.cluster k.toNat).relocking =
  true ∧ s.clusterIn k.toNat = true ∧ s.clk ≤ (s.cluster k.toNat).since + 2000 := ⟨up.setCluster 7
  { Cluster.init with relocking := true, since := 9999999000 }, 7, by decide +kernel⟩

theorem witness_ClocksAndTemperatures_3 : ∃ (s : State) (k : BitVec 3) (ok : Bool), s.on = true ∧ (s.cluster
  k.toNat).relocking = true ∧ s.clusterIn k.toNat = true ∧ (s.cluster k.toNat).since + 2000 ≤ s.clk ∧ (ok = true →
  (s.cluster k.toNat).since + 2000 < s.clk) ∧ s.stl.job = none := ⟨up.setCluster 7
  { Cluster.init with relocking := true, since := 9999998000 }, 7, false, by decide +kernel⟩

theorem witness_ClocksAndTemperatures_3b : ∃ (s : State) (k : BitVec 3) (ok : Bool), s.on = true ∧ (s.cluster
  k.toNat).relocking = true ∧ s.clusterIn k.toNat = true ∧ (s.cluster k.toNat).since + 2000 ≤ s.clk ∧ (ok = true →
  (s.cluster k.toNat).since + 2000 < s.clk) ∧ s.stl.job = none := ⟨up.setCluster 7
  { Cluster.init with relocking := true, since := 9999997999 }, 7, true, by decide +kernel⟩

theorem witness_ClocksAndTemperatures_4 : ∃ (s : State) (x : TempSource) (temp : Byte), s.on = true := ⟨up, .ingot 3,
  100, by decide +kernel⟩

theorem witness_ClocksAndTemperatures_5 : ∃ (s : State) (i : Byte), s.on = true := ⟨up, 1, by decide +kernel⟩

theorem witness_IngotUpkeep_1 : ∃ (s : State) (k : BitVec 2) (c : BitVec 4) (ws : List (List Byte)), s.on = true ∧
  (s.stack k.toNat).ready = true ∧ (s.stack k.toNat).fenced = false ∧ (s.chan k.toNat c.toNat).fenced = false ∧ tfind
  (s.stack k.toNat).scrubbed c.toNat = none ∧ s.ing.poison = [] ∧ ws.map codewordOf = List.replicate 32 .clean :=
  ⟨up.setStack 3 { Stack.init with ready := true }, 3, 15, List.replicate 32 (List.replicate 36 0), ⟨by
  decide +kernel, by decide +kernel, by decide +kernel, by decide +kernel, by decide +kernel, by decide +kernel,
  clean_row⟩⟩

theorem witness_IngotUpkeep_2 : ∃ (s : State) (k : BitVec 2) (c : BitVec 4) (l : BitVec 7) (n : Nat) (ws : List (List
  Byte)), s.on = true ∧ (s.stack k.toNat).ready = true ∧ (s.stack k.toNat).fenced = false ∧ (s.chan k.toNat
  c.toNat).fenced = false ∧ tfind (s.stack k.toNat).scrubbed c.toNat = none ∧ (s.chan k.toNat c.toNat).lineRun = some
  (l.toNat, n) ∧ 32 ≤ n ∧ s.ing.poison = [] ∧ ws.map codewordOf = List.replicate 32 (.corrected (some l)) :=
  ⟨up.setStack 3 { Stack.init with ready := true, chans := [(15, { Chan.init with lineRun := some (71, 32) })] }, 3,
  15, 71, 32, List.replicate 32 line71, ⟨by decide +kernel, by decide +kernel, by decide +kernel, by decide +kernel,
  by decide +kernel, by decide +kernel, by decide, by decide +kernel, line_row⟩⟩

theorem witness_IngotUpkeep_3 : ∃ (s : State) (k : BitVec 2) (c i : BitVec 4) (at_ row : Nat), s.on = true ∧ i.toNat <
  12 ∧ tfind (s.stack k.toNat).refreshed (16 * c.toNat + i.toNat) = some (at_, row) := ⟨up.setStack 3
  { Stack.init with refreshed := [(251, (5, 7))] }, 3, 15, 11, 5, 7, by decide +kernel⟩

theorem witness_IngotUpkeep_4 : ∃ (s : State) (k : BitVec 2) (c i : BitVec 4) (at_ row : Nat), s.on = true ∧ 0 <
  i.toNat ∧ i.toNat < 12 ∧ tfind (s.stack k.toNat).refreshed (16 * c.toNat + i.toNat) = none ∧ tfind (s.stack
  k.toNat).refreshed (16 * c.toNat + i.toNat - 1) = some (at_, row) := ⟨up.setStack 3
  { Stack.init with refreshed := [(250, (5, 7))] }, 3, 15, 11, 5, 7, by decide +kernel⟩

theorem witness_IngotUpkeep_5 : ∃ (s : State) (k : BitVec 2) (temp : Byte), s.on = true := ⟨up, 3, 86, by
  decide +kernel⟩

theorem witness_IngotUpkeep_6 : ∃ (s : State) (k : BitVec 2) (c p q r : Nat) (l : List Nat), s.on = true ∧ (s.stack
  k.toNat).ready = true ∧ s.evacChan k.toNat = some c ∧ (s.stack k.toNat).moving = p :: q :: l ∧ 0 < s.rsvFree k.toNat
  ∧ s.rsvFrom k.toNat 9216 0 = some r := ⟨up.setStack 3
  { Stack.init with ready := true, chans := [(5, { Chan.init with evac := true })], moving := [23, 87] }, 3, 5, 23,
  87, rsvLo + 3, [], by decide +kernel⟩

theorem witness_IngotUpkeep_7 : ∃ (s : State), s.brass = true ∧ (∀ k, k < 4 → (s.stack k).fenced = false ∧ (s.stack
  k).ready = false) ∧ (∀ k, k < 4 → ∃ c, c < 16 ∧ (s.chan k c).fenced = false) := ⟨up, ⟨by decide +kernel, by
  decide +kernel, fun k _ => ⟨0, by decide, rfl⟩⟩⟩

theorem witness_UncorrectableStateIsLost_1 : ∃ (s : State) (a : BitVec 40) (word : List Byte) (p q k c x i n : Nat) (t
  : Tensor), p = addrPage a.toNat ∧ q = s.physPage p ∧ k = pageStack q ∧ c = pageChan q ∧ s.on = true ∧ codewordOf
  word = .uncorrectable ∧ addrExists a.toNat = true ∧ (s.stack k).fenced = false ∧ p < planLo ∧ s.holderAt p = some
  (.state x i n) ∧ s.tensor x i = some t ∧ (s.stack k).sparesUsed = [] ∧ (s.chan k c).ueRows.length < 15 ∧ s.openRec 1
  x = none ∧ (tfind s.flt.recs (s.flt.head % 262144)) = none :=
  ⟨{ withTensor up tensor0 with ing := { up.ing with pages := [⟨0, .state 0 0 0⟩] } }, 0, eccEncode true
  (List.replicate 32 0), _, _, _, _, 0, 0, 0, tensor0, rfl, rfl, rfl, rfl, by decide +kernel⟩

theorem witness_NoticesSpread_1 : ∃ (s : State) (p : BitVec 6) (n : Notice), s.on = true ∧ (s.ctx n.ctx.toNat).st ≠
  .free ∧ (s.ctx n.ctx.toNat).gen = n.gen.toNat ∧ (∀ e ∈ (s.ctx n.ctx.toNat).aborts, e.2.1 ≠ n.lost.toNat) := ⟨job,
  40, notice0, by decide +kernel⟩

theorem witness_NoticesSpread_2 : ∃ (s : State) (p : BitVec 6) (n : Notice), s.on = true ∧ (s.ctx n.ctx.toNat).st =
  .opened ∧ (s.ctx n.ctx.toNat).gen = n.gen.toNat ∧ (s.ctx n.ctx.toNat).stopD = none := ⟨job, 40, notice0, by
  decide +kernel⟩

theorem witness_NoticesSpread_3 : ∃ (s : State) (p : BitVec 6) (n : Notice), s.on = true ∧ (s.ctx n.ctx.toNat).st ≠
  .free ∧ (s.ctx n.ctx.toNat).gen = n.gen.toNat ∧ (n.d.toNat, n.lost.toNat) ∉ (s.ctx n.ctx.toNat).resumes ∧ (s.ctx
  n.ctx.toNat).resumeU = none ∧ s.slots = [] ∧ s.queue = [] := ⟨job, 40, notice0, by decide +kernel⟩

theorem witness_NoticesSpread_4 : ∃ (s : State) (p : BitVec 6) (n : Notice), s.on = true ∧ s.concerns n = false :=
  ⟨up, 40, notice0, by decide +kernel⟩

theorem witness_RecoveryCountsAct_1 : ∃ (s : State) (x d : Nat) (c : Ctx), s.on = true ∧ s.switchFirst = false ∧
  s.ctxs = [(x, c)] ∧ c.st = .draining ∧ c.stopD = some d ∧ c.stopDone = false ∧ d + 20000 ≤ s.now ∧ c.aborts = [] ∧
  s.slots = [] ∧ s.queue = [] ∧ s.sol.queues = [] ∧ s.sol.descWait = [] ∧ (∀ p, p < 64 → (s.port p).egress = []) ∧
  s.sol.flows = [] ∧ (s.xfers.map Prod.fst).Nodup := ⟨withCtx up { open0 with st := .draining, stopD := some 980000 },
  0, 980000, { open0 with st := .draining, stopD := some 980000 }, by decide +kernel⟩

theorem witness_RecoveryCountsAct_2 : ∃ (s : State) (x : Nat) (c : Ctx), s.on = true ∧ s.ctxs = [(x, c)] ∧ c.st =
  .draining ∧ c.stopDone = true ∧ s.ctxDrain x = 0 ∧ c.teardown = false ∧ c.waiting = [] := ⟨withCtx up
  { open0 with st := .draining, stopDone := true }, 0, { open0 with st := .draining, stopDone := true }, by
  decide +kernel⟩

theorem witness_RecoveryCountsAct_3 : ∃ (s : State) (x d a : Nat) (c : Ctx) (h : Bool) (dec : List (BitVec 8 × BitVec
  32)), h = true ∧ s.on = true ∧ s.switchFirst = false ∧ s.ctxs = [(x, c)] ∧ c.aborts = [(d, a, h, false)] ∧ d + 20000
  ≤ s.now ∧ c.stopD = none ∧ c.holdUntil = none ∧ s.slots = [] ∧ s.queue = [] ∧ a ≠ s.addr ∧ a ∉ s.flt.lost ∧
  s.inBlock a = true := ⟨withCtx up { open0 with aborts := [(980000, 0x4010, true, false)] }, 0, 980000, 0x4010,
  { open0 with aborts := [(980000, 0x4010, true, false)] }, _, [], rfl, by decide +kernel⟩

theorem witness_RecoveryCountsAct_4 : ∃ (s : State) (x u : Nat) (c : Ctx), s.on = true ∧ s.switchFirst = false ∧
  s.ctxs = [(x, c)] ∧ c.resumeU = some u ∧ u ≤ s.now ∧ c.holdUntil = none ∧ s.slots = [] := ⟨withCtx up
  { open0 with resumeU := some 1000000 }, 0, 1000000, { open0 with resumeU := some 1000000 }, by decide +kernel⟩

theorem witness_RecoveryCountsAct_5 : ∃ (s : State) (x d : Nat) (c : Ctx), s.on = true ∧ s.ctxs = [(x, c)] ∧
  c.holdUntil = some d ∧ d ≤ s.now ∧ c.resumeU = none ∧ s.slots = [] ∧ s.queue = [] := ⟨withCtx up
  { open0 with holdUntil := some 1000000 }, 0, 1000000, { open0 with holdUntil := some 1000000 }, by decide +kernel⟩

theorem witness_RecoveryCountsAct_6 : ∃ (s : State) (x : Nat) (c : Ctx), s.brass = true ∧ s.irc.state = .locked ∧
  s.heldRx = [] ∧ s.ctxs = [(x, c)] ∧ s.flt.heldDescs = [] ∧ s.heldForMe x = true ∧ s.copiesDue x = false := ⟨held
  { coll0 (barrier 900000) with heldAt := some 1 }, 0, open0, by decide +kernel⟩

theorem witness_ResetsAct_1 : ∃ (s : State) (cause : BitVec 4) (b : BootObs), s.on = true ∧ (cause = 1 ∨ cause = 2) ∧
  s.sys.resetAsked = some cause.toNat := ⟨{ up with sys := { up.sys with resetAsked := some 2 } }, 2, boot0, by
  decide +kernel⟩

theorem witness_ResetsAct_2 : ∃ (s : State) (b : BootObs), s.on = true := ⟨up, boot0, by decide +kernel⟩

theorem witness_ResetsAct_3 : ∃ (s : State) (cause : Nat) (b : BootObs), s.on = true ∧ b.romOk = true ∧ b.otpOk = true
  ∧ b.prefixOk = true ∧ b.rsvPartial = false := ⟨up, 4, boot0, by decide +kernel⟩

theorem witness_ResetsAct_4 : ∃ (s : State) (w : BitVec 32) (b : BootObs), s.pins.pwrgd = true ∧ 1000 ≤ w.toNat ∧
  s.sys.classX = false ∧ s.pins.floating = false := ⟨up, 1000, boot0, by decide +kernel⟩

theorem witness_ResetsAct_5 : ∃ (s : State) (w : BitVec 32) (b : BootObs), s.sys.classX = true :=
  ⟨{ up with sys := { up.sys with classX := true } }, 0, boot0, by decide +kernel⟩

theorem witness_ResetsAct_6 : ∃ (s : State) (w : BitVec 32) (b : BootObs), s.pins.pwrgd = true ∧ s.pins.floating =
  true ∧ s.pins.resetN = false := ⟨{ up with pins := { up.pins with floating := true, resetN := false } }, 0, boot0,
  by decide +kernel⟩

theorem witness_ResetsAct_7 : ∃ (s : State) (w : BitVec 32), 1000 ≤ w.toNat := ⟨up, 1000, by decide +kernel⟩

theorem witness_ResetsAct_9 : ∃ (s : State) (w : BitVec 32), 1000 ≤ w.toNat ∧ s.irc.state = .free :=
  ⟨{ up with irc := Irc.init }, 1000, by decide +kernel⟩

theorem witness_ResetsAct_10 : ∃ (s : State) (w : BitVec 32), 1000 ≤ w.toNat ∧ s.on = true ∧ s.irc.state ≠ .free ∧
  s.irc.state ≠ .fault := ⟨up, 1000, by decide +kernel⟩

theorem witness_StepKeepsInvariant_1 : ∃ (s t : State), s.Inv ∧ step s = .next t := ⟨{ up with pending := [.bypass] },
  { up with pins := { up.pins with ir := .bypass, tdo := [false] } }, ⟨by decide +kernel, rfl⟩⟩

theorem witness_DirectAndSeamPortsNeedHallMode_1 : ∃ (s : State) (l : BitVec 9) (o : PhaseObs), l.toNat < 256 ∧
  s.seamOrHall (l.toNat / 4) = true ∧ s.irc.hall = false := ⟨up, 255, phase0, by decide +kernel⟩

theorem witness_DirectAndSeamPortsNeedHallMode_2 : ∃ (s : State) (m : BitVec 6) (r : Req), r = s.reqAt m ∧ s.fits m
  0x501 ∧ (s.port (r.b 0)).st = .fenced ∧ s.seamOrHall (r.b 0) = true ∧ s.irc.hall = false := ⟨(box 0x501 (toLe 8
  63)).setPort 63 { Port.init with st := .fenced }, 0, _, rfl, by decide +kernel⟩

theorem witness_DirectAndSeamPortsNeedHallMode_3 : ∃ (s : State) (l : BitVec 9) (ws : List (BitVec 40)) (w : BitVec
  40) (o : PhaseObs), s.on = true ∧ sideHeard 3 ws = some w ∧ bit (wordSb w) 4 = false ∧ l.toNat < 256 ∧ s.seamOrHall
  (l.toNat / 4) = true ∧ s.irc.hall = true ∧ (s.lane l.toNat).phase = 6 := ⟨hall2.setLane 192
  { Lane.init with phase := 6 }, 192, said 3 129 0 52, word 3 129 0 52, phase0, by decide +kernel⟩

theorem witness_OpenOfHeldContextRefused_2 : ∃ (s : State) (m : BitVec 6) (r : Req), r = s.reqAt m ∧ s.fits m 0x101 ∧
  (s.ctx (r.b 0)).st ≠ .free := ⟨(box 0x101 ([255, 0] ++ toLe 2 5 ++ toLe 4 0 ++ toLe 8 0)).setCtx 255 open0, 0, _,
  rfl, by decide +kernel⟩

theorem witness_OpenOfHeldContextRefused_3 : ∃ (s : State) (m : BitVec 6) (r : Req), r = s.reqAt m ∧ s.fits m 0x101 ∧
  (∀ x, x < 256 → (s.ctx x).st ≠ .free) :=
  ⟨{ box 0x101 ([255, 0] ++ toLe 2 5 ++ toLe 4 0 ++ toLe 8 0) with ctxs := (List.range 256).map (fun x => (x, open0)) },
  0, _, rfl, by decide +kernel⟩

theorem witness_ShaperCreditAndReset_1 : ∃ (s : State) (w : Who) (p : BitVec 6) (k : BitVec 2) (limit : Bool) (v :
  Word), s.hears w := ⟨up, .brass, 63, 3, true, 0xFFFFFFFF, by decide +kernel⟩

theorem witness_ShaperCreditAndReset_2 : ∃ (s : State) (cause : Nat) (b : BootObs) (p k : Nat), s.sys.classX = false ∧
  s.pins.floating = false ∧ p < 64 ∧ k < 4 := ⟨up, 1, boot0, 63, 3, by decide +kernel⟩

theorem witness_SignaturesRunOut_1 : ∃ (s : State) (m : BitVec 6), s.fits m 0x601 ∧ s.sec.busy = false ∧ 1024 ≤
  s.fuses.rsv ∧ (s.sec.leaf = none ∨ s.sec.leaf = some 1024) :=
  ⟨{ box 0x601 (List.replicate 40 0) with fuses := { up.fuses with rsv := 1024 } }, 0, by decide +kernel⟩

theorem witness_SignaturesRunOut_2 : ∃ (s : State), s.sec.busy = false := ⟨up, by decide +kernel⟩

end Sys2Proof.Tests
end

/-! What every command does, whatever the state: it is answered with a next state, and that state keeps the queue, the
identity of the part and soundness. -/

namespace Sys2Proof.Machine

/-! ### Outcomes that are a next state -/

/-- An outcome that is a next state, so neither a fault nor a refusal. -/
def Answers (o : Host.Outcome State Fault Refusal) : Prop := ∃ t : State, o = .next t

theorem answers_next {t : State} : Answers (.next t) := ⟨t, rfl⟩

theorem answers_due {c : Bool} {s t : State} : Answers (due c s t) := ⟨_, rfl⟩

theorem answers_ite {c : Prop} [Decidable c] {a b : Host.Outcome State Fault Refusal} (ha : Answers a)
    (hb : Answers b) : Answers (if c then a else b) := by
  split
  · exact ha
  · exact hb

/-- A MGMT frame is answered: it is not yet whole, or Brass takes it. -/
theorem brassFrame_answers {s : State} {msub : Nat} {m : Mgmt} {act : State → State} :
    Answers (s.brassFrame msub m act) := by
  unfold State.brassFrame
  split
  · exact answers_next
  · exact answers_due

/-! ### Products of Steel, and late budgets -/

/-- The product of a Newton-Schulz iteration, of a MATMUL part, or of no job that still stands. -/
theorem State.productDone_answers {s : State} : Answers s.productDone := by
  unfold State.productDone
  split
  · exact answers_next
  · split
    · split
      · exact answers_due
      · exact answers_next
    · exact answers_next
  · split
    · split
      · exact answers_due
      · exact answers_next
    · exact answers_next

theorem execProductDone_answers {s : State} {ecc : List (BitVec 6 × BitVec 18 × Bool)} :
    Answers (execProductDone ecc s) :=
  answers_ite answers_next (answers_ite State.productDone_answers answers_next)

theorem execLateBudgetExpiry_answers {s : State} : Answers (execLateBudgetExpiry s) := by
  unfold execLateBudgetExpiry
  split
  · exact answers_due
  · split
    · exact answers_due
    · exact answers_next

/-! ### Frames and messages of collectives: once the frame is taken, the collective it names is found or not -/

section
variable {s : State} {p : BitVec 6} {f : Frame} {m : ReturnMsg}

theorem execContribReceive_answers {ecc : List (BitVec 4 × BitVec 20 × Bool)} :
    Answers (execContribReceive p f ecc s) := by
  refine answers_ite answers_next ?_
  dsimp only
  split
  · exact answers_next
  · split
    · exact answers_next
    · split
      · exact answers_ite answers_next answers_next
      · exact answers_next

theorem execPartialReceive_answers {ecc : List (BitVec 4 × BitVec 20 × Bool)} :
    Answers (execPartialReceive p f ecc s) := by
  refine answers_ite answers_next ?_
  dsimp only
  split
  · exact answers_next
  · split
    · exact answers_next
    · refine answers_ite ?_ ?_
      · split
        · exact answers_next
        · exact answers_next
      · split
        · exact answers_next
        · exact answers_ite answers_next answers_next

theorem execCompletionReceive_answers : Answers (execCompletionReceive p f s) := by
  refine answers_ite answers_next ?_
  dsimp only
  split
  · exact answers_next
  · exact answers_ite answers_next answers_next

theorem execReturnReceive_answers : Answers (execReturnReceive p f s) := by
  refine answers_ite answers_next ?_
  dsimp only
  split
  · exact answers_next
  · split
    · exact answers_next
    · exact answers_next

theorem execReturnDone_answers : Answers (execReturnDone p m s) := by
  refine answers_ite answers_next (answers_ite answers_next ?_)
  split
  · exact answers_next
  · split
    · exact answers_next
    · split
      · exact answers_next
      · exact answers_next

theorem execReturnResend_answers : Answers (execReturnResend p m s) := by
  refine answers_ite answers_next (answers_ite answers_next ?_)
  split
  · exact answers_next
  · split
    · exact answers_next
    · refine answers_ite ?_ ?_
      · split
        · exact answers_next
        · exact answers_next
      · split
        · exact answers_next
        · exact answers_ite answers_next (answers_ite answers_next answers_next)

theorem execLookupReceive_answers : Answers (execLookupReceive p f s) := by
  refine answers_ite answers_next ?_
  dsimp only
  split
  · exact answers_next
  · split
    · exact answers_next
    · refine answers_ite answers_next ?_
      split
      · exact answers_next
      · refine answers_ite answers_next ?_
        split
        · exact answers_next
        · exact answers_next

theorem execSourceReceive_answers : Answers (execSourceReceive p f s) := by
  refine answers_ite answers_next ?_
  dsimp only
  split
  · exact answers_next
  · split
    · exact answers_next
    · split
      · exact answers_next
      · exact answers_ite answers_next answers_next

theorem execConvertedReceive_answers : Answers (execConvertedReceive p f s) := by
  refine answers_ite answers_next ?_
  dsimp only
  split
  · exact answers_next
  · split
    · exact answers_next
    · refine answers_ite answers_next ?_
      split
      · exact answers_next
      · exact answers_next

theorem execResultReceive_answers : Answers (execResultReceive p f s) := by
  refine answers_ite answers_next ?_
  dsimp only
  split
  · exact answers_next
  · split
    · exact answers_next
    · exact answers_ite answers_next answers_next

end

/-! ### Every command -/

/-- Every command is answered. The meanings that no case below names are `.next` or `due` as they stand. -/
theorem exec_answers (i : Instr) (s : State) : Answers (exec i s) := by
  unfold exec
  cases i with
  | ringWrite | bulkWrite | regRead | regWrite | heldDesc | tableAck | hello | cellReset => exact brassFrame_answers
  -- one look-up (a word heard, a timer that runs, an entry found), answered in both cases
  | flitReceive | badCrcFlit | replayTimeout | retrainTimeout | slotBoundary | fomReport | txEqReq | param |
  widthChange | widthChangeEffective | spareReq | spareDone | ready | trainingPhaseTimeout | markerLock | fomWindow |
  stepCorrection | frameDescriptorFree | faultNPulseEnd | faultNGapEnd | cellResetEntry | flip | steelJobStart |
  conversionDone =>
    dsimp only [execFlitReceive, execBadCrcFlit, execReplayTimeout, execRetrainTimeout, execSlotBoundary,
      execFomReport, execTxEqReq, execParam, execWidthChange, execWidthChangeEffective, execSpareReq, execSpareDone,
      execReady, execTrainingPhaseTimeout, execMarkerLock, execFomWindow, execStepCorrection, execFrameDescriptorFree,
      execFaultNPulseEnd, execFaultNGapEnd, execCellResetEntry, execFlip, execSteelJobStart, execConversionDone]
    split <;> exact ⟨_, rfl⟩
  -- one look-up, and a condition on what is found
  | timeResp =>
    dsimp only [execTimeResp]
    split
    · exact answers_next
    · exact answers_ite answers_next (answers_ite answers_next answers_next)
  | twinDigest | resyncDone | rejoinCopyDone =>
    dsimp only [execTwinDigest, execResyncDone, execRejoinCopyDone]
    split
    · exact answers_next
    · exact answers_ite answers_next answers_next
  | trainingPhaseDone | resetN | passDone => exact answers_ite answers_due answers_due
  | pwrgd => exact answers_ite answers_next answers_due
  | warmReset => exact answers_ite answers_due (answers_ite answers_due answers_next)
  | productDone => exact execProductDone_answers
  | lateBudgetExpiry => exact execLateBudgetExpiry_answers
  | contribReceive => exact execContribReceive_answers
  | partialReceive => exact execPartialReceive_answers
  | completionReceive => exact execCompletionReceive_answers
  | returnReceive => exact execReturnReceive_answers
  | returnDone => exact execReturnDone_answers
  | returnResend => exact execReturnResend_answers
  | lookupReceive => exact execLookupReceive_answers
  | sourceReceive => exact execSourceReceive_answers
  | convertedReceive => exact execConvertedReceive_answers
  | resultReceive => exact execResultReceive_answers
  | _ => exact ⟨_, rfl⟩

/-- Every command keeps the queue, the identity of the part and soundness. -/
theorem exec_keep {q : Base} {s : State} (h : Keep q s) (i : Instr) : KeepOut q (exec i s) := by
  unfold exec
  cases i with
  | nop => exact execNop_keep h
  | identify => exact execIdentify_keep h
  | mbxOpen => exact execMbxOpen_keep h
  | mbxClose => exact execMbxClose_keep h
  | xferOpen => exact execXferOpen_keep h
  | xferClose => exact execXferClose_keep h
  | xferAbort => exact execXferAbort_keep h
  | xferRead => exact execXferRead_keep h
  | ctxOpen => exact execCtxOpen_keep h
  | ctxTeardown => exact execCtxTeardown_keep h
  | ctxReset => exact execCtxReset_keep h
  | planLoad => exact execPlanLoad_keep h
  | groupSet => exact execGroupSet_keep h
  | tensorSet => exact execTensorSet_keep h
  | poolSet => exact execPoolSet_keep h
  | collPost => exact execCollPost_keep h
  | badOpcode => exact execBadOpcode_keep h
  | schedLoad => exact execSchedLoad_keep h
  | epochArm => exact execEpochArm_keep h
  | ircStep => exact execIrcStep_keep h
  | configApply => exact execConfigApply_keep h
  | stateLoad => exact execStateLoad_keep h
  | regionAlloc => exact execRegionAlloc_keep h
  | regionFree => exact execRegionFree_keep h
  | ingFence => exact execIngFence_keep h
  | portEnable => exact execPortEnable_keep h
  | unitFence => exact execUnitFence_keep h
  | resetWarm => exact execResetWarm_keep h
  | resetWarmCell => exact execResetWarmCell_keep h
  | attestQuote => exact execAttestQuote_keep h
  | fwStage => exact execFwStage_keep h
  | fwActivate => exact execFwActivate_keep h
  | ringWrite => exact execRingWrite_keep h
  | bulkWrite => exact execBulkWrite_keep h
  | regRead => exact execRegRead_keep h
  | regWrite => exact execRegWrite_keep h
  | heldDesc => exact execHeldDesc_keep h
  | heldDescSend => exact execHeldDescSend_keep h
  | tableAck => exact execTableAck_keep h
  | hello => exact execHello_keep h
  | helloRepeat => exact execHelloRepeat_keep h
  | cellReset => exact execCellReset_keep h
  | cellResetEntry => exact execCellResetEntry_keep h
  | cellRelease => exact execCellRelease_keep h
  | cellReleaseTimeout => exact execCellReleaseTimeout_keep h
  | sysUnlock => exact execSysUnlock_keep h
  | unlockKeyTimeout => exact execUnlockKeyTimeout_keep h
  | sysReset => exact execSysReset_keep h
  | mbxRqTail => exact execMbxRqTail_keep h
  | mbxCqHead => exact execMbxCqHead_keep h
  | mbxCtlReset => exact execMbxCtlReset_keep h
  | fltCmdAck => exact execFltCmdAck_keep h
  | fltCmdClose => exact execFltCmdClose_keep h
  | secCfgkeyBurn => exact execSecCfgkeyBurn_keep h
  | shaperWrite => exact execShaperWrite_keep h
  | policerWrite => exact execPolicerWrite_keep h
  | weightWrite => exact execWeightWrite_keep h
  | portDisable => exact execPortDisable_keep h
  | prtVcLimitWrite => exact execPrtVcLimitWrite_keep h
  | prtVcEnWrite => exact execPrtVcEnWrite_keep h
  | sldPoolCfgWrite => exact execSldPoolCfgWrite_keep h
  | sldRsvWrite => exact execSldRsvWrite_keep h
  | ircNowLoRead => exact execIrcNowLoRead_keep h
  | schTblDataRead => exact execSchTblDataRead_keep h
  | rcRead => exact execRcRead_keep h
  | lowWordRead => exact execLowWordRead_keep h
  | bitAliasWrite => exact execBitAliasWrite_keep h
  | broadcastWrite => exact execBroadcastWrite_keep h
  | groupWindowWrite => exact execGroupWindowWrite_keep h
  | registerWrite => exact execRegisterWrite_keep h
  | smbusAddr => exact execSmbusAddr_keep h
  | smbusDataWrite => exact execSmbusDataWrite_keep h
  | smbusDataRead => exact execSmbusDataRead_keep h
  | smbusRdlen => exact execSmbusRdlen_keep h
  | smbusStatus => exact execSmbusStatus_keep h
  | bypass => exact execBypass_keep h
  | idcode => exact execIdcode_keep h
  | samplePreload => exact execSamplePreload_keep h
  | extest => exact execExtest_keep h
  | flitReceive => exact execFlitReceive_keep h
  | badCrcFlit => exact execBadCrcFlit_keep h
  | nak => exact execNak_keep h
  | nakRepeat => exact execNakRepeat_keep h
  | replayTimeout => exact execReplayTimeout_keep h
  | retrainReq => exact execRetrainReq_keep h
  | retrainTimeout => exact execRetrainTimeout_keep h
  | creditSync => exact execCreditSync_keep h
  | creditSyncAck => exact execCreditSyncAck_keep h
  | protocolViolation => exact execProtocolViolation_keep h
  | leave => exact execLeave_keep h
  | linkLost => exact execLinkLost_keep h
  | transmitFlit => exact execTransmitFlit_keep h
  | slotBoundary => exact execSlotBoundary_keep h
  | fomReport => exact execFomReport_keep h
  | txEqReq => exact execTxEqReq_keep h
  | param => exact execParam_keep h
  | paramRepeat => exact execParamRepeat_keep h
  | widthChange => exact execWidthChange_keep h
  | widthChangeEffective => exact execWidthChangeEffective_keep h
  | spareReq => exact execSpareReq_keep h
  | spareDone => exact execSpareDone_keep h
  | ready => exact execReady_keep h
  | trainingPhaseDone => exact execTrainingPhaseDone_keep h
  | trainingPhaseTimeout => exact execTrainingPhaseTimeout_keep h
  | markerLock => exact execMarkerLock_keep h
  | markerLoss => exact execMarkerLoss_keep h
  | fomWindow => exact execFomWindow_keep h
  | loopLockLoss => exact execLoopLockLoss_keep h
  | spareTrainDone => exact execSpareTrainDone_keep h
  | timeReqSend => exact execTimeReqSend_keep h
  | timeReq => exact execTimeReq_keep h
  | timeResp => exact execTimeResp_keep h
  | masterElection => exact execMasterElection_keep h
  | selfStart => exact execSelfStart_keep h
  | ppsIn => exact execPpsIn_keep h
  | ppsOut => exact execPpsOut_keep h
  | holdoverEntry => exact execHoldoverEntry_keep h
  | holdoverExpiry => exact execHoldoverExpiry_keep h
  | launch => exact execLaunch_keep h
  | lateNotice => exact execLateNotice_keep h
  | lateLaunchStop => exact execLateLaunchStop_keep h
  | barrierRelease => exact execBarrierRelease_keep h
  | barrierSample => exact execBarrierSample_keep h
  | barrierPullLow => exact execBarrierPullLow_keep h
  | stepCorrection => exact execStepCorrection_keep h
  | epochCancel => exact execEpochCancel_keep h
  | epochDecision => exact execEpochDecision_keep h
  | epochSwitch => exact execEpochSwitch_keep h
  | epochInfo => exact execEpochInfo_keep h
  | epochJoinActivate => exact execEpochJoinActivate_keep h
  | frameIngress => exact execFrameIngress_keep h
  | frameDescriptorFree => exact execFrameDescriptorFree_keep h
  | cellTimeMatch => exact execCellTimeMatch_keep h
  | noRouteWait => exact execNoRouteWait_keep h
  | escapeMove => exact execEscapeMove_keep h
  | gapExpiry => exact execGapExpiry_keep h
  | flowGrant => exact execFlowGrant_keep h
  | flowDeny => exact execFlowDeny_keep h
  | flowClose => exact execFlowClose_keep h
  | flowCloseAck => exact execFlowCloseAck_keep h
  | flowIdle => exact execFlowIdle_keep h
  | receiveFlowTimeout => exact execReceiveFlowTimeout_keep h
  | telemetrySample => exact execTelemetrySample_keep h
  | bufferGrant => exact execBufferGrant_keep h
  | launchQueueTake => exact execLaunchQueueTake_keep h
  | contribReceive => exact execContribReceive_keep h
  | partialReceive => exact execPartialReceive_keep h
  | lateBudgetExpiry => exact execLateBudgetExpiry_keep h
  | updateStart => exact execUpdateStart_keep h
  | passDone => exact execPassDone_keep h
  | steelJobStart => exact execSteelJobStart_keep h
  | productDone => exact execProductDone_keep h
  | flip => exact execFlip_keep h
  | twinDigest => exact execTwinDigest_keep h
  | resyncDone => exact execResyncDone_keep h
  | rejoinCopyDone => exact execRejoinCopyDone_keep h
  | returnReceive => exact execReturnReceive_keep h
  | returnDone => exact execReturnDone_keep h
  | returnResend => exact execReturnResend_keep h
  | completionReceive => exact execCompletionReceive_keep h
  | lookupReceive => exact execLookupReceive_keep h
  | sourceReceive => exact execSourceReceive_keep h
  | convertedReceive => exact execConvertedReceive_keep h
  | resultReceive => exact execResultReceive_keep h
  | layerBoundary => exact execLayerBoundary_keep h
  | clusterRelock => exact execClusterRelock_keep h
  | tempAlert => exact execTempAlert_keep h
  | thermalTrip => exact execThermalTrip_keep h
  | scrubRow => exact execScrubRow_keep h
  | refresh => exact execRefresh_keep h
  | dramHot => exact execDramHot_keep h
  | uncorrectableCodeword => exact execUncorrectableCodeword_keep h
  | pageMoveDone => exact execPageMoveDone_keep h
  | recordAutoClose => exact execRecordAutoClose_keep h
  | deferredTimerExpiry => exact execDeferredTimerExpiry_keep h
  | faultNPulseEnd => exact execFaultNPulseEnd_keep h
  | watchdogExpiry => exact execWatchdogExpiry_keep h
  | configParityScan => exact execConfigParityScan_keep h
  | abortNotice => exact execAbortNotice_keep h
  | abortCount => exact execAbortCount_keep h
  | ctxStop => exact execCtxStop_keep h
  | stopCount => exact execStopCount_keep h
  | drainComplete => exact execDrainComplete_keep h
  | resume => exact execResume_keep h
  | resumeFlood => exact execResumeFlood_keep h
  | heldLaunch => exact execHeldLaunch_keep h
  | holdLimitExpiry => exact execHoldLimitExpiry_keep h
  | warmReset => exact execWarmReset_keep h
  | resetN => exact execResetN_keep h
  | pwrgd => exact execPwrgd_keep h
  | refclkStop => exact execRefclkStop_keep h
  | resetExit => exact execResetExit_keep h
  | ingotTrained => exact execIngotTrained_keep h
  | faultNGapEnd => exact execFaultNGapEnd_keep h
  | treeStartDone => exact execTreeStartDone_keep h
  | refclkRestore => exact execRefclkRestore_keep h
  | conversionDone => exact execConversionDone_keep h

/-- Two states of one queue and one part. -/
theorem State.part_eq_iff {s t : State} : t.part = s.part ↔
    t.pending = s.pending ∧ t.fuses.grade = s.fuses.grade ∧ t.fuses.serial = s.fuses.serial ∧
    t.fuses.bz = s.fuses.bz ∧ t.fuses.st = s.fuses.st ∧ t.fuses.cl = s.fuses.cl := by
  simp only [State.part, Prod.mk.injEq]

/-- SYS_ID is a function of the grade (13 Table 13.16). -/
theorem State.sysId_eq_of_grade_eq {s t : State} (h : t.fuses.grade = s.fuses.grade) : t.sysId = s.sysId := by
  unfold State.sysId
  rw [h]

/-- Settles O54: each command is answered (`exec_answers`), and what it answers keeps the part (`exec_keep`). -/
theorem everyCommandAnswersAndKeepsIdentity : Obligations.EveryCommandAnswersAndKeepsIdentity := by
  intro c s
  obtain ⟨t, ht⟩ := exec_answers c s
  have hpart : t.part = s.part := ((exec_keep (Keep.self s) c).of t ht).part
  obtain ⟨hpending, hgrade, hfuses⟩ := State.part_eq_iff.mp hpart
  exact ⟨t, ht, hpending, State.sysId_eq_of_grade_eq hgrade, hgrade, hfuses⟩

end Sys2Proof.Machine

/-! Direct and seam ports and the hall mode (01 R31): they do not train in cell mode, and in hall mode a lane whose partner
reports cell mode never leaves phase 6. -/

namespace Sys2Proof.Machine

/-! ### Training in cell mode -/

/-- A direct or seam port may not train in cell mode. -/
theorem State.mayTrain_eq_false_of_cell {s : State} {p : Nat} (hseam : s.seamOrHall p = true)
    (hcell : s.irc.hall = false) : s.mayTrain p = false := by
  simp [State.mayTrain, hseam, hcell]

/-- Where a port may not train, no phase of its lanes ends. -/
theorem execTrainingPhaseDone_of_not_mayTrain {s : State} {l : BitVec 9} {o : PhaseObs} (hl : l.toNat < 256)
    (hno : s.mayTrain (l.toNat / 4) = false) : execTrainingPhaseDone l o s = .next s := by
  simp [execTrainingPhaseDone, due, Nat.not_le.mpr hl, hno]

/-- PORT_ENABLE of a FENCED direct or seam port in cell mode leaves it DOWN. -/
theorem State.runPortEnable_of_cell {s : State} {r : Req} (hfenced : (s.port (r.b 0)).st = .fenced)
    (hseam : s.seamOrHall (r.b 0) = true) (hcell : s.irc.hall = false) :
    s.runPortEnable r = (s.setPort (r.b 0) { s.port (r.b 0) with st := .down }).complete r.cmd 0 0 [] := by
  have hno : (s.setPort (r.b 0) { s.port (r.b 0) with st := .down }).mayTrain (r.b 0) = false :=
    State.mayTrain_eq_false_of_cell hseam hcell
  simp [State.runPortEnable, hfenced, hno, State.ok, rOk]

/-! ### A PARAM that is refused -/

@[simp] theorem State.record_lanes (s : State) (cls dk di src info : Nat) :
    (s.record cls dk di src info).lanes = s.lanes := by
  rw [State.record_only]

@[simp] theorem State.record_ports (s : State) (cls dk di src info : Nat) :
    (s.record cls dk di src info).ports = s.ports := by
  rw [State.record_only]

/-- A violation found in training (code above 4) is logged beside its port alone (05 Table 5.16). -/
theorem State.violation_only_of_training {s : State} {p code vc typ seq : Nat} (hcode : 4 < code) :
    s.violation p code vc typ seq = { s with aux := (s.violation p code vc typ seq).aux } := by
  unfold State.violation
  simp only [if_pos hcode]
  rfl

/-- A PARAM whose mode is not the Fixus's own is refused on its lane (05 R120); every port and every other lane stays. -/
theorem execParam_of_other_mode {s : State} {l : BitVec 9} {ws : List (BitVec 40)} {w : BitVec 40}
    (hw : sideHeard 3 ws = some w) (hon : s.on = true) (hl : l.toNat < 256) (hphase : (s.lane l.toNat).phase = 6)
    (hmode : bit (wordSb w) 4 ≠ s.irc.hall) :
    ∃ t : State, execParam l ws s = .next t ∧ t.ports = s.ports ∧
      t.lanes = (s.setLane l.toNat { s.lane l.toNat with paramOk := some false }).lanes := by
  have hdue : (s.on && decide (l.toNat < 256) && (s.lane l.toNat).phase == 6) = true := by simp [hon, hl, hphase]
  have hbad : (bit (wordSb w) 4 == s.irc.hall) = false := beq_eq_false_iff_ne.mpr hmode
  unfold execParam
  simp only [hw, hbad, hdue, due, Bool.and_false, Bool.false_and, Bool.false_eq_true, if_false, if_true]
  refine ⟨_, rfl, ?_, ?_⟩
  · rw [State.setPaux_ports, State.record_ports, State.setPaux_ports, State.violation_only_of_training (by decide)]
    rfl
  · rw [State.setPaux_lanes, State.record_lanes, State.setPaux_lanes, State.violation_only_of_training (by decide)]

/-! ### Phase 6 -/

/-- A READY or PARAM that waits for the sideband leaves the state of every port. -/
theorem State.port_sendSide_st (s : State) (p j : Nat) (m : SideMsg) : ((s.sendSide p m).port j).st = (s.port j).st := by
  unfold State.sendSide
  rw [State.port_setPort]
  split
  · next h => rw [h]
  · rfl

/-- One lane passes to phase 7 and reports it (05 R119). -/
abbrev State.passLane (p : Nat) (s : State) (i : Nat) : State := (s.lanePhase (4 * p + i) 7).sendSide p (.ready i 6)

/-- Where lanes of a port pass to phase 7, the state of the port stays. -/
theorem State.foldl_passLane_port_st {s : State} {p j : Nat} {ls : List Nat} :
    ((ls.foldl (State.passLane p) s).port j).st = (s.port j).st := by
  induction ls generalizing s with
  | nil => rfl
  | cons i ls ih => exact ih.trans (State.port_sendSide_st ..)

/-- Where lanes of a port pass to phase 7, every other lane stays. -/
theorem State.foldl_passLane_lane {s : State} {p j : Nat} {ls : List Nat} (hj : ∀ i ∈ ls, 4 * p + i ≠ j) :
    (ls.foldl (State.passLane p) s).lane j = s.lane j := by
  induction ls generalizing s with
  | nil => rfl
  | cons i ls ih =>
    rw [List.foldl_cons, ih fun k hk => hj k (List.mem_cons_of_mem i hk)]
    exact (State.lane_setLane ..).trans (if_neg (hj i List.mem_cons_self))

/-- CREDIT_SYNC leaves the state of every port. -/
theorem State.port_sendSync_st (s : State) (p j : Nat) : ((s.sendSync p).port j).st = (s.port j).st := by
  unfold State.sendSync State.sendLink
  simp only [State.port_setPort]
  split
  · next h => rw [h]; simp
  · rfl

/-- The end of phase 6 leaves the state of every port. -/
theorem State.port_toPhase7_st (s : State) (p j : Nat) : ((s.toPhase7 p).port j).st = (s.port j).st := by
  unfold State.toPhase7
  dsimp only
  split
  · exact (State.port_sendSync_st ..).trans State.foldl_passLane_port_st
  · rfl

/-- The end of phase 6 leaves a lane whose PARAM is not good: while it trains no lane of its port passes, and where it does
not train it is not among those that do. -/
theorem State.lane_toPhase7_of_not_paramOk {s : State} {p j : Nat} (hparam : (s.lane j).paramOk ≠ some true) :
    (s.toPhase7 p).lane j = s.lane j := by
  unfold State.toPhase7
  dsimp only
  split
  · next hall =>
    refine State.foldl_passLane_lane fun i hi hij => hparam ?_
    have hgood := List.all_eq_true.mp hall i hi
    simp only [Bool.and_eq_true, beq_iff_eq] at hgood
    exact hij ▸ hgood.2
  · rfl

/-- In phase 6 TRAINING_PHASE_DONE passes the port where it may, or changes nothing. -/
theorem execTrainingPhaseDone_of_phase6 {s : State} {l : BitVec 9} {o : PhaseObs} (hl : l.toNat < 256)
    (hphase : (s.lane l.toNat).phase = 6) :
    execTrainingPhaseDone l o s = .next s ∨ execTrainingPhaseDone l o s = .next (s.toPhase7 (l.toNat / 4)) := by
  unfold execTrainingPhaseDone due
  simp only [Nat.not_le.mpr hl, hphase, Nat.lt_irrefl, if_false, if_true]
  split
  · exact .inr rfl
  · exact .inl rfl

/-- A lane in phase 6 whose PARAM is not good goes no further by TRAINING_PHASE_DONE, and no port changes its state. -/
theorem execTrainingPhaseDone_of_not_paramOk {s : State} {l : BitVec 9} (o : PhaseObs) (hl : l.toNat < 256)
    (hphase : (s.lane l.toNat).phase = 6) (hparam : (s.lane l.toNat).paramOk ≠ some true) :
    ∃ u : State, execTrainingPhaseDone l o s = .next u ∧ u.lane l.toNat = s.lane l.toNat ∧
      ∀ p, (u.port p).st = (s.port p).st := by
  rcases execTrainingPhaseDone_of_phase6 (o := o) hl hphase with hsame | hpass
  · exact ⟨s, hsame, rfl, fun _ => rfl⟩
  · exact ⟨_, hpass, State.lane_toPhase7_of_not_paramOk hparam, fun p => State.port_toPhase7_st _ _ p⟩

/-- Settles O56: in cell mode `mayTrain` denies the port (`State.mayTrain_eq_false_of_cell`); in hall mode the refused PARAM
holds its lane in phase 6 (`execTrainingPhaseDone_of_not_paramOk`). -/
theorem directAndSeamPortsNeedHallMode : Obligations.DirectAndSeamPortsNeedHallMode := by
  refine ⟨fun s l o hl hseam hcell => ?_, fun s m r hfits hr hfenced hseam hcell => ?_,
    fun s l ws w o hon hw hmode hl _ hhall hphase => ?_⟩
  · exact execTrainingPhaseDone_of_not_mayTrain hl (State.mayTrain_eq_false_of_cell hseam hcell)
  · subst hr
    refine ⟨_, (State.command_fits hfits (by decide)).trans
      (congrArg _ (State.runPortEnable_of_cell (s := s.taken m) hfenced hseam hcell)), ?_⟩
    rw [State.port_setPort_self]
  · obtain ⟨t, ht, hports, hlanes⟩ := execParam_of_other_mode hw hon hl hphase (by simp [hmode, hhall])
    have hlane : t.lane l.toNat = { s.lane l.toNat with paramOk := some false } :=
      (congrArg (tget · l.toNat Lane.init) hlanes).trans (State.lane_setLane_self ..)
    have hport (p : Nat) : t.port p = s.port p := congrArg (tget · p Port.init) hports
    obtain ⟨u, hu, hulane, huport⟩ := execTrainingPhaseDone_of_not_paramOk (s := t) o hl (by simp [hlane, hphase])
      (by simp [hlane])
    refine ⟨t, u, ht, hlane, by rw [hport], hu, ?_, ?_⟩
    · rw [hulane, hlane]
      exact hphase
    · rw [huport, hport]

end Sys2Proof.Machine

/-! Exact sums (03 R66): an integer of a contribution is at most 448 in magnitude, and an accumulator at most 448 for each
contribution that has met in it, so that the contributions of a hall leave it within 32 bits. -/

namespace Sys2Proof.Machine

/-! ### Integers of a code -/

/-- No code stands for a larger integer than the one with all fraction and all exponent bits set (03 Table 3.8). -/
theorem mxMag_le (c code : Nat) : mxMag c code ≤ (2 * 2 ^ mxM c - 1) * 2 ^ (2 ^ (mxW c - 1 - mxM c) - 2) := by
  have hfrac : code % 2 ^ mxM c < 2 ^ mxM c := Nat.mod_lt _ (Nat.two_pow_pos _)
  have hexp : code / 2 ^ mxM c % 2 ^ (mxW c - 1 - mxM c) < 2 ^ (mxW c - 1 - mxM c) := Nat.mod_lt _ (Nat.two_pow_pos _)
  unfold mxMag
  dsimp only
  split
  · exact le_trans (by omega) (Nat.le_mul_of_pos_right _ (Nat.two_pow_pos _))
  · exact Nat.mul_le_mul (by omega) (Nat.pow_le_pow_right (by decide) (by omega))

/-- The integers of MX codes are at most 448 in magnitude: that of E3M2, the widest of the three types (03 R65). -/
theorem mxMag_le_448 {c : Nat} (code : Nat) (hmx : isMx c = true) : mxMag c code ≤ 448 := by
  refine (mxMag_le c code).trans ?_
  simp only [isMx, Bool.or_eq_true, beq_iff_eq] at hmx
  obtain (rfl | rfl) | rfl := hmx <;> decide

@[simp] theorem natAbs_sInt (neg : Bool) (m : Nat) : (sInt neg m).natAbs = m := by
  cases neg <;> simp [sInt]

/-! ### Units within a bound -/

/-- Every integer of a list is at most `n` in magnitude. -/
def UnitsWithin (n : Nat) (us : List Int) : Prop := ∀ v ∈ us, v.natAbs ≤ n

theorem UnitsWithin.nil (n : Nat) : UnitsWithin n [] := List.forall_mem_nil _

theorem UnitsWithin.mono {m n : Nat} {us : List Int} (h : UnitsWithin m us) (hmn : m ≤ n) : UnitsWithin n us :=
  fun v hv => (h v hv).trans hmn

theorem UnitsWithin.zeros (n k : Nat) : UnitsWithin n (List.replicate k 0) := fun v hv => by
  simp [List.eq_of_mem_replicate hv]

theorem UnitsWithin.padTo {n : Nat} {us : List Int} (k : Nat) (h : UnitsWithin n us) : UnitsWithin n (padTo k 0 us) :=
  List.forall_mem_append.mpr ⟨h, UnitsWithin.zeros n _⟩

/-- Where units are added, their bounds add. -/
theorem UnitsWithin.addUnits {m n : Nat} {us vs : List Int} (hu : UnitsWithin m us) (hv : UnitsWithin n vs) :
    UnitsWithin (m + n) (addUnits us vs) := by
  intro w hw
  obtain ⟨⟨u, v⟩, huv, rfl⟩ : ∃ p ∈ us.zip vs, p.1 + p.2 = w := by
    simpa [Machine.addUnits, ← List.map_uncurry_zip_eq_zipWith] using hw
  obtain ⟨hmu, hmv⟩ := List.of_mem_zip huv
  exact (Int.natAbs_add_le u v).trans (Nat.add_le_add (hu u hmu) (hv v hmv))

/-! ### Contributions -/

theorem contribBlock_within {c : Nat} (b : Block) (hmx : isMx c = true) : UnitsWithin 448 (contribBlock c b).2 := by
  refine List.forall_mem_map.mpr fun code _ => ?_
  rw [mxInt, natAbs_sInt]
  exact mxMag_le_448 code hmx

theorem maskFill_within {n k : Nat} {bs : List IBlock} (h : ∀ b ∈ bs, UnitsWithin n b.2) :
    ∀ b ∈ maskFill k bs, UnitsWithin n b.2 := by
  intro b hb
  obtain ⟨i, hi, rfl⟩ := List.mem_mapIdx.mp hb
  intro v hv
  obtain ⟨j, hj, rfl⟩ := List.mem_mapIdx.mp hv
  split
  · exact h _ (List.getElem_mem hi) _ (List.getElem_mem hj)
  · exact Nat.zero_le n

/-- A contribution is never shifted: its scale is A or 0xFF, or it fails its check and counts as it stands (03 R68). -/
theorem unitsOf_contrib_within {a n : Nat} {b : IBlock} (h : UnitsWithin n b.2) :
    UnitsWithin n (unitsOf a (contribBad a b) b) := by
  unfold unitsOf
  split
  · exact h
  · next hgood =>
    split
    · exact List.forall_mem_map.mpr fun _ _ => Nat.zero_le n
    · next hnotNan =>
      have hscale : b.1 = a := by simpa [contribBad, hnotNan] using hgood
      simpa [hscale] using h

/-- The units of a contribution of MX data, element by element. -/
theorem contribIn_blocks_within {d : List Byte} (r g id : Nat) (f : Frame) (hexact : isExact d = true) :
    ∀ b ∈ (contribIn d r g id f).blocks, UnitsWithin 448 b.2 := by
  unfold contribIn
  simp only [hexact, if_true]
  exact List.forall_mem_map.mpr fun b hb => unitsOf_contrib_within
    (maskFill_within (List.forall_mem_map.mpr fun _ _ => contribBlock_within _ hexact) b hb)

/-! ### Sums -/

/-- One input of a segment added to block `b` of the accumulators, as `exactSum` adds it. -/
def addBlock (a b : Nat) (acc : IBlock) (i : SegIn) : IBlock :=
  let x := i.blocks.getD b (a, [])
  (max acc.1 x.1, addUnits acc.2 (padTo 32 0 x.2))

theorem exactSum_eq (a blocks : Nat) (ins : List SegIn) :
    exactSum a blocks ins = (List.range blocks).map fun b => ins.foldl (addBlock a b) (a, List.replicate 32 0) := rfl

/-- A block of an input, or the empty block where it has none. -/
theorem getD_block_within {n b : Nat} {bs : List IBlock} (a : Nat) (h : ∀ x ∈ bs, UnitsWithin n x.2) :
    UnitsWithin n (bs.getD b (a, [])).2 := by
  rw [List.getD_eq_getElem?_getD]
  cases hb : bs[b]? with
  | none => exact .nil n
  | some x => exact h x (List.mem_of_getElem? hb)

/-- Each input moves an accumulator by no more than the bound on its own units. -/
theorem foldl_addBlock_within {a b k n : Nat} {ins : List SegIn} {acc : IBlock} (hacc : UnitsWithin n acc.2)
    (hins : ∀ i ∈ ins, ∀ x ∈ i.blocks, UnitsWithin k x.2) :
    UnitsWithin (n + ins.length * k) (ins.foldl (addBlock a b) acc).2 := by
  induction ins generalizing acc n with
  | nil => simpa using hacc
  | cons i ins ih =>
    obtain ⟨hi, hrest⟩ := List.forall_mem_cons.mp hins
    have hstep : UnitsWithin (n + k) (addBlock a b acc i).2 := hacc.addUnits ((getD_block_within a hi).padTo 32)
    exact (ih hstep hrest).mono (by rw [List.length_cons, Nat.succ_mul]; omega)

theorem exactSum_within {a blocks k : Nat} {ins : List SegIn} (hins : ∀ i ∈ ins, ∀ x ∈ i.blocks, UnitsWithin k x.2) :
    ∀ b ∈ exactSum a blocks ins, UnitsWithin (ins.length * k) b.2 := by
  rw [exactSum_eq]
  refine List.forall_mem_map.mpr fun b _ => ?_
  have hsum := foldl_addBlock_within (a := a) (b := b) (acc := (a, List.replicate 32 0)) (.zeros 0 32) hins
  rwa [Nat.zero_add] at hsum

/-- Settles O60: the accumulators are within 448 for each contribution (`exactSum_within`), and 16,384 × 448 is within the
range of 32-bit two's complement. -/
theorem exactSumsNeverOverflow : Obligations.ExactSumsNeverOverflow := by
  intro d g n fs hexact hhall b hb v hv
  have hcontribs : ∀ i ∈ fs.map (fun x => contribIn d x.1 g x.2.1 x.2.2), ∀ x ∈ i.blocks, UnitsWithin 448 x.2 :=
    List.forall_mem_map.mpr fun x _ => contribIn_blocks_within x.1 g x.2.1 x.2.2 hexact
  have hsum := exactSum_within hcontribs b hb v hv
  rw [List.length_map] at hsum
  have hbound : v.natAbs ≤ 7340032 := by omega
  exact ⟨hbound, BitVec.toInt_ofInt_eq_self (by decide) (by omega) (by omega)⟩

end Sys2Proof.Machine

/-! Reads that change something (00 R8, 04 R75, 07 R200, 13 R369): what a read of one register answers, and what it leaves. -/

namespace Sys2Proof.Machine

/-! ### A read of one register -/

/-- A read of one register that stands answers its value; what else it changes is `afterRead`. -/
theorem State.busRead_plain {s : State} {w : Who} {a v : Nat} (hears : s.hears w) (hplain : s.plainAddr a)
    (hval : s.regVal w a = some v) :
    s.busRead w a = { s.afterRead a with bus := ⟨[BitVec.ofNat 32 v], false⟩ } := by
  obtain ⟨-, hclass, hfirmware, hparity⟩ := hears
  obtain ⟨haligned, hspace, halias, hwindow, hcanon⟩ := hplain
  have honly : s.smbusOnly a = true := by simp only [State.smbusOnly, hclass, hfirmware, Bool.false_eq_true, if_false]
  have hcheck : s.parityCheck a = s := by simp [State.parityCheck, hparity]
  have hread : s.regRead w a = some (v, s.afterRead a) := by
    unfold State.regRead State.readWord
    simp only [haligned, Nat.not_le.mpr hspace, halias, hwindow, hcanon, hval, hcheck, ne_eq, not_true_eq_false, decide_false,
      Bool.or_self, Bool.false_eq_true, if_false]
  simp [State.busRead, State.access, honly, hread]

theorem State.readCmd_plain {s : State} {w : Who} {a v : Nat} (hears : s.hears w) (hplain : s.plainAddr a)
    (hval : s.regVal w a = some v) :
    s.readCmd w a = .next { s.afterRead a with bus := ⟨[BitVec.ofNat 32 v], false⟩ } := by
  rw [State.readCmd, due, if_pos hears.1, State.busRead_plain hears hplain hval]

/-- A register of the blocks that is not part of a 64-bit value. -/
theorem State.regVal_of_blockReg {s : State} {w : Who} {a v : Nat} (hlow : s.wideVal a = none)
    (hhigh : s.wideVal (a - 4) = none) (hblock : s.blockReg w a = some v) : s.regVal w a = some (v % 2 ^ 32) := by
  unfold State.regVal
  rw [hlow, hhigh, ite_self, hblock]

theorem State.regVal_of_wideVal {s : State} {w : Who} {a v : Nat} (hwide : s.wideVal a = some v) :
    s.regVal w a = some (v % 2 ^ 32) := by
  unfold State.regVal
  rw [hwide]

theorem ofNat_mod_two_pow (w n : Nat) : BitVec.ofNat w (n % 2 ^ w) = BitVec.ofNat w n :=
  BitVec.eq_of_toNat_eq (by simp)

/-! ### IRC_NOW_LO and SCH_TBL_DATA -/

theorem State.plainAddr_aIrc (s : State) : s.plainAddr aIrc :=
  ⟨by decide, by decide, by decide, by simp [State.window, aIrc], by decide⟩

theorem State.plainAddr_schTblData (s : State) : s.plainAddr (aSch + 8) :=
  ⟨by decide, by decide, by decide, by simp [State.window, aSch], by decide⟩

theorem State.regVal_aIrc (s : State) (w : Who) : s.regVal w aIrc = some (s.irc.count % 2 ^ 32 % 2 ^ 32) := by
  refine State.regVal_of_blockReg ?_ ?_ ?_
  · simp [State.wideVal, isRc64, wordsAt, aIrc, aFlt, aSld, aSch, aPwt]
  · simp [State.wideVal, isRc64, wordsAt, aIrc, aFlt, aSld, aSch, aPwt]
  · simp [State.blockReg, State.ircReg, aIrc]

/-- SCH_TBL_DATA reads the entry that SCH_TBL_SEL selects. -/
theorem State.regVal_schTblData (s : State) (w : Who) : ∃ v, s.regVal w (aSch + 8) = some v := by
  refine ⟨_, State.regVal_of_blockReg (v := ((s.slotTbl (bits (s.cfgAt (aSch + 4)).toNat 18 13)
    (bits (s.cfgAt (aSch + 4)).toNat 19 19)).entries.getD (bits (s.cfgAt (aSch + 4)).toNat 12 0) 0).toNat) ?_ ?_ ?_⟩
  · simp [State.wideVal, isRc64, wordsAt, aFlt, aSld, aSch, aPwt]
  · simp [State.wideVal, isRc64, wordsAt, aFlt, aSld, aSch, aPwt]
  · simp [State.blockReg, State.schReg, aSch]

theorem State.afterRead_aIrc (s : State) : s.afterRead aIrc = { s with irc := { s.irc with
    latchHi := BitVec.ofNat 32 (s.now / 2 ^ 32), latchFrac := BitVec.ofNat 32 (s.irc.frac % 65536) } } := by
  rw [State.afterRead, if_pos rfl, State.now]

theorem State.afterRead_schTblData (s : State) : s.afterRead (aSch + 8) = s.setCfg (aSch + 4) (BitVec.ofNat 32
    ((s.cfgAt (aSch + 4)).toNat / 8192 * 8192 + ((s.cfgAt (aSch + 4)).toNat % 8192 + 1) % 8192)) := by
  rw [State.afterRead, if_neg (by decide), if_pos rfl]

/-- SCH_TBL_SEL with its INDEX moved on is still a word. -/
theorem index_moved_lt {i : Nat} (hi : i < 2 ^ 32) : i / 8192 * 8192 + (i % 8192 + 1) % 8192 < 2 ^ 32 := by omega

/-! ### Read-clear counters -/

/-- A counter just cleared counts nothing, and every other counts on. -/
theorem tget_tdel {α : Type} {t : Tbl α} {k x : Nat} {d : α} : tget (tdel t k) x d = if k = x then d else tget t x d := by
  unfold tget
  rw [tfind_tdel]
  split <;> rfl

/-- A counter that commands report reads as it has counted (00 R8). -/
theorem State.rcVal_of_counted {s : State} {a : Nat} (hcnt : s.cntAt a < 2 ^ 32) (hseen : isUnseen a = false) :
    s.rcVal a = s.cntAt a := by
  simp only [State.rcVal, State.justRead, hseen, Bool.false_and, Bool.false_eq_true, if_false, hcnt, decide_true,
    Bool.not_false, Bool.and_self, if_true]

/-- What is read twice at the same time is clear the second time. -/
theorem State.rcVal_of_cleared {s : State} {a : Nat} (hcnt : s.cntAt a = 0)
    (hcleared : isUnseen a = true → tfind s.cleared a = some s.clk) : s.rcVal a = 0 := by
  cases hseen : isUnseen a with
  | false => rw [State.rcVal_of_counted (by omega) hseen, hcnt]
  | true => simp [State.rcVal, State.justRead, hseen, hcleared]

theorem State.wideVal_of_cleared {s : State} {a : Nat} (hrc : isRc64 a = true) (hcnt : s.cntAt a = 0)
    (hcleared : isUnseen a = true → tfind s.cleared a = some s.clk) : s.wideVal a = some 0 := by
  cases hseen : isUnseen a with
  | false => simp [State.wideVal, State.justRead, hrc, hseen, hcnt]
  | true => simp [State.wideVal, State.justRead, hrc, hseen, hcleared]

/-- A read-clear register read: its counter is clear, and the time is noted where what it counted is a free value. -/
theorem State.afterRead_rc {s : State} {a : Nat} (hnow : a ≠ aIrc) (htbl : a ≠ aSch + 8) (hwide : s.wideVal a = none)
    (hrc : isRc a = true) : ∃ (lanes : Tbl Lane) (free : Nat) (cleared : Tbl Nat),
      s.afterRead a = { s with cnt := tdel s.cnt a, lanes := lanes, freeCtr := free, cleared := cleared } ∧
      (isUnseen a = true → cleared = tset s.cleared a s.clk) ∧
      (s.cntAt a < 2 ^ 32 → isUnseen a = false → free = s.freeCtr) := by
  simp only [State.afterRead, if_neg hnow, if_neg htbl, hwide, hrc, if_true, State.free]
  cases hseen : isUnseen a with
  | true =>
    simp only [if_true]
    split <;> exact ⟨_, _, _, rfl, fun _ => rfl, by simp⟩
  | false =>
    simp only [Bool.false_eq_true, if_false]
    by_cases hcnt : s.cntAt a < 2 ^ 32
    · simp only [if_pos hcnt]
      split <;> exact ⟨_, _, _, rfl, by simp, fun _ _ => rfl⟩
    · simp only [if_neg hcnt]
      split <;> exact ⟨_, _, _, rfl, by simp, fun hlt => absurd hlt hcnt⟩

/-- The low word of a 64-bit value read: its high word is latched, and a read-clear counter is clear. -/
theorem State.afterRead_wide {s : State} {a v : Nat} (hnow : a ≠ aIrc) (htbl : a ≠ aSch + 8)
    (hwide : s.wideVal a = some v) : ∃ (free : Nat) (cleared : Tbl Nat),
      s.afterRead a = { s with
        cnt := if isRc64 a then tdel s.cnt a else s.cnt, latch := tset s.latch (a + 4) (BitVec.ofNat 32 (v / 2 ^ 32)),
        freeCtr := free, cleared := cleared } ∧
      (isUnseen a = true → cleared = tset s.cleared a s.clk) ∧ (isUnseen a = false → free = s.freeCtr) := by
  simp only [State.afterRead, if_neg hnow, if_neg htbl, hwide, State.free]
  cases hseen : isUnseen a with
  | true =>
    simp only [if_true]
    split <;> exact ⟨_, _, rfl, fun _ => rfl, by simp⟩
  | false =>
    simp only [Bool.false_eq_true, if_false]
    split <;> exact ⟨_, _, rfl, by simp, fun _ => rfl⟩

/-- Settles O17: each read answers the value of its register (`State.readCmd_plain`), and changes what `afterRead` says. -/
theorem latchingAndClearingReads : Obligations.LatchingAndClearingReads := by
  refine ⟨fun s w hears => ?_, fun s w i hears hi => ?_, fun s w a hears hplain _ hwide hval hrc hnow htbl => ?_,
    fun s w a v hears hplain hwide hnow htbl => ?_⟩
  · refine (State.readCmd_plain hears s.plainAddr_aIrc (s.regVal_aIrc w)).trans ?_
    rw [Nat.mod_mod, ofNat_mod_two_pow, State.afterRead_aIrc, State.now]
  · obtain ⟨v, hv⟩ := s.regVal_schTblData w
    refine ⟨_, State.readCmd_plain hears s.plainAddr_schTblData hv, rfl, rfl, ?_, ?_⟩
    · rw [State.afterRead_schTblData, ← hi]
      refine (congrArg BitVec.toNat ((State.cfgAt_setCfg ..).trans (if_pos rfl))).trans ?_
      rw [BitVec.toNat_ofNat, Nat.mod_eq_of_lt (index_moved_lt (hi ▸ BitVec.isLt _))]
    · rw [State.afterRead_schTblData, State.setCfg]
  · obtain ⟨lanes, free, cleared, hafter, hcleared, hfree⟩ := State.afterRead_rc hnow htbl hwide hrc
    refine ⟨_, State.readCmd_plain hears hplain hval, rfl, fun hlt hseen => ⟨?_, ?_⟩, ?_, ?_, fun b hb => ?_, ?_⟩
    · rw [State.rcVal_of_counted hlt hseen]
    · rw [hafter]
      exact hfree hlt hseen
    · rw [hafter]
      exact tget_tdel.trans (if_pos rfl)
    · rw [hafter]
      refine State.rcVal_of_cleared (tget_tdel.trans (if_pos rfl)) fun hseen => ?_
      rw [hcleared hseen, tfind_tset, if_pos rfl]
    · rw [hafter]
      exact tget_tdel.trans (if_neg hb.symm)
    · rw [hafter]
  · obtain ⟨free, cleared, hafter, hcleared, hfree⟩ := State.afterRead_wide hnow htbl hwide
    refine ⟨_, State.readCmd_plain hears hplain (State.regVal_of_wideVal hwide), rfl, ?_, fun hrc => ⟨?_, ?_⟩,
      fun b hb => ?_, fun hseen => ?_, ?_⟩
    · rw [hafter]
      exact tfind_tset.trans (if_pos rfl)
    · rw [hafter, if_pos hrc]
      exact tget_tdel.trans (if_pos rfl)
    · rw [hafter, if_pos hrc]
      refine State.wideVal_of_cleared hrc (tget_tdel.trans (if_pos rfl)) fun hseen => ?_
      rw [hcleared hseen, tfind_tset, if_pos rfl]
    · rw [hafter]
      cases isRc64 a.toNat with
      | true => exact tget_tdel.trans (if_neg hb.symm)
      | false => rfl
    · rw [hafter]
      exact hfree hseen
    · rw [hafter]

end Sys2Proof.Machine

/-! Time FAULT while a return is coming in (04 Table 4.6, 08 R220): the port that goes takes the frame with it, and the home of
the return asks for it again. -/

namespace Sys2Proof.Machine

/-- A RETURN frame for this Fixus, of the collective with COLLECTIVE_ID 0 in context 0. -/
def returnFrame : Frame :=
  { vc := 14, payload := [],
    hdr := { dest := 0x4000, src := 0, ftype := 4, ctx := 0, gen := 0, flowSeq := 0, frameLen := 480, esc := false,
             sched := false, newflow := false, single := false, spray := false, hops := 32, mcast := 0, path := 0,
             collId := 0, offset := 0, ts := 0, rsv := 0 } }

/-- That frame queued under id 1, and its reception on port 0 after its first flit. -/
def returnEnt : QEnt :=
  { inp := 0, outs := [79], mc := false, frame := returnFrame, id := 1, cells := 1, passed := [], since := 0, noRoute := none,
    sent := false, noCredit := none, atUnit := none }

def returnAsm : Asm :=
  { vc := 14, id := 1, got := 1, eof := false, bad := false, dropped := false, taken := true, flen := 480, eofLen := 0,
    token := none }

/-- A STEP collective whose root is another Fixus: of its return nothing has come home. -/
def returningColl : Coll :=
  { desc := [1], cmd := ⟨0, 0, 0, 0, 0x201⟩, launch := 0, unscheduled := false, launched := true, heldAt := none, ring := false,
    nodes := [], root := none, decided := none, record := none, ret := none, home := none, kern := none, frozenVer := 0,
    stopAt := none, wImage := [] }

/-- A Fixus 10 ms in HOLDOVER that homes a member of that collective and is receiving the frame on port 0. -/
def holdoverReturning : State :=
  { State.reset with
    clk := 10000000
    irc := { Irc.init with state := .holdover }
    groups := [(0, { Group.init with members := [0] })]
    slots := [(0, returningColl)]
    ports := [(0, { Port.init with st := .active })]
    aux := [(0, { PortAux.init with asm := [returnAsm] })]
    sol := { Solder.init with queues := [returnEnt] } }

/-- The port that goes at time FAULT takes the frame with it, and the collective in slot 0 has what its home keeps. -/
theorem timeFault_holdoverReturning_home :
    ((holdoverReturning.timeFault 0).coll 0).any (fun c => c.home.isSome) = true := by
  decide +kernel

/-- Refutes O33: HOLDOVER_EXPIRY also changes the collective slots, which the last clause says it leaves. On
`holdoverReturning` the port that leaves service loses a frame of a return, and the home notes it (`State.askAgain`). -/
theorem not_masterAndLockStates : ¬ Obligations.MasterAndLockStates := by
  intro ⟨_, _, _, _, _, _, _, _, _, _, hexpiry⟩
  obtain ⟨t, ht, _, _, _, _, _, hframe⟩ := hexpiry holdoverReturning (by decide) (by decide) (by decide)
  have hfault : t = holdoverReturning.timeFault 0 := (Host.Outcome.next.inj ht).symm
  have hslots : t.slots = holdoverReturning.slots := by rw [hframe]
  have hhome : (t.coll 0).any (fun c => c.home.isSome) = true := hfault ▸ timeFault_holdoverReturning_home
  rw [State.coll, hslots] at hhome
  exact absurd hhome (by decide)

end Sys2Proof.Machine

/-! What VC1 messages that are queued leave, and tables changed entry by entry. -/

namespace Sys2Proof.Machine

/-- What every step of a fold leaves, the fold leaves. -/
theorem foldl_apply_eq {α σ β : Type} {f : σ → α → σ} (g : σ → β) {l : List α} {s : σ} (h : ∀ t x, g (f t x) = g t) :
    g (l.foldl f s) = g s := by
  induction l generalizing s with
  | nil => rfl
  | cons x l ih => exact ih.trans (h s x)

/-! ### Messages queued on ports (04 R94, R103) -/

theorem State.port_sendCtl (s : State) (p q : Nat) (m : CtlMsg) : (s.sendCtl p m).port q =
    if p = q then { s.port p with ctlQ := (s.port p).ctlQ ++ [m] } else s.port q := State.port_setPort ..

theorem State.port_sendCtl_self (s : State) (p : Nat) (m : CtlMsg) :
    (s.sendCtl p m).port p = { s.port p with ctlQ := (s.port p).ctlQ ++ [m] } := State.port_setPort_self ..

/-- A message that waits on a port still waits when another is queued. -/
theorem State.mem_ctlQ_sendCtl {s : State} {p q : Nat} {m n : CtlMsg} (h : n ∈ (s.port q).ctlQ) :
    n ∈ ((s.sendCtl p m).port q).ctlQ := by
  rw [State.port_sendCtl]
  split
  · next hpq => exact List.mem_append_left _ (hpq ▸ h)
  · exact h

theorem State.mem_ctlQ_sendCtl_self {s : State} {p : Nat} {m : CtlMsg} : m ∈ ((s.sendCtl p m).port p).ctlQ := by
  rw [State.port_sendCtl_self]
  exact List.mem_append_right _ List.mem_cons_self

/-- A message that waits on a port still waits after others are queued. -/
theorem State.mem_ctlQ_foldl_sendCtl {s : State} {q : Nat} {m n : CtlMsg} {l : List Nat} (h : n ∈ (s.port q).ctlQ) :
    n ∈ ((l.foldl (fun s p => s.sendCtl p m) s).port q).ctlQ := by
  induction l generalizing s with
  | nil => exact h
  | cons p l ih => exact ih (State.mem_ctlQ_sendCtl h)

/-- A message that floods waits on every port that it floods to. -/
theorem State.mem_ctlQ_flood {s : State} {o : Option Nat} {q : Nat} {m : CtlMsg} (hq : q ∈ s.floodPorts o) :
    m ∈ ((s.flood o m).port q).ctlQ := by
  unfold State.flood
  generalize s.floodPorts o = l at hq
  induction l generalizing s with
  | nil => cases hq
  | cons p l ih =>
    rcases List.mem_cons.mp hq with rfl | hl
    · exact State.mem_ctlQ_foldl_sendCtl (s := s.sendCtl q m) State.mem_ctlQ_sendCtl_self
    · exact ih hl

@[simp] theorem State.flood_sch (s : State) (o : Option Nat) (m : CtlMsg) : (s.flood o m).sch = s.sch := by
  rw [State.flood_only]

/-- A message that is queued takes no port out of service. -/
theorem State.live_sendCtl (s : State) (p q : Nat) (m : CtlMsg) : (s.sendCtl p m).live q = s.live q := by
  unfold State.live
  rw [State.port_sendCtl]
  split
  · next h => rw [h]
  · rfl

theorem State.kth_sendCtl (s : State) (p : Nat) (m : CtlMsg) (ps : List Nat) (x : Nat) :
    (s.sendCtl p m).kth ps x = s.kth ps x := by
  simp only [State.kth, State.livePorts, State.live_sendCtl]

/-! ### Tables -/

theorem tfind_tmap {α : Type} (t : Tbl α) (f : Nat → α → α) (k : Nat) : tfind (tmap t f) k = (tfind t k).map (f k) := by
  induction t with
  | nil => rfl
  | cons e t ih =>
    obtain ⟨j, v⟩ := e
    rw [tmap, List.map_cons, tfind, tfind]
    split
    · next h => rw [h, Option.map_some]
    · exact ih

/-- An entry that is not the default is listed. -/
theorem tfind_of_tget_ne {α : Type} {t : Tbl α} {k : Nat} {d : α} (h : tget t k d ≠ d) :
    tfind t k = some (tget t k d) := by
  unfold tget at h ⊢
  cases hfind : tfind t k with
  | none => simp [hfind] at h
  | some v => rfl

/-- An entry that is not the default changes with all that are listed. -/
theorem tget_tmap_of_ne {α : Type} {t : Tbl α} {k : Nat} {d : α} (f : Nat → α → α) (h : tget t k d ≠ d) :
    tget (tmap t f) k d = f k (tget t k d) := by
  rw [tget, tfind_tmap, tfind_of_tget_ne h, Option.map_some, Option.getD_some]

/-- Where no key stands twice, a key finds what is listed under it. -/
theorem tfind_of_mem {α : Type} {t : Tbl α} {k : Nat} {v : α} (hnodup : (t.map Prod.fst).Nodup) (h : (k, v) ∈ t) :
    tfind t k = some v := by
  induction t with
  | nil => cases h
  | cons e t ih =>
    obtain ⟨j, w⟩ := e
    obtain ⟨hj, ht⟩ := List.nodup_cons.mp hnodup
    rcases List.mem_cons.mp h with heq | hmem
    · cases heq
      exact if_pos rfl
    · have hne : j ≠ k := fun hjk => hj (List.mem_map.mpr ⟨(k, v), hmem, hjk.symm⟩)
      exact (if_neg hne).trans (ih ht hmem)

end Sys2Proof.Machine

/-! Epoch switches (04 R101 to R105, 07 R188, 14 R407): the message that cancels one, its decision, and the tables that start. -/

namespace Sys2Proof.Machine

/-! ### EPOCH_CANCEL (04 R102, R104) -/

/-- An EPOCH_CANCEL that comes up to the decision count, not seen yet: the arms that it names are cancelled, and it floods on. -/
theorem execEpochCancel_of_new {s : State} {p : BitVec 6} {m : EpochMsg} (hon : s.on = true)
    (htime : s.now + 10000 ≤ m.s.toNat) (hnew : (m.ctx.toNat, m.epoch.toNat, m.s.toNat) ∉ s.sch.cancels) :
    execEpochCancel p m s = .next (State.flood { s with sch := { s.sch with
      cancels := s.sch.cancels ++ [(m.ctx.toNat, m.epoch.toNat, m.s.toNat)]
      arms := s.sch.arms.map (fun a => if sameArm m a && !a.decided then { a with cancelled := true } else a) } }
      (some p.toNat) (.epochCancel m)) := by
  simp [execEpochCancel, due, hon, Nat.not_lt.mpr htime, hnew]

/-- One that comes later is class D for each context that is open. -/
theorem execEpochCancel_of_late {s : State} {p : BitVec 6} {m : EpochMsg} (hon : s.on = true)
    (hlate : m.s.toNat < s.now + 10000) :
    execEpochCancel p m s = .next (s.ctxs.foldl (fun s e =>
      if e.2.st == .free then s else s.record 1 1 e.1 0x0203 m.epoch.toNat) s) := by
  simp only [execEpochCancel, due, hon, hlate, decide_true, if_true]

/-! ### The decision (04 R102, R103, R105) -/

/-- EPOCH_DECISION with one arm whose decision is due. -/
theorem execEpochDecision_of_one {s : State} {a : Arm} (hbrass : s.brass = true) (harms : s.sch.arms = [a])
    (hundecided : a.decided = false) (hdue : a.s ≤ s.now + 10000) : execEpochDecision s = .next (s.decideArm a) := by
  simp [execEpochDecision, due, hbrass, harms, hundecided, hdue]

/-- A barrier that was high decides the switch. -/
theorem State.decideArm_of_high {s : State} {a : Arm} (harms : s.sch.arms = [a]) (hsampled : a.sampled = true)
    (hopen : a.cancelled = false) (hreleased : a.released = true) :
    s.decideArm a = State.sendGo { s with sch := { s.sch with arms := [{ a with decided := true }] } } a := by
  simp [State.decideArm, harms, hsampled, hopen, hreleased]

/-- A switch that is cancelled, with no collective here to end and no command to complete: its tables are READY again. -/
theorem State.decideArm_of_cancelled {s : State} {a : Arm} (harms : s.sch.arms = [a]) (hcancelled : a.cancelled = true)
    (hslots : s.slots = []) (hqueue : s.queue = []) (hcmd : a.cmd = none) :
    s.decideArm a = { s with sch := { s.sch with arms := [], tbls := tmap s.sch.tbls fun _ t =>
      if t.st == .armed && t.epoch == a.epoch then { t with st := .ready } else t } } := by
  simp [State.decideArm, State.cancelEpoch, State.endArm, State.mapTbls, harms, hcancelled, hslots, hqueue, hcmd]

/-- The EPOCH_GO of an arm. -/
def State.goMsg (s : State) (a : Arm) : EpochMsg :=
  { ctx := BitVec.ofNat 8 a.ctx, source := BitVec.ofNat 15 s.addr, s := BitVec.ofNat 64 a.s,
    epoch := BitVec.ofNat 16 a.epoch, len := 0 }

/-- EPOCH_GO to one accelerator. -/
def State.goTo (a : Arm) (s : State) (q : Nat) : State :=
  match s.kth (accPorts q) 0 with
  | some p => s.sendCtl p (.epochGo (s.goMsg a))
  | none => s

theorem State.sendGo_eq (s : State) (a : Arm) : s.sendGo a = (List.range 16).foldl (State.goTo a) s := rfl

theorem State.goTo_only (a : Arm) (s : State) (q : Nat) : s.goTo a q = { s with ports := (s.goTo a q).ports } := by
  unfold State.goTo
  split <;> rfl

theorem State.kth_goTo (a : Arm) (s : State) (q : Nat) (ps : List Nat) (x : Nat) :
    (s.goTo a q).kth ps x = s.kth ps x := by
  unfold State.goTo
  split
  · exact State.kth_sendCtl ..
  · rfl

theorem State.mem_ctlQ_goTo {a : Arm} {s : State} {q p : Nat} {n : CtlMsg} (h : n ∈ (s.port p).ctlQ) :
    n ∈ ((s.goTo a q).port p).ctlQ := by
  unfold State.goTo
  split
  · exact State.mem_ctlQ_sendCtl h
  · exact h

theorem State.mem_ctlQ_foldl_goTo {a : Arm} {s : State} {p : Nat} {n : CtlMsg} {l : List Nat} (h : n ∈ (s.port p).ctlQ) :
    n ∈ ((l.foldl (State.goTo a) s).port p).ctlQ := by
  induction l generalizing s with
  | nil => exact h
  | cons q l ih => exact ih (State.mem_ctlQ_goTo h)

/-- EPOCH_GO to accelerators changes ports alone. -/
theorem State.foldl_goTo_only (a : Arm) (s : State) (l : List Nat) :
    l.foldl (State.goTo a) s = { s with ports := (l.foldl (State.goTo a) s).ports } := by
  induction l generalizing s with
  | nil => rfl
  | cons q l ih =>
    rw [List.foldl_cons, ih]
    generalize l.foldl (State.goTo a) (s.goTo a q) = t
    rw [State.goTo_only]

/-- EPOCH_GO waits on the first live port of each accelerator named. -/
theorem State.epochGo_mem_foldl_goTo {a : Arm} {s : State} {l : List Nat} {q p : Nat} (hq : q ∈ l)
    (hp : s.kth (accPorts q) 0 = some p) :
    .epochGo (s.goMsg a) ∈ ((l.foldl (State.goTo a) s).port p).ctlQ := by
  induction l generalizing s with
  | nil => cases hq
  | cons x l ih =>
    rcases List.mem_cons.mp hq with rfl | hl
    · refine State.mem_ctlQ_foldl_goTo (s := s.goTo a q) ?_
      unfold State.goTo
      rw [hp]
      exact State.mem_ctlQ_sendCtl_self
    · have hmsg : (s.goTo a x).goMsg a = s.goMsg a := by rw [State.goTo_only]; rfl
      exact hmsg ▸ ih hl ((State.kth_goTo ..).trans hp)

/-! ### Tables that start (07 R188, 14 R407) -/

/-- An armed table is one that was loaded, so not the default. -/
theorem SlotTbl.ne_init_of_armed {t : SlotTbl} (h : t.st = .armed) : t ≠ SlotTbl.init := by
  rintro rfl
  cases h

theorem SlotTbl.ne_init_of_ready {t : SlotTbl} (h : t.st = .ready) : t ≠ SlotTbl.init := by
  rintro rfl
  cases h

/-- The tables and slots after the tables of an epoch have started. -/
theorem State.activate_only (s : State) (epoch start : Nat) : s.activate epoch start = { s with sch := { s.sch with
    tbls := (s.activate epoch start).sch.tbls, slot := (s.activate epoch start).sch.slot } } := rfl

/-- An ARMED table of the epoch is ACTIVE, with slot 0 at the count given. -/
theorem State.activate_armed {s : State} {epoch start k : Nat} (harmed : (tget s.sch.tbls k SlotTbl.init).st = .armed)
    (hepoch : (tget s.sch.tbls k SlotTbl.init).epoch = epoch) :
    tget (s.activate epoch start).sch.tbls k SlotTbl.init =
      { tget s.sch.tbls k SlotTbl.init with st := .active, start := start } := by
  unfold State.activate
  dsimp only
  rw [tget_tmap_of_ne _ (SlotTbl.ne_init_of_armed harmed)]
  simp [harmed, hepoch]

/-- EPOCH_SWITCH with one arm that is decided, of no command: its tables start at S, and the epoch is known. -/
theorem execEpochSwitch_of_one {s : State} {a : Arm} (hon : s.on = true) (harms : s.sch.arms = [a])
    (hdecided : a.decided = true) (hdue : a.s ≤ s.now) (hcmd : a.cmd = none) : ∃ len : Nat,
      execEpochSwitch s = .next { s.activate a.epoch a.s with sch := { (s.activate a.epoch a.s).sch with
        arms := []
        epochs := s.sch.epochs.filter (fun x => x.ctx != a.ctx) ++
          [{ ctx := a.ctx, epoch := a.epoch, s := a.s, len := len, joining := false }] } } := by
  refine ⟨((s.sch.tbls.map Prod.snd).find? (fun t => t.st == .armed && t.epoch == a.epoch)).elim 0 (fun t => t.len), ?_⟩
  simp only [execEpochSwitch, due, hon, harms, hdecided, hdue, List.filter_cons, List.filter_nil, decide_true, Bool.and_self,
    if_true, List.foldl_cons, List.foldl_nil, State.switchArm, State.endArm, hcmd]
  rw [State.activate_only]
  simp only [harms, List.filter_cons, List.filter_nil, bne_self_eq_false, Bool.false_eq_true, if_false]

/-- EPOCH_INFO where no epoch is known: the epoch is known, and the READY tables that hold it are ARMED. -/
theorem execEpochInfo_of_unknown {s : State} {p : BitVec 6} {m : EpochMsg} (hon : s.on = true) (hepochs : s.sch.epochs = []) :
    execEpochInfo p m s = .next { s with sch := { s.sch with
      epochs := [{ ctx := m.ctx.toNat, epoch := m.epoch.toNat, s := m.s.toNat, len := m.len.toNat, joining := true }]
      tbls := tmap s.sch.tbls fun _ t =>
        if t.st == .ready && t.epoch == m.epoch.toNat then { t with st := .armed } else t } } := by
  simp [execEpochInfo, due, hon, hepochs, State.mapTbls]

/-- Where one table alone is ARMED, every listed table that is ARMED is that one. -/
theorem armed_eq_tget {tbls : Tbl SlotTbl} {k : Nat} {t : SlotTbl} (hnodup : (tbls.map Prod.fst).Nodup)
    (honly : ∀ j, (tget tbls j SlotTbl.init).st = .armed → j = k) (ht : t ∈ tbls.map Prod.snd) (harmed : t.st = .armed) :
    t = tget tbls k SlotTbl.init := by
  obtain ⟨⟨j, v⟩, hmem, rfl⟩ := List.mem_map.mp ht
  have hv : tget tbls j SlotTbl.init = v := by rw [tget, tfind_of_mem hnodup hmem, Option.getD_some]
  rw [← honly j (hv ▸ harmed), hv]

/-- The largest of equal numbers. -/
theorem foldl_max_of_forall_eq {α : Type} {l : List α} {f : α → Nat} {n m : Nat} (hm : m ≤ n) (hne : l ≠ [])
    (h : ∀ x ∈ l, f x = n) : l.foldl (fun m x => max m (f x)) m = n := by
  induction l generalizing m with
  | nil => exact absurd rfl hne
  | cons x l ih =>
    obtain ⟨hx, hl⟩ := List.forall_mem_cons.mp h
    have hmax : max m (f x) = n := by omega
    rw [List.foldl_cons, hmax]
    by_cases hnil : l = []
    · rw [hnil, List.foldl_nil]
    · exact ih le_rfl hnil hl

/-- A joining Fixus with one ARMED table, of the epoch that it joins: the table starts at the first whole period. -/
theorem State.joinActivate_of_one {s : State} {r : EpochRec} {k : Nat} (hepochs : s.sch.epochs = [r])
    (honly : ∀ j, (tget s.sch.tbls j SlotTbl.init).st = .armed → j = k)
    (harmed : (tget s.sch.tbls k SlotTbl.init).st = .armed) (hepoch : (tget s.sch.tbls k SlotTbl.init).epoch = r.epoch)
    (hnodup : (s.sch.tbls.map Prod.fst).Nodup)
    (hdue : firstPeriod r.s r.len ((tget s.sch.tbls k SlotTbl.init).at_ + 1000) ≤ s.now) :
    ∃ u : State, u = s.activate r.epoch (firstPeriod r.s r.len ((tget s.sch.tbls k SlotTbl.init).at_ + 1000)) ∧
      s.joinActivate r = { u with sch := { u.sch with epochs := [{ r with joining := false }] } } := by
  refine ⟨_, rfl, ?_⟩
  have hall : ∀ t ∈ (s.sch.tbls.map Prod.snd).filter (fun t => t.st == .armed && t.epoch == r.epoch),
      t = tget s.sch.tbls k SlotTbl.init := fun t ht => by
    simp only [List.mem_filter, Bool.and_eq_true, beq_iff_eq] at ht
    exact armed_eq_tget hnodup honly ht.1 ht.2.1
  have hne : (s.sch.tbls.map Prod.snd).filter (fun t => t.st == .armed && t.epoch == r.epoch) ≠ [] := by
    have hmem := List.mem_map_of_mem (f := Prod.snd) (tfind_mem (tfind_of_tget_ne (SlotTbl.ne_init_of_armed harmed)))
    exact List.ne_nil_of_mem (List.mem_filter.mpr ⟨hmem, by simp [harmed, hepoch]⟩)
  have hat := foldl_max_of_forall_eq (f := SlotTbl.at_) (Nat.zero_le _) hne fun t ht => by rw [hall t ht]
  have hempty := List.isEmpty_eq_false_iff.mpr hne
  simp only [State.joinActivate, hat, hempty, Nat.not_lt.mpr hdue, decide_false, Bool.or_self, Bool.false_eq_true, if_false]
  rw [State.activate_only]
  simp [hepochs]

/-- Settles O35: each event is one equation above (`execEpochCancel_of_new` to `State.joinActivate_of_one`), and the tables
it names are read off the table that it changes (`tget_tmap_of_ne`, `State.activate_armed`). -/
theorem epochSwitchCommands : Obligations.EpochSwitchCommands := by
  refine ⟨fun s p m a hon harms hsame hundecided htime hnew => ?_, fun s p m x c hon hlate hctxs hopen => ?_,
    fun s a hbrass harms hundecided hdue hsampled hopen hreleased => ?_,
    fun s a hbrass harms hundecided hdue hcancelled hslots hqueue hcmd => ?_,
    fun s a hon harms hdecided hdue hcmd => ?_, fun s p m hon hepochs => ?_,
    fun s r k hon hepochs hjoining honly harmed hepoch hnodup hdue => ?_⟩
  · refine ⟨_, execEpochCancel_of_new hon htime hnew, ?_, ?_, fun q hq => State.mem_ctlQ_flood hq, ?_⟩
    · simp [harms, hsame, hundecided]
    · rw [State.flood_sch]
    · rw [State.flood_only]
  · refine (execEpochCancel_of_late hon hlate).trans ?_
    simp [hctxs, hopen]
  · refine ⟨_, (execEpochDecision_of_one hbrass harms hundecided hdue).trans
      (congrArg _ (State.decideArm_of_high harms hsampled hopen hreleased)), ?_, fun q p hq hp => ?_, ?_⟩
    · rw [State.sendGo_eq, State.foldl_goTo_only]
    · exact ⟨_, State.epochGo_mem_foldl_goTo (List.mem_range.mpr hq) hp, rfl, rfl⟩
    · rw [State.sendGo_eq, State.foldl_goTo_only]
  · refine ⟨_, (execEpochDecision_of_one hbrass harms hundecided hdue).trans
      (congrArg _ (State.decideArm_of_cancelled harms hcancelled hslots hqueue hcmd)), rfl, fun k harmed hepoch => ?_, rfl⟩
    dsimp only
    rw [tget_tmap_of_ne _ (SlotTbl.ne_init_of_armed harmed)]
    simp [harmed, hepoch]
  · obtain ⟨len, hnext⟩ := execEpochSwitch_of_one hon harms hdecided hdue hcmd
    refine ⟨_, hnext, rfl, fun k harmed hepoch => ?_, ⟨_, List.mem_append_right _ List.mem_cons_self, rfl, rfl, rfl⟩, rfl⟩
    dsimp only
    rw [State.activate_armed harmed hepoch]
    exact ⟨rfl, rfl⟩
  · refine ⟨_, execEpochInfo_of_unknown (p := p) hon hepochs, rfl, fun k hready hepoch => ?_, rfl⟩
    dsimp only
    rw [tget_tmap_of_ne _ (SlotTbl.ne_init_of_ready hready)]
    simp [hready, hepoch]
  · obtain ⟨u, hu, hjoin⟩ := State.joinActivate_of_one hepochs honly harmed hepoch hnodup hdue
    have hexec : execEpochJoinActivate s = .next (s.joinActivate r) := by
      simp [execEpochJoinActivate, due, hon, hepochs, hjoining]
    refine ⟨_, hexec.trans (congrArg _ hjoin), ?_, ?_, rfl, ?_⟩
    · rw [hu, State.activate_armed harmed hepoch]
    · rw [hu, State.activate_armed harmed hepoch]
    · rw [hu, State.activate_only]

end Sys2Proof.Machine

/-! Launches and late launches (04 R91 to R96), and the barrier (04 R97 to R101). -/

namespace Sys2Proof.Machine

/-! ### Launches (04 R84, R91) -/

/-- Where no collective that waits has come to its count, none starts. -/
theorem State.launchDue_eq_self {s : State} (h : ∀ e ∈ s.slots, e.2.launched = true ∨ s.now < e.2.launch) :
    s.launchDue = s := by
  unfold State.launchDue
  generalize inOrder (fun (e : Nat × Coll) => e.2.desc) s.slots = l
  induction l with
  | nil => rfl
  | cons e l ih =>
    rw [List.foldl_cons]
    refine Eq.trans (congrArg (fun t => List.foldl _ t l) ?_) ih
    cases hcoll : s.coll e.1 with
    | none => rfl
    | some c =>
      have hwait : c.launched = true ∨ s.now < c.launch := h _ (tfind_mem hcoll)
      rcases hwait with hlaunched | hearly
      · simp [hlaunched]
      · simp [Nat.not_le.mpr hearly]

theorem execLaunch_of_one {s : State} {k : Nat} {c : Coll} (hon : s.on = true) (hswitch : s.switchFirst = false)
    (htime : s.timeGood = true) (hslots : s.slots = [(k, c)]) (hwaits : c.launched = false) (hheld : c.heldAt = none)
    (hdue : c.launch ≤ s.now) (hstop : s.stopFirst c = false) : execLaunch s = .next (s.startColl k c) := by
  have hcoll : s.coll k = some c := by simp [State.coll, hslots, tfind]
  simp [execLaunch, due, hon, hswitch, htime, State.launchDue, hslots, inOrder, putInOrder, hcoll, hwaits, hheld, hdue, hstop]

/-! ### Late notices (04 R93, R94) -/

/-- An event not seen yet is noted last. -/
theorem noteLateIn_of_new {l : List ((Nat × Nat) × Nat)} {k : Nat × Nat} {d : Nat} (hnew : ∀ e ∈ l, e.1 ≠ k) :
    noteLateIn l k d = (l ++ [(k, d)], true) := by
  have hfind : l.find? (fun e => e.1 == k) = none := by simpa using hnew
  rw [noteLateIn, hfind]

/-- A LATE_NOTICE about a context that is open here under its generation, not seen yet. -/
theorem State.takeLate_of_new {s : State} {o : Option Nat} {n : LateNotice} (hopen : (s.ctx n.ctx.toNat).st ≠ .free)
    (hgen : (s.ctx n.ctx.toNat).gen = n.gen.toNat)
    (hnew : ∀ e ∈ (s.ctx n.ctx.toNat).lates, e.1 ≠ (n.collId.toNat, n.launch.toNat)) :
    s.takeLate o n = ((s.setCtx n.ctx.toNat { s.ctx n.ctx.toNat with
      lates := (s.ctx n.ctx.toNat).lates ++ [((n.collId.toNat, n.launch.toNat), n.d.toNat)] }).flood o
      (.lateNotice n)).setStop n.ctx.toNat n.collId.toNat n.launch.toNat (n.d.toNat + 20000) := by
  simp [State.takeLate, hopen, hgen, noteLateIn_of_new hnew]

theorem State.takeLate_of_closed {s : State} {o : Option Nat} {n : LateNotice}
    (h : (s.ctx n.ctx.toNat).st = .free ∨ (s.ctx n.ctx.toNat).gen ≠ n.gen.toNat) :
    s.takeLate o n = s.passOn o [0, n.ctx.toNat, n.gen.toNat, n.collId.toNat, n.launch.toNat] n.d.toNat 20000
      (.lateNotice n) := by
  simp [State.takeLate, h]

/-- The stop count of a late-launch event on its collective (04 R94). -/
theorem State.coll_setStop {s : State} {x cid l t k : Nat} {c : Coll} (hcoll : s.coll k = some c) (hctx : dCtx c.desc = x)
    (hid : dId c.desc = cid) (hlaunch : c.launch = l) :
    (s.setStop x cid l t).coll k = some { c with stopAt := some (min t (c.stopAt.getD t)) } := by
  unfold State.coll at hcoll
  unfold State.coll State.setStop
  rw [tfind_tmap, hcoll, Option.map_some]
  simp [hctx, hid, hlaunch]

/-- A notice of an event passed on before, by a count not above its own and within the window, goes no further. -/
theorem State.passOn_of_seen {s : State} {o : Option Nat} {key : List Nat} {d w : Nat} {m : CtlMsg}
    (h : ∃ e ∈ s.flt.passed, e.1 = key ∧ e.2 ≤ d ∧ d ≤ e.2 + w) : s.passOn o key d w m = s := by
  obtain ⟨e, he, hkey, hlow, hhigh⟩ := h
  have hseen : s.flt.passed.any (fun e => e.1 == key && decide (e.2 ≤ d) && decide (d ≤ e.2 + w)) = true :=
    List.any_eq_true.mpr ⟨e, he, by simp [hkey, hlow, hhigh]⟩
  rw [State.passOn, if_pos hseen]

/-- A notice of an event that was not passed on is remembered, and floods. -/
theorem State.passOn_of_new {s : State} {o : Option Nat} {key : List Nat} {d w : Nat} {m : CtlMsg}
    (h : ∀ e ∈ s.flt.passed, e.1 = key → d < e.2 ∨ e.2 + w < d) : s.passOn o key d w m =
      State.flood { s with flt := { s.flt with passed := (key, d) :: s.flt.passed.take 63 } } o m := by
  have hnew : ¬ s.flt.passed.any (fun e => e.1 == key && decide (e.2 ≤ d) && decide (d ≤ e.2 + w)) = true := by
    intro hany
    obtain ⟨e, he, hseen⟩ := List.any_eq_true.mp hany
    simp only [Bool.and_eq_true, beq_iff_eq, decide_eq_true_eq] at hseen
    obtain ⟨⟨hkey, hlow⟩, hhigh⟩ := hseen
    have hout := h e he hkey
    omega
  rw [State.passOn, if_neg hnew]

/-! ### The stop count of a late launch (04 R94, 08 R217) -/

theorem State.writeRecords_lateDescs (s : State) (d r : List Byte) : (s.writeRecords d r).lateDescs = s.lateDescs := by
  unfold State.writeRecords
  refine foldl_apply_eq State.lateDescs fun t e => ?_
  rw [State.sendFrame_only]

theorem State.stopQueued_lateDescs (s : State) (c : Coll) (status done : Nat) :
    (s.stopQueued c status done).lateDescs = s.lateDescs := by
  unfold State.stopQueued
  dsimp only
  rw [State.complete_only]
  split
  · rw [State.postRecord, (State.postCpl_only ..).1]
    exact State.writeRecords_lateDescs ..
  · exact State.writeRecords_lateDescs ..

theorem State.lateRecords_of_none {s : State} (h : s.lateDescs = []) : s.lateRecords = s := by
  have hsame : { s with lateDescs := [] } = s := by rw [← h]
  simp only [State.lateRecords, h, List.filter_nil, List.foldl_nil, hsame]

/-- One collective in the launch queue at its stop count, not decided, ends with LATE_LAUNCH. -/
theorem State.lateStops_of_queued {s : State} {c : Coll} {n : Nat} (hslots : s.slots = []) (hqueue : s.queue = [c])
    (hstop : c.stopAt = some n) (hdue : n ≤ s.now) (hopen : c.isDecided = false) :
    s.lateStops = s.stopQueued c stLateLaunch n := by
  simp [State.lateStops, hslots, hqueue, hstop, hdue, hopen]

theorem State.lateStops_of_none {s : State} (hslots : s.slots = []) (hqueue : s.queue = []) : s.lateStops = s := by
  simp [State.lateStops, hslots, hqueue]

/-- The members of one descriptor refused here as late get their records at its stop count. -/
theorem State.lateRecords_of_one {s : State} {d : List Byte} (hlate : s.lateDescs = [d]) (hdue : s.lateAt d ≤ s.now)
    (hopen : (s.ctx (dCtx d)).st ≠ .free) (hgen : (s.ctx (dCtx d)).gen = dGen d) : s.lateRecords =
      State.writeRecords { s with lateDescs := [] } d (stopRecord d stLateLaunch (s.lateAt d)) := by
  have hopen' : (State.ctx { s with lateDescs := [] } (dCtx d)).st ≠ .free := hopen
  have hgen' : (State.ctx { s with lateDescs := [] } (dCtx d)).gen = dGen d := hgen
  simp only [State.lateRecords, hlate, hdue, List.filter_cons, List.filter_nil, decide_true, if_true, Bool.not_true,
    Bool.false_eq_true, if_false, List.foldl_cons, List.foldl_nil, beq_eq_false_iff_ne.mpr hopen', hgen', bne_self_eq_false,
    Bool.or_self]
  rfl

/-! ### The barrier (04 R97 to R101) -/

/-- A barrier that is not sampled: the Fixus releases BAR_N where it is ready for it, and holds it low where it is not. -/
theorem State.barRelease_of_one {s : State} {a : Arm} {r : Bool} (harms : s.sch.arms = [a]) (hstep : s.sch.step = none)
    (hopen : a.sampled = false) (hready : s.epochReady a.epoch = r) (hearly : s.now + 1000 < s.armB a)
    (hfree : s.pins.barFor = none) : s.barRelease = { s with
      sch := { s.sch with arms := [{ a with released := r, ready := r }] }
      pins := { s.pins with barLow := !r, barFor := if r then some (s.armB a) else none } } := by
  have hb (t : Sched) (u : Arm) (hu : u.s = a.s) : State.armB { s with sch := t } u = s.armB a := by
    simp [State.armB, State.multiCell, hu]
  cases r <;>
    simp [State.barRelease, State.nextBarrier, State.openBarriers, harms, hstep, hopen, hready, hearly, hfree, hb]

/-- EPOCH_CANCEL, flooded or not, changes ports and the record of the cancels seen. -/
theorem State.ite_floodCancel_only (s : State) (a : Arm) (c : Bool) : (if c then s.floodCancel a else s) = { s with
    sch := { s.sch with cancels := (if c then s.floodCancel a else s).sch.cancels }
    ports := (if c then s.floodCancel a else s).ports } := by
  cases c with
  | false => rfl
  | true =>
    rw [if_pos rfl, State.floodCancel, State.flood_only]

theorem State.step_ite_floodCancel (s : State) (a : Arm) (c : Bool) :
    (if c then s.floodCancel a else s).sch.step = s.sch.step := by
  rw [State.ite_floodCancel_only]

/-- The barrier that is due is sampled: low while this Fixus holds the line, and where it is low the arm is cancelled, in a
job of several cells by EPOCH_CANCEL to all. -/
theorem State.barSample_of_one {s : State} {a : Arm} {high : Bool} (harms : s.sch.arms = [a]) (hstep : s.sch.step = none)
    (hopen : a.sampled = false) (hdue : s.armB a ≤ s.now) : ∃ u : State,
      u = { s with
        sch := { s.sch with arms := [{ a with sampled := true, cancelled := a.cancelled || !(high && !s.pins.barLow) }] }
        pins := { s.pins with barFor := if s.pins.barLow then some (s.armB a) else s.pins.barFor } } ∧
      s.barSample high = if !(high && !s.pins.barLow) && s.multiCell then u.floodCancel a else u := by
  refine ⟨_, rfl, ?_⟩
  have hfor : (List.find? (fun b => s.pins.barLow && decide (b ≤ s.now)) [s.armB a]).or s.pins.barFor =
      if s.pins.barLow then some (s.armB a) else s.pins.barFor := by
    cases hlow : s.pins.barLow <;> simp [hdue]
  simp only [State.barSample, harms, hstep, hopen, hdue, List.filter_cons, List.filter_nil, List.map_cons, List.map_nil,
    List.foldl_cons, List.foldl_nil, Option.toList_none, List.append_nil, Bool.not_false, decide_true, Bool.and_self, if_true,
    hfor, State.step_ite_floodCancel]
  rfl

/-- The line is pulled low again 1,000 ns after the barrier. -/
theorem State.nextBarrier_of_sampled {s : State} {a : Arm} (harms : s.sch.arms = [a]) (hstep : s.sch.step = none)
    (hsampled : a.sampled = true) : s.nextBarrier = none := by
  simp [State.nextBarrier, State.openBarriers, harms, hstep, hsampled]

theorem execBarrierPullLow_of_sampled {s : State} {a : Arm} {b : Nat} (hbrass : s.brass = true) (htime : s.timeGood = true)
    (harms : s.sch.arms = [a]) (hstep : s.sch.step = none) (hsampled : a.sampled = true) (hfor : s.pins.barFor = some b)
    (hpast : b + 1000 ≤ s.now) :
    execBarrierPullLow s = .next { s with pins := { s.pins with barLow := true, barFor := none } } := by
  have hsame : { s.sch with arms := [a], step := none } = s.sch := by rw [← harms, ← hstep]
  simp [hsame, execBarrierPullLow, due, hbrass, htime, hfor, hpast, State.nextBarrier_of_sampled harms hstep hsampled, harms, hstep,
    hsampled]

theorem execStepCorrection_of_due {s : State} {r : StepReq} (hbrass : s.brass = true) (hstep : s.sch.step = some r)
    (hok : r.ok = some true) (hdue : r.c ≤ s.now) : execStepCorrection s = .next (State.complete { s with
      irc := { s.irc with count := (s.irc.count + r.delta).toNat % 2 ^ 64 }, sch := { s.sch with step := none } }
      r.cmd rOk 0 []) := by
  unfold execStepCorrection
  rw [hstep]
  simp only [due, hbrass, hok, hdue, beq_self_eq_true, decide_true, Bool.and_self, if_true]

/-- A Fixus that is neither LOCKED nor in HOLDOVER launches nothing and takes no part in barriers (04 R84, R99). -/
theorem State.timeEvents_of_not_timeGood {s : State} (h : s.timeGood = false) (high : Bool) :
    execLaunch s = .next s ∧ execBarrierRelease s = .next s ∧ execBarrierSample high s = .next s ∧
      execBarrierPullLow s = .next s := by
  simp [execLaunch, execBarrierRelease, execBarrierSample, execBarrierPullLow, due, h]

/-- A notice flooded as this Fixus's own (04 R93) is of the same event. -/
theorem LateNotice.event_of_source {n n' : LateNotice} {a : BitVec 15} {c : Prop} [Decidable c]
    (h : n' = if c then { n with source := a } else n) :
    n'.ctx = n.ctx ∧ n'.gen = n.gen ∧ n'.collId = n.collId ∧ n'.launch = n.launch ∧ n'.d = n.d := by
  subst h
  split <;> exact ⟨rfl, rfl, rfl, rfl, rfl⟩

theorem execLateNotice_eq {s : State} {p : BitVec 6} {n n' : LateNotice} (hon : s.on = true)
    (hn' : n' = if p.toNat < 32 then { n with source := BitVec.ofNat 15 s.addr } else n) :
    execLateNotice p n s = .next (s.takeLate (some p.toNat) n') := by
  rw [execLateNotice, due, if_pos hon, hn']

theorem execLateLaunchStop_eq {s : State} (hon : s.on = true) (hswitch : s.switchFirst = false) :
    execLateLaunchStop s = .next s.lateStops.lateRecords := by
  simp [execLateLaunchStop, due, hon, hswitch]

theorem execBarrierRelease_eq {s : State} (hbrass : s.brass = true) (htime : s.timeGood = true) :
    execBarrierRelease s = .next s.barRelease := by
  simp [execBarrierRelease, due, hbrass, htime]

/-- Settles O34: each event is one equation above, from `execLaunch_of_one` to `execStepCorrection_of_due`. -/
theorem launchesAndBarrier : Obligations.LaunchesAndBarrier := by
  refine ⟨fun s k c hon hswitch htime hslots hwaits hheld hdue hstop =>
      execLaunch_of_one hon hswitch htime hslots hwaits hheld hdue hstop,
    fun s hnone => ?_, fun s p n n' hon hopen hgen hnew hn' => ?_, fun s p n n' hon hclosed hn' => ?_,
    fun s o key d w m => ⟨State.passOn_of_seen, fun hnew => ?_⟩, fun s c n hon hswitch hslots hqueue hlate hstop hdue hopen => ?_,
    fun s d hon hswitch hslots hqueue hlate hdue hopen hgen => ?_,
    fun s a hbrass harms hstep hheld hopen hready hearly hfree => ?_,
    fun s a hbrass htime harms hstep hopen hready hearly hfree => ?_,
    fun s high htime => (State.timeEvents_of_not_timeGood htime high).2,
    fun s a high hbrass htime harms hstep hopen hdue => ?_,
    fun s a b hbrass htime harms hstep hsampled hfor hpast =>
      execBarrierPullLow_of_sampled hbrass htime harms hstep hsampled hfor hpast,
    fun s r hbrass hstep hok hdue => execStepCorrection_of_due hbrass hstep hok hdue⟩
  · rcases hnone with htime | hearly
    · exact (State.timeEvents_of_not_timeGood htime true).1
    · simp only [exec, execLaunch, due, State.launchDue_eq_self hearly, ite_self]
  · obtain ⟨hctx, hg, hid, hl, hd⟩ := LateNotice.event_of_source hn'
    have htake := State.takeLate_of_new (o := some p.toNat) (n := n') (hctx ▸ hopen) (by rw [hctx, hg, hgen])
      (by rw [hctx, hid, hl]; exact hnew)
    rw [hctx, hid, hl, hd] at htake
    refine ⟨_, (execLateNotice_eq hon hn').trans (congrArg _ htake), ?_, fun q hq => ?_, fun k c hcoll hc hi hlaunch => ?_, ?_⟩
    · rw [State.flood_only]
      exact State.ctx_setCtx_self ..
    · exact State.mem_ctlQ_flood (s := s.setCtx ..) hq
    · refine State.coll_setStop ?_ hc hi hlaunch
      rw [State.flood_only]
      exact hcoll
    · rw [State.flood_only]
      rfl
  · obtain ⟨hctx, hg, hid, hl, hd⟩ := LateNotice.event_of_source hn'
    have htake := State.takeLate_of_closed (o := some p.toNat) (n := n') (by rw [hctx, hg]; exact hclosed)
    rw [hctx, hg, hid, hl, hd] at htake
    exact (execLateNotice_eq hon hn').trans (congrArg _ htake)
  · refine ⟨_, State.passOn_of_new hnew, fun q hq => State.mem_ctlQ_flood hq, ?_, ?_⟩
    · rw [State.flood_only]
      exact List.mem_cons_self
    · rw [State.flood_only]
  · have hrecords : (s.stopQueued c stLateLaunch n).lateRecords = s.stopQueued c stLateLaunch n :=
      State.lateRecords_of_none ((State.stopQueued_lateDescs ..).trans hlate)
    refine (execLateLaunchStop_eq hon hswitch).trans ?_
    rw [State.lateStops_of_queued hslots hqueue hstop hdue hopen, hrecords]
  · refine (execLateLaunchStop_eq hon hswitch).trans ?_
    rw [State.lateStops_of_none hslots hqueue, State.lateRecords_of_one hlate hdue hopen hgen]
  · have htime : s.timeGood = true := (Bool.and_eq_true_iff.mp (Bool.and_eq_true_iff.mp hready).1).1
    refine (execBarrierRelease_eq hbrass htime).trans ?_
    rw [State.barRelease_of_one harms hstep hopen hready hearly hfree]
    simp
  · refine (execBarrierRelease_eq hbrass htime).trans ?_
    rw [State.barRelease_of_one harms hstep hopen hready hearly hfree]
    simp [hfree]
  · obtain ⟨u, hu, hsample⟩ := State.barSample_of_one (high := high) harms hstep hopen hdue
    have hexec : execBarrierSample high s = .next (s.barSample high) := by simp [execBarrierSample, due, hbrass, htime]
    refine ⟨_, hexec.trans (congrArg _ hsample), ?_, fun hhigh hlow => ?_, fun hlow hmulti q hq => ?_, ?_⟩
    · rw [State.ite_floodCancel_only, hu]
    · rw [hhigh, hlow, if_neg (by simp), hu]
    · rw [hlow, hmulti, if_pos (by simp)]
      subst hu
      exact ⟨_, State.mem_ctlQ_flood (s := { s with sch := _, pins := _ }) hq, rfl⟩
    · rw [State.ite_floodCancel_only, hu]

end Sys2Proof.Machine

/-! A Fixus that leaves service (14 R389): what its ports take with them leaves its lock state, and what it does to BAR_N. -/

namespace Sys2Proof.Machine

/-- The lock state of the counter, and whether this Fixus pulls BAR_N low (04 R84, R98). -/
def State.timeView (s : State) : LockState × Bool := (s.irc.state, s.pins.barLow)

theorem State.timeView_eq_iff {s : State} {l : LockState} {b : Bool} :
    s.timeView = (l, b) ↔ s.irc.state = l ∧ s.pins.barLow = b := by
  rw [State.timeView, Prod.mk.injEq]

theorem ite_timeView {s : State} {c : Prop} [Decidable c] {a b : State} (ha : a.timeView = s.timeView)
    (hb : b.timeView = s.timeView) : (if c then a else b).timeView = s.timeView := by
  split <;> assumption

/-! ### Counters and the fault collector -/

theorem State.bump_timeView (s : State) (a n : Nat) : (s.bump a n).timeView = s.timeView := ite_timeView rfl rfl

theorem State.pulse_timeView (s : State) : s.pulse.timeView = s.timeView := ite_timeView rfl rfl

theorem State.record_timeView (s : State) (cls dk di src info : Nat) :
    (s.record cls dk di src info).timeView = s.timeView := by
  unfold State.record
  split
  · exact ite_timeView (State.pulse_timeView _) rfl
  · exact ite_timeView (ite_timeView (State.bump_timeView ..) (State.bump_timeView ..))
      (ite_timeView (State.pulse_timeView _) rfl)

/-! ### Cells and frames that go with a port (06 R148, R154, R156) -/

theorem State.dropCopy_timeView (s : State) (k : Nat) : (s.dropCopy k).timeView = s.timeView := by
  unfold State.dropCopy
  split
  · rfl
  · exact ite_timeView rfl (ite_timeView rfl rfl)

theorem State.dropFrom_timeView (s : State) (id k : Nat) : (s.dropFrom id k).timeView = s.timeView :=
  foldl_apply_eq State.timeView fun _ _ => State.dropCopy_timeView ..

theorem State.freeCells_timeView (s : State) (id : Nat) : (s.freeCells id).timeView = s.timeView :=
  foldl_apply_eq State.timeView fun t k => by
    split
    · rfl
    · exact ite_timeView rfl rfl

theorem State.discardRest_timeView (s : State) (id : Nat) : (s.discardRest id).timeView = s.timeView := rfl

theorem State.loseToken_timeView (s : State) (f : Frame) (id : Nat) : (s.loseToken f id).timeView = s.timeView :=
  ite_timeView rfl (ite_timeView rfl ((State.bump_timeView ..).trans (State.bump_timeView ..)))

theorem State.dropUnacked_timeView (s : State) (p : Nat) : (s.dropUnacked p).timeView = s.timeView :=
  foldl_apply_eq State.timeView fun t f => by
    split
    · exact ite_timeView (ite_timeView (State.bump_timeView ..) rfl)
        ((State.dropCopy_timeView ..).trans (ite_timeView (State.bump_timeView ..) rfl))
    · rfl

theorem State.sendCtlTo_timeView (s : State) (dest : Nat) (m : CtlMsg) : (s.sendCtlTo dest m).timeView = s.timeView := by
  rw [State.sendCtlTo_only]
  rfl

theorem State.sendFrame_timeView (s : State) (i : Nat) (f : Frame) : (s.sendFrame i f).timeView = s.timeView := by
  rw [State.sendFrame_only]
  rfl

theorem State.askAgain_timeView (s : State) (f : Frame) : (s.askAgain f).timeView = s.timeView := by
  unfold State.askAgain
  split
  · rfl
  · split
    · rfl
    · exact ite_timeView rfl (State.sendCtlTo_timeView ..)

/-- A frame that is cut: its home asks again, its token is lost, and its copies and cells go. -/
theorem State.cutFrame_timeView (s : State) (id : Nat) (tail : Nat × List Byte) :
    (s.cutFrame id tail).timeView = s.timeView := by
  unfold State.cutFrame
  dsimp only
  rw [State.bump_timeView, State.discardRest_timeView]
  refine (foldl_apply_eq State.timeView fun t k => ?_).trans ((foldl_apply_eq State.timeView fun t p => ?_).trans ?_)
  · split
    · rfl
    · exact ite_timeView rfl (ite_timeView rfl rfl)
  · rfl
  · split
    · exact (State.loseToken_timeView ..).trans (State.askAgain_timeView ..)
    · rfl

theorem State.headTags_timeView (s : State) (p : Nat) : (s.headTags p).timeView = s.timeView :=
  foldl_apply_eq State.timeView fun t k => by
    split
    · rfl
    · exact ite_timeView rfl rfl

theorem State.badFrame_timeView (s : State) (id : Nat) (tail : Nat × List Byte) :
    (s.badFrame id tail).timeView = s.timeView :=
  (foldl_apply_eq State.timeView fun _ _ => State.headTags_timeView ..).trans (State.cutFrame_timeView ..)

theorem State.mcastLost_timeView (s : State) (inp : Nat) (f : Frame) (gs : List Nat) :
    (s.mcastLost inp f gs).timeView = s.timeView := by
  have hrecord (t : State) (n cls dk di src info : Nat) :
      ((t.bump (aSld + 0x40 + 4 * 7) n).record cls dk di src info).timeView = t.timeView :=
    (State.record_timeView ..).trans (State.bump_timeView ..)
  unfold State.mcastLost
  refine ite_timeView rfl ?_
  dsimp only
  split
  · exact hrecord ..
  · refine ite_timeView (hrecord ..) ((foldl_apply_eq State.timeView fun t a => ?_).trans (hrecord ..))
    exact ite_timeView (State.sendFrame_timeView ..) (State.sendCtlTo_timeView ..)

theorem State.routed_timeView (s : State) (f : Frame) : (s.routed f).1.timeView = s.timeView := by
  rw [State.routed_only]
  rfl

/-- A frame chosen again takes its port by the choice of a sprayed frame, or as it stands. -/
theorem State.rechoose_timeView (s : State) (p : Nat) (q : QEnt) : (s.rechoose p q).1.timeView = s.timeView := by
  have hrouted := s.routed_timeView q.frame
  unfold State.rechoose
  split
  · split
    · next hsome =>
      rw [hsome] at hrouted
      exact hrouted
    · next hnone =>
      rw [hnone] at hrouted
      exact hrouted
  · dsimp only
    split <;> rfl

theorem State.rerouteEnt_timeView (s : State) (p : Nat) (q : QEnt) : (s.rerouteEnt p q).timeView = s.timeView := by
  have hchosen := s.rechoose_timeView p q
  unfold State.rerouteEnt
  generalize s.rechoose p q = c at hchosen
  obtain ⟨t, q', lost, mesh⟩ := c
  dsimp only at hchosen ⊢
  rw [State.mcastLost_timeView, ← hchosen]
  have hlost (u : State) (hu : u.timeView = t.timeView) :
      (if lost = true then u.dropFrom q.id 0 else u).timeView = t.timeView :=
    ite_timeView ((State.dropFrom_timeView ..).trans hu) hu
  exact ite_timeView (hlost _ rfl) (hlost _ rfl)

theorem State.reroute_timeView (s : State) (p : Nat) : (s.reroute p).timeView = s.timeView := by
  unfold State.reroute
  dsimp only
  refine (foldl_apply_eq State.timeView fun _ _ => State.rerouteEnt_timeView ..).trans
    ((foldl_apply_eq State.timeView fun t e => ?_).trans rfl)
  refine ite_timeView rfl (ite_timeView (ite_timeView ?_ ?_) (ite_timeView rfl rfl))
  · exact State.dropFrom_timeView ..
  · rw [State.discardRest_timeView]
    exact State.dropFrom_timeView ..

/-! ### A port goes, and the Fixus with all its ports (05 R135, 14 R389) -/

theorem State.sendLeave_timeView (s : State) (p reason : Nat) : (s.sendLeave p reason).timeView = s.timeView :=
  ite_timeView rfl (foldl_apply_eq State.timeView fun _ _ => rfl)

theorem State.releaseSpare_timeView (s : State) (p : Nat) : (s.releaseSpare p).timeView = s.timeView := by
  unfold State.releaseSpare
  split <;> rfl

theorem State.idlePort_timeView (s : State) (p : Nat) (st : PortState) : (s.idlePort p st).timeView = s.timeView :=
  foldl_apply_eq State.timeView fun _ _ => rfl

/-- What a Fixus takes from its neighbours sets its parent, HOPS and master, and when it last knew a master. -/
theorem State.reparent_only (s : State) : s.reparent = { s with irc := { s.irc with
    parent := s.reparent.irc.parent, hops := s.reparent.irc.hops, masterAddr := s.reparent.irc.masterAddr,
    noMasterAt := s.reparent.irc.noMasterAt } } := by
  unfold State.reparent
  split
  · rfl
  · split <;> rfl

theorem State.reparent_timeView (s : State) : s.reparent.timeView = s.timeView := by
  rw [State.reparent_only]
  rfl

/-- A port that stops carrying flits: its last LEAVE, and what is still being received on it. -/
def State.stopPort (s : State) (p : Nat) (st : PortState) (reason : Nat) : State :=
  let s := s.sendLeave p reason
  let s := s.setPort p { s.port p with st := st }
  (s.paux p).asm.foldl (fun s a =>
    if a.eof then s else if a.taken && !a.dropped then s.badFrame a.id synthTail else s.freeCells a.id) s

/-- What the link layer, the scheduler and the time messages knew of a port that goes. -/
def State.forgetPort (s : State) (p : Nat) : State :=
  let a := s.paux p
  let s := s.setPaux p { PortAux.init with
    asm := a.asm.filter (fun m => m.eof && !m.taken && !m.dropped), retrains := a.retrains, viols := a.viols,
    violSince := a.violSince, violAt := a.violAt, violHead := a.violHead, violLog := a.violLog, violLast := a.violLast }
  State.reparent { s with
    sch := { s.sch with
      wfqV := tdel s.sch.wfqV p, wfqF := s.sch.wfqF.filter (fun e => e.1 / 4 != p), slot := tdel s.sch.slot p }
    irc := { s.irc with peers := tdel s.irc.peers p, reqs := tdel s.irc.reqs p } }

theorem State.portDown_eq (s : State) (p : Nat) (st : PortState) (reason : Nat) : s.portDown p st (some reason) =
    (((((s.stopPort p st reason).dropUnacked p).reroute p).releaseSpare p).idlePort p st).forgetPort p := by
  unfold State.portDown State.forgetPort State.stopPort
  dsimp only

theorem State.stopPort_timeView (s : State) (p : Nat) (st : PortState) (reason : Nat) :
    (s.stopPort p st reason).timeView = s.timeView := by
  unfold State.stopPort
  dsimp only
  refine (foldl_apply_eq State.timeView fun t a => ?_).trans (State.sendLeave_timeView s p reason)
  exact ite_timeView rfl (ite_timeView (State.badFrame_timeView ..) (State.freeCells_timeView ..))

theorem State.forgetPort_timeView (s : State) (p : Nat) : (s.forgetPort p).timeView = s.timeView := by
  rw [State.forgetPort, State.reparent_timeView]
  rfl

theorem State.portDown_timeView (s : State) (p : Nat) (st : PortState) (reason : Nat) :
    (s.portDown p st (some reason)).timeView = s.timeView := by
  rw [State.portDown_eq, State.forgetPort_timeView, State.idlePort_timeView, State.releaseSpare_timeView,
    State.reroute_timeView, State.dropUnacked_timeView, State.stopPort_timeView]

/-- One port of a Fixus that leaves service. -/
def State.leavePort (reason : Nat) (s : State) (p : Nat) : State :=
  match (s.port p).st with
  | .active => s.portDown p .down (some reason)
  | .retrain => s.portDown p .down (some reason)
  | .training => s.portDown p .down (some reason)
  | _ => s

/-- Out of service, with every lane in electrical idle (14 R389). -/
def State.retired (s : State) : State := { s.lanesIdle with sys := { s.sys with outOfService := true } }

theorem State.leaveService_eq (s : State) (reason : Nat) :
    s.leaveService reason = ((List.range 64).foldl (State.leavePort reason) s).retired := by
  unfold State.leaveService
  generalize List.range 64 = ports
  rfl

theorem State.leavePort_timeView (reason : Nat) (s : State) (p : Nat) : (s.leavePort reason p).timeView = s.timeView := by
  unfold State.leavePort
  split
  · exact State.portDown_timeView ..
  · exact State.portDown_timeView ..
  · exact State.portDown_timeView ..
  · rfl

theorem State.retired_timeView (s : State) : s.retired.timeView = s.timeView := rfl

/-- A Fixus that leaves service keeps its lock state, leaves BAR_N, and is out of service. -/
theorem State.leaveService_timeView (s : State) (reason : Nat) : (s.leaveService reason).timeView = s.timeView := by
  rw [State.leaveService_eq, State.retired_timeView]
  exact foldl_apply_eq State.timeView fun _ _ => State.leavePort_timeView ..

theorem State.leaveService_outOfService (s : State) (reason : Nat) : (s.leaveService reason).sys.outOfService = true := by
  rw [State.leaveService_eq, State.retired]

/-- Time FAULT (04 R85, R99): the state is FAULT, the Fixus is out of service, and BAR_N floats. -/
theorem State.timeFault_spec (s : State) (offset : Nat) : (s.timeFault offset).irc.state = .fault ∧
    (s.timeFault offset).sys.outOfService = true ∧ (s.timeFault offset).pins.barLow = false := by
  have hview : (s.timeFault offset).timeView = (.fault, false) := by
    unfold State.timeFault
    dsimp only
    rw [State.leaveService_timeView, State.record_timeView]
    rfl
  obtain ⟨hstate, hlow⟩ := State.timeView_eq_iff.mp hview
  refine ⟨hstate, ?_, hlow⟩
  rw [State.timeFault, State.leaveService_outOfService]

end Sys2Proof.Machine

/-! Time exchanges (04 R77 to R84): requests as they are queued and as they leave, answers, and what an exchange makes of the
count and the lock state. -/

namespace Sys2Proof.Machine

/-! ### Requests (04 R79) -/

/-- The next TIME_REQ; T1 is stamped as it leaves. -/
def State.nextTimeReq (s : State) : TimeMsg := s.timeMsg (s.irc.reqSeq + 1) noCount noCount noCount

/-- TIME_REQ to one neighbour. -/
def State.askTime (s : State) (p : Nat) : State :=
  State.sendCtl { s with irc := { s.irc with reqSeq := s.irc.reqSeq + 1 } } p (.timeReq s.nextTimeReq)

theorem State.sendTimeReqs_eq (s : State) : s.sendTimeReqs = s.timePorts.foldl State.askTime s := rfl

/-- Each neighbour has one port that carries time messages, and no port is of two groups. -/
theorem State.timePorts_nodup (s : State) : s.timePorts.Nodup := by
  have hgroup {g p : Nat} (h : p ∈ (groupPorts g).find? fun p => s.timePort p) : p / 4 = g := by
    have hmem := List.mem_of_find?_eq_some h
    simp only [groupPorts, List.mem_cons, List.not_mem_nil, or_false] at hmem
    omega
  exact List.Nodup.filterMap (fun g g' p hp hp' => (hgroup hp).symm.trans (hgroup hp')) (by decide)

theorem State.port_askTime_of_ne {s : State} {p q : Nat} (h : p ≠ q) : (s.askTime p).port q = s.port q :=
  (State.port_sendCtl ..).trans (if_neg h)

theorem State.foldl_askTime_only (s : State) (l : List Nat) : l.foldl State.askTime s = { s with
    ports := (l.foldl State.askTime s).ports, irc := { s.irc with reqSeq := (l.foldl State.askTime s).irc.reqSeq } } := by
  induction l generalizing s with
  | nil => rfl
  | cons p l ih =>
    rw [List.foldl_cons, ih]
    rfl

theorem State.port_foldl_askTime_of_not_mem {s : State} {l : List Nat} {q : Nat} (h : q ∉ l) :
    (l.foldl State.askTime s).port q = s.port q := by
  induction l generalizing s with
  | nil => rfl
  | cons p l ih =>
    obtain ⟨hp, hl⟩ := not_or.mp (mt List.mem_cons.mpr h)
    exact (ih hl).trans (State.port_askTime_of_ne (Ne.symm hp))

/-- Each port named gets one request, which says what this Fixus is. -/
theorem State.port_foldl_askTime_of_mem {s : State} {l : List Nat} {q : Nat} (hnodup : l.Nodup) (h : q ∈ l) :
    ∃ m : TimeMsg, ((l.foldl State.askTime s).port q).ctlQ = (s.port q).ctlQ ++ [.timeReq m] ∧
      m.locked = (s.irc.state == .locked) ∧ m.master = s.irc.master ∧ m.source = BitVec.ofNat 15 s.addr := by
  induction l generalizing s with
  | nil => cases h
  | cons p l ih =>
    obtain ⟨hp, hl⟩ := List.nodup_cons.mp hnodup
    rcases List.mem_cons.mp h with rfl | hq
    · refine ⟨s.nextTimeReq, ?_, rfl, rfl, rfl⟩
      rw [List.foldl_cons, State.port_foldl_askTime_of_not_mem hp, State.askTime, State.port_sendCtl_self]
      rfl
    · obtain ⟨m, hctl, hlocked, hmaster, hsource⟩ := ih (s := s.askTime p) hl hq
      have hne : p ≠ q := fun hpq => hp (hpq ▸ hq)
      exact ⟨m, by rw [List.foldl_cons, hctl, State.port_askTime_of_ne hne], hlocked, hmaster, hsource⟩

/-! ### A VC1 message as it leaves (04 R79, R80; 05 R134) -/

theorem State.reportViols_of_none {s : State} {p : Nat} (h : (s.paux p).violSince = 0) : s.reportViols p = s := by
  simp [State.reportViols, h]

/-- The lane circuit that stamps a port does not depend on what waits there. -/
theorem State.stampLane_setPort_ctlQ (s : State) (p : Nat) (l : List CtlMsg) :
    (s.setPort p { s.port p with ctlQ := l }).stampLane p = s.stampLane p := by
  unfold State.stampLane
  rw [State.port_setPort_self]
  rfl

/-- A sequenced flit goes on the wire with what it carries. -/
theorem State.wire_putSeq (s : State) (p v : Nat) (pay : TxPay) :
    ((s.putSeq p v pay).port p).wire.map TxFlit.pay = some pay := by
  have hport (t : State) (acc : Tbl Sample) : State.port { t with sol := { t.sol with acc := acc } } p = t.port p := rfl
  unfold State.putSeq
  dsimp only
  rw [hport, State.port_setPort_self]
  rfl

theorem State.putSeq_irc (s : State) (p v : Nat) (pay : TxPay) : (s.putSeq p v pay).irc = s.irc := rfl

/-- A port in service with nothing before its first VC1 message, and credit for it, sends that message. -/
theorem State.transmit_of_ctl {s : State} {p : Nat} {m : CtlMsg} {l : List CtlMsg} (hst : (s.port p).st = .active)
    (hviol : (s.paux p).violSince = 0) (hlink : (s.port p).linkQ = []) (hreplay : (s.port p).replay = [])
    (hctl : (s.port p).ctlQ = m :: l) (hcredit : 0 < tget (s.port p).avail 1 0)
    (hroom : (s.port p).unacked.length < 4096) :
    s.transmit p = (((s.setPort p { s.port p with ctlQ := l }).stampCtl p m).1).putSeq p 1
      (.ctl ((s.setPort p { s.port p with ctlQ := l }).stampCtl p m).2) := by
  have hready : s.linkReady p = true := by simp [State.linkReady, hst]
  simp [State.transmit, State.reportViols_of_none hviol, hst, hready, hlink, hreplay, hctl, hcredit, hroom]

/-! ### What a time message says of a neighbour (04 R77, R78) -/

/-- What a time message says, noted before parent and HOPS are taken anew. -/
def State.noted (s : State) (p : Nat) (m : TimeMsg) : State :=
  let unset := s.irc.state == .free || (s.irc.state == .acquire && s.irc.ppsSecond.isSome)
  let yield_ := s.irc.master && unset && m.locked
  { s with irc := { s.irc with
    peers := tset s.irc.peers p
      { addr := m.source.toNat, hops := m.hops.toNat, locked := m.locked, candidate := m.candidate.toNat, heard := s.clk,
        delay := ((tfind s.irc.peers p).map (fun q => q.delay)).getD 0 },
    noLockedAt := if m.locked then s.clk else s.irc.noLockedAt, master := s.irc.master && !yield_,
    hops := if yield_ then 0xFF else s.irc.hops, state := if yield_ then .free else s.irc.state,
    ppsSecond := if yield_ then none else s.irc.ppsSecond, gone := s.irc.gone.filter (· != m.source.toNat),
    cands := tset (s.irc.cands.filter (fun e => decide (s.clk < e.2 + 2000000000))) m.candidate.toNat s.clk } }

/-- Has this neighbour just reached LOCKED one hop further from the master? -/
def State.newlyLocked (s : State) (p : Nat) (m : TimeMsg) : Bool :=
  m.locked && !((tfind s.irc.peers p).map (fun q => q.locked)).getD false &&
    m.hops.toNat == (s.noted p m).reparent.irc.hops + 1

theorem State.hear_eq (s : State) (p : Nat) (m : TimeMsg) : s.hear p m =
    if s.newlyLocked p m then (s.noted p m).reparent.sendEpochInfo p else (s.noted p m).reparent := rfl

/-- A master that keeps its role, or no master: the lock state stays. -/
theorem State.noted_of_not_yielding {s : State} {p : Nat} {m : TimeMsg} (h : s.irc.master = false ∨ m.locked = false) :
    s.noted p m = { s with irc := { s.irc with
      peers := (s.noted p m).irc.peers, noLockedAt := if m.locked then s.clk else s.irc.noLockedAt,
      gone := (s.noted p m).irc.gone, cands := (s.noted p m).irc.cands } } := by
  rcases h with h | h <;> simp [State.noted, h]

/-- EPOCH_INFO of one epoch (14 R407). -/
def State.epochInfoTo (p : Nat) (s : State) (r : EpochRec) : State :=
  s.sendCtl p (.epochInfo { ctx := BitVec.ofNat 8 r.ctx, source := BitVec.ofNat 15 s.addr, s := BitVec.ofNat 64 r.s,
                            epoch := BitVec.ofNat 16 r.epoch, len := BitVec.ofNat 14 r.len })

theorem State.sendEpochInfo_eq (s : State) (p : Nat) : s.sendEpochInfo p = s.sch.epochs.foldl (State.epochInfoTo p) s := rfl

theorem State.foldl_epochInfoTo_only (s : State) (p : Nat) (l : List EpochRec) : l.foldl (State.epochInfoTo p) s =
    { s with ports := (l.foldl (State.epochInfoTo p) s).ports } := by
  induction l generalizing s with
  | nil => rfl
  | cons r l ih =>
    rw [List.foldl_cons, ih]
    rfl

theorem State.sendEpochInfo_only (s : State) (p : Nat) :
    s.sendEpochInfo p = { s with ports := (s.sendEpochInfo p).ports } := by
  rw [State.sendEpochInfo_eq]
  exact State.foldl_epochInfoTo_only ..

/-- A time message heard, where no role is given up: of the counter it changes what is known of neighbours and master. -/
theorem State.hear_only {s : State} {p : Nat} {m : TimeMsg} (h : s.irc.master = false ∨ m.locked = false) :
    s.hear p m = { s with
      ports := (s.hear p m).ports
      irc := { s.irc with
        peers := (s.hear p m).irc.peers, noLockedAt := if m.locked then s.clk else s.irc.noLockedAt,
        gone := (s.hear p m).irc.gone, cands := (s.hear p m).irc.cands, parent := (s.hear p m).irc.parent,
        hops := (s.hear p m).irc.hops, masterAddr := (s.hear p m).irc.masterAddr,
        noMasterAt := (s.hear p m).irc.noMasterAt } } := by
  rw [State.hear_eq]
  split
  · rw [State.sendEpochInfo_only, State.reparent_only, State.noted_of_not_yielding h]
  · rw [State.reparent_only, State.noted_of_not_yielding h]

theorem State.rxLanes_sendCtl (s : State) (p q : Nat) (m : CtlMsg) :
    ((s.sendCtl p m).port q).rxLanes = (s.port q).rxLanes := by
  rw [State.port_sendCtl]
  split
  · next h => rw [h]
  · rfl

theorem State.rxLanes_hear (s : State) (p q : Nat) (m : TimeMsg) :
    ((s.hear p m).port q).rxLanes = (s.port q).rxLanes := by
  have hreparent (t : State) : (t.reparent.port q) = t.port q := by rw [State.reparent_only]; rfl
  rw [State.hear_eq]
  split
  · refine (foldl_apply_eq (fun t : State => (t.port q).rxLanes) fun t r => State.rxLanes_sendCtl ..).trans ?_
    rw [hreparent]
    rfl
  · rw [hreparent]
    rfl

/-- What is heard on a port leaves the stamp of what arrives there (04 R80). -/
theorem State.rxStamp_hear {s : State} {p : Nat} {m : TimeMsg} (h : s.irc.master = false ∨ m.locked = false) :
    (s.hear p m).rxStamp ((s.hear p m).stampRxLane p) = s.rxStamp (s.stampRxLane p) := by
  unfold State.stampRxLane
  rw [State.rxLanes_hear, State.hear_only h]
  rfl

/-! ### Exchanges (04 R81, R84, Table 4.6) -/

/-- The counter disciplined by an exchange of offset θ. -/
def State.disciplined (s : State) (th : Int) : State :=
  { s with irc := { s.irc with
    offsets := (s.irc.offsets ++ [th]).drop (s.irc.offsets.length + 1 - 8), lastExch := s.clk, slew := th, rate := th,
    rateOver := max 1 (s.clk - s.irc.lastExch) } }

/-- In HOLDOVER an exchange locks again, or shows that the count has drifted too far. -/
theorem State.exchange_of_holdover {s : State} (th : Int) (m : TimeMsg) (hhall : s.irc.hall = false)
    (hstate : s.irc.state = .holdover) : s.exchange th m =
      if absLe th 32768 then (s.disciplined th).lockNow else (s.disciplined th).timeFault (BitVec.ofInt 32 th).toNat := by
  simp [State.exchange, hstate, hhall, State.disciplined]

/-- The eighth offset in ACQUIRE, with the mean of all eight within 250 ps. -/
theorem State.exchange_of_acquired {s : State} {th : Int} (m : TimeMsg) (hhall : s.irc.hall = false)
    (hstate : s.irc.state = .acquire) (hseven : s.irc.offsets.length = 7)
    (hmean : absLe ((s.irc.offsets ++ [th]).foldl (· + ·) 0 / 8) 16384 = true) :
    s.exchange th m = (s.disciplined th).lockNow := by
  have height : meanOf ((s.irc.offsets ++ [th]).drop (s.irc.offsets.length + 1 - 8)) =
      some ((s.irc.offsets ++ [th]).foldl (· + ·) 0 / 8) := by
    simp [meanOf, hseven]
  simp only [State.exchange, hstate, hhall, height, hmean, Bool.false_and, Bool.false_eq_true, if_false, if_true,
    State.disciplined]

/-- The first exchange sets the count. -/
theorem State.exchange_of_free {s : State} (th : Int) (m : TimeMsg) (hhall : s.irc.hall = false)
    (hstate : s.irc.state = .free) : s.exchange th m = { s.setCount (s.unitsNow - th) with irc :=
      { (s.setCount (s.unitsNow - th)).irc with state := .acquire, offsets := [], lastExch := s.clk, slew := 0 } } := by
  simp [State.exchange, hstate, hhall, State.setCount]

theorem State.unitsNow_setCount (s : State) (u : Int) :
    (s.setCount u).unitsNow = ((u.toNat % (65536 * 2 ^ 64) : Nat) : Int) := by
  have hsplit : u.toNat / 65536 % 2 ^ 64 * 65536 + u.toNat % 65536 = u.toNat % (65536 * 2 ^ 64) := by
    rw [Nat.mod_mul]
    omega
  exact congrArg Nat.cast hsplit

/-! ### What each instruction answers -/

theorem execTimeReqSend_of_due {s : State} (hon : s.on = true) (hstate : s.irc.state ≠ .fault)
    (hclk : s.clk % 16384 = 0) : exec .timeReqSend s = .next s.sendTimeReqs := by
  have hdue : (s.on && s.irc.state != .fault && s.clk % 16384 == 0) = true := by simp [hon, hstate, hclk]
  change due _ s s.sendTimeReqs = _
  rw [due, hdue, if_pos rfl]

/-- TIME_REQ to each neighbour, and nothing on another port. -/
theorem exec_timeReqSend (s : State) (hon : s.on = true) (hstate : s.irc.state ≠ .fault) (hclk : s.clk % 16384 = 0) :
    ∃ t : State, exec .timeReqSend s = .next t ∧
      (∀ p ∈ s.timePorts, ∃ m : TimeMsg, (t.port p).ctlQ = (s.port p).ctlQ ++ [.timeReq m] ∧
        m.locked = (s.irc.state == .locked) ∧ m.master = s.irc.master ∧ m.source = BitVec.ofNat 15 s.addr) ∧
      (∀ p, p ∉ s.timePorts → t.port p = s.port p) ∧
      t = { s with ports := t.ports, irc := { s.irc with reqSeq := t.irc.reqSeq } } := by
  refine ⟨_, execTimeReqSend_of_due hon hstate hclk, ?_⟩
  rw [State.sendTimeReqs_eq]
  exact ⟨fun _ => State.port_foldl_askTime_of_mem s.timePorts_nodup, fun _ => State.port_foldl_askTime_of_not_mem,
    State.foldl_askTime_only ..⟩

/-- A TIME_REQ leaves with T1, and what was asked stands until it is answered (04 R79, R80). -/
theorem exec_transmitFlit_timeReq {s : State} {p : BitVec 6} {m : TimeMsg} {l : List CtlMsg}
    (hpins : s.pins.floating = false) (hst : (s.port p.toNat).st = .active) (hviol : (s.paux p.toNat).violSince = 0)
    (hlink : (s.port p.toNat).linkQ = []) (hreplay : (s.port p.toNat).replay = [])
    (hctl : (s.port p.toNat).ctlQ = .timeReq m :: l) (hcredit : 0 < tget (s.port p.toNat).avail 1 0)
    (hroom : (s.port p.toNat).unacked.length < 4096) :
    ∃ t : State, exec (.transmitFlit p) s = .next t ∧
      (t.port p.toNat).wire.map TxFlit.pay = some (.ctl (.timeReq
        { m with t1 := countOf (s.unitsNow - psUnits (txDelay (s.stampLane p.toNat))) })) ∧
      t.irc.reqs = tset s.irc.reqs p.toNat
        { seq := m.seq, t1 := s.unitsNow - psUnits (txDelay (s.stampLane p.toNat)) } := by
  have hexec : exec (.transmitFlit p) s = .next (s.transmit p.toNat) := by
    change due (!s.pins.floating) s (s.transmit p.toNat) = _
    rw [due, hpins]
    rfl
  refine ⟨_, hexec, ?_⟩
  rw [State.transmit_of_ctl hst hviol hlink hreplay hctl hcredit hroom, State.wire_putSeq, State.putSeq_irc,
    ← State.stampLane_setPort_ctlQ s p.toNat l]
  exact ⟨rfl, rfl⟩

/-- A neighbour that is not LOCKED is noted, and sent no epochs. -/
theorem State.hear_of_not_locked {s : State} {p : Nat} {m : TimeMsg} (h : m.locked = false) :
    s.hear p m = (s.noted p m).reparent := by
  rw [State.hear_eq, State.newlyLocked, h]
  rfl

theorem State.hear_of_not_locked_only {s : State} {p : Nat} {m : TimeMsg} (h : m.locked = false) :
    s.hear p m = { s with irc := { s.irc with
      peers := (s.hear p m).irc.peers, gone := (s.hear p m).irc.gone, cands := (s.hear p m).irc.cands,
      parent := (s.hear p m).irc.parent, hops := (s.hear p m).irc.hops, masterAddr := (s.hear p m).irc.masterAddr,
      noMasterAt := (s.hear p m).irc.noMasterAt } } := by
  have hports : (s.hear p m).ports = s.ports := by
    rw [State.hear_of_not_locked h, State.reparent_only]
    rfl
  have honly := State.hear_only (s := s) (p := p) (Or.inr h)
  rw [hports, h] at honly
  exact honly

/-- A neighbour that is not LOCKED is found as its message says it is. -/
theorem State.tfind_peers_hear {s : State} {p : Nat} {m : TimeMsg} (h : m.locked = false) :
    tfind (s.hear p m).irc.peers p = some
      { addr := m.source.toNat, hops := m.hops.toNat, locked := false, candidate := m.candidate.toNat, heard := s.clk,
        delay := ((tfind s.irc.peers p).map (fun q => q.delay)).getD 0 } := by
  rw [State.hear_of_not_locked h, State.reparent_only, State.noted, tfind_tset, if_pos rfl, h]

/-- The answer to a TIME_REQ; T3 is stamped as it leaves. -/
def State.timeAnswer (s : State) (p : Nat) (m : TimeMsg) : TimeMsg :=
  (s.hear p m).timeMsg m.seq m.t1 (s.rxStamp (s.stampRxLane p)) noCount

theorem execTimeReq_of_due {s : State} {p : BitVec 6} {m : TimeMsg} (hon : s.on = true) (hstate : s.irc.state ≠ .fault)
    (hport : s.timePort p.toNat = true) :
    exec (.timeReq p m) s = .next ((s.hear p.toNat m).sendCtl p.toNat (.timeResp (s.timeAnswer p.toNat m))) := by
  have hdue : (s.on && s.irc.state != .fault && s.timePort p.toNat) = true := by simp [hon, hstate, hport]
  change execTimeReq p m s = _
  unfold execTimeReq State.timeAnswer
  rw [due, hdue, if_pos rfl]

/-- A TIME_REQ of a neighbour that is not LOCKED is answered with T2, and the neighbour is noted. -/
theorem exec_timeReq (s : State) (p : BitVec 6) (m : TimeMsg) (hon : s.on = true) (hstate : s.irc.state ≠ .fault)
    (hport : s.timePort p.toNat = true) (hlocked : m.locked = false) :
    ∃ (t : State) (r : TimeMsg), exec (.timeReq p m) s = .next t ∧
      t.port p.toNat = { s.port p.toNat with ctlQ := (s.port p.toNat).ctlQ ++ [.timeResp r] } ∧
      r.seq = m.seq ∧ r.t1 = m.t1 ∧ r.t2 = s.rxStamp (s.stampRxLane p.toNat) ∧ r.locked = (s.irc.state == .locked) ∧
      tfind t.irc.peers p.toNat = some
        { addr := m.source.toNat, hops := m.hops.toNat, locked := false, candidate := m.candidate.toNat,
          heard := s.clk, delay := ((tfind s.irc.peers p.toNat).map (fun q => q.delay)).getD 0 } ∧
      t = { s with ports := t.ports, irc := { s.irc with
        peers := t.irc.peers, hops := t.irc.hops, parent := t.irc.parent, masterAddr := t.irc.masterAddr,
        noMasterAt := t.irc.noMasterAt, cands := t.irc.cands, gone := t.irc.gone } } := by
  have honly := State.hear_of_not_locked_only (s := s) (p := p.toNat) hlocked
  refine ⟨_, s.timeAnswer p.toNat m, execTimeReq_of_due hon hstate hport, ?_, rfl, rfl, rfl, ?_, ?_, ?_⟩
  · rw [State.port_sendCtl_self, honly]
    rfl
  · rw [State.timeAnswer, State.timeMsg, honly]
  · exact State.tfind_peers_hear hlocked
  · generalize s.timeAnswer p.toNat m = r
    rw [honly]
    rfl

/-! ### TIME_RESP (04 R81) -/

/-- A TIME_RESP whose SEQ is not that of the request outstanding does not count. -/
theorem exec_timeResp_of_seq_ne (s : State) (p : BitVec 6) (m : TimeMsg) (r : TimeOut)
    (hreq : tfind s.irc.reqs p.toNat = some r) (hseq : r.seq ≠ m.seq) : exec (.timeResp p m) s = .next s := by
  change execTimeResp p m s = _
  unfold execTimeResp
  simp [hreq, hseq]

/-- No request outstanding on a port. -/
def State.closeReq (s : State) (p : Nat) : State := { s with irc := { s.irc with reqs := tdel s.irc.reqs p } }

/-- The path delay to a neighbour, noted. -/
def State.noteDelay (s : State) (p : Nat) (d : Int) : State :=
  { s with irc := { s.irc with peers := s.irc.peers.map (fun e => if e.1 = p then (p, { e.2 with delay := d }) else e) } }

/-- The exchange that the answer `m` to the request `r` completes, once its sender is heard (04 R81). -/
def State.completeExchange (s : State) (p : Nat) (m : TimeMsg) (r : TimeOut) : Host.Outcome State Fault Refusal :=
  let t4 := cUnits (s.rxStamp (s.stampRxLane p))
  let th := ((t4 - cUnits m.t3) - (cUnits m.t2 - r.t1)) / 2
  let u := s.noteDelay p (((t4 - r.t1) - (cUnits m.t3 - cUnits m.t2)) / 2)
  if !u.irc.master && m.source.toNat == u.irc.parent && u.irc.hops != 0xFF && m.locked && m.hops != 0xFF then
    .next (u.exchange th m)
  else .next u

/-- What is known once the request of a port is answered: the neighbour is heard, and the path delay is noted. -/
def State.answered (s : State) (p : Nat) (m : TimeMsg) (d : Int) : State :=
  ((s.closeReq p).hear p m).noteDelay p d

/-- What an answer leaves of a Fixus that is not the master. -/
theorem State.answered_only {s : State} {p : Nat} {m : TimeMsg} {d : Int} (hmaster : s.irc.master = false) :
    s.answered p m d = { s with
      ports := (s.answered p m d).ports
      irc := { s.irc with
        reqs := (s.answered p m d).irc.reqs, peers := (s.answered p m d).irc.peers,
        noLockedAt := (s.answered p m d).irc.noLockedAt, gone := (s.answered p m d).irc.gone,
        cands := (s.answered p m d).irc.cands, parent := (s.answered p m d).irc.parent,
        hops := (s.answered p m d).irc.hops, masterAddr := (s.answered p m d).irc.masterAddr,
        noMasterAt := (s.answered p m d).irc.noMasterAt } } := by
  rw [State.answered, State.hear_only (s := s.closeReq p) (Or.inl hmaster)]
  rfl

theorem execTimeResp_eq (p : BitVec 6) (m : TimeMsg) (s : State) : execTimeResp p m s =
    match tfind s.irc.reqs p.toNat with
    | none => .next s
    | some r =>
      if !s.on || s.irc.state == .fault || r.seq != m.seq then .next s
      else ((s.closeReq p.toNat).hear p.toNat m).completeExchange p.toNat m r := rfl

/-- An answer to the request outstanding disciplines the count where it is of the parent, and the parent has a master. -/
theorem execTimeResp_of_answered {s : State} {p : BitVec 6} {m : TimeMsg} {r : TimeOut} {t4 d th : Int} (hon : s.on = true)
    (hreq : tfind s.irc.reqs p.toNat = some r) (hseq : r.seq = m.seq) (hmaster : s.irc.master = false)
    (hstate : s.irc.state ≠ .fault) (ht4 : t4 = cUnits (s.rxStamp (s.stampRxLane p.toNat)))
    (hd : d = ((t4 - r.t1) - (cUnits m.t3 - cUnits m.t2)) / 2) (hlocked : m.locked = true) (hhops : m.hops ≠ 0xFF)
    (hth : th = ((t4 - cUnits m.t3) - (cUnits m.t2 - r.t1)) / 2) :
    exec (.timeResp p m) s = .next
      (if (s.answered p.toNat m d).irc.parent = m.source.toNat ∧ (s.answered p.toNat m d).irc.hops ≠ 0xFF then
        (s.answered p.toNat m d).exchange th m else s.answered p.toNat m d) := by
  have hkeep : (s.answered p.toNat m d).irc.master = false := by
    rw [State.answered_only hmaster]
    exact hmaster
  have hopen : (!s.on || s.irc.state == .fault || r.seq != m.seq) = false := by simp [hon, hstate, hseq]
  have hstep : exec (.timeResp p m) s = ((s.closeReq p.toNat).hear p.toNat m).completeExchange p.toNat m r := by
    change execTimeResp p m s = _
    rw [execTimeResp_eq, hreq]
    exact if_neg (ne_true_of_eq_false hopen)
  have hrx : cUnits (((s.closeReq p.toNat).hear p.toNat m).rxStamp
      (((s.closeReq p.toNat).hear p.toNat m).stampRxLane p.toNat)) = t4 := by
    rw [ht4, State.rxStamp_hear (s := s.closeReq p.toNat) (Or.inl hmaster)]
    rfl
  rw [hstep, State.completeExchange, hrx, ← hd, ← hth, ← State.answered]
  generalize s.answered p.toNat m d = u at hkeep ⊢
  have hcond : (!u.irc.master && m.source.toNat == u.irc.parent && u.irc.hops != 0xFF && m.locked && m.hops != 0xFF) =
      decide (u.irc.parent = m.source.toNat ∧ u.irc.hops ≠ 0xFF) := by
    rw [hkeep, hlocked, bne_iff_ne.mpr hhops, Bool.eq_iff_iff]
    simp only [Bool.not_false, Bool.true_and, Bool.and_true, Bool.and_eq_true, beq_iff_eq, bne_iff_ne, decide_eq_true_eq]
    exact and_congr_left fun _ => eq_comm
  simp only [hcond, decide_eq_true_eq, apply_ite Host.Outcome.next]

/-- What an answer does to the lock state and the count (04 R81, R84). -/
theorem exec_timeResp (s u v : State) (p : BitVec 6) (m : TimeMsg) (r : TimeOut) (th d t4 : Int) (hon : s.on = true)
    (hreq : tfind s.irc.reqs p.toNat = some r) (hseq : r.seq = m.seq) (hhall : s.irc.hall = false)
    (hmaster : s.irc.master = false) (hstate : s.irc.state ≠ .fault)
    (hv : v = State.hear { s with irc := { s.irc with reqs := tdel s.irc.reqs p.toNat } } p.toNat m)
    (ht4 : t4 = cUnits (s.rxStamp (s.stampRxLane p.toNat)))
    (hd : d = ((t4 - r.t1) - (cUnits m.t3 - cUnits m.t2)) / 2)
    (hu : u = { v with irc := { v.irc with
      peers := v.irc.peers.map (fun e => if e.1 = p.toNat then (p.toNat, { e.2 with delay := d }) else e) } })
    (hlocked : m.locked = true) (hhops : m.hops ≠ 0xFF) (hth : th = ((t4 - cUnits m.t3) - (cUnits m.t2 - r.t1)) / 2) :
    (u.irc.parent ≠ m.source.toNat ∨ u.irc.hops = 0xFF → exec (.timeResp p m) s = .next u) ∧
    (u.irc.parent = m.source.toNat → u.irc.hops ≠ 0xFF → s.irc.state = .holdover → absLe th 32768 = true →
      ∃ t : State, exec (.timeResp p m) s = .next t ∧ t.irc.state = .locked ∧ t.irc.slew = th ∧ t.irc.rate = th ∧
        t.pins.barLow = (s.pins.barLow || s.pins.barFor.isNone) ∧
        t = { u with
          irc := { u.irc with
            state := .locked, offsets := t.irc.offsets, lastExch := s.clk, slew := th, rate := th, rateOver := t.irc.rateOver },
          pins := { u.pins with barLow := t.pins.barLow } }) ∧
    (u.irc.parent = m.source.toNat → u.irc.hops ≠ 0xFF → s.irc.state = .holdover → absLe th 32768 = false →
      ∃ t : State, exec (.timeResp p m) s = .next t ∧ t.irc.state = .fault ∧ t.sys.outOfService = true ∧
        t.pins.barLow = false) ∧
    (u.irc.parent = m.source.toNat → u.irc.hops ≠ 0xFF → s.irc.state = .acquire → s.irc.offsets.length = 7 →
      absLe ((s.irc.offsets ++ [th]).foldl (· + ·) 0 / 8) 16384 = true →
      ∃ t : State, exec (.timeResp p m) s = .next t ∧ t.irc.state = .locked) ∧
    (u.irc.parent = m.source.toNat → u.irc.hops ≠ 0xFF → s.irc.state = .free →
      ∃ t : State, exec (.timeResp p m) s = .next t ∧ t.irc.state = .acquire ∧
        t.unitsNow = (s.unitsNow - th).toNat % (65536 * 2 ^ 64)) := by
  subst hv
  obtain rfl : u = s.answered p.toNat m d := hu
  have hexec := execTimeResp_of_answered hon hreq hseq hmaster hstate ht4 hd hlocked hhops hth
  have honly := State.answered_only (p := p.toNat) (m := m) (d := d) hmaster
  generalize s.answered p.toNat m d = u at hexec honly ⊢
  have hparent (hp : u.irc.parent = m.source.toNat) (hh : u.irc.hops ≠ 0xFF) :
      exec (.timeResp p m) s = .next (u.exchange th m) := by rw [hexec, if_pos ⟨hp, hh⟩]
  have huhall : u.irc.hall = false := by rw [honly]; exact hhall
  have hustate : u.irc.state = s.irc.state := by rw [honly]
  have huoffsets : u.irc.offsets = s.irc.offsets := by rw [honly]
  have huclk : u.clk = s.clk := by rw [honly]
  have hupins : u.pins = s.pins := by rw [honly]
  have huunits : u.unitsNow = s.unitsNow := by rw [honly]; rfl
  clear honly
  refine ⟨fun hnot => ?_, fun hp hh hhold hnear => ?_, fun hp hh hhold hfar => ?_, fun hp hh hacq hseven hmean => ?_,
    fun hp hh hfree => ?_⟩
  · rw [hexec, if_neg (by tauto)]
  · refine ⟨_, hparent hp hh, ?_⟩
    rw [State.exchange_of_holdover th m huhall (hustate.trans hhold), if_pos hnear, ← hupins, ← huclk]
    exact ⟨rfl, rfl, rfl, rfl, rfl⟩
  · refine ⟨_, hparent hp hh, ?_⟩
    rw [State.exchange_of_holdover th m huhall (hustate.trans hhold), hfar, if_neg Bool.false_ne_true]
    exact State.timeFault_spec ..
  · refine ⟨_, hparent hp hh, ?_⟩
    rw [← huoffsets] at hseven hmean
    rw [State.exchange_of_acquired m huhall (hustate.trans hacq) hseven hmean]
    rfl
  · refine ⟨_, hparent hp hh, ?_⟩
    rw [State.exchange_of_free th m huhall (hustate.trans hfree), ← huunits]
    exact ⟨rfl, State.unitsNow_setCount u _⟩

/-- Settles O32: requests and their stamps (`exec_timeReqSend`, `exec_transmitFlit_timeReq`), the answer (`exec_timeReq`), and
what an answer that counts makes of the count and the lock state (`exec_timeResp`). -/
theorem timeExchanges : Obligations.TimeExchanges := by
  refine ⟨exec_timeReqSend, ?_, exec_timeReq, exec_timeResp_of_seq_ne, exec_timeResp⟩
  rintro s p m l _ hpins hst hviol hlink hreplay hctl hcredit hroom rfl
  obtain ⟨t, hexec, hwire, hreqs⟩ := exec_transmitFlit_timeReq hpins hst hviol hlink hreplay hctl hcredit hroom
  refine ⟨t, hexec, hwire, ?_, fun q hq => ?_⟩
  · rw [hreqs, tfind_tset, if_pos rfl]
  · rw [hreqs, tfind_tset, if_neg (Ne.symm hq)]

end Sys2Proof.Machine

/-! The reset state: what the register tables give (05 Table 5.7, 06 Table 6.13, 07 Tables 7.9 and 7.12, 12 R329, 14 Table
14.14), for every port, lane and stack from that of the first. -/

namespace Sys2Proof.Machine

/-! ### Reset values by address -/

theorem State.reset_cfgAt (a : Nat) : State.reset.cfgAt a = cfgReset a := rfl

/-- The registers of every port reset as those of port 0. -/
theorem cfgReset_aPrt {p o : Nat} (hp : p < 64) (ho : o < 0x4000) : cfgReset (aPrt p + o) = cfgReset (aPrt 0 + o) := by
  have hlow : ¬ 0x400000 + 0x4000 * p + o < 0x400000 := by omega
  have hhigh : 0x400000 + 0x4000 * p + o < 0x500000 := by omega
  have hlow0 : ¬ 0x400000 + 0x4000 * 0 + o < 0x400000 := by omega
  have hhigh0 : 0x400000 + 0x4000 * 0 + o < 0x500000 := by omega
  have hoffset : (0x400000 + 0x4000 * p + o) % 0x4000 = (0x400000 + 0x4000 * 0 + o) % 0x4000 := by omega
  unfold cfgReset aPrt
  rw [if_neg hlow, if_pos hhigh, if_neg hlow0, if_pos hhigh0, hoffset]

/-- LNK_THRESH resets alike on every lane. -/
theorem cfgReset_lnkThresh {l : Nat} (hl : l < 256) : cfgReset (aLnk l + 0x18) = 0x0D0380C0 := by
  have hlow : ¬ 0x600000 + 0x1000 * l + 0x18 < 0x400000 := by omega
  have hport : ¬ 0x600000 + 0x1000 * l + 0x18 < 0x500000 := by omega
  have hlane : 0x600000 ≤ 0x600000 + 0x1000 * l + 0x18 ∧ 0x600000 + 0x1000 * l + 0x18 < 0x700000 := by omega
  have hoffset : (0x600000 + 0x1000 * l + 0x18) % 0x1000 = 0x18 := by omega
  unfold cfgReset aLnk
  rw [if_neg hlow, if_neg hport, if_pos (by simpa using hlane), if_pos hoffset]

/-- The scheduler's registers of a port: the weights, the shapers' limits, and the others, which reset to 0. -/
theorem cfgReset_aSchPort {p o : Nat} (hp : p < 64) (ho : o < 0x100) : cfgReset (aSchPort p + o) =
    if o = 0x20 then 0x08102040 else if 0x50 ≤ o && o ≤ 0x5C then 0x01000400 else 0 := by
  have hlow : aSchPort p + o < 0x400000 := by unfold aSchPort aSch; omega
  have hfirst : aSch + 0x10000 ≤ aSchPort p + o := by unfold aSchPort; omega
  have hlast : aSchPort p + o < aSch + 0x14000 := by unfold aSchPort; omega
  have hoffset : (aSchPort p + o) % 0x100 = o := by unfold aSchPort aSch; omega
  generalize aSchPort p + o = a at hlow hfirst hlast hoffset
  unfold aSch at hfirst hlast
  have hflt : ¬ (decide (a = aFlt + 0x8) || decide (a = aFlt + 0xC)) = true := by
    simp only [Bool.or_eq_true, decide_eq_true_eq]
    unfold aFlt
    omega
  have hmbx : ¬ a = aMbx + 0x10000 := by unfold aMbx; omega
  have hsld {b : Nat} (hb : b < 0x100000) : ¬ a = aSld + b := by unfold aSld; omega
  have hpool {b c : Nat} (hc : c < 0x100000) : ¬ (decide (aSld + b ≤ a) && decide (a < aSld + c)) = true := by
    simp only [Bool.and_eq_true, decide_eq_true_eq]
    unfold aSld
    omega
  have hsch : (decide (aSch + 0x10000 ≤ a) && decide (a < aSch + 0x14000)) = true := by
    simp only [Bool.and_eq_true, decide_eq_true_eq]
    unfold aSch
    omega
  unfold cfgReset
  rw [if_pos hlow, if_neg hflt, if_neg hmbx, if_neg (hsld (by decide)), if_neg (hsld (by decide)), if_neg (hsld (by decide)),
    if_neg (hsld (by decide)), if_neg (hsld (by decide)), if_neg (hsld (by decide)), if_neg (hpool (by decide)),
    if_neg (hpool (by decide)), if_neg (hpool (by decide)), if_pos hsch, hoffset]

/-- ING_SCRUB_CFG resets alike on every stack. -/
theorem cfgReset_scrub {k : Nat} (hk : k < 4) : cfgReset (aIng k + 0x20) = 36000 := by
  have hlist : ∀ k < 4, cfgReset (aIng k + 0x20) = 36000 := by decide
  exact hlist k hk

/-! ### Right after reset -/

theorem State.reset_inv : State.reset.Inv := by
  refine ⟨?_, ?_, ?_, by decide, ?_, List.nodup_nil⟩ <;> exact List.forall_mem_nil _

theorem State.reset_shaperOn {p k : Nat} (hp : p < 64) (hk : k < 4) : State.reset.shaperOn p k = false := by
  have hoff : cfgReset (aSchPort p + (0x40 + 4 * k)) = 0 := by
    rw [cfgReset_aSchPort hp (by omega), if_neg (by omega), if_neg (by simp; omega)]
  rw [State.shaperOn, State.reset_cfgAt, aShaper, Nat.add_assoc, hoff]
  decide

/-- Settles O53: the registers by their reset values (`State.reset_cfgAt`), and the rest as the state is written. -/
theorem resetState : Obligations.ResetState := by
  have hport {p : Nat} (hp : p < 64) : cfgReset (aPrt p + 0) = 6 := cfgReset_aPrt hp (by decide)
  have hthresh {l : Nat} (hl : l < 256) : State.reset.cfgAt (aLnk l + 0x18) = 0x0D0380C0 := cfgReset_lnkThresh hl
  refine ⟨State.reset_inv, rfl, rfl, rfl, rfl, rfl, fun _ => rfl, fun _ => rfl, fun _ => rfl, rfl, rfl, rfl, rfl, rfl,
    fun p hp => ⟨hport hp, cfgReset_aPrt hp (by decide), cfgReset_aPrt hp (by decide), cfgReset_aPrt hp (by decide),
      cfgReset_aPrt hp (by decide), cfgReset_aPrt hp (by decide), cfgReset_aSchPort hp (by decide),
      fun k hk => State.reset_shaperOn hp hk⟩,
    fun l hl => ?_, rfl, rfl, rfl, rfl, rfl, rfl, rfl, rfl, rfl, fun k hk => cfgReset_scrub hk⟩
  simp only [State.trainAt, State.warnAt, State.failAt, hthresh hl]
  decide

end Sys2Proof.Machine

/-! The figure of merit (05 R117): the search finds the greatest step of 1/16 dB that is not above the ratio. -/

namespace Sys2Proof.Machine

theorem fomAtLeast_iff {d v n : Nat} : fomAtLeast d v n = true ↔ 10 ^ n * (9 * v) ^ 160 ≤ d ^ 320 :=
  decide_eq_true_iff

theorem fomAboveMinus_iff {d v : Nat} : fomAboveMinus d v = true ↔ (9 * v) ^ 160 < 10 * d ^ 320 :=
  decide_eq_true_iff

/-- A ratio that reaches a step reaches every smaller one. -/
theorem fomAtLeast_mono {d v m n : Nat} (hmn : m ≤ n) (h : fomAtLeast d v n = true) : fomAtLeast d v m = true := by
  rw [fomAtLeast_iff] at h ⊢
  exact (Nat.mul_le_mul_right _ (Nat.pow_le_pow_right (by decide) hmn)).trans h

/-- Where the lower end is reached and the upper is not, the search finds the greatest step that is reached. -/
theorem fomSearch_spec {d v k lo : Nat} (hlow : fomAtLeast d v lo = true) (hhigh : fomAtLeast d v (lo + 2 ^ k) = false) :
    fomAtLeast d v (fomSearch d v k lo) = true ∧ fomAtLeast d v (fomSearch d v k lo + 1) = false := by
  induction k generalizing lo with
  | zero => exact ⟨hlow, hhigh⟩
  | succ k ih =>
    rw [fomSearch]
    cases hmid : fomAtLeast d v (lo + 2 ^ k) with
    | true =>
      refine ih hmid ?_
      rwa [if_pos rfl, Nat.add_assoc, ← Nat.two_mul, ← Nat.pow_succ']
    | false => exact ih hlow hmid

/-- Where no step above the lower end is reached, the search stays there. -/
theorem fomSearch_eq_self {d v k lo : Nat} (h : ∀ n, lo < n → fomAtLeast d v n = false) : fomSearch d v k lo = lo := by
  induction k with
  | zero => rfl
  | succ k ih => rw [fomSearch, h _ (Nat.lt_add_of_pos_right (Nat.two_pow_pos k)), if_neg Bool.false_ne_true, ih]

/-- Only one step is the greatest that is reached. -/
theorem fomAtLeast_greatest_unique {d v m n : Nat} (hm : fomAtLeast d v m = true) (hm' : fomAtLeast d v (m + 1) = false)
    (hn : fomAtLeast d v n = true) (hn' : fomAtLeast d v (n + 1) = false) : m = n := by
  refine Nat.le_antisymm (Nat.le_of_not_lt fun hlt => ?_) (Nat.le_of_not_lt fun hlt => ?_)
  · exact absurd (fomAtLeast_mono hlt hm) (by simp [hn'])
  · exact absurd (fomAtLeast_mono hlt hn) (by simp [hm'])

/-- A figure of 0 dB or more lies above −1/16 dB. -/
theorem fomAboveMinus_of_fomAtLeast {d v n : Nat} (hd : 0 < d) (h : fomAtLeast d v n = true) :
    fomAboveMinus d v = true := by
  have hzero := fomAtLeast_iff.mp (fomAtLeast_mono (Nat.zero_le n) h)
  have hpos (k : Nat) : 0 < d ^ k := Nat.pow_pos hd
  rw [Nat.pow_zero, Nat.one_mul] at hzero
  exact fomAboveMinus_iff.mpr (hzero.trans_lt (lt_mul_of_one_lt_left (hpos _) (by decide)))

/-- The value of a window by its eye and its noise. -/
theorem fomValue_eq {f : FomSample} {d v : Nat} (heye : f.mu3 - f.mu0 = d) (hnoise : v = f.var0 + f.var1 + f.var2 + f.var3)
    (hd : 0 < d) (hv : 0 < v) : fomValue f =
      if !fomAboveMinus d v || fomAtLeast d v 1024 then none else some (fomSearch d v 10 0) := by
  have hpos : ¬ (d : Int) ≤ 0 := by omega
  subst hnoise
  simp only [fomValue, heye, hpos, hv.ne', Int.toNat_natCast, decide_false, Bool.false_or]

/-- The value of a window that reaches 0 dB is the greatest step that it reaches, where the field holds it. -/
theorem fomValue_eq_some_iff_of_nonneg {f : FomSample} {n d v : Nat} (heye : f.mu3 - f.mu0 = d)
    (hnoise : v = f.var0 + f.var1 + f.var2 + f.var3) (hd : 0 < d) (hv : 0 < v) (hzero : fomAtLeast d v 0 = true) :
    fomValue f = some n ↔ n < 1024 ∧ fomAtLeast d v n = true ∧ fomAtLeast d v (n + 1) = false := by
  rw [fomValue_eq heye hnoise hd hv, fomAboveMinus_of_fomAtLeast hd hzero]
  cases hfull : fomAtLeast d v 1024 with
  | true =>
    simp only [Bool.or_true, if_true, reduceCtorEq, false_iff, not_and, Bool.not_eq_false]
    exact fun hlt _ => fomAtLeast_mono hlt hfull
  | false =>
    obtain ⟨hreached, hnext⟩ := fomSearch_spec (k := 10) hzero hfull
    simp only [Bool.not_true, Bool.or_self, Bool.false_eq_true, if_false, Option.some.injEq]
    constructor
    · rintro rfl
      refine ⟨Nat.lt_of_not_le fun hle => ?_, hreached, hnext⟩
      exact absurd (fomAtLeast_mono hle hreached) (by simp [hfull])
    · exact fun ⟨_, hn, hn'⟩ => fomAtLeast_greatest_unique hreached hnext hn hn'

/-- The value of a window below 0 dB is 0 where it lies above −1/16 dB. -/
theorem fomValue_eq_some_iff_of_neg {f : FomSample} {n d v : Nat} (heye : f.mu3 - f.mu0 = d)
    (hnoise : v = f.var0 + f.var1 + f.var2 + f.var3) (hd : 0 < d) (hv : 0 < v) (hzero : fomAtLeast d v 0 = false) :
    fomValue f = some n ↔ n = 0 ∧ fomAboveMinus d v = true := by
  have hnone (m : Nat) : fomAtLeast d v m = false := by
    rw [← Bool.not_eq_true] at hzero ⊢
    exact mt (fomAtLeast_mono (Nat.zero_le m)) hzero
  rw [fomValue_eq heye hnoise hd hv, hnone, fomSearch_eq_self fun m _ => hnone m]
  cases fomAboveMinus d v <;> simp [eq_comm]

/-- Settles O28: at 0 dB and above the search gives the greatest step reached (`fomValue_eq_some_iff_of_nonneg`), below it the
value is 0 (`fomValue_eq_some_iff_of_neg`). -/
theorem figureOfMeritIsFloor : Obligations.FigureOfMeritIsFloor := by
  intro f n d v heye hnoise hd hv
  have hstep (m : Nat) : fomAtLeast d v m = false ↔ d ^ 320 < 10 ^ m * (9 * v) ^ 160 := by
    rw [← Bool.not_eq_true, fomAtLeast_iff, Nat.not_le]
  have hbelow : fomAtLeast d v 0 = false ↔ d ^ 320 < (9 * v) ^ 160 := by rw [hstep, Nat.pow_zero, Nat.one_mul]
  rw [← fomAtLeast_iff, ← hstep, ← hbelow, ← fomAboveMinus_iff]
  cases hzero : fomAtLeast d v 0 with
  | true => simpa using fomValue_eq_some_iff_of_nonneg heye hnoise hd hv hzero
  | false =>
    have hn : fomAtLeast d v n ≠ true := fun h => absurd (fomAtLeast_mono (Nat.zero_le n) h) (by simp [hzero])
    simpa [hn] using fomValue_eq_some_iff_of_neg heye hnoise hd hv hzero

end Sys2Proof.Machine

/-! Rules of the state that lanes and ports share (spec 05): tables written twice, what stands apart, counters, the fault
collector's class C, messages that wait, flits that leave, and folds over the lanes of a port. -/

namespace Sys2Proof.Machine

/-! ### Writing twice, and what stands apart -/

/-- What is set under a key last stands there. -/
theorem tset_tset_self {α : Type} (t : Tbl α) (k : Nat) (v w : α) : tset (tset t k v) k w = tset t k w := by
  induction t with
  | nil => simp [tset]
  | cons e t ih =>
    obtain ⟨j, u⟩ := e
    rcases Nat.lt_trichotomy k j with hlt | rfl | hgt
    · simp [tset, hlt]
    · simp [tset]
    · simp [tset, Nat.lt_asymm hgt, Nat.ne_of_gt hgt, ih]

theorem due_of_true {c : Bool} {s t : State} (h : c = true) : due c s t = .next t := by rw [due, if_pos h]

section
variable (s : State)

theorem State.setPort_setPort (p : Nat) (v w : Port) : (s.setPort p v).setPort p w = s.setPort p w := by
  simp only [State.setPort, tset_tset_self]

@[simp] theorem State.port_setLane (l p : Nat) (v : Lane) : (s.setLane l v).port p = s.port p := rfl
@[simp] theorem State.paux_setLane (l p : Nat) (v : Lane) : (s.setLane l v).paux p = s.paux p := rfl
@[simp] theorem State.lane_setPort (p l : Nat) (v : Port) : (s.setPort p v).lane l = s.lane l := rfl
@[simp] theorem State.paux_setPort (p j : Nat) (v : Port) : (s.setPort p v).paux j = s.paux j := rfl
@[simp] theorem State.lane_setPaux (p l : Nat) (v : PortAux) : (s.setPaux p v).lane l = s.lane l := rfl
@[simp] theorem State.port_setPaux (p j : Nat) (v : PortAux) : (s.setPaux p v).port j = s.port j := rfl

/-! ### Counters -/

theorem State.bump_only (a n : Nat) : s.bump a n = { s with cnt := (s.bump a n).cnt } := by
  unfold State.bump
  split <;> rfl

@[simp] theorem State.port_bump (a n p : Nat) : (s.bump a n).port p = s.port p := by rw [State.bump_only]; rfl
@[simp] theorem State.lane_bump (a n l : Nat) : (s.bump a n).lane l = s.lane l := by rw [State.bump_only]; rfl
@[simp] theorem State.paux_bump (a n p : Nat) : (s.bump a n).paux p = s.paux p := by rw [State.bump_only]; rfl

theorem State.cntAt_bump (a n b : Nat) : (s.bump a n).cntAt b = s.cntAt b + if a = b then n else 0 := by
  unfold State.bump
  split
  · next h => simp [h]
  · refine tget_tset.trans ?_
    split
    · next h => rw [h]
    · rfl

@[simp] theorem State.cntAt_bump_self (a n : Nat) : (s.bump a n).cntAt a = s.cntAt a + n := by
  rw [State.cntAt_bump, if_pos rfl]

theorem State.cntAt_bump_of_ne {a n b : Nat} (h : a ≠ b) : (s.bump a n).cntAt b = s.cntAt b := by
  rw [State.cntAt_bump, if_neg h, Nat.add_zero]

/-- The registers of a port lie below those of the lanes (13 Table 13.13). -/
theorem aLnk_ne_aPrt {l p a b : Nat} (hp : p < 64) (hb : b < 0x4000) : aLnk l + a ≠ aPrt p + b := by
  unfold aLnk aPrt
  omega

/-! ### Messages that wait -/

@[simp] theorem State.lane_sendLink (p l : Nat) (m : LinkMsg) : (s.sendLink p m).lane l = s.lane l := rfl
@[simp] theorem State.paux_sendLink (p j : Nat) (m : LinkMsg) : (s.sendLink p m).paux j = s.paux j := rfl
@[simp] theorem State.lane_sendSide (p l : Nat) (m : SideMsg) : (s.sendSide p m).lane l = s.lane l := rfl
@[simp] theorem State.paux_sendSide (p j : Nat) (m : SideMsg) : (s.sendSide p m).paux j = s.paux j := rfl

theorem State.port_sendLink (p j : Nat) (m : LinkMsg) : (s.sendLink p m).port j =
    if p = j then { s.port p with linkQ := (s.port p).linkQ ++ [m] } else s.port j := State.port_setPort ..

@[simp] theorem State.port_sendLink_self (p : Nat) (m : LinkMsg) :
    (s.sendLink p m).port p = { s.port p with linkQ := (s.port p).linkQ ++ [m] } := State.port_setPort_self ..

theorem State.port_sendSide (p j : Nat) (m : SideMsg) : (s.sendSide p m).port j =
    if p = j then { s.port p with sideQ := (s.port p).sideQ ++ [m] } else s.port j := State.port_setPort ..

@[simp] theorem State.port_sendSide_self (p : Nat) (m : SideMsg) :
    (s.sendSide p m).port p = { s.port p with sideQ := (s.port p).sideQ ++ [m] } := State.port_setPort_self ..

/-- A message put behind what was just written to a port. -/
theorem State.sendLink_setPort (p : Nat) (v : Port) (m : LinkMsg) :
    (s.setPort p v).sendLink p m = s.setPort p { v with linkQ := v.linkQ ++ [m] } := by
  rw [State.sendLink, State.port_setPort_self, State.setPort_setPort]

/-! ### Errors of class C (14 R381) -/

/-- An error of class C never moves FAULT_N. -/
theorem State.record_classC_only (dk di src info : Nat) : s.record 0 dk di src info =
    { s with flt := (s.record 0 dk di src info).flt, cnt := (s.record 0 dk di src info).cnt } := by
  unfold State.record
  split
  · rfl
  · dsimp only
    split
    all_goals
      split
      · simp only [Nat.zero_ne_one, if_false]
        rfl
      · rfl

/-- An error counts in no register but that of the records lost. -/
theorem State.cntAt_record {a : Nat} (cls dk di src info : Nat) (h : a ≠ aFlt + 0x1C) :
    (s.record cls dk di src info).cntAt a = s.cntAt a := by
  have hpulse (t : State) : t.pulse.cntAt a = t.cntAt a := by
    unfold State.pulse
    split <;> rfl
  unfold State.record
  split
  · dsimp only
    split
    · exact hpulse _
    · rfl
  · dsimp only
    split
    all_goals
      split
      · split
        · exact s.cntAt_bump_of_ne h.symm
        · exact s.cntAt_bump_of_ne h.symm
      · split
        · exact hpulse _
        · rfl

end

@[simp] theorem State.port_record (s : State) (cls dk di src info p : Nat) :
    (s.record cls dk di src info).port p = s.port p := by rw [State.record_only]; rfl
@[simp] theorem State.lane_record (s : State) (cls dk di src info l : Nat) :
    (s.record cls dk di src info).lane l = s.lane l := by rw [State.record_only]; rfl
@[simp] theorem State.paux_record (s : State) (cls dk di src info p : Nat) :
    (s.record cls dk di src info).paux p = s.paux p := by rw [State.record_only]; rfl

/-! ### Folds over the lanes of a port -/

/-- Steps that change lanes alone change lanes alone together. -/
theorem State.foldl_lanes_only {α : Type} {g : State → α → State} {l : List α} {s : State}
    (h : ∀ t x, g t x = { t with lanes := (g t x).lanes }) : l.foldl g s = { s with lanes := (l.foldl g s).lanes } := by
  induction l generalizing s with
  | nil => rfl
  | cons x l ih =>
    rw [List.foldl_cons, ih]
    generalize (l.foldl g (g s x)).lanes = lanes
    rw [h]

section
variable {g : State → Nat → State} {p : Nat} (hother : ∀ t i k, k ≠ 4 * p + i → (g t i).lane k = t.lane k)
include hother

/-- Steps that each change one lane of a port leave every other lane. -/
theorem State.lane_foldl_of_not_mem {l : List Nat} {s : State} {k : Nat} (hk : ∀ i ∈ l, k ≠ 4 * p + i) :
    (l.foldl g s).lane k = s.lane k := by
  induction l generalizing s with
  | nil => rfl
  | cons i l ih =>
    obtain ⟨hi, hl⟩ := List.forall_mem_cons.mp hk
    exact (ih hl).trans (hother s i k hi)

/-- What such steps make of a lane is what its own step makes of it. -/
theorem State.lane_foldl_of_mem {l : List Nat} {s : State} {j : Nat} (hnodup : l.Nodup) (hj : j ∈ l) :
    ∃ t : State, t.lane (4 * p + j) = s.lane (4 * p + j) ∧ (l.foldl g s).lane (4 * p + j) = (g t j).lane (4 * p + j) := by
  induction l generalizing s with
  | nil => cases hj
  | cons i l ih =>
    obtain ⟨hi, hl⟩ := List.nodup_cons.mp hnodup
    rw [List.foldl_cons]
    rcases List.mem_cons.mp hj with rfl | hmem
    · refine ⟨s, rfl, State.lane_foldl_of_not_mem hother fun i hil => ?_⟩
      have hne : i ≠ j := fun heq => hi (heq ▸ hil)
      omega
    · obtain ⟨t, ht, hfold⟩ := ih (s := g s i) hl hmem
      have hne : i ≠ j := fun heq => hi (heq ▸ hmem)
      exact ⟨t, ht.trans (hother s i _ (by omega)), hfold⟩

end

end Sys2Proof.Machine

/-! Retry (05 R131, R132): the codewords of a flit that is bad, NAKs, what an acknowledgement releases, and the replay. -/

namespace Sys2Proof.Machine

/-! ### Codewords counted (05 R109, R136) -/

/-- One codeword of a port's lane counted. -/
def State.tallyWord (n : Nat) (s : State) (w : LaneWord) : State :=
  let l := 4 * n + w.lane.toNat
  match wordResult w with
  | some c => s.bump (aLnk l + 0x10) c
  | none =>
    let ln := s.lane l
    let u := ln.uncorr.filter (fun t => decide (s.clk < t + 1000000)) ++ [s.clk]
    let s := ((s.setLane l { ln with uncorr := u }).bump (aLnk l + 0x14) 1).bump (aPrt n + 0x8C) 1
    if 16 < u.length && ln.inService then s.laneFailed l else s

theorem State.tallyWords_eq (s : State) (n : Nat) (ws : List LaneWord) :
    s.tallyWords n ws = ws.foldl (State.tallyWord n) s := rfl

theorem State.tallyWord_of_some {n c : Nat} {s : State} {w : LaneWord} (h : wordResult w = some c) :
    s.tallyWord n w = s.bump (aLnk (4 * n + w.lane.toNat) + 0x10) c := by
  simp only [State.tallyWord, h]

/-- A codeword that is not correctable, on a lane with room in its window, only counts. -/
theorem State.tallyWord_of_none {n : Nat} {s : State} {w : LaneWord} (h : wordResult w = none)
    (hroom : (s.lane (4 * n + w.lane.toNat)).uncorr.length < 16) : ∃ u : List Nat,
      u.length ≤ (s.lane (4 * n + w.lane.toNat)).uncorr.length + 1 ∧ s.tallyWord n w =
        ((s.setLane (4 * n + w.lane.toNat) { s.lane (4 * n + w.lane.toNat) with uncorr := u }).bump
          (aLnk (4 * n + w.lane.toNat) + 0x14) 1).bump (aPrt n + 0x8C) 1 := by
  have hkept := List.length_filter_le (fun t => decide (s.clk < t + 1000000)) (s.lane (4 * n + w.lane.toNat)).uncorr
  refine ⟨(s.lane (4 * n + w.lane.toNat)).uncorr.filter (fun t => decide (s.clk < t + 1000000)) ++ [s.clk], ?_, ?_⟩
  · rw [List.length_append, List.length_singleton]
    omega
  · have hfew : ¬ 16 < ((s.lane (4 * n + w.lane.toNat)).uncorr.filter
        (fun t => decide (s.clk < t + 1000000)) ++ [s.clk]).length := by
      rw [List.length_append, List.length_singleton]
      omega
    simp only [State.tallyWord, h, hfew, decide_false, Bool.false_and, Bool.false_eq_true, if_false]

/-- Codewords counted on lanes whose windows have room for them: no lane fails. -/
theorem State.tallyWords_spec {n : Nat} {s : State} {ws : List LaneWord} (hn : n < 64)
    (hroom : ∀ i, i < 4 → (s.lane (4 * n + i)).uncorr.length + ws.length ≤ 16) :
    s.tallyWords n ws = { s with lanes := (s.tallyWords n ws).lanes, cnt := (s.tallyWords n ws).cnt } ∧
    (s.tallyWords n ws).cntAt (aPrt n + 0x8C) =
      s.cntAt (aPrt n + 0x8C) + (ws.filter (fun w => (wordResult w).isNone)).length := by
  simp only [State.tallyWords_eq]
  induction ws generalizing s with
  | nil => exact ⟨rfl, rfl⟩
  | cons w ws ih =>
    have hlane : w.lane.toNat < 4 := w.lane.isLt
    rw [List.foldl_cons]
    cases hw : wordResult w with
    | some c =>
      rw [State.tallyWord_of_some hw]
      obtain ⟨honly, hcount⟩ := ih (s := s.bump (aLnk (4 * n + w.lane.toNat) + 0x10) c) fun i hi => by
        have := hroom i hi
        rw [State.lane_bump]
        simp only [List.length_cons] at this
        omega
      refine ⟨?_, ?_⟩
      · generalize ws.foldl (State.tallyWord n) (s.bump _ c) = t at honly
        rw [honly, State.bump_only]
      · rw [hcount, State.cntAt_bump_of_ne _ (aLnk_ne_aPrt hn (by decide)), List.filter_cons_of_neg (by simp [hw])]
    | none =>
      obtain ⟨u, hu, htally⟩ := State.tallyWord_of_none (n := n) (s := s) hw
        (by have := hroom _ hlane; simp only [List.length_cons] at this; omega)
      rw [htally]
      set t := s.setLane (4 * n + w.lane.toNat) { s.lane (4 * n + w.lane.toNat) with uncorr := u } with ht
      obtain ⟨honly, hcount⟩ := ih (s := (t.bump (aLnk (4 * n + w.lane.toNat) + 0x14) 1).bump (aPrt n + 0x8C) 1)
        fun i hi => by
          have := hroom i hi
          have := hroom _ hlane
          simp only [List.length_cons] at *
          rw [State.lane_bump, State.lane_bump, ht, State.lane_setLane]
          split
          · dsimp only
            omega
          · omega
      refine ⟨?_, ?_⟩
      · generalize ws.foldl (State.tallyWord n) _ = v at honly
        rw [honly, State.bump_only, State.bump_only, ht]
        rfl
      · rw [hcount, State.cntAt_bump_self, State.cntAt_bump_of_ne _ (aLnk_ne_aPrt hn (by decide)),
          List.filter_cons_of_pos (by simp [hw]), List.length_cons, Nat.add_assoc, Nat.add_comm 1]
        rfl

/-- The port of a NAK waits for E again. -/
def State.nakPort (s : State) (p : Nat) : Port :=
  { s.port p with nakWait := true, nakAt := s.clk, linkQ := (s.port p).linkQ ++ [.nak (s.port p).e] }

theorem State.sendNak_eq (s : State) (p : Nat) : s.sendNak p = (s.setPort p (s.nakPort p)).bump (aPrt p + 0x84) 1 := by
  rw [State.sendNak, State.sendLink_setPort, State.nakPort]

/-- BAD_CRC_FLIT (05 R131): NAK with E, unless one is out already. -/
theorem exec_badCrcFlit {s : State} {p : BitVec 6} {raw : List Byte} {ws : List LaneWord} (hbad : rxFlit raw ws = none)
    (hon : s.on = true) (hst : (s.port p.toNat).st = .active ∨ (s.port p.toNat).st = .retrain)
    (hroom : ∀ i, i < 4 → (s.lane (4 * p.toNat + i)).uncorr.length + ws.length ≤ 16) :
    ∃ t : State, exec (.badCrcFlit p raw ws) s = .next t ∧
      t.cntAt (aPrt p.toNat + 0x8C) = s.cntAt (aPrt p.toNat + 0x8C) + (ws.filter (fun w => (wordResult w).isNone)).length ∧
      t.port p.toNat = (if (s.port p.toNat).nakWait then s.port p.toNat else s.nakPort p.toNat) ∧
      (∀ q, q ≠ p.toNat → t.port q = s.port q) ∧
      t = { s with lanes := t.lanes, ports := t.ports, cnt := t.cnt } := by
  obtain ⟨honly, hcount⟩ := State.tallyWords_spec p.isLt hroom
  have hexec : exec (.badCrcFlit p raw ws) s = .next (if ((s.tallyWords p.toNat ws).port p.toNat).nakWait
      then s.tallyWords p.toNat ws else (s.tallyWords p.toNat ws).sendNak p.toNat) := by
    have hreceives : s.receives p.toNat = true := by rcases hst with hst | hst <;> simp [State.receives, hon, hst]
    change execBadCrcFlit p raw ws s = _
    simp only [execBadCrcFlit, hbad, due_of_true hreceives]
  refine ⟨_, hexec, ?_⟩
  generalize s.tallyWords p.toNat ws = u at honly hcount
  have hport (q : Nat) : u.port q = s.port q := by rw [honly]; rfl
  have hclk : u.clk = s.clk := by rw [honly]
  rw [hport]
  cases (s.port p.toNat).nakWait with
  | true => exact ⟨hcount, hport _, fun q _ => hport q, by rw [if_pos rfl, honly]⟩
  | false =>
    rw [if_neg Bool.false_ne_true, if_neg Bool.false_ne_true, State.sendNak_eq]
    have hnak : u.nakPort p.toNat = s.nakPort p.toNat := by rw [State.nakPort, hport, hclk, State.nakPort]
    refine ⟨?_, ?_, fun q hq => ?_, ?_⟩
    · rw [State.cntAt_bump_of_ne _ (by omega)]
      exact hcount
    · rw [State.port_bump, State.port_setPort_self, hnak]
    · rw [State.port_bump, State.port_setPort, if_neg (Ne.symm hq), hport]
    · rw [hnak, State.bump_only, honly]
      rfl

/-- NAK_REPEAT (05 R132). -/
theorem exec_nakRepeat {s : State} {p : BitVec 6} (hon : s.on = true) (hst : (s.port p.toNat).st = .active)
    (hwait : (s.port p.toNat).nakWait = true) (hdue : (s.port p.toNat).nakAt + 2000 ≤ s.clk) :
    exec (.nakRepeat p) s = .next ((s.setPort p.toNat (s.nakPort p.toNat)).bump (aPrt p.toNat + 0x84) 1) := by
  rw [← State.sendNak_eq]
  exact due_of_true (by simp [hon, hst, hwait, hdue])

/-! ### Acknowledgements (05 R128, R129) -/

/-- A copy of a cell that is done changes Solder's cells and what ports hold and owe. -/
theorem State.dropCopy_only (s : State) (k : Nat) :
    s.dropCopy k = { s with ports := (s.dropCopy k).ports, sol := { s.sol with cells := (s.dropCopy k).sol.cells } } := by
  unfold State.dropCopy
  split
  · rfl
  · split
    · rfl
    · dsimp only
      split <;> rfl

/-- Of a port it changes the cells held and the credits owed alone. -/
theorem State.port_dropCopy (s : State) (k p : Nat) : (s.dropCopy k).port p = { s.port p with
    rxHeld := ((s.dropCopy k).port p).rxHeld, rxRet := ((s.dropCopy k).port p).rxRet,
    rxUnrep := ((s.dropCopy k).port p).rxUnrep } := by
  unfold State.dropCopy
  split
  · rfl
  · split
    · rfl
    · dsimp only
      split
      · rw [State.returnCredit, State.port_setPort]
        split
        · next h => rw [h]; rfl
        · rfl
      · rfl

/-- The cells of an acknowledged flit are done. -/
def State.releaseFlit (s : State) (t : TxFlit) : State :=
  match t.pay with
  | .data _ id k tail => if tail.isSome then s else s.dropCopy (64 * id + k)
  | _ => s

theorem State.releaseFlit_only (s : State) (t : TxFlit) : s.releaseFlit t =
    { s with ports := (s.releaseFlit t).ports, sol := { s.sol with cells := (s.releaseFlit t).sol.cells } } := by
  unfold State.releaseFlit
  split
  · split
    · rfl
    · exact State.dropCopy_only ..
  · rfl

theorem State.port_releaseFlit (s : State) (t : TxFlit) (p : Nat) : (s.releaseFlit t).port p = { s.port p with
    rxHeld := ((s.releaseFlit t).port p).rxHeld, rxRet := ((s.releaseFlit t).port p).rxRet,
    rxUnrep := ((s.releaseFlit t).port p).rxUnrep } := by
  unfold State.releaseFlit
  split
  · split
    · rfl
    · exact State.port_dropCopy ..
  · rfl

theorem State.foldl_releaseFlit_only (s : State) (l : List TxFlit) : l.foldl State.releaseFlit s =
    { s with ports := (l.foldl State.releaseFlit s).ports,
             sol := { s.sol with cells := (l.foldl State.releaseFlit s).sol.cells } } := by
  induction l generalizing s with
  | nil => rfl
  | cons t l ih =>
    rw [List.foldl_cons, ih]
    generalize l.foldl State.releaseFlit (s.releaseFlit t) = u
    rw [State.releaseFlit_only]

theorem State.port_foldl_releaseFlit (s : State) (l : List TxFlit) (p : Nat) : (l.foldl State.releaseFlit s).port p =
    { s.port p with rxHeld := ((l.foldl State.releaseFlit s).port p).rxHeld,
                    rxRet := ((l.foldl State.releaseFlit s).port p).rxRet,
                    rxUnrep := ((l.foldl State.releaseFlit s).port p).rxUnrep } := by
  induction l generalizing s with
  | nil => rfl
  | cons t l ih =>
    rw [List.foldl_cons, ih]
    generalize (l.foldl State.releaseFlit (s.releaseFlit t)).port p = q
    rw [State.port_releaseFlit]

/-- A port whose partner has acknowledged up to `a`. -/
def Port.acked (q : Port) (a : BitVec 13) (clk : Nat) : Port :=
  { q with unacked := q.unacked.filter (fun t => !seqBefore t.seq a), replay := q.replay.filter (fun t => !seqBefore t.seq a),
           ackSeen := a, ackAt := clk, replays := 0 }

theorem State.takeAck_eq (s : State) (p : Nat) (a : BitVec 13) : s.takeAck p a =
    if ((s.port p).unacked.filter (fun t => seqBefore t.seq a)).isEmpty then s
    else ((s.port p).unacked.filter (fun t => seqBefore t.seq a)).foldl State.releaseFlit
      (s.setPort p ((s.port p).acked a s.clk)) := rfl

/-- An acknowledgement that releases nothing changes nothing. -/
theorem State.takeAck_of_none {s : State} {p : Nat} {a : BitVec 13}
    (h : ∀ u ∈ (s.port p).unacked, seqBefore u.seq a = false) : s.takeAck p a = s := by
  rw [State.takeAck_eq, if_pos]
  simpa using h

theorem State.takeAck_only (s : State) (p : Nat) (a : BitVec 13) : s.takeAck p a =
    { s with ports := (s.takeAck p a).ports, sol := { s.sol with cells := (s.takeAck p a).sol.cells } } := by
  rw [State.takeAck_eq]
  split
  · rfl
  · rw [State.foldl_releaseFlit_only]
    rfl

/-- One that releases flits: they are gone from what the port holds and replays. -/
theorem State.port_takeAck_of_some {s : State} {p : Nat} {a : BitVec 13}
    (h : ∃ u ∈ (s.port p).unacked, seqBefore u.seq a = true) : (s.takeAck p a).port p =
    { (s.port p).acked a s.clk with
      rxHeld := ((s.takeAck p a).port p).rxHeld, rxRet := ((s.takeAck p a).port p).rxRet,
      rxUnrep := ((s.takeAck p a).port p).rxUnrep } := by
  rw [State.takeAck_eq, if_neg (by simpa using h), State.port_foldl_releaseFlit, State.port_setPort_self]

/-- What of a port no acknowledgement changes. -/
theorem State.port_takeAck (s : State) (p : Nat) (a : BitVec 13) : ((s.takeAck p a).port p).st = (s.port p).st ∧
    ((s.takeAck p a).port p).linkQ = (s.port p).linkQ ∧ ((s.takeAck p a).port p).seqNext = (s.port p).seqNext ∧
    ((s.takeAck p a).port p).unacked = (s.port p).unacked.filter (fun t => !seqBefore t.seq a) := by
  by_cases h : ∃ u ∈ (s.port p).unacked, seqBefore u.seq a = true
  · rw [State.port_takeAck_of_some h]
    exact ⟨rfl, rfl, rfl, rfl⟩
  · have hnone : ∀ u ∈ (s.port p).unacked, seqBefore u.seq a = false := by simpa using h
    rw [State.takeAck_of_none hnone]
    refine ⟨rfl, rfl, rfl, (List.filter_eq_self.mpr fun u hu => ?_).symm⟩
    rw [hnone u hu]
    rfl

/-! ### NAK and the replay (05 R132) -/

theorem seqBefore_self (q : BitVec 13) : seqBefore q q = false := by simp [seqBefore]

/-- The replay from the oldest flit held, unless it has been replayed eight times. -/
theorem State.replayFrom_of_head {s : State} {p : Nat} {u : TxFlit} {l : List TxFlit} (h : (s.port p).unacked = u :: l) :
    s.replayFrom p u.seq = s.setPort p (if (s.port p).replays < 8
      then { s.port p with replay := u :: l, replays := (s.port p).replays + 1, ackAt := s.clk }
      else { s.port p with replays := 0, linkQ := (s.port p).linkQ ++ [.retrainReq 0] }) := by
  have hdrop : (u :: l).dropWhile (fun t => t.seq != u.seq) = u :: l := List.dropWhile_cons_of_neg (by simp)
  unfold State.replayFrom
  simp only [h, hdrop, beq_self_eq_true, Bool.true_and, decide_eq_true_eq, State.sendLink_setPort, if_true]
  by_cases hfew : (s.port p).replays < 8
  · rw [if_neg (by omega), if_pos hfew]
  · rw [if_pos (by omega), if_neg hfew]

theorem exec_nak_eq {s : State} {p : BitVec 6} {e : BitVec 13} (hon : s.on = true) (hst : (s.port p.toNat).st = .active) :
    exec (.nak p e) s = .next (if ((s.takeAck p.toNat e).port p.toNat).unacked.any (fun t => t.seq == e)
      then (s.takeAck p.toNat e).replayFrom p.toNat e
      else if e = ((s.takeAck p.toNat e).port p.toNat).seqNext && ((s.takeAck p.toNat e).port p.toNat).unacked.isEmpty
        then s.takeAck p.toNat e
        else (s.takeAck p.toNat e).sendLink p.toNat (.retrainReq 0)) := by
  obtain ⟨hsame, -⟩ := s.port_takeAck p.toNat e
  exact due_of_true (by simp [hsame, hon, hst])

/-- A NAK for a flit still held: the flits before it are acknowledged, and those from it on are replayed. -/
theorem exec_nak_of_held {s : State} {p : BitVec 6} {e : BitVec 13} {a b : List TxFlit} {u : TxFlit} (hon : s.on = true)
    (hst : (s.port p.toNat).st = .active) (hheld : (s.port p.toNat).unacked = a ++ u :: b) (hu : u.seq = e)
    (ha : ∀ x ∈ a, seqBefore x.seq e = true) (hb : ∀ x ∈ b, seqBefore x.seq e = false)
    (hfew : a ≠ [] ∨ (s.port p.toNat).replays < 8) :
    ∃ t : State, exec (.nak p e) s = .next t ∧ (t.port p.toNat).unacked = u :: b ∧ (t.port p.toNat).replay = u :: b ∧
      (t.port p.toNat).ackAt = s.clk ∧ t = { s with ports := t.ports, sol := { s.sol with cells := t.sol.cells } } := by
  obtain ⟨-, -, -, hunacked⟩ := s.port_takeAck p.toNat e
  have honly := s.takeAck_only p.toNat e
  have hreplays : ((s.takeAck p.toNat e).port p.toNat).replays < 8 := by
    rcases a with - | ⟨x, a⟩
    · rw [State.takeAck_of_none]
      · exact hfew.resolve_left (by simp)
      · rw [hheld]
        exact List.forall_mem_cons.mpr ⟨hu ▸ seqBefore_self _, hb⟩
    · rw [State.port_takeAck_of_some ⟨x, by simp [hheld], ha x List.mem_cons_self⟩]
      exact Nat.zero_lt_succ 7
  have hrest : ((s.takeAck p.toNat e).port p.toNat).unacked = u :: b := by
    rw [hunacked, hheld, List.filter_append, List.filter_eq_nil_iff.mpr (by simpa using ha), List.nil_append,
      List.filter_cons_of_pos (by simp [hu, seqBefore_self]), List.filter_eq_self.mpr (by simpa using hb)]
  refine ⟨_, exec_nak_eq hon hst, ?_⟩
  have hclk : (s.takeAck p.toNat e).clk = s.clk := by rw [honly]
  have hany : ((s.takeAck p.toNat e).port p.toNat).unacked.any (fun t => t.seq == e) = true := by simp [hrest, hu]
  rw [if_pos hany, ← hu, State.replayFrom_of_head (hu ▸ hrest), hu, if_pos hreplays, State.port_setPort_self, hclk]
  generalize s.takeAck p.toNat e = t at honly hrest
  refine ⟨hrest, rfl, rfl, ?_⟩
  rw [honly]
  rfl

/-- A NAK for a flit that is not held and is not the next: RETRAIN_REQ. -/
theorem exec_nak_of_not_held {s : State} {p : BitVec 6} {e : BitVec 13} (hon : s.on = true)
    (hst : (s.port p.toNat).st = .active) (hheld : ∀ u ∈ (s.port p.toNat).unacked, u.seq ≠ e)
    (hnext : e ≠ (s.port p.toNat).seqNext) :
    exec (.nak p e) s = .next ((s.takeAck p.toNat e).sendLink p.toNat (.retrainReq 0)) := by
  obtain ⟨-, -, hseq, hunacked⟩ := s.port_takeAck p.toNat e
  have hany : ¬ ((s.takeAck p.toNat e).port p.toNat).unacked.any (fun t => t.seq == e) = true := by
    rw [hunacked]
    simpa using fun u hu _ => hheld u hu
  rw [exec_nak_eq hon hst, if_neg hany, hseq, if_neg (by simp [hnext])]

/-- Settles O24: one lemma for each message (`exec_badCrcFlit`, `exec_nakRepeat`, `exec_nak_of_held`, `exec_nak_of_not_held`),
and the replay of the oldest flit (`State.replayFrom_of_head`). -/
theorem retryMessages : Obligations.RetryMessages := by
  refine ⟨fun s p raw ws hbad hon hst hroom => exec_badCrcFlit hbad hon hst hroom, fun s p hon hst hwait hdue => ?_,
    fun s p e a b u hon hst hheld hu ha hb hfew => exec_nak_of_held hon hst hheld hu ha hb hfew,
    fun s p e hon hst hheld hnext => ?_, fun s p u l hon hst hheld hdue => ?_⟩
  · refine ⟨_, exec_nakRepeat hon hst hwait hdue, ?_, fun q hq => ?_, State.cntAt_bump_self .., ?_⟩
    · rw [State.port_bump, State.port_setPort_self]
      simp only [State.nakPort, hwait]
    · rw [State.port_bump, State.port_setPort, if_neg (Ne.symm hq)]
    · rw [State.bump_only]
      rfl
  · obtain ⟨-, hlink, -, -⟩ := s.port_takeAck p.toNat e
    refine ⟨_, exec_nak_of_not_held hon hst hheld hnext, ?_, ?_⟩
    · rw [State.port_sendLink_self, hlink]
    · rw [State.sendLink, State.takeAck_only]
      rfl
  · rw [← State.replayFrom_of_head hheld]
    change execReplayTimeout p s = _
    simp only [execReplayTimeout, hheld]
    exact due_of_true (by simp [hon, hst, hdue])

end Sys2Proof.Machine

/-! Retrain and CREDIT_SYNC (05 R133, R141): a port whose lanes train again, and one that comes into service. -/

namespace Sys2Proof.Machine

/-! ### The start of a retrain -/

/-- A lane in service starts again at phase 1. -/
def State.retrainLane (p : Nat) (s : State) (i : Nat) : State :=
  let l := s.lane (4 * p + i)
  if l.inService then
    s.setLane (4 * p + i) { l with phase := 1, phaseAt := s.clk, paramOk := none, partnerPhase := 0, partnerFom := 0,
                                   foms := [] }
  else s

theorem State.retrainLane_only (p : Nat) (s : State) (i : Nat) :
    s.retrainLane p i = { s with lanes := (s.retrainLane p i).lanes } := by
  unfold State.retrainLane
  dsimp only
  split <;> rfl

theorem State.lane_retrainLane_of_ne {p : Nat} {s : State} {i k : Nat} (h : k ≠ 4 * p + i) :
    (s.retrainLane p i).lane k = s.lane k := by
  unfold State.retrainLane
  dsimp only
  split
  · rw [State.lane_setLane, if_neg h.symm]
  · rfl

theorem State.retrainLane_phase {p : Nat} {s : State} {i : Nat} (h : (s.lane (4 * p + i)).inService = true) :
    ((s.retrainLane p i).lane (4 * p + i)).phase = 1 := by
  simp only [State.retrainLane, h, if_true, State.lane_setLane_self]

/-- A port whose retrain begins, before its lanes. -/
def State.beginRetrain (s : State) (p : Nat) : State :=
  (s.setPaux p { s.paux p with
    retrains := (s.paux p).retrains.filter (fun t => decide (s.clk < t + 1000000000)) ++ [s.clk], retrainAt := some s.clk,
    syncRx := false, syncAck := false }).setPort p { s.port p with st := .retrain, replay := [] }

/-- A retrain in service, not the fourth within a second. -/
theorem State.startRetrain_of_few {s : State} {p : Nat} (reason : Nat) (hst : (s.port p).st = .active)
    (hfew : ((s.paux p).retrains.filter (fun t => decide (s.clk < t + 1000000000))).length < 3) : s.startRetrain p reason =
      (((List.range 4).foldl (State.retrainLane p) (s.beginRetrain p)).record 0 3 p 0x0111 reason).bump (aPrt p + 0x88) 1 := by
  unfold State.startRetrain
  simp only [hst, bne_self_eq_false, Bool.false_eq_true, if_false, Nat.not_le.mpr hfew]
  rfl

/-- RETRAIN_REQ (05 R133): the port stops, and its lanes in service are in phase 1. -/
theorem exec_retrainReq {s : State} {p : BitVec 6} (r : Byte) (hon : s.on = true) (hst : (s.port p.toNat).st = .active)
    (hfew : ((s.paux p.toNat).retrains.filter (fun t => decide (s.clk < t + 1000000000))).length < 3) :
    ∃ t : State, exec (.retrainReq p r) s = .next t ∧
      t.port p.toNat = { s.port p.toNat with st := .retrain, replay := [] } ∧
      (∀ q, q ≠ p.toNat → t.port q = s.port q) ∧ (t.paux p.toNat).retrainAt = some s.clk ∧
      (∀ i, i < 4 → (s.lane (4 * p.toNat + i)).inService = true → (t.lane (4 * p.toNat + i)).phase = 1) ∧
      t.cntAt (aPrt p.toNat + 0x88) = s.cntAt (aPrt p.toNat + 0x88) + 1 ∧
      t = { s with ports := t.ports, aux := t.aux, lanes := t.lanes, cnt := t.cnt, flt := t.flt } := by
  have hexec : exec (.retrainReq p r) s = .next (s.startRetrain p.toNat r.toNat) := due_of_true hon
  refine ⟨_, hexec, ?_⟩
  rw [State.startRetrain_of_few r.toNat hst hfew]
  have hlanes : (List.range 4).foldl (State.retrainLane p.toNat) (s.beginRetrain p.toNat) = { s.beginRetrain p.toNat with
      lanes := ((List.range 4).foldl (State.retrainLane p.toNat) (s.beginRetrain p.toNat)).lanes } :=
    State.foldl_lanes_only (State.retrainLane_only p.toNat)
  have hphase {i : Nat} (hi : i < 4) (hin : (s.lane (4 * p.toNat + i)).inService = true) :
      (((List.range 4).foldl (State.retrainLane p.toNat) (s.beginRetrain p.toNat)).lane (4 * p.toNat + i)).phase = 1 := by
    obtain ⟨t, hsame, hfold⟩ := State.lane_foldl_of_mem (s := s.beginRetrain p.toNat)
      (fun _ _ _ => State.lane_retrainLane_of_ne) List.nodup_range (List.mem_range.mpr hi)
    rw [hfold]
    exact State.retrainLane_phase (by rw [hsame]; exact hin)
  generalize (List.range 4).foldl (State.retrainLane p.toNat) (s.beginRetrain p.toNat) = u at hlanes hphase
  refine ⟨?_, fun q hq => ?_, ?_, fun i hi hin => ?_, ?_, ?_⟩
  · rw [State.port_bump, State.port_record, hlanes]
    exact State.port_setPort_self ..
  · rw [State.port_bump, State.port_record, hlanes]
    exact (State.port_setPort ..).trans (if_neg hq.symm)
  · rw [State.paux_bump, State.paux_record, hlanes]
    exact congrArg PortAux.retrainAt (State.paux_setPaux_self ..)
  · rw [State.lane_bump, State.lane_record]
    exact hphase hi hin
  · rw [State.cntAt_bump_self, State.cntAt_record _ _ _ _ _ _ (by unfold aPrt aFlt; omega), hlanes]
    rfl
  · rw [State.bump_only, State.record_classC_only, hlanes]
    rfl

/-! ### A port that comes into service (05 R133) -/

/-- A lane of a port that comes into service. -/
def State.laneUp (p : Nat) (s : State) (i : Nat) : State :=
  s.setLane (4 * p + i) { s.lane (4 * p + i) with inService := true }

/-- A port ACTIVE on its lanes in phase 7. -/
def State.linkUp (s : State) (p : Nat) : State :=
  (s.lanes7 p).foldl (State.laneUp p)
    ((s.setPort p { s.port p with
        st := .active, lanes := laneMask (s.lanes7 p), rxLanes := laneMask (s.lanes7 p), ackAt := s.clk }).setPaux p
      { s.paux p with lastGood := s.clk, retrainAt := none, syncRx := false, syncAck := false })

theorem State.linkUp_only (s : State) (p : Nat) : s.linkUp p = { s with
    ports := (s.linkUp p).ports, aux := (s.linkUp p).aux, lanes := (s.linkUp p).lanes } := by
  unfold State.linkUp
  rw [State.foldl_lanes_only fun _ _ => rfl]
  rfl

theorem State.port_linkUp (s : State) (p : Nat) : (s.linkUp p).port p = { s.port p with
    st := .active, lanes := laneMask (s.lanes7 p), rxLanes := laneMask (s.lanes7 p), ackAt := s.clk } := by
  unfold State.linkUp
  rw [State.foldl_lanes_only fun _ _ => rfl]
  exact State.port_setPort_self ..

theorem State.lanes7_nodup (s : State) (p : Nat) : (s.lanes7 p).Nodup := List.nodup_range.filter _

theorem State.linkUp_inService {s : State} {p i : Nat} (h : i ∈ s.lanes7 p) :
    ((s.linkUp p).lane (4 * p + i)).inService = true := by
  unfold State.linkUp
  obtain ⟨t, -, hfold⟩ := State.lane_foldl_of_mem (g := State.laneUp p)
    (fun t i k hk => (State.lane_setLane ..).trans (if_neg hk.symm)) (s.lanes7_nodup p) h
  rw [hfold, State.laneUp, State.lane_setLane_self]

/-- A port in training or in a retrain with both ends acknowledged is ACTIVE, and its neighbour is heard from. -/
theorem State.tryActive_of_synced {s : State} {p : Nat} (hrx : (s.paux p).syncRx = true) (hack : (s.paux p).syncAck = true)
    (hlanes : s.lanes7 p ≠ []) (hst : (s.port p).st = .training ∨ (s.port p).st = .retrain) :
    s.tryActive p = (s.portPeer p).elim (s.linkUp p) (fun n => (s.linkUp p).heardBack n) := by
  have hsome : (s.lanes7 p).isEmpty = false := List.isEmpty_eq_false_iff.mpr hlanes
  have hpeer : (s.linkUp p).portPeer p = s.portPeer p := by rw [State.linkUp_only]; rfl
  have hready : ((s.paux p).syncRx && (s.paux p).syncAck && !(s.lanes7 p).isEmpty &&
      ((s.port p).st == .training || (s.port p).st == .retrain)) = true := by
    rcases hst with hst | hst <;> simp [hrx, hack, hsome, hst]
  rw [← hpeer]
  unfold State.tryActive
  dsimp only
  rw [if_pos hready]
  change (match (s.linkUp p).portPeer p with
    | some n => (s.linkUp p).heardBack n
    | none => s.linkUp p) = _
  cases (s.linkUp p).portPeer p <;> rfl

theorem State.tryActive_of_not_acked {s : State} {p : Nat} (h : (s.paux p).syncAck = false) : s.tryActive p = s := by
  simp [State.tryActive, h]

theorem State.heardBack_only (s : State) (a : Nat) : s.heardBack a =
    { s with flt := { s.flt with lost := (s.heardBack a).flt.lost, acts := (s.heardBack a).flt.acts } } := by
  unfold State.heardBack
  split <;> rfl

/-- A Fixus that is heard from is no longer lost. -/
theorem State.not_mem_lost_heardBack (s : State) (a : Nat) : a ∉ (s.heardBack a).flt.lost := by
  have hlost : (s.heardBack a).flt.lost = s.flt.lost.filter (· != a) := by
    unfold State.heardBack
    split <;> rfl
  simp [hlost]

/-- The partner has acknowledged this end's CREDIT_SYNC. -/
def State.syncAcked (s : State) (p : Nat) : State := s.setPaux p { s.paux p with syncAck := true }

/-- CREDIT_SYNC_ACK (05 R133), once the partner's CREDIT_SYNC has come. -/
theorem exec_creditSyncAck {s : State} {p : BitVec 6} {next : BitVec 13} (hon : s.on = true)
    (hst : (s.port p.toNat).st = .training ∨ (s.port p.toNat).st = .retrain) (hlanes : s.lanes7 p.toNat ≠ [])
    (hnext : next = (s.port p.toNat).e) (hrx : (s.paux p.toNat).syncRx = true) :
    ∃ t : State, exec (.creditSyncAck p next) s = .next t ∧ (t.port p.toNat).st = .active ∧
      (t.port p.toNat).lanes = laneMask (s.lanes7 p.toNat) ∧
      (∀ i, i ∈ s.lanes7 p.toNat → (t.lane (4 * p.toNat + i)).inService = true) ∧
      (∀ n, s.portPeer p.toNat = some n → n ∉ t.flt.lost) ∧
      t = { s with ports := t.ports, aux := t.aux, lanes := t.lanes,
                   flt := { s.flt with lost := t.flt.lost, acts := t.flt.acts } } := by
  have hexec : exec (.creditSyncAck p next) s =
      .next ((s.syncAcked p.toNat).tryActive p.toNat) := by
    have hsome : (s.lanes7 p.toNat).isEmpty = false := List.isEmpty_eq_false_iff.mpr hlanes
    exact due_of_true (by rcases hst with hst | hst <;> simp [hon, hst, hsome, hnext])
  refine ⟨_, hexec, ?_⟩
  rw [State.tryActive_of_synced (s := s.syncAcked p.toNat) (by simpa [State.syncAcked] using hrx) (by simp [State.syncAcked])
    hlanes hst]
  have hu : s.syncAcked p.toNat = { s with aux := (s.syncAcked p.toNat).aux } := rfl
  have honly := (s.syncAcked p.toNat).linkUp_only p.toNat
  have hport := (s.syncAcked p.toNat).port_linkUp p.toNat
  have hin : ∀ i ∈ s.lanes7 p.toNat, (((s.syncAcked p.toNat).linkUp p.toNat).lane (4 * p.toNat + i)).inService = true :=
    fun i hi => State.linkUp_inService (s := s.syncAcked p.toNat) hi
  have hpeer : (s.syncAcked p.toNat).portPeer p.toNat = s.portPeer p.toNat := rfl
  have hlanes7 : (s.syncAcked p.toNat).lanes7 p.toNat = s.lanes7 p.toNat := rfl
  rw [hpeer]
  generalize (s.syncAcked p.toNat).linkUp p.toNat = v at honly hport hin
  cases s.portPeer p.toNat with
  | none => exact ⟨by rw [Option.elim_none, hport], by rw [Option.elim_none, hport, hlanes7], hin, by simp,
      by rw [Option.elim_none, honly, hu]⟩
  | some n =>
    have hheard := State.heardBack_only v n
    have hlost := State.not_mem_lost_heardBack v n
    rw [Option.elim_some]
    generalize v.heardBack n = w at hheard hlost
    have hwport : w.port p.toNat = v.port p.toNat := by rw [hheard]; rfl
    refine ⟨by rw [hwport, hport], by rw [hwport, hport, hlanes7], fun i hi => ?_, fun m hm => ?_, ?_⟩
    · rw [hheard]
      exact hin i hi
    · rwa [← Option.some.inj hm]
    · rw [hheard, honly, hu]

/-! ### CREDIT_SYNC (05 R133) -/

/-- A port with the credits of the partner's CREDIT_SYNC, which replays what it still holds. -/
def State.syncedPort (s : State) (p : Nat) (lims : List (BitVec 16 × BitVec 16)) : Port :=
  { s.port p with
    avail := (List.range 16).map (fun v => (v, (lims.getD v (0, 0)).2.toNat -
      ((s.port p).unacked.filter (fun t => t.vc == v)).length))
    txLim := (List.range 16).map (fun v => (v, (lims.getD v (0, 0)).1.toNat))
    crSeen := [], replay := (s.port p).unacked, replays := 0 }

/-- A table that lists a function's values answers them. -/
theorem tget_map_range {α : Type} {n k : Nat} (f : Nat → α) (d : α) (h : k < n) :
    tget ((List.range n).map (fun v => (v, f v))) k d = f k := by
  have hnodup : (((List.range n).map (fun v => (v, f v))).map Prod.fst).Nodup := by
    rw [List.map_map]
    exact (List.map_id' (List.range n)).symm ▸ List.nodup_range
  rw [tget, tfind_of_mem hnodup (List.mem_map.mpr ⟨k, List.mem_range.mpr h, rfl⟩), Option.getD_some]

/-- The partner's CREDIT_SYNC before this end's is acknowledged: it is answered, and the port is not yet in service. -/
theorem exec_creditSync {s : State} {p : BitVec 6} {next : BitVec 13} (lims : List (BitVec 16 × BitVec 16)) (hon : s.on = true)
    (hst : (s.port p.toNat).st = .training ∨ (s.port p.toNat).st = .retrain) (hlanes : s.lanes7 p.toNat ≠ [])
    (hack : (s.paux p.toNat).syncAck = false) (hheld : ∀ u ∈ (s.port p.toNat).unacked, seqBefore u.seq next = false) :
    exec (.creditSync p next lims) s = .next (((s.setPort p.toNat (s.syncedPort p.toNat lims)).setPaux p.toNat
      { s.paux p.toNat with syncRx := true }).sendLink p.toNat (.creditSyncAck next)) := by
  have hsome : (s.lanes7 p.toNat).isEmpty = false := List.isEmpty_eq_false_iff.mpr hlanes
  change execCreditSync p next lims s = _
  unfold execCreditSync
  simp only [State.takeAck_of_none hheld]
  rw [due_of_true (by rcases hst with hst | hst <;> simp [hon, hst, hsome]), State.tryActive_of_not_acked]
  · rfl
  · rw [State.paux_sendLink, State.paux_setPaux_self]
    exact hack

/-- Settles O25: a retrain begins (`exec_retrainReq`), CREDIT_SYNC gives the credits (`exec_creditSync`), and its
acknowledgement brings the port into service (`exec_creditSyncAck`). -/
theorem retrainAndCreditSync : Obligations.RetrainAndCreditSync := by
  refine ⟨fun s p r hon hst hfew => exec_retrainReq r hon hst hfew, fun s p next lims hon hst hlanes hack hheld => ?_,
    fun s p next hon hst hlanes hnext hrx => exec_creditSyncAck hon hst hlanes hnext hrx, fun s p c n q v k hon hst => ?_⟩
  · refine ⟨_, exec_creditSync lims hon hst hlanes hack hheld, ?_⟩
    rw [State.port_sendLink_self, State.port_setPaux, State.port_setPort_self, State.paux_sendLink, State.paux_setPaux_self]
    exact ⟨rfl, rfl, rfl, fun v hv => tget_map_range _ _ hv, rfl, rfl⟩
  · exact due_of_true (by rcases hst with hst | hst <;> simp [hon, hst])

end Sys2Proof.Machine

/-! What a partner or a lane reports (05 Table 5.3, R113 to R119): lock and the alignment of a port's lanes on their markers,
equaliser requests, and windows of the figure of merit. -/

namespace Sys2Proof.Machine

/-! ### Lanes aligned on their markers (05 R115) -/

/-- The circuit on a lane's balls depends on which lanes are spared, and for which lane a spare trains. -/
theorem State.circuit_congr {s t : State} (hspared : ∀ j, (t.lane j).spared = (s.lane j).spared) (haux : t.aux = s.aux)
    (l : Nat) : t.circuit l = s.circuit l := by
  rw [State.circuit, State.circuit, hspared, State.paux, State.paux, haux]

/-- When the last marker of a port's lane arrived. -/
def State.markOf (s : State) (p i : Nat) : Option Nat := (s.lane (s.circuit (4 * p + i))).markAt

/-- The marker that the others of a port are counted from, and the latest of them against it. -/
def State.firstMark (s : State) (p : Nat) : Nat := (([0, 1, 2, 3].filterMap (s.markOf p))[0]?).getD 0
def State.lastLag (s : State) (p : Nat) : Int :=
  ([0, 1, 2, 3].filterMap (s.markOf p)).foldl (fun m t => max m (markerLag t (s.firstMark p))) 0

/-- How long a lane whose marker arrived at `m` is delayed. -/
def State.delayFor (s : State) (p m : Nat) : Nat := (s.lastLag p - markerLag m (s.firstMark p)).toNat

/-- One lane of a port delayed until the latest. -/
def State.alignLane (s : State) (p : Nat) (t : State) (i : Nat) : State :=
  match s.markOf p i with
  | some m =>
    t.setLane (t.circuit (4 * p + i)) { t.lane (t.circuit (4 * p + i)) with deskew := s.delayFor p m }
  | none => t

theorem State.deskew_eq (s : State) (p : Nat) : s.deskew p = [0, 1, 2, 3].foldl (s.alignLane p) s := rfl

/-- The greatest value of a list is no smaller than any other. -/
theorem le_foldl_max {α : Type} (f : α → Int) {l : List α} {x : α} (a : Int) (h : x ∈ l) :
    f x ≤ l.foldl (fun m t => max m (f t)) a := by
  have hstart (l : List α) (a : Int) : a ≤ l.foldl (fun m t => max m (f t)) a := by
    induction l generalizing a with
    | nil => exact le_rfl
    | cons y l ih => exact (le_max_left a (f y)).trans (ih _)
  induction l generalizing a with
  | nil => cases h
  | cons y l ih =>
    rcases List.mem_cons.mp h with rfl | hl
    · exact (le_max_right a (f x)).trans (hstart l _)
    · exact ih _ hl

/-- No marker of a port's lanes is later than the latest. -/
theorem State.markerLag_le_lastLag {s : State} {p i m : Nat} (hi : i < 4) (h : s.markOf p i = some m) :
    markerLag m (s.firstMark p) ≤ s.lastLag p := by
  refine le_foldl_max (fun t => markerLag t (s.firstMark p)) 0 (List.mem_filterMap.mpr ⟨i, ?_, h⟩)
  rw [List.mem_cons, List.mem_cons, List.mem_cons, List.mem_singleton]
  omega

/-- Two states that differ in the delays of lanes alone. -/
def State.alignsTo (s t : State) : Prop :=
  t = { s with lanes := t.lanes } ∧ ∀ j, t.lane j = { s.lane j with deskew := (t.lane j).deskew }

theorem State.alignsTo.circuit {s t : State} (h : s.alignsTo t) (l : Nat) : t.circuit l = s.circuit l := by
  obtain ⟨honly, hlane⟩ := h
  exact State.circuit_congr (fun j => by rw [hlane]) (by rw [honly]) l

theorem State.alignLane_of_some {s t : State} {p i m : Nat} (halign : s.alignsTo t) (h : s.markOf p i = some m) :
    s.alignLane p t i = t.setLane (s.circuit (4 * p + i))
      { t.lane (s.circuit (4 * p + i)) with deskew := s.delayFor p m } := by
  simp only [State.alignLane, h, halign.circuit]

theorem State.alignLane_of_none {s t : State} {p i : Nat} (h : s.markOf p i = none) : s.alignLane p t i = t := by
  simp only [State.alignLane, h]

theorem State.alignsTo_alignLane {s t : State} {p : Nat} (h : s.alignsTo t) (i : Nat) : s.alignsTo (s.alignLane p t i) := by
  cases hm : s.markOf p i with
  | none => rwa [State.alignLane_of_none hm]
  | some m =>
    rw [State.alignLane_of_some h hm]
    obtain ⟨honly, hlane⟩ := h
    refine ⟨?_, fun j => ?_⟩
    · rw [honly]
      rfl
    · rw [State.lane_setLane]
      split
      · next hj => rw [hlane, hj]
      · exact hlane j

/-- A step leaves every circuit but that of its lane. -/
theorem State.lane_alignLane_of_ne {s t : State} {p i j : Nat} (h : s.alignsTo t) (hj : j ≠ s.circuit (4 * p + i)) :
    (s.alignLane p t i).lane j = t.lane j := by
  cases hm : s.markOf p i with
  | none => rw [State.alignLane_of_none hm]
  | some m => rw [State.alignLane_of_some h hm, State.lane_setLane, if_neg hj.symm]

/-- A step sets the delay of a circuit by its marker, or leaves it. -/
theorem State.deskew_alignLane {s t : State} {p i k m : Nat} (h : s.alignsTo t) (hm : s.markOf p k = some m)
    (hset : k = i ∨ (t.lane (s.circuit (4 * p + k))).deskew = s.delayFor p m) :
    ((s.alignLane p t i).lane (s.circuit (4 * p + k))).deskew = s.delayFor p m := by
  by_cases hsame : s.circuit (4 * p + k) = s.circuit (4 * p + i)
  · have hi : s.markOf p i = some m := by rw [← hm, State.markOf, State.markOf, hsame]
    rw [State.alignLane_of_some h hi, hsame, State.lane_setLane_self]
  · rw [State.lane_alignLane_of_ne h hsame]
    exact hset.resolve_left fun hki => hsame (hki ▸ rfl)

/-- All lanes named are aligned, and every other lane stays. -/
theorem State.foldl_alignLane_spec {s t : State} {p : Nat} {l : List Nat} (h : s.alignsTo t) :
    s.alignsTo (l.foldl (s.alignLane p) t) ∧
    (∀ j, (∀ i ∈ l, j ≠ s.circuit (4 * p + i)) → (l.foldl (s.alignLane p) t).lane j = t.lane j) ∧
    (∀ k m, s.markOf p k = some m → k ∈ l ∨ (t.lane (s.circuit (4 * p + k))).deskew = s.delayFor p m →
      ((l.foldl (s.alignLane p) t).lane (s.circuit (4 * p + k))).deskew = s.delayFor p m) := by
  induction l generalizing t with
  | nil => exact ⟨h, fun _ _ => rfl, fun k m _ hk => hk.resolve_left List.not_mem_nil⟩
  | cons i l ih =>
    rw [List.foldl_cons]
    obtain ⟨hall, hother, hset⟩ := ih (State.alignsTo_alignLane (p := p) h i)
    refine ⟨hall, fun j hj => ?_, fun k m hm hk => hset k m hm ?_⟩
    · obtain ⟨hi, hl⟩ := List.forall_mem_cons.mp hj
      rw [hother j hl, State.lane_alignLane_of_ne h hi]
    · rw [List.mem_cons, or_assoc] at hk
      rcases hk with hki | hkl | hdone
      · exact .inr (State.deskew_alignLane h hm (.inl hki))
      · exact .inl hkl
      · exact .inr (State.deskew_alignLane h hm (.inr hdone))

/-- The lanes of a port that have locked are each delayed until the latest; nothing else changes. -/
theorem State.deskew_spec (s : State) (p : Nat) : s.alignsTo (s.deskew p) ∧
    (∀ j, (∀ i, i < 4 → j ≠ s.circuit (4 * p + i)) → (s.deskew p).lane j = s.lane j) ∧
    (∀ i m, i < 4 → s.markOf p i = some m → ((s.deskew p).lane (s.circuit (4 * p + i))).deskew = s.delayFor p m) := by
  have hmem {i : Nat} : i ∈ [0, 1, 2, 3] ↔ i < 4 := by
    rw [List.mem_cons, List.mem_cons, List.mem_cons, List.mem_singleton]
    omega
  rw [State.deskew_eq]
  obtain ⟨hall, hother, hset⟩ := State.foldl_alignLane_spec (p := p) (l := [0, 1, 2, 3]) (s := s) ⟨rfl, fun _ => rfl⟩
  exact ⟨hall, fun j hj => hother j fun i hi => hj i (hmem.mp hi), fun i m hi hm => hset i m hm (.inl (hmem.mpr hi))⟩

/-! ### Lock, and its loss (05 R114, R136) -/

/-- A lane that has found its alignment. -/
def State.lockLane (s : State) (l : Nat) (o : MarkerObs) (inv : Bool) : State :=
  s.setLane l { s.lane l with lock := true, marker := true, missed := 0, inverted := inv, markAt := some o.at_, lockClk := s.clk }

/-- A spare that trains for no lane has no port to be aligned with. -/
theorem exec_markerLock_of_none {s : State} {l : BitVec 9} {o : MarkerObs} {inv : Bool} (hon : s.on = true)
    (haligned : aligned o = some inv) (hl : 256 ≤ l.toNat) (hfor : s.sparedFor l.toNat = none) :
    exec (.markerLock l o) s = .next (s.lockLane l.toNat o inv) := by
  change execMarkerLock l o s = _
  simp only [execMarkerLock, haligned, Nat.not_lt.mpr hl, if_false, hfor, due_of_true hon]
  rfl

/-- Any other lane is aligned with those of its port. -/
theorem exec_markerLock_of_some {s : State} {l : BitVec 9} {o : MarkerObs} {inv : Bool} {k : Nat} (hon : s.on = true)
    (haligned : aligned o = some inv) (hk : (if l.toNat < 256 then some l.toNat else s.sparedFor l.toNat) = some k) :
    exec (.markerLock l o) s = .next ((s.lockLane l.toNat o inv).deskew (k / 4)) := by
  change execMarkerLock l o s = _
  simp only [execMarkerLock, haligned, hk, due_of_true hon]
  rfl

theorem State.circuit_lockLane (s : State) (l j : Nat) (o : MarkerObs) (inv : Bool) :
    (s.lockLane l o inv).circuit j = s.circuit j := by
  refine State.circuit_congr (s := s) (t := s.lockLane l o inv) (fun i => ?_) rfl j
  rw [State.lockLane, State.lane_setLane]
  split
  · next h => rw [h]
  · rfl

/-- MARKER_LOCK (05 R114, R115): the lane is locked, and the lanes of its port are aligned. -/
theorem exec_markerLock {s : State} {l : BitVec 9} {o : MarkerObs} {inv : Bool} {k : Nat} (hon : s.on = true)
    (haligned : aligned o = some inv) (hk : (if l.toNat < 256 then some l.toNat else s.sparedFor l.toNat) = some k) :
    ∃ t : State, exec (.markerLock l o) s = .next t ∧
    t.lane l.toNat = { s.lane l.toNat with
      lock := true, marker := true, missed := 0, inverted := inv, markAt := some o.at_, lockClk := s.clk,
      deskew := (t.lane l.toNat).deskew } ∧
    (∃ (last : Int) (ref : Nat), ∀ i m, i < 4 → (t.lane (s.circuit (4 * (k / 4) + i))).markAt = some m →
      markerLag m ref ≤ last ∧ (t.lane (s.circuit (4 * (k / 4) + i))).deskew = (last - markerLag m ref).toNat) ∧
    (∀ j, j ≠ l.toNat → (∀ i, i < 4 → j ≠ s.circuit (4 * (k / 4) + i)) → t.lane j = s.lane j) ∧
    t = { s with lanes := t.lanes } := by
  refine ⟨_, exec_markerLock_of_some hon haligned hk, ?_⟩
  have hcircuit (j : Nat) : (s.lockLane l.toNat o inv).circuit j = s.circuit j := s.circuit_lockLane ..
  have hself : (s.lockLane l.toNat o inv).lane l.toNat = { s.lane l.toNat with
      lock := true, marker := true, missed := 0, inverted := inv, markAt := some o.at_, lockClk := s.clk } :=
    State.lane_setLane_self ..
  have hne {j : Nat} (hj : j ≠ l.toNat) : (s.lockLane l.toNat o inv).lane j = s.lane j :=
    (State.lane_setLane ..).trans (if_neg hj.symm)
  have hlock : s.lockLane l.toNat o inv = { s with lanes := (s.lockLane l.toNat o inv).lanes } := rfl
  generalize s.lockLane l.toNat o inv = u at hcircuit hself hne hlock
  obtain ⟨⟨honly, hlane⟩, hother, hset⟩ := u.deskew_spec (k / 4)
  simp only [hcircuit] at hother hset
  refine ⟨?_, ⟨u.lastLag (k / 4), u.firstMark (k / 4), fun i m hi hm => ?_⟩, fun j hj hc => ?_, ?_⟩
  · rw [hlane, hself]
  · have hmark : u.markOf (k / 4) i = some m := by rw [State.markOf, hcircuit, ← hm, hlane]
    exact ⟨State.markerLag_le_lastLag hi hmark, hset i m hi hmark⟩
  · rw [hother j hc, hne hj]
  · rw [honly, hlock]

/-- MARKER_LOSS (05 R114, R136) on a lane that is not in service. -/
theorem exec_markerLoss {s : State} {l : BitVec 9} {ms : List (List (BitVec 2))} (hon : s.on = true)
    (hlock : (s.lane l.toNat).lock = true) (hout : (s.lane l.toNat).inService = false) :
    exec (.markerLoss l ms) s = .next (s.setLane l.toNat { s.lane l.toNat with
      missed := missedAfter (s.lane l.toNat).inverted (s.lane l.toNat).missed ms
      lock := decide (missedAfter (s.lane l.toNat).inverted (s.lane l.toNat).missed ms < 3)
      marker := (s.lane l.toNat).marker &&
        decide (missedAfter (s.lane l.toNat).inverted (s.lane l.toNat).missed ms < 3) }) := by
  change execMarkerLoss l ms s = _
  simp only [execMarkerLoss, hlock, hout, Bool.and_false, Bool.false_eq_true, if_false, Bool.true_and, hon, due, if_true]

/-! ### Sideband messages (05 Table 5.3) -/

theorem exec_fomReport {s : State} {l : BitVec 9} {ws : List (BitVec 40)} {w : BitVec 40} (hon : s.on = true)
    (hw : sideHeard 1 ws = some w) :
    exec (.fomReport l ws) s = .next (s.setLane l.toNat { s.lane l.toNat with partnerFom := bits (wordSb w) 9 0 }) := by
  change execFomReport l ws s = _
  simp only [execFomReport, hw, due_of_true hon]

theorem exec_ready {s : State} {l : BitVec 9} {ws : List (BitVec 40)} {w : BitVec 40} (hon : s.on = true)
    (hw : sideHeard 7 ws = some w) :
    exec (.ready l ws) s = .next (s.setLane l.toNat { s.lane l.toNat with partnerPhase := bits (wordSb w) 2 0 }) := by
  change execReady l ws s = _
  simp only [execReady, hw, due_of_true hon]

/-- Framing words in which no message is heard change nothing. -/
theorem exec_reports_of_not_heard (s : State) (l : BitVec 9) (ws : List (BitVec 40)) :
    (sideHeard 1 ws = none → exec (.fomReport l ws) s = .next s) ∧
    (sideHeard 7 ws = none → exec (.ready l ws) s = .next s) ∧ (sideHeard 2 ws = none → exec (.txEqReq l ws) s = .next s) := by
  refine ⟨fun h => ?_, fun h => ?_, fun h => ?_⟩
  · change execFomReport l ws s = _
    simp only [execFomReport, h]
  · change execReady l ws s = _
    simp only [execReady, h]
  · change execTxEqReq l ws s = _
    simp only [execTxEqReq, h]

/-- What TX_EQ_REQ makes of a tap that can move as asked. -/
def tapAfter (op v : Nat) : Nat := if op = 1 then v + 1 else if op = 2 then v - 1 else if op = 3 then 0 else v

/-- Every tap's preset is 0. -/
theorem Lane.init_txEq_getD (tap : Nat) : Lane.init.txEq.getD tap 0 = 0 := by
  rcases Nat.lt_or_ge tap 6 with h | h
  · exact List.getD_replicate (n := 6) _ h
  · exact List.getD_eq_default _ _ h

/-- TX_EQ_REQ that keeps the tap within its five bits. -/
theorem exec_txEqReq {s : State} {l : BitVec 9} {ws : List (BitVec 40)} {w : BitVec 40} {tap op v : Nat} (hon : s.on = true)
    (hw : sideHeard 2 ws = some w) (htap : tap = bits (wordSb w) 3 0) (hop : op = bits (wordSb w) 5 4) (hlt : tap < 6)
    (hv : v = (s.lane l.toNat).txEq.getD tap 0) (hup : ¬(op = 1 ∧ v = 31)) (hdown : ¬(op = 2 ∧ v = 0)) :
    exec (.txEqReq l ws) s = .next (s.setLane l.toNat { s.lane l.toNat with
      txEq := (s.lane l.toNat).txEq.set tap (tapAfter op v) }) := by
  have hinside : (decide (op = 1) && decide (v = 31) || decide (op = 2) && decide (v = 0)) = false := by
    simpa using And.intro (not_and.mp hup) (not_and.mp hdown)
  change execTxEqReq l ws s = _
  simp only [execTxEqReq, hw, ← htap, ← hop, ← hv, hinside, Bool.false_eq_true, if_false, Lane.init_txEq_getD]
  exact due_of_true (by simp [hon, hlt])

/-! ### Windows of the figure of merit (05 R117 to R119) -/

/-- A lane with a window's value that is judged good. -/
def State.goodWindow (s : State) (l n : Nat) : State :=
  s.setLane l { s.lane l with
    fom := n, fomMin := some (min n ((s.lane l).fomMin.getD n)), below := decide (n < s.warnAt l), warned := false,
    foms := ((s.lane l).foms ++ [n]).drop ((s.lane l).foms.length - 7), failSince := none }

/-- Out of service no value is judged, and in service one at WARN and FAIL or above is good. -/
theorem State.judgeFom_of_good {s : State} {l n : Nat}
    (h : (s.lane l).inService = false ∨ (s.warnAt l ≤ n ∧ s.failAt l ≤ n)) : s.judgeFom l n = (s.goodWindow l n).tune l n := by
  unfold State.judgeFom State.goodWindow
  cases hin : (s.lane l).inService with
  | false => simp [hin]
  | true =>
    obtain ⟨hwarn, hfail⟩ := h.resolve_left (by simp [hin])
    simp [hin, Nat.not_lt.mpr hwarn, Nat.not_lt.mpr hfail]

theorem exec_fomWindow {s : State} {l : BitVec 9} {f : FomSample} {n : Nat} (hon : s.on = true) (hn : fomValue f = some n)
    (h : (s.lane l.toNat).inService = false ∨ (s.warnAt l.toNat ≤ n ∧ s.failAt l.toNat ≤ n)) :
    exec (.fomWindow l f) s = .next ((s.goodWindow l.toNat n).tune l.toNat n) := by
  rw [← State.judgeFom_of_good h]
  change execFomWindow l f s = _
  simp only [execFomWindow, hn, due_of_true hon]

/-- A lane in phase 4 reports each window, and asks for a tap of the partner while it is below TRAIN. -/
theorem State.tune_of_phase4 {s : State} {l : Nat} (n : Nat) (hl : l < 256) (hphase : (s.lane l).phase = 4) :
    s.tune l n = (State.sendSide { s with freeCtr := s.freeCtr + 1 } (l / 4) (.fomReport (l % 4) n)).sendSide (l / 4)
      (.txEqReq (l % 4) (Config.pick s.freeCtr % 6) (if s.trainAt l ≤ n then 0 else Config.pick s.freeCtr / 6 % 4)) := by
  simp only [State.tune, hl, hphase, if_true, decide_true, beq_self_eq_true, Bool.true_or, Bool.and_self]
  rfl

theorem State.tune_of_other_phase {s : State} {l : Nat} (n : Nat) (hl : l < 256)
    (hphase : (s.lane l).phase < 4 ∨ 5 < (s.lane l).phase) : s.tune l n = s := by
  have h4 : (s.lane l).phase ≠ 4 := by omega
  have h5 : (s.lane l).phase ≠ 5 := by omega
  simp [State.tune, hl, h4, h5]

/-- Settles O27: each report is one lemma above, the alignment of lanes `State.deskew_spec`. -/
theorem laneReportsTaken : Obligations.LaneReportsTaken := by
  refine ⟨fun s l ws w hon hw => exec_fomReport hon hw, fun s l ws w hon hw => exec_ready hon hw,
    fun s l ws _ => exec_reports_of_not_heard s l ws,
    fun s l o inv hon haligned hl hfor => exec_markerLock_of_none hon haligned hl hfor,
    fun s l o inv k hon haligned hk => exec_markerLock hon haligned hk, fun s l ms m hon hlock hout hm => ?_,
    fun s l ws w tap op v hon hw htap hop hlt hlen hv hup hdown => ?_,
    fun s l f n hon hn h => exec_fomWindow hon hn h, fun s l n hl hphase => ?_,
    fun s l n hl hphase => State.tune_of_other_phase n hl hphase⟩
  · subst hm
    exact exec_markerLoss hon hlock hout
  · refine ⟨_, exec_txEqReq hon hw htap hop hlt hv hup hdown, ?_, fun j hj => ?_, rfl⟩
    · rw [State.lane_setLane_self, List.getD_eq_getElem?_getD, List.getElem?_set_self (hlen ▸ hlt), Option.getD_some, tapAfter]
    · rw [State.lane_setLane_self, List.getD_eq_getElem?_getD, List.getElem?_set_ne hj.symm, List.getD_eq_getElem?_getD]
  · refine ⟨_, Config.pick s.freeCtr % 6, if s.trainAt l ≤ n then 0 else Config.pick s.freeCtr / 6 % 4,
      State.tune_of_phase4 n hl hphase, Nat.mod_lt _ (by decide), ?_, fun h => if_pos h, ?_, fun q hq => ?_, rfl⟩
    · split
      · decide
      · exact Nat.mod_lt _ (by decide)
    · rw [State.port_sendSide_self, State.port_sendSide_self, List.append_assoc]
      rfl
    · rw [State.port_sendSide, if_neg hq.symm, State.port_sendSide, if_neg hq.symm]
      rfl

end Sys2Proof.Machine

/-! Lane failure, sparing and width changes (05 R136 to R139): masks announced, the die's spare on a lane, its outcome, and the
block at which a mask takes effect. -/

namespace Sys2Proof.Machine

/-! ### Masks announced (05 R138) -/

theorem State.goalMask_eq (s : State) (p : Nat) :
    s.goalMask p = ((s.paux p).width.getLast?.map Prod.fst).getD (s.port p).lanes := by
  unfold State.goalMask
  cases (s.paux p).width.getLast? <;> rfl

/-- The mask a port is on its way to depends on its changes and its lanes alone. -/
theorem State.goalMask_congr {s t : State} {p : Nat} (hwidth : (t.paux p).width = (s.paux p).width)
    (hlanes : (t.port p).lanes = (s.port p).lanes) : t.goalMask p = s.goalMask p := by
  rw [State.goalMask_eq, State.goalMask_eq, hwidth, hlanes]

/-- The changes of a port after another is announced. -/
def State.widthAfter (s : State) (p : Nat) (m : BitVec 4) : List (BitVec 4 × Option Nat) :=
  if m &&& (s.port p).lanes = 0 then [(m, some (blockAt s.clk))] else (s.paux p).width ++ [(m, none)]

theorem State.announce_only (s : State) (p : Nat) (m : BitVec 4) :
    s.announce p m = { s with ports := (s.announce p m).ports, aux := (s.announce p m).aux } := by
  unfold State.announce
  split <;> rfl

@[simp] theorem State.lane_announce (s : State) (p l : Nat) (m : BitVec 4) : (s.announce p m).lane l = s.lane l := by
  rw [State.announce_only]
  rfl

theorem State.paux_announce (s : State) (p : Nat) (m : BitVec 4) :
    (s.announce p m).paux p = { s.paux p with width := s.widthAfter p m } := by
  unfold State.announce State.widthAfter
  split
  · rw [State.paux_setPaux_self]
  · rw [State.paux_sendSide, State.paux_setPaux_self]

theorem State.port_announce (s : State) (p : Nat) (m : BitVec 4) :
    (s.announce p m).port p = { s.port p with sideQ := ((s.announce p m).port p).sideQ } := by
  unfold State.announce
  split
  · rfl
  · rw [State.port_sendSide_self]
    rfl

/-- A port is on its way to the mask announced last. -/
theorem State.goalMask_announce (s : State) (p : Nat) (m : BitVec 4) : (s.announce p m).goalMask p = m := by
  rw [State.goalMask_eq, State.paux_announce]
  unfold State.widthAfter
  split
  · rfl
  · rw [List.getLast?_append]
    rfl

/-! ### The spare of a die (05 R137) -/

/-- The port and the index of a lane. -/
theorem lane_index {p i : Nat} (hi : i < 4) : (4 * p + i) / 4 = p ∧ (4 * p + i) % 4 = i := by omega

theorem spareOf_ne_of_lt {l j : Nat} (h : j < 256) : spareOf l ≠ j := by
  unfold spareOf
  omega

/-- The die's spare put on a lane, to train there. -/
def State.putSpare (s : State) (l : Nat) : State :=
  ((s.setLane l { s.lane l with partnerFom := 0, partnerPhase := 0 }).setLane (spareOf l)
    { s.lane (spareOf l) with spared := true, phase := 1, phaseAt := s.clk, lock := false, foms := [] }).setPaux (l / 4)
      { s.paux (l / 4) with sparing := some (l % 4), spareAt := s.clk }

theorem State.trySpare_of_free {s : State} {l : Nat} (hspared : (s.lane (spareOf l)).spared = false)
    (hfailed : (s.lane (spareOf l)).failed = false) (hfenced : (s.lane (spareOf l)).fenced = false) :
    s.trySpare l = some (s.putSpare l) := by
  unfold State.trySpare
  exact if_neg (by simp [hspared, hfailed, hfenced])

theorem State.trySpare_of_taken {s : State} {l : Nat} (h : (s.lane (spareOf l)).spared = true ∨
    (s.lane (spareOf l)).failed = true ∨ (s.lane (spareOf l)).fenced = true) : s.trySpare l = none := by
  unfold State.trySpare
  exact if_pos (by simpa [or_assoc] using h)

theorem State.lane_putSpare_self {s : State} {l : Nat} (h : l < 256) :
    (s.putSpare l).lane l = { s.lane l with partnerFom := 0, partnerPhase := 0 } := by
  rw [State.putSpare, State.lane_setPaux, State.lane_setLane, if_neg (spareOf_ne_of_lt h), State.lane_setLane_self]

theorem State.lane_putSpare_spare (s : State) (l : Nat) : (s.putSpare l).lane (spareOf l) =
    { s.lane (spareOf l) with spared := true, phase := 1, phaseAt := s.clk, lock := false, foms := [] } := by
  rw [State.putSpare, State.lane_setPaux, State.lane_setLane_self]

theorem State.paux_putSpare (s : State) (l : Nat) : (s.putSpare l).paux (l / 4) =
    { s.paux (l / 4) with sparing := some (l % 4), spareAt := s.clk } := State.paux_setPaux_self ..

/-! ### A lane in service fails (05 R136) -/

/-- A lane that has failed leaves by a width change. -/
def State.dropFailed (s : State) (l : Nat) : State :=
  (s.setLane l { s.lane l with failed := true, lock := false }).announce (l / 4)
    (s.goalMask (l / 4) &&& ~~~ laneMask [l % 4])

/-- A lane in service that fails where the spare of its die is free. -/
theorem State.laneFailed_of_spare {s : State} {l : Nat} (hl : l < 256) (hin : (s.lane l).inService = true)
    (hfailed : (s.lane l).failed = false) (hfenced : (s.lane l).fenced = false)
    (hspared : (s.lane (spareOf l)).spared = false) (hsfailed : (s.lane (spareOf l)).failed = false)
    (hsfenced : (s.lane (spareOf l)).fenced = false) : s.laneFailed l = (s.dropFailed l).putSpare l := by
  have hspare : (s.dropFailed l).lane (spareOf l) = s.lane (spareOf l) := by
    rw [State.dropFailed, State.lane_announce, State.lane_setLane, if_neg (spareOf_ne_of_lt hl).symm]
  have htry := State.trySpare_of_free (s := s.dropFailed l) (l := l) (by rw [hspare, hspared]) (by rw [hspare, hsfailed])
    (by rw [hspare, hsfenced])
  unfold State.laneFailed
  dsimp only
  rw [if_neg (by simp [hfailed, hfenced]), if_pos hin]
  change (match (s.dropFailed l).trySpare l with
    | some s => s
    | none => (s.dropFailed l).spareElsewhere l) = _
  rw [htry]

/-- LOOP_LOCK_LOSS (05 R136): the lane is out, and its spare trains. -/
theorem exec_loopLockLoss {s : State} {l : BitVec 9} (hon : s.on = true) (hl : l.toNat < 256)
    (hin : (s.lane l.toNat).inService = true) (hfailed : (s.lane l.toNat).failed = false)
    (hfenced : (s.lane l.toNat).fenced = false) (hspared : (s.lane (spareOf l.toNat)).spared = false)
    (hsfailed : (s.lane (spareOf l.toNat)).failed = false) (hsfenced : (s.lane (spareOf l.toNat)).fenced = false) :
    exec (.loopLockLoss l) s = .next ((s.dropFailed l.toNat).putSpare l.toNat) := by
  rw [← State.laneFailed_of_spare hl hin hfailed hfenced hspared hsfailed hsfenced]
  exact due_of_true (by simp [hon, hin])

/-! ### The outcome of sparing (05 R137 steps 4 to 6) -/

theorem State.answerSpare_only (s : State) (p i : Nat) (ok : Bool) : s.answerSpare p i ok =
    { s with ports := (s.answerSpare p i ok).ports, aux := (s.answerSpare p i ok).aux } := by
  unfold State.answerSpare
  split <;> rfl

@[simp] theorem State.lane_answerSpare (s : State) (p i l : Nat) (ok : Bool) : (s.answerSpare p i ok).lane l = s.lane l := by
  rw [State.answerSpare_only]
  rfl

theorem State.paux_answerSpare (s : State) (p i : Nat) (ok : Bool) : (s.answerSpare p i ok).paux p =
    { s.paux p with spareAsk := ((s.answerSpare p i ok).paux p).spareAsk } := by
  unfold State.answerSpare
  split
  · rw [State.paux_sendSide, State.paux_setPaux_self]
  · rfl

/-- The partner is answered where it has asked. -/
theorem State.port_answerSpare (s : State) (p i : Nat) (ok : Bool) : (s.answerSpare p i ok).port p =
    { s.port p with sideQ := (s.port p).sideQ ++ if i ∈ (s.paux p).spareAsk then [.spareDone i ok] else [] } := by
  unfold State.answerSpare
  by_cases h : i ∈ (s.paux p).spareAsk
  · rw [if_pos (List.contains_iff_mem.mpr h), if_pos h, State.port_sendSide_self]
    rfl
  · rw [if_neg (mt List.contains_iff_mem.mp h), if_neg h, List.append_nil]

/-- A lane whole again: a width change restores it, and nothing is changed but lanes and ports. -/
theorem State.restoreLane_spec (s : State) (l : Nat) :
    (s.restoreLane l).lane l = { s.lane l with failed := false, lock := true, failSince := none, below := false } ∧
    (s.restoreLane l).goalMask (l / 4) = s.goalMask (l / 4) ||| laneMask [l % 4] ∧
    ((s.restoreLane l).paux (l / 4)).sparing = (s.paux (l / 4)).sparing ∧
    s.restoreLane l = { s with
      lanes := (s.restoreLane l).lanes, ports := (s.restoreLane l).ports, aux := (s.restoreLane l).aux } := by
  unfold State.restoreLane
  dsimp only
  refine ⟨?_, State.goalMask_announce .., ?_, ?_⟩
  · rw [State.lane_announce, State.lane_setLane_self]
  · rw [State.paux_announce, State.paux_setLane]
  · rw [State.announce_only]
    rfl

/-- What a partner is answered leaves the mask a port is on its way to. -/
theorem State.goalMask_answerSpare (s : State) (p i : Nat) (ok : Bool) : (s.answerSpare p i ok).goalMask p = s.goalMask p :=
  State.goalMask_congr (by rw [State.paux_answerSpare]) (by rw [State.port_answerSpare])

/-- A lane that its spare now serves, the event recorded. -/
def State.spareServes (s : State) (p i : Nat) : State :=
  ((s.setPaux p { s.paux p with sparing := none }).setLane (4 * p + i) { s.lane (4 * p + i) with spared := true }).record
    0 2 (4 * p + i) 0x0102 ((4 * p + i) / 32)

theorem State.lane_spareServes (s : State) (p i : Nat) :
    (s.spareServes p i).lane (4 * p + i) = { s.lane (4 * p + i) with spared := true } :=
  (State.lane_record ..).trans (State.lane_setLane_self ..)

theorem State.paux_spareServes (s : State) (p i : Nat) : (s.spareServes p i).paux p = { s.paux p with sparing := none } :=
  (State.paux_record ..).trans (State.paux_setPaux_self ..)

theorem State.goalMask_spareServes (s : State) (p i : Nat) : (s.spareServes p i).goalMask p = s.goalMask p :=
  State.goalMask_congr (by rw [State.paux_spareServes]) (by rw [State.spareServes, State.port_record]; rfl)

/-- A spare that served no lane, free again, and the partner told where it has asked. -/
def State.spareFreed (s : State) (p i : Nat) : State :=
  ((s.setPaux p { s.paux p with sparing := none }).setLane (spareOf (4 * p + i))
    { s.lane (spareOf (4 * p + i)) with spared := false, phase := 0 }).answerSpare p i false

/-- SPARE_TRAIN_DONE with phase 5 passed in time. -/
theorem exec_spareTrainDone_of_passed {s : State} {p : BitVec 6} {i : BitVec 2} {o : PhaseObs} (hon : s.on = true)
    (hsparing : (s.paux p.toNat).sparing = some i.toNat) (hphase : (s.lane (spareOf (4 * p.toNat + i.toNat))).phase = 5)
    (hcounted : (s.lane (spareOf (4 * p.toNat + i.toNat))).phaseAt + 10000000 ≤ s.clk) (hok : fecOk o = true)
    (htime : s.clk ≤ (s.paux p.toNat).spareAt + 60000000) : exec (.spareTrainDone p i o) s =
      .next (((s.spareServes p.toNat i.toNat).restoreLane (4 * p.toNat + i.toNat)).answerSpare p.toNat i.toNat true) := by
  have hlate : ¬ (s.paux p.toNat).spareAt + 60000000 < s.clk := by omega
  change execSpareTrainDone p i o s = _
  unfold execSpareTrainDone
  simp only [hphase, hcounted, hlate, hok, hon, hsparing, beq_self_eq_true, decide_true, decide_false, Bool.and_self,
    Bool.not_false, Bool.or_false, if_true, due]
  rfl

/-- SPARE_TRAIN_DONE after 60 ms: the spare is free, and a lane that has failed is fenced or the partner's spare is asked for. -/
theorem exec_spareTrainDone_of_late {s : State} {p : BitVec 6} {i : BitVec 2} {o : PhaseObs} (hon : s.on = true)
    (hsparing : (s.paux p.toNat).sparing = some i.toNat) (htime : (s.paux p.toNat).spareAt + 60000000 < s.clk) :
    exec (.spareTrainDone p i o) s = .next (if (s.lane (4 * p.toNat + i.toNat)).failed then
        if (s.paux p.toNat).spareAsk.contains i.toNat
        then (s.spareFreed p.toNat i.toNat).fenceLaneFinal (4 * p.toNat + i.toNat)
        else (s.spareFreed p.toNat i.toNat).spareElsewhere (4 * p.toNat + i.toNat)
      else s.spareFreed p.toNat i.toNat) := by
  change execSpareTrainDone p i o s = _
  unfold execSpareTrainDone
  simp only [htime, hon, hsparing, decide_true, beq_self_eq_true, Bool.not_true, Bool.and_false, Bool.or_true, Bool.and_self,
    Bool.false_eq_true, if_false, if_true, due]
  cases (s.lane (4 * p.toNat + i.toNat)).failed <;> rfl

/-! ### SPARE_REQ and SPARE_DONE (05 R137 steps 5 and 6) -/

/-- A lane whose SPARE_REQ is to be answered. -/
def State.noteAsk (s : State) (p i : Nat) : State :=
  s.setPaux p { s.paux p with spareAsk := (s.paux p).spareAsk.filter (· != i) ++ [i] }

theorem exec_spareReq {s : State} {p : BitVec 6} {ws : List (BitVec 40)} {w : BitVec 40} (hw : sideHeard 5 ws = some w)
    (hon : s.on = true) (hst : (s.port p.toNat).st = .active ∨ (s.port p.toNat).st = .retrain)
    (hpeer : (s.portPeer p.toNat).isSome = true) : exec (.spareReq p ws) s = .next
      (if (s.paux p.toNat).sparing = some (bits (wordSb w) 1 0) then s.noteAsk p.toNat (bits (wordSb w) 1 0)
       else (s.trySpare (4 * p.toNat + bits (wordSb w) 1 0)).elim (s.sendSide p.toNat (.spareDone (bits (wordSb w) 1 0) false))
         (fun t => t.noteAsk p.toNat (bits (wordSb w) 1 0))) := by
  change execSpareReq p ws s = _
  unfold execSpareReq
  simp only [hw, beq_iff_eq]
  rw [due_of_true (by rcases hst with hst | hst <;> simp [hon, hst, hpeer])]
  cases s.trySpare (4 * p.toNat + bits (wordSb w) 1 0) <;> rfl

theorem exec_spareDone {s : State} {p : BitVec 6} {ws : List (BitVec 40)} {w : BitVec 40} (hw : sideHeard 6 ws = some w)
    (hon : s.on = true) (hfailed : (s.lane (4 * p.toNat + bits (wordSb w) 1 0)).failed = true)
    (hfenced : (s.lane (4 * p.toNat + bits (wordSb w) 1 0)).fenced = false)
    (hsparing : (s.paux p.toNat).sparing ≠ some (bits (wordSb w) 1 0)) : exec (.spareDone p ws) s =
      .next (if bit (wordSb w) 2 then s.restoreLane (4 * p.toNat + bits (wordSb w) 1 0)
        else s.fenceLaneFinal (4 * p.toNat + bits (wordSb w) 1 0)) := by
  change execSpareDone p ws s = _
  unfold execSpareDone
  simp only [hw]
  exact due_of_true (by simp [hon, hfailed, hfenced, hsparing])

/-! ### A lane fenced for good (05 R137, R139) -/

/-- A lane fenced, the record made. -/
def State.laneFenced (s : State) (l : Nat) : State :=
  (s.setLane l { s.lane l with fenced := true, failed := true }).record 2 2 l 0x0103 (s.goalMask (l / 4)).toNat

theorem State.fenceLaneFinal_eq (s : State) (l : Nat) : s.fenceLaneFinal l = (s.laneFenced l).checkLanes (l / 4) := rfl

theorem State.port_laneFenced (s : State) (l p : Nat) : (s.laneFenced l).port p = s.port p := State.port_record ..

theorem State.lane_laneFenced (s : State) (l k : Nat) :
    (s.laneFenced l).lane k = if l = k then { s.lane l with fenced := true, failed := true } else s.lane k :=
  (State.lane_record ..).trans (State.lane_setLane ..)

theorem State.trainWidth_laneFenced (s : State) (l p : Nat) : (s.laneFenced l).trainWidth p = s.trainWidth p := by
  rw [State.laneFenced, State.record_only]
  rfl

/-- A port in service keeps its other lanes. -/
theorem State.fenceLaneFinal_of_active {s : State} {l : Nat} (hst : (s.port (l / 4)).st = .active) :
    s.fenceLaneFinal l = s.laneFenced l := by
  rw [State.fenceLaneFinal_eq, State.checkLanes, State.port_laneFenced, hst]
  rfl

/-- A port out of service whose lanes are now all fenced is fenced. -/
theorem State.fenceLaneFinal_of_last {s : State} {l : Nat} (hst : (s.port (l / 4)).st ≠ .active)
    (hall : ∀ i, i < s.trainWidth (l / 4) → 4 * (l / 4) + i = l ∨ (s.lane (4 * (l / 4) + i)).fenced = true) :
    s.fenceLaneFinal l = (s.laneFenced l).fencePort (l / 4) 0x0103 0 := by
  rw [State.fenceLaneFinal_eq, State.checkLanes, if_pos]
  rw [Bool.and_eq_true, State.port_laneFenced, State.trainWidth_laneFenced]
  refine ⟨by simpa using hst, List.all_eq_true.mpr fun i hi => ?_⟩
  rw [State.lane_laneFenced]
  split
  · rfl
  · next hne => exact (hall i (List.mem_range.mp hi)).resolve_left (Ne.symm hne)

/-! ### Width changes (05 R138, R139) -/

/-- The partner's next transmit mask noted, with its block. -/
def State.noteMask (s : State) (p : Nat) (m : BitVec 4) (b : Nat) : State :=
  s.setPaux p { s.paux p with rxWidth := (s.paux p).rxWidth ++ [(m, b)] }

theorem State.goalMask_noteMask (s : State) (p : Nat) (m : BitVec 4) (b : Nat) :
    (s.noteMask p m b).goalMask p = s.goalMask p := by
  refine State.goalMask_congr ?_ rfl
  rw [State.noteMask, State.paux_setPaux_self]

/-- WIDTH_CHANGE (05 R138): noted, and answered with this end's own change where it is not on its way there. -/
theorem exec_widthChange {s : State} {p : BitVec 6} {ws : List (BitVec 40)} {w : BitVec 40} {m : BitVec 4}
    (hw : sideHeard 4 ws = some w) (hm : m = BitVec.ofNat 4 (bits (wordSb w) 3 0)) (hon : s.on = true)
    (hst : (s.port p.toNat).st = .active ∨ (s.port p.toNat).st = .retrain) :
    ∃ t : State, exec (.widthChange p ws) s = .next t ∧
      (t.paux p.toNat).rxWidth = (s.paux p.toNat).rxWidth ++ [(m, bits (wordSb w) 14 4)] ∧
      t.goalMask p.toNat = m ∧ (t.port p.toNat).rxLanes = (s.port p.toNat).rxLanes ∧
      t = { s with ports := t.ports, aux := t.aux } := by
  have hexec : exec (.widthChange p ws) s = .next (if s.goalMask p.toNat = m
      then s.noteMask p.toNat m (bits (wordSb w) 14 4)
      else (s.noteMask p.toNat m (bits (wordSb w) 14 4)).announce p.toNat m) := by
    change execWidthChange p ws s = _
    unfold execWidthChange
    simp only [hw, ← hm]
    exact due_of_true (by rcases hst with hst | hst <;> simp [hon, hst])
  refine ⟨_, hexec, ?_⟩
  have hnoted : ((s.noteMask p.toNat m (bits (wordSb w) 14 4)).paux p.toNat).rxWidth =
      (s.paux p.toNat).rxWidth ++ [(m, bits (wordSb w) 14 4)] := by rw [State.noteMask, State.paux_setPaux_self]
  split
  · next hgoal => exact ⟨hnoted, (s.goalMask_noteMask ..).trans hgoal, rfl, rfl⟩
  · refine ⟨?_, State.goalMask_announce .., ?_, ?_⟩
    · rw [State.paux_announce, hnoted]
    · rw [State.port_announce]
      rfl
    · rw [State.announce_only]
      rfl

/-- The partner's first change whose block has come. -/
theorem State.rxWidthNow_of_come {s : State} {p : Nat} {m : BitVec 4} {b : Nat} {l : List (BitVec 4 × Nat)}
    (hwidth : (s.paux p).rxWidth = (m, b) :: l) (hcome : (s.rxBlock p + 2048 - b) % 2048 < 1024) :
    s.rxWidthNow p = (s.setPaux p { s.paux p with rxWidth := l }).setPort p { s.port p with rxLanes := m } := by
  unfold State.rxWidthNow
  simp only [hwidth, if_pos hcome]

theorem State.rxWidthNow_only (s : State) (p : Nat) :
    s.rxWidthNow p = { s with ports := (s.rxWidthNow p).ports, aux := (s.rxWidthNow p).aux } := by
  unfold State.rxWidthNow
  split
  · split <;> rfl
  · rfl

/-- Without a change of this end whose block is fixed, that of the partner takes effect alone. -/
theorem exec_widthChangeEffective_of_partner {s : State} {p : BitVec 6} (hon : s.on = true)
    (hnone : ((s.paux p.toNat).width.head?.bind Prod.snd) = none) :
    exec (.widthChangeEffective p) s = .next (s.rxWidthNow p.toNat) := by
  change execWidthChangeEffective p s = _
  unfold execWidthChangeEffective
  dsimp only
  split
  · next hsome => simp [hsome] at hnone
  · exact due_of_true hon

/-- A lane of a port in service by the mask that takes effect. -/
def State.maskLane (p : Nat) (m : BitVec 4) (s : State) (i : Nat) : State :=
  s.setLane (4 * p + i) { s.lane (4 * p + i) with inService := m.getLsbD i }

/-- A port on the mask that takes effect, the other changes still to come. -/
def State.takeMask (s : State) (p : Nat) (m : BitVec 4) (l : List (BitVec 4 × Option Nat)) : State :=
  (List.range 4).foldl (State.maskLane p m)
    ((s.setPaux p { s.paux p with width := l }).setPort p { s.port p with lanes := m })

theorem State.takeMask_only (s : State) (p : Nat) (m : BitVec 4) (l : List (BitVec 4 × Option Nat)) :
    s.takeMask p m l = { (s.setPaux p { s.paux p with width := l }).setPort p { s.port p with lanes := m } with
      lanes := (s.takeMask p m l).lanes } := State.foldl_lanes_only fun _ _ => rfl

theorem State.takeMask_inService {s : State} {p : Nat} {m : BitVec 4} {l : List (BitVec 4 × Option Nat)} {i : Nat}
    (hi : i < 4) : ((s.takeMask p m l).lane (4 * p + i)).inService = m.getLsbD i := by
  obtain ⟨t, -, hfold⟩ := State.lane_foldl_of_mem (g := State.maskLane p m)
    (s := (s.setPaux p { s.paux p with width := l }).setPort p { s.port p with lanes := m })
    (fun t i k hk => (State.lane_setLane ..).trans (if_neg hk.symm)) List.nodup_range (List.mem_range.mpr hi)
  rw [State.takeMask, hfold, State.maskLane, State.lane_setLane_self]

/-- This end's first change, whose block has come, takes effect with the partner's. -/
theorem exec_widthChangeEffective_of_own {s : State} {p : BitVec 6} {m : BitVec 4} {b : Nat}
    {l : List (BitVec 4 × Option Nat)} (hon : s.on = true) (hwidth : (s.paux p.toNat).width = (m, some b) :: l)
    (hcome : b ≤ blockAt s.clk) (hm : m ≠ 0) :
    exec (.widthChangeEffective p) s = .next ((s.rxWidthNow p.toNat).takeMask p.toNat m l) := by
  change execWidthChangeEffective p s = _
  unfold execWidthChangeEffective
  simp only [hwidth, hon, Bool.not_true, Bool.false_eq_true, if_false, Nat.not_lt.mpr hcome, hm]
  rfl

/-- Settles O29: each event is one lemma above, from `exec_loopLockLoss` to `exec_widthChangeEffective_of_own`. -/
theorem sparingAndWidthChange : Obligations.SparingAndWidthChange := by
  refine ⟨fun s l hon hl hin hfailed hfenced hspared hsfailed hsfenced => ?_,
    fun s p i o hon hsparing hphase hcounted hok htime => ?_, fun s p i o hon hsparing hfailed htime => ?_,
    fun s u p i o l hon hl hsparing hfailed htime hu => ?_, fun s p ws w i hw hi hon hst hpeer => ?_,
    fun s p ws w i hw hi hon hfailed hfenced hsparing => ?_, fun s l hst => ?_,
    fun s l hst hall => State.fenceLaneFinal_of_last hst hall, fun s p ws w m hw hm hon hst => exec_widthChange hw hm hon hst,
    fun s p m b l hon hwidth hcome hnone => ?_, fun s p m b l hon hwidth hcome hm => ?_⟩
  · refine ⟨_, exec_loopLockLoss hon hl hin hfailed hfenced hspared hsfailed hsfenced, ?_, ?_, ?_, ?_, ?_,
      ⟨_, rfl, ?_⟩, ?_⟩
    · rw [State.lane_putSpare_self hl, State.dropFailed, State.lane_announce, State.lane_setLane_self]
    · rw [State.lane_putSpare_spare]
    · rw [State.lane_putSpare_spare]
    · rw [State.paux_putSpare]
    · rw [State.paux_putSpare, State.dropFailed, State.announce_only]
      rfl
    · rw [State.paux_putSpare, State.dropFailed, State.paux_announce]
      rfl
    · rw [State.putSpare, State.dropFailed, State.announce_only]
      rfl
  · obtain ⟨hport, hlane⟩ := lane_index (p := p.toNat) i.isLt
    obtain ⟨hrestored, hgoal, hnone, honly⟩ := (s.spareServes p.toNat i.toNat).restoreLane_spec (4 * p.toNat + i.toNat)
    rw [hport, hlane, State.goalMask_spareServes] at hgoal
    rw [hport, State.paux_spareServes] at hnone
    rw [State.lane_spareServes] at hrestored
    refine ⟨_, exec_spareTrainDone_of_passed hon hsparing hphase hcounted hok htime, ?_, ?_, ?_, ?_, ?_⟩
    · rw [State.paux_answerSpare, hnone]
    · rw [State.lane_answerSpare, hrestored]
    · rw [State.lane_answerSpare, hrestored]
    · rw [State.goalMask_answerSpare, hgoal]
    · rw [State.answerSpare_only, honly, State.spareServes, State.record_classC_only]
      rfl
  · refine ⟨_, exec_spareTrainDone_of_late hon hsparing htime, ?_⟩
    rw [if_neg (by simp [hfailed])]
    refine ⟨?_, ?_, ?_, ?_⟩
    · rw [State.spareFreed, State.paux_answerSpare, State.paux_setLane, State.paux_setPaux_self]
    · rw [State.spareFreed, State.lane_answerSpare, State.lane_setLane_self]
    · rw [State.spareFreed, State.port_answerSpare, State.paux_setLane, State.paux_setPaux_self]
      rfl
    · rw [State.spareFreed, State.answerSpare_only]
      rfl
  · subst hl hu
    refine (exec_spareTrainDone_of_late hon hsparing htime).trans ?_
    rw [if_pos hfailed]
    rfl
  · subst hi
    have hi4 : bits (wordSb w) 1 0 < 4 := Nat.mod_lt _ (by decide)
    refine ⟨fun hsparing => ?_, fun hsparing htaken => ?_, fun hsparing hspared hsfailed hsfenced => ?_⟩
    · rw [exec_spareReq hw hon hst hpeer, if_pos hsparing, State.noteAsk]
    · rw [exec_spareReq hw hon hst hpeer, if_neg hsparing, State.trySpare_of_taken htaken]
      rfl
    · obtain ⟨hport, hlane⟩ := lane_index (p := p.toNat) hi4
      have hspare := State.paux_putSpare s (4 * p.toNat + bits (wordSb w) 1 0)
      rw [hport, hlane] at hspare
      refine ⟨(s.putSpare (4 * p.toNat + bits (wordSb w) 1 0)).noteAsk p.toNat (bits (wordSb w) 1 0),
        (exec_spareReq hw hon hst hpeer).trans ?_, ?_⟩
      · rw [if_neg hsparing, State.trySpare_of_free hspared hsfailed hsfenced, Option.elim_some]
      · rw [State.noteAsk, State.paux_setPaux_self, State.lane_setPaux, State.lane_putSpare_spare, hspare]
        exact ⟨rfl, List.mem_append_right _ List.mem_cons_self, rfl, rfl, rfl⟩
  · subst hi
    obtain ⟨hport, hlane⟩ := lane_index (p := p.toNat) (i := bits (wordSb w) 1 0) (Nat.mod_lt _ (by decide))
    refine ⟨fun hok => ?_, fun hbad => ?_⟩
    · obtain ⟨hrestored, hgoal, -, honly⟩ := s.restoreLane_spec (4 * p.toNat + bits (wordSb w) 1 0)
      rw [hport, hlane] at hgoal
      exact ⟨_, (exec_spareDone hw hon hfailed hfenced hsparing).trans (congrArg _ (if_pos hok)), by rw [hrestored], hgoal, honly⟩
    · rw [exec_spareDone hw hon hfailed hfenced hsparing, if_neg (by simp [hbad])]
  · refine ⟨_, State.fenceLaneFinal_of_active hst, ?_, ?_⟩
    · rw [State.lane_laneFenced, if_pos rfl]
    · rw [State.laneFenced, State.record_only]
      rfl
  · refine ⟨_, (exec_widthChangeEffective_of_partner hon hnone).trans
      (congrArg _ (State.rxWidthNow_of_come hwidth hcome)), State.port_setPort_self .., ?_, rfl⟩
    rw [State.paux_setPort, State.paux_setPaux_self]
  · have honly := (s.rxWidthNow p.toNat).takeMask_only p.toNat m l
    have hin {i : Nat} (hi : i < 4) := (s.rxWidthNow p.toNat).takeMask_inService (p := p.toNat) (m := m) (l := l) hi
    refine ⟨_, exec_widthChangeEffective_of_own hon hwidth hcome hm, ?_⟩
    generalize (s.rxWidthNow p.toNat).takeMask p.toNat m l = t at honly hin
    refine ⟨?_, ?_, fun i hi => hin hi, ?_⟩
    · rw [honly]
      exact congrArg Port.lanes (State.port_setPort_self ..)
    · rw [honly]
      exact congrArg PortAux.width (State.paux_setPaux_self ..)
    · rw [honly, State.rxWidthNow_only]
      rfl

end Sys2Proof.Machine

/-! Training (05 R119 to R121, Table 5.4): phases that end, PARAM and its repetition, and time limits. -/

namespace Sys2Proof.Machine

/-! ### The phases of a lane -/

/-- A lane in its next phase: READY to the partner, and behind phase 5 this end's PARAM. -/
def State.phaseSent (s : State) (l : Nat) : State :=
  let s1 := (s.lanePhase l ((s.lane l).phase + 1)).sendSide (l / 4) (.ready (l % 4) (s.lane l).phase)
  if (s.lane l).phase = 5 then s1.sendSide (l / 4) (.param (l % 4)) else s1

/-- The port trains with it, unless it is in a retrain. -/
def State.nextPhase (s : State) (l : Nat) : State :=
  if (s.port (l / 4)).st == .retrain then s.phaseSent l
  else (s.phaseSent l).setPort (l / 4) { (s.phaseSent l).port (l / 4) with st := .training }

theorem State.phaseSent_only (s : State) (l : Nat) : s.phaseSent l =
    { s with lanes := (s.lanePhase l ((s.lane l).phase + 1)).lanes, ports := (s.phaseSent l).ports } := by
  unfold State.phaseSent
  dsimp only
  split <;> rfl

theorem State.port_phaseSent (s : State) (l : Nat) : (s.phaseSent l).port (l / 4) = { s.port (l / 4) with
    sideQ := (s.port (l / 4)).sideQ ++ [.ready (l % 4) (s.lane l).phase] ++
      if (s.lane l).phase = 5 then [.param (l % 4)] else [] } := by
  unfold State.phaseSent
  dsimp only
  split
  · rw [State.port_sendSide_self, State.port_sendSide_self]
    rfl
  · rw [State.port_sendSide_self, List.append_nil]
    rfl

theorem State.port_phaseSent_of_ne {s : State} {l q : Nat} (h : q ≠ l / 4) : (s.phaseSent l).port q = s.port q := by
  unfold State.phaseSent
  dsimp only
  split
  · rw [State.port_sendSide, if_neg h.symm, State.port_sendSide, if_neg h.symm]
    rfl
  · rw [State.port_sendSide, if_neg h.symm]
    rfl

/-- The next phase changes its lane and its port. -/
theorem State.nextPhase_spec (s : State) (l : Nat) :
    (s.nextPhase l).lane l = { s.lane l with phase := (s.lane l).phase + 1, phaseAt := s.clk, foms := [] } ∧
    ((s.nextPhase l).port (l / 4)).sideQ = (s.port (l / 4)).sideQ ++ [.ready (l % 4) (s.lane l).phase] ++
      (if (s.lane l).phase = 5 then [.param (l % 4)] else []) ∧
    ((s.nextPhase l).port (l / 4)).st = (if (s.port (l / 4)).st = .retrain then .retrain else .training) ∧
    (∀ q, q ≠ l / 4 → (s.nextPhase l).port q = s.port q) ∧ (∀ k, k ≠ l → (s.nextPhase l).lane k = s.lane k) ∧
    s.nextPhase l = { s with lanes := (s.nextPhase l).lanes, ports := (s.nextPhase l).ports } := by
  have hlane (k : Nat) : (s.phaseSent l).lane k =
      if l = k then { s.lane l with phase := (s.lane l).phase + 1, phaseAt := s.clk, foms := [] } else s.lane k := by
    rw [State.phaseSent_only]
    exact State.lane_setLane ..
  unfold State.nextPhase
  by_cases hretrain : (s.port (l / 4)).st = .retrain
  · rw [if_pos (beq_iff_eq.mpr hretrain), if_pos hretrain, State.port_phaseSent, hlane, if_pos rfl]
    exact ⟨rfl, rfl, hretrain, fun q hq => State.port_phaseSent_of_ne hq, fun k hk => (hlane k).trans (if_neg hk.symm),
      by rw [State.phaseSent_only]⟩
  · rw [if_neg (mt beq_iff_eq.mp hretrain), if_neg hretrain, State.port_setPort_self, State.lane_setPort, hlane, if_pos rfl,
      State.port_phaseSent]
    refine ⟨rfl, rfl, rfl, fun q hq => ?_, fun k hk => (hlane k).trans (if_neg hk.symm), ?_⟩
    · rw [State.port_setPort, if_neg hq.symm, State.port_phaseSent_of_ne hq]
    · rw [State.phaseSent_only]
      rfl

section
variable {s : State} {l : BitVec 9} {o : PhaseObs} (hl : l.toNat < 256) (hmay : s.mayTrain (l.toNat / 4) = true)
  (hwidth : l.toNat % 4 < s.trainWidth (l.toNat / 4)) (hfenced : (s.lane l.toNat).fenced = false)
  (hfailed : (s.lane l.toNat).failed = false) (hst : (s.port (l.toNat / 4)).st ≠ .active)
include hl hmay hwidth hfenced hfailed hst

/-- A phase of a lane that trains ends where it may: by what it measured the lane fails or goes on. -/
theorem exec_trainingPhaseDone_of_early (hphase : (s.lane l.toNat).phase < 6) (hok : s.phaseOk l.toNat = true) :
    exec (.trainingPhaseDone l o) s =
      .next (if s.phasePass l.toNat o then s.nextPhase l.toNat else s.laneFailed l.toNat) := by
  change execTrainingPhaseDone l o s = _
  unfold execTrainingPhaseDone
  dsimp only
  rw [if_neg (Nat.not_le.mpr hl), if_pos hphase, due_of_true (by simp [hmay, hwidth, hfenced, hfailed, hst, hok])]
  cases s.phasePass l.toNat o <;> rfl

/-- In phase 6 the port passes to phase 7 where every lane may. -/
theorem exec_trainingPhaseDone_of_six (hphase : (s.lane l.toNat).phase = 6) :
    exec (.trainingPhaseDone l o) s = .next (s.toPhase7 (l.toNat / 4)) := by
  change execTrainingPhaseDone l o s = _
  unfold execTrainingPhaseDone
  dsimp only
  rw [if_neg (Nat.not_le.mpr hl), if_neg (by omega), if_pos hphase,
    due_of_true (by simp [hmay, hwidth, hfenced, hfailed, hst, hphase])]

end

/-- A phase of a spare that trains for a lane. -/
theorem exec_trainingPhaseDone_of_spare {s : State} {l : BitVec 9} {o : PhaseObs} {k : Nat} (hl : 256 ≤ l.toNat)
    (hon : s.on = true) (hfor : s.sparedFor l.toNat = some k) (hfirst : 1 ≤ (s.lane l.toNat).phase)
    (hphase : (s.lane l.toNat).phase < 5) (hok : s.phaseOk l.toNat = true) (hpass : s.phasePass l.toNat o = true) :
    exec (.trainingPhaseDone l o) s = .next (State.sendSide (s.setLane l.toNat { s.lane l.toNat with
      phase := (s.lane l.toNat).phase + 1, phaseAt := s.clk, foms := [] }) (k / 4)
        (.ready (k % 4) (s.lane l.toNat).phase)) := by
  change execTrainingPhaseDone l o s = _
  unfold execTrainingPhaseDone
  dsimp only
  rw [if_pos hl, due_of_true (by simp [hon, hfor, hfirst, hphase, hok, hpass]), hfor]
  rfl

/-! ### Phase 7 (05 R119) -/

theorem State.passLane_only (p : Nat) (s : State) (i : Nat) :
    s.passLane p i = { s with lanes := (s.passLane p i).lanes, ports := (s.passLane p i).ports } := rfl

theorem State.foldl_passLane_only (p : Nat) (s : State) (l : List Nat) : l.foldl (State.passLane p) s =
    { s with lanes := (l.foldl (State.passLane p) s).lanes, ports := (l.foldl (State.passLane p) s).ports } := by
  induction l generalizing s with
  | nil => rfl
  | cons i l ih =>
    rw [List.foldl_cons, ih]
    generalize l.foldl (State.passLane p) (s.passLane p i) = t
    rw [State.passLane_only]

/-- Lanes that pass leave what the port expects next. -/
theorem State.foldl_passLane_port_e (p : Nat) (s : State) (l : List Nat) :
    ((l.foldl (State.passLane p) s).port p).e = (s.port p).e :=
  foldl_apply_eq (fun t : State => (t.port p).e) fun t i => by rw [State.passLane, State.port_sendSide_self]; rfl

theorem State.foldl_passLane_phase {p i : Nat} {s : State} {l : List Nat} (hnodup : l.Nodup) (hi : i ∈ l) :
    ((l.foldl (State.passLane p) s).lane (4 * p + i)).phase = 7 := by
  obtain ⟨t, -, hfold⟩ := State.lane_foldl_of_mem (g := State.passLane p) (s := s)
    (fun t i k hk => (State.lane_setLane ..).trans (if_neg hk.symm)) hnodup hi
  rw [hfold, State.lane_sendSide, State.lanePhase, State.lane_setLane_self]

theorem State.lanesTraining_nodup (s : State) (p : Nat) : (s.lanesTraining p).Nodup := List.nodup_range.filter _

/-- Where every lane that trains is in phase 6 with a good PARAM, the port passes. -/
theorem State.toPhase7_of_all {s : State} {p : Nat} (hall : ∀ i ∈ s.lanesTraining p,
    (s.lane (4 * p + i)).phase = 6 ∧ (s.lane (4 * p + i)).paramOk = some true) : s.toPhase7 p =
      ((s.lanesTraining p).foldl (State.passLane p) (s.setPaux p { s.paux p with refused := false })).sendSync p := by
  unfold State.toPhase7
  refine if_pos (List.all_eq_true.mpr fun i hi => ?_)
  obtain ⟨hphase, hparam⟩ := hall i hi
  simp [hphase, hparam]

theorem State.sendSync_only (s : State) (p : Nat) : s.sendSync p = { s with ports := (s.sendSync p).ports } := rfl

/-- This end's CREDIT_SYNC names the SEQ expected next. -/
theorem State.creditSync_mem_sendSync (s : State) (p : Nat) :
    ∃ lims, .creditSync (s.port p).e lims ∈ ((s.sendSync p).port p).linkQ := by
  unfold State.sendSync
  dsimp only
  rw [State.port_sendLink_self]
  exact ⟨_, List.mem_append_right _ List.mem_cons_self⟩

/-- The port passes to phase 7 and sends CREDIT_SYNC. -/
theorem State.toPhase7_spec {s : State} {p : Nat} (hall : ∀ i ∈ s.lanesTraining p,
    (s.lane (4 * p + i)).phase = 6 ∧ (s.lane (4 * p + i)).paramOk = some true) :
    (∀ i ∈ s.lanesTraining p, ((s.toPhase7 p).lane (4 * p + i)).phase = 7) ∧
    (∃ lims, .creditSync (s.port p).e lims ∈ ((s.toPhase7 p).port p).linkQ) ∧
    ((s.toPhase7 p).paux p).refused = false ∧ s.toPhase7 p =
      { s with lanes := (s.toPhase7 p).lanes, ports := (s.toPhase7 p).ports, aux := (s.toPhase7 p).aux } := by
  rw [State.toPhase7_of_all hall]
  have honly := State.foldl_passLane_only p (s.setPaux p { s.paux p with refused := false }) (s.lanesTraining p)
  have he := State.foldl_passLane_port_e p (s.setPaux p { s.paux p with refused := false }) (s.lanesTraining p)
  have hphase {i : Nat} (hi : i ∈ s.lanesTraining p) := State.foldl_passLane_phase (p := p)
    (s := s.setPaux p { s.paux p with refused := false }) (s.lanesTraining_nodup p) hi
  generalize (s.lanesTraining p).foldl (State.passLane p) (s.setPaux p { s.paux p with refused := false }) = t
    at honly he hphase
  refine ⟨fun i hi => hphase hi, ?_, ?_, ?_⟩
  · rw [State.port_setPaux] at he
    exact he ▸ t.creditSync_mem_sendSync p
  · rw [State.sendSync_only, honly]
    exact congrArg PortAux.refused (State.paux_setPaux_self ..)
  · rw [State.sendSync_only, honly]
    rfl

/-! ### PARAM (05 R120, R121) -/

/-- Lanes beyond the partner's width go idle. -/
def State.idleBeyond (p width : Nat) (s : State) (i : Nat) : State :=
  if width ≤ i && 0 < width then
    s.setLane (4 * p + i) { s.lane (4 * p + i) with phase := 0, lock := false, paramOk := none }
  else s

theorem State.idleBeyond_only (p width : Nat) (s : State) (i : Nat) :
    s.idleBeyond p width i = { s with lanes := (s.idleBeyond p width i).lanes } := by
  unfold State.idleBeyond
  split <;> rfl

theorem State.lane_idleBeyond_of_ne {p width i k : Nat} {s : State} (h : k ≠ 4 * p + i) :
    (s.idleBeyond p width i).lane k = s.lane k := by
  unfold State.idleBeyond
  split
  · rw [State.lane_setLane, if_neg h.symm]
  · rfl

/-- A lane within the partner's width stays. -/
theorem State.lane_foldl_idleBeyond {p width i : Nat} {s : State} {l : List Nat} (hi : i < width) :
    (l.foldl (State.idleBeyond p width) s).lane (4 * p + i) = s.lane (4 * p + i) :=
  foldl_apply_eq (fun t : State => t.lane (4 * p + i)) fun t j => by
    by_cases hj : j = i
    · rw [State.idleBeyond, if_neg (by simp [hj, hi])]
    · exact State.lane_idleBeyond_of_ne (by omega)

/-- A lane with what its PARAM has shown. -/
def State.paramShown (s : State) (l : Nat) (ok : Bool) : State := s.setLane l { s.lane l with paramOk := some ok }

/-- A PARAM that is taken: the port trains at the smaller width. -/
def State.paramTaken (s : State) (l width : Nat) : State :=
  (List.range 4).foldl (State.idleBeyond (l / 4) width)
    ((s.paramShown l true).setPaux (l / 4) { s.paux (l / 4) with partnerW := width })

/-- A PARAM that is refused: logged, noted with its time, and recorded with source 0x0114. -/
def State.paramRefused (s : State) (l code port : Nat) : State :=
  let s1 := (s.paramShown l false).violation (l / 4) code 0 0 0
  (s1.setPaux (l / 4) { s1.paux (l / 4) with paramAt := s.clk }).record 0 3 (l / 4) 0x0114 port

/-- What the PARAM of all its lanes makes of a port. -/
def State.judgeParams (s : State) (p : Nat) (badVersion : Bool) : State :=
  s.setPaux p { s.paux p with
    refused := (List.range 4).any (fun i => (s.lane (4 * p + i)).paramOk == some false), badVersion := badVersion }

theorem State.paux_judgeParams (s : State) (p : Nat) (badVersion : Bool) : (s.judgeParams p badVersion).paux p =
    { s.paux p with
      refused := (List.range 4).any (fun i => (s.lane (4 * p + i)).paramOk == some false), badVersion := badVersion } :=
  State.paux_setPaux_self ..

/-- The profile and the mode of a PARAM are this end's. -/
def State.paramProfile (s : State) (w : BitVec 40) : Bool :=
  decide (bits (wordSb w) 3 0 = 1) && bit (wordSb w) 4 == s.irc.hall

/-- A PARAM stands on its lane and comes from the port that this one is wired to. -/
def State.paramWiring (s : State) (l : Nat) (w : BitVec 40) : Bool :=
  wordLane w == l % 4 && match s.peerPort (l / 4) with
    | some q => q == wordPort w
    | none => true

theorem State.paramWiring_eq_true {s : State} {l : Nat} {w : BitVec 40} : s.paramWiring l w = true ↔
    wordLane w = l % 4 ∧ ∀ q, s.peerPort (l / 4) = some q → q = wordPort w := by
  unfold State.paramWiring
  cases s.peerPort (l / 4) <;> simp

/-- A PARAM that is good or not, with its result on its lane. -/
def State.paramHeard (s : State) (l : Nat) (w : BitVec 40) (good : Bool) : State :=
  if good then (List.range 4).foldl (State.idleBeyond (l / 4) (bits (wordSb w) 7 5))
    ((s.paramShown l good).setPaux (l / 4)
      { (s.paramShown l good).paux (l / 4) with partnerW := bits (wordSb w) 7 5 })
  else
    let s1 := (s.paramShown l good).violation (l / 4) (if s.paramProfile w then 6 else 5) 0 0 0
    (s1.setPaux (l / 4) { s1.paux (l / 4) with paramAt := s.clk }).record 0 3 (l / 4) 0x0114 (wordPort w)

/-- A PARAM in phase 6 is taken or refused by its profile, its mode and its wiring. -/
theorem exec_param {s : State} {l : BitVec 9} {ws : List (BitVec 40)} {w : BitVec 40} (hw : sideHeard 3 ws = some w)
    (hon : s.on = true) (hl : l.toNat < 256) (hphase : (s.lane l.toNat).phase = 6) : exec (.param l ws) s =
      .next ((if s.paramProfile w && s.paramWiring l.toNat w then s.paramTaken l.toNat (bits (wordSb w) 7 5)
        else s.paramRefused l.toNat (if s.paramProfile w then 6 else 5) (wordPort w)).judgeParams (l.toNat / 4)
          (bits (wordSb w) 3 0 != 1)) := by
  have hdue : (s.on && decide (l.toNat < 256) && (s.lane l.toNat).phase == 6) = true := by simp [hon, hl, hphase]
  change execParam l ws s = _
  unfold execParam
  rw [hw]
  refine (due_of_true hdue).trans ?_
  change Host.Outcome.next ((s.paramHeard l.toNat w (s.paramProfile w && s.paramWiring l.toNat w)).judgeParams _ _) = _
  cases s.paramProfile w && s.paramWiring l.toNat w <;> rfl

section
variable {s : State} {l : BitVec 9} {ws : List (BitVec 40)} {w : BitVec 40} (hw : sideHeard 3 ws = some w)
  (hon : s.on = true) (hl : l.toNat < 256) (hphase : (s.lane l.toNat).phase = 6)
include hw hon hl hphase

/-- PARAM of the profile, the mode, the wiring and the lane that this end expects. -/
theorem exec_param_of_good (hversion : bits (wordSb w) 3 0 = 1) (hmode : bit (wordSb w) 4 = s.irc.hall)
    (hwired : ∀ q, s.peerPort (l.toNat / 4) = some q → q = wordPort w) (hlane : wordLane w = l.toNat % 4) :
    exec (.param l ws) s =
      .next ((s.paramTaken l.toNat (bits (wordSb w) 7 5)).judgeParams (l.toNat / 4) false) := by
  have hprofile : s.paramProfile w = true := by simp [State.paramProfile, hversion, hmode]
  rw [exec_param hw hon hl hphase, hprofile, State.paramWiring_eq_true.mpr ⟨hlane, hwired⟩, hversion]
  rfl

/-- PARAM of another profile, mode, wiring or lane. -/
theorem exec_param_of_bad (hbad : bits (wordSb w) 3 0 ≠ 1 ∨ bit (wordSb w) 4 ≠ s.irc.hall ∨ wordLane w ≠ l.toNat % 4 ∨
    (∃ q, s.peerPort (l.toNat / 4) = some q ∧ q ≠ wordPort w)) : ∃ code, 4 < code ∧ exec (.param l ws) s =
      .next ((s.paramRefused l.toNat code (wordPort w)).judgeParams (l.toNat / 4) (bits (wordSb w) 3 0 != 1)) := by
  refine ⟨if s.paramProfile w then 6 else 5, by split <;> decide, ?_⟩
  rw [exec_param hw hon hl hphase, if_neg]
  intro hgood
  obtain ⟨hprofile, hwiring⟩ := (Bool.and_eq_true _ _).mp hgood
  obtain ⟨hlane, hwired⟩ := State.paramWiring_eq_true.mp hwiring
  obtain ⟨hversion, hmode⟩ : bits (wordSb w) 3 0 = 1 ∧ bit (wordSb w) 4 = s.irc.hall := by
    simpa [State.paramProfile] using hprofile
  obtain h | h | h | ⟨q, hpeer, hq⟩ := hbad
  · exact h hversion
  · exact h hmode
  · exact h hlane
  · exact hq (hwired q hpeer)

end

theorem State.paramTaken_only (s : State) (l width : Nat) : s.paramTaken l width =
    { s with lanes := (s.paramTaken l width).lanes, aux := (s.paramTaken l width).aux } := by
  unfold State.paramTaken
  rw [State.foldl_lanes_only (State.idleBeyond_only (l / 4) width)]
  rfl

theorem State.paux_paramTaken (s : State) (l width : Nat) :
    (s.paramTaken l width).paux (l / 4) = { s.paux (l / 4) with partnerW := width } := by
  unfold State.paramTaken
  rw [State.foldl_lanes_only (State.idleBeyond_only (l / 4) width)]
  exact State.paux_setPaux_self ..

theorem State.lane_paramTaken {s : State} {l width : Nat} (h : l % 4 < width) :
    (s.paramTaken l width).lane l = { s.lane l with paramOk := some true } := by
  have hfold := State.lane_foldl_idleBeyond (p := l / 4) (l := List.range 4)
    (s := (s.paramShown l true).setPaux (l / 4) { s.paux (l / 4) with partnerW := width }) h
  rw [Nat.div_add_mod] at hfold
  rw [State.paramTaken, hfold, State.lane_setPaux, State.paramShown, State.lane_setLane_self]

/-- A PARAM that is refused changes its lane, what stands beside its port and the fault collector; no port changes. -/
theorem State.paramRefused_spec {s : State} {l code : Nat} (port : Nat) (hcode : 4 < code) :
    (s.paramRefused l code port).lane l = { s.lane l with paramOk := some false } ∧
    ((s.paramRefused l code port).paux (l / 4)).paramAt = s.clk ∧ (s.paramRefused l code port).ports = s.ports ∧
    s.paramRefused l code port = { s with
      lanes := (s.paramRefused l code port).lanes, aux := (s.paramRefused l code port).aux,
      flt := (s.paramRefused l code port).flt, cnt := (s.paramRefused l code port).cnt } := by
  have hviolation := State.violation_only_of_training (s := s.paramShown l false) (p := l / 4) (vc := 0) (typ := 0)
    (seq := 0) hcode
  unfold State.paramRefused
  dsimp only
  generalize (s.paramShown l false).violation (l / 4) code 0 0 0 = t at hviolation
  refine ⟨?_, ?_, ?_, ?_⟩
  · rw [State.lane_record, hviolation]
    exact State.lane_setLane_self ..
  · rw [State.paux_record, State.paux_setPaux_self, hviolation]
  · rw [State.record_ports, hviolation]
    rfl
  · rw [State.record_classC_only, hviolation]
    rfl

/-! ### PARAM_REPEAT (05 R120) -/

/-- PARAM once more on a lane. -/
def State.sendParam (p : Nat) (s : State) (i : Nat) : State := s.sendSide p (.param i)

theorem State.foldl_sendParam_spec (p : Nat) (s : State) (l : List Nat) :
    ((l.foldl (State.sendParam p) s).port p).sideQ = (s.port p).sideQ ++ l.map SideMsg.param ∧
    l.foldl (State.sendParam p) s = { s with ports := (l.foldl (State.sendParam p) s).ports } := by
  induction l generalizing s with
  | nil => exact ⟨(List.append_nil _).symm, rfl⟩
  | cons i l ih =>
    obtain ⟨hsent, honly⟩ := ih (s.sendParam p i)
    rw [List.foldl_cons]
    refine ⟨?_, ?_⟩
    · rw [hsent, State.sendParam, State.port_sendSide_self, List.append_assoc]
      rfl
    · rw [honly]
      rfl

theorem exec_paramRepeat {s : State} {p : BitVec 6} (hon : s.on = true) (hrefused : (s.paux p.toNat).refused = true)
    (hdue : (s.paux p.toNat).paramAt + 100000000 ≤ s.clk) (hlanes : s.lanesIn p.toNat 6 ≠ []) :
    exec (.paramRepeat p) s = .next (((s.lanesIn p.toNat 6).foldl (State.sendParam p.toNat) s).setPaux p.toNat
      { s.paux p.toNat with paramAt := s.clk }) := by
  have hsome : (s.lanesIn p.toNat 6).isEmpty = false := List.isEmpty_eq_false_iff.mpr hlanes
  exact due_of_true (by simp [hon, hrefused, hdue, hsome])

/-! ### Time limits (05 R119) -/

theorem exec_trainingPhaseTimeout {s : State} {l : BitVec 9} {n : Nat} (hon : s.on = true) (hl : l.toNat < 256)
    (hst : (s.port (l.toNat / 4)).st = .training) (hlimit : phaseLimit (s.lane l.toNat).phase = some n)
    (hdue : (s.lane l.toNat).phaseAt + n ≤ s.clk)
    (hparam : (s.lane l.toNat).phase = 6 → (s.lane l.toNat).paramOk = none) : exec (.trainingPhaseTimeout l) s =
      .next ((s.setLane l.toNat { s.lane l.toNat with phase := 0 }).laneFailed l.toNat) := by
  change execTrainingPhaseTimeout l s = _
  unfold execTrainingPhaseTimeout
  simp only [hlimit]
  refine due_of_true ?_
  by_cases hsix : (s.lane l.toNat).phase = 6
  · simp [hon, hl, hst, hdue, hparam hsix]
  · simp [hon, hl, hst, hdue, hsix]

/-- Settles O30: the phases of a lane (`exec_trainingPhaseDone_of_early`) and of the port (`State.toPhase7_spec`), PARAM taken
or refused (`exec_param_of_good`, `exec_param_of_bad`) and repeated, and the time limits. -/
theorem trainingStepsTaken : Obligations.TrainingStepsTaken := by
  refine ⟨fun s l o hl hmay hwidth hfenced hfailed hst hphase hok hpass => ?_,
    fun s l o k hl hon hfor hfirst hphase hok hpass =>
      exec_trainingPhaseDone_of_spare hl hon hfor hfirst hphase hok hpass,
    fun s l o hl hmay hwidth hfenced hfailed hst hphase hok hpass => ?_,
    fun s l o hl hmay hwidth hfenced hfailed hst hphase hall => ?_,
    fun s l ws w hw hon hl hphase hversion hmode hwired hlane hwidth => ?_,
    fun s l ws w hw hon hl hphase hbad => ?_, fun s p hon hrefused hdue hlanes => ?_,
    fun s l n hon hl hst hlimit hdue hparam => exec_trainingPhaseTimeout hon hl hst hlimit hdue hparam⟩
  · rw [exec_trainingPhaseDone_of_early hl hmay hwidth hfenced hfailed hst hphase hok, if_neg (by simp [hpass])]
  · exact ⟨_, (exec_trainingPhaseDone_of_early hl hmay hwidth hfenced hfailed hst hphase hok).trans
      (congrArg _ (if_pos hpass)), s.nextPhase_spec l.toNat⟩
  · exact ⟨_, exec_trainingPhaseDone_of_six hl hmay hwidth hfenced hfailed hst hphase, State.toPhase7_spec hall⟩
  · refine ⟨_, exec_param_of_good hw hon hl hphase hversion hmode hwired hlane, ?_, ?_, ?_, ?_, ?_⟩
    · exact State.lane_paramTaken hwidth
    · rw [State.paux_judgeParams, State.paux_paramTaken]
    · rw [State.paux_judgeParams]
    · rw [State.paux_judgeParams]
      rfl
    · rw [State.judgeParams, State.paramTaken_only]
      rfl
  · obtain ⟨code, hcode, hexec⟩ := exec_param_of_bad hw hon hl hphase hbad
    obtain ⟨hshown, htime, hports, honly⟩ := State.paramRefused_spec (s := s) (l := l.toNat) (wordPort w) hcode
    refine ⟨_, hexec, hshown, ?_, ?_, ?_, hports, ?_⟩
    · rw [State.paux_judgeParams]
      refine List.any_eq_true.mpr ⟨l.toNat % 4, List.mem_range.mpr (Nat.mod_lt _ (by decide)), ?_⟩
      rw [Nat.div_add_mod, hshown]
      rfl
    · rw [State.paux_judgeParams]
      by_cases hversion : bits (wordSb w) 3 0 = 1 <;> simp [hversion]
    · rw [State.paux_judgeParams, htime]
    · rw [State.judgeParams, honly]
      rfl
  · obtain ⟨hsent, honly⟩ := State.foldl_sendParam_spec p.toNat s (s.lanesIn p.toNat 6)
    refine ⟨_, exec_paramRepeat hon hrefused hdue hlanes, hsent, ?_, ?_⟩
    · rw [State.paux_setPaux_self]
    · rw [honly]
      rfl

end Sys2Proof.Machine

/-! One flit time (05 R134; 07 R180, R181): what leaves first on a port in service, and what of the port it changes. -/

namespace Sys2Proof.Machine

/-! ### A flit on the wire (05 R128 to R130) -/

theorem State.port_stamp (s : State) (p : Nat) (t : TxFlit) : (s.stamp p t).1.port p = { s.port p with
    crRot := ((s.stamp p t).1.port p).crRot, rxUnrep := ((s.stamp p t).1.port p).rxUnrep } := by
  unfold State.stamp
  dsimp only
  rw [State.port_setPort_self]

theorem State.putWire_eq (s : State) (p : Nat) (t : TxFlit) : s.putWire p t = (s.stamp p t).1.setPort p
    { (s.stamp p t).1.port p with
      wire := some (s.stamp p t).2, stream := ((s.stamp p t).1.port p).stream ++ flitBytes (txFlitOf (s.stamp p t).2) } :=
  rfl

theorem State.putWire_only (s : State) (p : Nat) (t : TxFlit) : s.putWire p t = { s with ports := (s.putWire p t).ports } :=
  rfl

theorem State.port_putWire (s : State) (p : Nat) (t : TxFlit) : (s.putWire p t).port p = { s.port p with
    crRot := ((s.putWire p t).port p).crRot, rxUnrep := ((s.putWire p t).port p).rxUnrep, wire := some (s.stamp p t).2,
    stream := ((s.putWire p t).port p).stream } := by
  rw [State.putWire_eq, State.port_setPort_self, State.port_stamp]

theorem State.port_putWire_of_ne {s : State} {p q : Nat} {t : TxFlit} (h : q ≠ p) : (s.putWire p t).port q = s.port q := by
  rw [State.putWire_eq, State.port_setPort, if_neg h.symm, State.stamp, State.port_setPort, if_neg h.symm]

theorem State.paux_putWire (s : State) (p q : Nat) (t : TxFlit) : (s.putWire p t).paux q = s.paux q := by
  rw [State.putWire_only]
  rfl

theorem State.putSeq_only (s : State) (p v : Nat) (pay : TxPay) : s.putSeq p v pay = { s with
    ports := (s.putSeq p v pay).ports, sol := { s.sol with acc := (s.putSeq p v pay).sol.acc } } := rfl

/-- A sequenced flit takes the next SEQ and a credit, and is kept until it is acknowledged. -/
theorem State.port_putSeq (s : State) (p v : Nat) (pay : TxPay) : ∃ t : TxFlit,
    (t.pay, t.vc, t.seq) = (pay, v, (s.port p).seqNext) ∧ (s.putSeq p v pay).port p = { s.port p with
      crRot := ((s.putSeq p v pay).port p).crRot, rxUnrep := ((s.putSeq p v pay).port p).rxUnrep,
      seqNext := (s.port p).seqNext + 1, unacked := (s.port p).unacked ++ [t],
      ackAt := ((s.putSeq p v pay).port p).ackAt, avail := tset (s.port p).avail v (tget (s.port p).avail v 0 - 1),
      wire := some t, stream := ((s.putSeq p v pay).port p).stream } := by
  have hport (t : State) (acc : Tbl Sample) : State.port { t with sol := { t.sol with acc := acc } } p = t.port p := rfl
  refine ⟨(s.stamp p { pay := pay, vc := v, seq := (s.port p).seqNext, ack := 0, crVc := 0, crCount := 0 }).2, rfl, ?_⟩
  unfold State.putSeq
  dsimp only
  rw [hport, State.port_setPort_self, State.port_stamp]

/-! ### Shapers (07 R192, R193) -/

theorem State.takeShaper_only (s : State) (p v : Nat) :
    s.takeShaper p v = { s with sch := { s.sch with shapers := (s.takeShaper p v).sch.shapers } } := by
  unfold State.takeShaper
  dsimp only
  split <;> rfl

theorem State.takeShaper_of_low {s : State} {p v : Nat} (h : v < 10) : s.takeShaper p v = s := by
  unfold State.takeShaper
  rw [if_neg]
  simp [Nat.not_le.mpr h]

theorem State.syncShapers_only (s : State) (p : Nat) :
    s.syncShapers p = { s with sch := { s.sch with shapers := (s.syncShapers p).sch.shapers } } := by
  unfold State.syncShapers
  generalize [0, 1, 2, 3] = l
  induction l generalizing s with
  | nil => rfl
  | cons k l ih =>
    rw [List.foldl_cons, ih]
    split <;> rfl

theorem State.port_syncShapers (s : State) (p q : Nat) : (s.syncShapers p).port q = s.port q := by
  rw [State.syncShapers_only]
  rfl

theorem State.activeTbl_syncShapers (s : State) (p q : Nat) : (s.syncShapers p).activeTbl q = s.activeTbl q := by
  rw [State.syncShapers_only]
  rfl

/-! ### LINK messages (05 R134, R141) -/

theorem exec_transmitFlit {s : State} {p : BitVec 6} (h : s.pins.floating = false) :
    exec (.transmitFlit p) s = .next (s.transmit p.toNat) := due_of_true (by simp [h])

/-- A port in service sends its first LINK message, what it has to report among them; only RETRAIN_REQ does more. -/
theorem State.transmit_of_link {s t : State} {p : Nat} {m : LinkMsg} {l : List LinkMsg} (hst : (s.port p).st = .active)
    (hreport : s.reportViols p = t) (hactive : (t.port p).st = .active) (hlink : (t.port p).linkQ = m :: l)
    (hm : ∀ r, m ≠ .retrainReq r) :
    s.transmit p = (t.setPort p { t.port p with linkQ := l }).putWire p { idleFlit with pay := .link m } := by
  have hready : t.linkReady p = true := by simp [State.linkReady, hactive]
  unfold State.transmit
  rw [if_pos (beq_iff_eq.mpr hst), hreport]
  dsimp only
  rw [hready, hlink]
  cases m
  case retrainReq r => exact absurd rfl (hm r)
  all_goals rfl

theorem State.port_transmit_of_link {t : State} {p : Nat} {m : LinkMsg} {l : List LinkMsg} {u : State}
    (hu : u = (t.setPort p { t.port p with linkQ := l }).putWire p { idleFlit with pay := .link m }) :
    u.port p = { t.port p with
      linkQ := l, crRot := (u.port p).crRot, rxUnrep := (u.port p).rxUnrep, wire := (u.port p).wire,
      stream := (u.port p).stream } ∧ (u.port p).wire.map TxFlit.pay = some (.link m) := by
  have hport := State.port_putWire (t.setPort p { t.port p with linkQ := l }) p { idleFlit with pay := .link m }
  rw [← hu, State.port_setPort_self] at hport
  rw [hport]
  exact ⟨rfl, rfl⟩

/-- Violations counted and not reported are reported where 100 ns have passed. -/
theorem State.reportViols_of_due {s : State} {p c k : Nat} {sq : BitVec 13} {vc : BitVec 4}
    (hsome : (s.paux p).violSince ≠ 0) (hopen : ∀ k, (s.paux p).violAt = some k → k + 100 ≤ s.clk)
    (hlast : (s.paux p).violLast = (c, sq, vc, k)) : s.reportViols p =
      (s.setPaux p { s.paux p with violSince := 0, violAt := some s.clk }).sendLink p
        (.protocolViolation c (min 255 (s.paux p).violSince) sq vc k) := by
  refine (if_neg ?_).trans ?_
  · cases hat : (s.paux p).violAt with
    | none => simp [hsome]
    | some k => simp [hsome, hopen k hat]
  · simp only [Prod.ext_iff] at hlast
    obtain ⟨rfl, rfl, rfl, rfl⟩ := hlast
    rfl

/-! ### What is replayed (05 R131, R134) -/

/-- A flit of the replay goes out again. -/
def State.resend (s : State) (p : Nat) (u : TxFlit) (l : List TxFlit) : State :=
  (((s.syncShapers p).setPort p { s.port p with replay := l }).putWire p u).takeShaper p u.vc

theorem State.resend_only (s : State) (p : Nat) (u : TxFlit) (l : List TxFlit) : s.resend p u l = { s with
    ports := (s.resend p u l).ports, sch := { s.sch with shapers := (s.resend p u l).sch.shapers } } := by
  unfold State.resend
  rw [State.takeShaper_only, State.putWire_only, State.syncShapers_only]
  rfl

theorem State.port_resend (s : State) (p : Nat) (u : TxFlit) (l : List TxFlit) :
    ((s.resend p u l).port p).wire.map (fun w => (w.pay, w.vc, w.seq)) = some (u.pay, u.vc, u.seq) ∧
    ((s.resend p u l).port p).replay = l ∧ ((s.resend p u l).port p).egress = (s.port p).egress := by
  have hport : (s.resend p u l).port p =
      (((s.syncShapers p).setPort p { s.port p with replay := l }).putWire p u).port p := by
    rw [State.resend, State.takeShaper_only]
    rfl
  rw [hport, State.port_putWire, State.port_setPort_self]
  exact ⟨rfl, rfl, rfl⟩

section
variable {s : State} {p : Nat} (hst : (s.port p).st = .active) (hviol : (s.paux p).violSince = 0)
  (hlink : (s.port p).linkQ = [])
include hst hviol hlink

theorem State.transmit_of_replay {u : TxFlit} {l : List TxFlit} (hreplay : (s.port p).replay = u :: l) :
    s.transmit p = State.bump { s.resend p u l with sol := { (s.resend p u l).sol with
      acc := tmod (s.resend p u l).sol.acc p Sample.init (fun x => { x with retry := x.retry + 1 }) } }
        (aPrt p + 0x80) 1 := by
  have hready : s.linkReady p = true := by simp [State.linkReady, hst]
  simp [State.transmit, State.resend, State.reportViols_of_none hviol, hst, hready, hlink, hreplay]

/-- With no message and nothing to replay the slot decides. -/
theorem State.transmit_of_slot (hreplay : (s.port p).replay = []) (hctl : (s.port p).ctlQ = []) :
    s.transmit p = (s.syncShapers p).slotFlit p := by
  have hready : s.linkReady p = true := by simp [State.linkReady, hst]
  simp [State.transmit, State.reportViols_of_none hviol, hst, hready, hlink, hreplay, hctl]

end

/-! ### CONTROL messages (04 R79; 05 R134) -/

/-- A message as it leaves takes no more from the state than its lane, the count, the address and the SEQ of VC1. -/
theorem State.stampCtl_snd_congr {s t : State} {p : Nat} {m : CtlMsg} (hlane : t.stampLane p = s.stampLane p)
    (hirc : t.irc = s.irc) (haddr : t.addr = s.addr) (hseq : (t.port p).ctlSeq = (s.port p).ctlSeq) :
    (t.stampCtl p m).2 = (s.stampCtl p m).2 := by
  unfold State.stampCtl State.unitsNow
  rw [hlane, hirc, haddr]
  cases m
  case timeReq => rfl
  case timeResp => rfl
  all_goals
    dsimp only
    split
    · dsimp only
      rw [hseq]
    · rfl

theorem State.stampCtl_spec (s : State) (p : Nat) (m : CtlMsg) :
    (s.stampCtl p m).1.port p = { s.port p with ctlSeq := ((s.stampCtl p m).1.port p).ctlSeq } ∧
    (s.stampCtl p m).1 = { s with
      ports := (s.stampCtl p m).1.ports, irc := { s.irc with reqs := (s.stampCtl p m).1.irc.reqs } } := by
  unfold State.stampCtl
  dsimp only
  split
  · exact ⟨rfl, rfl⟩
  · exact ⟨rfl, rfl⟩
  · split
    · exact ⟨by rw [State.port_setPort_self], rfl⟩
    · exact ⟨rfl, rfl⟩

/-! ### The slot's flit where no table is active (07 R180, R181) -/

section
variable {s : State} {p : Nat} (h : s.activeTbl p = none)
include h

theorem State.slotFlit_of_unscheduled {e : Staged} (hroom : (s.port p).unacked.length < 4096)
    (he : s.unscheduled p = some e) : s.slotFlit p = s.sendData p e := by
  have hmode : slotMode 0#16 = 0 := rfl
  simp [State.slotFlit, h, hmode, he, Nat.not_le.mpr hroom]

theorem State.slotFlit_of_none (he : s.unscheduled p = none) : s.slotFlit p = s.putWire p idleFlit := by
  have hmode : slotMode 0#16 = 0 := rfl
  simp [State.slotFlit, h, hmode, he]

end

theorem State.unscheduled_of_empty {s : State} {p : Nat} (h : (s.port p).egress = []) : s.unscheduled p = none := by
  have hhead (v : Nat) : s.headOf p v false = none := by simp [State.headOf, h]
  have hclass (l : List Nat) : (l.findSome? fun _ => (none : Option Staged)) = none :=
    List.findSome?_eq_none_iff.mpr fun _ _ => rfl
  simp [State.unscheduled, hhead, hclass]

/-- With nothing staged the slot's flit is IDLE. -/
theorem State.slotFlit_of_empty {s : State} {p : Nat} (h : s.activeTbl p = none) (hempty : (s.port p).egress = []) :
    s.slotFlit p = s.putWire p idleFlit :=
  State.slotFlit_of_none h (State.unscheduled_of_empty hempty)

section
variable {s : State} {p : Nat} {e : Staged} (heg : (s.port p).egress = [e]) (hvc : e.frame.vc = 0)
  (hsched : e.frame.hdr.sched = false) (htail : e.tail = none)
include heg hvc hsched htail

/-- An unscheduled frame of VC0 with a cell and a credit goes first. -/
theorem State.unscheduled_of_vc0 (hready : e.sent < e.avail) (hcredit : 0 < tget (s.port p).avail 0 0) :
    s.unscheduled p = some e := by
  have hplanned : s.planned p e.frame = false := by simp [State.planned, hsched]
  have hthird : e.third = false := by simp [Staged.third, hvc, hsched]
  have hhead : s.headOf p 0 false = some e := by
    unfold State.headOf
    cases hsent : decide (0 < e.sent) <;>
      simp [heg, hvc, hsent, htail, hplanned, Staged.ready, hready, hcredit]
  simp [State.unscheduled, hhead, Option.filter, hthird]

end

theorem State.headTags_of_empty {s : State} {p : Nat} (h : (s.port p).egress = []) : s.headTags p = s := by
  simp [State.headTags, h]

/-- A DATA flit on VC0 of a frame that no slot is planned for. -/
theorem State.sendData_of_vc0 {s : State} {p : Nat} {e : Staged} (heg : (s.port p).egress = [e])
    (hvc : e.frame.vc = 0) (hsched : e.frame.hdr.sched = false) (htail : e.tail = none) : ∃ t : State,
    t.port p = (s.putSeq p 0 (.data e.frame e.id e.sent none)).port p ∧
    t = { s.putSeq p 0 (.data e.frame e.id e.sent none) with cnt := t.cnt } ∧
    s.sendData p e = t.setPort p { t.port p with
      egress := if frameFlits e.frame ≤ e.sent + 1 then [] else [{ e with sent := e.sent + 1 }] } := by
  have hthird : e.third = false := by simp [Staged.third, hvc, hsched]
  refine ⟨if decide (frameFlits e.frame ≤ e.sent + 1) && e.frame.hdr.ftype.toNat == ftPartial then
      (s.putSeq p 0 (.data e.frame e.id e.sent none)).bump (aFlt + 0x90) 1
    else s.putSeq p 0 (.data e.frame e.id e.sent none), ?_, ?_, ?_⟩
  · split
    · rw [State.port_bump]
    · rfl
  · split
    · exact State.bump_only ..
    · rfl
  · have hegress : ((s.putSeq p 0 (.data e.frame e.id e.sent none)).port p).egress = [e] := by
      obtain ⟨t, -, hport⟩ := s.port_putSeq p 0 (.data e.frame e.id e.sent none)
      rw [hport]
      exact heg
    have hv : e.frame.vc.toNat = 0 := by rw [hvc]; rfl
    by_cases hlast : frameFlits e.frame ≤ e.sent + 1
    · cases hpart : e.frame.hdr.ftype.toNat == ftPartial <;>
        simp [State.sendData, hv, htail, hsched, hthird, hlast, hpart, hegress, State.takeShaper_of_low,
          State.headTags_of_empty]
    · simp [State.sendData, hv, htail, hsched, hthird, hlast, hegress, State.takeShaper_of_low]

section
variable {s : State} {p : Nat} (hst : (s.port p).st = .active) (hviol : (s.paux p).violSince = 0)
  (hlink : (s.port p).linkQ = []) (hreplay : (s.port p).replay = [])
include hst hviol hlink hreplay

/-- A CONTROL message leaves stamped, as a sequenced flit of VC1. -/
theorem State.transmit_of_ctl_stamped {m : CtlMsg} {l : List CtlMsg} (hctl : (s.port p).ctlQ = m :: l)
    (hcredit : 0 < tget (s.port p).avail 1 0) (hroom : (s.port p).unacked.length < 4096) : ∃ (t : State) (n : _),
    s.transmit p = t.putSeq p 1 (.ctl (s.stampCtl p m).2) ∧
    t.port p = { s.port p with ctlQ := l, ctlSeq := n } ∧
    t = { s with ports := t.ports, irc := { s.irc with reqs := t.irc.reqs } } := by
  have htransmit := State.transmit_of_ctl hst hviol hlink hreplay hctl hcredit hroom
  have hmsg := State.stampCtl_snd_congr (p := p) (m := m) (State.stampLane_setPort_ctlQ s p l) rfl rfl
    (by rw [State.port_setPort_self])
  obtain ⟨hport, honly⟩ := (s.setPort p { s.port p with ctlQ := l }).stampCtl_spec p m
  rw [State.port_setPort_self] at hport
  exact ⟨_, _, hmsg ▸ htransmit, hport, honly⟩

/-- A frame on VC0 that no slot is planned for sends a DATA flit where no table is active. -/
theorem State.transmit_of_vc0 {e : Staged} (hctl : (s.port p).ctlQ = []) (heg : (s.port p).egress = [e])
    (hvc : e.frame.vc = 0) (hsched : e.frame.hdr.sched = false) (htail : e.tail = none) (hready : e.sent < e.avail)
    (htbl : s.activeTbl p = none) (hroom : (s.port p).unacked.length < 4096)
    (hcredit : 0 < tget (s.port p).avail 0 0) : s.transmit p = (s.syncShapers p).sendData p e := by
  rw [← State.port_syncShapers s p] at heg hroom hcredit
  rw [← State.activeTbl_syncShapers s p] at htbl
  rw [State.transmit_of_slot hst hviol hlink hreplay hctl, State.slotFlit_of_unscheduled htbl hroom
    (State.unscheduled_of_vc0 heg hvc hsched htail hready hcredit)]

end

/-- Settles O31: which flit leaves in a flit time (`State.transmit_of_link`, `State.transmit_of_replay`,
`State.transmit_of_ctl_stamped`, `State.transmit_of_vc0`), what of the port it changes, and the slot at a boundary. -/
theorem flitTimesInOrder : Obligations.FlitTimesInOrder := by
  refine ⟨fun s p c k sq vc hpins hst hlink hsome hopen hlast => ?_,
    fun s p m l hpins hviol hst hlink hm => ?_, fun s p u l hpins hviol hst hlink hreplay => ?_,
    fun s p m l hpins hviol hst hlink hreplay hctl hcredit hroom => ?_,
    fun s p hpins hst hviol hlink hreplay hctl heg htbl => ?_,
    fun s p e hpins hst hviol hlink hreplay hctl heg hvc hsched htail hready htbl hroom hcredit => ?_,
    fun s p t hon htbl hstart => ?_⟩
  · have hreport := State.reportViols_of_due hsome hopen hlast
    generalize ht : State.sendLink _ _ _ = t at hreport
    have hport : t.port p.toNat = { s.port p.toNat with
        linkQ := [.protocolViolation c (min 255 (s.paux p.toNat).violSince) sq vc k] } := by
      rw [← ht, State.port_sendLink_self, State.port_setPaux, hlink]
      rfl
    have honly : t = { s with ports := t.ports, aux := t.aux } := by
      rw [← ht]
      rfl
    have hpaux : t.paux p.toNat = { s.paux p.toNat with violSince := 0, violAt := some s.clk } := by
      rw [← ht, State.paux_sendLink, State.paux_setPaux_self]
    have htransmit := State.transmit_of_link hst hreport (by rw [hport]; exact hst) (by rw [hport])
      (fun _ => LinkMsg.noConfusion)
    obtain ⟨-, hwire⟩ := State.port_transmit_of_link htransmit
    refine ⟨_, exec_transmitFlit hpins, hwire, ?_, ?_, ?_⟩
    · rw [htransmit, State.paux_putWire, State.paux_setPort, hpaux]
    · rw [htransmit, State.paux_putWire, State.paux_setPort, hpaux]
    · rw [htransmit, State.putWire_only, honly]
      rfl
  · have htransmit := State.transmit_of_link hst (State.reportViols_of_none hviol) hst hlink hm
    obtain ⟨hport, hwire⟩ := State.port_transmit_of_link htransmit
    refine ⟨_, exec_transmitFlit hpins, hwire, ?_, ?_, ?_, ?_, fun q hq => ?_, ?_⟩
    · rw [hport]
    · rw [hport]
    · rw [hport]
    · rw [hport]
    · rw [htransmit, State.port_putWire_of_ne hq, State.port_setPort, if_neg (Ne.symm hq)]
    · rw [htransmit]
      rfl
  · have htransmit := State.transmit_of_replay hst hviol hlink hreplay
    obtain ⟨hwire, hrest, hegress⟩ := s.port_resend p.toNat u l
    have hport : (s.transmit p.toNat).port p.toNat = (s.resend p.toNat u l).port p.toNat := by
      rw [htransmit, State.port_bump]
      rfl
    refine ⟨_, exec_transmitFlit hpins, hport ▸ hwire, hport ▸ hrest, hport ▸ hegress, ?_, ?_⟩
    · rw [htransmit, State.cntAt_bump_self, State.resend_only]
      rfl
    · rw [htransmit, State.bump_only, State.resend_only]
  · obtain ⟨t, n, htransmit, htport, honly⟩ := State.transmit_of_ctl_stamped hst hviol hlink hreplay hctl hcredit hroom
    obtain ⟨f, hf, hport⟩ := t.port_putSeq p.toNat 1 (.ctl (s.stampCtl p.toNat m).2)
    rw [← htransmit, htport] at hport
    rw [htport] at hf
    refine ⟨_, exec_transmitFlit hpins, ?_, ?_, ?_, ?_, ?_, ?_⟩
    · rw [hport]
      exact congrArg some hf
    · rw [hport]
    · rw [hport]
    · rw [hport]
      exact tget_tset.trans (if_pos rfl)
    · rw [hport]
      exact List.length_append
    · rw [htransmit, State.putSeq_only, honly]
  · have htransmit : s.transmit p.toNat = (s.syncShapers p.toNat).putWire p.toNat idleFlit := by
      rw [State.transmit_of_slot hst hviol hlink hreplay hctl, State.slotFlit_of_empty]
      · rw [State.activeTbl_syncShapers, htbl]
      · rw [State.port_syncShapers, heg]
    refine ⟨_, exec_transmitFlit hpins, ?_, ?_, ?_, ?_⟩
    · rw [htransmit, State.port_putWire]
      rfl
    · rw [htransmit, State.port_putWire, State.port_syncShapers]
    · rw [htransmit, State.port_putWire, State.port_syncShapers]
    · rw [htransmit, State.putWire_only, State.syncShapers_only]
  · have htransmit := State.transmit_of_vc0 hst hviol hlink hreplay hctl heg hvc hsched htail hready htbl hroom hcredit
    rw [← State.port_syncShapers s p.toNat p.toNat] at heg
    obtain ⟨t, htport, htonly, hsend⟩ := State.sendData_of_vc0 heg hvc hsched htail
    obtain ⟨f, hf, hport⟩ := (s.syncShapers p.toNat).port_putSeq p.toNat 0 (.data e.frame e.id e.sent none)
    rw [← htport, State.port_syncShapers] at hport
    rw [State.port_syncShapers] at hf
    rw [hsend] at htransmit
    refine ⟨_, exec_transmitFlit hpins, ?_, ?_, ?_, ?_⟩
    · rw [htransmit, State.port_setPort_self, hport]
      exact congrArg some hf
    · rw [htransmit, State.port_setPort_self]
    · rw [htransmit, State.port_setPort_self, hport]
      exact tget_tset.trans (if_pos rfl)
    · rw [htransmit, htonly, State.putSeq_only, State.syncShapers_only]
      rfl
  · change execSlotBoundary p s = _
    unfold execSlotBoundary
    simp only [htbl]
    exact due_of_true (by simp [hon, hstart])

end Sys2Proof.Machine

/-! A port that goes (05 R133, R135): what takes it down, and what of it stays. -/

namespace Sys2Proof.Machine

/-! ### LEAVE on the lanes (05 R134, R135) -/

/-- LEAVE as it leaves, with its acknowledgement and its credit. -/
def State.leaveFlit (s : State) (p reason : Nat) : State × TxFlit :=
  s.stamp p { idleFlit with pay := .link (.leave reason s.now) }

theorem State.sendLeave_of_no_lanes {s : State} {p : Nat} (reason : Nat) (h : s.streamLanes p = []) :
    s.sendLeave p reason = s := by
  unfold State.sendLeave
  dsimp only
  rw [if_pos (by rw [h]; rfl)]

/-- LEAVE is the port's last flit; the lanes carry it. -/
theorem State.sendLeave_of_lanes {s : State} {p : Nat} (reason : Nat) (h : s.streamLanes p ≠ []) :
    s.sendLeave p reason = { (s.leaveFlit p reason).1.setPort p { (s.leaveFlit p reason).1.port p with
      wire := some (s.leaveFlit p reason).2, stream := [] } with lanes := (s.sendLeave p reason).lanes } := by
  unfold State.sendLeave
  dsimp only
  rw [if_neg (mt List.isEmpty_iff.mp h)]
  exact State.foldl_lanes_only fun t e => rfl

/-- LEAVE changes its port's wire and what it has reported, and the lanes that carry it. -/
theorem State.sendLeave_spec (s : State) (p reason : Nat) :
    (s.sendLeave p reason).port p = { s.port p with
      crRot := ((s.sendLeave p reason).port p).crRot, rxUnrep := ((s.sendLeave p reason).port p).rxUnrep,
      wire := ((s.sendLeave p reason).port p).wire, stream := ((s.sendLeave p reason).port p).stream } ∧
    (∀ q, q ≠ p → (s.sendLeave p reason).port q = s.port q) ∧ s.sendLeave p reason =
      { s with ports := (s.sendLeave p reason).ports, lanes := (s.sendLeave p reason).lanes } := by
  by_cases h : s.streamLanes p = []
  · rw [State.sendLeave_of_no_lanes reason h]
    exact ⟨rfl, fun q hq => rfl, rfl⟩
  · have hport (q : Nat) : (s.sendLeave p reason).port q =
        if p = q then { (s.leaveFlit p reason).1.port p with wire := some (s.leaveFlit p reason).2, stream := [] }
        else (s.leaveFlit p reason).1.port q := by
      rw [State.sendLeave_of_lanes reason h]
      exact State.port_setPort ..
    refine ⟨?_, fun q hq => ?_, ?_⟩
    · rw [hport, if_pos rfl, State.leaveFlit, State.port_stamp]
    · rw [hport, if_neg hq.symm]
      exact (State.port_setPort ..).trans (if_neg hq.symm)
    · rw [State.sendLeave_of_lanes reason h]
      rfl

theorem State.wire_sendLeave {s : State} {p : Nat} (reason : Nat) (h : s.streamLanes p ≠ []) :
    ((s.sendLeave p reason).port p).wire.map TxFlit.pay = some (.link (.leave reason s.now)) := by
  rw [State.sendLeave_of_lanes reason h]
  exact congrArg (fun q : Port => q.wire.map TxFlit.pay) (State.port_setPort_self ..)

/-- LEAVE with the reason that the port owes, where it owes one. -/
def State.leaveSent (s : State) (p : Nat) : Option Nat → State
  | some reason => s.sendLeave p reason
  | none => s

theorem State.leaveSent_spec (s : State) (p : Nat) (r : Option Nat) :
    (s.leaveSent p r).port p = { s.port p with
      crRot := ((s.leaveSent p r).port p).crRot, rxUnrep := ((s.leaveSent p r).port p).rxUnrep,
      wire := ((s.leaveSent p r).port p).wire, stream := ((s.leaveSent p r).port p).stream } ∧
    (∀ q, q ≠ p → (s.leaveSent p r).port q = s.port q) ∧ s.leaveSent p r =
      { s with ports := (s.leaveSent p r).ports, lanes := (s.leaveSent p r).lanes } := by
  cases r with
  | none => exact ⟨rfl, fun q hq => rfl, rfl⟩
  | some reason => exact s.sendLeave_spec p reason

theorem State.leaveSent_of_quiet {s : State} {p : Nat} {r : Option Nat} (h : r = none ∨ s.streamLanes p = []) :
    s.leaveSent p r = s := by
  cases r with
  | none => rfl
  | some reason => exact State.sendLeave_of_no_lanes reason (h.resolve_left nofun)

/-! ### The parts of a port that goes (05 R135; 06 R154) -/

/-- The port in its last state, its LEAVE sent. -/
def State.leaving (s : State) (p : Nat) (st : PortState) (r : Option Nat) : State :=
  (s.leaveSent p r).setPort p { (s.leaveSent p r).port p with st := st }

/-- Frames that come in parts end with a bad tail or give up their cells. -/
def State.endAsm (s : State) (p : Nat) : State :=
  (s.paux p).asm.foldl (fun s a =>
    if a.eof then s else if a.taken && !a.dropped then s.badFrame a.id synthTail else s.freeCells a.id) s

theorem State.portDown_parts (s : State) (p : Nat) (st : PortState) (r : Option Nat) : s.portDown p st r =
    ((((((s.leaving p st r).endAsm p).dropUnacked p).reroute p).releaseSpare p).idlePort p st).forgetPort p := by
  unfold State.portDown State.leaving State.endAsm State.forgetPort
  cases r <;> dsimp only [State.leaveSent]

/-- A port with nothing staged and nothing queued for it: its claims on virtual channels go. -/
theorem State.reroute_of_none {s : State} {p : Nat} (hegress : (s.port p).egress = [])
    (hqueues : ∀ q ∈ s.sol.queues, p ∉ q.outs) (hwait : ∀ q ∈ s.sol.descWait, p ∉ q.outs) : s.reroute p =
      { s.setPort p { s.port p with egress := [] } with
        sol := { s.sol with vcOwner := s.sol.vcOwner.filter (fun e => e.1 / 16 != p) } } := by
  have hnone : (s.sol.queues ++ s.sol.descWait).filter (fun q => q.outs.contains p) = [] :=
    List.filter_eq_nil_iff.mpr fun q hq => by
      have hout := (List.mem_append.mp hq).elim (hqueues q) (hwait q)
      simpa using hout
  unfold State.reroute
  dsimp only
  rw [hegress, List.foldl_nil]
  dsimp only
  change List.foldl _ _ ((s.sol.queues ++ s.sol.descWait).filter _) = _
  rw [hnone]
  rfl

theorem State.releaseSpare_only (s : State) (p : Nat) :
    s.releaseSpare p = { s with lanes := (s.releaseSpare p).lanes } := by
  unfold State.releaseSpare
  split <;> rfl

theorem State.port_releaseSpare (s : State) (p q : Nat) : (s.releaseSpare p).port q = s.port q := by
  rw [State.releaseSpare_only]
  rfl

theorem State.paux_releaseSpare (s : State) (p q : Nat) : (s.releaseSpare p).paux q = s.paux q := by
  rw [State.releaseSpare_only]
  rfl

/-- A lane of a port that goes idle. -/
def State.idleLane (p : Nat) (s : State) (i : Nat) : State :=
  s.setLane (4 * p + i) { s.lane (4 * p + i) with
    phase := 0, inService := false, lock := false, marker := false, paramOk := none, partnerPhase := 0, partnerFom := 0,
    phaseAt := s.clk, side := none, markAt := none, deskew := 0, foms := [] }

theorem State.idlePort_eq (s : State) (p : Nat) (st : PortState) : s.idlePort p st =
    (List.range 4).foldl (State.idleLane p) (s.setPort p { Port.init with
      st := st, rxHeld := (s.port p).rxHeld, wire := (s.port p).wire, ctlSeq := (s.port p).ctlSeq }) := rfl

theorem State.idlePort_only (s : State) (p : Nat) (st : PortState) : s.idlePort p st = { s.setPort p { Port.init with
    st := st, rxHeld := (s.port p).rxHeld, wire := (s.port p).wire, ctlSeq := (s.port p).ctlSeq } with
      lanes := (s.idlePort p st).lanes } := by
  rw [State.idlePort_eq]
  exact State.foldl_lanes_only fun t i => rfl

theorem State.port_idlePort (s : State) (p q : Nat) (st : PortState) : (s.idlePort p st).port q =
    if p = q then { Port.init with
      st := st, rxHeld := (s.port p).rxHeld, wire := (s.port p).wire, ctlSeq := (s.port p).ctlSeq }
    else s.port q := by
  rw [State.idlePort_eq]
  refine (foldl_apply_eq (fun t : State => t.port q) fun t i => ?_).trans (State.port_setPort ..)
  exact State.port_setLane ..

theorem State.paux_idlePort (s : State) (p q : Nat) (st : PortState) : (s.idlePort p st).paux q = s.paux q := by
  rw [State.idlePort_eq]
  exact foldl_apply_eq (fun t : State => t.paux q) fun t i => State.paux_setLane ..

theorem State.lane_idlePort (s : State) {p i : Nat} (st : PortState) (hi : i < 4) :
    ((s.idlePort p st).lane (4 * p + i)).phase = 0 ∧ ((s.idlePort p st).lane (4 * p + i)).inService = false := by
  obtain ⟨t, -, hfold⟩ := State.lane_foldl_of_mem (g := State.idleLane p) (l := List.range 4)
    (fun t i k hk => (State.lane_setLane ..).trans (if_neg hk.symm)) List.nodup_range (List.mem_range.mpr hi)
  rw [State.idlePort_eq, hfold, State.idleLane, State.lane_setLane_self]
  exact ⟨rfl, rfl⟩

theorem State.forgetPort_only (s : State) (p : Nat) : s.forgetPort p = { s with
    aux := (s.forgetPort p).aux
    sch := { s.sch with
      wfqV := (s.forgetPort p).sch.wfqV, wfqF := (s.forgetPort p).sch.wfqF, slot := (s.forgetPort p).sch.slot }
    irc := { s.irc with
      peers := (s.forgetPort p).irc.peers, reqs := (s.forgetPort p).irc.reqs, parent := (s.forgetPort p).irc.parent,
      hops := (s.forgetPort p).irc.hops, masterAddr := (s.forgetPort p).irc.masterAddr,
      noMasterAt := (s.forgetPort p).irc.noMasterAt } } := by
  unfold State.forgetPort
  dsimp only
  rw [State.reparent_only]
  rfl

theorem State.port_forgetPort (s : State) (p q : Nat) : (s.forgetPort p).port q = s.port q := by
  rw [State.forgetPort_only]
  rfl

theorem State.lane_forgetPort (s : State) (p l : Nat) : (s.forgetPort p).lane l = s.lane l := by
  rw [State.forgetPort_only]
  rfl

/-- What stands beside a port that went tells no version; beside another it stays. -/
theorem State.badVersion_forgetPort (s : State) (p q : Nat) :
    ((s.forgetPort p).paux q).badVersion = if p = q then false else (s.paux q).badVersion := by
  have haux (t : State) : t.reparent.paux q = t.paux q := by
    rw [State.reparent_only]
    rfl
  unfold State.forgetPort
  dsimp only
  rw [haux]
  refine (congrArg PortAux.badVersion (State.paux_setPaux ..)).trans ?_
  split <;> rfl

/-! ### A port with no frame (05 R135) -/

/-- The port is empty of frames: nothing comes in parts, awaits its acknowledgement, is staged or queued for it. -/
structure State.NoFrames (s : State) (p : Nat) : Prop where
  asm : (s.paux p).asm = []
  unacked : (s.port p).unacked = []
  egress : (s.port p).egress = []
  queues : ∀ q ∈ s.sol.queues, p ∉ q.outs
  descWait : ∀ q ∈ s.sol.descWait, p ∉ q.outs

/-- A port that has sent its LEAVE and given up its frames, before its lanes fall idle. -/
def State.stopped (s : State) (p : Nat) (st : PortState) (r : Option Nat) : State :=
  (((s.leaving p st r).endAsm p).dropUnacked p).reroute p

/-- With no frame only the port's claims on virtual channels go. -/
theorem State.stopped_of_noFrames {s : State} {p : Nat} (st : PortState) (r : Option Nat) (h : s.NoFrames p) :
    s.stopped p st r = { (s.leaveSent p r).setPort p { (s.leaveSent p r).port p with st := st, egress := [] } with
      sol := { s.sol with vcOwner := s.sol.vcOwner.filter (fun e => e.1 / 16 != p) } } := by
  obtain ⟨hport, -, honly⟩ := s.leaveSent_spec p r
  have hleft : (s.leaving p st r).port p = { (s.leaveSent p r).port p with st := st } := State.port_setPort_self ..
  have hsol : (s.leaving p st r).sol = s.sol := by
    rw [State.leaving, honly]
    rfl
  have hasm : (s.leaving p st r).endAsm p = s.leaving p st r := by
    have hnone : ((s.leaving p st r).paux p).asm = [] := by
      rw [State.leaving, State.paux_setPort, honly]
      exact h.asm
    rw [State.endAsm, hnone, List.foldl_nil]
  have hacked : (s.leaving p st r).dropUnacked p = s.leaving p st r := by
    rw [State.dropUnacked, hleft, hport]
    dsimp only
    rw [h.unacked, List.foldl_nil]
  rw [State.stopped, hasm, hacked, State.reroute_of_none, hsol, hleft, State.leaving, State.setPort_setPort]
  · rw [hleft, hport]
    exact h.egress
  · rw [hsol]
    exact h.queues
  · rw [hsol]
    exact h.descWait

theorem State.portDown_of_stopped (s : State) (p : Nat) (st : PortState) (r : Option Nat) :
    s.portDown p st r = (((s.stopped p st r).releaseSpare p).idlePort p st).forgetPort p := s.portDown_parts p st r

section
variable {s : State} {p : Nat} (st : PortState) (r : Option Nat) (h : s.NoFrames p)
include h

/-- The port keeps its state, its receive cells, the flit on its wire and its message number. -/
theorem State.port_portDown : (s.portDown p st r).port p = { Port.init with
    st := st, rxHeld := (s.port p).rxHeld, wire := ((s.leaveSent p r).port p).wire, ctlSeq := (s.port p).ctlSeq } := by
  obtain ⟨hport, -, -⟩ := s.leaveSent_spec p r
  have hstopped : (s.stopped p st r).port p = { (s.leaveSent p r).port p with st := st, egress := [] } := by
    rw [State.stopped_of_noFrames st r h]
    exact State.port_setPort_self ..
  rw [State.portDown_of_stopped, State.port_forgetPort, State.port_idlePort, if_pos rfl, State.port_releaseSpare, hstopped, hport]

theorem State.port_portDown_of_ne {q : Nat} (hq : q ≠ p) : (s.portDown p st r).port q = s.port q := by
  obtain ⟨-, hother, -⟩ := s.leaveSent_spec p r
  have hstopped : (s.stopped p st r).port q = s.port q := by
    rw [State.stopped_of_noFrames st r h, ← hother q hq]
    exact (State.port_setPort ..).trans (if_neg hq.symm)
  rw [State.portDown_of_stopped, State.port_forgetPort, State.port_idlePort, if_neg hq.symm, State.port_releaseSpare,
    hstopped]

theorem State.portDown_only : s.portDown p st r = { s with
    ports := (s.portDown p st r).ports, aux := (s.portDown p st r).aux, lanes := (s.portDown p st r).lanes,
    sol := { s.sol with vcOwner := (s.portDown p st r).sol.vcOwner },
    sch := { s.sch with
      wfqV := (s.portDown p st r).sch.wfqV, wfqF := (s.portDown p st r).sch.wfqF,
      slot := (s.portDown p st r).sch.slot }
    irc := { s.irc with
      peers := (s.portDown p st r).irc.peers, reqs := (s.portDown p st r).irc.reqs,
      parent := (s.portDown p st r).irc.parent, hops := (s.portDown p st r).irc.hops,
      masterAddr := (s.portDown p st r).irc.masterAddr, noMasterAt := (s.portDown p st r).irc.noMasterAt } } := by
  obtain ⟨-, -, honly⟩ := s.leaveSent_spec p r
  rw [State.portDown_of_stopped, State.forgetPort_only, State.idlePort_only, State.releaseSpare_only,
    State.stopped_of_noFrames st r h, honly]
  rfl

/-- What stands beside a port that went tells no version; beside another it stays. -/
theorem State.badVersion_portDown (q : Nat) :
    ((s.portDown p st r).paux q).badVersion = if p = q then false else (s.paux q).badVersion := by
  obtain ⟨-, -, honly⟩ := s.leaveSent_spec p r
  have hstopped : (s.stopped p st r).paux q = s.paux q := by
    rw [State.stopped_of_noFrames st r h]
    change (s.leaveSent p r).paux q = _
    rw [honly]
    rfl
  rw [State.portDown_of_stopped, State.badVersion_forgetPort, State.paux_idlePort, State.paux_releaseSpare, hstopped]

end

theorem State.lane_portDown (s : State) {p i : Nat} (st : PortState) (r : Option Nat) (hi : i < 4) :
    ((s.portDown p st r).lane (4 * p + i)).phase = 0 ∧ ((s.portDown p st r).lane (4 * p + i)).inService = false := by
  rw [State.portDown_of_stopped, State.lane_forgetPort]
  exact State.lane_idlePort _ st hi

/-- An accelerator whose other port is in service stays. -/
theorem State.portOff_of_other {s : State} {p : Nat} {st : PortState} {r : Option Nat} (hp : p < 32)
    (hframes : s.NoFrames p) (hother : (s.port ((p + 16) % 32)).st = .active)
    (hversion : (s.paux ((p + 16) % 32)).badVersion = false) : s.portOff p st r = s.portDown p st r := by
  have hne : (p + 16) % 32 ≠ p := by omega
  rw [← State.port_portDown_of_ne st r hframes hne] at hother
  have hbad (q : Nat) (hq : q = p ∨ q = (p + 16) % 32) : ((s.portDown p st r).paux q).badVersion = false := by
    rw [State.badVersion_portDown st r hframes]
    obtain rfl | rfl := hq
    · exact if_pos rfl
    · rw [if_neg hne.symm, hversion]
  have hpair (q : Nat) (hq : q ∈ accPorts (p % 16)) : q = p ∨ q = (p + 16) % 32 := by
    simp only [accPorts, List.mem_cons, List.not_mem_nil, or_false] at hq
    omega
  have hmem : (p + 16) % 32 ∈ accPorts (p % 16) := by
    simp only [accPorts, List.mem_cons, List.not_mem_nil, or_false]
    omega
  have hpresent : (s.portDown p st r).accPresent (p % 16) = true := by
    refine (Bool.and_eq_true _ _).mpr ⟨List.all_eq_true.mpr fun q hq => ?_, List.any_eq_true.mpr ⟨_, hmem, ?_⟩⟩
    · rw [hbad q (hpair q hq)]
      rfl
    · rw [hother]
  unfold State.portOff
  dsimp only
  rw [if_pos hp, if_pos hpresent, ite_self]

/-! ### What takes a port down (05 R133, R135) -/

theorem exec_linkLost {s : State} {p : BitVec 6} (hon : s.on = true) (hst : (s.port p.toNat).st = .active)
    (hlate : (s.paux p.toNat).lastGood + 2000 ≤ s.clk) : exec (.linkLost p) s =
      .next ((s.record 0 3 p.toNat 0x0115 0xFF).portOff p.toNat .down none) := due_of_true (by simp [hon, hst, hlate])

theorem exec_retrainTimeout {s : State} {p : BitVec 6} {t0 : Nat} (hon : s.on = true)
    (hst : (s.port p.toNat).st = .retrain) (hsince : (s.paux p.toNat).retrainAt = some t0) (hlate : t0 + 50000000 ≤ s.clk) :
    exec (.retrainTimeout p) s = .next ((s.record 2 3 p.toNat 0x0112 (s.paux p.toNat).retrains.length).portOff p.toNat
      .fenced (some 1)) := by
  have hfence : s.fencePort p.toNat 0x0112 (s.paux p.toNat).retrains.length =
      (s.record 2 3 p.toNat 0x0112 (s.paux p.toNat).retrains.length).portOff p.toNat .fenced (some 1) :=
    if_neg (by rw [hst]; decide)
  change execRetrainTimeout p s = _
  unfold execRetrainTimeout
  simp only [hsince]
  rw [due_of_true (by simp [hon, hst, hlate]), hfence]

/-- Settles O26: what takes a port down (`exec_linkLost`, `exec_retrainTimeout`), and a port that goes while
its accelerator's other port stays (`State.portOff_of_other`, `State.port_portDown`, `State.portDown_only`). -/
theorem portsGo : Obligations.PortsGo := by
  refine ⟨fun s p r c hon hst => ?_, fun s p hon hst hlate => exec_linkLost hon hst hlate,
    fun s p t0 hon hst hsince hlate => exec_retrainTimeout hon hst hsince hlate,
    fun s p st r hp hother hversion _ hasm hunacked hegress hqueues hwait => ?_⟩
  · exact due_of_true (by simp [hon, hst])
  · have hframes : s.NoFrames p := ⟨hasm, hunacked, hegress, hqueues, hwait⟩
    have hport := State.port_portDown st r hframes
    rw [State.portOff_of_other hp hframes hother hversion]
    refine ⟨?_, fun hquiet => ?_, ?_, fun q hq => State.port_portDown_of_ne st r hframes hq,
      fun i hi => s.lane_portDown st r hi, _, rfl, State.portDown_only st r hframes⟩
    · rw [hport]
    · rw [hport, State.leaveSent_of_quiet hquiet]
    · rintro k rfl hlanes
      rw [hport]
      exact State.wire_sendLeave k hlanes

end Sys2Proof.Machine

/-! Frames at ingress (06 R147, R148, R151): the cells that a frame takes, what drops it, and where it is queued. -/

namespace Sys2Proof.Machine

/-! ### Cells stored and freed (06 R148) -/

theorem tfind_storeCells (inp vc id c n k x : Nat) (t : Tbl Cell) : tfind (storeCells inp vc id c n k t) x =
    if 64 * id + k ≤ x ∧ x < 64 * id + k + n then some { inp := inp, vc := vc, copies := c } else tfind t x := by
  induction n generalizing k t with
  | zero => rw [storeCells, if_neg (by omega)]
  | succ n ih =>
    rw [storeCells, ih, tfind_tset]
    by_cases hx : 64 * id + k = x
    · rw [if_neg (by omega), if_pos hx, if_pos (by omega)]
    · rw [if_neg hx]
      exact if_congr (by omega) rfl rfl

/-- Cell `k` of a frame freed, and its credit owed where a port holds it. -/
def State.freeCell (id : Nat) (s : State) (k : Nat) : State :=
  match tfind s.sol.cells (64 * id + k) with
  | none => s
  | some c =>
    let s := { s with sol := { s.sol with cells := tdel s.sol.cells (64 * id + k) } }
    if c.inp < 64 then s.returnCredit c.inp c.vc else s

theorem State.freeCells_eq (s : State) (id : Nat) : s.freeCells id = (List.range 64).foldl (State.freeCell id) s := rfl

theorem State.freeCell_only (id : Nat) (s : State) (k : Nat) : s.freeCell id k = { s with
    ports := (s.freeCell id k).ports, sol := { s.sol with cells := (s.freeCell id k).sol.cells } } := by
  unfold State.freeCell
  split
  · rfl
  · dsimp only
    split <;> rfl

theorem State.tfind_freeCell (id : Nat) (s : State) (k x : Nat) :
    tfind (s.freeCell id k).sol.cells x = if 64 * id + k = x then none else tfind s.sol.cells x := by
  unfold State.freeCell
  split
  · next h =>
    split
    · next hx => rw [← hx, h]
    · rfl
  · dsimp only
    split <;> exact tfind_tdel

theorem State.foldl_freeCell_only (id : Nat) (s : State) (l : List Nat) : l.foldl (State.freeCell id) s = { s with
    ports := (l.foldl (State.freeCell id) s).ports,
    sol := { s.sol with cells := (l.foldl (State.freeCell id) s).sol.cells } } := by
  induction l generalizing s with
  | nil => rfl
  | cons k l ih =>
    rw [List.foldl_cons, ih]
    generalize l.foldl (State.freeCell id) (s.freeCell id k) = u
    rw [State.freeCell_only]

theorem State.tfind_foldl_freeCell {id x : Nat} {s : State} {l : List Nat}
    (h : tfind s.sol.cells x = none ∨ ∃ k ∈ l, 64 * id + k = x) :
    tfind (l.foldl (State.freeCell id) s).sol.cells x = none := by
  induction l generalizing s with
  | nil => simpa using h
  | cons k l ih =>
    refine ih ?_
    rw [State.tfind_freeCell]
    by_cases hx : 64 * id + k = x
    · exact .inl (if_pos hx)
    · rw [if_neg hx]
      exact h.imp_right fun ⟨j, hj, hjx⟩ => ⟨j, (List.mem_cons.mp hj).resolve_left fun hjk => hx (hjk ▸ hjx), hjx⟩

theorem State.freeCells_only (s : State) (id : Nat) : s.freeCells id = { s with
    ports := (s.freeCells id).ports, sol := { s.sol with cells := (s.freeCells id).sol.cells } } := by
  rw [State.freeCells_eq]
  exact State.foldl_freeCell_only ..

/-- A frame that goes whole changes cells, what the ports of its cells hold, and the frames being received. -/
theorem State.discard_only (s : State) (id : Nat) : s.discard id = { s with
    ports := (s.discard id).ports, aux := (s.discard id).aux,
    sol := { s.sol with cells := (s.discard id).sol.cells } } := by
  have h := s.freeCells_only id
  unfold State.discard State.discardRest
  generalize s.freeCells id = u at *
  rw [h]

@[simp] theorem State.discardRest_sol (s : State) (id : Nat) : (s.discardRest id).sol = s.sol := rfl

/-- None of its cells stays. -/
theorem State.tfind_discard {s : State} {id k : Nat} (hlo : 64 * id ≤ k) (hhi : k < 64 * id + 64) :
    tfind (s.discard id).sol.cells k = none := by
  rw [State.discard, State.discardRest_sol, State.freeCells_eq]
  exact State.tfind_foldl_freeCell (.inr ⟨k - 64 * id, List.mem_range.mpr (by omega), by omega⟩)

/-! ### Frames dropped and counted (06 Table 6.4; 14 R409) -/

/-- The registers of Solder lie above those of the fault collector (13 Table 13.13). -/
theorem aFlt_ne_of_aSld_le {a b : Nat} (ha : aSld ≤ a) (hb : b < 0xE0000) : aFlt + b ≠ a := by
  unfold aSld at ha
  unfold aFlt
  omega

theorem State.tokenLost_only (s : State) (ft : Nat) : s.tokenLost ft = { s with cnt := (s.tokenLost ft).cnt } := by
  unfold State.tokenLost
  rw [State.bump_only, State.bump_only s]

theorem State.loseToken_only (s : State) (f : Frame) (id : Nat) :
    s.loseToken f id = { s with aux := (s.loseToken f id).aux, cnt := (s.loseToken f id).cnt } := by
  unfold State.loseToken
  dsimp only
  split
  · rfl
  · split
    · rfl
    · rw [State.tokenLost_only]

/-- A token lost counts in no register of Solder. -/
theorem State.cntAt_loseToken {s : State} {a : Nat} (f : Frame) (id : Nat) (ha : aSld ≤ a) :
    (s.loseToken f id).cntAt a = s.cntAt a := by
  unfold State.loseToken
  dsimp only
  split
  · rfl
  · split
    · rfl
    · unfold State.tokenLost
      rw [State.cntAt_bump_of_ne _ (aFlt_ne_of_aSld_le ha (by decide)), State.cntAt_bump_of_ne]
      split
      all_goals exact aFlt_ne_of_aSld_le ha (by decide)

/-- A frame that goes whole and counts as a lost token. -/
theorem State.discard_loseToken_only (s : State) (f : Frame) (id : Nat) : (s.loseToken f id).discard id = { s with
    ports := ((s.loseToken f id).discard id).ports, aux := ((s.loseToken f id).discard id).aux,
    cnt := ((s.loseToken f id).discard id).cnt,
    sol := { s.sol with cells := ((s.loseToken f id).discard id).sol.cells } } := by
  have hgone := (s.loseToken f id).discard_only id
  have htoken := s.loseToken_only f id
  generalize (s.loseToken f id).discard id = u at *
  generalize s.loseToken f id = t at *
  rw [hgone, htoken]

theorem State.countDrop_only (s : State) (p : Nat) (f : Frame) (r : Nat) : s.countDrop p f r = { s with
    cnt := (s.countDrop p f r).cnt, flt := (s.countDrop p f r).flt, pins := (s.countDrop p f r).pins } := by
  unfold State.countDrop
  dsimp only
  split
  · exact State.bump_only ..
  · split
    all_goals exact (State.record_only ..).trans (by rw [State.bump_only])

theorem State.cntAt_countDrop (s : State) (p : Nat) (f : Frame) (r : Nat) :
    (s.countDrop p f r).cntAt (aSld + 0x40 + 4 * (r - 1)) = s.cntAt (aSld + 0x40 + 4 * (r - 1)) + 1 := by
  have hne : aSld + 0x40 + 4 * (r - 1) ≠ aFlt + 0x1C :=
    (aFlt_ne_of_aSld_le (by rw [Nat.add_assoc]; exact Nat.le_add_right ..) (by decide)).symm
  unfold State.countDrop
  dsimp only
  split
  · exact State.cntAt_bump_self ..
  · split
    all_goals rw [State.cntAt_record _ _ _ _ _ _ hne, State.cntAt_bump_self]

theorem State.dropFrame_only (s : State) (p : Nat) (f : Frame) (id r : Nat) : s.dropFrame p f id r = { s with
    ports := (s.dropFrame p f id r).ports, aux := (s.dropFrame p f id r).aux, cnt := (s.dropFrame p f id r).cnt,
    flt := (s.dropFrame p f id r).flt, pins := (s.dropFrame p f id r).pins,
    sol := { s.sol with cells := (s.dropFrame p f id r).sol.cells } } := by
  have hgone := s.discard_loseToken_only f id
  have hcount := ((s.loseToken f id).discard id).countDrop_only p f r
  unfold State.dropFrame
  generalize (s.loseToken f id).discard id = u at *
  generalize u.countDrop p f r = v at *
  rw [hcount, hgone]

/-- A frame that is dropped counts once under its reason. -/
theorem State.cntAt_dropFrame (s : State) (p : Nat) (f : Frame) (id r : Nat) :
    (s.dropFrame p f id r).cntAt (aSld + 0x40 + 4 * (r - 1)) = s.cntAt (aSld + 0x40 + 4 * (r - 1)) + 1 := by
  have hgone : ((s.loseToken f id).discard id).cnt = (s.loseToken f id).cnt := by rw [State.discard_only]
  have htoken := State.cntAt_loseToken (s := s) f id (a := aSld + 0x40 + 4 * (r - 1))
    (by rw [Nat.add_assoc]; exact Nat.le_add_right ..)
  rw [State.dropFrame, State.cntAt_countDrop, State.cntAt, hgone]
  exact congrArg (· + 1) htoken

/-! ### The checks (06 Table 6.4) -/

/-- A reason picked in front of others is in range where they are. -/
theorem reason_of_ite {c : Prop} [Decidable c] {k : Nat} {o : Option Nat} (hk : 1 ≤ k ∧ k ≤ 6)
    (ho : ∀ r, o = some r → 1 ≤ r ∧ r ≤ 6) (r : Nat) (h : (if c then some k else o) = some r) :
    1 ≤ r ∧ r ≤ 6 := by
  split at h
  · cases h
    exact hk
  · exact ho r h

theorem State.ingressFail_range {s : State} {p r : Nat} {f : Frame} (h : s.ingressFail p f = some r) :
    1 ≤ r ∧ r ≤ 6 := by
  have hnone (x : Nat) (hx : none = some x) : 1 ≤ x ∧ x ≤ 6 := nomatch hx
  exact reason_of_ite (by decide) (reason_of_ite (by decide) (reason_of_ite (by decide) (reason_of_ite (by decide)
    (reason_of_ite (by decide) (reason_of_ite (by decide) (reason_of_ite (by decide) hnone)))))) r h

theorem State.heardFrom_eq (s : State) (f : Frame) : ∃ x : Flt, s.heardFrom f = { s with flt := x } := by
  unfold State.heardFrom
  split
  · exact ⟨_, State.heardBack_only ..⟩
  · exact ⟨_, rfl⟩

theorem State.heardFrom_of_not_mgmt {s : State} {f : Frame} (h : f.hdr.ftype.toNat ≠ ftMgmt) : s.heardFrom f = s :=
  if_neg (by simpa using h)

/-! ### A frame that comes whole takes its cells (05 R129; 06 R148) -/

/-- A frame that has come whole, and has its cells at its port. -/
def State.claimed (s : State) (p : Nat) (f : Frame) : State :=
  let n := cdiv f.hdr.frameLen.toNat 240
  let held := tset (s.port p).rxHeld f.vc.toNat (tget (s.port p).rxHeld f.vc.toNat 0 + n)
  { s.setPort p { s.port p with rxHeld := held } with
    sol := { s.sol with nextId := s.sol.nextId + 1,
                        cells := storeCells p f.vc.toNat s.sol.nextId 1 n 0 s.sol.cells } }

theorem State.untaken_eq_none {s : State} {p v : Nat} (h : ∀ x ∈ (s.paux p).asm, x.vc = v → x.taken = true) :
    s.untaken p v = none := by
  refine List.find?_eq_none.mpr fun x hx => ?_
  simpa using h x hx

theorem State.claimFrame_of_whole {s : State} {p : Nat} {f : Frame} (h : s.untaken p f.vc.toNat = none) :
    s.claimFrame p f = (s.claimed p f, s.sol.nextId, false) := by
  unfold State.claimFrame
  simp only [h]
  rfl

section
variable (s : State) (p : Nat) (f : Frame)

theorem State.port_claimed_st (q : Nat) : ((s.claimed p f).port q).st = (s.port q).st := by
  change ((s.setPort p _).port q).st = _
  rw [State.port_setPort]
  split
  · next h => rw [h]
  · rfl

theorem State.live_claimed : (s.claimed p f).live = s.live := by
  funext q
  exact congrArg (· == PortState.active) (s.port_claimed_st p f q)

theorem State.present_claimed (a : Nat) : (s.claimed p f).present a = s.present a := by
  have hacc (b : Nat) : (s.claimed p f).accPresent b = s.accPresent b := by
    unfold State.accPresent
    simp only [State.port_claimed_st]
    rfl
  unfold State.present
  rw [hacc]
  rfl

theorem State.ingressFail_claimed (q : Nat) (g : Frame) : (s.claimed p f).ingressFail q g = s.ingressFail q g := by
  unfold State.ingressFail
  simp only [State.present_claimed]
  rfl

theorem State.kth_claimed (ps : List Nat) (x : Nat) : (s.claimed p f).kth ps x = s.kth ps x := by
  unfold State.kth State.livePorts
  rw [State.live_claimed]

theorem State.escGroup_claimed (mgmt : Bool) (dest : Nat) : (s.claimed p f).escGroup mgmt dest = s.escGroup mgmt dest := by
  have hgroup (g : Nat) : (s.claimed p f).groupLive g = s.groupLive g := by
    unfold State.groupLive
    rw [State.live_claimed]
    rfl
  unfold State.escGroup State.escDetour
  simp only [hgroup]
  rfl

/-- The cells that a frame has taken change no choice of a port. -/
theorem State.route_claimed (g : Frame) : (s.claimed p f).route g = s.route g := by
  have hchoose : (s.claimed p f).choose g = s.choose g := by
    unfold State.choose State.livePorts
    simp only [State.kth_claimed, State.escGroup_claimed, State.live_claimed]
    rfl
  unfold State.route
  simp only [hchoose, State.kth_claimed, State.escGroup_claimed]
  rfl

end

theorem State.port_claimed (s : State) (p : Nat) (f : Frame) : (s.claimed p f).port p = { s.port p with
    rxHeld := tset (s.port p).rxHeld f.vc.toNat
      (tget (s.port p).rxHeld f.vc.toNat 0 + cdiv f.hdr.frameLen.toNat 240) } := State.port_setPort_self ..

/-! ### Frames queued (06 R152, R160) -/

/-- With a descriptor free and no frame of its input and channel waiting for one, an entry joins the queues at once. -/
theorem State.queueEnt_of_free {s : State} {q : QEnt} (hroom : s.sol.queues.length < 262144)
    (hline : ∀ x ∈ s.sol.descWait, x.inp ≠ q.inp ∨ x.frame.vc ≠ q.frame.vc) :
    s.queueEnt q = { s with sol := { s.sol with
      queues := s.sol.queues ++ [{ q with since := s.sol.arrivals }], arrivals := s.sol.arrivals + 1 } } := by
  have hin : s.inLine q = false := by
    refine List.any_eq_false.mpr fun x hx => ?_
    simpa [imp_iff_not_or] using hline x hx
  simp only [State.queueEnt, hin, Nat.not_le.mpr hroom, decide_false, Bool.or_self, Bool.false_eq_true, if_false]
  rfl

theorem State.putFrame_of_free {s : State} {p : Nat} {f : Frame} (id : Nat) (outs : List Nat)
    (hroom : s.sol.queues.length < 262144) (hline : ∀ x ∈ s.sol.descWait, x.inp ≠ p ∨ x.frame.vc ≠ f.vc) :
    s.putFrame p id f outs = { s with sol := { s.sol with
      queues := s.sol.queues ++ [
        { inp := p, outs := outs, mc := false, frame := f, id := id, cells := cdiv f.hdr.frameLen.toNat 240, passed := [],
          since := s.sol.arrivals, noRoute := if outs = [] then some s.clk else none, sent := false, noCredit := none,
          atUnit := none }],
      arrivals := s.sol.arrivals + 1 } } := by
  rw [State.putFrame, State.queueEnt_of_free hroom hline]
  cases outs <;> rfl

theorem State.routed_of_not_data {s : State} {f : Frame} (h : f.hdr.ftype.toNat ≠ ftData) :
    s.routed f = (s, s.route f) := by
  unfold State.routed
  split
  · next hroute => simp [hroute, h]
  · next hroute => rw [hroute]

/-! ### Frames that pass (06 R151; 02 R47) -/

section
variable {s : State} {p : Nat} {f : Frame}

theorem State.ingress_of_fail {r : Nat} (hwhole : s.untaken p f.vc.toNat = none)
    (hfail : s.ingressFail p (hopDown f) = some r) :
    s.ingress p f = (s.claimed p f).dropFrame p (hopDown f) s.sol.nextId r := by
  unfold State.ingress
  rw [State.claimFrame_of_whole hwhole]
  simp only [State.ingressFail_claimed, hfail]

/-- A frame that no policer watches and that comes whole is accepted once it passes the checks. -/
theorem State.ingress_of_pass (hwhole : s.untaken p f.vc.toNat = none) (hpass : s.ingressFail p (hopDown f) = none)
    (hft : f.hdr.ftype.toNat ≠ ftData) : s.ingress p f = (s.claimed p f).accept p s.sol.nextId (hopDown f) := by
  have hpolice (t : State) : t.police p (hopDown f) = (t, false) := by
    have hnone : t.policerOf p (hopDown f) = none := by
      unfold State.policerOf
      exact if_pos (by simp [hopDown, hft])
    unfold State.police
    simp only [hnone]
  unfold State.ingress
  rw [State.claimFrame_of_whole hwhole]
  simp only [State.ingressFail_claimed, hpass, hpolice, Bool.false_eq_true, if_false]

/-- A CONTRIB frame goes to the contribution network or on to its next hop; one from an abandoned input is lost. -/
theorem State.accept_of_contrib (id : Nat) (hft : f.hdr.ftype.toNat = ftContrib) (hmc : f.hdr.mcast = 0) :
    s.accept p id f = if f.hdr.dest.toNat = s.addr then
        if s.fromAbandoned p f then (s.loseToken f id).discard id else s.putFrame p id f [netPoint]
      else s.putFrame p id f (s.route f).toList := by
  have hhello : isHello f = false := by simp [isHello, hft, ftContrib, ftMgmt]
  have hflow : isFlow f = false := by simp [isFlow, hft, ftContrib, ftData]
  have hunit : s.unitOf f = some netPoint := by simp [State.unitOf, hft, ftContrib, ftMgmt]
  have hforward : s.forward p id f = s.putFrame p id f (s.route f).toList := by
    unfold State.forward
    rw [State.routed_of_not_data (by rw [hft]; decide)]
  unfold State.accept
  simp [hhello, hflow, hmc, hft, hunit, hforward, ftContrib, ftReturn, ftCompletion, ftMgmt]

end

section
variable {s : State} {p : BitVec 6} {f : Frame} (hon : s.on = true) (hst : (s.port p.toNat).st = .active)
  (hcome : s.mayCome p.toNat f = true)
include hon hst hcome

theorem exec_frameIngress : exec (.frameIngress p f) s = .next ((s.heardFrom f).ingress p.toNat f) :=
  due_of_true (by simp [hon, hst, hcome])

/-- A contribution that comes whole and passes the checks. -/
theorem exec_frameIngress_of_contrib (hwhole : s.untaken p.toNat f.vc.toNat = none)
    (hpass : s.ingressFail p.toNat (hopDown f) = none) (hft : f.hdr.ftype.toNat = ftContrib) (hmc : f.hdr.mcast = 0) :
    exec (.frameIngress p f) s = .next (if f.hdr.dest.toNat = s.addr then
        if s.fromAbandoned p.toNat (hopDown f) then
          ((s.claimed p.toNat f).loseToken (hopDown f) s.sol.nextId).discard s.sol.nextId
        else (s.claimed p.toNat f).putFrame p.toNat s.sol.nextId (hopDown f) [netPoint]
      else (s.claimed p.toNat f).putFrame p.toNat s.sol.nextId (hopDown f) (s.route (hopDown f)).toList) := by
  rw [exec_frameIngress hon hst hcome, State.heardFrom_of_not_mgmt (by rw [hft]; decide),
    State.ingress_of_pass hwhole hpass (by rw [hft]; decide), State.accept_of_contrib (f := hopDown f) _ hft hmc,
    State.route_claimed]
  rfl

end

/-- Settles O36: what a whole frame takes is `State.claimed`; a frame that fails a check is dropped
(`State.dropFrame_only`, `State.cntAt_dropFrame`), and a contribution that passes goes where
`exec_frameIngress_of_contrib` says. -/
theorem frameIngressChecksAndQueues : Obligations.FrameIngressChecksAndQueues := by
  refine ⟨fun s p f r hon hst hasm hcome hfail => ?_,
    fun s p f outs hon hst hasm hcome hpass hft hmc habandoned hroom hline houts => ?_,
    fun s p f hon hst hasm hcome hpass hft hmc hdest habandoned => ?_⟩
  · have hexec := exec_frameIngress hon hst hcome
    obtain ⟨x, hx⟩ := s.heardFrom_eq f
    rw [hx] at hexec hfail
    have hwhole := State.untaken_eq_none (s := { s with flt := x }) hasm
    rw [State.ingress_of_fail hwhole hfail] at hexec
    obtain ⟨hpos, hle⟩ := State.ingressFail_range hfail
    exact ⟨_, hexec, hpos, hle, State.cntAt_dropFrame .., State.dropFrame_only ..⟩
  · have hput : exec (.frameIngress p f) s =
        .next ((s.claimed p.toNat f).putFrame p.toNat s.sol.nextId (hopDown f) outs) := by
      rw [exec_frameIngress_of_contrib hon hst hcome (State.untaken_eq_none hasm) hpass hft hmc, houts]
      by_cases hdest : f.hdr.dest.toNat = s.addr
      · rw [if_pos hdest, if_pos hdest, habandoned hdest]
        rfl
      · rw [if_neg hdest, if_neg hdest]
    rw [State.putFrame_of_free (s := s.claimed p.toNat f) (f := hopDown f) _ _ hroom hline] at hput
    refine ⟨_, hput, rfl, fun k hk => ?_, ?_, rfl⟩
    · exact (tfind_storeCells ..).trans (if_pos (by omega))
    · change tget ((s.claimed p.toNat f).port p.toNat).rxHeld _ _ = _
      rw [State.port_claimed]
      exact tget_tset.trans (if_pos rfl)
  · have hexec := exec_frameIngress_of_contrib hon hst hcome (State.untaken_eq_none hasm) hpass hft hmc
    rw [if_pos hdest, if_pos habandoned] at hexec
    exact ⟨_, hexec, fun k hlo hhi => State.tfind_discard hlo hhi, State.discard_loseToken_only ..⟩

end Sys2Proof.Machine

/-! Frames that wait (06 R154, R160, R165, R169): for a descriptor, a route, credit or cells. -/

namespace Sys2Proof.Machine

/-! ### Descriptors (06 R160) -/

theorem exec_frameDescriptorFree {s : State} {q : QEnt} (hon : s.on = true) (hroom : s.sol.queues.length < 262144)
    (hfirst : s.sol.descWait.find? (fun x => s.sol.cells.any (fun e => e.1 / 64 == x.id) &&
      (s.sol.descWait.find? (fun y => y.inp == x.inp && y.frame.vc == x.frame.vc)) == some x) = some q) :
    exec .frameDescriptorFree s = .next { s with sol := { s.sol with
      queues := insertSince q s.sol.queues, descWait := s.sol.descWait.erase q } } := by
  change execFrameDescriptorFree s = _
  unfold execFrameDescriptorFree
  simp only [hfirst]
  exact due_of_true (by simp [hon, hroom])

/-! ### Routes (06 R154) -/

theorem exec_noRouteWait_of_one {s : State} {q : QEnt} {t0 : Nat} (hon : s.on = true) (hqueues : s.sol.queues = [q])
    (hwait : q.noRoute = some t0) : exec .noRouteWait s = .next (s.routeWait q) := by
  change execNoRouteWait s = _
  rw [execNoRouteWait, due_of_true hon, hqueues, List.filter_cons_of_pos (by rw [hwait]; rfl)]
  rfl

theorem State.routed_snd (s : State) (f : Frame) : (s.routed f).2 = s.route f := by
  unfold State.routed
  split
  · next h => rw [h]
  · next h => rw [h]

/-- The choice of a port changes the port that was sprayed last alone. -/
theorem State.routed_fst_only (s : State) (f : Frame) :
    (s.routed f).1 = { s with sol := { s.sol with lastSpray := (s.routed f).1.sol.lastSpray } } := by
  unfold State.routed
  split
  · dsimp only
    split <;> rfl
  · rfl

theorem State.routed_of_none {s : State} {f : Frame} (h : s.route f = none) : s.routed f = (s, none) := by
  unfold State.routed
  simp only [h]

/-- A waiting frame whose port lives again takes it. -/
theorem State.routeWait_of_some {s : State} {q : QEnt} {t0 o : Nat} (hqueues : s.sol.queues = [q])
    (hwait : q.noRoute = some t0) (hroute : s.route q.frame = some o) :
    s.routeWait q = { s with sol := { s.sol with
      queues := [{ q with outs := [o], noRoute := none }], lastSpray := (s.routed q.frame).1.sol.lastSpray } } := by
  have hsnd := s.routed_snd q.frame
  have hfst := s.routed_fst_only q.frame
  unfold State.routeWait
  simp only [hwait]
  generalize s.routed q.frame = r at *
  obtain ⟨t, x⟩ := r
  obtain rfl : x = some o := hsnd.trans hroute
  dsimp only at hfst ⊢
  rw [hfst]
  simp [hqueues]

/-- One that has waited long enough is dropped for reason 3. -/
theorem State.routeWait_of_none {s : State} {q : QEnt} {t0 : Nat} (hqueues : s.sol.queues = [q])
    (hwait : q.noRoute = some t0) (hroute : s.route q.frame = none)
    (hlate : t0 + (s.cfgAt (aSld + 0x1C)).toNat ≤ s.clk) :
    s.routeWait q = State.dropFrame { s with sol := { s.sol with queues := [] } } q.inp q.frame q.id 3 := by
  unfold State.routeWait
  simp only [hwait, State.routed_of_none hroute, if_pos hlate, hqueues, List.erase_cons_head]

/-! ### The escape channel (06 R169) -/

/-- The frame as it goes on by the escape channel. -/
def escaped (f : Frame) : Frame := { f with vc := 15, hdr := { f.hdr with esc := true } }

/-- A unicast frame alone in the queues that is marked as it should be stays so. -/
theorem State.markCredit_eq_self {s : State} {q : QEnt} {o : Nat} (hqueues : s.sol.queues = [q]) (hmc : q.mc = false)
    (houts : q.outs = [o]) (ho : o < 64) (hmark : q.noCredit = if q.frame.hdr.spray ∧
      tget (s.port o).avail q.frame.vc.toNat 0 = 0 then some (q.noCredit.getD s.clk) else none) : s.markCredit = s := by
  have hhead : s.atHead q = true := by simp [State.atHead, hqueues, hmc]
  obtain ⟨inp, outs, mc, frame, id, cells, passed, since, noRoute, sent, noCredit, atUnit⟩ := q
  obtain rfl : outs = [o] := houts
  obtain rfl : mc = false := hmc
  dsimp only at hmark
  have hstay : s.sol.queues = [_] := hqueues
  unfold State.markCredit
  simp only [hqueues, List.map_cons, List.map_nil, ho, hhead, Bool.not_false, Bool.and_eq_true, decide_eq_true_eq, true_and,
    and_true]
  split
  · next h =>
    rw [if_pos h] at hmark
    rw [← hmark, ← hstay]
  · next h =>
    rw [if_neg h] at hmark
    rw [← hmark, ← hstay]

theorem State.escapeOne_of_credit {s : State} {q : QEnt} {o : Nat} (hqueues : s.sol.queues = [q]) (hpassed : q.passed = [])
    (hchoose : s.choose (escaped q.frame) = some o) (hcredit : 0 < tget (s.port o).avail 15 0)
    (hline : ∀ x ∈ s.sol.descWait, x.inp ≠ q.inp ∨ x.frame.vc ≠ 15) :
    s.escapeOne q = State.bump { s with sol := { s.sol with
      queues := [{ q with frame := escaped q.frame, outs := [o], noCredit := none, since := s.sol.arrivals }],
      arrivals := s.sol.arrivals + 1 } } (aSld + 0x38) 1 := by
  have hgone : s.sol.queues.filter (fun x => x != q) = [] := by simp [hqueues]
  have hput := State.queueEnt_of_free (s := { s with sol := { s.sol with queues := [] } })
    (q := { q with frame := escaped q.frame, outs := [o], passed := [], noCredit := none }) (Nat.zero_lt_succ _) hline
  unfold escaped at hchoose
  unfold State.escapeOne
  simp only [hchoose, if_pos hcredit, hgone]
  refine (congrArg (fun t => State.bump t (aSld + 0x38) 1) hput).trans ?_
  rw [← hpassed]
  rfl

theorem exec_escapeMove_of_one {s : State} {q : QEnt} {t0 : Nat} (hon : s.on = true) (hqueues : s.sol.queues = [q])
    (hmark : s.markCredit = s) (hft : q.frame.hdr.ftype.toNat = ftData) (hesc : q.frame.hdr.esc = false)
    (hpassed : q.passed = []) (hlo : 10 ≤ q.frame.vc.toNat) (hhi : q.frame.vc.toNat ≤ 13) (hwait : q.noCredit = some t0)
    (hlate : t0 + (s.cfgAt (aSld + 0x10)).toNat ≤ s.clk) : exec .escapeMove s = .next (s.escapeOne q) := by
  change execEscapeMove s = _
  unfold execEscapeMove
  rw [due_of_true hon, hmark, hqueues, List.filter_cons_of_pos]
  · rfl
  · simp [hft, hesc, hpassed, hlo, hhi, hwait, hlate]

/-! ### Buffers (06 R165) -/

theorem exec_bufferGrant {s : State} {k : BitVec 3} (hon : s.on = true) (hk : k.toNat < 5) :
    exec (.bufferGrant k) s = .next (s.bufferGrant k.toNat) := due_of_true (by simp [hon, hk])

/-- The one frame that waits for cells of pool 0 takes them, and its place in the queues. -/
theorem State.grantCells_of_one {s : State} {r : PoolReq} {q : QEnt} (hwaits : tget s.sol.waits 0 [] = [r])
    (hcells : s.cellsFor r.owner r.n = true) (hent : s.sol.descWait.find? (fun x => x.id == r.tag) = some q)
    (hroom : s.sol.queues.length < 262144)
    (hfirst : ∀ x ∈ s.sol.descWait.erase q, x.inp = q.inp → x.frame.vc = q.frame.vc → q.since ≤ x.since) :
    s.grantCells = { s with sol := { s.sol with
      waits := tset s.sol.waits 0 [],
      cells := storeCells q.inp q.frame.vc.toNat q.id (max 1 q.outs.length) q.cells 0 s.sol.cells,
      queues := insertSince q s.sol.queues, descWait := s.sol.descWait.erase q } } := by
  have hserve : s.mayServe 0 r = true := hcells
  have hnone : (s.sol.descWait.erase q).any (fun x => x.inp == q.inp && x.frame.vc == q.frame.vc &&
      decide (x.since < q.since)) = false := by
    refine List.any_eq_false.mpr fun x hx => ?_
    simpa using hfirst x hx
  unfold State.grantCells
  simp [hwaits, hserve, hent, hnone, hroom]

/-- What a freed buffer of pools 1 and 2 does for the request that may take it. -/
theorem State.bufferGrant_of_find {s : State} {k : Nat} {r : PoolReq} (hk : k = 1 ∨ k = 2)
    (hfind : (tget s.sol.waits k []).find? (fun x => s.mayServe k x) = some r) :
    s.bufferGrant k = if k = 1 ∧ r.tag % 4 = 2 then
        (s.findColl (r.tag / 4 / 2 ^ 32) (r.tag / 4 % 2 ^ 32)).elim (s.unwait 1 r.tag)
          (fun i => (s.unwait 1 r.tag).progress i)
      else if k = 2 ∧ r.tag % 4 = 1 then
        (s.findColl (r.tag / 4 / 2 ^ 32) (r.tag / 4 % 2 ^ 32)).elim (s.unwait 2 r.tag)
          (fun i => s.restage i r.tag)
      else s.unwait k r.tag := by
  unfold State.bufferGrant
  simp only [hfind]
  generalize s.findColl _ _ = c
  rcases hk with rfl | rfl <;> cases c <;> simp

/-- Settles O37: a descriptor (`exec_frameDescriptorFree`), a route (`State.routeWait_of_some`, `State.routeWait_of_none`),
the escape channel (`State.escapeOne_of_credit`), and buffers (`State.grantCells_of_one`, `State.bufferGrant_of_find`). -/
theorem waitingFramesMove : Obligations.WaitingFramesMove := by
  refine ⟨fun s q hon hroom hfirst => exec_frameDescriptorFree hon hroom hfirst,
    fun s q t0 o hon hqueues hwait hroute => ?_, fun s q t0 hon hqueues hwait hroute hlate => ?_,
    fun s q t0 o o' hon hqueues hmc houts ho hspray hcredit hwait hpassed hft hesc hlo hhi hlate hchoose hescape hline => ?_,
    fun s r q hon hwaits hcells hent hroom hfirst => ?_, fun s k r hon hk hfind => ?_⟩
  · have hexec := exec_noRouteWait_of_one hon hqueues hwait
    rw [State.routeWait_of_some hqueues hwait hroute] at hexec
    exact ⟨_, hexec, rfl, rfl⟩
  · rw [exec_noRouteWait_of_one hon hqueues hwait, State.routeWait_of_none hqueues hwait hroute hlate]
  · have hmark := State.markCredit_eq_self hqueues hmc houts ho (by rw [if_pos ⟨hspray, hcredit⟩, hwait]; rfl)
    have hexec := exec_escapeMove_of_one hon hqueues hmark hft hesc hpassed hlo hhi hwait hlate
    rw [State.escapeOne_of_credit hqueues hpassed hchoose hescape hline] at hexec
    refine ⟨_, hexec, ?_, State.cntAt_bump_self .., ?_⟩
    · rw [State.bump_only]
      rfl
    · rw [State.bump_only]
  · rw [exec_bufferGrant hon (by decide)]
    exact congrArg _ (State.grantCells_of_one hwaits hcells hent hroom hfirst)
  · have hlt : k.toNat < 5 := by rcases hk with rfl | rfl <;> decide
    rw [exec_bufferGrant hon hlt, State.bufferGrant_of_find (by rcases hk with rfl | rfl; exacts [.inl rfl, .inr rfl]) hfind]
    refine ⟨fun hkind => ?_, fun i hi => ⟨?_, ?_⟩⟩
    · rcases hkind with ⟨rfl, hkind⟩ | ⟨rfl, hkind⟩
      · simp [hkind]
      · simp [hkind]
    · rintro rfl hkind
      rw [hi, if_pos ⟨rfl, hkind⟩]
      rfl
    · rintro rfl hkind
      rw [hi, if_neg fun h => absurd h.1 (by decide), if_pos ⟨rfl, hkind⟩]
      rfl

end Sys2Proof.Machine

/-! Cell times (06 R148, R156, R161, R162) and telemetry (06 R174): one frame that crosses, what the code of a cell finds, and
the samples of the ports. -/

namespace Sys2Proof.Machine

/-! ### Requests (06 R161) -/

theorem State.reqClass_le (s : State) (q : QEnt) (o : Nat) : s.reqClass q o ≤ 5 := by
  unfold State.reqClass
  dsimp only
  repeat' split
  all_goals decide

theorem owes_of_one {q : QEnt} {o : Nat} (houts : q.outs = [o]) (ho : o < 80) (hleft : passedTo q o < q.cells) :
    owes q = [o] := by simp [owes, houts, ho, hleft]

theorem residue_of_one {q : QEnt} {o : Nat} (howes : owes q = [o]) (hleft : passedTo q o ≤ 64) : residue q = [o] := by
  simp [residue, howes, hleft]

/-- A port that may take a cell has credit for it. -/
theorem State.credit_of_offers {s : State} {q : QEnt} {o : Nat} (ho : o < 64) (h : s.offers q o = true) :
    0 < tget (s.port o).avail q.frame.vc.toNat 0 := by
  unfold State.offers at h
  simp only [Bool.and_eq_true, if_neg (Nat.not_le.mpr ho), decide_eq_true_eq] at h
  obtain ⟨-, ⟨⟨-, hcredit⟩, -⟩, -⟩ := h
  exact hcredit

theorem State.heads_of_one {s : State} {q : QEnt} {o : Nat} (hqueues : s.sol.queues = [q]) (howes : owes q = [o]) :
    s.heads = [q] := by
  have hhead : s.isHead q = true := by simp [State.isHead, hqueues, howes]
  unfold State.heads
  rw [hqueues, List.filter_cons_of_pos hhead, List.filter_nil]

theorem State.requests_of_one {s : State} {q : QEnt} {o : Nat} (hqueues : s.sol.queues = [q]) (howes : owes q = [o])
    (hleft : passedTo q o ≤ 64) (hoffers : s.offers q o = true) : s.requests = [(q.inp, o, s.reqClass q o, q)] := by
  unfold State.requests
  rw [State.heads_of_one hqueues howes]
  simp [residue_of_one howes hleft, hoffers]

/-! ### Matching (06 R162) -/

theorem filter_range_beq {n i : Nat} (h : i < n) : (List.range n).filter (fun x => i == x) = [i] := by
  have hcount : (List.range n).count i = 1 := List.count_eq_one_of_mem List.nodup_range (List.mem_range.mpr h)
  rw [List.filter_congr (q := fun x => x == i) fun x _ => Bool.beq_comm, List.filter_beq, hcount]
  rfl

theorem atOrAfter_singleton (n : Nat) {i : Nat} (hi : i < 80) : atOrAfter n [i] = some i := by
  have hmin : min 79 i = i := Nat.min_eq_right (by omega)
  by_cases hn : n ≤ i
  · simp [atOrAfter, hn, hmin]
  · simp [atOrAfter, hn, hmin]

/-- The requests whose input and output are not matched yet. -/
def Match.openRequests (m : Match) (all : List (Nat × Nat × Nat × QEnt)) : List (Nat × Nat × Nat × QEnt) :=
  all.filter (fun r => !m.ins.contains r.1 && !m.outs.contains r.2.1)

/-- What the outputs grant of the requests of a round. -/
def State.grants (s : State) (m : Match) (reqs : List (Nat × Nat × Nat × QEnt)) : List (Nat × Nat × Nat × QEnt) :=
  ((List.range 80).filter (fun o => reqs.any (fun r => r.2.1 == o))).filterMap (fun o => s.grant m reqs o)

/-- What an input accepts of the grants that it has. -/
def State.accepts (s : State) (grants : List (Nat × Nat × Nat × QEnt)) (m : Match) (i : Nat) :
    List (Nat × Nat × Nat × QEnt) :=
  let gs := grants.filter (fun g => g.1 == i)
  let mcs := gs.filter (fun g => g.2.2.2.mc)
  match mcs, tget s.sol.mcTurn i false with
  | g :: _, true => mcs.filter (fun x => x.2.2.2.id == g.2.2.2.id)
  | _, _ => (match atOrAfter (tget m.a i 0) (gs.map (fun g => g.2.1)) with
    | some o => gs.filter (fun g => g.2.1 == o)
    | none => [])

/-- An input matched to the outputs that it accepts; in the first round the pointers move. -/
def State.matchInput (s : State) (first : Bool) (grants : List (Nat × Nat × Nat × QEnt)) (m : Match) (i : Nat) : Match :=
  let acc := s.accepts grants m i
  let m := { m with ins := i :: m.ins, outs := acc.map (fun g => g.2.1) ++ m.outs,
                    pairs := m.pairs ++ acc.map (fun g => (i, g.2.1, g.2.2.2)) }
  if first then
    acc.foldl (fun m g => { m with g := tset m.g (8 * g.2.1 + g.2.2.1) ((i + 1) % 80),
                                   a := tset m.a i ((g.2.1 + 1) % 80) }) m
  else m

theorem State.round_eq (s : State) (first : Bool) (all : List (Nat × Nat × Nat × QEnt)) (m : Match) :
    s.round first all m =
      ((List.range 80).filter (fun i => (s.grants m (m.openRequests all)).any (fun g => g.1 == i))).foldl
        (s.matchInput first (s.grants m (m.openRequests all))) m := rfl

theorem State.accepts_of_one (s : State) (m : Match) {r : Nat × Nat × Nat × QEnt} (hout : r.2.1 < 80)
    (hmc : r.2.2.2.mc = false) : s.accepts [r] m r.1 = [r] := by
  simp [State.accepts, hmc, atOrAfter_singleton _ hout]

section
variable (s : State) (m : Match) {r : Nat × Nat × Nat × QEnt} (hclass : r.2.2.1 ≤ 5) (hinp : r.1 < 80)
include hclass hinp

/-- The one request of an output is granted. -/
theorem State.grant_of_one : s.grant m [r] r.2.1 = some r := by
  have htop : s.topRequests r.2.1 [r] = [r] := by
    have hmin : min 5 r.2.2.1 = r.2.2.1 := Nat.min_eq_right hclass
    simp [State.topRequests, hmin]
  have hmine : [r].filter (fun x => x.2.1 == r.2.1) = [r] := by simp
  unfold State.grant
  simp only [hmine, htop]
  simp [atOrAfter_singleton _ hinp]

variable (hout : r.2.1 < 80)
include hout

theorem State.grants_of_one : s.grants m [r] = [r] := by
  have houts : (List.range 80).filter (fun o => [r].any (fun r => r.2.1 == o)) = [r.2.1] := by
    simpa using filter_range_beq hout
  rw [State.grants, houts]
  simp [State.grant_of_one s m hclass hinp]

/-- A round in which one unicast cell is asked for matches it. -/
theorem State.round_of_one (hmc : r.2.2.2.mc = false) (first : Bool) (hins : m.ins = []) (houts : m.outs = [])
    (hpairs : m.pairs = []) : (s.round first [r] m).ins = [r.1] ∧ (s.round first [r] m).pairs = [(r.1, r.2.1, r.2.2.2)] := by
  have hopen : m.openRequests [r] = [r] := by simp [Match.openRequests, hins, houts]
  have hin : (List.range 80).filter (fun i => [r].any (fun r => r.1 == i)) = [r.1] := by
    simpa using filter_range_beq hinp
  rw [State.round_eq, hopen, State.grants_of_one s m hclass hinp hout, hin, List.foldl_cons, List.foldl_nil,
    State.matchInput, State.accepts_of_one s m hout hmc]
  cases first <;> exact ⟨congrArg _ hins, congrArg (· ++ [_]) hpairs⟩

end

/-- A round in which every request comes from an input that is matched leaves the matching. -/
theorem State.round_of_matched (s : State) {first : Bool} {m : Match} {l : List (Nat × Nat × Nat × QEnt)}
    (h : ∀ r ∈ l, r.1 ∈ m.ins) : s.round first l m = m := by
  have hopen : m.openRequests l = [] := by
    refine List.filter_eq_nil_iff.mpr fun r hr => ?_
    simp [h r hr]
  have hgrants : s.grants m [] = [] := by simp [State.grants]
  rw [State.round_eq, hopen, hgrants]
  simp

/-! ### Telemetry of a cell time (06 Table 6.12) -/

theorem State.stalls_only (s : State) (l : List (Nat × Nat × QEnt)) (o : Nat) :
    s.stalls l o = { s with sol := { s.sol with acc := (s.stalls l o).sol.acc } } := by
  unfold State.stalls
  dsimp only
  split <;> rfl

theorem State.foldl_stalls_only (s : State) (l : List (Nat × Nat × QEnt)) (os : List Nat) :
    os.foldl (fun s o => s.stalls l o) s =
      { s with sol := { s.sol with acc := (os.foldl (fun s o => s.stalls l o) s).sol.acc } } := by
  induction os generalizing s with
  | nil => rfl
  | cons o os ih =>
    rw [List.foldl_cons, ih]
    generalize os.foldl (fun s o => s.stalls l o) (s.stalls l o) = u
    rw [State.stalls_only]

theorem State.stalls_of_empty {s : State} (l : List (Nat × Nat × QEnt)) (o : Nat) (h : s.sol.queues = []) :
    s.stalls l o = s := by
  unfold State.stalls
  simp [h]

/-! ### A cell that crosses (06 R161; 07 R191) -/

/-- What a staged frame is, but for its place in the order and its tag. -/
def Staged.body (e : Staged) : Frame × Nat × Nat × Nat × Nat × Option (Nat × List Byte) :=
  (e.frame, e.id, e.inp, e.avail, e.sent, e.tail)

/-- The frame at the head of channel 10 + `k` of a port takes its tag. -/
def State.headTag (p : Nat) (s : State) (k : Nat) : State :=
  match (s.port p).egress.find? (fun e => e.frame.vc.toNat == 10 + k) with
  | none => s
  | some e =>
    if e.tag != 0 then s
    else
      let f := tget s.sch.wfqF (4 * p + k) 0
      let start := later32 (tget s.sch.wfqV p 0) f
      let t := (start + frameFlits e.frame * 65536 / s.weight p k) % 2 ^ 32
      let q := s.port p
      let s := s.setPort p { q with egress := q.egress.map (fun x => if x = e then { x with tag := t + 1 } else x) }
      { s with sch := { s.sch with wfqF := tset s.sch.wfqF (4 * p + k) t } }

theorem State.headTags_eq (s : State) (p : Nat) : s.headTags p = [0, 1, 2, 3].foldl (State.headTag p) s := rfl

theorem State.headTag_only (p : Nat) (s : State) (k : Nat) : State.headTag p s k = { s with
    ports := (State.headTag p s k).ports, sch := { s.sch with wfqF := (State.headTag p s k).sch.wfqF } } := by
  unfold State.headTag
  split
  · rfl
  · split <;> rfl

theorem State.port_headTag_of_ne {p q : Nat} (s : State) (k : Nat) (h : q ≠ p) :
    (State.headTag p s k).port q = s.port q := by
  unfold State.headTag
  split
  · rfl
  · split
    · rfl
    · exact (State.port_setPort ..).trans (if_neg h.symm)

theorem State.egress_headTag (p : Nat) (s : State) (k : Nat) :
    ((State.headTag p s k).port p).egress.map Staged.body = (s.port p).egress.map Staged.body := by
  unfold State.headTag
  split
  · rfl
  · next e _ =>
    split
    · rfl
    · dsimp only
      change (State.port (State.setPort ..) p).egress.map Staged.body = _
      rw [State.port_setPort_self, List.map_map]
      refine List.map_congr_left fun x _ => ?_
      dsimp only [Function.comp]
      split <;> rfl

/-- Tags change no more than tags at their port, and the port's last tags. -/
theorem State.headTags_spec (s : State) (p : Nat) :
    ((s.headTags p).port p).egress.map Staged.body = (s.port p).egress.map Staged.body ∧
    (∀ q, q ≠ p → (s.headTags p).port q = s.port q) ∧
    s.headTags p = { s with ports := (s.headTags p).ports, sch := { s.sch with wfqF := (s.headTags p).sch.wfqF } } := by
  rw [State.headTags_eq]
  generalize [0, 1, 2, 3] = l
  refine ⟨foldl_apply_eq (fun t : State => (t.port p).egress.map Staged.body) fun _ _ => State.egress_headTag ..,
    fun q hq => foldl_apply_eq (fun t : State => t.port q) fun _ _ => State.port_headTag_of_ne _ _ hq, ?_⟩
  induction l generalizing s with
  | nil => rfl
  | cons k l ih =>
    rw [List.foldl_cons, ih]
    generalize l.foldl (State.headTag p) (State.headTag p s k) = u
    rw [State.headTag_only]

theorem State.asSent_of_unicast (s : State) {q : QEnt} (o : Nat) (hmc : q.mc = false) : s.asSent q o = q.frame := by
  simp [State.asSent, hmc]

/-- A frame of which the first cell is staged at a port. -/
def State.lastCell (s : State) (q : QEnt) (o : Nat) : Staged :=
  { frame := s.asSent q o, id := q.id, inp := q.inp, avail := passedTo q o + 1, sent := 0, tail := none, since := q.since,
    tag := 0 }

/-- The last cell of the one frame that is queued crosses to its port, and is the first of it there. -/
theorem State.moveCell_of_one {s : State} {q : QEnt} {o : Nat} (hqueues : s.sol.queues = [q]) (houts : q.outs = [o])
    (ho : o < 64) (hlast : q.cells ≤ passedTo q o + 1) (hfresh : ∀ e ∈ (s.port o).egress, e.id ≠ q.id) :
    s.moveCell q o = State.headTags (State.setPort { s with sol := { s.sol with
      queues := [], vcOwner := tdel s.sol.vcOwner (16 * o + q.frame.vc.toNat) } } o
      { s.port o with egress := (s.port o).egress ++ [s.lastCell q o] }) o := by
  have hnone : (s.port o).egress.any (fun e => e.id == q.id) = false := by
    refine List.any_eq_false.mpr fun e he => ?_
    simpa using hfresh e he
  unfold State.moveCell
  simp only [hqueues, List.find?_cons, beq_self_eq_true, hlast, houts, ho, Nat.not_le.mpr ho, decide_true, decide_false,
    Bool.and_self, Bool.and_false, Bool.false_eq_true, if_true, if_false, List.filter_cons, List.filter_nil,
    bne_self_eq_false, List.isEmpty_nil, Nat.add_zero]
  refine congrArg (fun t => State.headTags t o) ?_
  change State.setPort _ o { s.port o with egress := if (s.port o).egress.any (fun e => e.id == q.id) then _ else _ } = _
  rw [hnone]
  rfl

/-- It is staged behind what the port has, changes no other port, and leaves its queue. -/
theorem State.moveCell_spec {s : State} {q : QEnt} {o : Nat} (hqueues : s.sol.queues = [q]) (houts : q.outs = [o])
    (ho : o < 64) (hlast : q.cells ≤ passedTo q o + 1) (hfresh : ∀ e ∈ (s.port o).egress, e.id ≠ q.id) :
    ((s.moveCell q o).port o).egress.map Staged.body =
      (s.port o).egress.map Staged.body ++ [(s.lastCell q o).body] ∧
    (∀ p, p ≠ o → (s.moveCell q o).port p = s.port p) ∧
    s.moveCell q o = { s with
      ports := (s.moveCell q o).ports, sch := { s.sch with wfqF := (s.moveCell q o).sch.wfqF },
      sol := { s.sol with queues := [], vcOwner := (s.moveCell q o).sol.vcOwner } } := by
  rw [State.moveCell_of_one hqueues houts ho hlast hfresh]
  generalize hput : State.setPort _ o _ = t
  obtain ⟨hbody, hother, honly⟩ := t.headTags_spec o
  refine ⟨?_, fun p hp => ?_, ?_⟩
  · rw [hbody, ← hput, State.port_setPort_self, List.map_append]
    rfl
  · rw [hother p hp, ← hput, State.port_setPort, if_neg hp.symm]
    rfl
  · rw [honly, ← hput]
    rfl

/-! ### The cell time (06 R162) -/

/-- With one cell that may cross, it crosses. -/
theorem State.cellTime_of_one {s : State} {q : QEnt} {o : Nat} (hqueues : s.sol.queues = [q]) (hmc : q.mc = false)
    (houts : q.outs = [o]) (ho : o < 80) (hinp : q.inp < 80) (hleft : passedTo q o < q.cells) (hfew : passedTo q o ≤ 64)
    (hmark : s.markCredit = s) (hoffers : s.offers q o = true) : ∃ gptr aptr acc,
      s.cellTime = State.moveCell { s with sol := { s.sol with gptr := gptr, aptr := aptr, acc := acc } } q o := by
  have howes := owes_of_one houts ho hleft
  have hboth : (List.range 80).filter (fun i => s.heads.any (fun x => x.inp == i && x.mc) &&
      s.heads.any (fun x => x.inp == i && !x.mc)) = [] := by simp [State.heads_of_one hqueues howes, hmc]
  obtain ⟨hins, hpairs⟩ := s.round_of_one { ins := [], outs := [], pairs := [], g := s.sol.gptr, a := s.sol.aptr }
    (r := (q.inp, o, s.reqClass q o, q)) (s.reqClass_le q o) hinp ho hmc true rfl rfl rfl
  unfold State.cellTime
  simp only [hmark, State.requests_of_one hqueues howes hfew hoffers, hboth]
  generalize s.round true _ _ = m at *
  have hmatched : ∀ r ∈ [(q.inp, o, s.reqClass q o, q)], r.1 ∈ m.ins := by simp [hins]
  rw [State.round_of_matched s hmatched, State.round_of_matched s hmatched]
  have hstalls := s.foldl_stalls_only m.pairs (List.range 64)
  generalize List.foldl (fun s o => State.stalls s m.pairs o) s (List.range 64) = t at *
  refine ⟨m.g, m.a, t.sol.acc, ?_⟩
  rw [hpairs, hstalls]
  rfl

/-- With nothing queued a cell time changes nothing. -/
theorem State.cellTime_of_empty {s : State} (h : s.sol.queues = []) : s.cellTime = s := by
  have hheads : s.heads = [] := by simp [State.heads, h]
  have hreq : s.requests = [] := by simp [State.requests, hheads]
  have hmark : s.markCredit = s := by
    unfold State.markCredit
    simp only [h, List.map_nil]
    rw [← h]
  have hround (first : Bool) (m : Match) : s.round first [] m = m := State.round_of_matched s fun _ hr => nomatch hr
  have hboth : (List.range 80).filter (fun i => s.heads.any (fun x => x.inp == i && x.mc) &&
      s.heads.any (fun x => x.inp == i && !x.mc)) = [] := by simp [hheads]
  have hstalls (l : List (Nat × Nat × QEnt)) (os : List Nat) : os.foldl (fun s o => s.stalls l o) s = s := by
    induction os with
    | nil => rfl
    | cons o os ih => rw [List.foldl_cons, State.stalls_of_empty l o h, ih]
  unfold State.cellTime
  simp only [hmark, hreq, hround, hboth, hstalls]
  rfl

theorem exec_cellTimeMatch {s : State} {ecc : List (Nat × Bool)} (hon : s.on = true) :
    exec (.cellTimeMatch ecc) s = .next (ecc.foldl (fun s e => s.cellError e) s).cellTime := due_of_true hon

/-! ### What the code of a cell finds (06 R148, R156) -/

/-- An error of class C takes no free value. -/
theorem State.record_classC_freeCtr (s : State) (n dk di src info : Nat) :
    State.record { s with freeCtr := n } 0 dk di src info = { s.record 0 dk di src info with freeCtr := n } := by
  have hopen : State.openRec { s with freeCtr := n } dk di = s.openRec dk di := rfl
  unfold State.record
  simp only [hopen]
  cases s.openRec dk di with
  | some slot => rfl
  | none =>
    dsimp only
    split
    all_goals split
    all_goals rfl

/-- A word that is corrected is counted and recorded. -/
theorem State.cellError_of_corrected {s : State} {k : Nat} {c : Cell} (hcell : tfind s.sol.cells k = some c) :
    s.cellError (k, false) =
      { (s.bump (aSld + 0x34) 1).record 0 0 0 0x0301 s.free.1 with freeCtr := s.freeCtr + 1 } := by
  rw [← State.record_classC_freeCtr]
  unfold State.cellError
  simp only [hcell]
  rfl

/-- A word that is not corrected, in a cell whose frame is gone, is recorded, and its time is kept. -/
theorem State.cellError_of_lost {s : State} {k : Nat} {c : Cell} (hcell : tfind s.sol.cells k = some c)
    (hframe : s.frameOf (k / 64) = none) (hfew : s.sol.ues.length < 15) : ∃ ues, s.clk ∈ ues ∧ s.cellError (k, true) =
      { State.record { s with freeCtr := s.freeCtr + 1 } 0 0 0 0x0302 s.free.1 with sol := { s.sol with ues := ues } } := by
  have hkept := List.length_filter_le (fun t => decide (s.clk < t + 1000000000)) s.sol.ues
  have hstay : ¬ 16 ≤ (s.sol.ues.filter (fun t => decide (s.clk < t + 1000000000)) ++ [s.clk]).length := by
    rw [List.length_append, List.length_singleton]
    omega
  have hrecord := State.record_classC_only { s with freeCtr := s.freeCtr + 1 } 0 0 0x0302 (Config.pick s.freeCtr)
  have hbefore : State.frameOf { s with freeCtr := s.freeCtr + 1 } (k / 64) = none := hframe
  refine ⟨s.sol.ues.filter (fun t => decide (s.clk < t + 1000000000)) ++ [s.clk], by simp, ?_⟩
  unfold State.cellError
  simp only [hcell, State.free, hbefore, Option.isNone_some, Option.filter_none, Bool.not_true, Bool.false_eq_true, if_false]
  generalize State.record _ 0 0 0 0x0302 _ = u at *
  have hafter : u.frameOf (k / 64) = none := by
    rw [hrecord]
    exact hframe
  have hclk : u.clk = s.clk := by rw [hrecord]
  have hsol : u.sol = s.sol := by rw [hrecord]
  simp only [hafter, hclk, hsol, Option.isSome_none, Bool.false_eq_true, if_false, if_neg hstay]

/-! ### Samples of the ports (06 R174) -/

section
variable {α : Type} {f : Nat → Nat} {v : Nat → α}

theorem tfind_foldl_tset_of_not_mem {l : List Nat} {t : Tbl α} {k : Nat} (hk : ∀ p ∈ l, k ≠ f p) :
    tfind (l.foldl (fun t p => tset t (f p) (v p)) t) k = tfind t k := by
  induction l generalizing t with
  | nil => rfl
  | cons p l ih =>
    obtain ⟨hp, hl⟩ := List.forall_mem_cons.mp hk
    rw [List.foldl_cons, ih hl, tfind_tset, if_neg hp.symm]

theorem tfind_foldl_tset_of_mem {l : List Nat} {t : Tbl α} {p : Nat} (hinj : ∀ i j, f i = f j → i = j) (hp : p ∈ l) :
    tfind (l.foldl (fun t p => tset t (f p) (v p)) t) (f p) = some (v p) := by
  induction l generalizing t with
  | nil => cases hp
  | cons i l ih =>
    rw [List.foldl_cons]
    by_cases hmem : p ∈ l
    · exact ih hmem
    · obtain rfl : p = i := (List.mem_cons.mp hp).resolve_right hmem
      rw [tfind_foldl_tset_of_not_mem fun j hj hjp => hmem (hinj p j hjp ▸ hj), tfind_tset, if_pos rfl]

end

/-- The sample of a port: its counts since the last one, when it is taken, and the cells that its port holds. -/
def State.portSample (s : State) (p : Nat) : Sample :=
  { tget s.sol.acc p Sample.init with
    count := s.now % 2 ^ 32, rxHeld := (s.port p).rxHeld.foldl (fun n e => n + e.2) 0 }

theorem State.telemetry_eq (s : State) : s.telemetry = { s with sol := { s.sol with
    telem := (List.range 64).foldl (fun t p => tset t (64 * p + s.sol.telemPos) (s.portSample p)) s.sol.telem,
    telemPos := (s.sol.telemPos + 1) % 64, telemAt := some s.now, acc := [] } } := rfl

/-- Settles O38: the cell that crosses (`State.cellTime_of_one`, `State.moveCell_of_one`), what the code of a cell finds
(`State.cellError_of_corrected`, `State.cellError_of_lost`), and the samples (`tfind_foldl_tset_of_mem`). -/
theorem cellTimesAndTelemetry : Obligations.CellTimesAndTelemetry := by
  refine ⟨fun s q o hon hqueues hmc houts ho hinp hcells hpassed hcredit hoffers hfresh => ?_,
    fun s k c hon hqueues hcell => ?_, fun s k c hon hqueues hcell hframe hfew => ?_, fun s hdone => ?_,
    fun s hon hnow hdue => ?_⟩
  · have hnone : passedTo q o = 0 := by rw [passedTo, hpassed]; rfl
    have havail := State.credit_of_offers ho hoffers
    have hmark := State.markCredit_eq_self hqueues hmc houts ho
      (by rw [if_neg fun h => Nat.ne_of_gt havail h.2, hcredit])
    obtain ⟨gptr, aptr, acc, hcell⟩ :=
      State.cellTime_of_one hqueues hmc houts (by omega) hinp (by omega) (by omega) hmark hoffers
    have hexec := exec_cellTimeMatch (ecc := []) hon
    rw [List.foldl_nil, hcell] at hexec
    obtain ⟨hbody, hother, honly⟩ := State.moveCell_spec
      (s := { s with sol := { s.sol with gptr := gptr, aptr := aptr, acc := acc } }) hqueues houts ho (by omega) hfresh
    generalize State.moveCell _ q o = t at *
    refine ⟨t, hexec, ?_, ?_, hother, ?_⟩
    · rw [honly]
    · refine hbody.trans (congrArg (fun e => _ ++ [e]) ?_)
      rw [State.lastCell, State.asSent_of_unicast _ _ hmc, hnone]
      rfl
    · rw [honly]
  · have hexec := exec_cellTimeMatch (ecc := [(k, false)]) hon
    rw [List.foldl_cons, List.foldl_nil, State.cellError_of_corrected hcell, State.cellTime_of_empty] at hexec
    · refine ⟨_, hexec, ?_, rfl⟩
      exact (State.cntAt_record _ _ _ _ _ _ (by decide)).trans (State.cntAt_bump_self ..)
    · rw [State.record_only, State.bump_only]
      exact hqueues
  · obtain ⟨ues, hmem, herror⟩ := State.cellError_of_lost hcell hframe hfew
    have hexec := exec_cellTimeMatch (ecc := [(k, true)]) hon
    rw [List.foldl_cons, List.foldl_nil, herror, State.cellTime_of_empty] at hexec
    · refine ⟨_, hexec, hmem, ?_⟩
      rw [State.record_classC_only]
    · exact hqueues
  · change due _ s _ = _
    rw [due, hdone]
    simp
  · have hexec : exec .telemetrySample s = .next s.telemetry := due_of_true (by simp [hon, hnow, hdue])
    have hinj (i j : Nat) (h : 64 * i + s.sol.telemPos = 64 * j + s.sol.telemPos) : i = j := by omega
    have hsample (p : Nat) (hp : p < 64) :=
      tfind_foldl_tset_of_mem (v := s.portSample) (t := s.sol.telem) hinj (List.mem_range.mpr hp)
    have hrest (k : Nat) (hk : ∀ p, p < 64 → k ≠ 64 * p + s.sol.telemPos) :=
      tfind_foldl_tset_of_not_mem (v := s.portSample) (t := s.sol.telem) fun p hp => hk p (List.mem_range.mp hp)
    rw [State.telemetry_eq] at hexec
    generalize List.foldl _ s.sol.telem (List.range 64) = telem at *
    exact ⟨_, hexec, hsample, hrest, rfl⟩

end Sys2Proof.Machine

/-! Flows (06 R167 to R172, Table 6.9): the messages that move an entry, the timers that end it, and a gap that runs out. -/

namespace Sys2Proof.Machine

/-! ### Flow messages (06 R170, Table 6.9) -/

section
variable {s : State} {p : BitVec 6} {m : FlowMsg} (hon : s.on = true)
include hon

/-- A flow message for another Fixus goes on toward it. -/
theorem exec_flowMsg_of_other (hother : m.target.toNat ≠ s.addr) :
    exec (.flowGrant p m) s = .next (s.sendCtlTo m.target.toNat (.flowGrant m)) ∧
    exec (.flowDeny p m) s = .next (s.sendCtlTo m.target.toNat (.flowDeny m)) ∧
    exec (.flowClose p m) s = .next (s.sendCtlTo m.target.toNat (.flowClose m)) ∧
    exec (.flowCloseAck p m) s = .next (s.sendCtlTo m.target.toNat (.flowCloseAck m)) := by
  have hfor (wrap : FlowMsg → CtlMsg) (mine : State) : s.flowFor m wrap mine = s.sendCtlTo m.target.toNat (wrap m) :=
    if_neg hother
  have hdone (wrap : FlowMsg → CtlMsg) (mine : State) :
      due s.on s (s.flowFor m wrap mine) = .next (s.sendCtlTo m.target.toNat (wrap m)) := by rw [due_of_true hon, hfor]
  exact ⟨hdone .., hdone .., hdone .., hdone ..⟩

variable (hmine : m.target.toNat = s.addr)
include hmine

theorem due_flowFor_of_mine (wrap : FlowMsg → CtlMsg) (mine : State) :
    due s.on s (s.flowFor m wrap mine) = .next mine := by
  rw [due_of_true hon, State.flowFor, if_pos hmine]

variable {k : Nat} {e : Flow}

theorem exec_flowGrant_of_open (hflow : s.msgFlow false m = some (k, e)) (hst : e.st = .sOpen) :
    exec (.flowGrant p m) s = .next (s.setFlow k { e with st := .sSpray, last := s.clk }) := by
  refine (due_flowFor_of_mine hon hmine ..).trans ?_
  simp only [hflow, if_pos hst]

theorem exec_flowDeny_of_open (hflow : s.msgFlow false m = some (k, e)) (hst : e.st = .sOpen) :
    exec (.flowDeny p m) s = .next (s.setFlow k { e with st := .sSingle, last := s.clk }) := by
  refine (due_flowFor_of_mine hon hmine ..).trans ?_
  simp only [hflow, if_pos hst]

theorem exec_flowCloseAck_of_closing (hflow : s.msgFlow false m = some (k, e)) (hst : e.st = .sClosing)
    (hwaiting : e.waiting = []) : exec (.flowCloseAck p m) s = .next (s.delFlow k) := by
  refine (due_flowFor_of_mine hon hmine ..).trans ?_
  simp only [hflow, if_pos hst, hwaiting, List.foldl_nil]

theorem exec_flowClose_of_recv (hflow : s.msgFlow true m = some (k, e)) :
    exec (.flowClose p m) s = .next ((s.setFlow k { e with close := some m.last.toNat }).flowTryClose k) := by
  refine (due_flowFor_of_mine hon hmine ..).trans ?_
  simp only [hflow]

end

/-! ### A receive entry that closes (06 R172, Table 6.9) -/

theorem State.tfind_setFlow (s : State) (k j : Nat) (e : Flow) :
    tfind (s.setFlow k e).sol.flows j = if k = j then some e else tfind s.sol.flows j := tfind_tset

/-- An entry that still holds frames stays. -/
theorem State.flowTryClose_of_held {s : State} {k : Nat} {e : Flow} (hflow : tfind s.sol.flows k = some e)
    (hheld : e.held ≠ []) : s.flowTryClose k = s := by
  unfold State.flowTryClose
  simp only [hflow]
  split
  · rfl
  · exact if_neg (by simp [hheld])

/-- An entry whose close has not come stays. -/
theorem State.flowTryClose_of_open {s : State} {k : Nat} {e : Flow} (hflow : tfind s.sol.flows k = some e)
    (hclose : e.close = none) : s.flowTryClose k = s := by
  unfold State.flowTryClose
  simp only [hflow, hclose]

/-- One whose frames up to the last are delivered is freed, and acknowledges the close. -/
theorem State.flowTryClose_of_done {s : State} {k last : Nat} {e : Flow} (hflow : tfind s.sol.flows k = some e)
    (hclose : e.close = some last) (hheld : e.held = []) (hlast : last < 65536) (hnum : e.num = (last + 1) % 65536) :
    s.flowTryClose k = (s.delFlow k).sendCtlTo (homeOf e.src) (.flowCloseAck (flowMsg s (homeOf e.src) e 0)) := by
  have hdone : 32768 ≤ (last + 65536 - e.num) % 65536 := by omega
  unfold State.flowTryClose
  simp only [hflow, hclose]
  exact if_pos (by simp [hheld, hdone])

/-- The flows of this Fixus do not say where a message goes. -/
theorem State.sendCtlTo_flows (s : State) (flows : Tbl Flow) (dest : Nat) (m : CtlMsg) :
    State.sendCtlTo { s with sol := { s.sol with flows := flows } } dest m =
      { s.sendCtlTo dest m with sol := { s.sol with flows := flows } } := by
  have hgroup : State.escGroup { s with sol := { s.sol with flows := flows } } false dest = s.escGroup false dest := rfl
  have hport (ps : List Nat) : State.kth { s with sol := { s.sol with flows := flows } } ps 0 = s.kth ps 0 := rfl
  unfold State.sendCtlTo
  rw [hgroup]
  cases s.escGroup false dest with
  | none => rfl
  | some ps =>
    dsimp only
    rw [hport]
    cases s.kth ps 0 <;> rfl

/-! ### Timers (06 Table 6.9) -/

section
variable {s : State} {k : Nat} {e : Flow} (hon : s.on = true) (hflows : s.sol.flows = [(k, e)])
include hon hflows

theorem exec_flowIdle_of_spray (hlate : e.last + (s.cfgAt (aSld + 0x14)).toNat ≤ s.clk) (hst : e.st = .sSpray) :
    exec .flowIdle s = .next (State.sendCtlTo (s.setFlow k { e with st := .sClosing }) (homeOf e.dest)
      (.flowClose (flowMsg s (homeOf e.dest) e ((e.num + 65535) % 65536)))) := by
  refine (due_of_true hon).trans ?_
  simp only [hflows, List.foldl_cons, List.foldl_nil, if_neg (Nat.not_lt.mpr hlate), hst]

theorem exec_flowIdle_of_single (hlate : e.last + (s.cfgAt (aSld + 0x14)).toNat ≤ s.clk) (hst : e.st = .sSingle) :
    exec .flowIdle s = .next (s.delFlow k) := by
  refine (due_of_true hon).trans ?_
  simp only [hflows, List.foldl_cons, List.foldl_nil, if_neg (Nat.not_lt.mpr hlate), hst]

theorem exec_receiveFlowTimeout_of_late (hst : e.st = .rOpen) (hclose : e.close = none) (hlate : e.last + 500000 ≤ s.clk)
    (hheld : e.held = []) : exec .receiveFlowTimeout s = .next (s.delFlow k) := by
  refine (due_of_true hon).trans ?_
  simp [hflows, hst, hclose, hlate, hheld]

theorem exec_gapExpiry_of_late {t0 : Nat} (hgap : e.gap = some t0)
    (hlate : t0 + (s.cfgAt (aSld + 0x18)).toNat ≤ s.clk) (hheld : e.held ≠ []) :
    exec .gapExpiry s = .next (s.gapExpire k e) := by
  refine (due_of_true hon).trans ?_
  simp [hflows, hgap, hlate, hheld]

end

/-! ### A gap that runs out (06 R171) -/

theorem State.queueEnt_spec (s : State) (q : QEnt) :
    ({ q with since := s.sol.arrivals } ∈ (s.queueEnt q).sol.queues ∨
      { q with since := s.sol.arrivals } ∈ (s.queueEnt q).sol.descWait) ∧
    s.queueEnt q = { s with sol := { s.sol with
      queues := (s.queueEnt q).sol.queues, descWait := (s.queueEnt q).sol.descWait, arrivals := s.sol.arrivals + 1 } } := by
  unfold State.queueEnt
  dsimp only
  split
  · exact ⟨.inr (List.mem_append_right _ List.mem_cons_self), rfl⟩
  · exact ⟨.inl (List.mem_append_right _ List.mem_cons_self), rfl⟩

/-- A frame for another Fixus or an accelerator leaves the resequencer for a queue. -/
theorem State.flowDeliver_spec {s : State} {p id : Nat} {f : Frame} (hother : f.hdr.dest.toNat ≠ s.addr) :
    (∃ q, q.frame = f ∧ q.id = id ∧
      (q ∈ (s.flowDeliver p id f).sol.queues ∨ q ∈ (s.flowDeliver p id f).sol.descWait)) ∧
    s.flowDeliver p id f = { s with sol := { s.sol with
      queues := (s.flowDeliver p id f).sol.queues, descWait := (s.flowDeliver p id f).sol.descWait,
      arrivals := s.sol.arrivals + 1 } } := by
  unfold State.flowDeliver
  rw [if_neg hother]
  unfold State.putFrame
  obtain ⟨hmem, honly⟩ := s.queueEnt_spec _
  exact ⟨⟨_, rfl, rfl, hmem⟩, honly⟩

theorem State.setFlow_setFlow (s : State) (k : Nat) (e e' : Flow) : (s.setFlow k e).setFlow k e' = s.setFlow k e' := by
  simp only [State.setFlow, tset_tset_self]

/-- The one frame that is held is delivered once it is expected. -/
theorem State.flowRelease_of_one {s : State} {k n id : Nat} {e : Flow} {f : Frame} (hheld : e.held = [(f, id)])
    (hnum : f.hdr.flowSeq.toNat = e.num) : s.flowRelease k (n + 2) e =
      (s.flowDeliver (s.inpOf id) id f).setFlow k { e with num := (e.num + 1) % 65536, held := [], gap := none } := by
  simp only [State.flowRelease, hheld, hnum, List.find?_cons, beq_self_eq_true, List.erase_cons_head, List.find?_nil,
    List.isEmpty_nil, if_true]

/-- An error moves FAULT_N and no strap. -/
theorem State.addr_record (s : State) (cls dk di src info : Nat) : (s.record cls dk di src info).addr = s.addr := by
  have hpulse (t : State) : t.pulse.addr = t.addr := by
    unfold State.pulse
    split <;> rfl
  unfold State.record
  split
  · dsimp only
    split
    · exact hpulse _
    · rfl
  · dsimp only
    split
    all_goals
      split
      · split <;> rfl
      · split
        · exact hpulse _
        · rfl

/-- Numbers of a flow skipped, and an error of class D taken in its context. -/
def State.skipGap (s : State) (e : Flow) (n : Nat) : State :=
  (s.bump (aSld + 0x2C) n).record 1 1 e.ctx 0x0304 (65536 * e.dest)

theorem State.skipGap_only (s : State) (e : Flow) (n : Nat) : s.skipGap e n = { s with
    cnt := (s.skipGap e n).cnt, flt := (s.skipGap e n).flt, pins := (s.skipGap e n).pins } := by
  unfold State.skipGap
  exact (State.record_only ..).trans (by rw [State.bump_only])

theorem State.cntAt_skipGap (s : State) (e : Flow) (n : Nat) :
    (s.skipGap e n).cntAt (aSld + 0x2C) = s.cntAt (aSld + 0x2C) + n :=
  (State.cntAt_record _ _ _ _ _ _ (by decide)).trans (State.cntAt_bump_self ..)

theorem State.addr_skipGap (s : State) (e : Flow) (n : Nat) : (s.skipGap e n).addr = s.addr :=
  (State.addr_record ..).trans (by rw [State.bump_only]; rfl)

/-- With one frame behind the gap, the missing numbers are skipped, and the frame goes on. -/
theorem State.gapExpire_of_one {s : State} {k id n : Nat} {e : Flow} {f : Frame} (hheld : e.held = [(f, id)])
    (hclose : e.close = none) (hnum : e.num < 65536) (hn : n = (f.hdr.flowSeq.toNat + 65536 - e.num) % 65536) :
    s.gapExpire k e = ((s.skipGap e n).flowDeliver ((s.skipGap e n).inpOf id) id f).setFlow k
      { e with num := (f.hdr.flowSeq.toNat + 1) % 65536, held := [], gap := none } := by
  have hseq : f.hdr.flowSeq.toNat < 65536 := f.hdr.flowSeq.isLt
  have hmin : min 65535 n = n := Nat.min_eq_right (by omega)
  have hnext : (e.num + n) % 65536 = f.hdr.flowSeq.toNat := by omega
  unfold State.gapExpire
  simp only [hheld, List.map_cons, List.map_nil, List.foldl_cons, List.foldl_nil, ← hn, hmin, hnext, List.length_singleton]
  generalize hskip : State.record _ 1 1 e.ctx 0x0304 _ = u
  obtain rfl : s.skipGap e n = u := hskip
  rw [State.flowRelease_of_one (n := 0) rfl rfl]
  simp only [State.tfind_setFlow, if_true, List.isEmpty_nil, State.setFlow_setFlow]
  exact State.flowTryClose_of_open ((State.tfind_setFlow ..).trans (if_pos rfl)) hclose

/-- Settles O39: messages (`exec_flowMsg_of_other` to `exec_flowClose_of_recv`), the close of a receive entry
(`State.flowTryClose_of_done`), timers (`exec_flowIdle_of_spray` to `exec_gapExpiry_of_late`), and a gap
(`State.gapExpire_of_one`). -/
theorem flowCommands : Obligations.FlowCommands := by
  refine ⟨fun s p m hon hother => exec_flowMsg_of_other hon hother, fun s p m k e hon hmine hflow => ⟨fun hst => ?_,
      fun hst hwaiting => exec_flowCloseAck_of_closing hon hmine hflow hst hwaiting⟩,
    fun s p m k e hon hmine hflow => ⟨fun hheld hnum => ?_, fun hheld => ?_⟩,
    fun s k e hon hflows hlate => ⟨exec_flowIdle_of_spray hon hflows hlate, exec_flowIdle_of_single hon hflows hlate⟩,
    fun s k e hon hflows hst hclose hlate hheld => exec_receiveFlowTimeout_of_late hon hflows hst hclose hlate hheld,
    fun s k id t0 n e f hon hflows hgap hlate hheld hclose hnum hother hn => ?_⟩
  · exact ⟨exec_flowGrant_of_open hon hmine hflow hst, exec_flowDeny_of_open hon hmine hflow hst⟩
  · have hset : tfind (s.setFlow k { e with close := some m.last.toNat }).sol.flows k =
        some { e with close := some m.last.toNat } := (State.tfind_setFlow ..).trans (if_pos rfl)
    have hexec := exec_flowClose_of_recv (p := p) hon hmine hflow
    rw [State.flowTryClose_of_done hset rfl hheld m.last.isLt hnum] at hexec
    have hsend := s.sendCtlTo_flows (tdel (tset s.sol.flows k { e with close := some m.last.toNat }) k) (homeOf e.src)
      (.flowCloseAck (flowMsg s (homeOf e.src) e 0))
    refine ⟨_, hexec.trans (congrArg _ hsend), tfind_tdel.trans (if_pos rfl), fun j hj => ?_, rfl, ?_⟩
    · exact tfind_tdel.trans ((if_neg hj.symm).trans (tfind_tset.trans (if_neg hj.symm)))
    · rw [State.sendCtlTo_only]
  · have hset : tfind (s.setFlow k { e with close := some m.last.toNat }).sol.flows k =
        some { e with close := some m.last.toNat } := (State.tfind_setFlow ..).trans (if_pos rfl)
    rw [exec_flowClose_of_recv hon hmine hflow, State.flowTryClose_of_held hset hheld]
  · have hexec := exec_gapExpiry_of_late hon hflows hgap hlate (by simp [hheld])
    rw [State.gapExpire_of_one hheld hclose hnum hn] at hexec
    have hskip := s.skipGap_only e n
    have hcount := s.cntAt_skipGap e n
    have haddr := s.addr_skipGap e n
    generalize s.skipGap e n = u at *
    obtain ⟨⟨q, hframe, hid, hmem⟩, honly⟩ := State.flowDeliver_spec (s := u) (p := u.inpOf id) (id := id)
      (f := f) (by rw [haddr]; exact hother)
    generalize u.flowDeliver (u.inpOf id) id f = d at *
    refine ⟨_, hexec, (State.tfind_setFlow ..).trans (if_pos rfl), ?_, ⟨q, hframe, hid, hmem⟩, ?_⟩
    · rw [← hcount, honly]
      rfl
    · rw [honly, hskip]
      rfl

end Sys2Proof.Machine

/-! Writes of the scheduler's registers (07 R191 to R197, 13 R370): what a write of one of them leaves, and the weights, the
shapers and the policers as written. -/

namespace Sys2Proof.Machine

/-! ### A write of one scheduler register -/

/-- A register that holds its value in `State.cfg` stands. -/
theorem State.regVal_isSome_of_cfgMask {s : State} {w : Who} {a : Nat} {m : Nat × Nat} (hmask : cfgMask a = some m) :
    (s.regVal w a).isSome = true := by
  unfold State.regVal
  simp only [hmask]
  repeat' split
  all_goals rfl

/-- The addresses of SCH are those of one register each. -/
theorem State.plainAddr_sch (s : State) {a : Nat} (hlow : aSch ≤ a) (hhigh : a < 0x400000) (hword : a % 4 = 0) :
    s.plainAddr a := by
  unfold aSch at hlow
  refine ⟨hword, by omega, ?_, ?_, ?_⟩
  · simp only [aliasOf, Bool.and_eq_true, decide_eq_true_eq]
    rw [if_neg (by omega)]
  · simp only [State.window, Bool.and_eq_true, decide_eq_true_eq]
    rw [if_neg (by omega), if_neg (by omega), if_neg (by omega), if_neg (by omega), if_neg (by omega)]
  · simp only [canon, Bool.and_eq_true, decide_eq_true_eq]
    rw [if_neg (by omega), if_neg (by omega), if_neg (by omega)]

theorem wordsAt_eq_false_iff {lo n a : Nat} : wordsAt lo n a = false ↔ a < lo ∨ lo + 4 * n ≤ a := by
  simp only [wordsAt, Bool.and_eq_false_iff, decide_eq_false_iff_not, not_le, not_lt]

/-- No value of a scheduler register is refused or ignored, and none moves the reserves of SLD_CELL. -/
theorem sch_takes_any_value {a : Nat} (v : Nat) (hlow : aSch ≤ a) (hhigh : a < 0x400000) :
    refusedValue a v = false ∧ ignoredValue a v = false ∧ touchesReserves a = false := by
  unfold aSch at hlow
  simp only [refusedValue, ignoredValue, touchesReserves, wordsAt_eq_false_iff, aSld, aStl, Bool.or_eq_false_iff,
    Bool.and_eq_false_iff, decide_eq_false_iff_not, beq_eq_false_iff_ne]
  omega

/-- A register of SCH whose fields are all RW takes the value written, adjusted, whether the key is open or not. -/
theorem State.writeWord_sch {s : State} {w : Who} {key : Bool} {a v rw_ : Nat} (hparity : s.sys.parityBad = [])
    (hlow : aSch ≤ a) (hhigh : a < 0x400000) (hmask : cfgMask a = some (rw_, 0)) :
    s.writeWord w key a v =
      some ((s.setCfg a (BitVec.ofNat 32 (s.adjust a (v &&& rw_)))).afterWrite a (s.cfgAt a)) := by
  obtain ⟨hrefused, hignored, -⟩ := sch_takes_any_value v hlow hhigh
  unfold aSch at hlow
  have hval : (s.regVal w a).isNone = false := by
    rw [← Option.not_isSome, State.regVal_isSome_of_cfgMask hmask]
    rfl
  have hcheck : s.parityCheck a = s := by simp [State.parityCheck, hparity]
  have hbad : s.sys.parityBad.filter (· != a) = s.sys.parityBad := by rw [hparity]; rfl
  have hmbx : wordsAt aMbx 4096 a = false := wordsAt_eq_false_iff.mpr (by unfold aMbx; omega)
  unfold State.writeWord
  simp only [hval, hcheck, hbad, hmbx, Bool.false_and, Bool.false_eq_true, if_false, Bool.and_eq_true, decide_eq_true_eq]
  rw [if_neg (by omega), if_neg (by omega), if_neg (by unfold aSec; omega), if_neg (by unfold aMbx; omega), hmask]
  simp [hrefused, hignored, State.unlockFail]

/-- A write of a register of SCH whose fields are all RW (13 R370): the key closes, the register takes the value adjusted, and what
else it does is `afterWrite`. -/
theorem State.writeCmd_sch {s : State} {w : Who} {a rw_ : Nat} {v : Word} (hears : s.hears w) (hlow : aSch ≤ a)
    (hhigh : a < 0x400000) (hword : a % 4 = 0) (hmask : cfgMask a = some (rw_, 0)) :
    s.writeCmd w a v = .next { ((s.closeKey w).setCfg a
      (BitVec.ofNat 32 ((s.closeKey w).adjust a (v.toNat &&& rw_)))).afterWrite a (s.cfgAt a) with bus := ⟨[], false⟩ } := by
  obtain ⟨hreach, hclass, hfirmware, hparity⟩ := hears
  obtain ⟨haligned, hspace, halias, hwindow, hcanon⟩ := s.plainAddr_sch hlow hhigh hword
  obtain ⟨-, -, hreserves⟩ := sch_takes_any_value v.toNat hlow hhigh
  have hwrite := State.writeWord_sch (s := s.closeKey w) (w := w) (key := s.keyOpen w) (v := v.toNat) hparity hlow hhigh hmask
  rw [State.writeCmd, due_of_true hreach]
  simp only [State.busWrite, State.store, State.regWrite, hclass, hfirmware, haligned, Nat.not_le.mpr hspace, halias, hwindow,
    hcanon, hwrite, hreserves, ne_eq, not_true_eq_false, decide_false, Bool.or_self, Bool.false_and, Bool.false_eq_true,
    if_false]
  rfl


/-! ### The registers of a port and of a policer -/

theorem wordsAt_eq_true_iff {lo n a : Nat} : wordsAt lo n a = true ↔ lo ≤ a ∧ a < lo + 4 * n := by
  simp only [wordsAt, Bool.and_eq_true, decide_eq_true_eq]

/-- Where the registers of port `p` stand in SCH, and which of them an address is. -/
theorem aSchPort_spec {p o : Nat} (hp : p < 64) (ho : o < 0x100) :
    aSch ≤ aSchPort p + o ∧ aSchPort p + o < 0x400000 ∧ wordsAt (aSch + 0x10000) 4096 (aSchPort p + o) = true ∧
    (aSchPort p + o) % 0x100 = o ∧ (aSchPort p + o - aSch - 0x10000) / 0x100 = p := by
  simp only [wordsAt_eq_true_iff, aSchPort, aSch]
  omega

/-- Where the registers of policer `i` stand in SCH, and which of them an address is. -/
theorem aPol_spec {i o : Nat} (hi : i < 4096) (ho : o < 0x40) :
    aSch ≤ aPol i + o ∧ aPol i + o < 0x400000 ∧ wordsAt (aSch + 0x10000) 4096 (aPol i + o) = false ∧
    wordsAt (aSch + 0x40000) 65536 (aPol i + o) = true ∧ (aPol i + o) % 0x40 = o ∧
    (aPol i + o - aSch - 0x40000) / 0x40 = i := by
  simp only [wordsAt_eq_true_iff, wordsAt_eq_false_iff, aPol, aSch]
  omega

/-- The registers of SCH from the ports' on come after every block that `cfgMask` names before them. -/
theorem cfgMask_sch {a : Nat} (hlow : aSch + 0x10000 ≤ a) (hhigh : a < 0x400000) : cfgMask a =
    if wordsAt (aSch + 0x10000) 4096 a then
      if a % 0x100 = 0x20 then some (0xFFFFFFFF, 0) else if a % 0x100 = 0x24 then some (0xFF03, 0)
      else if wordsAt 0x40 4 (a % 0x100) then some (0xC000FFFF, 0)
      else if wordsAt 0x50 4 (a % 0x100) then some (0xFFFFFFFF, 0) else none
    else if wordsAt (aSch + 0x40000) 65536 a then
      if a % 0x40 = 0 then some (0xF8000000, 0) else if a % 0x40 = 4 ∨ a % 0x40 = 8 then some (0xFFFF, 0)
      else if a % 0x40 = 0xC ∨ a % 0x40 = 0x10 then some (0xFFFFFF, 0) else none
    else none := by
  unfold aSch at hlow
  have hword {n b : Nat} (hb : b + 4 * n ≤ 0x210000) : wordsAt b n a = false := wordsAt_eq_false_iff.mpr (by omega)
  have hne {b : Nat} (hb : b < 0x210000) : ¬ a = b := by omega
  unfold cfgMask
  simp (disch := decide) only [if_pos hhigh, hword, hne, decide_false, Bool.or_self, Bool.false_eq_true, if_false,
    Bool.or_eq_true, decide_eq_true_eq]

/-- What a port's register takes: weights at least 1, and no shaper of RATE 0 enabled. -/
theorem State.adjust_schPort (s : State) {p o : Nat} (v : Nat) (hp : p < 64) (ho : o < 0x100) :
    s.adjust (aSchPort p + o) v =
      if o = 0x20 then fixWeights v else if wordsAt 0x40 4 o && v % 65536 = 0 then v % 2 ^ 31 else v := by
  obtain ⟨hlow, -, hport, hoffset, -⟩ := aSchPort_spec hp ho
  unfold aSch at hlow
  unfold State.adjust aFlt
  simp only [hport, hoffset, if_true]
  rw [if_neg (by omega), if_neg (by omega)]

/-- A write of a shaper's register restarts it; one of the weights does nothing more. -/
theorem State.afterWrite_schPort (s : State) {p o : Nat} (old : Word) (hp : p < 64) (ho : o < 0x100) :
    s.afterWrite (aSchPort p + o) old =
      if wordsAt 0x40 4 o || wordsAt 0x50 4 o then s.resetShaper p (o / 4 % 4) else s := by
  obtain ⟨hlow, hhigh, hport, hoffset, hindex⟩ := aSchPort_spec hp ho
  unfold aSch at hlow
  have hsys : wordsAt 0x100 16 (aSchPort p + o) = false := wordsAt_eq_false_iff.mpr (by omega)
  unfold State.afterWrite aFlt aStl
  simp only [hsys, hport, hoffset, hindex, Bool.false_eq_true, if_false, if_true]
  rw [if_neg (by omega), if_neg (by omega), if_neg (by omega), if_neg (by omega)]

/-- A write of a policer's register fills its buckets. -/
theorem State.afterWrite_pol (s : State) {i o : Nat} (old : Word) (hi : i < 4096) (ho : o < 0x40) :
    s.afterWrite (aPol i + o) old = s.fillPolicer i := by
  obtain ⟨hlow, hhigh, hport, hpol, -, hindex⟩ := aPol_spec hi ho
  unfold aSch at hlow
  have hsys : wordsAt 0x100 16 (aPol i + o) = false := wordsAt_eq_false_iff.mpr (by omega)
  unfold State.afterWrite aFlt aStl
  simp only [hsys, hport, hpol, hindex, Bool.false_eq_true, if_false, if_true]
  rw [if_neg (by omega), if_neg (by omega), if_neg (by omega), if_neg (by omega)]


/-! ### Weights (07 R191) -/

/-- The weight of channel VC10 + `i` that is taken for SCH_WFQ_WEIGHT written `v`. -/
def weightTaken (v i : Nat) : Nat := max 1 (bits v (8 * i + 7) (8 * i))

theorem weightTaken_lt (v i : Nat) : weightTaken v i < 256 := by
  have hwidth : 8 * i + 7 + 1 - 8 * i = 8 := by omega
  unfold weightTaken bits
  rw [hwidth]
  omega

theorem fixWeights_eq (v : Nat) : fixWeights v =
    weightTaken v 0 + 256 * weightTaken v 1 + 65536 * weightTaken v 2 + 16777216 * weightTaken v 3 := by
  simp [fixWeights, weightTaken, List.range_succ]

theorem fixWeights_lt (v : Nat) : fixWeights v < 2 ^ 32 := by
  have h0 := weightTaken_lt v 0
  have h1 := weightTaken_lt v 1
  have h2 := weightTaken_lt v 2
  have h3 := weightTaken_lt v 3
  rw [fixWeights_eq]
  omega

/-- Each byte of the weights as taken is the weight of its channel. -/
theorem bits_fixWeights {v i : Nat} (hi : i < 4) : bits (fixWeights v) (8 * i + 7) (8 * i) = weightTaken v i := by
  have h0 := weightTaken_lt v 0
  have h1 := weightTaken_lt v 1
  have h2 := weightTaken_lt v 2
  have h3 := weightTaken_lt v 3
  rw [fixWeights_eq, bits]
  interval_cases i <;> omega

theorem and_allOnes (v : Word) : v.toNat &&& 0xFFFFFFFF = v.toNat :=
  (Nat.and_two_pow_sub_one_eq_mod v.toNat 32).trans (Nat.mod_eq_of_lt v.isLt)

/-- SCH_WFQ_WEIGHT written: the register alone changes, and the key closes. -/
theorem exec_weightWrite {s : State} {w : Who} {p : BitVec 6} {v : Word} (hears : s.hears w) :
    exec (.weightWrite w p v) s = .next { (s.closeKey w).setCfg (aSchPort p.toNat + 0x20)
      (BitVec.ofNat 32 (fixWeights v.toNat)) with bus := ⟨[], false⟩ } := by
  have hp : p.toNat < 64 := p.isLt
  obtain ⟨hlow, hhigh, hport, hoffset, -⟩ := aSchPort_spec (o := 0x20) hp (by decide)
  have hmask : cfgMask (aSchPort p.toNat + 0x20) = some (0xFFFFFFFF, 0) := by
    rw [cfgMask_sch (wordsAt_eq_true_iff.mp hport).1 hhigh, if_pos hport, hoffset, if_pos rfl]
  refine (State.writeCmd_sch hears hlow hhigh (by omega) hmask).trans ?_
  rw [and_allOnes, State.adjust_schPort _ _ hp (by decide), if_pos rfl, State.afterWrite_schPort _ _ hp (by decide),
    if_neg (by decide)]

/-! ### Shapers (07 R193) -/

/-- What a register of a shaper takes for the word written: SCH_SHAPER_LIMIT as it stands; SCH_SHAPER_CFG without its reserved bits,
and with RATE 0 not enabled. -/
def shaperTaken (limit : Bool) (v : Nat) : Nat :=
  if limit then v else if v % 65536 = 0 then (v &&& 0xC000FFFF) % 2 ^ 31 else v &&& 0xC000FFFF

theorem shaperTaken_lt {limit : Bool} {v : Nat} (hv : v < 2 ^ 32) : shaperTaken limit v < 2 ^ 32 := by
  have hand : v &&& 0xC000FFFF ≤ v := Nat.and_le_left
  unfold shaperTaken
  split
  · exact hv
  · split <;> omega

/-- RATE is not among the reserved bits. -/
theorem rate_and_shaperCfg (v : Nat) : (v &&& 0xC000FFFF) % 65536 = v % 65536 := by
  have h := Nat.and_mod_two_pow (a := v) (b := 0xC000FFFF) (n := 16)
  have hmask : 0xC000FFFF % 2 ^ 16 = 2 ^ 16 - 1 := by decide
  rw [hmask, Nat.and_two_pow_sub_one_eq_mod, Nat.mod_mod] at h
  exact h

/-- The offset of a shaper's register among those of its port. -/
def shaperOff (limit : Bool) (k : Nat) : Nat := (if limit then 0x50 else 0x40) + 4 * k

theorem shaperOff_spec (limit : Bool) {k : Nat} (hk : k < 4) :
    shaperOff limit k < 0x100 ∧ shaperOff limit k ≠ 0x20 ∧ shaperOff limit k ≠ 0x24 ∧ shaperOff limit k / 4 % 4 = k ∧
    wordsAt 0x40 4 (shaperOff limit k) = !limit ∧ wordsAt 0x50 4 (shaperOff limit k) = limit := by
  cases limit <;> simp [shaperOff, wordsAt] <;> omega

/-- The register of shaper `k` of port `p` that is written. -/
def shaperReg (limit : Bool) (p k : Nat) : Nat := aSchPort p + shaperOff limit k

theorem shaperReg_eq (limit : Bool) (p k : Nat) : (if limit then aShaperLim p k else aShaper p k) = shaperReg limit p k := by
  cases limit <;> exact Nat.add_assoc ..

theorem cfgMask_shaperReg (limit : Bool) {p k : Nat} (hp : p < 64) (hk : k < 4) :
    cfgMask (shaperReg limit p k) = some (if limit then 0xFFFFFFFF else 0xC000FFFF, 0) := by
  obtain ⟨ho, hweight, hsel, -, hcfg, hlimit⟩ := shaperOff_spec limit hk
  obtain ⟨-, hhigh, hport, hoffset, -⟩ := aSchPort_spec hp ho
  rw [shaperReg, cfgMask_sch (wordsAt_eq_true_iff.mp hport).1 hhigh, if_pos hport, hoffset, if_neg hweight, if_neg hsel, hcfg,
    hlimit]
  cases limit <;> rfl

theorem State.adjust_shaperReg (s : State) (limit : Bool) {p k : Nat} (v : Word) (hp : p < 64) (hk : k < 4) :
    s.adjust (shaperReg limit p k) (v.toNat &&& if limit then 0xFFFFFFFF else 0xC000FFFF) = shaperTaken limit v.toNat := by
  obtain ⟨ho, hweight, -, -, hcfg, -⟩ := shaperOff_spec limit hk
  rw [shaperReg, State.adjust_schPort _ _ hp ho, if_neg hweight, hcfg]
  cases limit with
  | true => exact and_allOnes v
  | false => simp [shaperTaken, rate_and_shaperCfg]

/-- A shaper's register written: it takes its value, the shaper restarts, and the key closes. -/
theorem exec_shaperWrite {s : State} {w : Who} {p : BitVec 6} {k : BitVec 2} {limit : Bool} {v : Word} (hears : s.hears w) :
    exec (.shaperWrite w p k limit v) s = .next { ((s.closeKey w).setCfg (shaperReg limit p.toNat k.toNat)
      (BitVec.ofNat 32 (shaperTaken limit v.toNat))).resetShaper p.toNat k.toNat with bus := ⟨[], false⟩ } := by
  have hp : p.toNat < 64 := p.isLt
  have hk : k.toNat < 4 := k.isLt
  obtain ⟨ho, -, -, hindex, hcfg, hlimit⟩ := shaperOff_spec limit hk
  obtain ⟨hlow, hhigh, -, hoffset, -⟩ := aSchPort_spec hp ho
  have hword : shaperReg limit p.toNat k.toNat % 4 = 0 := by
    unfold shaperReg shaperOff aSchPort aSch
    split <;> omega
  have hafter (t : State) (old : Word) :
      t.afterWrite (shaperReg limit p.toNat k.toNat) old = t.resetShaper p.toNat k.toNat := by
    rw [shaperReg, State.afterWrite_schPort _ _ hp ho, hcfg, hlimit, Bool.not_or_self, if_pos rfl, hindex]
  change s.writeCmd w (if limit then aShaperLim p.toNat k.toNat else aShaper p.toNat k.toNat) v = _
  rw [shaperReg_eq, State.writeCmd_sch (a := shaperReg limit p.toNat k.toNat) hears hlow hhigh hword
    (cfgMask_shaperReg limit hp hk), State.adjust_shaperReg _ _ _ hp hk, hafter]

/-- What a write of a shaper's register leaves (R193): the register and the shaper alone, whose credit restarts by its MODE bit. -/
theorem shaperWrite_spec {s : State} {w : Who} (p : BitVec 6) (k : BitVec 2) (limit : Bool) (v : Word) (hears : s.hears w) :
    ∃ t : State, exec (.shaperWrite w p k limit v) s = .next t ∧
      (t.cfgAt (shaperReg limit p.toNat k.toNat)).toNat = shaperTaken limit v.toNat ∧
      t.shaper p.toNat k.toNat =
        ⟨if bit (t.cfgAt (aShaper p.toNat k.toNat)).toNat 30 then (t.shaperHi p.toNat k.toNat : Int) else 0, s.clk,
          (s.shaperNow p.toNat k.toNat).busy⟩ ∧
      (∀ b, b ≠ shaperReg limit p.toNat k.toNat → t.cfgAt b = s.cfgAt b) ∧
      t = { s with cfg := t.cfg, sch := { s.sch with shapers := t.sch.shapers },
                   sys := { s.sys with keys := s.keysLeft w }, bus := ⟨[], false⟩ } := by
  have hcfg (b : Nat) := (s.closeKey w).cfgAt_setCfg (shaperReg limit p.toNat k.toNat) b
    (BitVec.ofNat 32 (shaperTaken limit v.toNat))
  refine ⟨_, exec_shaperWrite hears, ?_, tget_tset.trans (if_pos rfl), fun b hb => (hcfg b).trans (if_neg hb.symm), rfl⟩
  refine (congrArg BitVec.toNat ((hcfg _).trans (if_pos rfl))).trans ?_
  rw [BitVec.toNat_ofNat, Nat.mod_eq_of_lt (shaperTaken_lt v.isLt)]

/-! ### Policers (07 R197) -/

/-- A policer's register written: its buckets are full by the registers as they then stand, and the key closes. -/
theorem exec_policerWrite {s : State} {w : Who} {i : BitVec 12} {r : PolReg} {v : Word} (hears : s.hears w) :
    ∃ x : Word, exec (.policerWrite w i r v) s = .next { ((s.closeKey w).setCfg (aPol i.toNat + polOff r) x).fillPolicer i.toNat
      with bus := ⟨[], false⟩ } := by
  have hi : i.toNat < 4096 := i.isLt
  have ho : polOff r < 0x40 := by cases r <;> decide
  obtain ⟨hlow, hhigh, hport, hpol, hoffset, -⟩ := aPol_spec hi ho
  have hmask : ∃ rw_, cfgMask (aPol i.toNat + polOff r) = some (rw_, 0) := by
    have hfirst : aSch + 0x10000 ≤ aPol i.toNat + polOff r :=
      (Nat.add_le_add_left (by decide) aSch).trans (wordsAt_eq_true_iff.mp hpol).1
    rw [cfgMask_sch hfirst hhigh, hport, if_neg Bool.false_ne_true, if_pos hpol, hoffset]
    cases r <;> exact ⟨_, rfl⟩
  obtain ⟨rw_, hmask⟩ := hmask
  have hword : (aPol i.toNat + polOff r) % 4 = 0 := by
    unfold aPol aSch
    cases r <;> simp only [polOff] <;> omega
  refine ⟨BitVec.ofNat 32 ((s.closeKey w).adjust (aPol i.toNat + polOff r) (v.toNat &&& rw_)), ?_⟩
  change s.writeCmd w (aPol i.toNat + polOff r) v = _
  rw [State.writeCmd_sch hears hlow hhigh hword hmask, State.afterWrite_pol _ _ hi ho]

/-- Settles O15: each write is one equation above (`exec_weightWrite`, `shaperWrite_spec`, `exec_policerWrite`). -/
theorem schedulerRegisterWrites : Obligations.SchedulerRegisterWrites := by
  refine ⟨fun s w p v hears => ?_, fun s w p k limit v a hears ha => ?_, fun s w k r v hears => ?_⟩
  · have hcfg (b : Nat) := (s.closeKey w).cfgAt_setCfg (aSchPort p.toNat + 0x20) b (BitVec.ofNat 32 (fixWeights v.toNat))
    refine ⟨_, exec_weightWrite hears, fun i hi => ?_, fun b hb => (hcfg b).trans (if_neg hb.symm), rfl⟩
    refine (congrArg (fun x => bits (BitVec.toNat x) (8 * i + 7) (8 * i)) ((hcfg _).trans (if_pos rfl))).trans ?_
    rw [BitVec.toNat_ofNat, Nat.mod_eq_of_lt (fixWeights_lt _), bits_fixWeights hi, weightTaken]
  · rw [ha, shaperReg_eq]
    exact shaperWrite_spec p k limit v hears
  · obtain ⟨x, hexec⟩ := exec_policerWrite (i := k) (r := r) (v := v) hears
    exact ⟨_, hexec, tget_tset.trans (if_pos rfl),
      fun a ha => ((s.closeKey w).cfgAt_setCfg _ a x).trans (if_neg ha.symm), rfl⟩

end Sys2Proof.Machine

/-! Resets and the shapers (07 R193; 14 R392, R404): a warm reset leaves no shaper enabled, and the command that resets a context
changes no register. -/

namespace Sys2Proof.Machine

/-! ### What leaves the registers -/

@[simp] theorem State.bump_cfg (s : State) (a n : Nat) : (s.bump a n).cfg = s.cfg := by rw [State.bump_only]

@[simp] theorem State.record_cfg (s : State) (cls dk di src info : Nat) : (s.record cls dk di src info).cfg = s.cfg := by
  rw [State.record_only]

@[simp] theorem State.dropCopy_cfg (s : State) (k : Nat) : (s.dropCopy k).cfg = s.cfg := by rw [State.dropCopy_only]

@[simp] theorem State.freeCells_cfg (s : State) (id : Nat) : (s.freeCells id).cfg = s.cfg := by rw [State.freeCells_only]

@[simp] theorem State.sendLeave_cfg (s : State) (p reason : Nat) : (s.sendLeave p reason).cfg = s.cfg := by
  rw [(s.sendLeave_spec p reason).2.2]

@[simp] theorem State.idlePort_cfg (s : State) (p : Nat) (st : PortState) : (s.idlePort p st).cfg = s.cfg := by
  rw [State.idlePort_only]
  rfl

@[simp] theorem State.dropUnacked_cfg (s : State) (p : Nat) : (s.dropUnacked p).cfg = s.cfg :=
  foldl_apply_eq State.cfg fun t f => by
    split
    · simp [apply_ite State.cfg]
    · rfl

/-- The ports leave the registers when they all go. -/
@[simp] theorem State.leaveAll_cfg (s : State) (reason : Nat) (st : PortState) : (s.leaveAll reason st).cfg = s.cfg := by
  have hfree (t : State) (l : List Asm) :
      (l.foldl (fun t a => if a.eof then t else t.freeCells a.id) t).cfg = t.cfg :=
    foldl_apply_eq State.cfg fun u a => by simp [apply_ite State.cfg]
  refine foldl_apply_eq State.cfg fun t p => ?_
  split
  · simp [hfree]
  · simp [hfree]
  · simp
  · rfl

@[simp] theorem State.crashDump_cfg (s : State) (cause : Nat) : (s.crashDump cause).cfg = s.cfg := rfl

/-- Class X leaves the registers. -/
@[simp] theorem State.enterX_cfg (s : State) (src info : Nat) : (s.enterX src info).cfg = s.cfg := by
  unfold State.enterX
  split
  · rfl
  · simp [State.lanesIdle]

@[simp] theorem State.trialBoot_cfg (s : State) : s.trialBoot.cfg = s.cfg := by
  simp [State.trialBoot, apply_ite State.cfg]

@[simp] theorem State.extend_cfg (s : State) (i : Nat) (d : List Byte) : (s.extend i d).cfg = s.cfg := rfl

@[simp] theorem State.free_cfg (s : State) : s.free.2.cfg = s.cfg := rfl

@[simp] theorem State.runImage_cfg (s : State) (b : Bool) : (s.runImage b).cfg = s.cfg := rfl

@[simp] theorem State.bootImages_cfg (s : State) : s.bootImages.cfg = s.cfg := by
  simp [State.bootImages, apply_ite State.cfg]

/-- The boot leaves the registers, whatever it finds. -/
@[simp] theorem State.boot_cfg (s : State) (b : BootObs) : (s.boot b).cfg = s.cfg := by
  simp [State.boot, apply_ite State.cfg]

/-! ### A warm reset (07 R193, 14 R404) -/

/-- The registers that a warm reset keeps are of FLT, of Solder's pools and of the counter's mode. -/
theorem cfgWarm_keys {t : Tbl Word} {e : Nat × Word} (he : e ∈ cfgWarm t) : e.1 < aSch := by
  obtain ⟨f, hf, rfl⟩ := List.mem_map.mp he
  have hkey := (List.mem_filter.mp hf).2
  simp only [Bool.or_eq_true, Bool.and_eq_true, beq_iff_eq, aFlt, aSld, aIrc] at hkey
  have hfst : (if f.1 = aIrc + 0x18 then (f.1, 1) else f).1 = f.1 := by split <;> rfl
  rw [hfst]
  unfold aSch
  omega

theorem State.unitsReset_cfg (s : State) (cause : Nat) (b : BootObs) : (s.unitsReset cause b).cfg = cfgWarm s.cfg := rfl

/-- A warm reset gives every register of SCH its reset value. -/
theorem State.cfgAt_warm {s : State} {cause a : Nat} {b : BootObs} (hclass : s.sys.classX = false)
    (hpins : s.pins.floating = false) (ha : aSch ≤ a) : (s.warm cause b).cfgAt a = cfgReset a := by
  have hcfg : (s.warm cause b).cfg = cfgWarm s.cfg := by
    simp only [State.warm, hclass, hpins, Bool.or_self, Bool.false_eq_true, if_false]
    rw [State.boot_cfg, State.unitsReset_cfg, State.crashDump_cfg, State.leaveAll_cfg]
  have hnone : tfind (cfgWarm s.cfg) a = none := by
    cases hfind : tfind (cfgWarm s.cfg) a with
    | none => rfl
    | some v => exact absurd (cfgWarm_keys (tfind_mem hfind)) (Nat.not_lt.mpr ha)
  rw [State.cfgAt, hcfg, tget, hnone]
  rfl

theorem State.shaperOn_warm {s : State} {cause p k : Nat} {b : BootObs} (hclass : s.sys.classX = false)
    (hpins : s.pins.floating = false) (hp : p < 64) (hk : k < 4) : (s.warm cause b).shaperOn p k = false := by
  have ha : aSch ≤ aShaper p k := by
    unfold aShaper aSchPort
    omega
  rw [State.shaperOn, State.cfgAt_warm hclass hpins ha]
  exact State.reset_shaperOn hp hk

/-! ### CTX_RESET (14 R392) -/

/-- The registers, and what the scheduler holds. -/
def State.schedView (s : State) : Tbl Word × Sched := (s.cfg, s.sch)

theorem State.complete_schedView (s : State) (c : Cmd) (result detail : Nat) (ret : List Byte) :
    (s.complete c result detail ret).schedView = s.schedView := by
  rw [State.complete_only]
  rfl

/-- A command that is refused, or whose run leaves the scheduler, leaves the scheduler. -/
theorem State.takeEntry_schedView {s : State} {m : BitVec 6} {test : Nat → List Byte → Bool} {run : State → Req → State}
    (hrun : ∀ t r, (run t r).schedView = t.schedView) : (s.takeEntry m test run).schedView = s.schedView := by
  unfold State.takeEntry
  dsimp only
  split
  · rfl
  · split
    · exact State.complete_schedView ..
    · split
      · exact State.complete_schedView ..
      · split
        · exact State.complete_schedView ..
        · exact hrun ..

/-- A stop that begins notes it in its context, and floods. -/
theorem State.beginStop_schedView (s : State) (x : Nat) (teardown escalated : Bool) :
    (s.beginStop x teardown escalated).schedView = s.schedView := by
  have hnote : (s.noteStop x s.now teardown).1.schedView = s.schedView := by
    exact (apply_ite (fun p : State × Bool => p.1.schedView) ..).trans (ite_self _)
  unfold State.beginStop
  dsimp only
  split
  · exact hnote
  · rw [State.flood_only]
    exact hnote

theorem State.runCtxReset_schedView (s : State) (r : Req) : (s.runCtxReset r).schedView = s.schedView := by
  unfold State.runCtxReset
  split
  · exact State.complete_schedView ..
  · exact State.beginStop_schedView ..

/-- Settles O58: a write is `shaperWrite_spec`, a warm reset `State.shaperOn_warm`, and CTX_RESET leaves the scheduler whatever
it finds (`State.runCtxReset_schedView`). -/
theorem shaperCreditAndReset : Obligations.ShaperCreditAndReset := by
  refine ⟨fun s w p k limit v hears => ?_, fun s cause b p k hclass hpins hp hk => State.shaperOn_warm hclass hpins hp hk,
    fun s m => ?_⟩
  · obtain ⟨t, hexec, -, hshaper, -⟩ := shaperWrite_spec p k limit v hears
    refine ⟨t, hexec, ?_, fun hmode => ?_, fun hmode => ?_⟩
    · rw [hshaper]
    · rw [hshaper, if_pos hmode]
    · rw [hshaper, if_neg (Bool.eq_false_iff.mp hmode)]
  · have hview := State.takeEntry_schedView (s := s) (m := m) (test := fun o _ => o == 0x0103) State.runCtxReset_schedView
    exact ⟨_, rfl, congrArg Prod.fst hview, congrArg (fun v => v.2.shapers) hview⟩

end Sys2Proof.Machine

/-! Slot tables by command (07 R186, R187): schedules loaded, epochs armed (04 R101, R102), steps of the counter noted (04 R100),
and the answers of accelerators. -/

namespace Sys2Proof.Machine

/-! ### SCHED_LOAD -/

theorem State.sendMgmt_sch (s : State) (dest msub : Nat) (host : Bool) (mbx tag offset arg : Nat) (bs : List Byte) :
    (s.sendMgmt dest msub host mbx tag offset arg bs).sch = s.sch := by
  rw [State.sendMgmt_only]

/-- A table image on its way to an accelerator leaves the scheduler. -/
theorem State.sendTable_sch (s : State) (a i epoch len : Nat) (t : List Byte) : (s.sendTable a i epoch len t).sch = s.sch :=
  foldl_apply_eq State.sch fun _ _ => State.sendMgmt_sch ..

/-- The images of a schedule sent to the accelerator ports `accs`. -/
def State.sendTables (s : State) (epoch len : Nat) (img : List Byte) (accs : List Nat) : State :=
  accs.foldl (fun s k => s.sendTable (k / 2) (k % 2) epoch len (tblImage img len (64 + k))) s

theorem State.sendTables_sch (s : State) (epoch len : Nat) (img : List Byte) (accs : List Nat) :
    (s.sendTables epoch len img accs).sch = s.sch := foldl_apply_eq State.sch fun _ _ => State.sendTable_sch ..

theorem State.endXfer_sch (s : State) (h : Nat) : (s.endXfer h).sch = s.sch := rfl

theorem State.xfer_endXfer (s : State) (h : Nat) : (s.endXfer h).xfer h = none := tfind_tdel.trans (if_pos rfl)

/-- A load that waits for its accelerators. -/
def State.addLoad (s : State) (l : Load) : State := { s with sch := { s.sch with loading := s.sch.loading ++ [l] } }

/-- SCHED_LOAD of an image of the right length: once every port has loaded its table, the images go to the accelerators present,
and the load waits for them. -/
theorem State.runSchedLoad_of_staged {s t : State} {r : Req} {img : List Byte} {bad : Nat} (hstaged : s.staged (r.h 0) = some img)
    (hlen : img.length = 96 * tblBytes (r.h 4))
    (hload : ({ s.extend 3 (sha256 img) with sch := { (s.extend 3 (sha256 img)).sch with
      loads := (s.extend 3 (sha256 img)).sch.loads + 1 } } : State).loadPorts (r.h 2) (r.h 4) img = (t, bad)) :
    s.runSchedLoad r = (((t.sendTables (r.h 2) (r.h 4) img t.loadAccs).endXfer (r.h 0)).addLoad
      ⟨r.cmd, r.h 2, bad, 0, t.loadAccs⟩).finishLoads := by
  unfold State.runSchedLoad
  simp only [hstaged, hlen, hload, ne_eq, not_true_eq_false, if_false]
  rfl

/-! ### EPOCH_ARM -/

/-- A READY table of the epoch becomes ARMED. -/
def SlotTbl.armFor (epoch : Nat) (t : SlotTbl) : SlotTbl :=
  if t.st == .ready && t.epoch == epoch then { t with st := .armed } else t

theorem SlotTbl.armFor_st_of_ready {t : SlotTbl} {epoch : Nat} (hready : t.st = .ready) (hepoch : t.epoch = epoch) :
    (t.armFor epoch).st = .armed := by
  simp [SlotTbl.armFor, hready, hepoch]

theorem State.slotTbl_mapTbls_of_ready {s : State} {p i : Nat} (f : SlotTbl → SlotTbl) (hready : (s.slotTbl p i).st = .ready) :
    (s.mapTbls f).slotTbl p i = f (s.slotTbl p i) :=
  tget_tmap_of_ne (fun _ => f) (SlotTbl.ne_init_of_ready hready)

/-- An arm noted. -/
def State.addArm (s : State) (a : Arm) : State := { s with sch := { s.sch with arms := s.sch.arms ++ [a] } }

/-- EPOCH_ARM in time, of an epoch with a READY table: its READY tables become ARMED, and the arm is noted. -/
theorem State.runEpochArm_of_ready {s : State} {r : Req} {a : Arm} (hin : s.now + 10000 ≤ r.d 8)
    (ha : a = ⟨r.b 0, r.h 2, r.d 8, false, false, false, false, false, some r.cmd⟩) (hsample : s.now ≤ s.armB a)
    (hready : ∃ e ∈ s.sch.tbls, e.2.st = .ready ∧ e.2.epoch = r.h 2) (hcancel : (r.b 0, r.h 2, r.d 8) ∉ s.sch.cancels) :
    s.runEpochArm r = (s.mapTbls (SlotTbl.armFor (r.h 2))).addArm a := by
  subst ha
  have hany : s.sch.tbls.any (fun e => e.2.st == .ready && e.2.epoch == r.h 2) = true := by
    simpa [List.any_eq_true] using hready
  have hnone : s.sch.cancels.contains (r.b 0, r.h 2, r.d 8) = false := by simpa using hcancel
  unfold State.runEpochArm
  simp only [Nat.not_lt.mpr hin, Nat.not_lt.mpr hsample, hany, hnone, decide_false, Bool.or_self, Bool.not_true,
    Bool.false_eq_true, if_false]
  rfl

/-! ### IRC_STEP -/

/-- IRC_STEP where none waits is noted until its release. -/
theorem State.runIrcStep_of_none {s : State} (r : Req) (hstep : s.sch.step = none) :
    s.runIrcStep r = { s with sch := { s.sch with
      step := some ⟨(BitVec.ofNat 64 (r.d 0)).toInt, r.d 8, false, none, r.cmd⟩ } } := by
  unfold State.runIrcStep
  rw [hstep]
  rfl

/-! ### TABLE_ACK -/

theorem State.dropFrom_sch (s : State) (id k : Nat) : (s.dropFrom id k).sch = s.sch :=
  foldl_apply_eq State.sch fun t i => by rw [State.dropCopy_only]

theorem State.dropFrom_addr (s : State) (id k : Nat) : (s.dropFrom id k).addr = s.addr :=
  foldl_apply_eq State.addr fun t i => by
    rw [State.dropCopy_only]
    rfl

/-- A frame that Brass takes leaves the scheduler and the place of the Fixus. -/
theorem State.takeMgmt_sch_addr {s v : State} {msub : Nat} {m : Mgmt} (h : s.takeMgmt msub m = some v) :
    v.sch = s.sch ∧ v.addr = s.addr := by
  unfold State.takeMgmt at h
  split at h
  · cases h
    exact ⟨rfl, rfl⟩
  · split at h
    · obtain rfl := Option.some.inj h
      exact ⟨State.dropFrom_sch .., State.dropFrom_addr ..⟩
    · cases h

/-- A MGMT frame that Brass takes while its firmware runs and the Fixus is in service does what it is for (14 R389). -/
theorem State.brassFrame_of_taken {s v : State} {msub : Nat} {m : Mgmt} {act : State → State} (hbrass : s.brass = true)
    (hin : s.sys.outOfService = false) (htake : s.takeMgmt msub m = some v) : s.brassFrame msub m act = .next (act v) := by
  unfold State.brassFrame
  rw [htake]
  exact due_of_true (by simp [hbrass, hin])

/-- The one load that waits for no more answers completes, with the ports that refused it. -/
theorem State.finishLoads_of_one {s : State} {l : Load} (hloading : s.sch.loading = [l]) (hwait : l.wait = []) :
    s.finishLoads = State.complete { s with sch := { s.sch with loading := [] } } l.cmd 0 0
      (toLe 8 l.refused ++ toLe 4 l.accRef) := by
  simp [State.finishLoads, hloading, hwait]

/-- What accelerators have answered, and the loads that still wait. -/
def State.setLoads (s : State) (acks : Tbl (List Nat)) (loads : List Load) : State :=
  { s with sch := { s.sch with acks := acks, loading := loads } }

/-- A load with the answer of accelerator port `w`. -/
def Load.answered (l : Load) (w : Nat) (refused : Bool) : Load :=
  { l with wait := l.wait.filter (· != w), accRef := l.accRef + if refused then 2 ^ w else 0 }

/-- TABLE_ACK where the one load that waits is for the accelerator port that sends it: the load has its answer. -/
theorem State.tableAck_of_one {s : State} {f : Mgmt} {l : Load} (hacc : addrIsFixus f.src.toNat = false)
    (hhome : homeOf f.src.toNat = s.addr) (hloading : s.sch.loading = [l]) (hepoch : l.epoch = f.arg.toNat % 65536)
    (hwait : 2 * addrUnit f.src.toNat + b2n (f.arg.getLsbD 30) ∈ l.wait) :
    ∃ acks, s.tableAck f = (s.setLoads acks
      [l.answered (2 * addrUnit f.src.toNat + b2n (f.arg.getLsbD 30)) (f.arg.getLsbD 31)]).finishLoads := by
  have hfrom : (!addrIsFixus f.src.toNat && homeOf f.src.toNat == s.addr) = true := by simp [hacc, hhome]
  have hmine : (decide (l.epoch = f.arg.toNat % 65536) &&
      l.wait.contains (2 * addrUnit f.src.toNat + b2n (f.arg.getLsbD 30))) = true := by
    rw [decide_eq_true hepoch, List.contains_iff_mem.mpr hwait, Bool.and_self]
  refine ⟨tset s.sch.acks (addrUnit f.src.toNat + 16 * b2n (f.arg.getLsbD 30)) (s.acksAfter
    (tget s.sch.acks (addrUnit f.src.toNat + 16 * b2n (f.arg.getLsbD 30)) []) (f.arg.toNat % 65536) (!f.arg.getLsbD 31)), ?_⟩
  unfold State.tableAck
  simp only [hfrom, hloading, List.map_cons, List.map_nil, hmine, if_true, Load.answered]
  cases f.arg.getLsbD 31 <;> rfl

/-- Settles O8: each command runs as its equation above says (`State.runSchedLoad_of_staged`, `State.runEpochArm_of_ready`,
`State.runIrcStep_of_none`, `State.tableAck_of_one`). -/
theorem scheduleCommandsTaken : Obligations.ScheduleCommandsTaken := by
  refine ⟨fun s t v m r img bad hfits hr hstaged hlen hv hload => ?_,
    fun s m r a hfits hr hin ha hsample hready hcancel => ?_, fun s m r hfits hr hstep => ?_,
    fun s v f l hbrass hin htake hacc hhome hloading hepoch hwait => ?_⟩
  · subst hr hv
    have hsch : ((t.sendTables ((s.reqAt m).h 2) ((s.reqAt m).h 4) img t.loadAccs).endXfer ((s.reqAt m).h 0)).sch = t.sch :=
      (State.endXfer_sch ..).trans (State.sendTables_sch ..)
    refine ⟨_, (State.command_fits hfits (by decide)).trans
      (congrArg _ (State.runSchedLoad_of_staged (s := s.taken m) hstaged hlen hload)), State.xfer_endXfer .., ?_, fun p i => ?_⟩
    · exact congrArg (fun x => x.loading ++ _) hsch
    · exact congrArg (fun x => tget x.tbls (2 * p + i) SlotTbl.init) hsch
  · subst hr
    refine ⟨_, (State.command_fits hfits (by decide)).trans
      (congrArg _ (State.runEpochArm_of_ready (s := s.taken m) hin ha hsample hready hcancel)), rfl,
      fun p i _ hst hepoch => ?_, rfl⟩
    have htbl := State.slotTbl_mapTbls_of_ready (s := s.taken m) (SlotTbl.armFor ((s.reqAt m).h 2)) hst
    exact (congrArg SlotTbl.st htbl).trans (SlotTbl.armFor_st_of_ready hst hepoch)
  · subst hr
    exact ⟨_, (State.command_fits hfits (by decide)).trans
      (congrArg _ (State.runIrcStep_of_none (s := s.taken m) (s.reqAt m) hstep)), rfl, rfl, rfl⟩
  · obtain ⟨hsch, haddr⟩ := State.takeMgmt_sch_addr htake
    obtain ⟨acks, hack⟩ := State.tableAck_of_one (s := v) hacc (hhome.trans haddr.symm) (by rw [hsch, hloading]) hepoch
      (by rw [hwait]; exact List.mem_cons_self)
    rw [State.finishLoads_of_one rfl (by simp [Load.answered, hwait])] at hack
    exact ⟨_, (State.brassFrame_of_taken hbrass hin htake).trans (congrArg _ hack), rfl, rfl⟩

end Sys2Proof.Machine

/-! Contexts opened, and collectives posted (08 R202, R208, R209; 04 R91): a context that is held is refused, and a descriptor takes
a slot, waits in the launch queue or is late. -/

namespace Sys2Proof.Machine

/-! ### CTX_OPEN of a context that is held (08 R202) -/

theorem Req.b_lt (r : Req) (i : Nat) : r.b i < 256 := by
  show (r.args.getD (i + 0) 0).toNat + 256 * 0 < 256
  exact (r.args.getD (i + 0) 0).isLt

theorem State.runCtxOpen_of_held {s : State} {r : Req} (hheld : (s.ctx (r.b 0)).st ≠ .free) :
    s.runCtxOpen r = s.refuse r.cmd rNoSlot 0 := by
  unfold State.runCtxOpen
  exact if_pos (bne_iff_ne.mpr hheld)

/-- CTX_OPEN of a context that is not FREE completes with NO_SLOT. -/
theorem exec_ctxOpen_of_held {s : State} {m : BitVec 6} (hfits : s.fits m 0x101) (hheld : (s.ctx ((s.reqAt m).b 0)).st ≠ .free) :
    exec (.ctxOpen m) s = .next ((s.taken m).complete (s.reqAt m).cmd 0x17 0 []) := by
  have hopcode : (s.reqAt m).cmd.opcode = 0x101 := hfits.2.1
  calc exec (.ctxOpen m) s = .next ((s.taken m).runCtxOpen (s.reqAt m)) := State.command_fits hfits (by decide)
    _ = .next ((s.taken m).refuse (s.reqAt m).cmd rNoSlot 0) := congrArg _ (State.runCtxOpen_of_held (s := s.taken m) hheld)
    _ = _ := by rw [State.refuse, hopcode]; rfl

/-- Settles O57: a context has three states, and an open of one that is not FREE is `exec_ctxOpen_of_held`. -/
theorem openOfHeldContextRefused : Obligations.OpenOfHeldContextRefused := by
  refine ⟨fun c => ?_, fun s m r hfits hr hheld => ?_, fun s m r hfits hr hnone => ?_⟩
  · cases c.st <;> simp
  · subst hr
    exact exec_ctxOpen_of_held hfits hheld
  · subst hr
    exact exec_ctxOpen_of_held hfits (hnone _ (Req.b_lt _ 0))

/-! ### Descriptors that are posted (08 R208, R209; 04 R91) -/

theorem State.timeGood_iff {s : State} : s.timeGood = true ↔ s.irc.state = .locked ∨ s.irc.state = .holdover := by
  simp [State.timeGood]

theorem State.raiseTo_only (s : State) (a n : Nat) : s.raiseTo a n = { s with cnt := (s.raiseTo a n).cnt } := by
  unfold State.raiseTo
  split <;> rfl

/-- A post without a fault, of a descriptor that none held equals: it takes a slot, or waits where none is free or others wait. -/
theorem State.runCollPost_of_new {s : State} {r : Req} (hbridge : s.sys.hostbrConflict = false) (htime : s.timeGood = true)
    (hfault : s.descFault (bytesAt r.args 0 128) = none) (hnew : s.heldDesc (bytesAt r.args 0 128) = none) :
    s.runCollPost r = if 4096 ≤ s.slots.length ∨ s.queue ≠ [] then s.enqueue (bytesAt r.args 0 128) r.cmd
      else s.takeSlot (bytesAt r.args 0 128) r.cmd := by
  unfold State.runCollPost
  simp [hbridge, htime, hfault, hnew]

/-- A descriptor waits at the end of the launch queue, for which a buffer of pool 4 has room. -/
theorem State.enqueue_of_room {s : State} {d : List Byte} {c : Cmd} (hroom : s.queue.length < 8192 * s.queueBufs) :
    (s.enqueue d c).queue = s.queue ++ [s.newColl d c (dLaunch d) false] ∧ (s.enqueue d c).slots = s.slots := by
  have hown : s.queueRoom.getD s = s := by rw [State.queueRoom, if_pos hroom]; rfl
  unfold State.enqueue
  dsimp only
  rw [hown, State.raiseTo_only]
  exact ⟨rfl, rfl⟩

/-- The head of the launch queue, neither held nor unscheduled, may take a slot as a descriptor posted now. -/
theorem State.queueTake_of_head {s : State} {c : Coll} (hhead : s.queueHead = some c) (hheld : c.heldAt = none)
    (hsched : c.unscheduled = false) :
    s.queueTake = ({ s with queue := s.queue.filter (fun q => q != c) } : State).queueShrink.takeSlot c.desc c.cmd := by
  unfold State.queueTake
  simp [hhead, hheld, hsched]

theorem State.queueShrink_now (s : State) : s.queueShrink.now = s.now := by
  unfold State.queueShrink
  split <;> rfl

/-- Settles O7: a post is `State.runCollPost_of_new`, of which `State.takeSlot` is written out; the queue's end is
`State.enqueue_of_room`, its head `State.queueTake_of_head`. -/
theorem collectivePostTakesSlotOrQueue : Obligations.CollectivePostTakesSlotOrQueue := by
  refine ⟨fun s m r d hfits hr hd hbridge htime hfault hnew => ?_, fun s d c => State.enqueue_of_room,
    fun s hbridge => ?_, fun s t c i hbrass htime hbridge hslots hhead hheld hsched hlaunch hfree => ?_⟩
  · subst hr hd
    have hrun := State.runCollPost_of_new (s := s.taken m) hbridge (State.timeGood_iff.mpr htime) hfault hnew
    exact (State.command_fits hfits (by decide)).trans (congrArg _ hrun)
  · show due _ s _ = .next s
    rw [hbridge, Bool.not_true, Bool.and_false, Bool.false_and]
    rfl
  · have htake : execLaunchQueueTake s = .next s.queueTake :=
      due_of_true (by simp [hbrass, State.timeGood_iff.mpr htime, hbridge, hslots])
    refine htake.trans (congrArg _ ?_)
    have hearly : ¬ dLaunch c.desc ≤ ({ s with queue := s.queue.filter (fun q => q != c) } : State).queueShrink.now := by
      rw [State.queueShrink_now]
      exact Nat.not_le.mpr hlaunch
    rw [State.queueTake_of_head hhead hheld hsched, State.takeSlot, if_neg hearly, hfree]

end Sys2Proof.Machine

/-! Frames of collectives that a unit takes (06 R148, R158): the frame leaves its queue and its cells are free, and what a home sees
of its accelerators stays. -/

namespace Sys2Proof.Machine

/-! ### Collectives in slots -/

theorem State.coll_setColl (s : State) (k j : Nat) (c : Coll) : (s.setColl k c).coll j = if k = j then some c else s.coll j :=
  tfind_tset

@[simp] theorem State.coll_setColl_self (s : State) (k : Nat) (c : Coll) : (s.setColl k c).coll k = some c := by
  rw [State.coll_setColl, if_pos rfl]

theorem State.coll_setColl_of_ne {s : State} {k j : Nat} {c : Coll} (h : j ≠ k) : (s.setColl k c).coll j = s.coll j := by
  rw [State.coll_setColl, if_neg (Ne.symm h)]

/-! ### Cells that are free -/

theorem State.dropFrom_only (s : State) (id k : Nat) : s.dropFrom id k =
    { s with ports := (s.dropFrom id k).ports, sol := { s.sol with cells := (s.dropFrom id k).sol.cells } } := by
  unfold State.dropFrom
  generalize List.range (64 - k) = l
  induction l generalizing s with
  | nil => rfl
  | cons i l ih =>
    rw [List.foldl_cons, ih]
    generalize l.foldl (fun s i => s.dropCopy (64 * id + k + i)) (s.dropCopy (64 * id + k + i)) = u
    rw [State.dropCopy_only]

/-- Of a port it changes the cells held and the credits owed alone. -/
theorem State.port_dropFrom (s : State) (id k p : Nat) : (s.dropFrom id k).port p = { s.port p with
    rxHeld := ((s.dropFrom id k).port p).rxHeld, rxRet := ((s.dropFrom id k).port p).rxRet,
    rxUnrep := ((s.dropFrom id k).port p).rxUnrep } := by
  unfold State.dropFrom
  generalize List.range (64 - k) = l
  induction l generalizing s with
  | nil => rfl
  | cons i l ih =>
    rw [List.foldl_cons, ih]
    generalize (l.foldl (fun s i => s.dropCopy (64 * id + k + i)) (s.dropCopy (64 * id + k + i))).port p = u
    rw [State.port_dropCopy]

/-! ### A frame leaves its queue -/

theorem State.takeQueued_only (s : State) (f : Frame) : (s.takeQueued f).1 = { s with sol := { s.sol with
    queues := (s.takeQueued f).1.sol.queues, vcOwner := (s.takeQueued f).1.sol.vcOwner } } := by
  unfold State.takeQueued
  split <;> rfl

/-- Whether a copy of a frame that passes `mine` is still to leave by an accelerator's port. -/
def owesCopy (mine : Frame → Bool) (q : QEnt) : Bool := mine q.frame && q.outs.any (fun o => decide (o < 32))

/-- A RETURN or RESULT frame of a collective. -/
def returnOf (d : List Byte) (f : Frame) : Bool :=
  (f.hdr.ftype.toNat == ftReturn || f.hdr.ftype.toNat == ftKernel) && f.hdr.ctx.toNat == dCtx d && f.hdr.collId.toNat == dId d

/-- A unit's copy that leaves takes no port's copy with it. -/
theorem any_owesCopy_takeEnt (s : State) {q : QEnt} (mine : Frame → Bool) (hunit : (unitOut q).isSome = true) :
    (s.takeEnt q).sol.queues.any (owesCopy mine) = s.sol.queues.any (owesCopy mine) := by
  obtain ⟨u, hu⟩ := Option.isSome_iff_exists.mp hunit
  have hlow : 64 ≤ u := by simpa using List.find?_some hu
  have hports : (q.outs.filter (· != u)).any (fun o => decide (o < 32)) = q.outs.any (fun o => decide (o < 32)) := by
    rw [List.any_filter]
    congr 1
    funext o
    by_cases ho : o = u
    · have hhigh : ¬ o < 32 := by omega
      simp [hhigh]
    · simp [ho]
  unfold State.takeEnt
  simp only [hu, Option.getD_some]
  split
  · next hempty =>
    have hq : owesCopy mine q = false := by
      rw [owesCopy, ← hports, List.isEmpty_iff.mp hempty, List.any_nil, Bool.and_false]
    rw [List.any_filter]
    congr 1
    funext x
    by_cases hx : x = q
    · rw [hx, hq, Bool.and_false]
    · simp [hx]
  · rw [List.any_map]
    congr 1
    funext x
    by_cases hx : x = q
    · simp [hx, owesCopy, hports]
    · simp [hx]

theorem State.any_owesCopy_takeQueued (s : State) (f : Frame) (mine : Frame → Bool) :
    (s.takeQueued f).1.sol.queues.any (owesCopy mine) = s.sol.queues.any (owesCopy mine) := by
  unfold State.takeQueued
  split
  · next q hq =>
    have hmatch : (q.frame == f && (unitOut q).isSome) = true :=
      List.find?_some (p := fun q : QEnt => q.frame == f && (unitOut q).isSome) hq
    exact any_owesCopy_takeEnt s mine (Bool.and_eq_true_iff.mp hmatch).2
  · rfl

/-! ### A frame that is taken whole -/

/-- The frame has left its queue, and its cells are free. -/
def State.received (s : State) (f : Frame) : State := (s.takeQueued f).1.dropFrom (s.takeQueued f).2 0

theorem State.received_only (s : State) (f : Frame) : s.received f = { s with
    ports := (s.received f).ports, sol := { s.sol with
      queues := (s.received f).sol.queues, cells := (s.received f).sol.cells, vcOwner := (s.received f).sol.vcOwner } } := by
  unfold State.received
  rw [State.dropFrom_only]
  generalize (s.takeQueued f).1.dropFrom (s.takeQueued f).2 0 = u
  rw [State.takeQueued_only]

theorem State.port_received (s : State) (f : Frame) (p : Nat) : (s.received f).port p = { s.port p with
    rxHeld := ((s.received f).port p).rxHeld, rxRet := ((s.received f).port p).rxRet,
    rxUnrep := ((s.received f).port p).rxUnrep } := by
  have htaken : (s.takeQueued f).1.port p = s.port p := by rw [State.takeQueued_only]; rfl
  unfold State.received
  rw [State.port_dropFrom, htaken]

/-- What does not read these parts is as it was. -/
theorem State.received_apply {β : Type} {s : State} (g : State → β) (f : Frame)
    (h : ∀ ports queues cells owner, g { s with ports := ports, sol := { s.sol with
      queues := queues, cells := cells, vcOwner := owner } } = g s) : g (s.received f) = g s := by
  rw [State.received_only]
  exact h ..

theorem State.queues_received (s : State) (f : Frame) : (s.received f).sol.queues = (s.takeQueued f).1.sol.queues := by
  rw [State.received, State.dropFrom_only]

@[simp] theorem State.findColl_received (s : State) (f : Frame) (x cid : Nat) : (s.received f).findColl x cid = s.findColl x cid :=
  State.received_apply (fun t => t.findColl x cid) f fun _ _ _ _ => rfl

@[simp] theorem State.coll_received (s : State) (f : Frame) (k : Nat) : (s.received f).coll k = s.coll k :=
  State.received_apply (fun t => t.coll k) f fun _ _ _ _ => rfl

@[simp] theorem State.myMembers_received (s : State) (f : Frame) (d : List Byte) : (s.received f).myMembers d = s.myMembers d :=
  State.received_apply (fun t => t.myMembers d) f fun _ _ _ _ => rfl

@[simp] theorem State.returns_received (s : State) (f : Frame) (d : List Byte) (conds : BitVec 16) (changed : Bool) :
    (s.received f).returns d conds changed = s.returns d conds changed :=
  State.received_apply (fun t => t.returns d conds changed) f fun _ _ _ _ => rfl

@[simp] theorem State.newValues_received (s : State) (f : Frame) (r d : List Byte) :
    (s.received f).newValues r d = s.newValues r d :=
  State.received_apply (fun t => t.newValues r d) f fun _ _ _ _ => rfl

@[simp] theorem State.returnBytes_received (s : State) (f : Frame) (d : List Byte) :
    (s.received f).returnBytes d = s.returnBytes d :=
  State.received_apply (fun t => t.returnBytes d) f fun _ _ _ _ => rfl

@[simp] theorem State.accPresent_received (s : State) (f : Frame) (a : Nat) : (s.received f).accPresent a = s.accPresent a := by
  have hst (p : Nat) : ((s.received f).port p).st = (s.port p).st := by rw [State.port_received]
  have haux (p : Nat) : (s.received f).paux p = s.paux p := State.received_apply (fun t => t.paux p) f fun _ _ _ _ => rfl
  unfold State.accPresent
  simp only [hst, haux]

@[simp] theorem State.myUnits_received (s : State) (f : Frame) (d : List Byte) : (s.received f).myUnits d = s.myUnits d := by
  unfold State.myUnits
  simp only [State.myMembers_received, State.accPresent_received]

/-- The copies that a collective's accelerators still await stand in Solder's queues and at the ports. -/
theorem State.copiesWait_congr {s t : State} {d : List Byte}
    (hqueues : t.sol.queues.any (owesCopy (returnOf d)) = s.sol.queues.any (owesCopy (returnOf d)))
    (hdesc : t.sol.descWait = s.sol.descWait) (hegress : ∀ p, (t.port p).egress = (s.port p).egress)
    (hunacked : ∀ p, (t.port p).unacked = (s.port p).unacked) : t.copiesWait d = s.copiesWait d := by
  unfold State.copiesWait
  simp only [List.any_append, hdesc, hegress, hunacked]
  exact congrArg (fun b => (b || _) || _) hqueues

@[simp] theorem State.copiesWait_received (s : State) (f : Frame) (d : List Byte) :
    (s.received f).copiesWait d = s.copiesWait d := by
  refine State.copiesWait_congr ?_ (State.received_apply (fun t => t.sol.descWait) f fun _ _ _ _ => rfl) (fun p => ?_) (fun p => ?_)
  · rw [State.queues_received]
    exact State.any_owesCopy_takeQueued s f (returnOf d)
  · rw [State.port_received]
  · rw [State.port_received]

@[simp] theorem State.inPlace_received (s : State) (f : Frame) (d : List Byte) (h : Home) :
    (s.received f).inPlace d h = s.inPlace d h := by
  unfold State.inPlace
  simp only [State.myUnits_received, State.returnBytes_received, State.copiesWait_received]

/-- What a home keeps of a collective leaves what it sees of its accelerators. -/
@[simp] theorem State.inPlace_setColl (s : State) (k : Nat) (c : Coll) (d : List Byte) (h : Home) :
    (s.setColl k c).inPlace d h = s.inPlace d h := by
  have hunits : (s.setColl k c).myUnits d = s.myUnits d := rfl
  have hbytes : (s.setColl k c).returnBytes d = s.returnBytes d := rfl
  have hcopies : (s.setColl k c).copiesWait d = s.copiesWait d := rfl
  unfold State.inPlace
  rw [hunits, hbytes, hcopies]

@[simp] theorem State.myMembers_setColl (s : State) (k : Nat) (c : Coll) (d : List Byte) :
    (s.setColl k c).myMembers d = s.myMembers d := rfl

@[simp] theorem State.returns_setColl (s : State) (k : Nat) (c : Coll) (d : List Byte) (conds : BitVec 16) (changed : Bool) :
    (s.setColl k c).returns d conds changed = s.returns d conds changed := rfl

@[simp] theorem State.newValues_setColl (s : State) (k : Nat) (c : Coll) (r d : List Byte) :
    (s.setColl k c).newValues r d = s.newValues r d := rfl

/-- A collective in its slot, once a frame has been taken, stands for all that changed outside Solder. -/
theorem State.setColl_received_only (s : State) (f : Frame) (k : Nat) (c : Coll) : (s.received f).setColl k c = { s with
    slots := ((s.received f).setColl k c).slots, ports := ((s.received f).setColl k c).ports, sol := { s.sol with
      queues := ((s.received f).setColl k c).sol.queues, cells := ((s.received f).setColl k c).sol.cells,
      vcOwner := ((s.received f).setColl k c).sol.vcOwner } } := by
  rw [State.setColl, State.received_only]

end Sys2Proof.Machine

/-! Returns and records (08 R216, R220; 10 R284 to R286): what a home keeps while bytes are still to come, and what the root sends
again. -/

namespace Sys2Proof.Machine

/-! ### A home that still waits (08 R216, 10 R286) -/

section
variable {s : State} {k : Nat} {c : Coll}

/-- A home that has not every byte in place says nothing. -/
theorem State.homeTell_of_not_inPlace (hcoll : s.coll k = some c) (hplace : s.inPlace c.desc (c.home.getD Home.init) = false) :
    s.homeTell k = s := by
  simp [State.homeTell, hcoll, hplace]

/-- Without the root's record a home waits. -/
theorem State.homeTry_of_no_record (hcoll : s.coll k = some c) (hplace : s.inPlace c.desc (c.home.getD Home.init) = false)
    (hrecord : (c.home.getD Home.init).record = none) : s.homeTry k = s := by
  unfold State.homeTry
  simp [State.homeTell_of_not_inPlace hcoll hplace, hcoll, hrecord]

/-- With the record of an outcome that returns something, or a part of a return, a home waits for the rest. -/
theorem State.homeTry_of_returning {r : List Byte} (hcoll : s.coll k = some c)
    (hplace : s.inPlace c.desc (c.home.getD Home.init) = false) (hrecord : (c.home.getD Home.init).record = some r)
    (hreturns : s.returns c.desc (BitVec.ofNat 16 (fld r 56 2)) (s.newValues r c.desc) = true ∨
      (c.home.getD Home.init).got ≠ []) :
    s.homeTry k = s := by
  have hdue : (s.returns c.desc (BitVec.ofNat 16 (fld r 56 2)) (s.newValues r c.desc) ||
      !(c.home.getD Home.init).got.isEmpty) = true := by
    simpa [List.isEmpty_iff] using hreturns
  unfold State.homeTry
  simp [State.homeTell_of_not_inPlace hcoll hplace, hcoll, hrecord, hdue, hplace]

/-- The slot of a home that has not written its record stays. -/
theorem State.trySlot_of_unwritten (hcoll : s.coll k = some c) (hhome : s.myMembers c.desc ≠ [])
    (hwritten : (c.home.getD Home.init).written = false) : s.trySlot k = s := by
  simp [State.trySlot, State.slotOver, hcoll, hhome, hwritten]

/-- A root whose homes have not all reported waits. -/
theorem State.rootTry_of_home_due {t : Ret} {a : Nat} (hcoll : s.coll k = some c) (hret : c.ret = some t)
    (hdue : a ∈ s.homesDue c.desc) (hnew : a ∉ t.homes) (haway : a ≠ s.addr) : s.rootTry k = s := by
  have hwait (own : Bool) : (s.homesDue c.desc).all (fun a => t.homes.contains a || (a == s.addr && own)) = false :=
    List.all_eq_false.mpr ⟨a, hdue, by simp [hnew, haway]⟩
  unfold State.rootTry
  simp only [hcoll, hret]
  split
  · next ht =>
    cases ht
    rw [hwait, if_neg Bool.false_ne_true]
  · rfl

end

/-! ### RETURN_RECEIVE and COMPLETION_RECEIVE -/

section
variable {s : State} {p : BitVec 6} {f : Frame} {k : Nat} {c : Coll}

theorem execReturnReceive_of_coll (hon : s.on = true) (hnow : s.notYet f = false)
    (hfind : s.findColl f.hdr.ctx.toNat f.hdr.collId.toNat = some k) (hcoll : s.coll k = some c) :
    execReturnReceive p f s =
      .next ((s.received f).homeReturn k f.hdr.offset.toNat f.payload.length (s.myUnits c.desc)) := by
  have hfind' : ((s.takeQueued f).1.dropFrom (s.takeQueued f).2 0).findColl f.hdr.ctx.toNat f.hdr.collId.toNat = some k :=
    (State.findColl_received ..).trans hfind
  have hcoll' : ((s.takeQueued f).1.dropFrom (s.takeQueued f).2 0).coll k = some c := (State.coll_received ..).trans hcoll
  have hunits : ((s.takeQueued f).1.dropFrom (s.takeQueued f).2 0).myUnits c.desc = s.myUnits c.desc := State.myUnits_received ..
  unfold execReturnReceive
  simp only [hon, hnow, hfind', hcoll', hunits, Bool.not_true, Bool.or_self, Bool.false_eq_true, if_false]
  rfl

/-- A part of a return that a home has not had counts for all its accelerators. -/
theorem State.homeReturn_of_new {off len : Nat} {us : List Nat} (hcoll : s.coll k = some c) (hsome : us ≠ [])
    (hnew : ∀ e ∈ (c.home.getD Home.init).got, e.1 ≠ off) :
    s.homeReturn k off len us = (s.setColl k { c with home := some { c.home.getD Home.init with
      got := (c.home.getD Home.init).got ++ us.map (fun u => (off, u, len)) } }).homeTry k := by
  have hall : us.filter (fun u => !(c.home.getD Home.init).got.any (fun e => e.1 == off && e.2.1 == u)) = us :=
    List.filter_eq_self.mpr fun u _ => by
      have hnone : (c.home.getD Home.init).got.any (fun e => e.1 == off && e.2.1 == u) = false :=
        List.any_eq_false.mpr fun e he => by simp [hnew e he]
      rw [hnone, Bool.not_false]
  have hmap : (us.map (fun u => (off, u, len))).isEmpty = false := by simpa using hsome
  unfold State.homeReturn
  simp only [hcoll, hall, hmap, Bool.false_eq_true, if_false]

theorem execCompletionReceive_of_coll (hon : s.on = true) (hnow : s.notYet f = false) (hrecord : f.hdr.ts.toNat % 256 = 1)
    (hfind : s.findColl f.hdr.ctx.toNat f.hdr.collId.toNat = some k) :
    execCompletionReceive p f s = .next (((s.received f).homeRecord k (f.payload.take 64)).trySlot k) := by
  have hfind' : ((s.takeQueued f).1.dropFrom (s.takeQueued f).2 0).findColl f.hdr.ctx.toNat f.hdr.collId.toNat = some k :=
    (State.findColl_received ..).trans hfind
  unfold execCompletionReceive
  simp only [hon, hnow, hfind', hrecord, Bool.not_true, Bool.or_self, Bool.false_eq_true, if_false, bne_self_eq_false]
  rfl

theorem State.homeRecord_of_home {r : List Byte} (hcoll : s.coll k = some c) (hhome : s.myMembers c.desc ≠ []) :
    s.homeRecord k r = (s.setColl k { c with home := some { c.home.getD Home.init with record := some r } }).homeTry k := by
  simp [State.homeRecord, hcoll, hhome]

/-- A RETURN frame of an OFFSET not yet had counts at its home, which waits for the rest. -/
theorem exec_returnReceive_of_new {h : Home} (hon : s.on = true) (hnow : s.notYet f = false)
    (hfind : s.findColl f.hdr.ctx.toNat f.hdr.collId.toNat = some k) (hcoll : s.coll k = some c)
    (hsome : s.myUnits c.desc ≠ []) (hnew : ∀ e ∈ (c.home.getD Home.init).got, e.1 ≠ f.hdr.offset.toNat)
    (hrecord : (c.home.getD Home.init).record = none)
    (hh : h = { c.home.getD Home.init with
      got := (c.home.getD Home.init).got ++ (s.myUnits c.desc).map (fun u => (f.hdr.offset.toNat, u, f.payload.length)) })
    (hplace : s.inPlace c.desc h = false) :
    exec (.returnReceive p f) s = .next ((s.received f).setColl k { c with home := some h }) := by
  subst hh
  refine (execReturnReceive_of_coll (p := p) hon hnow hfind hcoll).trans (congrArg _ ?_)
  rw [State.homeReturn_of_new ((State.coll_received ..).trans hcoll) hsome hnew]
  exact State.homeTry_of_no_record (State.coll_setColl_self ..)
    ((State.inPlace_setColl ..).trans ((State.inPlace_received ..).trans hplace)) hrecord

/-- The root's record is kept at a home, which waits for the return. -/
theorem exec_completionReceive_of_returning (hon : s.on = true) (hts : f.hdr.ts.toNat % 256 = 1) (hnow : s.notYet f = false)
    (hfind : s.findColl f.hdr.ctx.toNat f.hdr.collId.toNat = some k) (hcoll : s.coll k = some c)
    (hhome : s.myMembers c.desc ≠ []) (hwritten : (c.home.getD Home.init).written = false)
    (hreturns : s.returns c.desc (BitVec.ofNat 16 (fld (f.payload.take 64) 56 2))
        (s.newValues (f.payload.take 64) c.desc) = true ∨
      (c.home.getD Home.init).got ≠ [])
    (hplace : s.inPlace c.desc (c.home.getD Home.init) = false) :
    exec (.completionReceive p f) s = .next ((s.received f).setColl k
      { c with home := some { c.home.getD Home.init with record := some (f.payload.take 64) } }) := by
  refine (execCompletionReceive_of_coll (p := p) hon hnow hts hfind).trans (congrArg _ ?_)
  rw [State.homeRecord_of_home ((State.coll_received ..).trans hcoll) (by rwa [State.myMembers_received])]
  generalize hu : (s.received f).setColl k
    { c with home := some { c.home.getD Home.init with record := some (f.payload.take 64) } } = u
  have hcoll' : u.coll k = some { c with home := some { c.home.getD Home.init with record := some (f.payload.take 64) } } :=
    hu ▸ State.coll_setColl_self ..
  have hmembers : u.myMembers c.desc ≠ [] := by rwa [← hu, State.myMembers_setColl, State.myMembers_received]
  have hkeep : u.homeTry k = u := by
    subst hu
    refine State.homeTry_of_returning hcoll' ((State.inPlace_setColl ..).trans ((State.inPlace_received ..).trans hplace)) rfl
      (hreturns.imp_left fun hret => ?_)
    rw [State.returns_setColl, State.newValues_setColl, State.returns_received, State.newValues_received]
    exact hret
  rw [hkeep]
  exact State.trySlot_of_unwritten hcoll' hmembers hwritten

end

/-! ### RETURN_DONE and RETURN_RESEND -/

section
variable {s : State} {p : BitVec 6} {m : ReturnMsg} {k : Nat} {c : Coll}

theorem exec_returns_of_other (hon : s.on = true) (hother : m.target.toNat ≠ s.addr) :
    exec (.returnDone p m) s = .next (s.sendCtlTo m.target.toNat (.returnDone m)) ∧
    exec (.returnResend p m) s = .next (s.sendCtlTo m.target.toNat (.returnResend m)) := by
  constructor
  · show execReturnDone p m s = _
    simp [execReturnDone, hon, hother]
  · show execReturnResend p m s = _
    simp [execReturnResend, hon, hother]

/-- RETURN_DONE marks its home, and the root looks whether it was the last. -/
theorem exec_returnDone_of_new {r : Ret} (hon : s.on = true) (hmine : m.target.toNat = s.addr)
    (hfind : s.findColl m.ctx.toNat m.collId.toNat = some k) (hcoll : s.coll k = some c) (hret : c.ret = some r)
    (hnew : m.source.toNat ∉ r.homes) : exec (.returnDone p m) s =
      .next ((s.setColl k { c with ret := some { r with homes := r.homes ++ [m.source.toNat] } }).rootTry k) := by
  show execReturnDone p m s = _
  simp [execReturnDone, hon, hmine, hfind, hcoll, hret, hnew]

theorem exec_returnResend_of_record {r : List Byte} (hon : s.on = true) (hmine : m.target.toNat = s.addr)
    (hoffset : m.offset = 0xFFFFFFFF) (hfind : s.findColl m.ctx.toNat m.collId.toNat = some k) (hcoll : s.coll k = some c)
    (hrecord : c.record = some r) : exec (.returnResend p m) s = .next (s.sendFrame 78 (Frame.mk 14
      (s.hdr m.source.toNat ftCompletion (dCtx c.desc) (dGen c.desc) (dId c.desc) 0 1 false 0 64) r)) := by
  show execReturnResend p m s = _
  simp [execReturnResend, hon, hmine, hoffset, hfind, hcoll, hrecord]

/-- RETURN_RESEND of an OFFSET: what a kernel staged is sent again, or the frame of the image that holds it. -/
theorem exec_returnResend_of_offset {r : Ret} (hon : s.on = true) (hmine : m.target.toNat = s.addr)
    (hoffset : m.offset ≠ 0xFFFFFFFF) (hfind : s.findColl m.ctx.toNat m.collId.toNat = some k) (hcoll : s.coll k = some c)
    (hret : c.ret = some r) : exec (.returnResend p m) s = .next (
      if isKernel (dKind c.desc) then s.resendResult c r.image m.offset.toNat m.source.toNat
      else if ((r.image.drop m.offset.toNat).take (returnChunk (dRfmt c.desc))).isEmpty then s
      else s.sendFrame (s.returnPoint (dCtx c.desc) (dId c.desc) m.offset.toNat)
        (s.returnFrame c c.frozenVer m.source.toNat 0 (m.offset.toNat / returnChunk (dRfmt c.desc))
          ((r.image.drop m.offset.toNat).take (returnChunk (dRfmt c.desc))))) := by
  have hplain : m.offset.toNat ≠ 0xFFFFFFFF := fun h => hoffset (BitVec.eq_of_toNat_eq h)
  show execReturnResend p m s = _
  simp only [execReturnResend, hon, hmine, hplain, hfind, hcoll, hret, Bool.not_true, Bool.false_eq_true, if_false,
    bne_self_eq_false]
  split
  · rfl
  · split <;> rfl

end

/-- Settles O41: a home keeps what comes and waits (`exec_returnReceive_of_new`, `exec_completionReceive_of_returning`); the root
marks the homes that have all (`exec_returnDone_of_new`) and sends again what is asked for (`exec_returnResend_of_record`,
`exec_returnResend_of_offset`). -/
theorem returnsAndRecords : Obligations.ReturnsAndRecords := by
  refine ⟨fun s p f k c h h' hon hnow hfind hcoll hh hsome hnew hrecord hh' hplace => ?_,
    fun s p f k c h hon hts hnow hfind hcoll hh hhome hwritten hreturns hplace => ?_,
    fun s p m hon hother => exec_returns_of_other hon hother,
    fun s p m k a c r hon hmine hfind hcoll hret hnew hdue hout hother haway => ?_,
    fun s p m k c r => exec_returnResend_of_record,
    fun s p m k c r bs hon hmine hoffset hfind hcoll hret hkernel hbs hsome => ?_,
    fun s p m k c r hon hmine hoffset hfind hcoll hret hkernel => ?_⟩
  · subst hh
    exact ⟨_, exec_returnReceive_of_new hon hnow hfind hcoll hsome hnew hrecord hh' hplace, State.coll_setColl_self ..,
      fun j hj => (State.coll_setColl_of_ne hj).trans (State.coll_received ..), State.setColl_received_only ..⟩
  · subst hh
    exact ⟨_, exec_completionReceive_of_returning hon hts hnow hfind hcoll hhome hwritten hreturns hplace,
      State.coll_setColl_self .., fun j hj => (State.coll_setColl_of_ne hj).trans (State.coll_received ..),
      State.setColl_received_only ..⟩
  · rw [exec_returnDone_of_new hon hmine hfind hcoll hret hnew]
    refine congrArg _ (State.rootTry_of_home_due (State.coll_setColl_self ..) rfl hdue ?_ haway)
    simp [hout, hother]
  · subst hbs
    rw [exec_returnResend_of_offset hon hmine hoffset hfind hcoll hret, hkernel, if_neg Bool.false_ne_true,
      if_neg (by simpa using hsome)]
  · rw [exec_returnResend_of_offset hon hmine hoffset hfind hcoll hret, if_pos hkernel]

end Sys2Proof.Machine

/-! A contribution of no collective, whose receipt comes upon an accumulator word that its code cannot correct (08 R231; 02 R50):
the engine is fenced, and what waits at a point without an engine left goes on at the next. -/

namespace Sys2Proof.Machine

/-- A contribution for this Fixus, of the collective with COLLECTIVE_ID 0 in context 0. -/
def strayContrib : Frame :=
  { vc := 2, payload := [],
    hdr := { dest := 0x4000, src := 0, ftype := 2, ctx := 0, gen := 0, flowSeq := 0, frameLen := 32, esc := false,
             sched := false, newflow := false, single := false, spray := false, hops := 32, mcast := 0, path := 0,
             collId := 0, offset := 0, ts := 0, rsv := 0 } }

/-- A Fixus without a collective, of whose Bronze engines 0 and 1 at point 64 the second is fenced, with a frame at that point that
waits for a cell of pool 0. -/
def pointWaiting : State :=
  { State.reset with bzFenced := [1], sol := { Solder.init with waits := [(0, [{ owner := 64, n := 1, tag := 1 }])] } }

/-- The word of engine 0 that cannot be corrected fences it, and the frame waits at point 65. -/
theorem accErrors_pointWaiting_waits :
    (pointWaiting.accErrors [(0, 0, true)]).sol.waits = [(0, [{ owner := 65, n := 1, tag := 1 }])] := by
  decide +kernel

/-- A contribution that stands in no queue, of no collective held here, is counted and dropped. -/
theorem exec_contribReceive_of_unheld {s v : State} (p : BitVec 6) {f : Frame} {ecc : List (BitVec 4 × BitVec 20 × Bool)}
    (hon : s.on = true) (hnow : s.notYet f = false) (hv : v = s.accErrors ecc) (hqueued : v.heldEnt f = none)
    (hcoll : v.findColl f.hdr.ctx.toNat f.hdr.collId.toNat = none) :
    exec (.contribReceive p f ecc) s = .next ((v.bump (aFlt + 0x80) 1).dropToken 0) := by
  subst hv
  have htake : (s.accErrors ecc).takeQueued f = (s.accErrors ecc, 0) := by rw [State.takeQueued, hqueued]
  have hcoll' : ((s.accErrors ecc).bump (aFlt + 0x80) 1).findColl f.hdr.ctx.toNat f.hdr.collId.toNat = none := by
    rw [State.bump_only]
    exact hcoll
  show execContribReceive p f ecc s = _
  unfold execContribReceive
  simp only [hon, hnow, htake, hcoll', Bool.not_true, Bool.or_self, Bool.false_eq_true, if_false]

/-- A token that is dropped leaves the requests that wait for buffers. -/
theorem State.dropToken_waits (s : State) (id : Nat) : (s.dropToken id).sol.waits = s.sol.waits := by
  unfold State.dropToken
  rw [State.bump_only, State.dropFrom_only]

/-- Refutes O40: the first clause says that a contribution of no collective leaves the requests that wait for buffers as they
were before its accumulator words were read. On `pointWaiting` a word that cannot be corrected fences the last engine of point 64,
and the request that waits there moves to point 65 (`State.repoint`). -/
theorem not_inputsJoinOrAreAbandoned : ¬ Obligations.InputsJoinOrAreAbandoned := by
  intro ⟨hdropped, _⟩
  obtain ⟨⟨t, hexec, -, -, hframe⟩, -⟩ := hdropped pointWaiting _ 0 strayContrib [(0, 0, true)] (by decide) (by decide) rfl
    (by decide +kernel)
  have ht : t = ((pointWaiting.accErrors [(0, 0, true)]).bump (aFlt + 0x80) 1).dropToken 0 :=
    (Host.Outcome.next.inj ((exec_contribReceive_of_unheld 0 (by decide) (by decide) rfl (by decide +kernel)
      (by decide +kernel)).symm.trans hexec)).symm
  have hwaits : t.sol.waits = [(0, [{ owner := 65, n := 1, tag := 1 }])] := by
    rw [ht, State.dropToken_waits, State.bump_only]
    exact accErrors_pointWaiting_waits
  have hkept : t.sol.waits = pointWaiting.sol.waits := by rw [hframe]
  exact absurd (hkept.symm.trans hwaits) (by decide)

end Sys2Proof.Machine

/-! Parameter updates (10 R267, R271 to R274): how one starts, or ends at once. -/

namespace Sys2Proof.Machine

/-- An update that is looked at leaves the list of those that are ready, and the values that came due for its STEP are its tensor's
(10 R259, R267). -/
def State.takeReady (s : State) (d : List Byte) (t : Tensor) : State :=
  State.setTensor { s with pwt := { s.pwt with ready := s.pwt.ready.filter (· != (dCtx d, dId d)) } } (dCtx d) (dTensor d)
    { t with entry := applyPend t.entry (dStep d) }

/-- The update that Pewter begins for a collective: it takes the tensor's committed arrays (10 R271 to R274). -/
def State.newUpdate (s : State) (c : Coll) (t : Tensor) : Update :=
  let r := c.root.getD Root.init
  let e := t.entry
  { ctx := dCtx c.desc, cid := dId c.desc, phase := .pages,
    conds := if tFrozen e then addCond r.conds stFrozen else r.conds, lowest := r.nfRank, w := t.w, m1 := t.m1, m2 := t.m2,
    u := [], x := [], a := [], b := [], ssq := 0, image := [], pdig := 0, partFail := r.partFail, nonfin := false,
    o := if r.conds.getLsbD 6 then List.zipWith (fun (x : Word) (b : Bool) => if b then 0 else x) r.g r.nonfin else r.g,
    changes := !tFrozen e && (!r.conds.getLsbD 6 || tZero e), setStep := !tFrozen e, mirror := !s.iAmRoot c.desc,
    tag := s.free.1 }

/-- May the update of a STEP not start: LAST_STEP is not the STEP before it, and the tensor neither is FROZEN nor resumes (10 R273)? -/
def stepGap (e : List Byte) (last step : Nat) : Bool :=
  !tFrozen e && !tResume e && last != (step + 2 ^ 32 - 1) % 2 ^ 32

theorem stepGap_iff {e : List Byte} {last step : Nat} : stepGap e last step = true ↔
    tFrozen e = false ∧ tResume e = false ∧ last ≠ (step + 2 ^ 32 - 1) % 2 ^ 32 := by
  simp only [stepGap, Bool.and_eq_true, Bool.not_eq_true', bne_iff_ne, and_assoc]

/-- The update is Pewter's, and PENDING_STEP is set (10 R271). -/
def State.withUpdate (s : State) (c : Coll) (t : Tensor) : State :=
  { s.setTensor (dCtx c.desc) (dTensor c.desc) { t with ver := { t.ver with pending := dStep c.desc } } with
    freeCtr := s.freeCtr + 1, pwt := { s.pwt with upd := some (s.newUpdate c t) } }

/-- The update whose turn it is ends FENCED where its tensor is LOST or its plan is fenced, and STEP_GAP where its STEP does not follow;
any other asks for its pages. -/
theorem State.updateStart_of_ready {s : State} {k : Nat} {c : Coll} {t : Tensor} {e : List Byte}
    (hfirst : s.firstUpdate = some (k, c)) (htensor : s.tensor (dCtx c.desc) (dTensor c.desc) = some t)
    (hready : (dCtx c.desc, dId c.desc) ∈ s.pwt.ready) (hidle : s.pwt.upd = none) (hsync : t.ver.resync = false)
    (he : e = applyPend t.entry (dStep c.desc)) :
    s.updateStart =
      if t.ver.lost || (s.ctx (dCtx c.desc)).planFenced then
        ((s.takeReady c.desc t).bump (aPwt + 0x20) 1).settle k
          (addCond (c.root.getD Root.init).conds stFenced) 0 0 (c.root.getD Root.init).nfRank none 0
      else if stepGap e t.ver.lastStep (dStep c.desc) then
        ((s.takeReady c.desc t).bump (aPwt + 0x1C) 1).settle k
          (addCond (c.root.getD Root.init).conds stStepGap) 0 0 (c.root.getD Root.init).nfRank none 0
      else ((s.takeReady c.desc t).withUpdate c { t with entry := e }).tryPages := by
  subst he
  have hgo : (!s.pwt.ready.contains (dCtx c.desc, dId c.desc) || s.pwt.upd.isSome || t.ver.resync) = false := by
    simp [hready, hidle, hsync]
  unfold State.updateStart
  rw [hfirst]
  dsimp only
  rw [htensor]
  dsimp only
  rw [hgo]
  rfl

/-- Settles O43: an update whose turn it is ends at once or is `State.newUpdate` (`State.updateStart_of_ready`). -/
theorem updateStarts : Obligations.UpdateStarts := by
  intro s k c r t e hon hfirst hr htensor hready hidle hsync he
  have hexec : exec .updateStart s = .next s.updateStart := due_of_true hon
  rw [State.updateStart_of_ready hfirst htensor hready hidle hsync he, ← hr] at hexec
  refine ⟨fun hlost => ?_, fun hlost hplan hfrozen hresume hstep => ?_, fun hlost hplan hnext => ?_⟩
  · rw [hlost, Bool.true_or, if_pos rfl] at hexec
    refine ⟨_, hexec, State.cntAt_bump_self .., ?_⟩
    rw [State.bump_only]
    rfl
  · have hgap : stepGap e t.ver.lastStep (dStep c.desc) = true := stepGap_iff.mpr ⟨hfrozen, hresume, hstep⟩
    rw [hlost, hplan, Bool.or_self, if_neg Bool.false_ne_true, if_pos hgap] at hexec
    refine ⟨_, hexec, State.cntAt_bump_self .., ?_⟩
    rw [State.bump_only]
    rfl
  · have hgap : ¬ stepGap e t.ver.lastStep (dStep c.desc) = true := fun h => by
      obtain ⟨hfrozen, hresume, hstep⟩ := stepGap_iff.mp h
      rcases hnext with h | h | h
      · exact absurd (hfrozen.symm.trans h) Bool.false_ne_true
      · exact absurd (hresume.symm.trans h) Bool.false_ne_true
      · exact hstep h
    rw [hlost, hplan, Bool.or_self, if_neg Bool.false_ne_true, if_neg hgap] at hexec
    subst hr
    exact ⟨_, _, hexec, rfl, rfl, rfl, rfl, rfl, rfl, rfl, rfl, rfl, State.tensor_setTensor_self ..,
      by simp [State.withUpdate, State.takeReady], rfl, rfl⟩

end Sys2Proof.Machine

/-! Passes (10 R263, R269, R275, R460; 12 R340, R341): the end of the running one, and of a FETCH's image. -/

namespace Sys2Proof.Machine

/-! ### Pages returned, and an update without a commit -/

/-- A tensor whose committed version is LOST (10 R277). -/
def Tensor.markLost (t : Tensor) : Tensor := { t with ver := { t.ver with lost := true } }

/-- The pages that stay in use are those whose holder is not asked to return them. -/
theorem State.mem_pages_freePages {s : State} {test : Holder → Bool} {p : Page} :
    p ∈ (s.freePages test).ing.pages ↔ p ∈ s.ing.pages ∧ test p.holder = false := by
  simp [State.freePages]

theorem State.clearPending_of_some {s : State} {x i : Nat} {t : Tensor} (htensor : s.tensor x i = some t) :
    s.clearPending x i = s.setTensor x i { t with ver := { t.ver with pending := 0 } } := by
  rw [State.clearPending, htensor]

/-- Pewter gives an update up: PENDING_STEP is cleared, every page of it returned, and the end counted. -/
def State.withdrawUpdate (s : State) (u : Update) (i : Nat) (t : Tensor) : State :=
  State.bump (State.freePages
    (State.freeNew (s.setTensor u.ctx i { t with ver := { t.ver with pending := 0 } }) u.ctx u.cid)
    (fun h => h == .image u.ctx u.cid)) (aPwt + 0x20) 1

theorem State.withdrawUpdate_only (s : State) (u : Update) (i : Nat) (t : Tensor) : s.withdrawUpdate u i t = { s with
    tensors := (s.withdrawUpdate u i t).tensors, cnt := (s.withdrawUpdate u i t).cnt, ing := { s.ing with
      pages := (s.withdrawUpdate u i t).ing.pages, poison := (s.withdrawUpdate u i t).ing.poison,
      maps := (s.withdrawUpdate u i t).ing.maps } } := rfl

theorem State.tensor_withdrawUpdate (s : State) (u : Update) (i : Nat) (t : Tensor) :
    (s.withdrawUpdate u i t).tensor u.ctx i = some { t with ver := { t.ver with pending := 0 } } := by
  rw [State.withdrawUpdate, State.bump_only]
  exact State.tensor_setTensor_self ..

/-- An update of a tensor that is LOST is settled FENCED. -/
theorem State.failUpdate_of_lost {s : State} {u : Update} {c : Coll} {t : Tensor} (k : Nat)
    (htensor : s.tensor u.ctx (dTensor c.desc) = some t) (hlost : t.ver.lost = true) :
    s.failUpdate u k c t 0 =
      (s.withdrawUpdate u (dTensor c.desc) t).settle k (addCond u.conds stFenced) 0 0 u.lowest none 0 := by
  unfold State.failUpdate State.withdrawUpdate
  dsimp only
  rw [State.clearPending_of_some htensor]
  refine congrArg (fun conds => State.settle _ k conds 0 0 u.lowest none 0) ?_
  rw [hlost]
  rfl

/-! ### The running pass (12 R341) -/

/-- The phases in which the base dies run a pass. -/
def Phase.isPass : Phase → Bool
  | .pass1 | .rule | .pass2 | .image => true
  | _ => false

/-- An update whose new arrays are not finite goes on to the image of the committed ones (10 R275). -/
def Update.discarded (u : Update) : Update :=
  { u with phase := .image, changes := false, setStep := true, lowest := 0xFFFF, conds := addCond u.conds stNonfinite,
           nonfin := false }

/-- What follows a pass that made `u` of the update. -/
def State.afterPass (s : State) (d : List Byte) (t : Tensor) (u : Update) : State :=
  if u.nonfin then
    State.issue { s.freeNew u.ctx u.cid with pwt := { s.pwt with upd := some u.discarded } } d t u.discarded
  else if u.phase = .finished then s.finishUpdate u
  else { s with pwt := { s.pwt with upd := some u } }

/-- A lost tensor and a failed part end the update; any other pass has its result. -/
theorem State.updatePass_of_running {s : State} {u : Update} {k : Nat} {c : Coll} {t : Tensor} (r : PassReport)
    (hupd : s.pwt.upd = some u) (hphase : u.phase.isPass = true) (hfind : s.findColl u.ctx u.cid = some k)
    (hcoll : s.coll k = some c) (htensor : s.tensor u.ctx (dTensor c.desc) = some t) :
    s.updatePass r =
      if r.stateLost || t.ver.lost then
        State.failUpdate (s.noUpdate.setTensor u.ctx (dTensor c.desc) t.markLost) u k c t.markLost
          (r.failParts ||| u.partFail)
      else if (r.failParts ||| u.partFail) != 0 then s.noUpdate.failUpdate u k c t (r.failParts ||| u.partFail)
      else s.afterPass c.desc t (passResult c.desc t.entry t u) := by
  unfold State.updatePass
  rw [hupd]
  dsimp only
  rw [hfind]
  dsimp only
  rw [hcoll]
  dsimp only
  rw [htensor]
  cases hp : u.phase <;> rw [hp] at hphase
  case pages | nsReady | ns | finished => cases hphase
  all_goals rfl

/-- No pass takes an update from its collective. -/
theorem passResult_ids (d e : List Byte) (t : Tensor) (u : Update) :
    (passResult d e t u).ctx = u.ctx ∧ (passResult d e t u).cid = u.cid := by
  unfold passResult
  split <;> exact ⟨rfl, rfl⟩

/-- A pass over the rule, pass 2 and the image are the last. -/
theorem passResult_phase (d e : List Byte) (t : Tensor) {u : Update}
    (hlast : u.phase = .rule ∨ u.phase = .pass2 ∨ u.phase = .image) : (passResult d e t u).phase = .finished := by
  unfold passResult
  rcases hlast with h | h | h <;> rw [h]

/-! ### The image of a FETCH (10 R269) -/

/-- It is decided with the image that was frozen at its launch. -/
theorem State.fetchPass_of_due {s : State} {r : PassReport} {x cid k : Nat} {l : List (Nat × Nat)} {c : Coll} {t : Tensor}
    (hfetches : s.pwt.fetches = (x, cid) :: l) (hfind : s.findColl x cid = some k) (hcoll : s.coll k = some c)
    (htensor : s.tensor x (dTensor c.desc) = some t) (hplan : (s.ctx x).planFenced = false) (hmember : c.memberLost = false)
    (hstate : r.stateLost = false) (hlost : t.ver.lost = false) (hparts : r.failParts = 0) :
    s.fetchPass r = State.settle (State.freeOld { s with pwt := { s.pwt with fetches := l } } x (dTensor c.desc)) k 0
      (imageDigest (dRfmt c.desc) c.wImage) 0 0xFFFF (some (imageOf (dRfmt c.desc) c.wImage)) c.frozenVer := by
  have htensor' : (State.freeOld { s with pwt := { s.pwt with fetches := l } } x (dTensor c.desc)).tensor x (dTensor c.desc) =
    some t := htensor
  have hfenced : (((State.freeOld { s with pwt := { s.pwt with fetches := l } } x (dTensor c.desc)).ctx x).planFenced ||
    c.memberLost) = false := Bool.or_eq_false_iff.mpr ⟨hplan, hmember⟩
  unfold State.fetchPass
  rw [hfetches]
  dsimp only
  rw [hfind]
  dsimp only
  rw [hcoll]
  dsimp only
  rw [htensor']
  dsimp only
  rw [hfenced, hstate, hlost, hparts]
  rfl

/-- Settles O44: a pass ends as `State.updatePass_of_running` says, the last one in a finished update (`passResult_phase`) or one that
is discarded; a FETCH's image is `State.fetchPass_of_due`. -/
theorem passesEnd : Obligations.PassesEnd := by
  refine ⟨fun s r u v k c t hon hfetch hupd hphase hfind hcoll htensor hparts hpart hstate hlost hv => ?_,
    fun s r u k c t hon hfetch hupd hphase hfind hcoll htensor hstate hparts hpart => ?_,
    fun s r x cid k l c t hon hfetch hfetches hfind hcoll htensor hplan hstate hlost hparts hready hmember => ?_⟩
  · have hpass : u.phase.isPass = true := by rcases hphase with h | h | h <;> rw [h] <;> rfl
    have hexec : exec (.passDone r) s = .next (s.afterPass c.desc t v) := by
      refine (if_neg (ne_true_of_eq_false hfetch)).trans ((due_of_true hon).trans (congrArg _ ?_))
      rw [State.updatePass_of_running r hupd hpass hfind hcoll htensor, hstate, hlost, hparts, hpart, ← hv]
      rfl
    obtain ⟨hctx, hcid⟩ := passResult_ids c.desc t.entry t u
    have hfinished := passResult_phase c.desc t.entry t hphase
    rw [← hv] at hctx hcid hfinished
    refine ⟨fun hfin => ⟨hfinished, ?_⟩, fun hnonfin => ?_⟩
    · rw [hexec, State.afterPass, hfin, if_neg Bool.false_ne_true, if_pos hfinished, State.finishUpdate, hctx, hcid]
    · rw [State.afterPass, if_pos hnonfin] at hexec
      exact ⟨_, v.discarded, hexec, rfl, rfl, rfl, rfl, rfl, rfl⟩
  · have hexec : exec (.passDone r) s = .next (s.updatePass r) :=
      (if_neg (ne_true_of_eq_false hfetch)).trans (due_of_true hon)
    rw [State.updatePass_of_running r hupd (by rw [hphase]; rfl) hfind hcoll htensor, hstate, hparts, hpart, Bool.true_or,
      if_pos rfl, BitVec.or_self, State.failUpdate_of_lost k (State.tensor_setTensor_self ..) rfl] at hexec
    have honly := State.withdrawUpdate_only (s.noUpdate.setTensor u.ctx (dTensor c.desc) t.markLost) u (dTensor c.desc) t.markLost
    have hlost := congrArg (Option.map fun t => t.ver.lost)
      (State.tensor_withdrawUpdate (s.noUpdate.setTensor u.ctx (dTensor c.desc) t.markLost) u (dTensor c.desc) t.markLost)
    generalize State.withdrawUpdate _ u _ _ = x at *
    exact ⟨x, hexec, hlost, by rw [honly]; rfl, honly⟩
  · have hexec : exec (.passDone r) s = .next (s.fetchPass r) :=
      (if_pos hfetch).trans (due_of_true (Bool.and_eq_true_iff.mpr ⟨hon, hready⟩))
    rw [State.fetchPass_of_due hfetches hfind hcoll htensor hplan hmember hstate hlost hparts] at hexec
    exact ⟨_, hexec, rfl⟩

end Sys2Proof.Machine

/-! The flip (10 R268, R270) and twin copies (10 R282, R283). -/

namespace Sys2Proof.Machine

/-! ### What the flags of an entry say once RESUME is cleared (10 Table 10.1) -/

theorem getD_clearResume (e : List Byte) {j : Nat} (hj : j ≠ 1) : (clearResume e).getD j 0 = e.getD j 0 := by
  match e, j with
  | [], 0 => rfl
  | [], _ + 1 => rfl
  | _ :: _, 0 => rfl
  | _ :: l, j + 2 =>
    show (l.drop 1).getD j 0 = l.getD (j + 1) 0
    rw [List.getD_eq_getElem?_getD, List.getElem?_drop, Nat.add_comm, ← List.getD_eq_getElem?_getD]

theorem fld_clearResume (e : List Byte) {off : Nat} (n : Nat) (hoff : 1 < off) : fld (clearResume e) off n = fld e off n := by
  unfold fld bytesAt
  refine congrArg leNat (List.map_congr_left fun i _ => getD_clearResume e ?_)
  omega

theorem tFlags_lt (e : List Byte) : tFlags e < 256 := (e.getD 1 0).isLt

theorem tFlags_clearResume (e : List Byte) : tFlags (clearResume e) = tFlags e - if tResume e then 4 else 0 := by
  match e with
  | [] => rfl
  | a :: l =>
    show (BitVec.ofNat 8 (tFlags (a :: l) - if tResume (a :: l) then 4 else 0)).toNat = _
    exact (BitVec.toNat_ofNat ..).trans (Nat.mod_eq_of_lt (Nat.lt_of_le_of_lt (Nat.sub_le ..) (tFlags_lt _)))

theorem tResume_clearResume (e : List Byte) : tResume (clearResume e) = false := by
  have hlt := tFlags_lt e
  unfold tResume
  rw [tFlags_clearResume]
  unfold tResume bit
  split <;> rename_i h <;> simp only [decide_eq_true_eq, decide_eq_false_iff_not] at h ⊢ <;> omega

/-- What an entry says of its Fixuses (10 R281). -/
def twinParts (e : List Byte) : Bool × Nat × Nat := (tIsTwin e, tOwner e, tTwin e)

theorem twinParts_eq_iff {e e' : List Byte} :
    twinParts e = twinParts e' ↔ tIsTwin e = tIsTwin e' ∧ tOwner e = tOwner e' ∧ tTwin e = tTwin e' := by
  simp only [twinParts, Prod.mk.injEq]

theorem twinParts_clearResume (e : List Byte) : twinParts (clearResume e) = twinParts e := by
  have htwin : tIsTwin (clearResume e) = tIsTwin e := by
    have hlt := tFlags_lt e
    unfold tIsTwin
    rw [tFlags_clearResume]
    unfold tResume bit
    split <;> rename_i h <;> simp only [decide_eq_true_eq, decide_eq_decide] at h ⊢ <;> omega
  refine twinParts_eq_iff.mpr ⟨htwin, ?_, ?_⟩
  · rw [tOwner, fld_clearResume e 2 (by decide), tOwner]
  · rw [tTwin, fld_clearResume e 2 (by decide), tTwin]

/-! ### Who acts for a tensor: its new record leaves that as it was (10 R281) -/

theorem State.tensor_setTensor (s : State) (x i y j : Nat) (v : Tensor) :
    (s.setTensor x i v).tensor y j = if tkey x i = tkey y j then some v else s.tensor y j := tfind_tset

section
variable {s : State} {x i : Nat} {t v : Tensor} (htensor : s.tensor x i = some t)
  (htwin : twinParts v.entry = twinParts t.entry)
include htensor htwin

theorem State.rootOf_setTensor (d : List Byte) : (s.setTensor x i v).rootOf d = s.rootOf d := by
  obtain ⟨his, howner, hpartner⟩ := twinParts_eq_iff.mp htwin
  unfold State.rootOf
  rw [State.tensor_setTensor]
  by_cases hkey : tkey x i = tkey (dCtx d) (dTensor d)
  · have hfound : s.tensor (dCtx d) (dTensor d) = some t := (congrArg (tfind s.tensors) hkey).symm.trans htensor
    rw [if_pos hkey, hfound]
    unfold State.actingOwner
    dsimp only
    rw [his, howner, hpartner]
    rfl
  · rw [if_neg hkey]
    rfl

theorem State.isMirror_setTensor (d : List Byte) : (s.setTensor x i v).isMirror d = s.isMirror d := by
  obtain ⟨his, howner, hpartner⟩ := twinParts_eq_iff.mp htwin
  unfold State.isMirror
  rw [State.tensor_setTensor, State.rootOf_setTensor htensor htwin]
  by_cases hkey : tkey x i = tkey (dCtx d) (dTensor d)
  · have hfound : s.tensor (dCtx d) (dTensor d) = some t := (congrArg (tfind s.tensors) hkey).symm.trans htensor
    rw [if_pos hkey, hfound]
    unfold partnerOf
    dsimp only
    rw [his, howner, hpartner]
    rfl
  · rw [if_neg hkey]
    rfl

theorem State.readsVersion_setTensor (y j n : Nat) :
    (s.setTensor x i v).readsVersion y j n = s.readsVersion y j n := by
  unfold State.readsVersion State.iAmRoot
  simp only [State.rootOf_setTensor htensor htwin]
  rfl

end

/-! ### Digests of a flip compared (10 R282) -/

/-- A tensor whose digests were compared: a difference sets RESYNC. -/
def Tensor.compared (t : Tensor) (differ : Bool) : Tensor :=
  { t with twinDig := none, theirDig := none, ver := { t.ver with resync := t.ver.resync || differ } }

/-- The mirror asks for a copy of the owner's state. -/
def State.askCopy (s : State) (x i : Nat) : State :=
  { s with pwt := { s.pwt with resyncing := s.pwt.resyncing.filter (· != (x, i)) ++ [(x, i)] } }

theorem State.compareTwins_of_both {s : State} {x i : Nat} {t : Tensor} {a b : BitVec 64 × BitVec 64}
    (htensor : s.tensor x i = some t) (hours : t.twinDig = some a) (htheirs : t.theirDig = some b) :
    s.compareTwins x i = if a = b then s.setTensor x i (t.compared (a != b))
      else (s.setTensor x i (t.compared (a != b))).askCopy x i := by
  unfold State.compareTwins
  rw [htensor]
  dsimp only
  rw [hours, htheirs]
  rfl

theorem State.compareTwins_of_none {s : State} {x i : Nat} {t : Tensor} (htensor : s.tensor x i = some t)
    (hnone : t.twinDig = none ∨ t.theirDig = none) : s.compareTwins x i = s := by
  unfold State.compareTwins
  rw [htensor]
  dsimp only
  split
  · next hours htheirs => simp [hours, htheirs] at hnone
  · rfl

/-- A comparison changes no more of a tensor than its digests and RESYNC, and of the state that tensor and the copies asked for. -/
theorem State.compareTwins_spec {s : State} {x i : Nat} {t : Tensor} (htensor : s.tensor x i = some t) :
    (∃ a b r, (s.compareTwins x i).tensor x i =
      some { t with twinDig := a, theirDig := b, ver := { t.ver with resync := r } }) ∧
    s.compareTwins x i = { s with
      tensors := (s.compareTwins x i).tensors,
      pwt := { s.pwt with resyncing := (s.compareTwins x i).pwt.resyncing } } := by
  cases hours : t.twinDig with
  | none =>
    rw [State.compareTwins_of_none htensor (.inl hours)]
    exact ⟨⟨_, _, _, htensor⟩, rfl⟩
  | some a =>
    cases htheirs : t.theirDig with
    | none =>
      rw [State.compareTwins_of_none htensor (.inr htheirs)]
      exact ⟨⟨_, _, _, htensor⟩, rfl⟩
    | some b =>
      rw [State.compareTwins_of_both htensor hours htheirs]
      split
      · exact ⟨⟨_, _, _, State.tensor_setTensor_self ..⟩, rfl⟩
      · exact ⟨⟨_, _, _, State.tensor_setTensor_self ..⟩, rfl⟩

/-! ### The parts of a flip (10 R268, R270) -/

/-- The tensor as a flip leaves it; at the mirror its digests are kept for the comparison with the owner's (10 R282). -/
def State.flippedTensor (s : State) (u : Update) (d : List Byte) (t : Tensor) : Tensor :=
  { commitTensor t u (dStep d) with
    twinDig := if u.changes && s.isMirror d then some (u.pdig, stateDigest u.w u.m1 u.m2)
      else (commitTensor t u (dStep d)).twinDig }

/-- An update is no longer among those that are finished. -/
def State.dropFinished (s : State) (u : Update) : State :=
  { s with pwt := { s.pwt with finished := s.pwt.finished.filter (· != u) } }

/-- The version record is written and the update counted. -/
def State.recordFlip (s : State) (u : Update) (d : List Byte) (t : Tensor) : State :=
  ((s.dropFinished u).setTensor u.ctx (dTensor d) (s.flippedTensor u d t)).countUpdate u

/-- An update that changes state has its new pages become the state's. -/
def State.flipState (s : State) (u : Update) (d : List Byte) (t : Tensor) : State :=
  if u.changes then (s.recordFlip u d t).flipPages u.ctx u.cid (dTensor d) t.ver.version else s.recordFlip u d t

/-- The mirror compares its digests with the owner's. -/
def State.mirrorFlip (s : State) (u : Update) (d : List Byte) : State :=
  if s.isMirror d then s.compareTwins u.ctx (dTensor d) else s

/-- The image that a flip returns, if any. -/
def State.flipImage (s : State) (u : Update) (d : List Byte) (t : Tensor) : Option (List Byte) :=
  if ((s.flipState u d t).mirrorFlip u d).returns d u.conds u.changes then some u.image else none

/-- An image that is not returned gives its pages back. -/
def State.keepImage (s : State) (u : Update) (im : Option (List Byte)) : State :=
  if im.isNone then s.freePages (fun h => h == .image u.ctx u.cid) else s

/-- The state that a flip settles. -/
def State.flipped (s : State) (u : Update) (d : List Byte) (t : Tensor) : State :=
  ((s.flipState u d t).mirrorFlip u d).keepImage u (s.flipImage u d t)

/-- A flip fails, with an error in its pages, a LOST tensor or a fenced plan, or settles what these parts make (10 R276, R277). -/
theorem State.flip_of_held {s : State} {u : Update} {k : Nat} {c : Coll} {t : Tensor}
    (hfind : s.findColl u.ctx u.cid = some k) (hcoll : s.coll k = some c) (htensor : s.tensor u.ctx (dTensor c.desc) = some t) :
    s.flip u =
      if u.partFail != 0 || t.ver.lost || (s.ctx u.ctx).planFenced then (s.dropFinished u).failUpdate u k c t u.partFail
      else (s.flipped u c.desc t).settle k u.conds u.pdig u.partFail u.lowest (s.flipImage u c.desc t)
        (commitTensor t u (dStep c.desc)).ver.version := by
  have hfind' : (s.dropFinished u).findColl u.ctx u.cid = some k := hfind
  have hcoll' : (s.dropFinished u).coll k = some c := hcoll
  have htensor' : (s.dropFinished u).tensor u.ctx (dTensor c.desc) = some t := htensor
  unfold State.dropFinished at hfind' hcoll' htensor'
  unfold State.flip
  dsimp only
  rw [hfind']
  dsimp only
  rw [hcoll']
  dsimp only
  rw [htensor']
  rfl

/-! ### What a flip writes of its tensor -/

theorem twinParts_flippedTensor (s : State) (u : Update) (d : List Byte) (t : Tensor) :
    twinParts (s.flippedTensor u d t).entry = twinParts t.entry := by
  show twinParts (commitTensor t u (dStep d)).entry = _
  unfold commitTensor
  split
  · exact twinParts_clearResume _
  · split
    · exact twinParts_clearResume _
    · rfl

theorem commitTensor_of_changes {u : Update} (hchanges : u.changes = true) (t : Tensor) (step : Nat) :
    commitTensor t u step = { t with
      entry := clearResume t.entry, w := u.w, m1 := u.m1, m2 := u.m2,
      ver := { t.ver with
        version := (t.ver.version + 1) % 2 ^ 32, lastStep := step, pending := 0, reexec := false, map := !t.ver.map } } :=
  if_pos hchanges

/-- An update that does not change state leaves the arrays and the version. -/
theorem commitTensor_of_kept {u : Update} (hchanges : u.changes = false) (t : Tensor) (step : Nat) :
    (commitTensor t u step).w = t.w ∧ (commitTensor t u step).m1 = t.m1 ∧ (commitTensor t u step).m2 = t.m2 ∧
    (commitTensor t u step).ver =
      { t.ver with lastStep := if u.setStep then step else t.ver.lastStep, pending := 0 } := by
  unfold commitTensor
  rw [hchanges, if_neg Bool.false_ne_true]
  cases u.setStep <;> exact ⟨rfl, rfl, rfl, rfl⟩

/-! ### What a flip counts (10 Table 10.13) -/

/-- The count of the last commit is kept. -/
def State.noteFlip (s : State) : State := { s with pwt := { s.pwt with lastFlip := s.now } }

@[simp] theorem State.cntAt_noteFlip (s : State) (a : Nat) : s.noteFlip.cntAt a = s.cntAt a := rfl

/-- NONFINITE counts, and a commit or an update that left the state. -/
theorem State.countUpdate_eq (s : State) (u : Update) : s.countUpdate u =
    let v := s.bump (aPwt + 0x18) (if statusOf u.conds = stNonfinite then 1 else 0)
    if u.changes then v.noteFlip.bump (aPwt + 0x10) 1
    else v.bump (aPwt + 0x14) 1 := by
  unfold State.countUpdate
  by_cases hnonfinite : statusOf u.conds = stNonfinite
  · rw [if_pos hnonfinite, if_pos hnonfinite]
    rfl
  · rw [if_neg hnonfinite, if_neg hnonfinite]
    rfl

theorem State.countUpdate_only (s : State) (u : Update) : s.countUpdate u = { s with
    cnt := (s.countUpdate u).cnt, pwt := { s.pwt with lastFlip := if u.changes then s.now else s.pwt.lastFlip } } := by
  rw [State.countUpdate_eq]
  dsimp only
  cases u.changes
  · rw [if_neg Bool.false_ne_true, State.bump_only (State.bump ..), State.bump_only s]
    rfl
  · rw [if_pos rfl, State.bump_only, State.bump_only s]
    rfl

theorem State.cntAt_countUpdate (s : State) (u : Update) :
    (s.countUpdate u).cntAt (aPwt + 0x10) = s.cntAt (aPwt + 0x10) + (if u.changes then 1 else 0) ∧
    (s.countUpdate u).cntAt (aPwt + 0x14) = s.cntAt (aPwt + 0x14) + (if u.changes then 0 else 1) ∧
    (s.countUpdate u).cntAt (aPwt + 0x18) = s.cntAt (aPwt + 0x18) + (if statusOf u.conds = stNonfinite then 1 else 0) := by
  rw [State.countUpdate_eq]
  dsimp only
  cases u.changes <;> simp [State.cntAt_bump]

/-! ### Pages of a flip (10 R268, R269) -/

section
variable {s : State} {x cid i n p : Nat}

theorem State.mem_pages_flipPages_of_work {a : Nat} (hlo : 2 ≤ a) (hhi : a < 5)
    (hmem : (⟨p, .work x cid a⟩ : Page) ∈ s.ing.pages) :
    (⟨p, .state x i (a - 2)⟩ : Page) ∈ (s.flipPages x cid i n).ing.pages := by
  refine List.mem_map.mpr ⟨_, State.mem_pages_freePages.mpr ⟨hmem, rfl⟩, ?_⟩
  simp [hlo, hhi]

theorem State.mem_pages_flipPages_of_read (hreads : s.readsVersion x i n = true)
    (hmem : (⟨p, .state x i 0⟩ : Page) ∈ s.ing.pages) :
    (⟨p, .old x i n⟩ : Page) ∈ (s.flipPages x cid i n).ing.pages := by
  refine List.mem_map.mpr ⟨_, State.mem_pages_freePages.mpr ⟨hmem, ?_⟩, ?_⟩
  · simp [hreads]
  · simp

end

/-! ### What a flip changes -/

section
variable {s : State} {u : Update} {d : List Byte} {t : Tensor}

theorem State.recordFlip_only : s.recordFlip u d t = { s.setTensor u.ctx (dTensor d) (s.flippedTensor u d t) with
    cnt := (s.recordFlip u d t).cnt
    pwt := { s.pwt with
      finished := s.pwt.finished.filter (· != u), lastFlip := if u.changes then s.now else s.pwt.lastFlip } } :=
  State.countUpdate_only ..

theorem State.flipState_only : s.flipState u d t = { s.setTensor u.ctx (dTensor d) (s.flippedTensor u d t) with
    cnt := (s.recordFlip u d t).cnt
    pwt := { s.pwt with
      finished := s.pwt.finished.filter (· != u), lastFlip := if u.changes then s.now else s.pwt.lastFlip }
    ing := { s.ing with
      pages := (s.flipState u d t).ing.pages, poison := (s.flipState u d t).ing.poison,
      maps := (s.flipState u d t).ing.maps } } := by
  have hpages : s.flipState u d t = { s.recordFlip u d t with ing := { (s.recordFlip u d t).ing with
      pages := (s.flipState u d t).ing.pages, poison := (s.flipState u d t).ing.poison,
      maps := (s.flipState u d t).ing.maps } } := by
    unfold State.flipState
    split <;> rfl
  refine hpages.trans ?_
  generalize s.flipState u d t = x
  rw [State.recordFlip_only]
  rfl

theorem State.tensor_flipState : (s.flipState u d t).tensor u.ctx (dTensor d) = some (s.flippedTensor u d t) := by
  rw [State.flipState_only]
  exact State.tensor_setTensor_self ..

theorem State.isMirror_flipState (htensor : s.tensor u.ctx (dTensor d) = some t) (e : List Byte) :
    (s.flipState u d t).isMirror e = s.isMirror e := by
  rw [State.flipState_only]
  exact State.isMirror_setTensor htensor (twinParts_flippedTensor s u d t) e

theorem State.readsVersion_recordFlip (htensor : s.tensor u.ctx (dTensor d) = some t) (x i n : Nat) :
    (s.recordFlip u d t).readsVersion x i n = s.readsVersion x i n := by
  unfold State.recordFlip
  rw [State.countUpdate_only]
  exact State.readsVersion_setTensor htensor (twinParts_flippedTensor s u d t) x i n

theorem State.mirrorFlip_spec {v : Tensor} (htensor : s.tensor u.ctx (dTensor d) = some v) :
    (∃ a b r, (s.mirrorFlip u d).tensor u.ctx (dTensor d) =
      some { v with twinDig := a, theirDig := b, ver := { v.ver with resync := r } }) ∧
    s.mirrorFlip u d = { s with
      tensors := (s.mirrorFlip u d).tensors,
      pwt := { s.pwt with resyncing := (s.mirrorFlip u d).pwt.resyncing } } := by
  unfold State.mirrorFlip
  split
  · exact State.compareTwins_spec htensor
  · exact ⟨⟨_, _, _, htensor⟩, rfl⟩

theorem State.keepImage_only (im : Option (List Byte)) : s.keepImage u im = { s with
    ing := { s.ing with
      pages := (s.keepImage u im).ing.pages, poison := (s.keepImage u im).ing.poison,
      maps := (s.keepImage u im).ing.maps } } := by
  unfold State.keepImage
  split <;> rfl

theorem State.mem_pages_keepImage {p : Page} (im : Option (List Byte)) (hmem : p ∈ s.ing.pages)
    (hother : p.holder ≠ .image u.ctx u.cid) : p ∈ (s.keepImage u im).ing.pages := by
  unfold State.keepImage
  split
  · exact State.mem_pages_freePages.mpr ⟨hmem, beq_eq_false_iff_ne.mpr hother⟩
  · exact hmem

end

section
variable (s : State) (u : Update) (d : List Byte) (t : Tensor)

theorem State.mirrorFlip_of_owner (hmirror : s.isMirror d = false) : s.mirrorFlip u d = s := by
  rw [State.mirrorFlip, hmirror, if_neg Bool.false_ne_true]

theorem State.tensor_keepImage (im : Option (List Byte)) (x i : Nat) : (s.keepImage u im).tensor x i = s.tensor x i := by
  rw [State.keepImage_only]
  rfl

/-- A flip leaves the tensor's record as it is written, but for what the comparison of digests does to it. -/
theorem State.tensor_flipped : ∃ a b r, (s.flipped u d t).tensor u.ctx (dTensor d) =
    some { s.flippedTensor u d t with
      twinDig := a, theirDig := b, ver := { (s.flippedTensor u d t).ver with resync := r } } := by
  obtain ⟨⟨a, b, r, htensor⟩, -⟩ := State.mirrorFlip_spec (s.tensor_flipState (u := u) (d := d) (t := t))
  exact ⟨a, b, r, (State.tensor_keepImage ..).trans htensor⟩

theorem State.flipped_only : s.flipped u d t = { s with
    cnt := (s.recordFlip u d t).cnt
    tensors := (s.flipped u d t).tensors
    pwt := { s.pwt with
      finished := s.pwt.finished.filter (· != u), lastFlip := if u.changes then s.now else s.pwt.lastFlip,
      resyncing := (s.flipped u d t).pwt.resyncing }
    ing := { s.ing with
      pages := (s.flipped u d t).ing.pages, poison := (s.flipped u d t).ing.poison,
      maps := (s.flipped u d t).ing.maps } } := by
  obtain ⟨-, hmirror⟩ := State.mirrorFlip_spec (s.tensor_flipState (u := u) (d := d) (t := t))
  unfold State.flipped
  generalize State.flipImage _ u d _ = im
  rw [State.keepImage_only]
  generalize State.ing (State.keepImage _ u im) = g
  rw [hmirror]
  generalize State.mirrorFlip _ u d = m
  rw [State.flipState_only]
  rfl

theorem State.cntAt_flipped (a : Nat) : (s.flipped u d t).cntAt a = (s.recordFlip u d t).cntAt a := by
  rw [State.flipped_only]
  rfl

theorem State.cntAt_recordFlip :
    (s.recordFlip u d t).cntAt (aPwt + 0x10) = s.cntAt (aPwt + 0x10) + (if u.changes then 1 else 0) ∧
    (s.recordFlip u d t).cntAt (aPwt + 0x14) = s.cntAt (aPwt + 0x14) + (if u.changes then 0 else 1) ∧
    (s.recordFlip u d t).cntAt (aPwt + 0x18) = s.cntAt (aPwt + 0x18) + (if statusOf u.conds = stNonfinite then 1 else 0) :=
  State.cntAt_countUpdate ..

/-- At the owner no digests are compared. -/
theorem State.flipped_of_owner {s : State} {u : Update} {d : List Byte} {t : Tensor}
    (htensor : s.tensor u.ctx (dTensor d) = some t) (hmirror : s.isMirror d = false) :
    (s.flipped u d t).tensor u.ctx (dTensor d) = some (commitTensor t u (dStep d)) ∧
    (s.flipped u d t).pwt.resyncing = s.pwt.resyncing := by
  have howner := (State.isMirror_flipState htensor d).trans hmirror
  have hwritten : s.flippedTensor u d t = commitTensor t u (dStep d) := by
    rw [State.flippedTensor, hmirror, Bool.and_false, if_neg Bool.false_ne_true]
  unfold State.flipped
  rw [State.mirrorFlip_of_owner _ _ _ howner]
  refine ⟨?_, ?_⟩
  · rw [State.tensor_keepImage, State.tensor_flipState, hwritten]
  · rw [State.keepImage_only, State.flipState_only]

theorem State.mem_pages_flipped {p : Page} (hmem : p ∈ (s.flipState u d t).ing.pages)
    (hother : p.holder ≠ .image u.ctx u.cid) : p ∈ (s.flipped u d t).ing.pages := by
  obtain ⟨-, hmirror⟩ := State.mirrorFlip_spec (s.tensor_flipState (u := u) (d := d) (t := t))
  refine State.mem_pages_keepImage _ ?_ hother
  rw [hmirror]
  exact hmem

end

/-! ### The flip as it is answered -/

/-- Where a tensor has new values, what is returned does not depend on the state (10 Table 10.6). -/
theorem State.returns_of_changed (s x : State) (d : List Byte) (conds : BitVec 16) :
    x.returns d conds true = s.returns d conds true := by
  unfold State.returns
  simp only [Bool.true_or]

theorem exec_flip_of_due {s : State} {u : Update} (hon : s.on = true)
    (hdue : s.pwt.finished.find? (fun u => s.flipDue u) = some u) : exec .flip s = .next (s.flip u) := by
  show execFlip s = _
  unfold execFlip
  rw [hdue]
  exact due_of_true hon

/-- A flip that neither an error, nor a LOST tensor, nor a fenced plan ends is settled with its image. -/
theorem exec_flip_of_sound {s : State} {u : Update} {k : Nat} {c : Coll} {t : Tensor} (hon : s.on = true)
    (hdue : s.pwt.finished.find? (fun u => s.flipDue u) = some u) (hfind : s.findColl u.ctx u.cid = some k)
    (hcoll : s.coll k = some c) (htensor : s.tensor u.ctx (dTensor c.desc) = some t) (hparts : u.partFail = 0)
    (hlost : t.ver.lost = false) (hplan : (s.ctx u.ctx).planFenced = false) :
    exec .flip s = .next ((s.flipped u c.desc t).settle k u.conds u.pdig u.partFail u.lowest (s.flipImage u c.desc t)
      (commitTensor t u (dStep c.desc)).ver.version) := by
  have hsound : (u.partFail != 0 || t.ver.lost || (s.ctx u.ctx).planFenced) = false := by
    rw [hparts, hlost, hplan]
    rfl
  rw [exec_flip_of_due hon hdue, State.flip_of_held hfind hcoll htensor, hsound, if_neg Bool.false_ne_true]

/-! ### Copies of the twin's state (10 R282, R283) -/

theorem State.not_mem_lost_ownerBack (s : State) (a n : Nat) : a ∉ (s.ownerBack a n).flt.lost := by
  simp [State.ownerBack]

theorem State.rejoined_spec (s : State) (k : Nat) :
    k ∉ (s.rejoined k).flt.rejoin ∧
    (s.flt.rejoin = [k] → s.addr ∉ (s.rejoined k).flt.lost ∧
      (s.rejoined k).flt.acts = s.flt.acts.map (fun e => if e.1 = s.addr then (e.1, some (e.2.getD s.now)) else e)) ∧
    s.rejoined k = { s with flt := { s.flt with
      rejoin := (s.rejoined k).flt.rejoin, lost := (s.rejoined k).flt.lost, acts := (s.rejoined k).flt.acts } } := by
  have hgone : k ∉ s.flt.rejoin.filter (· != k) := by simp
  unfold State.rejoined
  dsimp only
  refine ⟨?_, fun hlast => ?_, ?_⟩
  · split <;> exact hgone
  · rw [hlast, if_pos (by simp)]
    exact ⟨State.not_mem_lost_ownerBack _ s.addr s.now, rfl⟩
  · split <;> rfl

/-- What a copy of the partner's makes of a tensor: the takeover ends, or the copy is installed where the record asks for it. -/
def rejoinedTensor (t : Tensor) (c : TwinCopy) : Tensor :=
  if t.acting then { t with acting := false }
  else if t.ver.reexec ∨ t.ver.lost ∨ t.ver.version < c.version.toNat then installCopy t c else t

/-- The tensor of a copy that is complete, and whether this Fixus acts still for another one. -/
def State.installRejoin (s : State) (c : TwinCopy) (t : Tensor) : State :=
  let s' := s.setTensor c.ctx.toNat c.tensor.toNat (rejoinedTensor t c)
  { s' with pwt := { s.pwt with takeover := s'.tensors.any (fun e => e.2.acting) } }

theorem exec_rejoinCopyDone_of_some {s : State} {c : TwinCopy} {t : Tensor} (hon : s.on = true)
    (htensor : s.tensor c.ctx.toNat c.tensor.toNat = some t) :
    exec (.rejoinCopyDone c) s = .next (if s.flt.rejoin.contains (tkey c.ctx.toNat c.tensor.toNat)
      then (s.installRejoin c t).rejoined (tkey c.ctx.toNat c.tensor.toNat) else s.installRejoin c t) := by
  show execRejoinCopyDone c s = _
  unfold execRejoinCopyDone
  dsimp only
  rw [htensor]
  dsimp only
  rw [hon]
  unfold State.installRejoin rejoinedTensor
  simp only [Bool.or_eq_true, decide_eq_true_eq, or_assoc]
  rfl

theorem State.setTensor_setTensor (s : State) (x i : Nat) (v w : Tensor) :
    (s.setTensor x i v).setTensor x i w = s.setTensor x i w := by
  simp only [State.setTensor, tset_tset_self]

theorem exec_twinDigest_of_mirror {s : State} {x : Byte} {i : BitVec 16} {t : Tensor} (pd sd : BitVec 64) (hon : s.on = true)
    (htensor : s.tensor x.toNat i.toNat = some t) (hmirror : s.mirrorsNow t.entry = true) :
    exec (.twinDigest x i pd sd) s =
      .next ((s.setTensor x.toNat i.toNat { t with theirDig := some (pd, sd) }).compareTwins x.toNat i.toNat) := by
  show execTwinDigest x i pd sd s = _
  unfold execTwinDigest
  rw [htensor]
  dsimp only
  rw [hon, hmirror]
  rfl

theorem exec_twinDigest_of_flipped {s : State} {x : Byte} {i : BitVec 16} {t : Tensor} {a : BitVec 64 × BitVec 64}
    (pd sd : BitVec 64) (hon : s.on = true) (htensor : s.tensor x.toNat i.toNat = some t)
    (hmirror : s.mirrorsNow t.entry = true) (hours : t.twinDig = some a) :
    exec (.twinDigest x i pd sd) s = .next (if a = (pd, sd) then s.setTensor x.toNat i.toNat (t.compared (a != (pd, sd)))
      else (s.setTensor x.toNat i.toNat (t.compared (a != (pd, sd)))).askCopy x.toNat i.toNat) := by
  rw [exec_twinDigest_of_mirror pd sd hon htensor hmirror,
    State.compareTwins_of_both (State.tensor_setTensor_self ..) (by exact hours) rfl, State.setTensor_setTensor]
  rfl

theorem exec_resyncDone_of_asked {s : State} {c : TwinCopy} {t : Tensor} (hon : s.on = true)
    (htensor : s.tensor c.ctx.toNat c.tensor.toNat = some t)
    (hasked : (c.ctx.toNat, c.tensor.toNat) ∈ s.pwt.resyncing) :
    exec (.resyncDone c) s =
      let s' := (s.setTensor c.ctx.toNat c.tensor.toNat (installCopy t c)).bump (aPwt + 0x28) 1
      .next { s' with pwt := { s'.pwt with
        resyncing := s'.pwt.resyncing.filter (· != (c.ctx.toNat, c.tensor.toNat)) } } := by
  show execResyncDone c s = _
  unfold execResyncDone
  dsimp only
  rw [htensor]
  dsimp only
  rw [hon, List.contains_iff_mem.mpr hasked]
  rfl

/-- Settles O46: a flip that is due is `exec_flip_of_sound` or a failure (`State.flip_of_held`), of which `State.tensor_flipped` and
`State.flipped_only` say what it writes; the twins' digests are compared (`exec_twinDigest_of_flipped`), and copies installed
(`exec_resyncDone_of_asked`, `exec_rejoinCopyDone_of_some`). -/
theorem flipAndTwinCopies : Obligations.FlipAndTwinCopies := by
  refine ⟨fun s u k c t hon hdue hfind hcoll htensor hparts hlost hplan hchanges => ?_,
    fun s u k c t hon hdue hfind hcoll htensor hparts hlost hplan hchanges hmirror => ?_,
    fun s v u k c t hon hdue hfind hcoll htensor hunsound hv => ?_, fun s hnone => ?_,
    fun s x i pd sd p q t hon htensor hours hdiffer hmirror => ?_,
    fun s x i pd sd t hon htensor hours hmirror => ?_,
    fun s x i pd sd t hon htensor hmirror hours => ?_, fun s x i pd sd t htensor hmirror => ?_,
    fun s c t hon htensor hasked => ?_, fun s c t hon htensor => ?_⟩
  · have hexec := exec_flip_of_sound hon hdue hfind hcoll htensor hparts hlost hplan
    have hcommit := commitTensor_of_changes hchanges t (dStep c.desc)
    obtain ⟨a, b, r, hy⟩ := s.tensor_flipped u c.desc t
    have honly := s.flipped_only u c.desc t
    obtain ⟨hcount, -⟩ := s.cntAt_recordFlip u c.desc t
    refine ⟨_, s.flipImage u c.desc t, _, ?_, hy, congrArg Tensor.w hcommit, congrArg Tensor.m1 hcommit,
      congrArg Tensor.m2 hcommit, congrArg (fun t => t.ver.version) hcommit, congrArg (fun t => t.ver.lastStep) hcommit,
      congrArg (fun t => t.ver.pending) hcommit, ?_, ?_, ?_, ?_, fun hmirror => ?_, fun p n hlo hhi hmem => ?_,
      fun p hmem hreads => ?_, ?_⟩
    · exact hexec
    · show tResume (commitTensor t u (dStep c.desc)).entry = false
      rw [hcommit]
      exact tResume_clearResume _
    · rw [State.cntAt_flipped, hcount, hchanges, if_pos rfl]
    · rw [honly]
      exact if_pos hchanges
    · rw [State.flipImage, hchanges, State.returns_of_changed]
    · obtain ⟨htwin, hcopies⟩ := State.flipped_of_owner htensor hmirror
      have hdig := congrArg Tensor.twinDig hcommit
      exact ⟨(congrArg Tensor.twinDig (Option.some.inj (hy.symm.trans htwin))).trans hdig, hcopies⟩
    · refine State.mem_pages_flipped _ _ _ _ ?_ (by simp)
      rw [State.flipState, if_pos hchanges]
      refine State.mem_pages_flipPages_of_work hlo hhi ?_
      rw [State.recordFlip_only]
      exact hmem
    · refine State.mem_pages_flipped _ _ _ _ ?_ (by simp)
      rw [State.flipState, if_pos hchanges]
      refine State.mem_pages_flipPages_of_read ((State.readsVersion_recordFlip htensor ..).trans hreads) ?_
      rw [State.recordFlip_only]
      exact hmem
    · rw [if_pos hchanges] at honly
      rw [honly]
  · have hexec := exec_flip_of_sound hon hdue hfind hcoll htensor hparts hlost hplan
    obtain ⟨hw, hm1, hm2, hver⟩ := commitTensor_of_kept hchanges t (dStep c.desc)
    obtain ⟨htwin, hcopies⟩ := State.flipped_of_owner (d := c.desc) htensor hmirror
    have honly := s.flipped_only u c.desc t
    obtain ⟨-, hkept, hnonfinite⟩ := s.cntAt_recordFlip u c.desc t
    refine ⟨_, s.flipImage u c.desc t, _, ?_, htwin, hw, hm1, hm2, hver, ?_, ?_, ?_, ?_⟩
    · rw [hexec, hver]
    · rw [State.cntAt_flipped, hkept, hchanges, if_neg Bool.false_ne_true]
    · rw [State.cntAt_flipped, hnonfinite]
    · unfold State.flipImage
      split
      · exact .inr rfl
      · exact .inl rfl
    · rw [if_neg (ne_true_of_eq_false hchanges), hcopies] at honly
      rw [honly]
  · subst hv
    have hfails : (u.partFail != 0 || t.ver.lost || (s.ctx u.ctx).planFenced) = true := by
      simpa [or_assoc] using hunsound
    rw [exec_flip_of_due hon hdue, State.flip_of_held hfind hcoll htensor, hfails, if_pos rfl]
    rfl
  · show execFlip s = _
    unfold execFlip
    rw [List.find?_eq_none.mpr fun u hu => ne_true_of_eq_false (hnone u hu)]
  · have hne : (p, q) ≠ (pd, sd) := fun h => hdiffer.elim (· (Prod.mk.inj h).1) (· (Prod.mk.inj h).2)
    rw [exec_twinDigest_of_flipped pd sd hon htensor hmirror hours, if_neg hne, Tensor.compared, bne_iff_ne.mpr hne, Bool.or_true]
    rfl
  · rw [exec_twinDigest_of_flipped pd sd hon htensor hmirror hours, if_pos rfl, Tensor.compared, bne_self_eq_false, Bool.or_false]
  · rw [exec_twinDigest_of_mirror pd sd hon htensor hmirror,
      State.compareTwins_of_none (State.tensor_setTensor_self ..) (by exact .inl hours)]
  · show execTwinDigest x i pd sd s = _
    unfold execTwinDigest
    rw [htensor]
    dsimp only
    rw [hmirror, Bool.not_false, Bool.or_true, if_pos rfl]
  · have hexec := exec_resyncDone_of_asked hon htensor hasked
    rw [State.bump_only] at hexec
    refine ⟨_, installCopy t c, hexec, State.tensor_setTensor_self .., rfl, rfl, rfl, rfl, rfl, rfl, rfl, ?_, ?_, rfl⟩
    · simp
    · exact State.cntAt_bump_self ..
  · obtain ⟨hgone, hlast, honly⟩ := (s.installRejoin c t).rejoined_spec (tkey c.ctx.toNat c.tensor.toNat)
    have hexec := exec_rejoinCopyDone_of_some hon htensor
    split at hexec
    · refine ⟨_, rejoinedTensor t c, hexec, ?_, rfl, hgone, hlast, ?_⟩
      · rw [honly]
        exact State.tensor_setTensor_self ..
      · rw [honly]
        rfl
    · next hnone =>
      have hout : tkey c.ctx.toNat c.tensor.toNat ∉ s.flt.rejoin := fun h => hnone (List.contains_iff_mem.mpr h)
      refine ⟨_, rejoinedTensor t c, hexec, State.tensor_setTensor_self .., rfl, hout, fun h => ?_, rfl⟩
      exact absurd (h ▸ List.mem_singleton_self _) hout

end Sys2Proof.Machine

/-! An uncorrectable codeword in committed state (10 R277; 12 R328, R330, R333). -/

namespace Sys2Proof.Machine

/-! ### Records of the fault collector (14 R381, R382) -/

theorem fst_ne_of_tfind_none {α : Type} {t : Tbl α} {k : Nat} (hnone : tfind t k = none) {e : Nat × α} (he : e ∈ t) :
    e.1 ≠ k := by
  induction t with
  | nil => cases he
  | cons a t ih =>
    rw [tfind] at hnone
    split at hnone
    · cases hnone
    · next hne =>
      rcases List.mem_cons.mp he with rfl | he
      · exact hne
      · exact ih hnone he

@[simp] theorem State.pulse_flt (s : State) : s.pulse.flt = s.flt := by
  unfold State.pulse
  split <;> rfl

/-- The record that an error opens in its domain. -/
def State.newRec (s : State) (cls dk di src info : Nat) : Rec :=
  { index := s.flt.head % 2 ^ 32, escalated := false, timed := false, pulsed := decide (1 ≤ cls), st := 0, cls := cls,
    dkind := dk, dindex := di, source := src, lastSource := src, count := 1, first := s.now, last := s.now,
    classCount := s.now, gen := if dk = 1 then (s.ctx di).gen else 0, info0 := info, info1 := info }

/-- An error in a domain without an open record has one opened for it at the head of the log. -/
theorem State.record_of_new {s : State} {dk di : Nat} (cls src info : Nat) (hnone : s.openRec dk di = none)
    (hhead : tfind s.flt.recs (s.flt.head % 262144) = none) : (s.record cls dk di src info).flt =
      { s.flt with
        recs := tset s.flt.recs (s.flt.head % 262144) (s.newRec cls dk di src info), head := s.flt.head + 1 } := by
  unfold State.record
  rw [hnone]
  dsimp only
  rw [hhead, if_neg Bool.false_ne_true]
  split
  · exact State.pulse_flt _
  · rfl

/-- An error of another kind of domain leaves a record that does not stand at the head of the log. -/
theorem State.tfind_record_of_other {s : State} {n dk : Nat} (cls di src info : Nat)
    (hkind : ∀ e ∈ s.flt.recs, e.1 = n → e.2.dkind ≠ dk) (hhead : s.flt.head % 262144 ≠ n) :
    tfind (s.record cls dk di src info).flt.recs n = tfind s.flt.recs n := by
  unfold State.record
  split
  · next slot hopen =>
    have hslot : slot ≠ n := by
      obtain ⟨e, hfind, rfl⟩ := Option.map_eq_some_iff.mp hopen
      intro heq
      have hdk := List.find?_some hfind
      simp only [Bool.and_eq_true, beq_iff_eq] at hdk
      exact hkind e (List.mem_of_find?_eq_some hfind) heq hdk.1.2
    dsimp only
    split
    · rw [State.pulse_flt]
      exact tfind_tset.trans (if_neg hslot)
    · exact tfind_tset.trans (if_neg hslot)
  · dsimp only
    split
    all_goals
      split
      · rw [State.bump_only]
        split <;> rfl
      · split
        · rw [State.pulse_flt]
          exact tfind_tset.trans (if_neg hhead)
        · exact tfind_tset.trans (if_neg hhead)

/-! ### Kernels that lose a page (12 Table 12.6) -/

theorem State.hitKernel_only (s : State) (k p : Nat) : s.hitKernel k p = { s with slots := (s.hitKernel k p).slots } := by
  unfold State.hitKernel
  split
  · rfl
  · split
    · rfl
    · dsimp only
      split <;> rfl

theorem State.failKernels_only (s : State) (p : Nat) : s.failKernels p = { s with slots := (s.failKernels p).slots } := by
  have hrest := foldl_apply_eq (fun t : State => { t with slots := [] }) (f := fun t (e : Nat × Coll) => t.hitKernel e.1 p)
    (l := s.slots) (s := s) fun t e => by rw [State.hitKernel_only]
  exact congrArg (fun t : State => { t with slots := (s.failKernels p).slots }) hrest

/-! ### Rows and their channel -/

theorem State.stack_setChan_self (s : State) (k c : Nat) (v : Chan) :
    (s.setChan k c v).stack k = { s.stack k with chans := tset (s.stack k).chans c v } := State.stack_setStack_self ..

@[simp] theorem State.chan_setChan_self (s : State) (k c : Nat) (v : Chan) : (s.setChan k c v).chan k c = v := by
  rw [State.chan, State.stack_setChan_self]
  exact tget_tset.trans (if_pos rfl)

/-- What decides of a row that failed: the spare rows used in its stack, and the rows that failed in its channel (12 R330, R334). -/
def State.rowView (s : State) (k c : Nat) : Tbl Nat × List (Nat × Nat) := ((s.stack k).sparesUsed, (s.chan k c).ueRows)

/-- A run of codewords corrected on one data line ends (12 R334). -/
def State.endRun (s : State) (k c : Nat) : State :=
  if (s.chan k c).lineRun = none then s else s.setChan k c { s.chan k c with lineRun := none }

theorem State.endRun_only (s : State) (k c : Nat) :
    s.endRun k c = { s with ing := { s.ing with stks := (s.endRun k c).ing.stks } } := by
  unfold State.endRun
  split <;> rfl

theorem State.endRun_rowView (s : State) (k c : Nat) : (s.endRun k c).rowView k c = s.rowView k c := by
  unfold State.endRun
  split
  · rfl
  · rw [State.rowView, State.chan_setChan_self, State.stack_setChan_self]
    rfl

/-- One uncorrectable codeword in a row is found, and its row fails. -/
theorem State.wordsRead_of_uncorrectable (s : State) (k c : Nat) (r : RowAt) (a : Option Nat) :
    s.wordsRead k c r [(a, .uncorrectable)] = ((s.endRun k c).foundUe k c r a).rowFailed k c r := rfl

/-! ### The codeword is logged (12 R328, R333) -/

/-- An uncorrectable codeword is counted and logged, and kept as poison. -/
def State.logUe (s : State) (k c : Nat) (r : RowAt) (a : Nat) : State :=
  let s := (s.bump (aIng k + 0x14) 1).errLog k c 1 r
  let ch := s.chan k c
  let s := s.setChan k c { ch with ues := ch.ues.filter (fun t => decide (s.clk < t + 1000000000)) ++ [s.clk] }
  { s with ing := { s.ing with poison := s.ing.poison.filter (· != a / 32) ++ [a / 32] } }

theorem State.foundUe_of_some (s : State) (k c : Nat) (r : RowAt) (a : Nat) :
    s.foundUe k c r (some a) = (s.logUe k c r a).outcome a := rfl

section
variable (s : State) (k c : Nat) (r : RowAt) (a : Nat)

theorem State.logUe_only : s.logUe k c r a = { s with
    cnt := (s.bump (aIng k + 0x14) 1).cnt
    ing := { s.ing with stks := (s.logUe k c r a).ing.stks, poison := (s.logUe k c r a).ing.poison } } := by
  unfold State.logUe
  rw [State.bump_only]
  rfl

theorem State.mem_poison_logUe : a / 32 ∈ (s.logUe k c r a).ing.poison :=
  List.mem_append_right _ (List.mem_singleton_self _)

theorem State.logUe_rowView : (s.logUe k c r a).rowView k c = s.rowView k c := by
  show State.rowView (State.setChan ..) k c = _
  rw [State.rowView, State.chan_setChan_self, State.stack_setChan_self]
  dsimp only [State.errLog, State.chan]
  rw [State.stack_setStack_self, State.bump_only]
  rfl

end

/-- A codeword of a tensor's committed state makes the tensor LOST, with source 0x0602 in its context (10 R277, 12 Table 12.6). -/
theorem State.outcome_of_state {s : State} {a x i n : Nat} {t : Tensor} (hpool : addrPage a < planLo)
    (hholder : s.holderAt (addrPage a) = some (.state x i n)) (htensor : s.tensor x i = some t) :
    s.outcome a = ((s.setTensor x i t.markLost).failKernels (addrPage a)).record 1 1 x 0x0602 a := by
  have hlog : ¬ logLo ≤ addrPage a := by unfold logLo; unfold planLo at hpool; omega
  have hmap : ¬ mapLo ≤ addrPage a := by unfold mapLo; unfold planLo at hpool; omega
  unfold State.outcome
  dsimp only
  rw [if_neg hlog, if_neg hmap, if_neg (Nat.not_le.mpr hpool), hholder]
  dsimp only
  rw [htensor]
  rfl

/-! ### The row is spared (12 R330) -/

theorem foldl_add_le {f : Nat → Nat} (hle : ∀ x, f x ≤ 1) (l : List Nat) (n : Nat) :
    l.foldl (fun n x => n + f x) n ≤ n + l.length := by
  induction l generalizing n with
  | nil => exact Nat.le_refl n
  | cons x l ih =>
    have hx := hle x
    have hl := ih (n + f x)
    rw [List.foldl_cons, List.length_cons]
    omega

/-- One spare row used exhausts no bank group. -/
theorem State.exhausted_of_one {s : State} {k b : Nat} (c : Nat) (hused : (s.stack k).sparesUsed = [(b, 1)]) :
    s.exhausted k c = 0 := by
  have hle (x : Nat) : tget [(b, 1)] x 0 ≤ 1 := by
    unfold tget tfind
    split
    · exact Nat.le_refl 1
    · exact Nat.zero_le 1
  refine List.length_eq_zero_iff.mpr (List.filter_eq_nil_iff.mpr fun g _ => ?_)
  have hfour := foldl_add_le (fun x => hle (192 * c + 16 * (g / 4) + 4 * (g % 4) + x)) (List.range 4) 0
  rw [List.length_range] at hfour
  rw [State.spareLeft, hused, beq_iff_eq]
  omega

/-- A spare row of a stack that used none stands in the row's place. -/
def State.redirectRow (s : State) (k c : Nat) (r : RowAt) : State :=
  s.setStack k { s.stack k with
    sparesUsed := tset (s.stack k).sparesUsed (r.bankNo c) (tget (s.stack k).sparesUsed (r.bankNo c) 0 + 1),
    rowCe := tdel (s.stack k).rowCe (rowKey c r),
    copying := tset ((s.stack k).copying.filter (fun e => decide (s.clk < e.2.1 + 2000))) (rowKey c r)
      (s.clk, tfind (s.stack k).redirect (rowKey c r)),
    redirect := tset (s.stack k).redirect (rowKey c r) (tget (s.stack k).sparesUsed (r.bankNo c) 0) }

theorem State.corrected_only (s : State) (k c kind : Nat) (r : RowAt) : s.corrected k c kind r = { s with
    cnt := (s.corrected k c kind r).cnt
    flt := (s.corrected k c kind r).flt
    ing := { s.ing with stks := (s.corrected k c kind r).ing.stks } } := by
  unfold State.corrected
  rw [State.record_classC_only]
  rfl

theorem State.sparesUsed_corrected (s : State) (k c kind : Nat) (r : RowAt) :
    ((s.corrected k c kind r).stack k).sparesUsed = (s.stack k).sparesUsed := by
  have hlogged : ((s.errLog k c kind r).stack k).sparesUsed = (s.stack k).sparesUsed := by
    rw [State.errLog, State.stack_setStack_self]
  unfold State.corrected
  rw [State.record_classC_only]
  exact hlogged

/-- The first spare row of a stack is taken, counted and recorded, and the channel stays. -/
theorem State.spareRow_of_unused {s : State} {k : Nat} (c : Nat) (r : RowAt) (hused : (s.stack k).sparesUsed = []) :
    s.spareRow k c r = ((s.redirectRow k c r).bump (aIng k + 0x18) 1).corrected k c 2 r ∧
    ((s.spareRow k c r).stack k).sparesUsed = [(r.bankNo c, 1)] := by
  have hfirst : tget (s.stack k).sparesUsed (r.bankNo c) 0 = 0 := by
    rw [hused]
    rfl
  have hone : ((((s.redirectRow k c r).bump (aIng k + 0x18) 1).corrected k c 2 r).stack k).sparesUsed =
      [(r.bankNo c, 1)] := by
    rw [State.sparesUsed_corrected, State.bump_only]
    refine (congrArg Stack.sparesUsed (State.stack_setStack_self ..)).trans ?_
    rw [hfirst, hused]
    rfl
  have hspared : s.spareRow k c r = ((s.redirectRow k c r).bump (aIng k + 0x18) 1).corrected k c 2 r := by
    unfold State.spareRow
    refine (if_pos (by rw [hfirst]; decide)).trans (if_neg ?_)
    have hleft := State.exhausted_of_one c hone
    unfold State.redirectRow at hleft
    rw [hleft]
    decide
  exact ⟨hspared, hspared ▸ hone⟩

/-- Fewer than 16 rows that failed leave the channel in service (12 R334). -/
theorem State.rowFailed_of_few {s : State} {k c : Nat} (r : RowAt) (hfew : (s.chan k c).ueRows.length < 15) : ∃ rows,
    s.rowFailed k c r = (s.setChan k c { s.chan k c with ueRows := rows }).spareRow k c r := by
  have hrecent : (recentRows (s.chan k c) s.clk).length ≤ (s.chan k c).ueRows.length := List.length_filter_le ..
  refine ⟨_, if_neg ?_⟩
  split
  · omega
  · rw [List.length_append, List.length_singleton]
    omega

/-! ### The codeword, and its row -/

/-- What an uncorrectable codeword of a tensor's committed state does before its row is spared. -/
theorem State.foundUe_of_state {s v : State} {k c a x i n : Nat} {r : RowAt} {t : Tensor}
    (hv : v = s.foundUe k c r (some a)) (hpool : addrPage a < planLo)
    (hholder : s.holderAt (addrPage a) = some (.state x i n)) (htensor : s.tensor x i = some t)
    (hopen : s.openRec 1 x = none) (hhead : tfind s.flt.recs (s.flt.head % 262144) = none) :
    v.tensor x i = some t.markLost ∧ a / 32 ∈ v.ing.poison ∧ v.rowView k c = s.rowView k c ∧
    (∀ b, b ≠ aFlt + 0x1C → v.cntAt b = s.cntAt b + if aIng k + 0x14 = b then 1 else 0) ∧
    (∃ e : Rec, v.flt = { s.flt with recs := tset s.flt.recs (s.flt.head % 262144) e, head := s.flt.head + 1 } ∧
      e.source = 0x0602 ∧ e.cls = 1 ∧ e.dkind = 1 ∧ e.dindex = x) ∧
    v = { s with
      cnt := v.cnt, tensors := v.tensors, flt := v.flt, pins := v.pins, slots := v.slots,
      ing := { s.ing with stks := v.ing.stks, poison := v.ing.poison } } := by
  have hpoison := s.mem_poison_logUe k c r a
  have hview := s.logUe_rowView k c r a
  have hlog := s.logUe_only k c r a
  rw [State.foundUe_of_some] at hv
  generalize s.logUe k c r a = u at *
  have hlost : v = ((u.setTensor x i t.markLost).failKernels (addrPage a)).record 1 1 x 0x0602 a := by
    refine hv.trans (State.outcome_of_state (n := n) hpool ?_ ?_)
    · rw [hlog]
      exact hholder
    · rw [hlog]
      exact htensor
  rw [State.failKernels_only] at hlost
  generalize State.slots (State.failKernels _ _) = slots at hlost
  generalize hw : ({ u.setTensor x i t.markLost with slots := slots } : State) = w at hlost
  have htensor' : w.tensor x i = some t.markLost := by
    rw [← hw]
    exact State.tensor_setTensor_self ..
  have hpoison' : a / 32 ∈ w.ing.poison := by
    rw [← hw]
    exact hpoison
  have hview' : w.rowView k c = s.rowView k c := by
    rw [← hw]
    exact hview
  have hcnt (b : Nat) : w.cntAt b = (s.bump (aIng k + 0x14) 1).cntAt b := by
    rw [← hw, hlog]
    rfl
  have hflt : w.flt = s.flt := by
    rw [← hw, hlog]
    rfl
  have hframe : w = { s with
      cnt := w.cnt, tensors := w.tensors, slots := w.slots,
      ing := { s.ing with stks := w.ing.stks, poison := w.ing.poison } } := by
    rw [← hw, hlog]
    rfl
  have hopen' : w.openRec 1 x = none := by
    rw [State.openRec, hflt]
    exact hopen
  have honly := State.record_only w 1 1 x 0x0602 a
  have hflt' := State.record_of_new 1 0x0602 a hopen' (by rw [hflt]; exact hhead)
  have hcnt' (b : Nat) (hb : b ≠ aFlt + 0x1C) := State.cntAt_record w 1 1 x 0x0602 a hb
  rw [← hlost] at honly hflt' hcnt'
  rw [hflt] at hflt'
  refine ⟨?_, ?_, ?_, fun b hb => ?_, ⟨_, hflt', rfl, rfl, rfl, rfl⟩, ?_⟩
  · rw [honly]
    exact htensor'
  · rw [honly]
    exact hpoison'
  · rw [honly]
    exact hview'
  · rw [hcnt' b hb, hcnt, State.cntAt_bump]
  · rw [honly, hframe]

/-- What the failure of a row does where its stack has used no spare row. -/
theorem State.rowFailed_of_unused {s v : State} {k c : Nat} {r : RowAt} (hv : v = s.rowFailed k c r)
    (hused : (s.stack k).sparesUsed = []) (hfew : (s.chan k c).ueRows.length < 15) :
    (v.stack k).sparesUsed = [(r.bankNo c, 1)] ∧
    (∀ b, b ≠ aFlt + 0x1C → v.cntAt b = s.cntAt b + if aIng k + 0x18 = b then 1 else 0) ∧
    (∀ n, (∀ e ∈ s.flt.recs, e.1 = n → e.2.dkind ≠ 7) → s.flt.head % 262144 ≠ n →
      tfind v.flt.recs n = tfind s.flt.recs n) ∧
    v = { s with cnt := v.cnt, flt := v.flt, ing := { s.ing with stks := v.ing.stks } } := by
  obtain ⟨rows, hrows⟩ := State.rowFailed_of_few r hfew
  have hused' : ((s.setChan k c { s.chan k c with ueRows := rows }).stack k).sparesUsed = [] := by
    rw [State.stack_setChan_self]
    exact hused
  obtain ⟨hspared, hone⟩ := State.spareRow_of_unused c r hused'
  rw [← hrows, ← hv] at hspared hone
  generalize hw : State.bump (State.redirectRow ..) (aIng k + 0x18) 1 = w at hspared
  have hcnt (b : Nat) : w.cntAt b = s.cntAt b + if aIng k + 0x18 = b then 1 else 0 := by
    rw [← hw, State.cntAt_bump]
    rfl
  have hframe : w = { s with cnt := w.cnt, ing := { s.ing with stks := w.ing.stks } } := by
    rw [← hw, State.bump_only]
    rfl
  have honly := w.corrected_only k c 2 r
  rw [← hspared] at honly
  refine ⟨hone, fun b hb => ?_, fun n hkind hhead => ?_, ?_⟩
  · rw [hspared, State.corrected, State.cntAt_record _ _ _ _ _ _ hb]
    exact hcnt b
  · rw [hspared, State.corrected]
    refine (State.tfind_record_of_other 0 (16 * k + c) 0x0601 _ ?_ ?_).trans ?_
    · rw [hframe]
      exact hkind
    · rw [hframe]
      exact hhead
    · rw [hframe]
      rfl
  · rw [honly, hframe]

/-- An access to a stack in service reads the codeword where the remap table has put its page. -/
theorem exec_uncorrectableCodeword_of_served {s : State} {a : BitVec 40} {word : List Byte} {q k : Nat} (hon : s.on = true)
    (hword : codewordOf word = .uncorrectable) (haddr : addrExists a.toNat = true)
    (hq : q = s.physPage (addrPage a.toNat)) (hk : k = pageStack q) (hfenced : (s.stack k).fenced = false) :
    exec (.uncorrectableCodeword a word) s = .next (((s.endRun k (pageChan q)).foundUe k (pageChan q)
      (rowOfAddr (65536 * q + a.toNat % 65536)) (some a.toNat)).rowFailed k (pageChan q)
      (rowOfAddr (65536 * q + a.toNat % 65536))) := by
  have hfound : s.wordAt (some a.toNat) word = .uncorrectable := by
    unfold State.wordAt
    dsimp only
    split
    · rfl
    · exact hword
  subst hq hk
  refine (due_of_true ?_).trans (congrArg _ ?_)
  · rw [hon, haddr, hfenced]
    rfl
  · rw [hfound, State.wordsRead_of_uncorrectable]

/-- Settles O49: the codeword makes its tensor LOST (`State.foundUe_of_state`), then its row is spared (`State.rowFailed_of_unused`),
whose record of class C leaves the one of the context (`State.tfind_record_of_other`). -/
theorem uncorrectableStateIsLost : Obligations.UncorrectableStateIsLost := by
  intro s a word p q k c x i n t hon hword haddr hp hq hk hc hfenced hpool hholder htensor hused hfew hopen hhead
  subst hp hc
  have hexec := exec_uncorrectableCodeword_of_served hon hword haddr hq hk hfenced
  have hrun := s.endRun_only k (pageChan q)
  have hview := s.endRun_rowView k (pageChan q)
  generalize rowOfAddr (65536 * q + a.toNat % 65536) = r at *
  generalize pageChan q = c at *
  generalize s.endRun k c = v at *
  obtain ⟨hlost, hpoison, hview', hcnt, ⟨e, hflt, hsource, hcls, hdk, hdi⟩, hframe⟩ :=
    State.foundUe_of_state (s := v) (k := k) (c := c) (r := r) rfl hpool (by rw [hrun]; exact hholder)
      (by rw [hrun]; exact htensor) (by rw [hrun]; exact hopen) (by rw [hrun]; exact hhead)
  generalize v.foundUe k c r (some a.toNat) = w at *
  obtain ⟨hspares, hrows⟩ := Prod.mk.inj (hview'.trans hview)
  obtain ⟨hone, hcnt', hkeep, hframe'⟩ := State.rowFailed_of_unused (s := w) (k := k) (c := c) (r := r) rfl
    (hspares.trans hused) (by rw [hrows]; exact hfew)
  generalize w.rowFailed k c r = u at *
  have hstands : v.flt = s.flt := by rw [hrun]
  rw [hstands] at hflt
  have hcount (b : Nat) : v.cntAt b = s.cntAt b := by
    rw [hrun]
    rfl
  have hothers (f : Nat × Rec) (hf : f ∈ w.flt.recs) (hslot : f.1 = s.flt.head % 262144) : f.2.dkind ≠ 7 := by
    rw [hflt] at hf
    rcases mem_tset hf with rfl | hold
    · rw [hdk]
      decide
    · exact absurd hslot (fst_ne_of_tfind_none hhead hold)
  have hnext : w.flt.head % 262144 ≠ s.flt.head % 262144 := by
    rw [hflt]
    show (s.flt.head + 1) % 262144 ≠ _
    omega
  have hapart : aIng k + 0x18 ≠ aIng k + 0x14 := by omega
  have hfar (b : Nat) : aIng k + b ≠ aFlt + 0x1C := by
    unfold aIng aFlt
    omega
  refine ⟨u, hexec, ?_, ?_, ?_, ?_, ⟨e, ?_, hsource, hcls, hdk, hdi⟩, ?_, ?_⟩
  · rw [hframe']
    exact congrArg (Option.map fun t => t.ver.lost) hlost
  · rw [hframe']
    exact hpoison
  · rw [hcnt' _ (hfar 0x14), hcnt _ (hfar 0x14), hcount, if_pos rfl, if_neg hapart]
  · rw [hcnt' _ (hfar 0x18), hcnt _ (hfar 0x18), hcount, if_pos rfl, if_neg hapart.symm]
  · rw [hkeep (s.flt.head % 262144) hothers hnext, hflt]
    exact tfind_tset.trans (if_pos rfl)
  · rw [hone]
    exact congrArg (Option.getD · 0) (if_pos rfl)
  · rw [hframe', hframe, hrun]

end Sys2Proof.Machine

/-! Clocks of the clusters and temperatures (02 R44; 11 R292 to R294; 14 R388; 16 Table 16.8). -/

namespace Sys2Proof.Machine

/-! ### Class X (14 R388) -/

/-- What does not read ports, lanes, cells and counters is left when every port goes. -/
theorem State.leaveAll_apply {β : Type} (g : State → β) (s : State) (reason : Nat) (st : PortState)
    (h : ∀ (t : State) ports aux lanes cnt cells, g { t with
      ports := ports, aux := aux, lanes := lanes, cnt := cnt, sol := { t.sol with cells := cells } } = g t) :
    g (s.leaveAll reason st) = g s := by
  have hcells (t : State) (id : Nat) : g (t.freeCells id) = g t := by
    rw [State.freeCells_only]
    exact h t _ t.aux t.lanes t.cnt _
  have hcopy (t : State) (k : Nat) : g (t.dropCopy k) = g t := by
    rw [State.dropCopy_only]
    exact h t _ t.aux t.lanes t.cnt _
  have hbump (t : State) (a n : Nat) : g (t.bump a n) = g t := by
    rw [State.bump_only]
    exact h t t.ports t.aux t.lanes _ t.sol.cells
  have hleave (t : State) (p : Nat) : g (t.sendLeave p reason) = g t := by
    rw [(t.sendLeave_spec p reason).2.2]
    exact h t _ t.aux _ t.cnt t.sol.cells
  have hidle (t : State) (p : Nat) : g (t.idlePort p st) = g t := by
    rw [State.idlePort_only]
    exact h t _ t.aux _ t.cnt t.sol.cells
  have hunacked (t : State) (p : Nat) : g (t.dropUnacked p) = g t :=
    foldl_apply_eq g fun u f => by
      split
      · simp only [apply_ite g, hcopy, hbump, ite_self]
      · rfl
  have hasm (t : State) (l : List Asm) : g (l.foldl (fun t a => if a.eof then t else t.freeCells a.id) t) = g t :=
    foldl_apply_eq g fun u a => by simp only [apply_ite g, hcells, ite_self]
  have hgone (t : State) (p : Nat) (v : PortAux) : g ((t.setPaux p v).idlePort p st) = g t :=
    (hidle ..).trans (h t t.ports _ t.lanes t.cnt t.sol.cells)
  refine foldl_apply_eq g fun t p => ?_
  split
  · exact (hgone ..).trans ((hasm ..).trans ((hunacked ..).trans (hleave ..)))
  · exact (hgone ..).trans ((hasm ..).trans ((hunacked ..).trans (hleave ..)))
  · exact (hidle ..).trans (hleave ..)
  · rfl

/-- What reads neither these parts nor the fault collector, the pins, the flash and the system's registers is left by class X. -/
theorem State.enterX_apply {β : Type} (g : State → β) (s : State) (src info : Nat)
    (h : ∀ (t : State) ports aux lanes cnt cells flt pins flash sys, g { t with
      ports := ports, aux := aux, lanes := lanes, cnt := cnt, sol := { t.sol with cells := cells },
      flt := flt, pins := pins, flash := flash, sys := sys } = g t) : g (s.enterX src info) = g s := by
  unfold State.enterX
  split
  · rfl
  · have hrecord : g (s.record 3 0 0 src info) = g s := by
      rw [State.record_only]
      exact h s s.ports s.aux s.lanes _ s.sol.cells _ _ s.flash s.sys
    have hleave : g ((s.record 3 0 0 src info).leaveAll 1 .down) = g (s.record 3 0 0 src info) :=
      State.leaveAll_apply g _ 1 .down fun t ports aux lanes cnt cells =>
        h t ports aux lanes cnt cells t.flt t.pins t.flash t.sys
    dsimp only
    generalize (s.record 3 0 0 src info).leaveAll 1 .down = u at hleave ⊢
    exact (h u u.ports u.aux _ u.cnt u.sol.cells _ _ _ _).trans (hleave.trans hrecord)

/-- Class X is entered, and FAULT_N is held low. -/
theorem State.enterX_spec {s : State} (hclass : s.sys.classX = false) (src info : Nat) :
    (s.enterX src info).sys.classX = true ∧ (s.enterX src info).pins.faultLow = true := by
  unfold State.enterX
  rw [if_neg (ne_true_of_eq_false hclass)]
  exact ⟨rfl, rfl⟩

theorem State.classX_of_on {s : State} (hon : s.on = true) : s.sys.classX = false := by
  simpa using (Bool.and_eq_true_iff.mp hon).1

/-! ### TEMP_ALERT_N (11 R294; 16 R449, Table 16.8) -/

/-- A source pulls the line from its threshold on, and until it has fallen 3 °C below it. -/
theorem State.mem_tempSrc_tempRead (s : State) (x : TempSource) (temp : Nat) : x ∈ (s.tempRead x temp).pins.tempSrc ↔
    s.alertAt x ≤ temp ∨ (x ∈ s.pins.tempSrc ∧ s.alertAt x < temp + 3) := by
  have hrest : x ∉ s.pins.tempSrc.filter (· != x) := by simp
  simp only [State.tempRead, State.alertSources, Bool.or_eq_true, Bool.and_eq_true, decide_eq_true_eq,
    List.contains_iff_mem]
  split
  · next hlow => exact iff_of_true (List.mem_append_right _ (List.mem_singleton_self x)) hlow
  · next hhigh => exact iff_of_false hrest hhigh

/-- A reading leaves what the other sources do. -/
theorem State.mem_tempSrc_tempRead_of_ne {s : State} {x y : TempSource} (temp : Nat) (hne : y ≠ x) :
    y ∈ (s.tempRead x temp).pins.tempSrc ↔ y ∈ s.pins.tempSrc := by
  simp only [State.tempRead, State.alertSources]
  split <;> simp [hne]

/-- The temperature that a cluster or a stack keeps of a reading. -/
def State.noteTemp (s : State) (x : TempSource) (temp : Nat) : State :=
  match x with
  | .cluster k => s.setCluster k.toNat { s.cluster k.toNat with temp := temp }
  | .ingot k => s.setStack k.toNat { s.stack k.toNat with temp := temp }
  | .core _ => s

theorem State.noteTemp_only (s : State) (x : TempSource) (temp : Nat) : s.noteTemp x temp = { s with
    stl := { s.stl with clusters := (s.noteTemp x temp).stl.clusters },
    ing := { s.ing with stks := (s.noteTemp x temp).ing.stks } } := by
  cases x <;> rfl

theorem exec_tempAlert {s : State} (x : TempSource) (temp : Byte) (hon : s.on = true) :
    exec (.tempAlert x temp) s = .next ((s.noteTemp x temp.toNat).tempRead x temp.toNat) := by
  refine (due_of_true hon).trans ?_
  cases x <;> rfl

/-! ### The layer boundary (11 R293) -/

/-- A cluster at its layer boundary: at its step from now on, its clock relocking where that is another. -/
def Cluster.bounded (c : Cluster) (n temp clk : Nat) : Cluster :=
  { c with temp := temp, step := n, since := if n != c.step then clk else c.since, relocking := n != c.step, share := .decided }

/-- The state after a layer boundary, which counts where the step moves. -/
def State.bounded (s : State) (k : BitVec 3) (n temp : Nat) : State :=
  ((s.setCluster k.toNat ((s.cluster k.toNat).bounded n temp s.clk)).tempRead (.cluster k) temp).bump
    (aStl (8 * k.toNat) + 0x2008) (b2n (n != (s.cluster k.toNat).step))

theorem State.bump_b2n (s : State) (a : Nat) (b : Bool) : s.bump a (b2n b) = if b then s.bump a 1 else s := by
  cases b <;> rfl

theorem exec_layerBoundary_of_due {s : State} {k : BitVec 3} {temp : Byte} {n : Nat} (hon : s.on = true)
    (hin : s.clusterIn k.toNat = true) (hlocked : (s.cluster k.toNat).relocking = false)
    (hshare : (s.cluster k.toNat).share = .finished ∨ ((s.cluster k.toNat).share = .working ∧ s.lastProduct = true))
    (hn : n = stepAt (s.cfgAt (aStl 0 + 0x3000)).toNat s.cap temp.toNat (s.clk - (s.cluster k.toNat).since)
      (s.cluster k.toNat).step) :
    exec (.layerBoundary k temp) s = .next (s.bounded k n temp.toNat) := by
  subst hn
  have hdue : (s.on && s.clusterIn k.toNat && !(s.cluster k.toNat).relocking && ((s.cluster k.toNat).share == .finished ||
      ((s.cluster k.toNat).share == .working && s.lastProduct))) = true := by
    simpa [hon, hin, hlocked] using hshare
  rw [State.bounded, State.bump_b2n]
  exact due_of_true hdue

theorem State.cluster_bounded (s : State) (k : BitVec 3) (n temp j : Nat) : (s.bounded k n temp).cluster j =
    if k.toNat = j then (s.cluster k.toNat).bounded n temp s.clk else s.cluster j := by
  rw [State.bounded, State.bump_only]
  exact State.cluster_setCluster ..

theorem State.bounded_only (s : State) (k : BitVec 3) (n temp : Nat) : s.bounded k n temp = { s with
    cnt := (s.bounded k n temp).cnt, stl := { s.stl with clusters := (s.bounded k n temp).stl.clusters },
    pins := { s.pins with tempSrc := (s.bounded k n temp).pins.tempSrc } } := by
  rw [State.bounded, State.bump_only]
  rfl

theorem State.mem_tempSrc_bounded (s : State) (k : BitVec 3) (n temp : Nat) :
    .cluster k ∈ (s.bounded k n temp).pins.tempSrc ↔
      s.alertAt (.cluster k) ≤ temp ∨ (.cluster k ∈ s.pins.tempSrc ∧ s.alertAt (.cluster k) < temp + 3) := by
  rw [State.bounded, State.bump_only]
  exact State.mem_tempSrc_tempRead ..

/-! ### A clock that relocks, or does not (02 R44) -/

/-- While Steel runs no job a cluster that is fenced has no work to start again. -/
theorem State.fenceCluster_of_idle {s : State} {k : Nat} (hjob : s.stl.job = none) :
    s.fenceCluster k = (s.setCluster k { s.cluster k with fenced := true }).repoint := by
  have hrestart : (s.setCluster k { s.cluster k with fenced := true }).restart =
      s.setCluster k { s.cluster k with fenced := true } := by
    rw [State.restart, show (s.setCluster k { s.cluster k with fenced := true }).stl.job = none from hjob]
  unfold State.fenceCluster
  simp only [hrestart, ite_self]

/-- A cluster whose clock does not relock: source 0x0503, and the cluster is fenced. -/
def State.relockFailed (s : State) (k : Nat) : State :=
  ((s.setCluster k { s.cluster k with relocking := false }).record 2 6 k 0x0503 (s.cluster k).step).fenceCluster k

theorem State.relockFailed_of_idle {s : State} {k : Nat} (hjob : s.stl.job = none) :
    ((s.relockFailed k).cluster k).fenced = true ∧ (∀ j, j ≠ k → (s.relockFailed k).cluster j = s.cluster j) ∧
    s.relockFailed k = { s with
      cnt := (s.relockFailed k).cnt, flt := (s.relockFailed k).flt, pins := (s.relockFailed k).pins,
      ports := (s.relockFailed k).ports, sol := (s.relockFailed k).sol,
      stl := { s.stl with clusters := (s.relockFailed k).stl.clusters } } := by
  unfold State.relockFailed
  rw [State.record_only, State.fenceCluster_of_idle (by exact hjob)]
  refine ⟨congrArg Cluster.fenced (State.cluster_setCluster_self ..), fun j hj => ?_, rfl⟩
  refine (State.cluster_setCluster ..).trans ((if_neg hj.symm).trans ?_)
  exact (State.cluster_setCluster ..).trans (if_neg hj.symm)

theorem exec_clusterRelock_of_locked {s : State} {k : BitVec 3} (hon : s.on = true)
    (hrelock : (s.cluster k.toNat).relocking = true) (hin : s.clusterIn k.toNat = true)
    (hclk : s.clk ≤ (s.cluster k.toNat).since + 2000) :
    exec (.clusterRelock k true) s = .next (s.setCluster k.toNat { s.cluster k.toNat with relocking := false }) := by
  show execClusterRelock k true s = _
  simp [execClusterRelock, due, hon, hrelock, hin, hclk]

theorem exec_clusterRelock_of_failed {s : State} {k : BitVec 3} {ok : Bool} (hon : s.on = true)
    (hrelock : (s.cluster k.toNat).relocking = true) (hin : s.clusterIn k.toNat = true)
    (hclk : (s.cluster k.toNat).since + 2000 ≤ s.clk) (hlate : ok = true → (s.cluster k.toNat).since + 2000 < s.clk) :
    exec (.clusterRelock k ok) s = .next (s.relockFailed k.toNat) := by
  have hok : (ok && decide (s.clk ≤ (s.cluster k.toNat).since + 2000)) = false := by
    cases ok with
    | false => rfl
    | true => simpa using hlate rfl
  show execClusterRelock k ok s = _
  simp [execClusterRelock, due, hon, hrelock, hin, hclk, hok, State.relockFailed]

/-- Settles O47: a layer boundary is `State.bounded`, a reading of a temperature `State.noteTemp` and what TEMP_ALERT_N then shows
`State.mem_tempSrc_tempRead`; a clock that does not relock is `State.relockFailed_of_idle`, and class X leaves what
`State.enterX_apply` says. -/
theorem clocksAndTemperatures : Obligations.ClocksAndTemperatures := by
  refine ⟨fun s k temp n hon hin hlocked hshare hn => ?_,
    fun s k hon hrelock hin hclk => exec_clusterRelock_of_locked hon hrelock hin hclk,
    fun s k ok hon hrelock hin hclk hlate hjob =>
      ⟨_, exec_clusterRelock_of_failed hon hrelock hin hclk hlate, State.relockFailed_of_idle hjob⟩,
    fun s x temp hon => ⟨_, exec_tempAlert x temp hon, ?_, fun y hy => ?_, ?_, ?_, ?_⟩,
    fun s i hon => ?_⟩
  · have hself : (s.bounded k n temp.toNat).cluster k.toNat = (s.cluster k.toNat).bounded n temp.toNat s.clk :=
      (State.cluster_bounded ..).trans (if_pos rfl)
    refine ⟨_, exec_layerBoundary_of_due hon hin hlocked hshare hn, ?_, ?_, ?_, State.mem_tempSrc_bounded ..,
      fun j hj => (State.cluster_bounded ..).trans (if_neg hj.symm), fun hmoved => ⟨?_, ?_, ?_⟩, State.bounded_only ..⟩
    · rw [hself, Cluster.bounded]
    · rw [hself, Cluster.bounded]
    · rw [hself, Cluster.bounded]
    · simp [hself, Cluster.bounded, hmoved]
    · simp [hself, Cluster.bounded, hmoved]
    · rw [State.bounded, State.cntAt_bump_self, bne_iff_ne.mpr hmoved]
      rfl
  · rw [State.mem_tempSrc_tempRead, State.noteTemp_only]
    rfl
  · rw [State.mem_tempSrc_tempRead_of_ne _ hy, State.noteTemp_only]
  · rintro k rfl
    exact congrArg Stack.temp (State.stack_setStack_self ..)
  · rintro k rfl
    exact congrArg Cluster.temp (State.cluster_setCluster_self ..)
  · rw [State.tempRead, State.noteTemp_only]
  · obtain ⟨hclass, hlow⟩ := State.enterX_spec (State.classX_of_on hon) 0x0805 i.toNat
    refine ⟨_, due_of_true hon, hclass, hlow, ?_, State.enterX_apply State.ing s _ _ fun _ _ _ _ _ _ _ _ _ _ => rfl,
      State.enterX_apply State.tensors s _ _ fun _ _ _ _ _ _ _ _ _ _ => rfl,
      State.enterX_apply State.mbxs s _ _ fun _ _ _ _ _ _ _ _ _ _ => rfl⟩
    rw [State.on, hclass]
    rfl

end Sys2Proof.Machine

/-! Jobs of Steel (11 R293, R296 to R301, R307, R308; 02 R44). -/

namespace Sys2Proof.Machine

/-! ### Shares of a job (11 R293) -/

/-- A cluster in service begins its share of the job. -/
def State.beginShare (s : State) (k : Nat) : State :=
  if s.clusterIn k then s.setCluster k { s.cluster k with share := .working } else s

theorem State.beginShares_eq (s : State) : s.beginShares = (List.range 8).foldl State.beginShare s := rfl

theorem State.cluster_beginShare (s : State) (k j : Nat) : (s.beginShare k).cluster j =
    { s.cluster j with share := if j = k ∧ s.clusterIn j then .working else (s.cluster j).share } := by
  unfold State.beginShare
  by_cases hjk : j = k
  · subst hjk
    cases hin : s.clusterIn j <;> simp
  · split
    · rw [State.cluster_setCluster, if_neg (Ne.symm hjk), if_neg fun h => hjk h.1]
    · rw [if_neg fun h => hjk h.1]

theorem State.beginShare_only (s : State) (k : Nat) :
    s.beginShare k = { s with stl := { s.stl with clusters := (s.beginShare k).stl.clusters } } := by
  unfold State.beginShare
  split <;> rfl

/-- A cluster that begins its share is in service as before. -/
theorem State.clusterIn_beginShare (s : State) (k j : Nat) : (s.beginShare k).clusterIn j = s.clusterIn j := by
  rw [State.clusterIn, State.cluster_beginShare, State.beginShare_only]
  rfl

theorem State.cluster_foldl_beginShare (l : List Nat) (s : State) (j : Nat) : (l.foldl State.beginShare s).cluster j =
    { s.cluster j with share := if j ∈ l ∧ s.clusterIn j then .working else (s.cluster j).share } := by
  induction l generalizing s with
  | nil => simp
  | cons k l ih =>
    rw [List.foldl_cons, ih, State.clusterIn_beginShare, State.cluster_beginShare]
    refine congrArg (fun share => { s.cluster j with share := share }) ?_
    cases s.clusterIn j with
    | false => simp
    | true => by_cases hjk : j = k <;> simp [hjk]

theorem State.cluster_beginShares (s : State) (k : Nat) : s.beginShares.cluster k =
    { s.cluster k with share := if k < 8 ∧ s.clusterIn k then .working else (s.cluster k).share } := by
  rw [State.beginShares_eq, State.cluster_foldl_beginShare]
  simp only [List.mem_range]

theorem State.beginShares_only (s : State) :
    s.beginShares = { s with stl := { s.stl with clusters := s.beginShares.stl.clusters } } := by
  rw [State.beginShares_eq]
  generalize List.range 8 = l
  induction l generalizing s with
  | nil => rfl
  | cons k l ih =>
    rw [List.foldl_cons, ih]
    generalize (l.foldl State.beginShare (s.beginShare k)).stl.clusters = clusters
    rw [State.beginShare_only]

/-- Clusters that begin their shares take no tile out of service. -/
theorem State.tiles_beginShares (s : State) : s.beginShares.tiles = s.tiles := by
  have htile (n : Nat) : s.beginShares.tileIn n = s.tileIn n := by
    rw [State.tileIn, State.cluster_beginShares, State.beginShares_only]
    rfl
  unfold State.tiles
  simp only [htile]

/-- The share of a cluster that still worked on the job is finished when the job ends. -/
theorem State.share_endJob (s : State) (k : Nat) : (s.endJob.cluster k).share =
    if (s.cluster k).share = .working then .finished else (s.cluster k).share := by
  unfold State.cluster State.endJob tget
  rw [tfind_tmap]
  cases tfind s.stl.clusters k with
  | none => rfl
  | some c => exact apply_ite Cluster.share ..

/-! ### The start of a job (11 R307) -/

/-- The job that runs from now on, with the shares of its clusters begun. -/
def State.takeJob (s : State) (j : SteelJob) : State := State.beginShares { s with stl := { s.stl with job := some j } }

theorem State.takeJob_only (s : State) (j : SteelJob) : s.takeJob j = { s with
    stl := { s.stl with job := some j, clusters := (s.takeJob j).stl.clusters } } := State.beginShares_only _

theorem State.tiles_takeJob (s : State) (j : SteelJob) : (s.takeJob j).tiles = s.tiles := State.tiles_beginShares _

theorem exec_steelJobStart_of_ready {s : State} {j : SteelJob} (hon : s.on = true) (hlocked : s.relocks = false)
    (hjob : s.stl.job = none) (hfirst : s.firstJob = some j) : exec .steelJobStart s = .next (s.startJob j) := by
  show execSteelJobStart s = _
  simp [execSteelJobStart, due, hon, hlocked, hjob, hfirst]

/-- While a clock relocks no job starts (02 R44). -/
theorem exec_steelJobStart_of_relocks {s : State} (h : s.relocks = true) : exec .steelJobStart s = .next s := by
  show execSteelJobStart s = _
  unfold execSteelJobStart
  split
  · simp [due, h]
  · rfl

/-- The first product of a job: its split, and of an update the first iteration. -/
def State.firstProduct (s : State) : SteelJob → State
  | .ns x cid => { s.setSplit (nsK (s.entryOf x cid) 1) with
      pwt := { s.pwt with upd := s.pwt.upd.map fun u => { u with phase := .ns 1 1 } } }
  | .matmul x cid _ => match (s.findColl x cid).bind (fun i => s.coll i) with
    | some c => s.setSplit (fld c.desc 88 4)
    | none => s

theorem State.startJob_of_tiles {s : State} {j : SteelJob} (htiles : s.tiles ≠ 0) :
    s.startJob j = (s.takeJob j).firstProduct j := by
  have htiles' : (s.takeJob j).tiles ≠ 0 := by rwa [State.tiles_takeJob]
  cases j <;> exact if_neg htiles'

theorem State.startJob_ns {s : State} {x cid : Nat} {u : Update} (hupd : s.pwt.upd = some u) (htiles : s.tiles ≠ 0) :
    s.startJob (.ns x cid) = { s.takeJob (.ns x cid) with
      stl := { (s.takeJob (.ns x cid)).stl with split := kSplit (nsK (s.entryOf x cid) 1) s.tiles },
      pwt := { s.pwt with upd := some { u with phase := .ns 1 1 } } } := by
  have hentry : (s.takeJob (.ns x cid)).entryOf x cid = s.entryOf x cid := by
    rw [State.takeJob_only]
    rfl
  have hpwt : (s.takeJob (.ns x cid)).pwt = s.pwt := by rw [State.takeJob_only]
  rw [State.startJob_of_tiles htiles, State.firstProduct, State.setSplit, hentry, hpwt, hupd, State.tiles_takeJob]
  rfl

theorem State.startJob_matmul {s : State} {x cid k i : Nat} {c : Coll} (hfind : s.findColl x cid = some k)
    (hcoll : s.coll k = some c) (htiles : s.tiles ≠ 0) : s.startJob (.matmul x cid i) = { s.takeJob (.matmul x cid i) with
      stl := { (s.takeJob (.matmul x cid i)).stl with split := kSplit (fld c.desc 88 4) s.tiles } } := by
  have hheld : ((s.takeJob (.matmul x cid i)).findColl x cid).bind (s.takeJob (.matmul x cid i)).coll = some c := by
    rw [State.takeJob_only]
    exact (congrArg (Option.bind · s.coll) hfind).trans hcoll
  rw [State.startJob_of_tiles htiles, State.firstProduct, hheld]
  dsimp only
  rw [State.setSplit, State.tiles_takeJob]

/-! ### The end of a product (11 R299, R300) -/

/-- What the end of a product does, it does while no cluster of the job relocks. -/
theorem State.productDone_due (s : State) : ∃ t, s.productDone = due (s.on && !s.jobRelocks) s t := by
  have hnone : Host.Outcome.next s = due (s.on && !s.jobRelocks) s s := by rw [due, ite_self]
  unfold State.productDone
  split
  · exact ⟨s, hnone⟩
  · split
    · split
      · exact ⟨_, rfl⟩
      · exact ⟨s, hnone⟩
    · exact ⟨s, hnone⟩
  · split
    · split
      · exact ⟨_, rfl⟩
      · exact ⟨s, hnone⟩
    · exact ⟨s, hnone⟩

/-- PRODUCT_DONE without an error of the SRAM. -/
theorem exec_productDone_nil (s : State) : exec (.productDone []) s = s.productDone := by
  show execProductDone [] s = _
  obtain ⟨t, ht⟩ := s.productDone_due
  unfold execProductDone
  simp only [List.foldl_nil, if_true]
  split
  · next hidle =>
    rcases Bool.or_eq_true_iff.mp hidle with hoff | hjob
    · have hon : s.on = false := by simpa using hoff
      rw [ht, hon]
      rfl
    · rw [State.productDone, Option.isNone_iff_eq_none.mp hjob]
  · rfl

/-- Units dealt are counted at their tiles, with a free choice of the tiles that take one more (11 R298). -/
theorem State.dealUnits_only (s : State) (m n k : Nat) : s.dealUnits m n k = { s with
    cnt := (s.dealUnits m n k).cnt, freeCtr := (s.dealUnits m n k).freeCtr } := by
  have hcounted {α : Type} (a : α → Nat) (b : α → Nat) (l : List α) (t : State) :
      l.foldl (fun t p => t.bump (a p) (b p)) t = { t with cnt := (l.foldl (fun t p => t.bump (a p) (b p)) t).cnt } := by
    induction l generalizing t with
    | nil => rfl
    | cons p l ih =>
      rw [List.foldl_cons, ih]
      generalize (l.foldl (fun t p => t.bump (a p) (b p)) (t.bump (a p) (b p))).cnt = cnt
      rw [State.bump_only]
  unfold State.dealUnits
  dsimp only [State.free]
  rw [hcounted]

/-! ### Products of a Newton–Schulz iteration (11 R299) -/

/-- What follows product `j` of iteration `k`: the next product, the next iteration, or pass 2. -/
def nsPhase (k j : Nat) : Phase := if j < 3 then .ns k (j + 1) else if k < 5 then .ns (k + 1) 1 else .pass2

/-- The update after product `j` of iteration `k`. -/
def State.nsUpdate (s : State) (u : Update) (k j : Nat) : Update :=
  { nsProduct (s.entryOf u.ctx u.cid) s.tiles k j u with phase := nsPhase k j }

/-- The units of product `j` are dealt, and the update has its result. -/
def State.nsDealt (s : State) (u : Update) (k j : Nat) : State :=
  let e := s.entryOf u.ctx u.cid
  { s.dealUnits (omR e) (if j = 3 then omC e else omR e) (nsK e j) with
    pwt := { s.pwt with upd := some (s.nsUpdate u k j) } }

theorem State.nsDealt_only (s : State) (u : Update) (k j : Nat) : s.nsDealt u k j = { s with
    cnt := (s.nsDealt u k j).cnt, freeCtr := (s.nsDealt u k j).freeCtr,
    pwt := { s.pwt with upd := some (s.nsUpdate u k j) } } := by
  unfold State.nsDealt
  dsimp only
  rw [State.dealUnits_only]

/-- A product that is not the last is followed by the next. -/
theorem State.nsDone_of_more {s : State} {u : Update} {k j : Nat} (hmore : j < 3 ∨ k < 5) :
    s.nsDone u k j = (s.nsDealt u k j).setSplit (nsK (s.entryOf u.ctx u.cid) (if j < 3 then j + 1 else 1)) := by
  unfold State.nsDone State.nsDealt State.nsUpdate nsPhase
  dsimp only
  rw [State.dealUnits_only]
  by_cases hj : j < 3
  · simp only [if_pos hj]
    rfl
  · simp only [if_neg hj, if_pos (hmore.resolve_left hj)]
    rfl

/-- The last product ends the job, and the base dies get the command of pass 2. -/
theorem State.nsDone_of_last {s : State} {u : Update} {k j : Nat} (hj : 3 ≤ j) (hk : 5 ≤ k) : ∃ cmd,
    s.nsDone u k j = { (s.nsDealt u k j).endJob with pwt := { s.pwt with upd := some (s.nsUpdate u k j), cmd := cmd } } := by
  unfold State.nsDone State.nsDealt State.nsUpdate nsPhase
  dsimp only
  rw [State.dealUnits_only]
  simp only [if_neg (Nat.not_lt.mpr hj), if_neg (Nat.not_lt.mpr hk)]
  split
  · split
    · exact ⟨_, rfl⟩
    · exact ⟨s.pwt.cmd, rfl⟩
  · exact ⟨s.pwt.cmd, rfl⟩

/-- A product of the update that runs, while no cluster at work on it relocks. -/
theorem exec_productDone_of_ns {s : State} {x cid k j : Nat} {u : Update} (hon : s.on = true)
    (hjob : s.stl.job = some (.ns x cid)) (hlocked : s.jobRelocks = false) (hupd : s.pwt.upd = some u)
    (hphase : u.phase = .ns k j) : exec (.productDone []) s = .next (s.nsDone u k j) := by
  rw [exec_productDone_nil, State.productDone]
  simp [hjob, hupd, hphase, due, hon, hlocked]

/-! ### Parts of a MATMUL (11 R308) -/

theorem State.writeRows_only (s : State) (x key r0 : Nat) (bs : List Byte) :
    s.writeRows x key r0 bs = { s with regions := (s.writeRows x key r0 bs).regions } := by
  unfold State.writeRows
  split
  · rfl
  · split <;> rfl

/-- The bytes of a kernel none of whose parts has failed are those computed. -/
theorem State.validBytes_of_sound {k : Kernel} (hsound : k.partFail = 0) (s : State) (part : Nat) (bs : List Byte) :
    s.validBytes k part bs = (bs, s) := by
  simp [State.validBytes, hsound]

/-- A kernel whose part `i` is complete, with its rows. -/
def Kernel.withPart (k : Kernel) (i bad : Nat) (bs : List Byte) : Kernel :=
  { k with part := i + 1, rows := tset k.rows i bs, nonfin := k.nonfin + bad }

/-- A part of a MATMUL that is not the last: its units are dealt, the job ends, and its rows are written. -/
theorem State.matmulDone_of_more {s : State} {k i : Nat} {c : Coll} {bs : List Byte} (hmore : i + 1 < dParts c.desc)
    (hsound : (c.kern.getD Kernel.init).partFail = 0)
    (hbs : bs = (s.matmulPart c i).flatMap (fun r => encodeArr (kOfmt c.desc) none (r.map f32))) :
    ∃ cnt freeCtr bad, s.matmulDone k c i = State.writeRows
      (State.setColl { s.endJob with cnt := cnt, freeCtr := freeCtr } k
        { c with kern := some ((c.kern.getD Kernel.init).withPart i bad bs) })
      (dCtx c.desc) (fld c.desc 72 2) (i * partRows c.desc (fld c.desc 80 4)) bs := by
  have hparts : ¬ max 1 (dParts c.desc) ≤ i + 1 := by omega
  subst hbs
  unfold State.matmulDone
  dsimp only
  rw [State.validBytes_of_sound hsound, State.dealUnits_only]
  dsimp only
  rw [if_neg hparts]
  exact ⟨_, _, _, rfl⟩

theorem exec_productDone_of_matmul {s : State} {x cid k i : Nat} {c : Coll} (hon : s.on = true)
    (hjob : s.stl.job = some (.matmul x cid i)) (hlocked : s.jobRelocks = false) (hfind : s.findColl x cid = some k)
    (hcoll : s.coll k = some c) : exec (.productDone []) s = .next (s.matmulDone k c i) := by
  rw [exec_productDone_nil, State.productDone]
  simp [hjob, hfind, hcoll, due, hon, hlocked]

/-! ### Errors of a tile's SRAM (11 R289, R314) -/

theorem State.sramError_of_tileIn {s : State} {n : Nat} (w : Nat) (htile : s.tileIn n = true) :
    s.sramError (n, w, false) = (s.bump (aStl n + 0x14) 1).record 0 5 n 0x0501 w ∧
    s.sramError (n, w, true) = (s.record 2 5 n 0x0502 w).fenceTile n := by
  unfold State.sramError
  simp [htile]

/-- A product is done where its words fence no tile. -/
theorem exec_productDone_of_running {s v : State} {ecc : List (BitVec 6 × BitVec 18 × Bool)}
    (hv : v = ecc.foldl (fun u e => u.sramError (e.1.toNat, e.2.1.toNat, e.2.2)) s) (hon : s.on = true)
    (hjob : s.stl.job.isSome = true) :
    exec (.productDone ecc) s = if v.stl.fenced = s.stl.fenced then exec (.productDone []) v else .next v := by
  subst hv
  rw [exec_productDone_nil]
  show execProductDone ecc s = _
  unfold execProductDone
  rw [hon, Option.isNone_eq_false_iff.mpr hjob]
  rfl

/-- Settles O45: a job starts as `State.startJob_ns` and `State.startJob_matmul` say, with the shares of
`State.cluster_beginShares`; a product is followed by what `State.nsDone_of_more`, `State.nsDone_of_last` and
`State.matmulDone_of_more` say, unless a clock relocks (`State.productDone_due`) or a word of SRAM fences a tile
(`exec_productDone_of_running`). -/
theorem steelRunsJobs : Obligations.SteelRunsJobs := by
  refine ⟨fun s => exec_steelJobStart_of_relocks, fun s hrelocks => ?_,
    fun s v x cid u hon hlocked hjob hfirst hupd htiles hv => ?_,
    fun s v x cid k i c hon hlocked hjob hfirst hfind hcoll htiles hv => ?_,
    fun s => ⟨s.beginShares_only, rfl, fun k hk => ?_, s.share_endJob⟩,
    fun s x cid k j u hon hjob hlocked hupd hphase hmore => ?_,
    fun s x cid k j u hon hjob hlocked hupd hphase hj hk => ?_,
    fun s x cid k i c bs hon hjob hlocked hfind hcoll hmore hsound hbs => ?_,
    fun s v n w ecc htile => ?_⟩
  · obtain ⟨t, ht⟩ := s.productDone_due
    rw [exec_productDone_nil, ht, hrelocks, Bool.not_true, Bool.and_false]
    rfl
  · subst hv
    exact (exec_steelJobStart_of_ready hon hlocked hjob hfirst).trans (congrArg _ (State.startJob_ns hupd htiles))
  · subst hv
    exact (exec_steelJobStart_of_ready hon hlocked hjob hfirst).trans (congrArg _ (State.startJob_matmul hfind hcoll htiles))
  · rw [State.cluster_beginShares]
    simp [hk]
  · have hnext : nsPhase k j = if j < 3 then .ns k (j + 1) else .ns (k + 1) 1 := by
      unfold nsPhase
      split
      · rfl
      · next hj => exact if_pos (hmore.resolve_left hj)
    refine ⟨_, exec_productDone_of_ns hon hjob hlocked hupd hphase, ?_⟩
    rw [State.nsDone_of_more hmore, State.nsDealt_only, ← hnext]
    exact ⟨rfl, rfl⟩
  · obtain ⟨cmd, hdone⟩ := State.nsDone_of_last (s := s) (u := u) hj hk
    have hlast : nsPhase k j = .pass2 := by
      rw [nsPhase, if_neg (Nat.not_lt.mpr hj), if_neg (Nat.not_lt.mpr hk)]
    refine ⟨_, exec_productDone_of_ns hon hjob hlocked hupd hphase, ?_⟩
    rw [hdone, State.nsDealt_only, ← hlast]
    exact ⟨rfl, rfl, rfl⟩
  · obtain ⟨cnt, freeCtr, bad, hdone⟩ := State.matmulDone_of_more (k := k) hmore hsound hbs
    refine ⟨_, (c.kern.getD Kernel.init).withPart i bad bs, exec_productDone_of_matmul hon hjob hlocked hfind hcoll, ?_⟩
    rw [hdone, State.writeRows_only]
    exact ⟨rfl, State.coll_setColl_self .., rfl, tfind_tset.trans (if_pos rfl), rfl⟩
  · obtain ⟨hcorrected, hlost⟩ := State.sramError_of_tileIn w htile
    exact ⟨hcorrected, hlost, fun hv hon hjob => exec_productDone_of_running hv hon hjob⟩

end Sys2Proof.Machine

/-! Kernel frames (11 R305, R309 to R311; 06 R164). -/

namespace Sys2Proof.Machine

/-! ### What a received frame leaves -/

@[simp] theorem State.membersOf_received (s : State) (f : Frame) (d : List Byte) : (s.received f).membersOf d = s.membersOf d :=
  State.received_apply (fun t => t.membersOf d) f fun _ _ _ _ => rfl

@[simp] theorem State.rootOf_received (s : State) (f : Frame) (d : List Byte) : (s.received f).rootOf d = s.rootOf d :=
  State.received_apply (fun t => t.rootOf d) f fun _ _ _ _ => rfl

@[simp] theorem State.iAmRoot_received (s : State) (f : Frame) (d : List Byte) : (s.received f).iAmRoot d = s.iAmRoot d :=
  State.received_apply (fun t => t.iAmRoot d) f fun _ _ _ _ => rfl

@[simp] theorem State.now_received (s : State) (f : Frame) : (s.received f).now = s.now :=
  State.received_apply State.now f fun _ _ _ _ => rfl

@[simp] theorem State.addr_received (s : State) (f : Frame) : (s.received f).addr = s.addr :=
  State.received_apply State.addr f fun _ _ _ _ => rfl

@[simp] theorem State.pins_received (s : State) (f : Frame) : (s.received f).pins = s.pins :=
  State.received_apply State.pins f fun _ _ _ _ => rfl

@[simp] theorem State.membersOf_setColl (s : State) (k : Nat) (c : Coll) (d : List Byte) :
    (s.setColl k c).membersOf d = s.membersOf d := rfl

@[simp] theorem State.rootOf_setColl (s : State) (k : Nat) (c : Coll) (d : List Byte) :
    (s.setColl k c).rootOf d = s.rootOf d := rfl

/-- Operands that have their buffers wait for none. -/
theorem State.unwaitOps_only (s : State) (d : List Byte) :
    s.unwaitOps d = { s with sol := { s.sol with waits := (s.unwaitOps d).sol.waits } } := rfl

@[simp] theorem State.membersOf_unwaitOps (s : State) (d e : List Byte) : (s.unwaitOps d).membersOf e = s.membersOf e := rfl

@[simp] theorem State.addr_unwaitOps (s : State) (d : List Byte) : (s.unwaitOps d).addr = s.addr := rfl

@[simp] theorem State.now_unwaitOps (s : State) (d : List Byte) : (s.unwaitOps d).now = s.now := rfl

@[simp] theorem State.coll_unwaitOps (s : State) (d : List Byte) (k : Nat) : (s.unwaitOps d).coll k = s.coll k := rfl

/-- The kernel in a slot with a piece that has its buffers. -/
def State.keepPiece (s : State) (f : Frame) (k : Nat) (c : Coll) (j : Kernel) : State :=
  ((s.received f).unwaitOps c.desc).setColl k { c with kern := some j }

theorem State.keepPiece_spec (s : State) (f : Frame) (k : Nat) (c : Coll) (j : Kernel) :
    (s.keepPiece f k c j).coll k = some { c with kern := some j } ∧
    (∀ i, i ≠ k → (s.keepPiece f k c j).coll i = s.coll i) ∧
    s.keepPiece f k c j = { s with
      slots := (s.keepPiece f k c j).slots, ports := (s.keepPiece f k c j).ports, sol := { s.sol with
        queues := (s.keepPiece f k c j).sol.queues, cells := (s.keepPiece f k c j).sol.cells,
        vcOwner := (s.keepPiece f k c j).sol.vcOwner, waits := (s.keepPiece f k c j).sol.waits } } := by
  refine ⟨State.coll_setColl_self .., fun i hi => ?_, ?_⟩
  · rw [State.keepPiece, State.coll_setColl_of_ne hi, State.coll_unwaitOps, State.coll_received]
  · have honly := s.received_only f
    unfold State.keepPiece
    generalize s.received f = u at honly ⊢
    rw [honly]
    rfl

/-! ### Receipts that are still to come (02 R44) -/

theorem exec_kernelReceipts_of_notYet {s : State} (p : BitVec 6) {f : Frame} (h : s.steelNotYet f = true) :
    exec (.lookupReceive p f) s = .next s ∧ exec (.sourceReceive p f) s = .next s ∧
    exec (.convertedReceive p f) s = .next s ∧ exec (.resultReceive p f) s = .next s := by
  have hwait : (!s.on || s.steelNotYet f) = true := by rw [h, Bool.or_true]
  exact ⟨if_pos hwait, if_pos hwait, if_pos hwait, if_pos hwait⟩

/-! ### Pieces of a lookup image (11 R311) -/

section
variable {s : State} {p : BitVec 6} {f : Frame} {k : Nat} {c : Coll}

/-- A piece of an image that the root still awaits: it stays in its queue while its operands have no buffer, and is kept while the
image has no field yet. -/
theorem exec_lookupReceive_of_awaited {j : Kernel} (hon : s.on = true) (hnow : s.steelNotYet f = false)
    (hfind : s.findColl f.hdr.ctx.toNat f.hdr.collId.toNat = some k) (hcoll : s.coll k = some c)
    (hkind : dKind c.desc = kGather) (hroot : s.iAmRoot c.desc = true) (hopen : c.decided = none)
    (hsrc : (s.membersOf c.desc)[ksRank f]? = some f.hdr.src.toNat)
    (hrow : tfind (c.kern.getD Kernel.init).rows (ksRank f) = none)
    (hj : j = (c.kern.getD Kernel.init).take (ksRank f) f.hdr.offset.toNat f.payload s.now) :
    (∀ pool r, (s.received f).operandWait c.desc (c.kern.getD Kernel.init) j = some (pool, r) →
      exec (.lookupReceive p f) s = .next (s.waitPool pool r)) ∧
    ((s.received f).operandWait c.desc (c.kern.getD Kernel.init) j = none → (j.joined (ksRank f)).length < 4 →
      exec (.lookupReceive p f) s = .next (s.keepPiece f k c j)) := by
  have hfind' := (State.findColl_received s f ..).trans hfind
  have hcoll' := (State.coll_received s f k).trans hcoll
  have hroot' := (State.iAmRoot_received s f c.desc).trans hroot
  have hsrc' := (congrArg (·[ksRank f]?) (State.membersOf_received s f c.desc)).trans hsrc
  rw [← State.now_received s f] at hj
  subst hj
  unfold State.keepPiece
  unfold State.received at *
  show (∀ pool r, _ → execLookupReceive p f s = _) ∧ (_ → _ → execLookupReceive p f s = _)
  refine ⟨fun pool r hwait => ?_, fun hserved hshort => ?_⟩
  · simp [execLookupReceive, hon, hnow, hfind', hcoll', hkind, hroot', hopen, hsrc', hrow, hwait]
  · simp [execLookupReceive, hon, hnow, hfind', hcoll', hkind, hroot', hopen, hsrc', hrow, hserved, Nat.not_le.mpr hshort]

/-! ### What a home converts, and the root's rows (11 R310) -/

/-- A home that is not the root converts what its member sends, and sends it on. -/
theorem exec_sourceReceive_of_home {r e0 : Nat} {u : State} (hon : s.on = true) (hnow : s.steelNotYet f = false)
    (hfind : s.findColl f.hdr.ctx.toNat f.hdr.collId.toNat = some k) (hcoll : s.coll k = some c)
    (hkind : dKind c.desc = kRequant) (hkey : fld c.desc 66 2 = 0)
    (hrank : (s.membersOf c.desc).findIdx? (fun a => a == f.hdr.src.toNat) = some r)
    (he : e0 = if isMx (dCfmt c.desc) then f.hdr.offset.toNat / blockBytes (dCfmt c.desc) * 32
      else f.hdr.offset.toNat / elemBytes (dCfmt c.desc))
    (hin : e0 < dElements c.desc) (hroot : s.iAmRoot c.desc = false)
    (hu : u = (s.received f).setColl k { c with kern := some (c.kern.getD Kernel.init) }) :
    exec (.sourceReceive p f) s = .next (u.sendFrame (u.kernelFrom (arrayBytes (kOfmt c.desc) e0))
      (u.kernelFrame c 4 (kOfmt c.desc) r (r / partRows c.desc (s.membersOf c.desc).length) (s.rootOf c.desc)
        (arrayBytes (kOfmt c.desc) e0) (encodeArr (kOfmt c.desc) (givenScale c.desc)
          ((decodeArr (dCfmt c.desc) f.payload).take (dElements c.desc - e0))))) := by
  have hfind' := (State.findColl_received s f ..).trans hfind
  have hcoll' := (State.coll_received s f k).trans hcoll
  have hroot' := (State.iAmRoot_received s f c.desc).trans hroot
  have hmembers := State.membersOf_received s f c.desc
  have hrootOf := State.rootOf_received s f c.desc
  subst hu
  unfold State.received at *
  show execSourceReceive p f s = _
  simp [execSourceReceive, hon, hnow, hfind', hcoll', hkind, hkey, hroot', hmembers, hrank, hrootOf, ← he,
    Nat.not_le.mpr hin]

/-- A piece joins what its rank has sent, and no row. -/
theorem Kernel.take_only (k : Kernel) (r o : Nat) (bs : List Byte) (now : Nat) :
    k.take r o bs now = { k with got := (k.take r o bs now).got, start := (k.take r o bs now).start } := by
  unfold Kernel.take
  dsimp only
  split <;> rfl

/-- A root with a member that it neither has served nor abandoned waits. -/
theorem State.kernelTry_of_awaited {s : State} {k r : Nat} {c : Coll} (hcoll : s.coll k = some c)
    (hrank : r < (s.membersOf c.desc).length) (hrow : tfind (c.kern.getD Kernel.init).rows r = none)
    (habandoned : r ∉ (c.kern.getD Kernel.init).abandoned) : s.kernelTry k = s := by
  have hall : s.kernelAll c (c.kern.getD Kernel.init) = false :=
    List.all_eq_false.mpr ⟨r, List.mem_range.mpr hrank, by simp [hrow, habandoned]⟩
  simp [State.kernelTry, hcoll, hall]

/-- The kernel once a converted piece of `rank` with `bad` non-finite elements is counted. -/
def Kernel.countNonfin (k : Kernel) (rank bad : Nat) : Kernel :=
  { k with nonfin := k.nonfin + bad, lowest := if 0 < bad then min k.lowest rank else k.lowest }

/-- A new piece from a member homed at the root, whose row is not whole with it, is counted and kept. -/
theorem exec_convertedReceive_of_awaited {j : Kernel} {e0 : Nat} (hon : s.on = true) (hnow : s.steelNotYet f = false)
    (hsound : j.partFail = 0)
    (hserved : (s.received f).operandWait c.desc j (j.take (ksRank f) f.hdr.offset.toNat f.payload s.now) = none)
    (hfind : s.findColl f.hdr.ctx.toNat f.hdr.collId.toNat = some k) (hcoll : s.coll k = some c)
    (hkind : dKind c.desc = kRequant) (hroot : s.iAmRoot c.desc = true) (hopen : c.decided = none)
    (hsrc : f.hdr.src.toNat = s.addr) (hj : j = c.kern.getD Kernel.init) (hrow : tfind j.rows (ksRank f) = none)
    (habandoned : ksRank f ∉ j.abandoned) (hrank : ksRank f < (s.membersOf c.desc).length)
    (hnew : ∀ e ∈ tget j.got (ksRank f) [], e.1 ≠ f.hdr.offset.toNat)
    (hshort : ((j.take (ksRank f) f.hdr.offset.toNat f.payload s.now).joined (ksRank f)).length <
      arrayBytes (kOfmt c.desc) (dElements c.desc))
    (he : e0 = if isMx (kOfmt c.desc) then f.hdr.offset.toNat / blockBytes (kOfmt c.desc) * 32
      else f.hdr.offset.toNat / elemBytes (kOfmt c.desc)) :
    exec (.convertedReceive p f) s = .next (s.keepPiece f k c
      ((j.take (ksRank f) f.hdr.offset.toNat f.payload s.now).countNonfin (ksRank f)
        (((decodeArr (kOfmt c.desc) f.payload).take (dElements c.desc - e0)).filter Fv.isNonfin).length)) := by
  have htake := j.take_only (ksRank f) f.hdr.offset.toNat f.payload s.now
  generalize hi : j.take (ksRank f) f.hdr.offset.toNat f.payload s.now = i at *
  have hisound : i.partFail = 0 := by rw [htake]; exact hsound
  have hirow : tfind i.rows (ksRank f) = none := by rw [htake]; exact hrow
  have hiab : ksRank f ∉ i.abandoned := by rw [htake]; exact habandoned
  have hfresh : (tget j.got (ksRank f) []).any (fun e => e.1 == f.hdr.offset.toNat) = false :=
    List.any_eq_false.mpr fun e hmem => by simp [hnew e hmem]
  generalize hbad : (((decodeArr (kOfmt c.desc) f.payload).take (dElements c.desc - e0)).filter Fv.isNonfin).length = bad
  have hwaits : (s.keepPiece f k c (i.countNonfin (ksRank f) bad)).kernelTry k =
      s.keepPiece f k c (i.countNonfin (ksRank f) bad) := by
    refine State.kernelTry_of_awaited (s.keepPiece_spec f k c _).1 ?_ hirow hiab
    rwa [State.keepPiece, State.membersOf_setColl, State.membersOf_unwaitOps, State.membersOf_received]
  have hfind' := (State.findColl_received s f ..).trans hfind
  have hcoll' := (State.coll_received s f k).trans hcoll
  have hroot' := (State.iAmRoot_received s f c.desc).trans hroot
  have hmembers := State.membersOf_received s f c.desc
  have haddr := State.addr_received s f
  have hclock := State.now_received s f
  refine Eq.trans ?_ (congrArg Host.Outcome.next hwaits)
  unfold State.keepPiece
  unfold State.received at *
  show execConvertedReceive p f s = _
  unfold Kernel.joined at hshort
  simp [execConvertedReceive, hon, hnow, hfind', hcoll', hkind, hroot', hopen, ← hj, hrow, habandoned, hrank, hmembers,
    hclock, hserved, hfresh, haddr, hsrc, hi, ← he, hbad, hisound, State.validBytes_of_sound, hirow, Kernel.joined,
    Nat.not_le.mpr hshort, Kernel.countNonfin]

/-! ### Results at a home (11 R309, R311) -/

/-- A result goes on from the root's position where it came along a chain, and to the members homed here elsewhere. -/
theorem exec_resultReceive_of_coll (hon : s.on = true) (hnow : s.steelNotYet f = false)
    (hfind : s.findColl f.hdr.ctx.toNat f.hdr.collId.toNat = some k) (hcoll : s.coll k = some c) :
    exec (.resultReceive p f) s = .next (
      if dKind c.desc ≠ kGather ∧ 48 ≤ p.toNat ∧ addrSw (s.rootOf c.desc) = s.pins.sw
      then (s.received f).spreadResult k (ksPart f) f.hdr.offset.toNat f.payload (s.rootOf c.desc)
      else (s.received f).homeResult k (ksRank f) (ksPart f) f.hdr.offset.toNat f.payload) := by
  have hfind' := (State.findColl_received s f ..).trans hfind
  have hcoll' := (State.coll_received s f k).trans hcoll
  have hroot := State.rootOf_received s f c.desc
  have hpins := State.pins_received s f
  unfold State.received at *
  show execResultReceive p f s = _
  simp only [execResultReceive, hon, hnow, hfind', hcoll', hroot, hpins, Bool.not_true, Bool.or_self, Bool.false_eq_true,
    if_false, Bool.and_eq_true, bne_iff_ne, decide_eq_true_eq, beq_iff_eq, and_assoc]
  exact (apply_ite Host.Outcome.next ..).symm

end

/-! ### An Ingot array converted whole (11 R310) -/

theorem flatten_chunks {α : Type} {n : Nat} (hn : 0 < n) {fuel : Nat} {l : List α} (hfuel : l.length ≤ fuel) :
    (chunks n fuel l).flatten = l := by
  induction fuel generalizing l with
  | zero => rw [List.length_eq_zero_iff.mp (Nat.le_zero.mp hfuel)]; rfl
  | succ fuel ih =>
    cases l with
    | nil => rfl
    | cons a l =>
      have hrest : ((a :: l).drop n).length ≤ fuel := by
        rw [List.length_drop]
        simp only [List.length_cons] at hfuel ⊢
        omega
      rw [chunks, if_neg (by simp), List.flatten_cons, ih hrest, List.take_append_drop]

/-- Runs of rows put one after another are all the rows. -/
theorem foldl_append_flatten {σ : Type} (l : List (List (List Byte))) (bs : List Byte) (i : Nat) (s : σ) :
    l.foldl (fun p rows => ((p.1.1 ++ rows.flatten, p.1.2 + 1), p.2)) ((bs, i), s) =
      ((bs ++ l.flatten.flatten, i + l.length), s) := by
  induction l generalizing bs i with
  | nil => simp
  | cons rows l ih =>
    rw [List.foldl_cons, ih]
    simp only [List.append_assoc, List.flatten_cons, List.flatten_append, List.length_cons, Nat.add_assoc, Nat.add_comm 1]

/-- A kernel that has converted its whole source. -/
def Kernel.convertedWhole (k : Kernel) (bs : List Byte) (nonfin clamped : Nat) : Kernel :=
  { k with rows := [(0, bs)], nonfin := nonfin, served := clamped }

theorem State.convert_of_sound {s : State} {c : Coll} {bs : List Byte} (k : Nat)
    (hsound : (c.kern.getD Kernel.init).partFail = 0)
    (hbs : bs = (s.operandMat c (fld c.desc 66 2)).2.flatMap (encodeArr (kOfmt c.desc) (givenScale c.desc))) :
    ∃ clamped, s.convert k c = State.kernelDecide (State.writeRows
      (s.setColl k { c with kern := some ((c.kern.getD Kernel.init).convertedWhole bs
        (nonfinIn (kOfmt c.desc) (((s.operandMat c (fld c.desc 66 2)).2.headD []).length) bs) clamped) })
      (dCtx c.desc) (fld c.desc 68 2) 0 bs) k 0 := by
  have hper : 0 < partRows c.desc (s.operandMat c (fld c.desc 66 2)).2.length := Nat.le_max_left ..
  have hrows : (chunksOf (partRows c.desc (s.operandMat c (fld c.desc 66 2)).2.length)
      ((s.operandMat c (fld c.desc 66 2)).2.map (encodeArr (kOfmt c.desc) (givenScale c.desc)))).flatten.flatten = bs := by
    rw [chunksOf, flatten_chunks hper (Nat.le_refl _), hbs, List.flatMap]
  unfold State.convert
  simp only [State.validBytes_of_sound hsound, foldl_append_flatten, hrows, List.nil_append]
  exact ⟨_, rfl⟩

theorem exec_conversionDone_of_first {s : State} {k : Nat} {c : Coll} (hon : s.on = true) (hlocked : s.relocks = false)
    (hpoint : s.pointOn 72 = true ∨ s.pointOn 73 = true) (hfirst : s.firstConversion = some (k, c)) :
    exec .conversionDone s = .next (s.convert k c) := by
  have hdue : (s.on && !s.relocks && (s.pointOn 72 || s.pointOn 73)) = true := by simpa [hon, hlocked] using hpoint
  show execConversionDone s = _
  rw [execConversionDone, hfirst]
  exact due_of_true hdue

/-- While a clock relocks, or without a cluster, nothing is converted. -/
theorem exec_conversionDone_of_stopped {s : State}
    (h : s.relocks = true ∨ (s.pointOn 72 = false ∧ s.pointOn 73 = false)) : exec .conversionDone s = .next s := by
  have hdue : (s.on && !s.relocks && (s.pointOn 72 || s.pointOn 73)) = false := by
    rcases h with h | ⟨h72, h73⟩
    · simp [h]
    · simp [h72, h73]
  show execConversionDone s = _
  unfold execConversionDone
  split
  · rw [hdue]
    rfl
  · rfl

/-- Settles O42: a piece of an image is `exec_lookupReceive_of_awaited`, what a home converts `exec_sourceReceive_of_home`, a piece
of a row `exec_convertedReceive_of_awaited`, a result `exec_resultReceive_of_coll`, and an array converted whole
`State.convert_of_sound`; what is still to come stays where it was (`exec_kernelReceipts_of_notYet`). -/
theorem kernelFramesTaken : Obligations.KernelFramesTaken := by
  refine ⟨fun s p f => exec_kernelReceipts_of_notYet p,
    fun s v p f k c j hon hnow hv hfind hcoll hkind hroot hopen hsrc hrow hj => ?_,
    fun s p f k r e0 c u vs hon hnow hfind hcoll hkind hkey hrank he hin hroot hvs hu => ?_,
    fun s v p f k c j hon hnow hv hsound hserved hfind hcoll hkind hroot hopen hsrc hj hrow habandoned hrank hnew hshort
      hkey => ?_,
    fun s p f k c u hon hnow hu hfind hcoll => ?_,
    fun s k c bs hon hlocked hpoint hfirst hsound hbs => ?_,
    fun s => exec_conversionDone_of_stopped⟩
  · rw [hv]
    obtain ⟨hwait, hkeep⟩ := exec_lookupReceive_of_awaited (p := p) hon hnow hfind hcoll hkind hroot hopen hsrc hrow hj
    exact ⟨hwait, fun hserved hshort => ⟨_, hkeep hserved hshort, s.keepPiece_spec f k c j⟩⟩
  · rw [hvs]
    exact exec_sourceReceive_of_home hon hnow hfind hcoll hkind hkey hrank he hin hroot hu
  · rw [hv] at hserved
    have htake := j.take_only (ksRank f) f.hdr.offset.toNat f.payload s.now
    obtain ⟨hcoll', -, honly⟩ := s.keepPiece_spec f k c _
    refine ⟨_, _, exec_convertedReceive_of_awaited hon hnow hsound hserved hfind hcoll hkind hroot hopen hsrc hj hrow
      habandoned hrank hnew hshort rfl, hcoll', rfl, ?_, ?_, ?_, honly⟩
    · exact (congrArg Kernel.rows htake :)
    · exact (congrArg Kernel.served htake :)
    · exact congrArg (fun i => i.nonfin + _) htake
  · rw [hu]
    exact exec_resultReceive_of_coll hon hnow hfind hcoll
  · obtain ⟨clamped, hconvert⟩ := State.convert_of_sound k hsound hbs
    exact ⟨_, _, (exec_conversionDone_of_first hon hlocked hpoint hfirst).trans (congrArg _ hconvert), rfl, rfl, rfl⟩

end Sys2Proof.Machine

/-! Fences by command (12 R335, 05 R142, 14 Table 14.4): ING_FENCE, PORT_ENABLE and UNIT_FENCE. -/

namespace Sys2Proof.Machine

/-! ### ING_FENCE (12 R335) -/

/-- The mailboxes keep their owners while a command is taken. -/
theorem State.requester_taken (s : State) (m : BitVec 6) (r : Req) : (s.taken m).requester r = s.requester r := by
  have howner : ((s.taken m).mbx r.cmd.mbx).owner = (s.mbx r.cmd.mbx).owner := by
    unfold State.taken State.startCmd
    rw [State.mbx_setMbx]
    split
    · next h => rw [h]
    · rfl
  unfold State.requester
  rw [howner]

theorem State.fenceChannelCmd_of_fenced {s : State} {r : Req} {k c : Nat}
    (hfenced : (s.chan k c).fenced = true ∨ (s.stack k).fenced = true) :
    s.fenceChannelCmd r k c = s.complete r.cmd 0 0 [] := by
  refine if_pos ?_
  rwa [Bool.or_eq_true]

/-- A command that waits until the channel is FENCED. -/
def State.awaitFence (s : State) (r : Req) (k c : Nat) : State :=
  s.setStack k { s.stack k with fenceCmd := (s.stack k).fenceCmd ++ [(c, r.cmd)] }

/-- A channel in service is recorded, as commanded, and its fence queued; the command waits. -/
theorem State.fenceChannelCmd_of_served {s : State} {r : Req} {k c : Nat} (hchan : (s.chan k c).fenced = false)
    (hstack : (s.stack k).fenced = false) (hgone : s.chanGone k c = false) : s.fenceChannelCmd r k c =
      ((s.awaitFence r k c).record 2 7 (16 * k + c) 0x0707 (s.requester r)).queueFence k c := by
  unfold State.fenceChannelCmd
  rw [hchan, hstack, hgone]
  rfl

theorem exec_ingFence_of_fits {s : State} {m : BitVec 6} (hfits : s.fits m 0x404) : exec (.ingFence m) s =
    .next ((s.taken m).fenceChannelCmd (s.reqAt m) ((s.reqAt m).b 0) ((s.reqAt m).b 1)) :=
  State.command_fits hfits (by decide)

/-! ### PORT_ENABLE (05 R142) -/

/-- A FENCED port trains where it may, and is DOWN where it may not. -/
theorem State.runPortEnable_of_fenced {s : State} {r : Req} (hfenced : (s.port (r.b 0)).st = .fenced) :
    ∃ v : Port, (v.st = .training ∨ v.st = .down) ∧
      s.runPortEnable r = (s.setPort (r.b 0) v).complete r.cmd 0 0 [] := by
  unfold State.runPortEnable
  dsimp only
  rw [if_neg (not_not_intro hfenced)]
  split
  · exact ⟨_, .inl rfl, by rw [State.port_setPort_self, State.setPort_setPort]; rfl⟩
  · exact ⟨_, .inr rfl, rfl⟩

/-! ### UNIT_FENCE (14 Table 14.4) -/

/-- The unit of a kind below 5 is fenced and recorded with source 0x0707, or is fenced already; the command completes. -/
theorem State.runUnitFence_of_unit {s : State} {r : Req} (hkind : r.b 0 < 5) : s.runUnitFence r = State.complete
    (if s.unitFenced (r.b 0) (r.h 1) then s
     else if r.b 0 = 0 then (s.record 2 2 (r.h 1) 0x0707 (s.requester r)).fenceLane (r.h 1)
     else if r.b 0 = 1 then s.fencePort (r.h 1) 0x0707 (s.requester r)
     else if r.b 0 = 2 then (s.record 2 4 (r.h 1) 0x0707 (s.requester r)).fenceEngine (r.h 1)
     else if r.b 0 = 3 then (s.record 2 5 (r.h 1) 0x0707 (s.requester r)).fenceTile (r.h 1)
     else (s.record 2 6 (r.h 1) 0x0707 (s.requester r)).fenceCluster (r.h 1)) r.cmd 0 0 [] := by
  unfold State.runUnitFence
  dsimp only
  rw [if_neg (by omega : r.b 0 ≠ 5)]
  split
  · rfl
  · generalize r.b 0 = kind at *
    interval_cases kind <;> rfl

/-- Settles O10: a channel is `State.fenceChannelCmd_of_fenced` or `State.fenceChannelCmd_of_served`, a port
`State.runPortEnable_of_fenced`, any other unit `State.runUnitFence_of_unit`. -/
theorem fenceCommandsComplete : Obligations.FenceCommandsComplete := by
  refine ⟨fun s m r hfits hr => ?_, fun s r k c hchan hstack hgone => ?_, fun s m r hfits hr hfenced => ?_,
    fun s m r hfits hr hkind => ?_⟩
  · subst hr
    refine (exec_ingFence_of_fits hfits).trans (congrArg _ ?_)
    split
    · next hfenced => exact State.fenceChannelCmd_of_fenced (s := s.taken m) hfenced
    · rfl
  · exact ⟨_, State.fenceChannelCmd_of_served hchan hstack hgone,
      congrArg Stack.fenceCmd (State.stack_setStack_self ..), rfl⟩
  · subst hr
    obtain ⟨v, hst, hrun⟩ := State.runPortEnable_of_fenced (s := s.taken m) hfenced
    refine ⟨_, (State.command_fits hfits (by decide)).trans (congrArg _ hrun), ?_, fun p hp => ?_, rfl⟩
    · rwa [State.port_setPort_self]
    · exact (State.port_setPort ..).trans (if_neg hp.symm)
  · subst hr
    have hrun := State.runUnitFence_of_unit (s := s.taken m) hkind
    rw [State.requester_taken] at hrun
    exact (State.command_fits hfits (by decide)).trans (congrArg _ hrun)

end Sys2Proof.Machine

/-! Upkeep of Ingot (12 R329, R334, R335, R338; 14 R406): scrub, refresh, heat, page moves and the end of training. -/

namespace Sys2Proof.Machine

/-! ### Codewords read one by one (12 R334) -/

theorem lineRunAfter_of_clean (run : Option (Nat × Nat)) (n : Nat) :
    lineRunAfter run (List.replicate (n + 1) .clean) = (none, false) := by
  induction n generalizing run with
  | zero => rfl
  | succ n ih => exact ih none

/-- Codewords corrected on the line of a run lengthen it, to 64 or beyond. -/
theorem lineRunAfter_of_line (l : BitVec 7) {n m : Nat} (hm : 0 < m) (hlong : 64 ≤ n + m) :
    (lineRunAfter (some (l.toNat, n)) (List.replicate m (.corrected (some l)))).2 = true := by
  induction m generalizing n with
  | zero => exact absurd hm (Nat.lt_irrefl 0)
  | succ m ih =>
    have hnext : (lineRunAfter (some (l.toNat, n)) (List.replicate (m + 1) (.corrected (some l)))).2 =
        (decide (64 ≤ n + 1) || (lineRunAfter (some (l.toNat, n + 1)) (List.replicate m (.corrected (some l)))).2) := by
      simp [List.replicate_succ, lineRunAfter]
    rw [hnext, Bool.or_eq_true]
    cases m with
    | zero => exact .inl (decide_eq_true hlong)
    | succ m => exact .inr (ih (Nat.succ_pos m) (by omega))

/-- Clean codewords end the run and do nothing besides. -/
theorem State.wordsRead_of_clean {s : State} {k c n : Nat} {ws : List (Option Nat × Codeword)} (r : RowAt)
    (hclean : ws.map Prod.snd = List.replicate (n + 1) .clean) : s.wordsRead k c r ws = s.endRun k c := by
  have hword (w) (hw : w ∈ ws) : w.2 = .clean :=
    List.eq_of_mem_replicate (hclean ▸ List.mem_map_of_mem hw)
  have hcorr : ws.filter (fun w => isCorrected w.2) = [] := List.filter_eq_nil_iff.mpr fun w hw => by
    rw [hword w hw]
    decide
  have hbad : ws.filter (fun w => w.2 == .uncorrectable) = [] := List.filter_eq_nil_iff.mpr fun w hw => by
    rw [hword w hw]
    decide
  unfold State.wordsRead
  rw [hclean, lineRunAfter_of_clean, hcorr, hbad]
  rfl

/-- A run that reaches 64 fences the channel, whatever the codewords did before. -/
theorem State.wordsRead_of_run {s : State} {k c : Nat} {ws : List (Option Nat × Codeword)} (r : RowAt)
    (hrun : (lineRunAfter (s.chan k c).lineRun (ws.map Prod.snd)).2 = true) :
    ∃ u : State, s.wordsRead k c r ws = u.fenceChannel k c 1 :=
  ⟨_, if_pos hrun⟩

theorem State.stack_endRun (s : State) (k c : Nat) :
    (s.endRun k c).stack k = { s.stack k with chans := ((s.endRun k c).stack k).chans } := by
  unfold State.endRun
  split
  · rfl
  · rw [State.stack_setChan_self]

/-! ### The scrubber (12 R329) -/

/-- With the last row of a channel its pass is complete. -/
def State.lastRow (s : State) (k c : Nat) : Bool := decide (2359296 ≤ tget (s.stack k).scrubPos c 0 + 1)

/-- The scrubber of a channel moves to the next row. -/
def State.advance (s : State) (k c : Nat) : State :=
  (s.setStack k { s.stack k with
    scrubPos := tset (s.stack k).scrubPos c (if s.lastRow k c then 0 else tget (s.stack k).scrubPos c 0 + 1),
    scrubbed := tset (s.stack k).scrubbed c s.clk,
    rowCe := if s.lastRow k c then (s.stack k).rowCe.filter (fun e => e.1 / 4194304 != c) else (s.stack k).rowCe }).bump
    (aIng k + 0x28) (b2n (s.lastRow k c))

theorem State.stack_advance (s : State) (k c : Nat) : (s.advance k c).stack k = { s.stack k with
    scrubPos := tset (s.stack k).scrubPos c (if s.lastRow k c then 0 else tget (s.stack k).scrubPos c 0 + 1),
    scrubbed := tset (s.stack k).scrubbed c s.clk,
    rowCe := if s.lastRow k c then (s.stack k).rowCe.filter (fun e => e.1 / 4194304 != c) else (s.stack k).rowCe } := by
  unfold State.advance
  rw [State.bump_only]
  exact State.stack_setStack_self ..

theorem State.advance_only (s : State) (k c : Nat) : s.advance k c = { s with
    cnt := (s.advance k c).cnt, ing := { s.ing with stks := (s.advance k c).ing.stks } } := by
  unfold State.advance
  rw [State.bump_only]
  rfl

theorem State.chan_advance (s : State) (k c : Nat) : (s.advance k c).chan k c = s.chan k c := by
  rw [State.chan, State.stack_advance]
  rfl

/-- Codewords of a row as they are read, each with its address. -/
def State.rowWords (s : State) (k c : Nat) (r : RowAt) (ws : List (List Byte)) : List (Option Nat × Codeword) :=
  ws.mapIdx (fun i w =>
    let a := (s.pageIn (r.page k c)).map (fun p => 65536 * p + r.word k c i)
    (a, s.wordAt a w))

theorem State.scrub_eq (s : State) (k c : Nat) (ws : List (List Byte)) : s.scrub k c ws =
    (s.advance k c).wordsRead k c (rowNo (tget (s.stack k).scrubPos c 0))
      ((s.advance k c).rowWords k c (rowNo (tget (s.stack k).scrubPos c 0)) ws) := rfl

/-- Without poison a row reads as the corrector finds its codewords. -/
theorem State.rowWords_of_no_poison {s : State} (k c : Nat) (r : RowAt) (ws : List (List Byte))
    (hpoison : s.ing.poison = []) : (s.rowWords k c r ws).map Prod.snd = ws.map codewordOf := by
  have hword (a : Option Nat) (w : List Byte) : s.wordAt a w = codewordOf w := by
    unfold State.wordAt
    rw [hpoison]
    cases a <;> rfl
  refine List.ext_getElem (by simp [State.rowWords]) fun i _ _ => ?_
  simp [State.rowWords, hword]

theorem State.map_snd_rowWords_advance {s : State} {k c : Nat} (r : RowAt) (ws : List (List Byte))
    (hpoison : s.ing.poison = []) : ((s.advance k c).rowWords k c r ws).map Prod.snd = ws.map codewordOf :=
  State.rowWords_of_no_poison _ _ _ _ (by rw [State.advance_only, hpoison])

/-- A clean row moves the scrubber on and ends the run of corrected codewords. -/
theorem State.scrub_of_clean {s : State} {k c : Nat} {ws : List (List Byte)} (hpoison : s.ing.poison = [])
    (hclean : ws.map codewordOf = List.replicate 32 .clean) : s.scrub k c ws = (s.advance k c).endRun k c :=
  (State.scrub_eq ..).trans (State.wordsRead_of_clean _ ((State.map_snd_rowWords_advance _ _ hpoison).trans hclean))

/-- A row corrected on the data line of a run of 32 or more takes the run to 64, and fences the channel. -/
theorem State.scrub_of_line {s : State} {k c n : Nat} {l : BitVec 7} {ws : List (List Byte)} (hpoison : s.ing.poison = [])
    (hline : (s.chan k c).lineRun = some (l.toNat, n)) (hlong : 32 ≤ n)
    (hws : ws.map codewordOf = List.replicate 32 (.corrected (some l))) :
    ∃ u : State, s.scrub k c ws = u.fenceChannel k c 1 := by
  rw [State.scrub_eq]
  refine State.wordsRead_of_run _ ?_
  rw [State.chan_advance, hline, State.map_snd_rowWords_advance _ _ hpoison, hws]
  exact lineRunAfter_of_line l (by decide) (by omega)

/-- A row of a channel in service that was not scrubbed yet is due. -/
theorem exec_scrubRow_of_due {s : State} {k : BitVec 2} {c : BitVec 4} (ws : List (List Byte)) (hon : s.on = true)
    (hready : (s.stack k.toNat).ready = true) (hstack : (s.stack k.toNat).fenced = false)
    (hchan : (s.chan k.toNat c.toNat).fenced = false) (hfirst : tfind (s.stack k.toNat).scrubbed c.toNat = none) :
    exec (.scrubRow k c ws) s = .next (s.scrub k.toNat c.toNat ws) := by
  refine due_of_true ?_
  rw [hon, hready, hstack, hchan, hfirst]
  rfl

/-! ### A channel on its way to FENCED (12 R335, R337) -/

/-- Pages that are remapped leave the channels of every stack. -/
theorem State.chans_remapPage (s : State) (k p j : Nat) : ((s.remapPage k p).stack j).chans = (s.stack j).chans := by
  unfold State.remapPage
  split
  · rfl
  · refine (congrArg Stack.chans (State.stack_setStack ..)).trans ?_
    split
    · next h => rw [h]
    · rfl

theorem State.chan_remapFree (s : State) (k c : Nat) : (s.remapFree k c).chan k c = s.chan k c :=
  congrArg (tget · c Chan.init) (foldl_apply_eq (fun t : State => (t.stack k).chans) fun t p => t.chans_remapPage k p k)

theorem State.checkShort_ing (s : State) : s.checkShort.ing = s.ing := by
  unfold State.checkShort
  split
  · rw [State.record_only]
  · rfl

theorem State.foldl_complete_ing (s : State) (cmds : List Cmd) :
    (cmds.foldl (fun s m => s.complete m rOk 0 []) s).ing = s.ing :=
  foldl_apply_eq State.ing fun t m => by rw [State.complete_only]

theorem State.foldl_failKernels_ing (s : State) (ps : List Nat) :
    (ps.foldl (fun s p => s.failKernels p) s).ing = s.ing :=
  foldl_apply_eq State.ing fun t p => by rw [State.failKernels_only]

theorem State.stack_eq_of_ing {s t : State} (h : t.ing = s.ing) (k : Nat) : t.stack k = s.stack k :=
  congrArg (fun i : Ingot => tget i.stks k Stack.init) h

theorem State.fenced_fenceStack (s : State) (k : Nat) : ((s.fenceStack k).stack k).fenced = true := by
  unfold State.fenceStack
  split
  · assumption
  · dsimp only
    rw [State.stack_eq_of_ing ((State.checkShort_ing _).trans (State.foldl_failKernels_ing ..))]
    show (State.stack (List.foldl ..) k).fenced = true
    rw [State.stack_eq_of_ing (State.foldl_complete_ing ..), State.record_only]
    exact congrArg Stack.fenced (State.stack_setStack_self ..)

/-- The channel is FENCED in its stack and in boot flash, and the commands that waited for it complete. -/
def State.closeChan (s : State) (k c : Nat) : State :=
  let s := s.setChan k c { s.chan k c with fenced := true, evac := false }
  let s := { s with flash := { s.flash with fences := s.flash.fences ++ [16 * k + c] } }
  let cmds := ((s.stack k).fenceCmd.filter (fun e => e.1 == c)).map Prod.snd
  let s := s.setStack k { s.stack k with fenceCmd := (s.stack k).fenceCmd.filter (fun e => e.1 != c) }
  cmds.foldl (fun s m => s.complete m rOk 0 []) s

theorem State.chanFenced_eq (s : State) (k c : Nat) : s.chanFenced k c =
    if (List.range 16).all (fun i => ((s.closeChan k c).chan k i).fenced) then (s.closeChan k c).fenceStack k
    else s.closeChan k c := rfl

theorem State.fenced_closeChan (s : State) (k c : Nat) : ((s.closeChan k c).chan k c).fenced = true := by
  unfold State.closeChan State.chan
  dsimp only
  rw [State.stack_eq_of_ing (State.foldl_complete_ing ..), State.stack_setStack_self]
  exact congrArg Chan.fenced (State.chan_setChan_self ..)

/-- A channel without a page left to move is FENCED, alone or with its stack. -/
theorem State.chanGone_chanFenced (s : State) (k c : Nat) : (s.chanFenced k c).chanGone k c = true := by
  rw [State.chanFenced_eq]
  split
  · rw [State.chanGone, State.fenced_fenceStack, Bool.or_true]
  · simp [State.chanGone, State.fenced_closeChan]

/-- A channel whose fence starts has its pages to move, or is FENCED at once. -/
theorem State.chanGone_startFence (s : State) (k c : Nat) : (s.startFence k c).chanGone k c = true := by
  unfold State.startFence
  dsimp only
  split
  · exact State.chanGone_chanFenced ..
  · have hevac : (((s.setChan k c { s.chan k c with evac := true }).remapFree k c).chan k c).evac = true := by
      rw [State.chan_remapFree, State.chan_setChan_self]
    rw [State.chanGone, State.chan, State.stack_eq_of_ing (State.checkShort_ing _), State.stack_setStack_self]
    rw [State.chan] at hevac
    simp [hevac]

/-- A channel to be fenced is gone: it was already, waits behind another of its stack, or starts (12 R334, R342). -/
theorem State.chanGone_fenceChannel (s : State) (k c cause : Nat) : (s.fenceChannel k c cause).chanGone k c = true := by
  unfold State.fenceChannel
  split
  · assumption
  · unfold State.queueFence
    split
    · simp [State.chanGone]
    · exact State.chanGone_startFence ..

/-! ### Refresh and heat (12 R338) -/

theorem exec_refresh_of_again {s : State} {k : BitVec 2} {c i : BitVec 4} {t row : Nat} (hon : s.on = true)
    (hi : i.toNat < 12) (hlast : tfind (s.stack k.toNat).refreshed (16 * c.toNat + i.toNat) = some (t, row)) :
    exec (.refresh k c i) s = .next (if t + (if (s.stack k.toNat).hot then 2600 else 5200) ≤ s.clk
      then s.setStack k.toNat { s.stack k.toNat with
        refreshed := tset (s.stack k.toNat).refreshed (16 * c.toNat + i.toNat) (s.clk, (row + 2) % 12288) }
      else s) := by
  show execRefresh k c i s = _
  simp [execRefresh, due, tget, hon, hi, hlast]

theorem exec_refresh_of_first {s : State} {k : BitVec 2} {c i : BitVec 4} {t row : Nat} (hon : s.on = true)
    (hpos : 0 < i.toNat) (hi : i.toNat < 12)
    (hnone : tfind (s.stack k.toNat).refreshed (16 * c.toNat + i.toNat) = none)
    (hbefore : tfind (s.stack k.toNat).refreshed (16 * c.toNat + i.toNat - 1) = some (t, row)) :
    exec (.refresh k c i) s = .next (if 3 * t + 1300 ≤ 3 * s.clk
      then s.setStack k.toNat { s.stack k.toNat with
        refreshed := tset (s.stack k.toNat).refreshed (16 * c.toNat + i.toNat) (s.clk, 2) }
      else s) := by
  have hsid : i ≠ 0#4 := by
    rintro rfl
    exact absurd hpos (Nat.lt_irrefl 0)
  show execRefresh k c i s = _
  simp [execRefresh, due, tget, hon, hi, hnone, hbefore, hsid]

theorem exec_dramHot_of_on {s : State} (k : BitVec 2) (temp : Byte) (hon : s.on = true) :
    exec (.dramHot k temp) s = .next (if 85 < temp.toNat ∧ (s.stack k.toNat).hot = false
      then (s.setStack k.toNat { s.stack k.toNat with temp := temp.toNat, hot := true }).record 0 8 k.toNat 0x0606 temp.toNat
      else s.setStack k.toNat { s.stack k.toNat with temp := temp.toNat, hot := decide (85 < temp.toNat) }) := by
  refine (due_of_true hon).trans (congrArg _ ?_)
  by_cases hhot : 85 < temp.toNat <;> simp [hhot]

/-! ### Pages of a channel being fenced (12 R335) -/

section
variable (s : State) (k : Nat) (l : List Nat)

/-- The pages of a stack that are still to be moved. -/
def State.setMoving : State := s.setStack k { s.stack k with moving := l }

@[simp] theorem State.stack_setMoving : (s.setMoving k l).stack k = { s.stack k with moving := l } :=
  State.stack_setStack_self ..

@[simp] theorem State.chanOut_setMoving (c : Nat) : (s.setMoving k l).chanOut k c = s.chanOut k c := by
  simp [State.chanOut, State.chan]

@[simp] theorem State.lostPages_setMoving : (s.setMoving k l).ing.lostPages = s.ing.lostPages := rfl

theorem State.rsvFree_setMoving : (s.setMoving k l).rsvFree k = s.rsvFree k := by
  simp [State.rsvFree]

theorem State.rsvFrom_setMoving (n i : Nat) : (s.setMoving k l).rsvFrom k n i = s.rsvFrom k n i := by
  have hok (q : Nat) : (s.setMoving k l).rsvOk k q = s.rsvOk k q := by
    simp [State.rsvOk]
  induction n generalizing i with
  | zero => rfl
  | succ n ih => rw [State.rsvFrom, State.rsvFrom, hok, ih]

end

/-- A page of the RESERVE takes the place of a page, in boot flash too; the page in whose place it lay before is lost. -/
theorem State.remapPage_spec {s : State} {k r : Nat} (p : Nat) (hfree : s.rsvFrom k 9216 0 = some r) :
    (s.remapPage k p).stack k = { s.stack k with remap := tset (s.stack k).remap p r } ∧
    (∀ j, j ≠ k → (s.remapPage k p).stack j = s.stack j) ∧
    s.remapPage k p = { s with
      flash := { s.flash with remaps := tset s.flash.remaps p r },
      ing := { s.ing with
        stks := (s.remapPage k p).ing.stks, lostPages := s.ing.lostPages ++ (tfind (s.stack k).remap p).toList } } := by
  unfold State.remapPage
  rw [hfree]
  exact ⟨State.stack_setStack_self .., fun j hj => (State.stack_setStack ..).trans (if_neg hj.symm), rfl⟩

/-- A page that is copied is remapped while the RESERVE lasts; the fence goes on with the next page. -/
theorem State.pageMoved_of_copied {s : State} {k c p q : Nat} {l : List Nat} (hevac : s.evacChan k = some c)
    (hmoving : (s.stack k).moving = p :: q :: l) (hroom : 0 < s.rsvFree k) :
    s.pageMoved k true = (s.setMoving k (q :: l)).remapPage k p := by
  rw [← State.rsvFree_setMoving s k (q :: l)] at hroom
  unfold State.pageMoved
  rw [hevac, hmoving]
  dsimp only
  rw [if_neg (by simp), Bool.true_and]
  exact if_pos (decide_eq_true hroom)

theorem exec_pageMoveDone_of_copied {s : State} {k : BitVec 2} {c p q : Nat} {l : List Nat} (hon : s.on = true)
    (hready : (s.stack k.toNat).ready = true) (hevac : s.evacChan k.toNat = some c)
    (hmoving : (s.stack k.toNat).moving = p :: q :: l) (hroom : 0 < s.rsvFree k.toNat) :
    exec (.pageMoveDone k true) s = .next ((s.setMoving k.toNat (q :: l)).remapPage k.toNat p) :=
  (due_of_true (by rw [hon, hready]; rfl)).trans (congrArg _ (State.pageMoved_of_copied hevac hmoving hroom))

/-! ### The end of training (14 R406, 10 R278) -/

/-- A record is closed, but for one of class X. -/
def Rec.close (r : Rec) : Rec := if r.cls = 3 then r else { r with st := 2 }

theorem Rec.close_spec (r : Rec) : r.close.st = 2 ∨ r.close.cls = 3 := by
  unfold Rec.close
  split
  · exact .inr ‹_›
  · exact .inl rfl

/-- The open records are closed, and their timers end. -/
def State.closeRecs (s : State) : State :=
  { s with flt := { s.flt with recs := tmap s.flt.recs (fun _ r => r.close), timers := [] } }

/-- A stack is ready unless it is fenced. -/
def State.makeReady (s : State) (k : Nat) : State := s.setStack k { s.stack k with ready := !(s.stack k).fenced }

theorem State.stack_makeReady (s : State) (k j : Nat) : (s.makeReady k).stack j =
    if k = j then { s.stack j with ready := !(s.stack j).fenced } else s.stack j := by
  refine (State.stack_setStack ..).trans ?_
  split
  · next h => rw [h]
  · rfl

theorem State.ready_foldl_makeReady {s : State} {k : Nat} {l : List Nat} (hfenced : (s.stack k).fenced = false)
    (hk : k ∈ l ∨ (s.stack k).ready = true) : ((l.foldl State.makeReady s).stack k).ready = true := by
  induction l generalizing s with
  | nil => simpa using hk
  | cons j l ih =>
    have hstack := s.stack_makeReady j k
    refine ih ?_ ?_
    · rw [hstack]
      split <;> exact hfenced
    · rw [hstack]
      by_cases hj : j = k
      · simp [hj, hfenced]
      · simpa [hj, Ne.symm hj] using hk

theorem State.foldl_makeReady_only (s : State) (l : List Nat) : l.foldl State.makeReady s =
    { s with ing := { s.ing with stks := (l.foldl State.makeReady s).ing.stks } } := by
  induction l generalizing s with
  | nil => rfl
  | cons j l ih => exact ih (s.makeReady j)

/-- Where no channel fails in training, and each stack has one in service, every stack is ready that is not fenced. -/
theorem State.trained_of_sound {s : State} (hserved : ∀ k, k < 4 → ∃ c, c < 16 ∧ (s.chan k c).fenced = false) :
    s.trained [] = ((List.range 4).foldl State.makeReady s.closeRecs).recoverPewter := by
  have hdead (k : Nat) (hk : k ∈ List.range 4) :
      (List.range 16).all (fun c => ([] : List (Nat × Nat)).contains (k, c) || (s.chan k c).fenced) = false := by
    obtain ⟨c, hc, hfenced⟩ := hserved k (List.mem_range.mp hk)
    exact List.all_eq_false.mpr ⟨c, List.mem_range.mpr hc, by simp [hfenced]⟩
  unfold State.trained
  exact congrArg State.recoverPewter
    (List.foldl_ext _ _ _ fun t k hk => if_neg (ne_true_of_eq_false (hdead k hk)))

/-- A step that was pending when the state was kept is marked for re-execution (10 R278). -/
def Tensor.recovered (t : Tensor) : Tensor :=
  if t.ver.pending = 0 then t else { t with ver := { t.ver with pending := 0, reexec := true } }

theorem Tensor.recovered_spec (t : Tensor) : t.recovered.ver.pending = 0 ∧ t.recovered.w = t.w ∧
    t.recovered.ver.reexec = (t.ver.reexec || t.ver.pending != 0) := by
  unfold Tensor.recovered
  split
  · next h => simp [h]
  · next h => simp [h]

theorem State.recoverPewter_only (s : State) : s.recoverPewter = { s with
    flt := { s.flt with rejoin := s.recoverPewter.flt.rejoin, acts := s.recoverPewter.flt.acts },
    tensors := s.recoverPewter.tensors,
    ing := { s.ing with
      pages := s.recoverPewter.ing.pages, poison := s.recoverPewter.ing.poison, maps := s.recoverPewter.ing.maps } } := rfl

theorem State.tensor_recoverPewter (s : State) (c i : Nat) :
    s.recoverPewter.tensor c i = (s.tensor c i).map Tensor.recovered :=
  tfind_tmap s.tensors (fun _ => Tensor.recovered) (tkey c i)

/-- What holds a page until an update or a transfer ends. -/
def Holder.passing : Holder → Bool
  | .state _ _ _ => false
  | .region _ _ => false
  | _ => true

theorem State.pages_recoverPewter (s : State) : s.recoverPewter.ing.pages = (s.freePages Holder.passing).ing.pages := rfl

/-- The pages that stay in use are those of states and regions. -/
theorem State.holder_of_mem_recoverPewter {s : State} {p : Page} (hp : p ∈ s.recoverPewter.ing.pages) :
    (∃ x i a, p.holder = .state x i a) ∨ ∃ x i, p.holder = .region x i := by
  rw [State.pages_recoverPewter] at hp
  have hkept := (State.mem_pages_freePages.mp hp).2
  unfold Holder.passing at hkept
  split at hkept
  · next x i a h => exact .inl ⟨x, i, a, h⟩
  · next x i h => exact .inr ⟨x, i, h⟩
  · cases hkept

/-- INGOT_TRAINED without a channel that failed, while stacks wait for it. -/
theorem exec_ingotTrained_of_sound {s : State} (hbrass : s.brass = true)
    (hwait : ∀ k, k < 4 → (s.stack k).fenced = false ∧ (s.stack k).ready = false)
    (hserved : ∀ k, k < 4 → ∃ c, c < 16 ∧ (s.chan k c).fenced = false) :
    exec (.ingotTrained []) s = .next ((List.range 4).foldl State.makeReady s.closeRecs).recoverPewter := by
  obtain ⟨hfenced, hready⟩ := hwait 0 (by decide)
  have hwaiting : ((List.range 4).any fun k => !(s.stack k).ready && !(s.stack k).fenced) = true :=
    List.any_eq_true.mpr ⟨0, by decide, by rw [hready, hfenced]; rfl⟩
  exact (due_of_true (by rw [hbrass, hwaiting]; rfl)).trans (congrArg _ (State.trained_of_sound hserved))

/-- Settles O48: a row of clean codewords moves the scrubber on (`State.scrub_of_clean`), a run of 64 fences the channel
(`State.scrub_of_line`, `State.chanGone_fenceChannel`); a slice is refreshed as `exec_refresh_of_again` and
`exec_refresh_of_first` say, a hot die is `exec_dramHot_of_on`, a page that is copied `State.remapPage_spec`, and the end
of training `exec_ingotTrained_of_sound`. -/
theorem ingotUpkeep : Obligations.IngotUpkeep := by
  refine ⟨fun s k c ws hon hready hstack hchan hfirst hpoison hclean => ?_,
    fun s k c l n ws hon hready hstack hchan hfirst hline hlong hpoison hws => ?_,
    fun s k c i t row hon hi hlast => exec_refresh_of_again hon hi hlast,
    fun s k c i t row hon hpos hi hnone hbefore => exec_refresh_of_first hon hpos hi hnone hbefore,
    fun s k temp hon => exec_dramHot_of_on k temp hon,
    fun s k c p q r l hon hready hevac hmoving hroom hfree => ?_,
    fun s hbrass hwait hserved => ?_⟩
  · have hstk := (s.advance k.toNat c.toNat).stack_endRun k.toNat c.toNat
    rw [State.stack_advance] at hstk
    refine ⟨_, (exec_scrubRow_of_due ws hon hready hstack hchan hfirst).trans
      (congrArg _ (State.scrub_of_clean hpoison hclean)), ?_, ?_, ?_, ?_⟩
    · rw [hstk]
      refine tget_tset.trans ((if_pos rfl).trans ?_)
      simp [State.lastRow]
    · rw [hstk]
      exact tfind_tset.trans (if_pos rfl)
    · rw [State.endRun_only]
      refine (State.cntAt_bump_self ..).trans ?_
      simp [State.lastRow, b2n, State.cntAt]
    · rw [State.endRun_only, State.advance_only]
  · obtain ⟨u, hu⟩ := State.scrub_of_line hpoison hline hlong hws
    exact ⟨_, (exec_scrubRow_of_due ws hon hready hstack hchan hfirst).trans (congrArg _ hu),
      State.chanGone_fenceChannel ..⟩
  · obtain ⟨hself, hother, honly⟩ := State.remapPage_spec (s := s.setMoving k.toNat (q :: l)) p
      ((State.rsvFrom_setMoving ..).trans hfree)
    rw [State.stack_setMoving] at hself
    refine ⟨_, exec_pageMoveDone_of_copied hon hready hevac hmoving hroom, ?_, ?_, ?_, ?_, fun j hj => ?_, ?_⟩
    · rw [hself]
    · rw [hself]
      exact tfind_tset.trans (if_pos rfl)
    · rw [honly]
      exact tfind_tset.trans (if_pos rfl)
    · rw [honly, State.stack_setMoving]
      rfl
    · exact (hother j hj).trans ((State.stack_setStack ..).trans (if_neg hj.symm))
    · rw [honly]
      rfl
  · have hexec := exec_ingotTrained_of_sound hbrass hwait hserved
    have hready (k : Nat) (hk : k < 4) := State.ready_foldl_makeReady (s := s.closeRecs) (hwait k hk).1
      (.inl (List.mem_range.mpr hk))
    have honly := s.closeRecs.foldl_makeReady_only (List.range 4)
    generalize (List.range 4).foldl State.makeReady s.closeRecs = u at *
    have hrecs : u.flt.recs = tmap s.flt.recs (fun _ r => r.close) := by rw [honly]; rfl
    have htensors : u.tensors = s.tensors := by rw [honly]; rfl
    refine ⟨_, hexec, hready, fun e he => ?_, fun p hp => State.holder_of_mem_recoverPewter hp, fun c i v hv => ?_, ?_⟩
    · rw [State.recoverPewter_only, hrecs] at he
      obtain ⟨e', -, rfl⟩ := List.mem_map.mp he
      exact e'.2.close_spec
    · refine ⟨v.recovered, ?_, v.recovered_spec⟩
      rw [State.tensor_recoverPewter, State.tensor, htensors]
      exact congrArg (Option.map Tensor.recovered) hv
    · rw [State.recoverPewter_only, honly]
      rfl

end Sys2Proof.Machine

/-! What a step keeps (13 R362, Table 13.5; 11 R292; 12 R322). -/

namespace Sys2Proof.Machine

/-- A step from a sound state leaves a sound state: a nanosecond passes, or the command at the front of the queue is run. -/
theorem step_inv {s t : State} (hinv : s.Inv) (hstep : step s = .next t) : t.Inv := by
  unfold step at hstep
  split at hstep
  · obtain rfl := Host.Outcome.next.inj hstep
    exact (State.tick_keep (Keep.self s)).inv hinv
  · next c rest _ => exact ((exec_keep (Keep.self { s with pending := rest }) c).of t hstep).inv hinv

/-- Settles O55: what passes time (`State.tick_keep`) and what every command does (`exec_keep`) keep a sound state sound. -/
theorem stepKeepsInvariant : Obligations.StepKeepsInvariant := fun _ _ => step_inv

end Sys2Proof.Machine

/-! Completions (13 R355 to R361): a command that runs from an open mailbox with room for its completion changes that mailbox and
Solder alone. -/

namespace Sys2Proof.Machine

/-! ### Closes that wait (13 Table 13.9) -/

theorem State.tryClose_of_open {s : State} {m : Nat} (n : Nat) (h : (s.mbx m).closing = none) : State.tryClose n s m = s := by
  cases n with
  | zero => rfl
  | succ n => rw [State.tryClose, h]

theorem State.sendMgmt_mbx (s : State) (dest msub : Nat) (host : Bool) (mbx tag offset arg : Nat) (bs : List Byte) (j : Nat) :
    (s.sendMgmt dest msub host mbx tag offset arg bs).mbx j = s.mbx j := by
  rw [State.sendMgmt_only]
  rfl

theorem State.bump_mbx (s : State) (a n j : Nat) : (s.bump a n).mbx j = s.mbx j := by
  rw [State.bump_only]
  rfl

/-- A mailbox after a completion entry is written at its tail (R355, R358). -/
def Mbx.written (b : Mbx) (c : Cpl) : Mbx :=
  { b with cq := Mem.splice b.cq (128 * (b.cqTail % b.cqN)) (cplBytes c b.cqTail b.cqN), cqTail := (b.cqTail + 1) % 65536 }

theorem State.mbx_writeCpl_self (s : State) (m : Nat) (c : Cpl) : (s.writeCpl m c).mbx m = (s.mbx m).written c := by
  unfold State.writeCpl
  dsimp only
  split
  · split
    · exact State.mbx_setMbx_self ..
    · exact (State.sendMgmt_mbx ..).trans (State.mbx_setMbx_self ..)
  · exact State.mbx_setMbx_self ..

theorem State.writeCpl_closing (s : State) (m j : Nat) (c : Cpl) : ((s.writeCpl m c).mbx j).closing = (s.mbx j).closing := by
  by_cases hj : j = m
  · rw [hj, State.mbx_writeCpl_self]
    rfl
  · rw [(State.writeCpl_only s m c).2 j hj]

theorem State.setMbx_closing {s : State} {m : Nat} {b : Mbx} (h : b.closing = (s.mbx m).closing) (j : Nat) :
    ((s.setMbx m b).mbx j).closing = (s.mbx j).closing := by
  rw [State.mbx_setMbx]
  split
  · next hm => rw [← hm, h]
  · rfl

/-- A completion that is posted closes no mailbox and asks for no close. -/
theorem State.postCpl_closing (s : State) (m inst j : Nat) (c : Cpl) :
    ((s.postCpl m inst c).mbx j).closing = (s.mbx j).closing := by
  unfold State.postCpl
  dsimp only
  split
  · rfl
  · split
    · split
      · rw [State.bump_mbx]
      · rfl
    · split
      · split
        · split
          · rw [State.bump_mbx]
            exact State.setMbx_closing (by rfl) j
          · exact State.setMbx_closing (by rfl) j
        · exact State.setMbx_closing (by rfl) j
      · exact State.writeCpl_closing ..

theorem State.finish_closing (s : State) (c : Cmd) (result detail : Nat) (ret : List Byte) (j : Nat) :
    ((s.finish c result detail ret).mbx j).closing = (s.mbx j).closing := by
  unfold State.finish
  dsimp only
  rw [State.postCpl_closing]
  split
  · rfl
  · exact State.setMbx_closing (by rfl) j

/-! ### The completion of a command that was taken (13 R356 to R359) -/

/-- The completion entry of a command (13 Table 13.7). -/
def State.cplOf (s : State) (c : Cmd) (result detail : Nat) (ret : List Byte) : Cpl :=
  { opcode := c.opcode, result := result, tag := c.tag, index := c.index, detail := detail, count := s.now, ret := ret }

/-- The mailbox of a command that was taken from it: the request has left its ring, and no longer runs. -/
def Mbx.served (b : Mbx) (c : Cmd) : Mbx :=
  { b with rqHead := (b.rqHead + 1) % 65536, running := (b.running ++ [c]).filter (· != c) }

theorem State.mbx_taken (s : State) (m : BitVec 6) : (s.taken m).mbx m.toNat =
    { s.mbx m.toNat with rqHead := ((s.mbx m.toNat).rqHead + 1) % 65536, running := (s.mbx m.toNat).running ++ [s.cmdAt m] } :=
  State.mbx_setMbx_self ..

theorem State.mbx_taken_of_ne (s : State) {m : BitVec 6} {j : Nat} (hj : j ≠ m.toNat) : (s.taken m).mbx j = s.mbx j :=
  (State.mbx_setMbx ..).trans (if_neg hj.symm)

/-- A command that was taken completes at the completion tail of its mailbox. -/
theorem State.complete_taken {s : State} {m : BitVec 6} (htake : s.canTake m.toNat = true) (result detail : Nat)
    (ret : List Byte) : (s.taken m).complete (s.cmdAt m) result detail ret =
      (s.setMbx m.toNat ((s.mbx m.toNat).served (s.cmdAt m))).writeCpl m.toNat (s.cplOf (s.cmdAt m) result detail ret) := by
  obtain ⟨-, hopen, hclosing, hfull, hheld, -⟩ := State.canTake_spec htake
  have hm : ¬ 64 ≤ (s.cmdAt m).mbx := Nat.not_le.mpr m.isLt
  have hset : (s.taken m).setMbx m.toNat { (s.taken m).mbx m.toNat with
      running := ((s.taken m).mbx m.toNat).running.filter (· != s.cmdAt m) } =
      s.setMbx m.toNat ((s.mbx m.toNat).served (s.cmdAt m)) := by
    rw [State.mbx_taken]
    exact congrArg (fun t => { s with mbxs := t }) (tset_tset_self ..)
  have hfinish : (s.taken m).finish (s.cmdAt m) result detail ret =
      (s.setMbx m.toNat ((s.mbx m.toNat).served (s.cmdAt m))).writeCpl m.toNat (s.cplOf (s.cmdAt m) result detail ret) := by
    unfold State.finish
    dsimp only
    rw [if_neg hm]
    refine (congrArg (fun t : State => t.postCpl _ _ _) hset).trans ?_
    have hstays : ((s.mbx m.toNat).served (s.cmdAt m)).cqFull = false := hfull
    have hinst : ((s.mbx m.toNat).served (s.cmdAt m)).inst = (s.cmdAt m).inst := rfl
    have hopened : ((s.mbx m.toNat).served (s.cmdAt m)).opened = true := hopen
    have hnone : ((s.mbx m.toNat).served (s.cmdAt m)).held = [] := hheld
    unfold State.postCpl
    dsimp only
    rw [if_neg hm]
    change (if (!((s.setMbx m.toNat _).mbx m.toNat).opened || ((s.setMbx m.toNat _).mbx m.toNat).inst != _) = true then _ else
      if (((s.setMbx m.toNat _).mbx m.toNat).cqFull || !((s.setMbx m.toNat _).mbx m.toNat).held.isEmpty) = true then _ else _) = _
    rw [State.mbx_setMbx_self, hopened, hinst, hstays, hnone, bne_self_eq_false]
    rfl
  have hopenStill : ((((s.setMbx m.toNat ((s.mbx m.toNat).served (s.cmdAt m))).writeCpl m.toNat
      (s.cplOf (s.cmdAt m) result detail ret))).mbx m.toNat).closing = none := by
    rw [State.writeCpl_closing, State.mbx_setMbx_self]
    exact hclosing
  rw [State.complete, hfinish]
  exact State.tryClose_of_open 64 hopenStill

/-- So it changes its mailbox and Solder alone. -/
theorem State.complete_taken_only {s : State} {m : BitVec 6} (htake : s.canTake m.toNat = true) (result detail : Nat)
    (ret : List Byte) : (s.taken m).complete (s.cmdAt m) result detail ret = { s with
      mbxs := ((s.taken m).complete (s.cmdAt m) result detail ret).mbxs,
      sol := ((s.taken m).complete (s.cmdAt m) result detail ret).sol } := by
  rw [State.complete_taken htake]
  exact (State.writeCpl_only ..).1

theorem State.mbx_complete_taken_self {s : State} {m : BitVec 6} (htake : s.canTake m.toNat = true) (result detail : Nat)
    (ret : List Byte) : ((s.taken m).complete (s.cmdAt m) result detail ret).mbx m.toNat =
      ((s.mbx m.toNat).served (s.cmdAt m)).written (s.cplOf (s.cmdAt m) result detail ret) := by
  rw [State.complete_taken htake, State.mbx_writeCpl_self, State.mbx_setMbx_self]

theorem State.mbx_complete_taken_of_ne {s : State} {m : BitVec 6} {j : Nat} (htake : s.canTake m.toNat = true)
    (result detail : Nat) (ret : List Byte) (hj : j ≠ m.toNat) :
    ((s.taken m).complete (s.cmdAt m) result detail ret).mbx j = s.mbx j := by
  rw [State.complete_taken htake, (State.writeCpl_only ..).2 j hj]
  exact (State.mbx_setMbx ..).trans (if_neg hj.symm)

theorem length_toLe (n v : Nat) : (toLe n v).length = n := by
  induction n generalizing v with
  | zero => rfl
  | succ n ih => rw [toLe, List.length_cons, ih]

/-- An entry is 128 bytes (13 Table 13.7): 32 of header, and at most 96 of RET. -/
theorem length_cplBytes (c : Cpl) (k n : Nat) : (cplBytes c k n).length = 128 := by
  have hret : (c.ret.take 96).length ≤ 96 := List.length_take_le ..
  simp only [cplBytes, padTo, List.length_append, List.length_replicate, length_toLe]
  omega

theorem Mbx.cq_written (b : Mbx) (c : Cpl) :
    (b.written c).cq = Mem.splice b.cq (128 * (b.cqTail % b.cqN)) (cplBytes c b.cqTail b.cqN) := by
  rw [Mbx.written]

theorem Mbx.read_written_inside {b : Mbx} {c : Cpl} {i : Nat} (hwf : b.cq.wf = true) (hi : i < 128) :
    Mem.read (b.written c).cq (128 * (b.cqTail % b.cqN) + i) = (cplBytes c b.cqTail b.cqN).getD i 0 := by
  have hlen := length_cplBytes c b.cqTail b.cqN
  rw [Mbx.cq_written]
  generalize cplBytes c b.cqTail b.cqN = bs at hlen
  rw [Mem.read_splice_inside hwf (hlen.symm ▸ hi), List.getD_eq_getElem]

theorem Mbx.read_written_outside {b : Mbx} {c : Cpl} {a : Nat} (hwf : b.cq.wf = true)
    (ha : a < 128 * (b.cqTail % b.cqN) ∨ 128 * (b.cqTail % b.cqN) + 128 ≤ a) :
    Mem.read (b.written c).cq a = Mem.read b.cq a := by
  have hlen := length_cplBytes c b.cqTail b.cqN
  rw [Mbx.cq_written]
  generalize cplBytes c b.cqTail b.cqN = bs at hlen
  exact Mem.read_splice_outside hwf (hlen.symm ▸ ha)

/-- Settles O3: the completion of NOP is `State.complete_taken`, whose entry is spliced into the ring at its tail. -/
theorem completionEntryPosted : Obligations.CompletionEntryPosted := by
  intro s m hfits hwf
  have htake : s.canTake m.toNat = true := hfits.1
  have hop : (s.cmdAt m).opcode = 1 := hfits.2.1
  have hexec : exec (.nop m) s = .next ((s.taken m).complete (s.cmdAt m) 0 0 []) := State.command_fits hfits (by decide)
  have hself := State.mbx_complete_taken_self htake 0 0 []
  have hothers := fun j => State.mbx_complete_taken_of_ne (j := j) htake 0 0 []
  have honly := State.complete_taken_only htake 0 0 []
  have hcpl : s.cplOf (s.cmdAt m) 0 0 [] = ⟨1, 0, (s.cmdAt m).tag, (s.mbx m.toNat).rqHead, 0, s.now, []⟩ := by
    rw [State.cplOf, hop]
    rfl
  rw [hcpl] at hself
  refine ⟨_, hexec, ?_⟩
  generalize (s.taken m).complete (s.cmdAt m) 0 0 [] = t at hself hothers honly
  rw [hself]
  refine ⟨rfl, rfl, fun i hi => ?_, fun a ha => ?_, ?_, hothers, honly⟩
  · exact Mbx.read_written_inside (b := (s.mbx m.toNat).served _) hwf hi
  · exact Mbx.read_written_outside (b := (s.mbx m.toNat).served _) hwf ha
  · rw [Mbx.written, Mbx.served]

/-! ### ATTEST_QUOTE without a signature left (15 R423) -/

theorem State.signedOut_of_burned {s : State} (hrsv : 1024 ≤ s.fuses.rsv)
    (hleaf : s.sec.leaf = none ∨ s.sec.leaf = some 1024) : s.signedOut = true := by
  rcases hleaf with h | h <;> simp [State.signedOut, hrsv, h]

/-- With every fuse burned and no leaf left a quote is refused. -/
theorem State.tryQuote_of_signedOut {s : State} {c : Cmd} {nonce : List Byte} {tag : Nat} (hbusy : s.sec.busy = false)
    (hout : s.signedOut = true) : s.tryQuote c nonce tag = s.refuse c rBadState 0 := by
  simp [State.tryQuote, hbusy, hout]

/-- Settles O59: a quote is refused (`State.tryQuote_of_signedOut`), and a completion leaves fuses and signatures. -/
theorem signaturesRunOut : Obligations.SignaturesRunOut := by
  refine ⟨fun s m hfits hbusy hrsv hleaf => ?_, fun s hbusy b => ?_⟩
  · have htake : s.canTake m.toNat = true := hfits.1
    have hop : (s.cmdAt m).opcode = 0x601 := hfits.2.1
    have hquote : ∀ nonce tag, (s.taken m).tryQuote (s.cmdAt m) nonce tag = (s.taken m).complete (s.cmdAt m) 0x42 0 [] :=
      fun nonce tag => (State.tryQuote_of_signedOut (s := s.taken m) hbusy
        (State.signedOut_of_burned (s := s.taken m) hrsv hleaf)).trans (by rw [State.refuse, hop]; rfl)
    have hexec : exec (.attestQuote m) s = .next ((s.taken m).complete (s.cmdAt m) 0x42 0 []) :=
      (State.command_fits hfits (by decide)).trans (congrArg _ (hquote _ _))
    have honly := State.complete_taken_only htake 0x42 0 []
    refine ⟨_, hexec, rfl, ?_⟩
    generalize (s.taken m).complete (s.cmdAt m) 0x42 0 [] = t at honly
    exact ⟨by rw [honly], by rw [honly], honly⟩
  · have hidle : execTreeStartDone b s = .next s := by simp [execTreeStartDone, due, hbusy]
    exact hidle

end Sys2Proof.Machine

/-! NOP, IDENTIFY, unknown opcodes and the context commands (13 R364; 08 R203, R204; 14 R392, R461). -/

namespace Sys2Proof.Machine

/-! ### The block of a job, and a step correction that waits -/

theorem State.drawBlock_only (s : State) : s.drawBlock =
    { s with sys := { s.sys with block := s.drawBlock.sys.block }, freeCtr := s.drawBlock.freeCtr } := rfl

theorem State.newJob_only (s : State) : s.newJob =
    { s with sys := { s.sys with block := s.newJob.sys.block }, freeCtr := s.newJob.freeCtr } := by
  unfold State.newJob
  split
  · exact s.drawBlock_only
  · rfl

/-- A context of a running or planned job keeps that job's block. -/
theorem State.newJob_of_job {s : State} (h : ∃ e ∈ s.ctxs, e.2.st ≠ .free ∨ e.2.planned = true) : s.newJob = s := by
  obtain ⟨e, he, hjob⟩ := h
  refine if_neg fun hnone => ?_
  obtain ⟨hfree, hplanned⟩ := (Bool.and_eq_true ..).mp hnone
  rcases hjob with h | h
  · exact h (eq_of_beq (List.all_eq_true.mp hfree e he))
  · simpa [h] using List.all_eq_true.mp hplanned e he

theorem State.barRelease_only (s : State) : s.barRelease = { s with sch := s.barRelease.sch, pins := s.barRelease.pins } := by
  unfold State.barRelease
  dsimp only
  split
  · rfl
  · split <;> rfl

theorem State.unreadyStep_only (s : State) : s.unreadyStep = { s with sch := s.unreadyStep.sch, pins := s.unreadyStep.pins } := by
  unfold State.unreadyStep
  split
  · split
    · exact s.barRelease_only
    · rfl
  · rfl

theorem State.unreadyStep_ctx (s : State) (x : Nat) : s.unreadyStep.ctx x = s.ctx x := by
  rw [State.unreadyStep_only]
  rfl

theorem State.unreadyStep_of_none {s : State} (h : s.sch.step = none) : s.unreadyStep = s := by
  rw [State.unreadyStep, h]

/-! ### Commands that are taken -/

/-- A request of an opcode that Table 13.9 does not give is refused with BAD_OPCODE and no RET. -/
theorem State.takeEntry_of_unknown {s : State} {m : BitVec 6} {test : Nat → List Byte → Bool} {run : State → Req → State}
    (htake : s.canTake m.toNat = true) (htest : ∀ args, test (s.cmdAt m).opcode args = true)
    (hop : knownOp (s.cmdAt m).opcode = false) :
    s.takeEntry m test run = (s.taken m).complete (s.cmdAt m) 0x40 0 [] := by
  have hret : refusedRet (s.cmdAt m).opcode = [] := by
    refine if_neg fun h => ?_
    rw [h] at hop
    exact absurd hop (by decide)
  unfold State.takeEntry
  dsimp only
  rw [show s.cmdAt m = (s.mbx m.toNat).cmd m.toNat from rfl] at *
  rw [htake, htest, hop, State.refuse, hret]
  rfl

/-- What CTX_OPEN leaves before it completes: the job's block, the context, and no step correction readied. -/
def State.ctxTakenUp (s : State) (r : Req) : State :=
  (s.newJob.setCtx (r.b 0) { Ctx.init with
    st := .opened, gen := r.h 2, threshold := r.w 4, budget := if r.h 8 = 0 then 2000 else r.h 8,
    planned := (s.ctx (r.b 0)).planned, twin := (s.ctx (r.b 0)).twin, planFenced := (s.ctx (r.b 0)).planFenced }).unreadyStep

theorem State.runCtxOpen_of_free {s : State} {r : Req} (hst : (s.ctx (r.b 0)).st = .free)
    (hstop : (s.ctx (r.b 0)).stopD = none) (htime : s.timeGood = true) : s.runCtxOpen r = (s.ctxTakenUp r).ok r := by
  unfold State.runCtxOpen
  dsimp only
  rw [hst, hstop, htime]
  rfl

theorem State.ctx_ctxTakenUp (s : State) (r : Req) (x : Nat) : (s.ctxTakenUp r).ctx x = if r.b 0 = x then
    { Ctx.init with
      st := .opened, gen := r.h 2, threshold := r.w 4, budget := if r.h 8 = 0 then 2000 else r.h 8,
      planned := (s.ctx (r.b 0)).planned, twin := (s.ctx (r.b 0)).twin, planFenced := (s.ctx (r.b 0)).planFenced }
    else s.ctx x := by
  rw [State.ctxTakenUp, State.unreadyStep_ctx, State.ctx_setCtx, State.newJob_only]
  rfl

theorem State.ctxTakenUp_only (s : State) (r : Req) : s.ctxTakenUp r = { s with
    ctxs := (s.ctxTakenUp r).ctxs, freeCtr := (s.ctxTakenUp r).freeCtr,
    sys := { s.sys with block := (s.ctxTakenUp r).sys.block }, sch := (s.ctxTakenUp r).sch, pins := (s.ctxTakenUp r).pins } := by
  unfold State.ctxTakenUp
  rw [State.unreadyStep_only, State.newJob_only]
  rfl

/-- Settles O2: each command runs as it was taken (`State.command_fits`); what CTX_OPEN changes is `State.ctxTakenUp`. -/
theorem nopIdentifyAndContextCommandsComplete : Obligations.NopIdentifyAndContextCommandsComplete := by
  refine ⟨fun s m hfits => State.command_fits hfits (by decide), fun s m hfits => State.command_fits hfits (by decide),
    fun s m htake hop => ?_, fun s m r c hfits hr hc hst hstop hirc => ?_,
    fun s m r hfits hr => hr ▸ State.command_fits hfits (by decide), fun s m r hfits hr => ?_⟩
  · exact congrArg _ (State.takeEntry_of_unknown htake (fun _ => by rw [hop]; rfl) hop)
  · subst hc
    have htime : (s.taken m).timeGood = true := State.timeGood_iff.mpr hirc
    have hexec : exec (.ctxOpen m) s = .next (((s.taken m).ctxTakenUp r).complete r.cmd 0 0 []) := by
      rw [hr] at hst hstop ⊢
      exact (State.command_fits hfits (by decide)).trans
        (congrArg _ (State.runCtxOpen_of_free (s := s.taken m) hst hstop htime))
    have hctx := (s.taken m).ctx_ctxTakenUp r
    have hself := (hctx (r.b 0)).trans (if_pos rfl)
    refine ⟨_, hexec, by rw [hself], by rw [hself], by rw [hself], by rw [hself], by rw [hself]; rfl, by rw [hself]; rfl,
      fun x hx => (hctx x).trans (if_neg hx.symm), fun hjob => ?_, fun hstep => ?_, State.ctxTakenUp_only ..⟩
    · have hnew : (s.taken m).newJob = s.taken m := State.newJob_of_job hjob
      rw [State.ctxTakenUp, hnew, State.unreadyStep_only]
      exact ⟨rfl, rfl⟩
    · rw [State.ctxTakenUp, State.unreadyStep_of_none (by rw [State.newJob_only]; exact hstep), State.newJob_only]
      exact ⟨rfl, rfl⟩
  · rw [hr]
    refine (State.command_fits hfits (by decide)).trans (congrArg _ ?_)
    unfold State.runCtxReset
    simp only [beq_iff_eq]
    rfl

end Sys2Proof.Machine

/-! Mailbox and transfer commands (13 R354, R355, R361, R363). -/

namespace Sys2Proof.Machine

/-! ### Mailboxes -/

theorem State.taken_closing {s : State} {m : BitVec 6} (htake : s.canTake m.toNat = true) :
    ((s.taken m).mbx m.toNat).closing = none := by
  rw [State.mbx_taken]
  exact (State.canTake_spec htake).2.2.1

/-- A closed mailbox as MBX_OPEN leaves it: empty rings, its owner and its pages (R354, R355). -/
def Mbx.openedBy (b : Mbx) (rq cq : Nat) (owner : Option (BitVec 15 × Bool)) : Mbx :=
  { Mbx.init with opened := true, owner := owner, rqPages := rq, cqPages := cq, inst := b.inst + 1, running := b.running }

/-- The state in which a mailbox has been opened for a requester. -/
def State.withMbxOpened (s : State) (m rq cq : Nat) (owner : Option (BitVec 15 × Bool)) : State :=
  State.setMbx { s.rebound m with sol := { s.sol with used1 := s.sol.used1 + rq + cq } } m ((s.mbx m).openedBy rq cq owner)

theorem State.runMbxOpen_of_closed {s : State} {r : Req} (hclosed : (s.mbx (r.b 0)).opened = false)
    (hroom : r.b 1 + r.b 2 ≤ s.pool1Free) : s.runMbxOpen r =
      (s.withMbxOpened (r.b 0) (r.b 1) (r.b 2) (some (BitVec.ofNat 15 (r.h 4), bit (r.b 3) 0))).ok r := by
  unfold State.runMbxOpen State.openMbx
  rw [hclosed, if_pos hroom]
  rfl

/-- The state in which MBX_CLOSE has closed another mailbox of which nothing runs. -/
def State.closedBy (s : State) (r : Req) : State :=
  (s.setMbx (r.b 0) { s.mbx (r.b 0) with closing := some r.cmd }).closeMbx (r.b 0)

theorem State.mbx_closedBy_self (s : State) (r : Req) :
    (s.closedBy r).mbx (r.b 0) = { Mbx.init with inst := (s.mbx (r.b 0)).inst + 1 } := by
  unfold State.closedBy State.closeMbx
  rw [State.mbx_setMbx_self, State.mbx_setMbx_self]

theorem State.mbx_closedBy_of_ne (s : State) (r : Req) {j : Nat} (hj : j ≠ r.b 0) : (s.closedBy r).mbx j = s.mbx j := by
  unfold State.closedBy State.closeMbx
  exact (State.mbx_setMbx ..).trans ((if_neg hj.symm).trans ((State.mbx_setMbx ..).trans (if_neg hj.symm)))

/-- It closes at once, and its command completes. -/
theorem State.runMbxClose_of_idle {s : State} {r : Req} (hother : r.b 0 ≠ r.cmd.mbx) (hopen : (s.mbx (r.b 0)).opened = true)
    (hclosing : (s.mbx (r.b 0)).closing = none) (hidle : (s.mbx (r.b 0)).running = [])
    (hasker : (s.mbx r.cmd.mbx).closing = none) : s.runMbxClose r = (s.closedBy r).finish r.cmd 0 0 [] := by
  have hclose : State.tryClose 64 (s.setMbx (r.b 0) { s.mbx (r.b 0) with closing := some r.cmd }) (r.b 0) =
      State.tryClose 63 ((s.closedBy r).finish r.cmd 0 0 []) r.cmd.mbx := by
    rw [State.tryClose, State.mbx_setMbx_self, hidle]
    rfl
  have hdone : (((s.closedBy r).finish r.cmd 0 0 []).mbx r.cmd.mbx).closing = none := by
    rw [State.finish_closing, State.mbx_closedBy_of_ne s r hother.symm]
    exact hasker
  unfold State.runMbxClose
  dsimp only
  rw [if_neg hother, if_neg (by rw [hopen, hclosing]; decide)]
  exact hclose.trans (State.tryClose_of_open 63 hdone)

/-! ### Transfers -/

/-- XFER_OPEN adds the transfer once its pages, or buffers, are drawn. -/
theorem State.runXferOpen_of_drawn {s t : State} {r : Req} {target : XTarget} (hcount : s.xfers.length < 64)
    (hdrawn : (r.b 0 = 0 ∧ target = .staging ∧ r.d 8 ≤ 2 ^ 28 ∧ s.poolFirst 4 0 = true ∧
        s.freeHandle.2.drawBufs (.staging s.freeHandle.1) (cdiv (r.d 8) (2 ^ 20)) = some t) ∨
      (∃ z, r.b 0 = 1 ∧ target = .tensor (r.b 1) ∧ s.tensor (r.b 2) (r.h 4) = some z ∧
        holdsTensor s.addr z.entry = true ∧ hasArr z.entry (r.b 1) = true ∧
        s.freeHandle.2.drawShadow (r.b 2) 0 (s.xferPages z.entry (r.b 2) (r.h 4) (r.b 1) s.freeHandle.1 (r.d 8)) = some t) ∨
      (∃ g, 2 ≤ r.b 0 ∧ target = .region ∧ s.region (r.b 2) (r.h 4) = some g ∧ g.root = s.addr ∧ r.d 8 ≤ g.bytes ∧
        t = s.freeHandle.2)) : s.runXferOpen r = t.addXfer r s.freeHandle.1 target := by
  unfold State.runXferOpen
  dsimp only
  rw [if_neg (Nat.not_le.mpr hcount)]
  rcases hdrawn with ⟨hkind, rfl, hlen, hpool, hdraw⟩ | ⟨z, hkind, rfl, htensor, hholds, harr, hdraw⟩ |
    ⟨g, hkind, rfl, hregion, hroot, hlen, rfl⟩
  · rw [if_pos hkind, if_neg (Nat.not_lt.mpr hlen), if_pos hpool, hdraw]
  · rw [if_neg (by omega), if_pos hkind, htensor]
    dsimp only
    rw [hholds, harr, hdraw]
    rfl
  · rw [if_neg (by omega), if_neg (by omega), hregion]
    dsimp only
    rw [if_neg (not_not.mpr hroot), if_neg (Nat.not_lt.mpr hlen)]

/-- XFER_CLOSE of a transfer whose bytes have the CRC: a region takes them, every other target keeps them. -/
theorem State.runXferClose_of_good {s : State} {r : Req} {x : Xfer} (hx : s.xfer (r.h 0) = some x) (hopen : x.closed = false)
    (hcrc : crc32c (Mem.slice x.data 0 x.length) = BitVec.ofNat 32 (r.w 4)) (hclean : s.poisoned (isXferPage (r.h 0)) = false) :
    s.runXferClose r = (if x.target = .region then (s.fillRegion x (Mem.slice x.data 0 x.length)).endXfer (r.h 0)
      else s.setXfer (r.h 0) { x with closed := true }).ok r := by
  unfold State.runXferClose
  dsimp only
  rw [hx]
  dsimp only
  rw [if_neg (by rw [hopen]; decide), if_neg (by rw [hcrc, hclean, bne_self_eq_false]; decide)]
  cases x.target <;> rfl

theorem State.xfer_endXfer_of_ne {s : State} {h k : Nat} (hk : k ≠ h) : (s.endXfer h).xfer k = s.xfer k :=
  tfind_tdel.trans (if_neg hk.symm)

/-- The pages of a transfer that ends return. -/
theorem State.pages_endXfer (s : State) (h : Nat) :
    (s.endXfer h).ing.pages = s.ing.pages.filter (fun p => p.holder != .staging h && p.holder != .xfer h) := by
  refine List.filter_congr fun p _ => ?_
  rw [isXferPage, Bool.not_or]
  rfl

theorem State.runXferRead_of_source {s : State} {r : Req} {size : Nat} {get : Nat → Nat → List Byte} {ret : List Byte}
    (hsource : s.readSource r = .inl (size, get, ret)) (hend : r.d 8 + r.d 16 ≤ size) : s.runXferRead r =
      (s.sendBulk r.cmd.mbx (r.h 6) 0 (get (r.d 8) (r.d 16))).complete r.cmd 0 0
        (toLe 4 (crc32c (get (r.d 8) (r.d 16))).toNat ++ ret) := by
  unfold State.runXferRead
  rw [hsource]
  dsimp only
  rw [if_neg (by omega), if_neg (by omega), rOk]

/-- Settles O4: each command runs as it was taken (`State.command_fits`), in the case that its lemma above gives. -/
theorem mailboxAndTransferCommandsComplete : Obligations.MailboxAndTransferCommandsComplete := by
  refine ⟨fun s m r hfits hr hclosed hroom => ?_, fun s m r hfits hr hne hopen hclosing hidle => ?_,
    fun s t m r h target x hfits hr hh hx hcount hdrawn => ?_, fun s m r x hfits hr hx hopen hcrc hclean => ?_,
    fun s m r hfits hr hx => ?_, fun s m r size get ret hfits hr hsource hend => ?_⟩
  · have hne : r.b 0 ≠ m.toNat := fun h => by
      rw [h, (State.canTake_spec hfits.1).2.1] at hclosed
      exact absurd hclosed (by decide)
    have hstill : ((s.taken m).mbx (r.b 0)).opened = false := by rw [State.mbx_taken_of_ne s hne]; exact hclosed
    refine ⟨(s.taken m).withMbxOpened (r.b 0) (r.b 1) (r.b 2) (some (BitVec.ofNat 15 (r.h 4), bit (r.b 3) 0)), ?_, ?_⟩
    · rw [hr] at hstill hroom ⊢
      exact (State.command_fits hfits (by decide)).trans
        (congrArg _ (State.runMbxOpen_of_closed (s := s.taken m) hstill hroom))
    · have hself : ((s.taken m).withMbxOpened (r.b 0) (r.b 1) (r.b 2) (some (BitVec.ofNat 15 (r.h 4), bit (r.b 3) 0))).mbx
          (r.b 0) = _ := State.mbx_setMbx_self ..
      rw [hself]
      exact ⟨rfl, rfl, rfl, rfl, rfl, rfl, rfl, rfl, rfl, rfl, rfl,
        fun j hj => (State.mbx_setMbx ..).trans (if_neg hj.symm), rfl⟩
  · have hbox := State.mbx_taken_of_ne s hne
    have hasker : ((s.taken m).mbx r.cmd.mbx).closing = none := by rw [hr]; exact State.taken_closing hfits.1
    have hother : r.b 0 ≠ r.cmd.mbx := by rw [hr] at hne ⊢; exact hne
    have hself := (s.taken m).mbx_closedBy_self r
    refine ⟨(s.taken m).closedBy r, ?_, by rw [hself]; rfl, by rw [hself]; rfl, by rw [hself]; rfl, ?_,
      fun j hj => State.mbx_closedBy_of_ne _ r hj, by unfold State.closedBy State.closeMbx; rfl⟩
    · have hrun := State.runMbxClose_of_idle (s := s.taken m) hother (by rw [hbox]; exact hopen) (by rw [hbox]; exact hclosing)
        (by rw [hbox]; exact hidle) hasker
      rw [hr] at hrun ⊢
      exact (State.command_fits hfits (by decide)).trans (congrArg _ hrun)
    · unfold State.closedBy State.closeMbx
      rw [State.mbx_setMbx_self, hbox]
      rfl
  · rw [hh] at hdrawn ⊢
    rw [hx]
    have hrun := State.runXferOpen_of_drawn (s := s.taken m) hcount hdrawn
    rw [hr] at hrun ⊢
    exact (State.command_fits hfits (by decide)).trans (congrArg _ hrun)
  · have hrun := State.runXferClose_of_good (s := s.taken m) hx hopen hcrc hclean
    rw [hr] at hrun ⊢
    exact (State.command_fits hfits (by decide)).trans (congrArg _ hrun)
  · obtain ⟨x, hx⟩ := Option.isSome_iff_exists.mp hx
    have hrun : (s.taken m).runXferAbort r = ((s.taken m).endXfer (r.h 0)).ok r := by
      rw [State.runXferAbort, show (s.taken m).xfer (r.h 0) = some x from hx]
    refine ⟨(s.taken m).endXfer (r.h 0), ?_, State.xfer_endXfer .., fun h hh => State.xfer_endXfer_of_ne hh,
      State.pages_endXfer ..⟩
    rw [hr] at hrun ⊢
    exact (State.command_fits hfits (by decide)).trans (congrArg _ hrun)
  · have hrun := State.runXferRead_of_source hsource hend
    rw [hr] at hrun ⊢
    exact (State.command_fits hfits (by decide)).trans (congrArg _ hrun)

end Sys2Proof.Machine

/-! PLAN_LOAD, GROUP_SET and TENSOR_SET (13 R367; 10 R258, R259, R262; 08 R205). -/

namespace Sys2Proof.Machine

/-! ### The block of the job that a plan belongs to -/

theorem State.planJob_only (s : State) (x : Nat) : s.planJob x =
    { s with sys := { s.sys with block := (s.planJob x).sys.block }, freeCtr := (s.planJob x).freeCtr } := by
  unfold State.planJob
  split
  · rfl
  · split
    · exact s.drawBlock_only
    · dsimp only
      split
      · rfl
      · exact State.drawBlock_only _

/-- While a context of the job is open, its block stays. -/
theorem State.planJob_of_open {s : State} (x : Nat) (h : ∃ e ∈ s.ctxs, e.2.st ≠ .free) : s.planJob x = s := by
  obtain ⟨e, he, hopen⟩ := h
  refine if_pos ?_
  rw [Bool.not_eq_true', ← Bool.not_eq_true]
  exact fun hnone => hopen (eq_of_beq (List.all_eq_true.mp hnone e he))

theorem State.staged_planJob (s : State) (x h : Nat) : (s.planJob x).staged h = s.staged h := by
  rw [State.planJob_only]
  rfl

theorem State.collHeld_planJob (s : State) (x : Nat) (test : List Byte → Bool) :
    (s.planJob x).collHeld test = s.collHeld test := by
  rw [State.planJob_only]
  rfl

theorem State.planNeed_planJob (s : State) (x : Nat) (es : List (List Byte)) :
    planNeed (s.planJob x).addr ((s.planJob x).otherEntries x ++ es) = planNeed s.addr (s.otherEntries x ++ es) := by
  rw [State.planJob_only]
  rfl

/-- PLAN_LOAD of a plan without a fault, whose context has no collective: it is installed where pool 3 holds it. -/
theorem State.runPlanLoad_of_good {s : State} {r : Req} {img : List Byte} (himg : s.staged (r.h 2) = some img)
    (hread : planReadable img = true) (hidle : s.collHeld (fun d => dCtx d == r.b 0) = false)
    (hgood : (s.planJob (r.b 0)).planFault (r.b 0) img = none) : s.runPlanLoad r =
      if (s.planJob (r.b 0)).planTooLarge (r.b 0) (planEntries img)
          (((s.planJob (r.b 0)).readGroups (r.b 0) img (fld img 2 2) (fld img 8 8)).map (fun g => g.grp))
      then (s.planJob (r.b 0)).complete r.cmd 0x44 0 (toLe 4 (planNeed s.addr (s.otherEntries (r.b 0) ++ planEntries img)))
      else ((((s.planJob (r.b 0)).installPlan (r.b 0) (planEntries img)
          ((s.planJob (r.b 0)).readGroups (r.b 0) img (fld img 2 2) (fld img 8 8))).extend 3 (sha256 img)).endXfer
            (r.h 2)).complete r.cmd 0 0 (toLe 4 (planNeed s.addr (s.otherEntries (r.b 0) ++ planEntries img))) := by
  unfold State.runPlanLoad
  dsimp only
  rw [State.staged_planJob, himg]
  dsimp only
  rw [if_pos hread, if_pos hread, State.collHeld_planJob, hidle, hgood, State.planNeed_planJob]
  rfl

/-! ### GROUP_SET -/

theorem State.runGroupSet_of_fitting {s : State} {r : Req} {g g' : Group} (hg : tfind s.groups (r.h 0) = some g)
    (hg' : g' = { g with active := bit (r.b 2) 0 })
    (hclear : g'.active = true → (s.groups.filter (fun e => e.1 != r.h 0)).all (fun e => !s.clash s.entriesOf g' e.2) = true)
    (hidle : g'.active = false → g.active = true → s.collHeld (fun d => dGroup d == r.h 0) = false) :
    s.runGroupSet r = State.ok { s with groups := tset s.groups (r.h 0) g' } r := by
  subst hg'
  unfold State.runGroupSet
  dsimp only
  rw [hg]
  dsimp only
  split
  · next hactive =>
    refine if_neg fun hany => ?_
    obtain ⟨e, he, hclash⟩ := List.any_eq_true.mp hany
    simpa [hclash] using List.all_eq_true.mp (hclear hactive) e he
  · next hactive =>
    refine if_neg fun hheld => ?_
    obtain ⟨hwas, hheld⟩ := (Bool.and_eq_true ..).mp hheld
    rw [hidle (Bool.eq_false_iff.mpr hactive) hwas] at hheld
    exact absurd hheld (by decide)

/-! ### Bytes put into an entry -/

theorem leNat_toLe (n v : Nat) : leNat (toLe n v) = v % 256 ^ n := by
  induction n generalizing v with
  | zero => exact (Nat.mod_one v).symm
  | succ n ih =>
    rw [toLe, leNat, ih, BitVec.toNat_ofNat, Nat.pow_succ' (n := n), Nat.mod_mul (a := 256)]

theorem length_putBytes {bs new : List Byte} {off : Nat} (h : off + new.length ≤ bs.length) :
    (putBytes bs off new).length = bs.length := by
  simp only [putBytes, List.length_append, List.length_take, List.length_drop]
  omega

theorem getD_putBytes_inside {bs new : List Byte} {off i : Nat} (h : off ≤ bs.length) (hi : i < new.length) :
    (putBytes bs off new).getD (off + i) 0 = new.getD i 0 := by
  have htake : (bs.take off).length = off := by rw [List.length_take]; omega
  rw [putBytes, List.append_assoc, List.getD_append_right _ _ _ _ (by omega), htake, Nat.add_sub_cancel_left,
    List.getD_append _ _ _ _ hi]

theorem getD_putBytes_below {bs new : List Byte} {off i : Nat} (h : off ≤ bs.length) (hi : i < off) :
    (putBytes bs off new).getD i 0 = bs.getD i 0 := by
  have htake : i < (bs.take off).length := by rw [List.length_take]; omega
  rw [putBytes, List.append_assoc, List.getD_append _ _ _ _ htake]
  simp [List.getD_eq_getElem?_getD, hi]

theorem bytesAt_putBytes_self {bs new : List Byte} {off n : Nat} (h : off ≤ bs.length) (hn : new.length = n) :
    bytesAt (putBytes bs off new) off n = new := by
  subst hn
  refine List.ext_getElem (by simp [bytesAt]) fun i hi hi' => ?_
  simp only [bytesAt, List.getElem_map, List.getElem_range]
  rw [getD_putBytes_inside h hi', List.getD_eq_getElem]

theorem bytesAt_putBytes_below {bs new : List Byte} {off o n : Nat} (h : off ≤ bs.length) (hn : o + n ≤ off) :
    bytesAt (putBytes bs off new) o n = bytesAt bs o n :=
  List.map_congr_left fun i hi => getD_putBytes_below h (by have := List.mem_range.mp hi; omega)

theorem fld_putBytes_self {bs : List Byte} {off : Nat} (n v : Nat) (h : off ≤ bs.length) (hv : v < 256 ^ n) :
    fld (putBytes bs off (toLe n v)) off n = v := by
  rw [fld, bytesAt_putBytes_self h (length_toLe n v), leNat_toLe, Nat.mod_eq_of_lt hv]

theorem fld_putBytes_below {bs new : List Byte} {off o n : Nat} (h : off ≤ bs.length) (hn : o + n ≤ off) :
    fld (putBytes bs off new) o n = fld bs o n :=
  congrArg leNat (bytesAt_putBytes_below h hn)

theorem leNat_lt (bs : List Byte) : leNat bs < 256 ^ bs.length := by
  induction bs with
  | nil => exact Nat.one_pos
  | cons b bs ih =>
    have hb := b.isLt
    rw [leNat, List.length_cons, Nat.pow_succ]
    omega

theorem fld_lt (bs : List Byte) (off n : Nat) : fld bs off n < 256 ^ n := by
  have h := leNat_lt (bytesAt bs off n)
  rwa [show (bytesAt bs off n).length = n by simp [bytesAt]] at h

/-! ### TENSOR_SET -/

/-- A tensor's entry with the pending values of TENSOR_SET (10 R259): the flags, STEP and the six values of HYPER. -/
def pendingSet (e : List Byte) (r : Req) : List Byte :=
  putBytes (putBytes (putBytes e 56 (toLe 1 (r.b 4))) 60 (toLe 4 (r.w 8))) 64 (bytesAt r.args 12 24)

theorem State.runTensorSet_of_good {s : State} {r : Req} {x : Tensor} (hx : s.tensor (r.b 0) (r.h 2) = some x)
    (hstep : x.maxStep ≤ r.w 8) (hflags : ((r.b 4 ^^^ tFlags x.entry) &&& 0x90) = 0) (hhyper : hyperFaults r.args 12 = []) :
    s.runTensorSet r = (s.setTensor (r.b 0) (r.h 2) { x with entry := pendingSet x.entry r }).ok r := by
  unfold State.runTensorSet
  dsimp only
  rw [hx]
  dsimp only
  rw [if_neg (Nat.not_lt.mpr hstep), if_neg (not_not.mpr hflags), hhyper]
  rfl

section
variable {e : List Byte} {r : Req} (h : e.length = 128)
include h

theorem length_pendingFlags : (putBytes e 56 (toLe 1 (r.b 4))).length = 128 :=
  (length_putBytes (by rw [length_toLe, h]; decide)).trans h

theorem length_pendingStep : (putBytes (putBytes e 56 (toLe 1 (r.b 4))) 60 (toLe 4 (r.w 8))).length = 128 :=
  (length_putBytes (by rw [length_toLe, length_pendingFlags h]; decide)).trans (length_pendingFlags h)

theorem step_pendingSet : fld (pendingSet e r) 60 4 = r.w 8 := by
  rw [pendingSet, fld_putBytes_below (by rw [length_pendingStep h]; decide) (by decide)]
  exact fld_putBytes_self _ _ (by rw [length_pendingFlags h]; decide) (fld_lt r.args 8 4)

theorem flags_pendingSet : fld (pendingSet e r) 56 1 = r.b 4 := by
  rw [pendingSet, fld_putBytes_below (by rw [length_pendingStep h]; decide) (by decide),
    fld_putBytes_below (by rw [length_pendingFlags h]; decide) (by decide)]
  exact fld_putBytes_self _ _ (by rw [h]; decide) (fld_lt r.args 4 1)

theorem hyper_pendingSet : bytesAt (pendingSet e r) 64 24 = bytesAt r.args 12 24 := by
  rw [pendingSet, bytesAt_putBytes_self (by rw [length_pendingStep h]; decide) (by simp [bytesAt])]

theorem getD_pendingSet {i : Nat} (hi : i < 56) : (pendingSet e r).getD i 0 = e.getD i 0 := by
  rw [pendingSet, getD_putBytes_below (by rw [length_pendingStep h]; decide) (by omega),
    getD_putBytes_below (by rw [length_pendingFlags h]; decide) (by omega), getD_putBytes_below (by rw [h]; decide) hi]

end

/-- Settles O5: each command runs as it was taken (`State.command_fits`), in the case that its lemma above gives. -/
theorem planCommandsComplete : Obligations.PlanCommandsComplete := by
  refine ⟨fun s v m r img es gs hfits hr hv himg hes hgs hread hidle hgood => ?_,
    fun s x => ⟨s.planJob_only x, State.planJob_of_open x⟩, fun s m r g g' hfits hr hg hg' hclear hidle => ?_,
    fun s m r x hfits hr hx hstep hflags hhyper hlen => ?_⟩
  · rw [hv] at hgs hgood ⊢
    rw [hgs, hes]
    have hrun := State.runPlanLoad_of_good (s := s.taken m) himg hread hidle hgood
    rw [hr] at hrun ⊢
    exact (State.command_fits hfits (by decide)).trans (congrArg _ hrun)
  · have hrun := State.runGroupSet_of_fitting (s := s.taken m) hg hg' hclear hidle
    rw [hr] at hrun ⊢
    exact (State.command_fits hfits (by decide)).trans (congrArg _ hrun)
  · have hrun := State.runTensorSet_of_good (s := s.taken m) hx hstep hflags hhyper
    refine ⟨(s.taken m).setTensor (r.b 0) (r.h 2) { x with entry := pendingSet x.entry r }, { x with entry := pendingSet x.entry r },
      ?_, rfl, rfl, step_pendingSet hlen, flags_pendingSet hlen, hyper_pendingSet hlen, fun i hi => getD_pendingSet hlen hi⟩
    rw [hr] at hrun ⊢
    exact (State.command_fits hfits (by decide)).trans (congrArg _ hrun)

end Sys2Proof.Machine

/-! CONFIG_APPLY, FW_STAGE and FW_ACTIVATE (15 R432, R433, R435). -/

namespace Sys2Proof.Machine

/-- A refusal has no RET but that of COLL_POST. -/
theorem State.refuse_eq_complete {s : State} {c : Cmd} (hop : c.opcode ≠ 0x201) (result detail : Nat) :
    s.refuse c result detail = s.complete c result detail [] := by
  rw [State.refuse, refusedRet, if_neg hop]

/-- The flash with a configuration image in the slot that is not in use. -/
def Flash.withConfig (f : Flash) (img : List Byte) : Flash :=
  if f.cfgActive then { f with cfgA := img } else { f with cfgB := img }

/-- A configuration image out of order: its header is bad, or CFG_SEQ goes back, or stays for another image (R435). -/
theorem State.runConfigApply_of_staged {s : State} {r : Req} {img : List Byte} (hop : r.cmd.opcode ≠ 0x201)
    (himg : s.staged (r.h 0) = some img) : s.runConfigApply r =
      if s.cfgSigned img = false then s.complete r.cmd rCheckFailed 0 []
      else if cfgHeader img = false ∨
          imgCfgSeq (Config.eContent img) < imgCfgSeq (Config.eContent (s.cfgSlot s.flash.cfgActive)) ∨
          (imgCfgSeq (Config.eContent img) = imgCfgSeq (Config.eContent (s.cfgSlot s.flash.cfgActive)) ∧
            img ≠ s.cfgSlot s.flash.cfgActive)
        then s.complete r.cmd rBadArgs 0 []
      else (State.endXfer { s with flash := s.flash.write { s.flash.withConfig img with
        cfgActive := !(s.flash.withConfig img).cfgActive } } (r.h 0)).ok r := by
  unfold State.runConfigApply
  rw [himg]
  dsimp only
  rw [State.refuse_eq_complete hop, State.refuse_eq_complete hop]
  refine if_congr (by rw [Bool.not_eq_true']) rfl (if_congr ?_ rfl rfl)
  simp only [Bool.or_eq_true, Bool.and_eq_true, Bool.not_eq_true', decide_eq_true_eq, beq_iff_eq, bne_iff_ne, or_assoc]

theorem State.runFwStage_of_staged {s : State} {r : Req} {img : List Byte} (hop : r.cmd.opcode ≠ 0x201)
    (himg : s.staged (r.h 0) = some img) (hslot : (r.b 2 == 1) ≠ s.sec.slotB) : s.runFwStage r =
      if fwSigned img = false then s.complete r.cmd rCheckFailed 0 []
      else if s.fwHeader img = false then s.complete r.cmd rBadArgs 0 []
      else (State.endXfer { s with flash := if r.b 2 == 1 then { s.flash with fwB := img } else { s.flash with fwA := img } }
        (r.h 0)).ok r := by
  unfold State.runFwStage
  dsimp only
  rw [himg]
  dsimp only
  rw [State.refuse_eq_complete hop, State.refuse_eq_complete hop, if_neg hslot]
  exact if_congr (by rw [Bool.not_eq_true']) rfl (if_congr (by rw [Bool.not_eq_true']) rfl rfl)

/-- FW_ACTIVATE of the other slot begins a trial of it; of the slot that runs it commits a running trial (R433). -/
theorem State.runFwActivate_eq {s : State} {r : Req} {b : Bool} (hop : r.cmd.opcode ≠ 0x201) (hb : b = (r.b 0 == 1)) :
    s.runFwActivate r =
      if b = s.sec.slotB then
        (if s.flash.trial = true ∧ s.flash.active = b then State.ok { s with
          fuses := { s.fuses with minver := max s.fuses.minver (imgRollback (Config.eContent (s.fwSlot b))) },
          flash := s.flash.write { s.flash with trial := false }, sec := { s.sec with trial := false } } r
         else s.ok r)
      else if fwSigned (s.fwSlot b) = false then s.complete r.cmd rCheckFailed 0 []
      else if s.fwHeader (s.fwSlot b) = false then s.complete r.cmd rBadArgs 0 []
      else State.ok { s with flash := s.flash.write { s.flash with active := b, trial := true, trialCount := 0 } } r := by
  subst hb
  unfold State.runFwActivate
  dsimp only
  rw [ite_not, State.refuse_eq_complete hop, State.refuse_eq_complete hop]
  exact if_congr Iff.rfl (if_congr (by rw [Bool.and_eq_true, beq_iff_eq]) rfl rfl)
    (if_congr (by rw [Bool.not_eq_true']) rfl (if_congr (by rw [Bool.not_eq_true']) rfl rfl))

/-- Settles O9: each command runs as it was taken (`State.command_fits`); what is written to the flash is `Flash.write`. -/
theorem imageCommandsComplete : Obligations.ImageCommandsComplete := by
  refine ⟨fun s m r img f hfits hr himg hf => ?_, fun s m r img hfits hr himg hslot => ?_, fun s m r b hfits hr hb => ?_⟩
  · have hop : r.cmd.opcode ≠ 0x201 := by rw [hr, show (s.reqAt m).cmd.opcode = 0x304 from hfits.2.1]; decide
    have hrun := State.runConfigApply_of_staged (s := s.taken m) hop himg
    rw [hf]
    rw [hr] at hrun ⊢
    exact (State.command_fits hfits (by decide)).trans (congrArg _ hrun)
  · have hop : r.cmd.opcode ≠ 0x201 := by rw [hr, show (s.reqAt m).cmd.opcode = 0x602 from hfits.2.1]; decide
    have hrun := State.runFwStage_of_staged (s := s.taken m) hop himg hslot
    rw [hr] at hrun ⊢
    exact (State.command_fits hfits (by decide)).trans (congrArg _ hrun)
  · have hop : r.cmd.opcode ≠ 0x201 := by rw [hr, show (s.reqAt m).cmd.opcode = 0x603 from hfits.2.1]; decide
    have hrun := State.runFwActivate_eq (s := s.taken m) hop hb
    rw [hr] at hrun ⊢
    exact (State.command_fits hfits (by decide)).trans (congrArg _ hrun)

end Sys2Proof.Machine

/-! RESET_WARM, ATTEST_QUOTE, the reset exit and the start of a signature tree (14 R404, R408; 15 R420, R431, R436; 13 R354). -/

namespace Sys2Proof.Machine

theorem foldl_eq_self {α σ : Type} {f : σ → α → σ} {s : σ} {l : List α} (h : ∀ x ∈ l, f s x = s) : l.foldl f s = s := by
  induction l with
  | nil => rfl
  | cons x xs ih =>
    rw [List.foldl_cons, h x List.mem_cons_self]
    exact ih fun y hy => h y (List.mem_cons_of_mem x hy)

/-- A request that fits, and passes the test of its command, runs. -/
theorem State.takeEntry_of_fits {s : State} {m : BitVec 6} {op : Nat} {test : Nat → List Byte → Bool}
    {run : State → Req → State} (hfits : s.fits m op) (hknown : knownOp op = true)
    (htest : test op (s.reqAt m).args = true) : s.takeEntry m test run = run (s.taken m) (s.reqAt m) := by
  obtain ⟨htake, rfl, hentry, hpath⟩ := hfits
  have hknown' : knownOp ((s.mbx m.toNat).cmd m.toNat).opcode = true := hknown
  have hpath' : (decide (m = 63) && hostOnly ((s.mbx m.toNat).cmd m.toNat).opcode) = false := hpath
  have htest' : test ((s.mbx m.toNat).cmd m.toNat).opcode
    (bytesAt (s.mbx m.toNat).entry 32 (8 * fld (s.mbx m.toNat).entry 3 1)) = true := htest
  unfold State.takeEntry
  dsimp only
  rw [htake, htest', hknown', hentry, hpath']
  rfl

/-! ### RESET_WARM of a cell (14 R408) -/

/-- An order names the Fixus of the cell, which no order changes. -/
theorem State.foldl_sendMgmt_cell {l : List Nat} {s t : State} (bs : List Byte) (hcell : t.sys.cell = s.sys.cell) :
    l.foldl (fun u k => u.sendMgmt (fixusAddr u.sys.cell k) 0xE false 0 0 0 0 bs) t =
      l.foldl (fun u k => u.sendMgmt (fixusAddr s.sys.cell k) 0xE false 0 0 0 0 bs) t := by
  induction l generalizing t with
  | nil => rfl
  | cons k l ih =>
    have hnext : (t.sendMgmt (fixusAddr s.sys.cell k) 0xE false 0 0 0 0 bs).sys.cell = s.sys.cell := by
      rw [State.sendMgmt_only]
      exact hcell
    rw [List.foldl_cons, List.foldl_cons, hcell]
    exact ih hnext

/-! ### Quotes (15 R420, R431) -/

theorem State.tryQuote_of_leaf {s : State} {c : Cmd} {nonce : List Byte} {tag n : Nat} (hbusy : s.sec.busy = false)
    (hout : s.signedOut = false) (hleaf : s.sec.leaf = some n) (hn : n < 1024) :
    s.tryQuote c nonce tag = s.signQuote c nonce tag n := by
  unfold State.tryQuote
  rw [if_neg (by rw [hbusy]; decide), if_neg (by rw [hout]; decide), hleaf, Option.filter_some, decide_eq_true hn]
  rfl

/-- Without a leaf the RSV fuse of the next tree is burned, and the quote waits for it. -/
theorem State.tryQuote_of_no_leaf {s : State} {c : Cmd} {nonce : List Byte} {tag : Nat} (hbusy : s.sec.busy = false)
    (hout : s.signedOut = false) (hleaf : s.sec.leaf = none) : s.tryQuote c nonce tag = { s with
      fuses := { s.fuses with rsv := s.fuses.rsv + 1 },
      sec := { s.sec with busy := true, waiting := s.sec.waiting ++ [(c, nonce, tag)] } } := by
  unfold State.tryQuote
  rw [if_neg (by rw [hbusy]; decide), if_neg (by rw [hout]; decide), hleaf]
  rfl

/-! ### The reset exit (13 R354, R350) -/

/-- A mailbox opened for nobody where pool 1 has its pages. -/
def State.boxOpened (s : State) (m rq cq : Nat) : State := (s.openMbx m rq cq none).getD s

theorem State.boxOpened_of_room {s : State} {m rq cq : Nat} (hroom : rq + cq ≤ s.pool1Free) :
    s.boxOpened m rq cq = { s with
      sol := { s.sol with used1 := s.sol.used1 + rq + cq }, mbxs := tset s.mbxs m ((s.mbx m).openedBy rq cq none) } := by
  unfold State.boxOpened State.openMbx
  rw [if_pos hroom]
  rfl

/-- A Fixus without a live port sends no HELLO. -/
theorem State.sendHello_of_none_live {s : State} {g : Nat} (hg : g < 16) (h : ∀ p, p < 64 → (s.port p).st ≠ .active) :
    s.sendHello g = s := by
  have hdead : s.livePorts (groupPorts g) = [] := by
    refine List.filter_eq_nil_iff.mpr fun p hp => ?_
    have hlt : p < 64 := by
      simp only [groupPorts, List.mem_cons, List.not_mem_nil, or_false] at hp
      omega
    simpa [State.live] using h p hlt
  have hkth : s.kth (groupPorts g) 0 = none := by
    rw [State.kth, hdead]
    rfl
  rw [State.sendHello, hkth]

theorem State.unheard_lt {s : State} {g : Nat} (h : g ∈ s.unheard) : g < 16 := by
  have hmem : g ∈ [8, 9, 10, 11] := List.mem_of_mem_filter (List.mem_of_mem_filter h)
  simp only [List.mem_cons, List.not_mem_nil, or_false] at hmem
  omega

/-! The stages of the reset exit: its two mailboxes, the configuration image, the straps, and the start of lane training. -/

def State.boxesOpened (s : State) : State :=
  (State.boxOpened { s with sys := { s.sys with fwReady := true } } 0 4 4).boxOpened 63 1 1

def State.configLoaded (s : State) : State :=
  if s.sec.cfgOk then s.applyConfig (imgPayload (Config.eContent (s.cfgSlot s.flash.cfgActive))) else s

def State.strapsChecked (s : State) : State :=
  if s.pins.hostbr != (s.pins.sw == 0) then s.strapConflict (strapInfo s.pins.hostbr s.pins.sw) else s

def State.trainingBegun (s : State) : State :=
  { s with sys := { s.sys with training := decide (s.sys.resetCause ≠ 3), helloAt := s.clk },
           pins := { s.pins with barLow := false, romBar := none } }

theorem State.resetExit_eq_stages (s : State) : s.resetExit = s.boxesOpened.configLoaded.strapsChecked.trainingBegun.unheard.foldl
    (fun s g => s.sendHello g) s.boxesOpened.configLoaded.strapsChecked.trainingBegun := by
  unfold State.resetExit State.trainingBegun State.strapsChecked State.configLoaded State.boxesOpened State.boxOpened
  rfl

/-- A Fixus that has ten buffers of pool 1 opens both its mailboxes. -/
theorem State.boxesOpened_of_room {s : State} (hroom : 10 ≤ s.pool1Free) : s.boxesOpened = { s with
    sys := { s.sys with fwReady := true }, sol := { s.sol with used1 := s.sol.used1 + 10 },
    mbxs := tset (tset s.mbxs 0 ((s.mbx 0).openedBy 4 4 none)) 63 ((s.mbx 63).openedBy 1 1 none) } := by
  have hroom0 : 4 + 4 ≤ ({ s with sys := { s.sys with fwReady := true } } : State).pool1Free :=
    (show 4 + 4 ≤ s.pool1Free by omega)
  have hroom63 : 1 + 1 ≤ ({ s with
      sys := { s.sys with fwReady := true }, sol := { s.sol with used1 := s.sol.used1 + 4 + 4 },
      mbxs := tset s.mbxs 0 ((s.mbx 0).openedBy 4 4 none) } : State).pool1Free := by
    show 1 + 1 ≤ s.sol.count.2.1 - (s.sol.used1 + 4 + 4 + s.stagedSegs + s.operandBufs 1)
    have hfree : 10 ≤ s.sol.count.2.1 - (s.sol.used1 + s.stagedSegs + s.operandBufs 1) := hroom
    omega
  have hbox63 : (s.setMbx 0 ((s.mbx 0).openedBy 4 4 none)).mbx 63 = s.mbx 63 :=
    (State.mbx_setMbx ..).trans (if_neg (by decide))
  rw [State.boxesOpened, State.boxOpened_of_room hroom0]
  refine (State.boxOpened_of_room hroom63).trans ?_
  exact congrArg (fun b : Mbx => ({ s with
    sys := { s.sys with fwReady := true }, sol := { s.sol with used1 := s.sol.used1 + 10 },
    mbxs := tset (tset s.mbxs 0 ((s.mbx 0).openedBy 4 4 none)) 63 (b.openedBy 1 1 none) } : State)) hbox63

/-- Where the straps agree, no configuration is applied and no port is live, firmware starts with its two mailboxes open. -/
theorem State.resetExit_of_plain {s : State} (hcfg : s.sec.cfgOk = false) (hstrap : s.pins.hostbr = (s.pins.sw == 0))
    (hroom : 10 ≤ s.pool1Free) (hdead : ∀ p, p < 64 → (s.port p).st ≠ .active) :
    s.resetExit = s.boxesOpened.trainingBegun := by
  have hboxes := State.boxesOpened_of_room hroom
  have hloaded : s.boxesOpened.configLoaded = s.boxesOpened := if_neg (by rw [hboxes]; exact Bool.eq_false_iff.mp hcfg)
  have hchecked : s.boxesOpened.strapsChecked = s.boxesOpened :=
    if_neg (by rw [hboxes]; exact fun h => bne_iff_ne.mp h hstrap)
  rw [State.resetExit_eq_stages, hloaded, hchecked]
  refine foldl_eq_self fun g hg => State.sendHello_of_none_live (State.unheard_lt hg) ?_
  rw [hboxes]
  exact hdead

/-- The mailboxes after the reset exit: 0 and 63 opened, each other as it was. -/
theorem State.mbx_exited {s : State} (hroom : 10 ≤ s.pool1Free) (j : Nat) : s.boxesOpened.trainingBegun.mbx j =
    if 63 = j then (s.mbx 63).openedBy 1 1 none else if 0 = j then (s.mbx 0).openedBy 4 4 none else s.mbx j := by
  have htable : s.boxesOpened.trainingBegun.mbx j =
      ((s.setMbx 0 ((s.mbx 0).openedBy 4 4 none)).setMbx 63 ((s.mbx 63).openedBy 1 1 none)).mbx j := by
    rw [State.boxesOpened_of_room hroom]
    rfl
  rw [htable, State.mbx_setMbx, State.mbx_setMbx]

theorem State.exited_of_room {s : State} (hroom : 10 ≤ s.pool1Free) : s.boxesOpened.trainingBegun = { s with
    sys := { s.sys with fwReady := true, training := decide (s.sys.resetCause ≠ 3), helloAt := s.clk },
    mbxs := s.boxesOpened.trainingBegun.mbxs, sol := { s.sol with used1 := s.sol.used1 + 10 },
    pins := { s.pins with barLow := false, romBar := none } } := by
  rw [State.boxesOpened_of_room hroom]
  rfl

/-- Settles O11: commands run as they were taken; the reset exit is `State.resetExit_eq_exited`, a tree's quotes `State.tryQuote`. -/
theorem quotesAndResetCommands : Obligations.QuotesAndResetCommands := by
  refine ⟨fun s m hfits hscope => ?_, fun s m hfits hscope => ?_, fun s m r n hfits hr hbusy hout hleaf hn => ?_,
    fun s m r hfits hr hbusy hout hleaf => ?_, fun s hon hotp hfw hready hcfg hstrap hroom hdead => ?_,
    fun s v hon hotp hready hv => ?_, fun s hon hbusy hnone => ?_, fun s c nonce tag hon hbusy hone => ?_,
    fun s hon hbusy => ?_⟩
  · exact congrArg _ (State.takeEntry_of_fits hfits (by decide) (by simp [hscope]))
  · refine congrArg _ ((State.takeEntry_of_fits hfits (by decide) (by simp [hscope])).trans ?_)
    exact State.foldl_sendMgmt_cell (s := s) _ rfl
  · subst hr
    have hrun : (s.taken m).tryQuote (s.reqAt m).cmd (bytesAt (s.reqAt m).args 0 32) ((s.reqAt m).h 32) = _ :=
      State.tryQuote_of_leaf (s := s.taken m) hbusy hout hleaf hn
    exact ⟨_, _, (State.command_fits hfits (by decide)).trans (congrArg _ hrun), rfl, rfl⟩
  · subst hr
    exact (State.command_fits hfits (by decide)).trans (congrArg _ (State.tryQuote_of_no_leaf (s := s.taken m) hbusy hout hleaf))
  · have hexec : exec .resetExit s = .next s.boxesOpened.trainingBegun := by
      refine (due_of_true (s := s) (by rw [hon, hready]; rfl)).trans (congrArg _ ?_)
      rw [if_pos hotp, if_neg (by rw [hfw]; decide), State.resetExit_of_plain hcfg hstrap hroom hdead]
    have hboxes := State.mbx_exited hroom
    have hform := State.exited_of_room hroom
    refine ⟨_, hexec, ?_⟩
    generalize s.boxesOpened.trainingBegun = t at hboxes hform
    have h0 : t.mbx 0 = (s.mbx 0).openedBy 4 4 none := hboxes 0
    have h63 : t.mbx 63 = (s.mbx 63).openedBy 1 1 none := hboxes 63
    have htraining : t.sys.training = decide (s.sys.resetCause ≠ 3) := by rw [hform]
    refine ⟨by rw [hform], by rw [h0]; rfl, by rw [h0]; rfl, by rw [h0]; rfl, by rw [h63]; rfl, by rw [h63]; rfl,
      by rw [h63]; rfl, htraining, by rw [hform], fun m hm0 hm63 => ?_, by rw [htraining]; exact hform⟩
    rw [hboxes, if_neg hm63.symm, if_neg hm0.symm]
  · refine (due_of_true (s := s) (by rw [hon, hready]; rfl)).trans (congrArg _ ?_)
    rw [hv, if_neg (c := s.sys.otpRead = true) (by rw [hotp]; decide)]
  · refine (due_of_true (s := s) (by rw [hon, hbusy]; rfl)).trans (congrArg _ ?_)
    rw [if_pos rfl, State.treeDone, hnone]
    rfl
  · refine (due_of_true (s := s) (by rw [hon, hbusy]; rfl)).trans (congrArg _ ?_)
    rw [if_pos rfl, State.treeDone, hone]
    refine State.tryQuote_of_leaf (s := { s with sec := { s.sec with leaf := some 0, busy := false, waiting := [] } }) (n := 0) rfl ?_ rfl
      (by decide)
    exact Bool.and_eq_false_iff.mpr (.inr rfl)
  · exact due_of_true (s := s) (by rw [hon, hbusy]; rfl)

end Sys2Proof.Machine

/-! A write of one register (13 R369 to R371): what `store` leaves where it is taken and where it is a bus error. -/

namespace Sys2Proof.Machine

/-- An address below the ports is that of one register. -/
theorem State.plainAddr_of_lt (s : State) {a : Nat} (hhigh : a < 0x400000) (hword : a % 4 = 0) : s.plainAddr a := by
  refine ⟨hword, by omega, ?_, ?_, ?_⟩
  · simp only [aliasOf, Bool.and_eq_true, decide_eq_true_eq]
    rw [if_neg (by omega)]
  · simp only [State.window, Bool.and_eq_true, decide_eq_true_eq]
    rw [if_neg (by omega), if_neg (by omega), if_neg (by omega), if_neg (by omega), if_neg (by omega)]
  · simp only [canon, Bool.and_eq_true, decide_eq_true_eq]
    rw [if_neg (by omega), if_neg (by omega), if_neg (by omega)]

/-! ### One register written -/

section
variable {s t : State} {w : Who} {a v : Nat}

theorem State.regWrite_plain (hplain : s.plainAddr a) (hreserves : touchesReserves a = false) :
    s.regWrite w a v = (s.closeKey w).writeWord w (s.keyOpen w) a v := by
  obtain ⟨haligned, hspace, halias, hwindow, hcanon⟩ := hplain
  unfold State.regWrite
  simp only [haligned, Nat.not_le.mpr hspace, halias, hwindow, hcanon, hreserves, ne_eq, not_true_eq_false, decide_false,
    Bool.or_self, Bool.false_and, Bool.false_eq_true, if_false]
  cases (s.closeKey w).writeWord w (s.keyOpen w) a v <;> rfl

theorem State.store_of_written (hears : s.hears w) (hwrite : s.regWrite w a v = some t) : s.store w a v = (t, true) := by
  obtain ⟨-, hclass, hfirmware, -⟩ := hears
  unfold State.store
  rw [hclass, hfirmware, hwrite]
  rfl

theorem State.store_of_refused (hwrite : s.regWrite w a v = none) : s.store w a v = ((s.closeKey w).busError w a, false) := by
  unfold State.store
  rw [hwrite, ite_self]

theorem State.writeCmd_of_written {v : Word} (hears : s.hears w) (hwrite : s.regWrite w a v.toNat = some t) :
    s.writeCmd w a v = .next { t with bus := ⟨[], false⟩ } := by
  rw [State.writeCmd, due_of_true hears.1, State.busWrite, State.store_of_written hears hwrite]
  rfl

theorem State.writeCmd_of_refused {v : Word} (hreach : s.reachable w = true) (hwrite : s.regWrite w a v.toNat = none) :
    s.writeCmd w a v = .next { (s.closeKey w).busError w a with bus := ⟨[], true⟩ } := by
  rw [State.writeCmd, due_of_true hreach, State.busWrite, State.store_of_refused hwrite]
  rfl

/-- A window of several registers written. -/
theorem State.regWrite_window {like : Nat} {l : List Nat} (haligned : a % 4 = 0) (hspace : a < 0x4000000)
    (halias : aliasOf a = none) (hwindow : s.window a = some (like, l)) (hstands : (s.regVal w like).isSome = true)
    (hreserves : touchesReserves like = false) :
    s.regWrite w a v = (s.closeKey w).writeAll w (s.keyOpen w) v l := by
  have hsome : (s.regVal w like).isNone = false := by rw [← Option.not_isSome, hstands]; rfl
  unfold State.regWrite
  simp only [haligned, Nat.not_le.mpr hspace, halias, hwindow, hsome, hreserves, ne_eq, not_true_eq_false, decide_false,
    Bool.or_self, Bool.false_and, Bool.false_eq_true, if_false]
  cases (s.closeKey w).writeAll w (s.keyOpen w) v l <;> rfl

end

/-! ### One word -/

section
variable {s : State} {w : Who} {key : Bool} {a v : Nat}

theorem State.writeWord_of_reserved (hval : s.regVal w a = none) : s.writeWord w key a v = none := by
  rw [State.writeWord, hval]
  rfl

/-- An address of a register that holds its value in `State.cfg`, and of none with an effect of its own. -/
def heldInCfg (a rw_ : Nat) : Prop :=
  cfgMask a = some (rw_, 0) ∧ a ≠ 0x40 ∧ a ≠ 0x48 ∧ a ≠ aSec + 0x240 ∧ (a < aMbx ∨ aMbx + 0x30000 ≤ a)

/-- Such a register whose fields are all RW takes the value written, adjusted, whether the key is open or not. -/
theorem State.writeWord_of_heldInCfg {rw_ : Nat} (hparity : s.sys.parityBad = []) (hheld : heldInCfg a rw_)
    (hrefused : refusedValue a v = false) (hignored : ignoredValue a v = false) :
    s.writeWord w key a v =
      some ((s.setCfg a (BitVec.ofNat 32 (s.adjust a (v &&& rw_)))).afterWrite a (s.cfgAt a)) := by
  obtain ⟨hmask, hunlock, hreset, hburn, hmbx⟩ := hheld
  have hval : (s.regVal w a).isNone = false := by
    rw [← Option.not_isSome, State.regVal_isSome_of_cfgMask hmask]
    rfl
  have hcheck : s.parityCheck a = s := by simp [State.parityCheck, hparity]
  have hbad : s.sys.parityBad.filter (· != a) = s.sys.parityBad := by rw [hparity]; rfl
  have hbox : wordsAt aMbx 4096 a = false := wordsAt_eq_false_iff.mpr (by unfold aMbx at *; omega)
  unfold State.writeWord
  simp only [hval, hcheck, hbad, hbox, Bool.false_and, Bool.false_eq_true, if_false, Bool.and_eq_true, decide_eq_true_eq]
  rw [if_neg hunlock, if_neg hreset, if_neg hburn, if_neg (by unfold aMbx at *; omega), hmask]
  simp [hrefused, hignored, State.unlockFail]

end

end Sys2Proof.Machine

/-! The mailbox registers: doorbells, and MBX_CTL.RESET (13 R356, R360, R361). -/

namespace Sys2Proof.Machine

theorem State.regVal_isSome_of_blockReg {s : State} {w : Who} {a : Nat} (h : (s.blockReg w a).isSome = true) :
    (s.regVal w a).isSome = true := by
  obtain ⟨v, hv⟩ := Option.isSome_iff_exists.mp h
  unfold State.regVal
  simp only [hv]
  repeat' split
  all_goals rfl

/-- No register before those of SLD moves a reserve. -/
theorem touchesReserves_of_lt {a : Nat} (h : a < 0x100000) : touchesReserves a = false := by
  simp only [touchesReserves, wordsAt_eq_false_iff, aSld, Bool.or_eq_false_iff, Bool.and_eq_false_iff, decide_eq_false_iff_not,
    beq_eq_false_iff_ne]
  omega

/-- Where the registers of mailbox `m` stand, and which of them an address is. -/
theorem aMbx_spec {m o : Nat} (hm : m < 64) (ho : o < 0x100) :
    wordsAt aMbx 4096 (aMbx + 0x100 * m + o) = true ∧ (aMbx + 0x100 * m + o) % 0x100 = o ∧
    (aMbx + 0x100 * m + o - aMbx) / 0x100 = m ∧ aMbx ≤ aMbx + 0x100 * m + o ∧ aMbx + 0x100 * m + o < 0x44000 := by
  simp only [wordsAt_eq_true_iff, aMbx]
  omega

/-- The doorbells and MBX_CTL stand. -/
theorem State.regVal_mbx_isSome {s : State} {w : Who} {m o : Nat} (hm : m < 64) (ho : o = 8 ∨ o = 0x14 ∨ o = 0x18) :
    (s.regVal w (aMbx + 0x100 * m + o)).isSome = true := by
  have hlt : o < 0x100 := by omega
  obtain ⟨-, -, -, hlow, hhigh⟩ := aMbx_spec hm hlt
  have hoff : (aMbx + 0x100 * m + o - 0x40000) % 0x100 = o := by unfold aMbx at *; omega
  unfold aMbx at hlow
  refine State.regVal_isSome_of_blockReg ?_
  unfold State.blockReg State.mbxReg
  rw [if_neg (by omega), if_neg (by omega), if_neg (by omega), if_pos (by omega)]
  dsimp only
  rw [if_pos (by omega), hoff]
  rcases ho with rfl | rfl | rfl <;> rfl

section
variable {s : State} {w : Who} {key : Bool} {m v : Nat} (hparity : s.sys.parityBad = []) (hm : m < 64)
include hparity hm

/-- A write of a mailbox's register: a doorbell, or MBX_CTL. -/
theorem State.writeWord_mbx {o : Nat} (ho : o = 8 ∨ o = 0x14 ∨ o = 0x18) : s.writeWord w key (aMbx + 0x100 * m + o) v =
    if o = 8 then s.setRqTail m (v % 65536) else if o = 0x14 then s.setCqHead m (v % 65536)
    else if v % 2 = 1 then (if key then some (s.resetMbx m) else some (s.unlockFail true)) else some s := by
  obtain ⟨hwords, hoff, hindex, hlow, hhigh⟩ := aMbx_spec (o := o) hm (by omega)
  have hval : (s.regVal w (aMbx + 0x100 * m + o)).isNone = false := by
    rw [← Option.not_isSome, State.regVal_mbx_isSome hm ho]
    rfl
  have hcheck : s.parityCheck (aMbx + 0x100 * m + o) = s := by simp [State.parityCheck, hparity]
  have hbad : s.sys.parityBad.filter (· != aMbx + 0x100 * m + o) = s.sys.parityBad := by rw [hparity]; rfl
  have hne {b : Nat} (hb : b < aMbx ∨ 0x44000 ≤ b) : ¬ aMbx + 0x100 * m + o = b := by omega
  unfold State.writeWord
  simp only [hval, hcheck, hbad, hwords, hoff, hindex, Bool.true_and, Bool.false_eq_true, if_false, decide_eq_true_eq]
  rw [if_neg (hne (by decide)), if_neg (hne (by decide)), if_neg (hne (by decide))]
  rcases ho with rfl | rfl | rfl <;> rfl

end

/-- A bus error is counted and noted, and the key closes (R370, R371). -/
theorem State.busError_closeKey_only (s : State) (w : Who) (a : Nat) : (s.closeKey w).busError w a = { s with
    cnt := ((s.closeKey w).busError w a).cnt, sys := ((s.closeKey w).busError w a).sys } := by
  unfold State.busError
  rw [State.bump_only]
  rfl

theorem State.setRqTail_of_fitting {s : State} {m v : Nat} (hopen : (s.mbx m).opened = true)
    (hfits : ringUsed v (s.mbx m).rqHead ≤ (s.mbx m).rqN)
    (hforward : ringUsed (s.mbx m).rqTail (s.mbx m).rqHead ≤ ringUsed v (s.mbx m).rqHead) :
    s.setRqTail m v = some (s.setMbx m { s.mbx m with rqTail := v }) := by
  unfold State.setRqTail
  dsimp only
  rw [if_pos (by rw [hopen, decide_eq_true hfits, decide_eq_true hforward]; rfl)]

theorem State.setRqTail_of_over {s : State} {m v : Nat} (hover : (s.mbx m).rqN < ringUsed v (s.mbx m).rqHead) :
    s.setRqTail m v = none := by
  unfold State.setRqTail
  dsimp only
  rw [if_neg (by rw [decide_eq_false (Nat.not_le.mpr hover), Bool.and_false, Bool.false_and]; decide)]

theorem State.setCqHead_of_none_held {s : State} {m v : Nat} (hopen : (s.mbx m).opened = true) (hheld : (s.mbx m).held = [])
    (hroom : ringUsed v (s.mbx m).cqHead ≤ ringUsed (s.mbx m).cqTail (s.mbx m).cqHead) :
    s.setCqHead m v = some (s.setMbx m { s.mbx m with cqHead := v }) := by
  unfold State.setCqHead
  dsimp only
  rw [if_pos (by rw [hopen, decide_eq_true hroom]; rfl), hheld]
  rfl

/-- A mailbox after MBX_CTL.RESET (R361). -/
def Mbx.reset (b : Mbx) : Mbx :=
  { b with owner := none, rq := [], cq := [], rqTail := 0, rqHead := 0, cqTail := 0, cqHead := 0, held := [], inst := b.inst + 1 }

theorem State.resetMbx_of_open {s : State} {m : Nat} (hopen : (s.mbx m).opened = true) :
    s.resetMbx m = s.setMbx m (s.mbx m).reset :=
  if_neg (by rw [hopen]; decide)

theorem toNat_mod_two_of_getLsbD {v : Word} (h : v.getLsbD 0 = true) : v.toNat % 2 = 1 := by
  rw [BitVec.getLsbD, Nat.testBit_zero] at h
  exact of_decide_eq_true h

/-- A write of a mailbox's register is one of its meaning in `State.writeWord_mbx`. -/
theorem State.regWrite_mbx {s : State} {w : Who} {m o v : Nat} (hears : s.hears w) (hm : m < 64)
    (ho : o = 8 ∨ o = 0x14 ∨ o = 0x18) : s.regWrite w (aMbx + 0x100 * m + o) v =
      if o = 8 then (s.closeKey w).setRqTail m (v % 65536) else if o = 0x14 then (s.closeKey w).setCqHead m (v % 65536)
      else if v % 2 = 1 then
        (if s.keyOpen w then some ((s.closeKey w).resetMbx m) else some ((s.closeKey w).unlockFail true))
      else some (s.closeKey w) := by
  obtain ⟨-, -, -, hlow, hhigh⟩ := aMbx_spec (o := o) hm (by omega)
  have hword : (aMbx + 0x100 * m + o) % 4 = 0 := by unfold aMbx; omega
  rw [State.regWrite_plain (s.plainAddr_of_lt (by omega) hword) (touchesReserves_of_lt (by omega))]
  exact State.writeWord_mbx (s := s.closeKey w) hears.2.2.2 hm ho

/-- Settles O13: each write is `State.regWrite_mbx`, taken or a bus error. -/
theorem mailboxRegisterWrites : Obligations.MailboxRegisterWrites := by
  refine ⟨fun s w m v hears hopen hfits hforward => ?_, fun s w m v hears hover => ?_, fun s w m v hears hopen hheld hroom => ?_,
    fun s w m v hears hopen hkey hbit => ?_⟩
  · have hwrite : s.regWrite w (aMbx + 0x100 * m.toNat + 8) v.toNat =
        some ((s.closeKey w).setMbx m.toNat { s.mbx m.toNat with rqTail := v.toNat % 65536 }) :=
      (State.regWrite_mbx hears m.isLt (.inl rfl)).trans
        (State.setRqTail_of_fitting (s := s.closeKey w) hopen hfits hforward)
    exact State.writeCmd_of_written hears hwrite
  · have hwrite : s.regWrite w (aMbx + 0x100 * m.toNat + 8) v.toNat = none :=
      (State.regWrite_mbx hears m.isLt (.inl rfl)).trans (State.setRqTail_of_over (s := s.closeKey w) hover)
    refine ⟨_, State.writeCmd_of_refused hears.1 hwrite, rfl, ?_, ?_⟩
    all_goals rw [State.busError_closeKey_only]
  · have hwrite : s.regWrite w (aMbx + 0x100 * m.toNat + 0x14) v.toNat =
        some ((s.closeKey w).setMbx m.toNat { s.mbx m.toNat with cqHead := v.toNat % 65536 }) :=
      (State.regWrite_mbx hears m.isLt (.inr (.inl rfl))).trans
        (State.setCqHead_of_none_held (s := s.closeKey w) hopen hheld hroom)
    exact State.writeCmd_of_written hears hwrite
  · have hwrite : s.regWrite w (aMbx + 0x100 * m.toNat + 0x18) v.toNat =
        some ((s.closeKey w).setMbx m.toNat (s.mbx m.toNat).reset) := by
      refine (State.regWrite_mbx hears m.isLt (.inr (.inr rfl))).trans ?_
      rw [if_neg (by decide), if_neg (by decide), if_pos (toNat_mod_two_of_getLsbD hbit), if_pos hkey]
      exact congrArg some (State.resetMbx_of_open (s := s.closeKey w) hopen)
    refine ⟨{ (s.closeKey w).setMbx m.toNat (s.mbx m.toNat).reset with bus := ⟨[], false⟩ },
      State.writeCmd_of_written hears hwrite, ?_⟩
    have hself : ({ (s.closeKey w).setMbx m.toNat (s.mbx m.toNat).reset with bus := ⟨[], false⟩ } : State).mbx m.toNat =
        (s.mbx m.toNat).reset := State.mbx_setMbx_self ..
    rw [hself]
    exact ⟨rfl, rfl, rfl, rfl, rfl, rfl, rfl, rfl, hopen, rfl,
      fun j hj => (State.mbx_setMbx (s.closeKey w) ..).trans (if_neg hj.symm), rfl⟩

end Sys2Proof.Machine

/-! Writes of the register space (13 R370, R372, R374, R375): single, bit, broadcast and group writes. -/

namespace Sys2Proof.Machine

/-! ### A register that does not stand -/

theorem State.regVal_unlock_isSome (s : State) (w : Who) : (s.regVal w 0x40).isSome = true := by
  refine State.regVal_isSome_of_blockReg ?_
  rw [State.blockReg, if_pos (by decide)]
  rfl

theorem State.endpoint_closeKey (s : State) (w : Who) (a : Nat) : (s.closeKey w).endpoint a = s.endpoint a := by
  unfold State.endpoint
  rw [show (s.closeKey w).minMask = s.minMask from rfl, show (s.closeKey w).escGroup = s.escGroup from rfl,
    show (s.closeKey w).present = s.present from rfl, show (s.closeKey w).isLocal = s.isLocal from rfl]

theorem State.wideVal_closeKey (s : State) (w : Who) (a : Nat) : (s.closeKey w).wideVal a = s.wideVal a := by
  unfold State.wideVal
  rw [State.endpoint_closeKey]
  rfl

theorem State.sldReg_closeKey (s : State) (w : Who) (o : Nat) : (s.closeKey w).sldReg o = s.sldReg o := by
  unfold State.sldReg
  rw [State.endpoint_closeKey]
  rfl

/-- SYS_UNLOCK alone reads the keys. -/
theorem State.blockReg_closeKey (s : State) (w : Who) {a : Nat} (ha : a ≠ 0x40) :
    (s.closeKey w).blockReg w a = s.blockReg w a := by
  have hsys : (s.closeKey w).sysReg w a = s.sysReg w a := by
    unfold State.sysReg
    rw [if_neg ha, if_neg ha]
    rfl
  unfold State.blockReg
  rw [hsys, State.sldReg_closeKey]
  rfl

theorem State.regVal_closeKey_of_none {s : State} {w : Who} {a : Nat} (h : s.regVal w a = none) :
    (s.closeKey w).regVal w a = none := by
  have ha : a ≠ 0x40 := fun ha => by
    have hsome := s.regVal_unlock_isSome w
    rw [← ha, h] at hsome
    exact absurd hsome (by decide)
  rw [← h]
  unfold State.regVal
  rw [State.blockReg_closeKey s w ha, State.wideVal_closeKey, State.wideVal_closeKey]
  rfl

/-! ### SYS_SCRATCH -/

theorem heldInCfg_scratch : heldInCfg 0x60 0xFFFFFFFF := ⟨by decide, by decide, by decide, by decide, by decide⟩

theorem ofNat_and_allOnes (v : Nat) : BitVec.ofNat 32 (v &&& 0xFFFFFFFF) = BitVec.ofNat 32 v :=
  BitVec.eq_of_toNat_eq (by
    rw [BitVec.toNat_ofNat, BitVec.toNat_ofNat, show 0xFFFFFFFF = 2 ^ 32 - 1 from rfl, Nat.and_two_pow_sub_one_eq_mod, Nat.mod_mod])

/-- SYS_SCRATCH takes any value, and does nothing else. -/
theorem State.writeWord_scratch {s : State} {w : Who} {key : Bool} (v : Nat) (hparity : s.sys.parityBad = []) :
    s.writeWord w key 0x60 v = some (s.setCfg 0x60 (BitVec.ofNat 32 v)) := by
  rw [State.writeWord_of_heldInCfg hparity heldInCfg_scratch (by simp [refusedValue, aSld]) (by simp [ignoredValue, aStl])]
  have hadjust : s.adjust 0x60 (v &&& 0xFFFFFFFF) = v &&& 0xFFFFFFFF := by
    simp [State.adjust, aFlt, aSch, wordsAt]
  rw [hadjust, ofNat_and_allOnes]
  simp [State.afterWrite, aFlt, aSch, aStl, wordsAt]

theorem State.regWrite_scratch {s : State} {w : Who} (v : Nat) (hears : s.hears w) :
    s.regWrite w 0x60 v = some ((s.closeKey w).setCfg 0x60 (BitVec.ofNat 32 v)) :=
  (State.regWrite_plain (s.plainAddr_of_lt (by decide) (by decide)) (touchesReserves_of_lt (by decide))).trans
    (State.writeWord_scratch (s := s.closeKey w) v hears.2.2.2)

theorem State.regVal_scratch (s : State) (w : Who) : s.regVal w 0x60 = some (s.cfgAt 0x60).toNat := by
  have hlow : s.wideVal 0x60 = none := by simp [State.wideVal, isRc64, wordsAt, aFlt, aSld, aSch, aPwt]
  have hhigh : s.wideVal (0x60 - 4) = none := by simp [State.wideVal, isRc64, wordsAt, aFlt, aSld, aSch, aPwt]
  have hblock : s.blockReg w 0x60 = none := by simp [State.blockReg, State.sysReg]
  unfold State.regVal
  rw [hlow, hhigh, ite_self, hblock]
  rfl

/-! ### One bit of a word -/

theorem bit_eq_testBit (n i : Nat) : bit n i = n.testBit i := by
  rw [bit, Nat.testBit_eq_decide_div_mod_eq]

/-- A word with bit `i` cleared, and then set where `b` says so. -/
def withBit (n i : Nat) (b : Bool) : Nat := n - (if bit n i then 2 ^ i else 0) + (if b then 2 ^ i else 0)

theorem withBit_eq (n i : Nat) (b : Bool) : withBit n i b = 2 ^ i * (2 * (n / 2 ^ i / 2) + b.toNat) + n % 2 ^ i := by
  have hn := Nat.div_add_mod n (2 ^ i)
  have hq := Nat.div_add_mod (n / 2 ^ i) 2
  have hbit : bit n i = decide (n / 2 ^ i % 2 = 1) := rfl
  rw [withBit, hbit, Nat.mul_add]
  rcases Nat.mod_two_eq_zero_or_one (n / 2 ^ i) with h | h <;> rw [h] at hq <;> rw [← hq, Nat.mul_add] at hn <;>
    cases b <;> simp [h] <;> omega

theorem bit_withBit (n i j : Nat) (b : Bool) : bit (withBit n i b) j = if j = i then b else bit n j := by
  have hr : n % 2 ^ i < 2 ^ i := Nat.mod_lt _ (Nat.two_pow_pos i)
  have hn : bit n j = (2 ^ i * (n / 2 ^ i) + n % 2 ^ i).testBit j := by rw [Nat.div_add_mod, bit_eq_testBit]
  rw [hn, bit_eq_testBit, withBit_eq, Nat.testBit_two_pow_mul_add _ hr, Nat.testBit_two_pow_mul_add _ hr]
  rcases Nat.lt_trichotomy j i with h | h | h
  · rw [if_pos h, if_neg (Nat.ne_of_lt h), if_pos h]
  · subst h
    rw [if_neg (Nat.lt_irrefl _), if_pos rfl, Nat.sub_self, Nat.testBit_zero]
    cases b <;> simp
  · obtain ⟨k, rfl⟩ : ∃ k, j = i + (k + 1) := ⟨j - i - 1, by omega⟩
    rw [if_neg (by omega), if_neg (by omega), if_neg (by omega), Nat.add_sub_cancel_left, Nat.testBit_succ, Nat.testBit_succ]
    congr 1
    cases b
    · simp
    · simp
      omega

/-! ### A word that stands for one bit (R372) -/

theorem State.regWrite_scratchAlias {s : State} {w : Who} {i a : Nat} (v : Nat) (hears : s.hears w) (hi : i < 32)
    (ha : a = 0x1000000 + 0x80 * 0x18 + 4 * i) : s.regWrite w a v =
      some ((s.closeKey w).setCfg 0x60 (BitVec.ofNat 32 (withBit (s.cfgAt 0x60).toNat i (decide (v % 2 = 1))))) := by
  have halias : aliasOf a = some (0x60, i) := by
    have hword : (a - 0x1000000) / 128 * 4 = 0x60 := by omega
    have hbit : (a - 0x1000000) % 128 / 4 = i := by omega
    rw [aliasOf, if_pos (by simp only [Bool.and_eq_true, decide_eq_true_eq]; omega), hword, hbit]
    rfl
  have hdefined : bit (definedBits 0x60) i = true := by
    have hall : ∀ k, k < 32 → bit 0xFFFFFFFF k = true := by decide
    simpa [definedBits] using hall i hi
  have hspace : ¬ 0x4000000 ≤ a := by omega
  have hwrite := State.writeWord_scratch (s := s.closeKey w) (w := w) (key := s.keyOpen w)
    ((s.cfgAt 0x60).toNat - (if bit (s.cfgAt 0x60).toNat i then 2 ^ i else 0) + (if v % 2 = 1 then 2 ^ i else 0)) hears.2.2.2
  unfold State.regWrite
  simp only [halias, State.regVal_scratch, hdefined, hwrite, hspace, touchesReserves_of_lt (a := 0x60) (by decide), Bool.not_true,
    Bool.and_false, Bool.false_and, Bool.false_eq_true, if_false, decide_false, Bool.or_false]
  rw [if_neg (by simp; omega)]
  simp [withBit]

/-! ### Windows (R374, R375) -/

/-- The same word put into each of several registers. -/
def State.setAll (s : State) (l : List Nat) (x : Word) : State := l.foldl (fun t a => t.setCfg a x) s

theorem State.setAll_only (s : State) (l : List Nat) (x : Word) : s.setAll l x = { s with cfg := (s.setAll l x).cfg } := by
  induction l generalizing s with
  | nil => rfl
  | cons a l ih => exact ih (s.setCfg a x)

theorem State.cfgAt_setAll (s : State) (l : List Nat) (x : Word) (b : Nat) :
    (s.setAll l x).cfgAt b = if b ∈ l then x else s.cfgAt b := by
  induction l generalizing s with
  | nil => rfl
  | cons a l ih =>
    refine (ih (s.setCfg a x)).trans ?_
    rw [State.cfgAt_setCfg]
    by_cases hb : b ∈ l
    · rw [if_pos hb, if_pos (List.mem_cons_of_mem a hb)]
    · by_cases hab : a = b
      · rw [if_neg hb, if_pos hab, if_pos (hab ▸ List.mem_cons_self)]
      · rw [if_neg hb, if_neg hab, if_neg (fun h => (List.mem_cons.mp h).elim (fun h => hab h.symm) hb)]

/-- A write of a window whose registers each take the value and do nothing else. -/
theorem State.writeAll_eq_setAll {w : Who} {key : Bool} {v : Nat} {l : List Nat} {x : Word} {s : State}
    (hparity : s.sys.parityBad = [])
    (htakes : ∀ a ∈ l, ∀ t : State, t.sys.parityBad = [] → t.writeWord w key a v = some (t.setCfg a x)) :
    s.writeAll w key v l = some (s.setAll l x) := by
  induction l generalizing s with
  | nil => rfl
  | cons a l ih =>
    rw [State.writeAll, htakes a List.mem_cons_self s hparity]
    exact ih (s := s.setCfg a x) hparity fun b hb => htakes b (List.mem_cons_of_mem a hb)

theorem toNat_ofNat_and (v : Word) (n : Nat) : (BitVec.ofNat 32 (v.toNat &&& n)).toNat = v.toNat &&& n := by
  rw [BitVec.toNat_ofNat]
  exact Nat.mod_eq_of_lt (Nat.lt_of_le_of_lt Nat.and_le_left v.isLt)

/-- A lane's LNK_TH takes its 30 bits, and does nothing else. -/
theorem State.writeWord_lnkTh {s : State} {w : Who} {key : Bool} {l v : Nat} (hparity : s.sys.parityBad = []) (hl : l < 256) :
    s.writeWord w key (aLnk l + 0x18) v = some (s.setCfg (aLnk l + 0x18) (BitVec.ofNat 32 (v &&& 0x3FFFFFFF))) := by
  have hoff : (aLnk l + 0x18) % 0x1000 = 0x18 := by unfold aLnk; omega
  have hlow : 0x600000 ≤ aLnk l + 0x18 := by unfold aLnk; omega
  have hhigh : aLnk l + 0x18 < 0x700000 := by unfold aLnk; omega
  generalize aLnk l + 0x18 = a at *
  have hmask : cfgMask a = some (0x3FFFFFFF, 0) := by
    unfold cfgMask
    rw [if_neg (by omega), if_neg (by omega), if_pos (by simp; omega), if_pos hoff]
  have hne {b : Nat} (hb : b < 0x600000 ∨ 0x700000 ≤ b) : ¬ a = b := by omega
  have hwords {b n : Nat} (hb : b + 4 * n ≤ 0x600000) : wordsAt b n a = false := wordsAt_eq_false_iff.mpr (by omega)
  have hport : ¬ a < 0x500000 := by omega
  have hing : ¬ 0xC00000 ≤ a := by omega
  rw [State.writeWord_of_heldInCfg hparity ⟨hmask, hne (by decide), hne (by decide), hne (by decide), .inr (by unfold aMbx; omega)⟩
    (by simp (disch := decide) [refusedValue, hport, hne, aSld]) (by simp (disch := decide) [ignoredValue, hne, aStl])]
  have hadjust : s.adjust a (v &&& 0x3FFFFFFF) = v &&& 0x3FFFFFFF := by
    unfold State.adjust aFlt aSch
    simp (disch := decide) only [hne, hwords, hport, hing, if_false, decide_false, Bool.and_false, Bool.false_and, Bool.false_eq_true]
  rw [hadjust]
  unfold State.afterWrite aFlt aSch aStl
  simp (disch := decide) only [hne, hwords, hport, if_false, decide_false, Bool.and_false, Bool.false_and, Bool.false_eq_true]

/-- PRT_CFG written with the port left enabled takes its three bits, and does nothing else. -/
theorem State.writeWord_prtCfg {s : State} {w : Who} {key : Bool} {p : Nat} {v : Word} (hparity : s.sys.parityBad = [])
    (hp : p < 64) (henabled : v.getLsbD 2 = true) (hwidth : v.toNat % 4 ≠ 3) :
    s.writeWord w key (aPrt p) v.toNat = some (s.setCfg (aPrt p) (BitVec.ofNat 32 (v.toNat &&& 7))) := by
  have hoff : aPrt p % 0x4000 = 0 := by unfold aPrt; omega
  have hlow : 0x400000 ≤ aPrt p := by unfold aPrt; omega
  have hhigh : aPrt p < 0x500000 := by unfold aPrt; omega
  generalize aPrt p = a at *
  have hmask : cfgMask a = some (7, 0) := by
    unfold cfgMask
    rw [if_neg (by omega), if_pos hhigh]
    dsimp only
    rw [if_pos hoff]
  have hne {b : Nat} (hb : b < 0x400000 ∨ 0x500000 ≤ b) : ¬ a = b := by omega
  have hwords {b n : Nat} (hb : b + 4 * n ≤ 0x400000) : wordsAt b n a = false := wordsAt_eq_false_iff.mpr (by omega)
  have hing : ¬ 0xC00000 ≤ a := by omega
  rw [State.writeWord_of_heldInCfg hparity ⟨hmask, hne (by decide), hne (by decide), hne (by decide), .inr (by unfold aMbx; omega)⟩
    (by simp (disch := decide) [refusedValue, hoff, hwidth, hne, aSld, wordsAt]) (by simp (disch := decide) [ignoredValue, hne, aStl])]
  have hadjust : s.adjust a (v.toNat &&& 7) = v.toNat &&& 7 := by
    unfold State.adjust aFlt aSch
    simp (disch := decide) only [hne, hwords, hoff, hing, if_false, decide_false, Bool.false_and, Bool.false_eq_true]
    rw [if_neg (by simp)]
  rw [hadjust]
  have hbit : (BitVec.ofNat 32 (v.toNat &&& 7)).getLsbD 2 = true := by
    rw [BitVec.getLsbD, toNat_ofNat_and, Nat.testBit_and]
    rw [BitVec.getLsbD] at henabled
    rw [henabled]
    rfl
  unfold State.afterWrite aFlt aSch aStl
  simp (disch := decide) only [hne, hwords, if_false, Bool.false_eq_true]
  rw [State.cfgAt_setCfg, if_pos rfl, hbit]
  simp

theorem State.regWrite_of_reserved {s : State} {w : Who} {a : Nat} (v : Nat) (hplain : s.plainAddr a)
    (hnone : s.regVal w a = none) : s.regWrite w a v = none := by
  obtain ⟨haligned, hspace, halias, hwindow, hcanon⟩ := hplain
  have hwrite := State.writeWord_of_reserved (key := s.keyOpen w) (v := v) (State.regVal_closeKey_of_none hnone)
  unfold State.regWrite
  simp only [haligned, Nat.not_le.mpr hspace, halias, hwindow, hcanon, hwrite, ne_eq, not_true_eq_false, decide_false,
    Bool.or_self, Bool.false_eq_true, if_false]

theorem bit_toNat_ofNat {n j : Nat} (hj : j < 32) : bit (BitVec.ofNat 32 n).toNat j = bit n j := by
  rw [bit_eq_testBit, bit_eq_testBit, BitVec.toNat_ofNat, Nat.testBit_mod_two_pow, decide_eq_true hj, Bool.true_and]

/-- The registers of a broadcast to LNK_TH. -/
def lnkThRegs : List Nat := (List.range 256).map (fun l => aLnk l + 0x18)

theorem mem_lnkThRegs {b : Nat} : b ∈ lnkThRegs ↔ ∃ l, l < 256 ∧ b = aLnk l + 0x18 := by
  simp only [lnkThRegs, List.mem_map, List.mem_range, eq_comm]

/-- The registers of a group window of PRT_CFG with mask `m`. -/
def prtCfgRegs (m : Nat) : List Nat := ((List.range 64).filter (fun p => bit m p)).map aPrt

theorem mem_prtCfgRegs {m b : Nat} : b ∈ prtCfgRegs m ↔ ∃ p, p < 64 ∧ bit m p = true ∧ b = aPrt p := by
  simp only [prtCfgRegs, List.mem_map, List.mem_filter, List.mem_range, and_assoc, eq_comm]

theorem aPrt_mem_prtCfgRegs {m p : Nat} (hp : p < 64) : aPrt p ∈ prtCfgRegs m ↔ bit m p = true := by
  refine mem_prtCfgRegs.trans ⟨fun ⟨q, hq, hbit, heq⟩ => ?_, fun hbit => ⟨p, hp, hbit, rfl⟩⟩
  rwa [show p = q by unfold aPrt at heq; omega]

/-- A broadcast to LNK_TH reaches every lane (R374). -/
theorem State.regWrite_lnkThBroadcast {s : State} {w : Who} (v : Nat) (hears : s.hears w) : s.regWrite w 0x700018 v =
    some ((s.closeKey w).setAll lnkThRegs (BitVec.ofNat 32 (v &&& 0x3FFFFFFF))) := by
  have hwindow : s.window 0x700018 = some (0x600018, lnkThRegs) := by
    unfold State.window
    rw [if_neg (by decide), if_neg (by decide), if_pos (by decide), show 0x700018 % 0x1000 = 0x18 from rfl]
    rfl
  refine (State.regWrite_window (by decide) (by decide) (by decide) hwindow
    (State.regVal_isSome_of_cfgMask (m := (0x3FFFFFFF, 0)) (by decide)) (by decide)).trans ?_
  refine State.writeAll_eq_setAll (s := s.closeKey w) hears.2.2.2 fun a ha t ht => ?_
  obtain ⟨l, hl, rfl⟩ := mem_lnkThRegs.mp ha
  exact State.writeWord_lnkTh ht hl

/-- A group window of PRT_CFG reaches the ports of its mask (R375). -/
theorem State.regWrite_prtCfgGroup {s : State} {w : Who} {g a : Nat} {v : Word} (hears : s.hears w) (hg : g < 8)
    (ha : a = 0x540000 + 0x4000 * g) (henabled : v.getLsbD 2 = true) (hwidth : v.toNat % 4 ≠ 3) : s.regWrite w a v.toNat =
      some ((s.closeKey w).setAll (prtCfgRegs ((s.cfgAt (0x100 + 8 * g)).toNat +
        2 ^ 32 * (s.cfgAt (0x104 + 8 * g)).toNat)) (BitVec.ofNat 32 (v.toNat &&& 7))) := by
  have hwindow : s.window a = some (0x400000, prtCfgRegs ((s.cfgAt (0x100 + 8 * g)).toNat +
      2 ^ 32 * (s.cfgAt (0x104 + 8 * g)).toNat)) := by
    have hoff : a % 0x4000 = 0 := by omega
    have hgroup : (a - 0x540000) / 0x4000 = g := by omega
    unfold State.window
    rw [if_neg (by simp; omega), if_pos (by simp; omega), hgroup, hoff]
    rfl
  have halias : aliasOf a = none := if_neg (by simp; omega)
  refine (State.regWrite_window (by omega) (by omega) halias hwindow
    (State.regVal_isSome_of_cfgMask (m := (7, 0)) (by decide)) (by decide)).trans ?_
  refine State.writeAll_eq_setAll (s := s.closeKey w) hears.2.2.2 fun b hb t ht => ?_
  obtain ⟨p, hp, -, rfl⟩ := mem_prtCfgRegs.mp hb
  exact State.writeWord_prtCfg ht hp henabled hwidth

/-- A window that is written: its registers hold the word, no other changes, and the key closes. -/
theorem State.writeCmd_of_setAll {s : State} {w : Who} {a : Nat} {v x : Word} {l : List Nat} (hears : s.hears w)
    (hwrite : s.regWrite w a v.toNat = some ((s.closeKey w).setAll l x)) :
    ∃ t : State, s.writeCmd w a v = .next t ∧ t.bus = ⟨[], false⟩ ∧ (∀ b, t.cfgAt b = if b ∈ l then x else s.cfgAt b) ∧
      t = { s with cfg := t.cfg, sys := { s.sys with keys := s.keysLeft w }, bus := t.bus } := by
  refine ⟨_, State.writeCmd_of_written hears hwrite, rfl, State.cfgAt_setAll (s.closeKey w) l x, ?_⟩
  rw [State.setAll_only]
  rfl

/-- Settles O18: each write is taken by each register of its window (`State.writeAll_eq_setAll`), or is a bus error. -/
theorem registerSpaceWrites : Obligations.RegisterSpaceWrites := by
  refine ⟨fun s w v hears => ?_, fun s w a v hears hplain hnone => ?_, fun s w a i v hears hi ha => ?_, fun s w v hears => ?_,
    fun s w a g m v hears hg ha hm henabled hwidth => ?_⟩
  · have hwrite := State.regWrite_scratch v.toNat hears
    rw [BitVec.ofNat_toNat, BitVec.setWidth_eq] at hwrite
    exact State.writeCmd_of_written hears hwrite
  · refine (State.writeCmd_of_refused hears.1 (State.regWrite_of_reserved v.toNat hplain hnone)).trans ?_
    rfl
  · refine ⟨_, State.writeCmd_of_written hears (State.regWrite_scratchAlias v.toNat hears hi ha), rfl, fun j hj => ?_, fun b hb => ?_, rfl⟩
    · have hword := (State.cfgAt_setCfg (s := s.closeKey w) 0x60 0x60
        (BitVec.ofNat 32 (withBit (s.cfgAt 0x60).toNat i (decide (v.toNat % 2 = 1))))).trans (if_pos rfl)
      refine (congrArg (fun x : Word => bit x.toNat j) hword).trans ?_
      rw [bit_toNat_ofNat hj, bit_withBit, BitVec.getLsbD, Nat.testBit_zero]
    · exact (State.cfgAt_setCfg (s := s.closeKey w) ..).trans (if_neg hb.symm)
  · obtain ⟨t, hexec, hbus, hcfg, honly⟩ := State.writeCmd_of_setAll hears (State.regWrite_lnkThBroadcast v.toNat hears)
    refine ⟨t, hexec, hbus, fun l hl => ?_, fun b hb => ?_, honly⟩
    · rw [hcfg, if_pos (mem_lnkThRegs.mpr ⟨l, hl, rfl⟩), toNat_ofNat_and]
    · rw [hcfg, if_neg fun h => ?_]
      obtain ⟨l, hl, rfl⟩ := mem_lnkThRegs.mp h
      exact hb l hl rfl
  · obtain ⟨t, hexec, hbus, hcfg, honly⟩ :=
      State.writeCmd_of_setAll hears (State.regWrite_prtCfgGroup hears hg ha henabled hwidth)
    rw [hm]
    refine ⟨t, hexec, hbus, fun p hp => ?_, fun b hb => ?_, honly⟩
    · rw [hcfg, apply_ite BitVec.toNat, toNat_ofNat_and]
      exact if_congr (aPrt_mem_prtCfgRegs hp) rfl rfl
    · rw [hcfg, if_neg fun h => ?_]
      obtain ⟨p, hp, -, rfl⟩ := mem_prtCfgRegs.mp h
      exact hb p hp rfl

end Sys2Proof.Machine

/-! The SMBus target (13 R353, Table 13.5), with SYS_SCRATCH as the register at its pointer. -/

namespace Sys2Proof.Machine

/-! ### An access to SYS_SCRATCH -/

/-- A read of one register that stands: its value, and the state after it. -/
theorem State.access_plain {s : State} {w : Who} {a v : Nat} (hears : s.hears w) (hplain : s.plainAddr a)
    (hval : s.regVal w a = some v) : s.access w a = (s.afterRead a, some v) := by
  obtain ⟨-, hclass, hfirmware, hparity⟩ := hears
  obtain ⟨haligned, hspace, halias, hwindow, hcanon⟩ := hplain
  have honly : s.smbusOnly a = true := by simp only [State.smbusOnly, hclass, hfirmware, Bool.false_eq_true, if_false]
  have hcheck : s.parityCheck a = s := by simp [State.parityCheck, hparity]
  have hread : s.regRead w a = some (v, s.afterRead a) := by
    unfold State.regRead State.readWord
    simp only [haligned, Nat.not_le.mpr hspace, halias, hwindow, hcanon, hval, hcheck, ne_eq, not_true_eq_false, decide_false,
      Bool.or_self, Bool.false_eq_true, if_false]
  unfold State.access
  rw [if_pos honly, hread]

theorem State.access_scratch {s : State} {w : Who} (hears : s.hears w) :
    s.access w 0x60 = (s, some (s.cfgAt 0x60).toNat) := by
  have hafter : s.afterRead 0x60 = s := by
    simp [State.afterRead, aIrc, aSch, aFlt, isRc, isRc64, wordsAt, aMbx, aSld, State.wideVal, aPwt]
  rw [State.access_plain hears (s.plainAddr_of_lt (by decide) (by decide)) (s.regVal_scratch w), hafter]

theorem State.store_scratch {s : State} {w : Who} (v : Word) (hears : s.hears w) :
    s.store w 0x60 v.toNat = ((s.closeKey w).setCfg 0x60 v, true) := by
  rw [State.store_of_written hears (State.regWrite_scratch v.toNat hears), BitVec.ofNat_toNat, BitVec.setWidth_eq]

/-! ### The target -/

theorem State.smbusCmd_of_pec {s : State} (t : State) (h : s.reachable .smbus = true) : s.smbusCmd true t = .next t :=
  due_of_true h

theorem State.smbusCmd_of_bad_pec {s : State} (t : State) (h : s.reachable .smbus = true) :
    s.smbusCmd false t = .next { s with smb := { s.smb with pecErr := true } } :=
  due_of_true h

theorem State.smbusStore_scratch {s : State} (v : Word) (hears : s.hears .smbus) (hptr : s.smb.ptr = 0x60) :
    s.smbusStore [v] = { s.setCfg 0x60 v with
      sys := { s.sys with keys := s.keysLeft .smbus }, smb := { s.smb with ptr := 0x64, busErr := false } } := by
  have hstore : s.store .smbus s.smb.ptr.toNat v.toNat = ((s.closeKey .smbus).setCfg 0x60 v, true) := by
    rw [hptr]
    exact State.store_scratch v hears
  have hnext : s.smb.ptr + 4 = 0x64 := by rw [hptr]; decide
  unfold State.smbusStore
  rw [hstore, ← hnext]
  rfl

theorem State.smbusFetch_scratch {s : State} (hears : s.hears .smbus) (hptr : s.smb.ptr = 0x60) : State.smbusFetch 1 s =
    ({ s with smb := { s.smb with ptr := 0x64, busErr := false } }, toLe 4 (s.cfgAt 0x60).toNat) := by
  have haccess : s.access .smbus s.smb.ptr.toNat = (s, some (s.cfgAt 0x60).toNat) := by
    rw [hptr]
    exact State.access_scratch hears
  have hnext : s.smb.ptr + 4 = 0x64 := by rw [hptr]; decide
  unfold State.smbusFetch
  rw [haccess, ← hnext]
  exact congrArg (Prod.mk _) (List.append_nil _)

/-- Settles O19: with a right PEC the target acts (`State.smbusCmd_of_pec`), with another it only notes it. -/
theorem smbusTransactions : Obligations.SmbusTransactions := by
  refine ⟨fun s v h => ⟨State.smbusCmd_of_pec _ h, State.smbusCmd_of_pec _ h⟩, fun s b0 b1 b2 b3 hears hptr => ?_,
    fun s hears hptr hlen => ?_, fun s v h => ⟨?_, State.smbusCmd_of_pec _ h⟩, fun s h => State.smbusCmd_of_pec _ h,
    fun s wr data n h => ⟨State.smbusCmd_of_bad_pec _ h, State.smbusCmd_of_bad_pec _ h, State.smbusCmd_of_bad_pec _ h,
      State.smbusCmd_of_bad_pec _ h, State.smbusCmd_of_bad_pec _ h⟩⟩
  · refine (State.smbusCmd_of_pec _ hears.1).trans (congrArg _ ?_)
    rw [if_pos (by simp)]
    exact State.smbusStore_scratch (BitVec.ofNat 32 (leNat [b0, b1, b2, b3])) hears hptr
  · have hfetch : State.smbusFetch (s.smb.rdlen / 4) s =
        ({ s with smb := { s.smb with ptr := 0x64, busErr := false } }, toLe 4 (s.cfgAt 0x60).toNat) := by
      rw [hlen]
      exact State.smbusFetch_scratch hears hptr
    refine (State.smbusCmd_of_pec _ hears.1).trans (congrArg _ ?_)
    rw [hfetch]
  · refine (State.smbusCmd_of_pec _ h).trans (congrArg _ (if_congr ?_ rfl rfl))
    simp only [Bool.and_eq_true, decide_eq_true_eq, and_assoc]

end Sys2Proof.Machine

/-! FLT_CMD, the timers of the fault collector and FAULT_N (14 R381 to R386; 13 R345). -/

namespace Sys2Proof.Machine

/-! ### FLT_CMD (14 R382) -/

theorem heldInCfg_fltCmd : heldInCfg (aFlt + 0x10) 0xC003FFFF := ⟨by decide, by decide, by decide, by decide, by decide⟩

/-- FLT_CMD takes OP and SLOT, and acts on them. -/
theorem State.regWrite_fltCmd {s : State} {w : Who} {v : Nat} (hears : s.hears w) (hfields : v &&& 0xC003FFFF = v)
    (hv : v < 2 ^ 32) :
    s.regWrite w (aFlt + 0x10) v = some (((s.closeKey w).setCfg (aFlt + 0x10) (BitVec.ofNat 32 v)).fltCmd v) := by
  rw [State.regWrite_plain (s.plainAddr_of_lt (by decide) (by decide)) (touchesReserves_of_lt (by decide)),
    State.writeWord_of_heldInCfg (s := s.closeKey w) hears.2.2.2 heldInCfg_fltCmd (by simp [refusedValue, aFlt, aSld])
      (by simp [ignoredValue, aFlt, aStl]), hfields]
  have hadjust : (s.closeKey w).adjust (aFlt + 0x10) v = v := by simp [State.adjust, aFlt, aSch, wordsAt]
  rw [hadjust, State.afterWrite, if_neg (by decide), if_pos rfl, State.cfgAt_setCfg, if_pos rfl, BitVec.toNat_ofNat,
    Nat.mod_eq_of_lt hv]

/-- A word of FLT_CMD: OP above, SLOT below. -/
theorem fltCmd_fields {op slot : Nat} (hop : op < 4) (hslot : slot < 2 ^ 18) :
    (2 ^ 30 * op + slot) &&& 0xC003FFFF = 2 ^ 30 * op + slot ∧ bits (2 ^ 30 * op + slot) 31 30 = op ∧
    bits (2 ^ 30 * op + slot) 17 0 = slot := by
  refine ⟨?_, by simp [bits]; omega, by simp [bits]; omega⟩
  have hlow : slot &&& 0xC003FFFF = slot := by
    conv_lhs => rw [← Nat.mod_eq_of_lt hslot, ← Nat.and_two_pow_sub_one_eq_mod, Nat.and_assoc]
    rw [show (2 ^ 18 - 1) &&& 0xC003FFFF = 2 ^ 18 - 1 from by decide, Nat.and_two_pow_sub_one_eq_mod, Nat.mod_eq_of_lt hslot]
  have hhigh : 2 ^ 30 * op &&& 0xC003FFFF = 2 ^ 30 * op := by interval_cases op <;> decide
  rw [Nat.two_pow_add_eq_or_of_lt (by omega), Nat.and_or_distrib_right, hlow, hhigh]

/-- A command that puts another record in its slot: the others stay. -/
theorem State.writeCmd_fltCmd {s : State} {w : Who} {op : Nat} {slot : BitVec 18} {r : Rec} (hears : s.hears w) (hop : op < 4)
    (hacts : ∀ u : State, u.flt = s.flt → u.fltCmd (2 ^ 30 * op + slot.toNat) =
      { u with flt := { u.flt with recs := tset u.flt.recs slot.toNat r } }) :
    ∃ t : State, s.writeCmd w (aFlt + 0x10) (BitVec.ofNat 32 (2 ^ 30 * op + slot.toNat)) = .next t ∧
      tfind t.flt.recs slot.toNat = some r ∧ (∀ j, j ≠ slot.toNat → tfind t.flt.recs j = tfind s.flt.recs j) ∧
      t = { s with cfg := t.cfg, sys := { s.sys with keys := s.keysLeft w }, flt := { s.flt with recs := t.flt.recs },
                   bus := ⟨[], false⟩ } := by
  have hslot := slot.isLt
  have hv : 2 ^ 30 * op + slot.toNat < 2 ^ 32 := by omega
  have hword : (BitVec.ofNat 32 (2 ^ 30 * op + slot.toNat)).toNat = 2 ^ 30 * op + slot.toNat := by
    rw [BitVec.toNat_ofNat, Nat.mod_eq_of_lt hv]
  have hwrite := State.regWrite_fltCmd hears (fltCmd_fields hop hslot).1 hv
  rw [hacts ((s.closeKey w).setCfg (aFlt + 0x10) (BitVec.ofNat 32 (2 ^ 30 * op + slot.toNat))) rfl] at hwrite
  refine ⟨_, State.writeCmd_of_written hears (by rw [hword]; exact hwrite), tfind_tset.trans (if_pos rfl),
    fun j hj => tfind_tset.trans (if_neg hj.symm), rfl⟩

theorem State.fltCmd_ack {u : State} {slot : Nat} {r : Rec} (hslot : slot < 2 ^ 18) (hr : tfind u.flt.recs slot = some r)
    (hopen : r.st = 0) (hesc : r.escalated = false) : u.fltCmd (2 ^ 30 * 1 + slot) =
      { u with flt := { u.flt with recs := tset u.flt.recs slot { r with st := 1 } } } := by
  obtain ⟨-, hop, hat⟩ := fltCmd_fields (op := 1) (by decide) hslot
  unfold State.fltCmd
  dsimp only
  rw [hop, hat, hr]
  dsimp only
  rw [if_pos rfl, if_pos (by rw [hopen, hesc]; rfl)]

theorem State.fltCmd_close {u : State} {slot : Nat} {r : Rec} (hslot : slot < 2 ^ 18) (hr : tfind u.flt.recs slot = some r)
    (hcls : r.cls ≠ 3) (hst : r.st ≠ 2) : u.fltCmd (2 ^ 30 * 2 + slot) =
      { u with flt := { u.flt with recs := tset u.flt.recs slot { r with st := 2 } } } := by
  obtain ⟨-, hop, hat⟩ := fltCmd_fields (op := 2) (by decide) hslot
  unfold State.fltCmd
  dsimp only
  rw [hop, hat, hr]
  dsimp only
  rw [if_neg (by decide), if_pos rfl, if_pos (by simp [hcls, hst])]

/-! ### Timers (14 R381, R383) -/

/-- A record after RECORD_AUTO_CLOSE at count `now`. -/
def Rec.autoClosed (r : Rec) (now : Nat) : Rec :=
  if r.cls = 0 && r.st != 2 && decide (r.first + 1000000000 ≤ now) then { r with st := 2 } else r

theorem Rec.autoClosed_eq (r : Rec) (now : Nat) :
    r.autoClosed now = { r with st := if r.cls = 0 ∧ r.first + 1000000000 ≤ now then 2 else r.st } := by
  unfold Rec.autoClosed
  by_cases hst : r.st = 2
  · rw [if_neg (by simp [hst]), hst, ite_self, ← hst]
  · by_cases hdue : r.cls = 0 ∧ r.first + 1000000000 ≤ now
    · rw [if_pos hdue, if_pos (by simp [hst, hdue])]
    · rw [if_neg hdue, if_neg fun h => hdue ?_]
      simp only [Bool.and_eq_true, decide_eq_true_eq] at h
      exact ⟨h.1.1, h.2⟩

/-- The state in which a deferred timer has run out for the one record there is: it is escalated, its stop to be begun. -/
def State.timedOut (s : State) (k : Nat) (r : Rec) : State :=
  { s with flt := { s.flt with recs := [(k, { r with escalated := true, timed := true })] } }

theorem State.deferExpiry_of_one {s : State} {k : Nat} {r : Rec} (hrecs : s.flt.recs = [(k, r)]) (htimers : s.flt.timers = [])
    (hexp : s.expires r = true) : s.deferExpiry = (s.timedOut k r).beginStop r.dindex false true := by
  have hout : s.timesOut r = true := ((Bool.and_eq_true ..).mp hexp).1
  have hstate : s.timedOut k r = { s with flt := { s.flt with
      recs := [(k, { r with escalated := true, timed := true })], timers := [] } } := by
    rw [← htimers]
    rfl
  unfold State.deferExpiry
  rw [hrecs, htimers]
  simp only [List.map_cons, List.map_nil, List.filter_cons, List.filter_nil, hexp, hout, if_true, List.foldl_cons, List.foldl_nil,
    tmap, Bool.or_true, hstate]

/-- The notice of a stop that begins here (14 R392). -/
def State.stopNotice (s : State) (x : Nat) (teardown escalated : Bool) : Notice :=
  { ctx := BitVec.ofNat 8 x, gen := BitVec.ofNat 16 (s.ctx x).gen, source := BitVec.ofNat 15 s.addr, d := BitVec.ofNat 64 s.now,
    lost := 0, flags := BitVec.ofNat 2 (b2n (!teardown) + 2 * b2n escalated) }

/-- The first stop of an open context. -/
theorem State.noteStop_of_open {s : State} {x : Nat} (d : Nat) (teardown : Bool) (hopen : (s.ctx x).st = .opened)
    (hstop : (s.ctx x).stopD = none) : s.noteStop x d teardown = (s.setCtx x { s.ctx x with
      st := .draining, stopD := some d, teardown := (s.ctx x).teardown || teardown }, true) := by
  unfold State.noteStop
  simp [hopen, hstop]

/-- An open context whose stop is asked for drains from now on, and the stop is told (R391, R392). -/
theorem State.beginStop_of_open {s : State} {x : Nat} (teardown escalated : Bool) (hopen : (s.ctx x).st = .opened)
    (hstop : (s.ctx x).stopD = none) : ∃ u : State, u = s.setCtx x { s.ctx x with
        st := .draining, stopD := some s.now, teardown := (s.ctx x).teardown || teardown } ∧
      s.beginStop x teardown escalated = u.flood none (.ctxStop (u.stopNotice x teardown escalated)) := by
  refine ⟨_, rfl, ?_⟩
  rw [State.beginStop, State.noteStop_of_open _ _ hopen hstop]
  rfl

/-! ### FAULT_N (14 R385, R386) -/

/-- FLT_PIN at the end of a pulse: AUTO_HOLD sets HOLD. -/
def State.autoHeld (s : State) : State :=
  if bit (s.cfgAt (aFlt + 4)).toNat 1 then s.setCfg (aFlt + 4) (s.cfgAt (aFlt + 4) ||| 1) else s

theorem State.autoHeld_only (s : State) : s.autoHeld = { s with cfg := s.autoHeld.cfg } := by
  unfold State.autoHeld
  split <;> rfl

theorem State.cfgAt_autoHeld_of_ne (s : State) {a : Nat} (ha : a ≠ aFlt + 4) : s.autoHeld.cfgAt a = s.cfgAt a := by
  unfold State.autoHeld
  split
  · exact (State.cfgAt_setCfg ..).trans (if_neg ha.symm)
  · rfl

theorem State.hold_autoHeld (s : State) : bit (s.autoHeld.cfgAt (aFlt + 4)).toNat 0 =
    (bit (s.cfgAt (aFlt + 4)).toNat 0 || bit (s.cfgAt (aFlt + 4)).toNat 1) := by
  unfold State.autoHeld
  split
  · next h =>
    rw [h, State.cfgAt_setCfg, if_pos rfl, Bool.or_true, bit_eq_testBit, BitVec.toNat_or, Nat.testBit_or]
    exact Bool.or_true _
  · next h => rw [Bool.eq_false_iff.mpr h, Bool.or_false]

/-- The pins once a pulse has ended. -/
def State.pulseEnded (s : State) : State :=
  { s.autoHeld with pins := { s.autoHeld.pins with
      pulseAt := none, gapAt := some s.clk, faultLow := s.autoHeld.pinHold || s.autoHeld.sys.noFirmware } }

theorem exec_faultNPulseEnd {s : State} {n : Nat} (hon : s.on = true) (hpulse : s.pins.pulseAt = some n)
    (hdue : n + 2000 ≤ s.clk) : exec .faultNPulseEnd s = .next s.pulseEnded := by
  show execFaultNPulseEnd s = _
  unfold execFaultNPulseEnd
  rw [hpulse]
  exact due_of_true (by rw [hon, decide_eq_true hdue]; rfl)

theorem exec_faultNGapEnd {s : State} {n : Nat} (hon : s.on = true) (hgap : s.pins.gapAt = some n)
    (hdue : n + 2000 ≤ s.clk) : exec .faultNGapEnd s = .next { s with pins := if s.pins.pulseDue
      then { s.pins with gapAt := none, pulseDue := false, pulseAt := some s.clk, faultLow := true }
      else { s.pins with gapAt := none } } := by
  show execFaultNGapEnd s = _
  unfold execFaultNGapEnd
  rw [hgap]
  refine (due_of_true (by rw [hon, decide_eq_true hdue]; rfl)).trans (congrArg _ ?_)
  split <;> rfl

/-- Settles O14: FLT_CMD acts as `State.fltCmd` says; the timers are `Rec.autoClosed` and `State.deferExpiry_of_one`. -/
theorem faultCollectorActs : Obligations.FaultCollectorActs := by
  refine ⟨fun s w slot r hears hr hopen hesc => ?_, fun s w slot r hears hr hcls hst => ?_, fun s hon => ?_,
    fun s k r hon hrecs htimers hexp hstop => ?_, fun s n hon hpulse hdue => ?_, fun s n hon hgap hdue => ?_, fun s b hbrass => ?_⟩
  · exact State.writeCmd_fltCmd (op := 1) hears (by decide) fun u hu =>
      State.fltCmd_ack slot.isLt (by rw [hu]; exact hr) hopen hesc
  · exact State.writeCmd_fltCmd (op := 2) hears (by decide) fun u hu =>
      State.fltCmd_close slot.isLt (by rw [hu]; exact hr) hcls hst
  · refine ⟨{ s with flt := { s.flt with recs := tmap s.flt.recs (fun _ r => r.autoClosed s.now) } }, due_of_true hon,
      fun k r hr => ?_, rfl⟩
    rw [← Rec.autoClosed_eq]
    have hfind := tfind_tmap s.flt.recs (fun _ r => r.autoClosed s.now) k
    rwa [hr] at hfind
  · have hopen : (s.ctx r.dindex).st = .opened := eq_of_beq ((Bool.and_eq_true ..).mp hexp).2
    obtain ⟨u, hu, hbegin⟩ := State.beginStop_of_open (s := s.timedOut k r) (x := r.dindex) false true hopen hstop
    have hexec : exec .deferredTimerExpiry s = .next (u.flood none (.ctxStop (u.stopNotice r.dindex false true))) :=
      (due_of_true hon).trans (congrArg _ ((State.deferExpiry_of_one hrecs htimers hexp).trans hbegin))
    have hctx : u.ctx r.dindex = { s.ctx r.dindex with
        st := .draining, stopD := some s.now, teardown := (s.ctx r.dindex).teardown || false } := by
      rw [hu]
      exact State.ctx_setCtx_self ..
    have hports : u.floodPorts none = s.floodPorts none := by rw [hu]; rfl
    have honly := State.flood_only u none (.ctxStop (u.stopNotice r.dindex false true))
    have hsent := fun q => State.mem_ctlQ_flood (s := u) (o := none) (q := q)
      (m := .ctxStop (u.stopNotice r.dindex false true))
    have hnow : (u.stopNotice r.dindex false true).d = BitVec.ofNat 64 s.now := by rw [hu]; rfl
    have hctxs : (u.flood none (.ctxStop (u.stopNotice r.dindex false true))).ctx r.dindex = u.ctx r.dindex := by
      rw [honly]
      rfl
    refine ⟨_, hexec, by rw [honly, hu]; rfl, by rw [hctxs, hctx], by rw [hctxs, hctx],
      fun q hq => ⟨_, hsent q (hports ▸ hq), hnow⟩, ?_⟩
    rw [honly, hu]
    rfl
  · have hclass : s.sys.classX = false := by
      have := ((Bool.and_eq_true ..).mp hon).1
      rwa [Bool.not_eq_true'] at this
    have honly := s.autoHeld_only
    have hsys : s.autoHeld.sys = s.sys := by rw [honly]
    refine ⟨_, exec_faultNPulseEnd hon hpulse hdue, rfl, rfl, ?_, fun a ha => s.cfgAt_autoHeld_of_ne ha, ?_⟩
    · show (bit (s.autoHeld.cfgAt (aFlt + 4)).toNat 0 || s.autoHeld.sys.classX || s.autoHeld.sys.noFirmware ||
        s.autoHeld.sys.noFirmware) = _
      rw [s.hold_autoHeld, hsys, hclass, Bool.or_false, Bool.or_assoc, Bool.or_self]
    · rw [State.pulseEnded, honly]
  · exact exec_faultNGapEnd hon hgap hdue
  · exact ⟨Config.pick s.freeCtr % 4, Nat.mod_lt _ (by decide), due_of_true hbrass⟩

end Sys2Proof.Machine

/-! The JTAG TAP (16 R448) and the parity scan (13 R373). -/

namespace Sys2Proof.Machine

theorem due_of_false {c : Bool} {s t : State} (h : c = false) : due c s t = .next s := by
  rw [due, if_neg (by rw [h]; decide)]

/-! ### The parity scan -/

/-- The VC enables of a port are a configuration register of it. -/
theorem aPrt_vcEn_spec {p a : Nat} (hp : p < 64) (ha : a = aPrt p + 8) :
    canon a = a ∧ isConfig a = true ∧ (a - 0x400000) / 0x4000 = p ∧ 0x400000 ≤ a ∧ a < 0x500000 := by
  unfold aPrt at ha
  have hoff : a % 0x4000 = 8 := by omega
  have hmask : cfgMask a = some (0x7FFC, 0) := by
    unfold cfgMask
    rw [if_neg (by omega), if_pos (by omega)]
    dsimp only
    rw [if_neg (by omega), if_pos hoff]
  refine ⟨?_, ?_, by omega, by omega, by omega⟩
  · simp only [canon, Bool.and_eq_true, decide_eq_true_eq]
    rw [if_neg (by omega), if_neg (by omega), if_neg (by omega)]
  · have hscratch : (a != 0x60) = true := bne_iff_ne.mpr (by omega)
    have hmbx : (a != aMbx + 0x10000) = true := bne_iff_ne.mpr (by unfold aMbx; omega)
    rw [isConfig, hmask, hscratch, hmbx]
    exact Bool.or_true _

/-- A mismatch in a register of a port fences the port. -/
theorem State.parityFault_port {s : State} {a : Nat} (hlow : 0x400000 ≤ a) (hhigh : a < 0x500000) : s.parityFault a =
    State.fencePort { s with sys := { s.sys with parityAddr := BitVec.ofNat 32 a } } ((a - 0x400000) / 0x4000) 0x0702 a := by
  unfold State.parityFault
  dsimp only
  rw [if_neg (by simp; omega), if_neg (by simp; omega), if_neg (by simp; omega), if_pos (by simp; omega)]

theorem exec_configParityScan_of_bad {s : State} {a : BitVec 26} (hon : s.on = true) (hclean : s.sys.parityBad = [])
    (hcanon : canon a.toNat = a.toNat) (hconfig : isConfig a.toNat = true) : exec (.configParityScan (some a)) s =
      .next (State.parityFault { s with sys := { s.sys with parityBad := [a.toNat] } } a.toNat) := by
  refine (due_of_true hon).trans (congrArg _ ?_)
  dsimp only
  rw [hcanon, hconfig, hclean]
  rfl

theorem exec_configParityScan_none {s : State} (hon : s.on = true) (hclean : s.sys.parityBad = []) :
    exec (.configParityScan none) s = .next s := by
  refine (due_of_true hon).trans (congrArg _ ?_)
  exact congrArg (List.foldl (fun s a => s.parityFault a) s) hclean

/-! ### The TAP -/

theorem exec_extest {s : State} (pins shift : List Bool) (hpower : s.pins.pwrgd = true) :
    exec (.extest pins shift) s = .next (if s.pins.resetN then s
      else { s with pins := { s.pins with ir := .extest, tdo := pins, driven := shift } }) := by
  cases hreset : s.pins.resetN
  · exact due_of_true (by rw [hpower, hreset]; rfl)
  · exact due_of_false (by rw [hpower, hreset]; rfl)

/-- IDCODE from bit 0 on. -/
theorem getD_idcodeBits {i : Nat} (hi : i < 32) : ((List.range 32).map (fun i => idcodeWord.getLsbD i)).getD i false =
    bit (2 ^ 28 * 1 + 2 ^ 12 * 0x0F12 + 2 * Config.jep106.toNat + 1) i := by
  rw [List.getD_eq_getElem _ _ (by simp [hi]), List.getElem_map, List.getElem_range, idcodeWord, BitVec.getLsbD, bit_eq_testBit,
    BitVec.toNat_ofNat, Nat.testBit_mod_two_pow, decide_eq_true hi, Bool.true_and]

/-- Settles O20: each instruction of the TAP has its effect with power alone, and a mismatch is `State.parityFault_port`. -/
theorem jtagAndParityScan : Obligations.JtagAndParityScan := by
  refine ⟨fun s pins shift hpower => ⟨due_of_true hpower, ?_, due_of_true hpower, exec_extest pins shift hpower⟩,
    fun s pins shift hpower => ⟨due_of_false hpower, due_of_false hpower, due_of_false hpower, ?_⟩,
    fun s hon hclean => exec_configParityScan_none hon hclean, fun s p a hon hclean hp ha => ?_⟩
  · refine ⟨{ s with pins := { s.pins with ir := .idcode, tdo := (List.range 32).map (fun i => idcodeWord.getLsbD i) } },
      due_of_true hpower, ?_, fun i hi => getD_idcodeBits hi, rfl⟩
    rw [List.length_map, List.length_range]
  · exact due_of_false (by rw [hpower]; rfl)
  · obtain ⟨hcanon, hconfig, hport, hlow, hhigh⟩ := aPrt_vcEn_spec hp ha
    rw [exec_configParityScan_of_bad hon hclean hcanon hconfig, State.parityFault_port hlow hhigh, hport]

end Sys2Proof.Machine

/-! MGMT frames that Brass takes (13 R352, R355, R362, R363): RING_WRITE, BULK_WRITE, REG_READ and REG_WRITE. -/

namespace Sys2Proof.Machine

/-! ### A frame leaves Solder -/

/-- One copy of a cell done frees it, unless others are owed. -/
theorem State.tfind_dropCopy {s : State} {k x : Nat} (hlast : ∀ c, tfind s.sol.cells x = some c → c.copies ≤ 1) :
    tfind (s.dropCopy k).sol.cells x = if k = x then none else tfind s.sol.cells x := by
  unfold State.dropCopy
  split
  · next h =>
    split
    · next hx => rw [← hx, h]
    · rfl
  · next c hc =>
    by_cases hx : k = x
    · rw [if_neg (Nat.not_lt.mpr (hlast c (hx ▸ hc))), if_pos hx]
      dsimp only
      split <;> exact tfind_tdel.trans (if_pos hx)
    · rw [if_neg hx]
      split
      · exact tfind_tset.trans (if_neg hx)
      · dsimp only
        split <;> exact tfind_tdel.trans (if_neg hx)

theorem State.tfind_foldl_dropCopy {x : Nat} {key : Nat → Nat} {l : List Nat} {s : State}
    (hlast : ∀ c, tfind s.sol.cells x = some c → c.copies ≤ 1) (h : tfind s.sol.cells x = none ∨ ∃ k ∈ l, key k = x) :
    tfind (l.foldl (fun s k => s.dropCopy (key k)) s).sol.cells x = none := by
  induction l generalizing s with
  | nil => simpa using h
  | cons k l ih =>
    have hstep := State.tfind_dropCopy (k := key k) hlast
    by_cases hx : key k = x
    · rw [if_pos hx] at hstep
      exact ih (fun c hc => by rw [hstep] at hc; cases hc) (.inl hstep)
    · rw [if_neg hx] at hstep
      refine ih (fun c hc => hlast c (hstep ▸ hc)) (h.imp (fun hnone => hstep.trans hnone) fun ⟨j, hj, hjx⟩ => ?_)
      exact ⟨j, (List.mem_cons.mp hj).resolve_left fun hjk => hx (hjk ▸ hjx), hjx⟩

/-- The cells of a frame whose last copy is done are free. -/
theorem State.tfind_dropFrom {s : State} {id i : Nat} (hi : i < 64)
    (hlast : ∀ c, tfind s.sol.cells (64 * id + i) = some c → c.copies ≤ 1) :
    tfind (s.dropFrom id 0).sol.cells (64 * id + i) = none := by
  unfold State.dropFrom
  exact State.tfind_foldl_dropCopy (key := fun k => 64 * id + 0 + k) hlast (.inr ⟨i, List.mem_range.mpr hi, by simp⟩)

theorem State.queues_dropFrom (s : State) (id k : Nat) : (s.dropFrom id k).sol.queues = s.sol.queues :=
  foldl_apply_eq (fun t : State => t.sol.queues) fun t i => by rw [State.dropCopy_only]

theorem State.takeMgmt_of_next {s : State} {k : Nat} {f : Mgmt} {q : QEnt} (hq : s.sol.queues.find? (mgmtIs k f) = some q)
    (hnext : s.isNext q = true) : s.takeMgmt k f = some ((s.takeEnt q).dropFrom q.id 0) := by
  rw [State.takeMgmt, hq]
  exact if_pos hnext

theorem State.takeMgmt_of_waiting {s : State} {k : Nat} {f : Mgmt} {q : QEnt} (hq : s.sol.queues.find? (mgmtIs k f) = some q)
    (hnext : s.isNext q = false) : s.takeMgmt k f = none := by
  rw [State.takeMgmt, hq]
  exact if_neg (by rw [hnext]; decide)

/-- A frame that is taken changes ports and Solder alone. -/
theorem State.takeMgmt_only {s v : State} {k : Nat} {f : Mgmt} (h : s.takeMgmt k f = some v) :
    v = { s with ports := v.ports, sol := v.sol } := by
  unfold State.takeMgmt at h
  split at h
  · cases h
    rfl
  · next q _ =>
    split at h
    · obtain rfl := Option.some.inj h
      have honly := (s.takeEnt q).dropFrom_only q.id 0
      generalize (s.takeEnt q).dropFrom q.id 0 = u at *
      rw [honly]
      rfl
    · cases h

theorem State.queues_takeEnt {s : State} {q : QEnt} (houts : q.outs = [79]) :
    (s.takeEnt q).sol.queues = s.sol.queues.filter (fun x => x != q) := by
  unfold State.takeEnt unitOut
  rw [houts]
  rfl

theorem State.brassFrame_of_out {s : State} {k : Nat} {f : Mgmt} (act : State → State) (hout : s.sys.outOfService = true) :
    s.brassFrame k f act = .next s := by
  unfold State.brassFrame
  split
  · rfl
  · exact due_of_false (by rw [hout, Bool.not_true, Bool.and_false])

theorem State.brassFrame_of_waiting {s : State} {k : Nat} {f : Mgmt} {q : QEnt} (act : State → State)
    (hnext : s.isNext q = false) (hq : s.sol.queues.find? (mgmtIs k f) = some q) : s.brassFrame k f act = .next s := by
  rw [State.brassFrame, State.takeMgmt_of_waiting hq hnext]

/-! ### RING_WRITE (R352, R355, R356, R362) -/

theorem State.opened_of_ringFault_none {s : State} {f : Mgmt} (h : s.ringFault f = none) : (s.mbx f.mbx.toNat).opened = true := by
  by_contra hclosed
  rw [Bool.not_eq_true] at hclosed
  unfold State.ringFault at h
  simp only [hclosed, Bool.not_false, if_true] at h
  split at h
  · cases h
  · split at h <;> cases h

/-- A mailbox after the entries of a RING_WRITE without a fault. -/
def Mbx.rung (b : Mbx) (f : Mgmt) : Mbx :=
  { b with
    rq := Mem.splice b.rq f.offset.toNat f.payload, owner := some (b.owner.getD (f.src, f.host)),
    rqTail := if f.arg.getLsbD 31 then f.arg.toNat % 65536 else b.rqTail }

/-- The state in which the mailbox has taken them, bound to the requester where nobody was. -/
def State.rung (s : State) (f : Mgmt) : State :=
  (if (s.mbx f.mbx.toNat).owner.isNone then s.rebound f.mbx.toNat else s).setMbx f.mbx.toNat ((s.mbx f.mbx.toNat).rung f)

theorem State.ringWrite_of_good {s : State} {f : Mgmt} (hgood : s.ringFault f = none)
    (hdoor : f.arg.getLsbD 31 = true →
      ringUsed (f.arg.toNat % 65536) (s.mbx f.mbx.toNat).rqHead ≤ (s.mbx f.mbx.toNat).rqN ∧
      ringUsed (s.mbx f.mbx.toNat).rqTail (s.mbx f.mbx.toNat).rqHead ≤
        ringUsed (f.arg.toNat % 65536) (s.mbx f.mbx.toNat).rqHead) : s.ringWrite f = s.rung f := by
  have hopen := State.opened_of_ringFault_none hgood
  have hstored : (s.ringStore f).mbx f.mbx.toNat = { s.mbx f.mbx.toNat with
      rq := Mem.splice (s.mbx f.mbx.toNat).rq f.offset.toNat f.payload,
      owner := some ((s.mbx f.mbx.toNat).owner.getD (f.src, f.host)) } := State.mbx_setMbx_self ..
  unfold State.ringWrite
  rw [hgood]
  dsimp only
  cases hbell : f.arg.getLsbD 31
  · rw [if_neg (by decide), State.rung, Mbx.rung, hbell]
    rfl
  · obtain ⟨hfits, hforward⟩ := hdoor hbell
    rw [if_pos rfl, State.setRqTail_of_fitting (by rw [hstored]; exact hopen) (by rw [hstored]; exact hfits)
      (by rw [hstored]; exact hforward), Option.getD_some, hstored, State.rung, Mbx.rung, hbell]
    exact congrArg (fun t => { (if (s.mbx f.mbx.toNat).owner.isNone then s.rebound f.mbx.toNat else s) with mbxs := t })
      (tset_tset_self ..)

theorem State.ringFault_of_taken {s v : State} {k : Nat} {f : Mgmt} (h : s.takeMgmt k f = some v) :
    v.ringFault f = s.ringFault f := by
  rw [State.takeMgmt_only h]
  rfl

theorem State.bulkFault_of_taken {s v : State} {k : Nat} {f : Mgmt} (h : s.takeMgmt k f = some v) :
    v.bulkFault f = s.bulkFault f := by
  rw [State.takeMgmt_only h]
  rfl

theorem State.mbx_of_taken {s v : State} {k : Nat} {f : Mgmt} (h : s.takeMgmt k f = some v) (j : Nat) : v.mbx j = s.mbx j := by
  rw [State.takeMgmt_only h]
  rfl

theorem State.mem_bound_rung {s : State} {f : Mgmt} (e : BitVec 15 × Bool × Nat) : e ∈ (s.rung f).bound ↔
    e ∈ s.bound ∧ ((s.mbx f.mbx.toNat).owner = none → e.2.2 ≠ f.mbx.toNat) := by
  have hbound : (s.rung f).bound = (if (s.mbx f.mbx.toNat).owner.isNone then s.rebound f.mbx.toNat else s).bound := rfl
  rw [hbound]
  split
  · next h =>
    have hmem : e ∈ (s.rebound f.mbx.toNat).bound ↔ e ∈ s.bound ∧ e.2.2 ≠ f.mbx.toNat :=
      List.mem_filter.trans (and_congr_right fun _ => bne_iff_ne)
    rw [hmem]
    exact and_congr_right fun _ => ⟨fun h _ => h, fun hne => hne (Option.isNone_iff_eq_none.mp h)⟩
  · next h =>
    exact ⟨fun he => ⟨he, fun hnone => absurd (Option.isNone_iff_eq_none.mpr hnone) h⟩, And.left⟩

theorem State.rung_only (s : State) (f : Mgmt) : s.rung f = { s with mbxs := (s.rung f).mbxs, bound := (s.rung f).bound } := by
  unfold State.rung
  split <;> rfl

theorem State.mbx_rung (s : State) (f : Mgmt) (j : Nat) :
    (s.rung f).mbx j = if f.mbx.toNat = j then (s.mbx f.mbx.toNat).rung f else s.mbx j := by
  unfold State.rung
  rw [State.mbx_setMbx]
  split
  · rfl
  · split <;> rfl

/-- A refused RING_WRITE stores nothing, and is answered. -/
theorem State.ringWrite_of_fault {s : State} {f : Mgmt} {e : Nat} (h : s.ringFault f = some e) (he : e ≠ 7) :
    s.ringWrite f = s.sendError f 1 e 0 := by
  unfold State.ringWrite
  rw [h]
  dsimp only
  rw [if_neg (show e ≠ eReset from he)]

/-! ### REG_READ and REG_WRITE (R352) -/

/-- The answer to a REG_READ: the words read, or the index of the one that failed. -/
def State.readAnswer (s : State) (f : Mgmt) (o : Option (List Byte)) (i : Nat) : State :=
  o.elim (s.sendError f 5 eBusError i) (s.sendRegData f)

/-- The answer to a REG_WRITE: no words, or the index of the one that failed. -/
def State.writeAnswer (s : State) (f : Mgmt) (o : Option Nat) : State :=
  o.elim (s.sendRegData f []) (s.sendError f 6 eBusError)

section
variable {s u : State} {f : Mgmt}

theorem State.regReads_of_words {i : Nat} {o : Option (List Byte)} (hlen : f.payload.length = 4) (hlow : 1 ≤ fld f.payload 0 4)
    (hhigh : fld f.payload 0 4 ≤ 64)
    (hwords : State.readWords (reqPath f) (fld f.payload 0 4) (fld f.payload 0 4) (f.arg.toNat % 2 ^ 26) s [] = (u, o, i)) :
    s.regReads f = u.readAnswer f o i := by
  unfold State.regReads
  dsimp only
  rw [if_neg (by simp [hlen]; omega), hwords]
  cases o <;> rfl

theorem State.regReads_of_format (hlen : f.payload.length = 4) (hcount : fld f.payload 0 4 = 0 ∨ 64 < fld f.payload 0 4) :
    s.regReads f = s.sendError f 5 8 0 := by
  unfold State.regReads
  exact if_pos (by simp [hlen]; omega)

theorem State.regWrites_of_words {o : Option Nat} (hne : f.payload ≠ []) (hword : f.payload.length % 4 = 0)
    (hlen : f.payload.length ≤ 256)
    (hwords : State.writeWords (reqPath f) (toWords f.payload) (f.arg.toNat % 2 ^ 26) 0 s = (u, o)) :
    s.regWrites f = u.writeAnswer f o := by
  have hpos := List.length_pos_iff.mpr hne
  unfold State.regWrites
  dsimp only
  rw [if_neg (by simp only [Bool.or_eq_true, decide_eq_true_eq]; omega), hwords]
  cases o <;> rfl

theorem State.hears_of_taken {s v : State} {k : Nat} {f : Mgmt} {w : Who} (h : s.takeMgmt k f = some v) (hears : s.hears w) :
    v.hears w := by
  rw [State.takeMgmt_only h]
  exact hears

theorem State.readWords_scratch (hears : s.hears (reqPath f)) :
    State.readWords (reqPath f) 1 1 0x60 s [] = (s, some (toLe 4 (s.cfgAt 0x60).toNat), 1) := by
  unfold State.readWords
  rw [State.access_scratch hears]
  rfl

theorem State.writeWords_scratch (v : Word) (hears : s.hears (reqPath f)) :
    State.writeWords (reqPath f) [v] 0x60 0 s = ((s.closeKey (reqPath f)).setCfg 0x60 v, none) := by
  unfold State.writeWords
  rw [State.store_scratch v hears]
  rfl

end

/-- Settles O21: a frame that is taken (`State.takeMgmt_of_next`) does what its subtype is for. -/
theorem managementFramesTaken : Obligations.ManagementFramesTaken := by
  refine ⟨fun s v f hbrass hin htake hgood hwf hdoor => ?_, fun s f hout => ⟨State.brassFrame_of_out _ hout,
      State.brassFrame_of_out _ hout, State.brassFrame_of_out _ hout, State.brassFrame_of_out _ hout⟩,
    fun s v f e hbrass hin htake hfault he => ?_, fun s v f x h hbrass hin htake hgood hh hx hwf => ?_,
    fun s v f e hbrass hin htake hfault => ?_, fun s k f hnone => ?_, fun s k f q hq houts hnext => ?_,
    fun s f q hnext => ⟨State.brassFrame_of_waiting _ hnext, State.brassFrame_of_waiting _ hnext,
      State.brassFrame_of_waiting _ hnext, State.brassFrame_of_waiting _ hnext⟩,
    fun s v u f n i bs hbrass hin htake hlen hn hlow hhigh hwords => ?_,
    fun s v u f n i hbrass hin htake hlen hn hlow hhigh hwords => ?_,
    fun s v f hbrass hin htake hears hpayload haddr => ?_,
    fun s v u f o hbrass hin htake hne hword hlen hwords => ?_,
    fun s v f b0 b1 b2 b3 hbrass hin htake hears hpayload haddr => ?_,
    fun s v f hbrass hin htake hlen hcount => ?_⟩
  · have hgood' := (State.ringFault_of_taken htake).trans hgood
    have hmbx := State.mbx_of_taken htake
    have hexec : exec (.ringWrite f) s = .next (v.rung f) :=
      (State.brassFrame_of_taken hbrass hin htake).trans (congrArg _ (State.ringWrite_of_good hgood' (by rw [hmbx]; exact hdoor)))
    have hself : (v.rung f).mbx f.mbx.toNat = (s.mbx f.mbx.toNat).rung f := by rw [State.mbx_rung, if_pos rfl, hmbx]
    have hbound : v.bound = s.bound := by rw [State.takeMgmt_only htake]
    refine ⟨_, hexec, ?_⟩
    rw [hself]
    refine ⟨fun i hi => ?_, fun a ha => Mem.read_splice_outside hwf ha, rfl, rfl, rfl, ?_, fun j hj => ?_, fun e => ?_, v.rung_only f⟩
    · exact (Mem.read_splice_inside hwf hi).trans (List.getD_eq_getElem _ _ hi).symm
    · rw [Mbx.rung]
    · rw [State.mbx_rung, if_neg hj.symm, hmbx]
    · rw [State.mem_bound_rung, hbound, hmbx]
  · refine (State.brassFrame_of_taken hbrass hin htake).trans (congrArg _ ?_)
    exact State.ringWrite_of_fault ((State.ringFault_of_taken htake).trans hfault) he
  · subst hh
    have hfind : v.xfer (f.arg.toNat % 65536) = some x := by rw [State.takeMgmt_only htake]; exact hx
    have hexec : exec (.bulkWrite f) s = .next (v.setXfer (f.arg.toNat % 65536)
        { x with data := Mem.splice x.data f.offset.toNat f.payload }) := by
      refine (State.brassFrame_of_taken hbrass hin htake).trans (congrArg _ ?_)
      rw [State.bulkFault_of_taken htake, hgood]
      dsimp only
      rw [State.bulkStore, hfind]
    refine ⟨_, { x with data := Mem.splice x.data f.offset.toNat f.payload }, hexec, tfind_tset.trans (if_pos rfl), rfl,
      fun i hi => ?_, fun a ha => Mem.read_splice_outside hwf ha, fun k hk => ?_, rfl⟩
    · exact (Mem.read_splice_inside hwf hi).trans (List.getD_eq_getElem _ _ hi).symm
    · rw [State.takeMgmt_only htake]
      exact tfind_tset.trans (if_neg hk.symm)
  · refine (State.brassFrame_of_taken hbrass hin htake).trans (congrArg _ ?_)
    rw [State.bulkFault_of_taken htake, hfault]
  · rw [State.takeMgmt, List.find?_eq_none.mpr fun q hq => by rw [hnone q hq]; decide]
  · refine ⟨_, State.takeMgmt_of_next hq hnext, ?_, fun i hi hlast => State.tfind_dropFrom hi hlast,
      State.takeMgmt_only (State.takeMgmt_of_next hq hnext)⟩
    rw [State.queues_dropFrom, State.queues_takeEnt houts]
  · subst hn
    exact (State.brassFrame_of_taken hbrass hin htake).trans (congrArg _ (State.regReads_of_words hlen hlow hhigh hwords))
  · subst hn
    exact (State.brassFrame_of_taken hbrass hin htake).trans (congrArg _ (State.regReads_of_words hlen hlow hhigh hwords))
  · have hn : fld f.payload 0 4 = 1 := by rw [hpayload]; rfl
    have hcfg : v.cfgAt 0x60 = s.cfgAt 0x60 := by rw [State.takeMgmt_only htake]; rfl
    refine (State.brassFrame_of_taken hbrass hin htake).trans (congrArg _ ?_)
    have hwords : State.readWords (reqPath f) (fld f.payload 0 4) (fld f.payload 0 4) (f.arg.toNat % 2 ^ 26) v [] =
        (v, some (toLe 4 (v.cfgAt 0x60).toNat), 1) := by
      rw [hn, haddr]
      exact State.readWords_scratch (State.hears_of_taken htake hears)
    refine (State.regReads_of_words (by simp [hpayload]) (by omega) (by omega) hwords).trans ?_
    rw [hcfg]
    rfl
  · refine (State.brassFrame_of_taken hbrass hin htake).trans (congrArg _ ((State.regWrites_of_words hne hword hlen hwords).trans ?_))
    cases o <;> rfl
  · refine (State.brassFrame_of_taken hbrass hin htake).trans (congrArg _ ?_)
    have hwords : State.writeWords (reqPath f) (toWords f.payload) (f.arg.toNat % 2 ^ 26) 0 v =
        ((v.closeKey (reqPath f)).setCfg 0x60 (BitVec.ofNat 32 (leNat [b0, b1, b2, b3])), none) := by
      rw [hpayload, haddr]
      exact State.writeWords_scratch _ (State.hears_of_taken htake hears)
    refine (State.regWrites_of_words (by simp [hpayload]) (by simp [hpayload]) (by simp [hpayload]) hwords).trans ?_
    rw [State.takeMgmt_only htake]
    rfl
  · exact (State.brassFrame_of_taken hbrass hin htake).trans (congrArg _ (State.regReads_of_format hlen hcount))

end Sys2Proof.Machine

/-! What passes on the ports and in the collectives of a Fixus leaves its clock and what it does to BAR_N. The clock
moves with `State.elapse` alone, and the boot ROM's pull of BAR_N comes at its time there and nowhere else (14 R408); of
all that a nanosecond brings besides, only a fault record touches the pins, and there FAULT_N. One lemma for each
operation that a port's block or a home's last copy can reach. -/

namespace Sys2Proof.Machine

/-- The clock, whether this Fixus pulls BAR_N low, and when its boot ROM is to. -/
def State.barView (s : State) : Nat × Bool × Option Nat := (s.clk, s.pins.barLow, s.pins.romBar)

/-- A state whose clock and BAR_N stand at `q`. -/
structure KeepBar (q : Nat × Bool × Option Nat) (s : State) : Prop where
  kept : s.barView = q

/-- A state, if there is one, whose clock and BAR_N stand at `q`. -/
structure KeepBarOpt (q : Nat × Bool × Option Nat) (o : Option State) : Prop where
  of : ∀ t, o = some t → KeepBar q t

section
variable {q : Nat × Bool × Option Nat} {s t : State}

theorem KeepBar.self (s : State) : KeepBar s.barView s := ⟨rfl⟩

theorem mk_bar
    {x0 : _} {x2 : _} {x3 : _} {x4 : _} {x6 : _} {x7 : _} {x8 : _} {x9 : _} {x10 : _} {x11 : _} {x12 : _} {x13 : _}
    {x14 : _} {x15 : _} {x16 : _} {x17 : _} {x18 : _} {x19 : _} {x20 : _} {x21 : _} {x22 : _} {x23 : _} {x24 : _}
    {x25 : _} {x26 : _} {x27 : _} {x28 : _} {x29 : _} {x30 : _} {x31 : _} {x32 : _} {x33 : _} {x34 : _} {x35 : _}
    (h : KeepBar q s) :
    KeepBar q (State.mk x0 s.clk x2 x3 x4 s.pins x6 x7 x8 x9 x10 x11 x12 x13 x14 x15 x16 x17 x18 x19 x20 x21 x22 x23
      x24 x25 x26 x27 x28 x29 x30 x31 x32 x33 x34 x35) := ⟨h.kept⟩

theorem ite_bar {c : Prop} [Decidable c] (h : KeepBar q s) (h' : KeepBar q t) : KeepBar q (if c then s else t) := by
  split <;> assumption

theorem foldl_bar {α : Type} {f : State → α → State} {l : List α} (h : KeepBar q s)
    (hf : ∀ (t : State) (x : α), KeepBar q t → KeepBar q (f t x)) : KeepBar q (l.foldl f s) := by
  induction l generalizing s with
  | nil => exact h
  | cons x l ih => exact ih (hf s x h)

theorem fst_bar {α : Type} {p : State × α} {x : α} (h : p = (t, x)) (hp : KeepBar q p.1) : KeepBar q t := by
  subst h
  exact hp

theorem ite1_bar {c : Prop} [Decidable c] {α : Type} {a b : State × α} (h : KeepBar q a.1) (h' : KeepBar q b.1) :
    KeepBar q (if c then a else b).1 := by
  split <;> assumption

theorem opt_bar {o : Option State} (h : o = some t) (ho : KeepBarOpt q o) : KeepBar q t := ho.of t h

theorem none_bar : KeepBarOpt q none := ⟨fun _ h => nomatch h⟩

theorem some_bar (h : KeepBar q s) : KeepBarOpt q (some s) := ⟨fun _ ht => Option.some.inj ht ▸ h⟩

theorem oite_bar {c : Prop} [Decidable c] {a b : Option State} (h : KeepBarOpt q a) (h' : KeepBarOpt q b) :
    KeepBarOpt q (if c then a else b) := by
  split <;> assumption

theorem obind_bar {f : State → Option State} {o : Option State} (h : KeepBarOpt q o)
    (hf : ∀ t, KeepBar q t → KeepBarOpt q (f t)) : KeepBarOpt q (o.bind f) := by
  constructor
  intro t ht
  obtain ⟨u, hu, hfu⟩ := Option.bind_eq_some_iff.mp ht
  exact (hf u (h.of u hu)).of t hfu

theorem omap_bar {f : State → State} {o : Option State} (h : KeepBarOpt q o)
    (hf : ∀ t, KeepBar q t → KeepBar q (f t)) : KeepBarOpt q (o.map f) := by
  rw [Option.map_eq_bind]
  exact obind_bar h fun t ht => some_bar (hf t ht)

theorem State.bump_bar {s : State} {a : Nat} {n : Nat} (h0 : KeepBar q s) : KeepBar q (State.bump s a n) := by
  rw [State.bump_only]
  exact mk_bar h0

theorem State.free_bar {s : State} (h0 : KeepBar q s) : KeepBar q (State.free s).2 := mk_bar h0

theorem State.setLane_bar {s : State} {l : Nat} {v : Lane} (h0 : KeepBar q s) :
    KeepBar q (State.setLane s l v) := mk_bar h0

theorem State.setPort_bar {s : State} {p : Nat} {v : Port} (h0 : KeepBar q s) :
    KeepBar q (State.setPort s p v) := mk_bar h0

theorem State.setPaux_bar {s : State} {p : Nat} {v : PortAux} (h0 : KeepBar q s) :
    KeepBar q (State.setPaux s p v) := mk_bar h0

theorem State.setCtx_bar {s : State} {c : Nat} {v : Ctx} (h0 : KeepBar q s) :
    KeepBar q (State.setCtx s c v) := mk_bar h0

theorem State.setStack_bar {s : State} {k : Nat} {v : Stack} (h0 : KeepBar q s) :
    KeepBar q (State.setStack s k v) := mk_bar h0

theorem State.setTensor_bar {s : State} {c : Nat} {t : Nat} {v : Tensor} (h0 : KeepBar q s) :
    KeepBar q (State.setTensor s c t v) := mk_bar h0

theorem State.pulse_bar {s : State} (h0 : KeepBar q s) : KeepBar q s.pulse := by
  unfold State.pulse
  split
  · exact ⟨h0.kept⟩
  · exact ⟨h0.kept⟩

theorem State.record_bar {s : State} {cls : Nat} {dk : Nat} {di : Nat} {src : Nat} {info : Nat}
    (h0 : KeepBar q s) : KeepBar q (State.record s cls dk di src info) := by
  unfold State.record
  dsimp only
  with_reducible repeat' first
    | assumption | apply ite_bar | apply State.bump_bar | apply State.pulse_bar
    | (fail_if_no_progress refine mk_bar ?_) | split

theorem State.sendLink_bar {s : State} {p : Nat} {m : LinkMsg} (h0 : KeepBar q s) :
    KeepBar q (State.sendLink s p m) := mk_bar h0

theorem State.flood_bar {s : State} {from_ : Option Nat} {m : CtlMsg} (h0 : KeepBar q s) :
    KeepBar q (State.flood s from_ m) := by
  rw [State.flood_only]
  exact mk_bar h0

theorem State.sendCtlTo_bar {s : State} {dest : Nat} {m : CtlMsg} (h0 : KeepBar q s) :
    KeepBar q (State.sendCtlTo s dest m) := by
  rw [State.sendCtlTo_only]
  exact mk_bar h0

theorem State.routed_bar {s : State} {f : Frame} (h0 : KeepBar q s) : KeepBar q (State.routed s f).1 := by
  rw [State.routed_only]
  exact mk_bar h0

theorem State.headTags_bar {s : State} {p : Nat} (h0 : KeepBar q s) : KeepBar q (State.headTags s p) := by
  rw [(State.headTags_spec ..).2.2]
  exact mk_bar h0

theorem State.returnCredit_bar {s : State} {p : Nat} {vc : Nat} (h0 : KeepBar q s) :
    KeepBar q (State.returnCredit s p vc) := mk_bar h0

theorem State.dropCopy_bar {s : State} {key : Nat} (h0 : KeepBar q s) : KeepBar q (State.dropCopy s key) := by
  rw [State.dropCopy_only]
  exact mk_bar h0

theorem State.dropFrom_bar {s : State} {id : Nat} {k : Nat} (h0 : KeepBar q s) :
    KeepBar q (State.dropFrom s id k) := by
  rw [State.dropFrom_only]
  exact mk_bar h0

theorem State.freeCells_bar {s : State} {id : Nat} (h0 : KeepBar q s) : KeepBar q (State.freeCells s id) := by
  rw [State.freeCells_only]
  exact mk_bar h0

theorem State.discardRest_bar {s : State} {id : Nat} (h0 : KeepBar q s) :
    KeepBar q (State.discardRest s id) := mk_bar h0

theorem State.loseToken_bar {s : State} {f : Frame} {id : Nat} (h0 : KeepBar q s) :
    KeepBar q (State.loseToken s f id) := by
  rw [State.loseToken_only]
  exact mk_bar h0

theorem State.dropUnacked_bar {s : State} {p : Nat} (h0 : KeepBar q s) : KeepBar q (State.dropUnacked s p) := by
  unfold State.dropUnacked
  dsimp only
  with_reducible repeat' first
    | assumption | apply ite_bar | apply State.bump_bar | apply State.dropCopy_bar | apply foldl_bar
    | (intro _ _ _) | split

theorem State.putWire_bar {s : State} {p : Nat} {t : TxFlit} (h0 : KeepBar q s) :
    KeepBar q (State.putWire s p t) := by
  rw [State.putWire_only]
  exact mk_bar h0

theorem State.sendBlock_bar {s : State} {b : Nat} {p : Nat} {i : Nat} {bs : List Byte} (h0 : KeepBar q s) :
    KeepBar q (State.sendBlock s b p i bs) := mk_bar h0

theorem State.sendLeave_bar {s : State} {p : Nat} {reason : Nat} (h0 : KeepBar q s) :
    KeepBar q (State.sendLeave s p reason) := by
  rw [(State.sendLeave_spec ..).2.2]
  exact mk_bar h0

theorem State.idlePort_bar {s : State} {p : Nat} {st : PortState} (h0 : KeepBar q s) :
    KeepBar q (State.idlePort s p st) := by
  rw [State.idlePort_only]
  exact mk_bar (State.setPort_bar h0)

theorem State.enter_bar {s : State} {inp : Nat} {f : Frame} {outs : List Nat} {mc : Bool}
    (h0 : KeepBar q s) : KeepBar q (State.enter s inp f outs mc) := by
  rw [State.enter_only]
  exact mk_bar h0

theorem State.sendFrame_bar {s : State} {inp : Nat} {f : Frame} (h0 : KeepBar q s) :
    KeepBar q (State.sendFrame s inp f) := by
  rw [State.sendFrame_only]
  exact mk_bar h0

theorem State.sendGroup_bar {s : State} {inp : Nat} {g : Nat} {f : Frame} (h0 : KeepBar q s) :
    KeepBar q (State.sendGroup s inp g f) := by
  rw [State.sendGroup_only]
  exact mk_bar h0

theorem State.postCpl_bar {s : State} {m : Nat} {inst : Nat} {c : Cpl} (h0 : KeepBar q s) :
    KeepBar q (State.postCpl s m inst c) := by
  rw [(State.postCpl_only ..).1]
  exact mk_bar h0

theorem State.complete_bar {s : State} {c : Cmd} {result detail : Nat} {ret : List Byte}
    (h0 : KeepBar q s) : KeepBar q (State.complete s c result detail ret) := by
  rw [State.complete_only]
  exact mk_bar h0

theorem State.finishLoads_bar {s : State} (h0 : KeepBar q s) : KeepBar q (State.finishLoads s) := by
  unfold State.finishLoads
  dsimp only
  with_reducible repeat' first
    | assumption | apply State.complete_bar | (fail_if_no_progress refine mk_bar ?_)
    | apply foldl_bar | (intro _ _ _)

theorem State.drawPage_bar {s : State} {k : Nat} {h : Holder} (h0 : KeepBar q s) : KeepBarOpt q (s.drawPage k h) := by
  unfold State.drawPage
  split
  · exact none_bar
  · dsimp only
    split
    · exact none_bar
    · exact some_bar (State.setStack_bar (mk_bar (State.free_bar h0)))

theorem State.drawPages_bar {s : State} {l : List (Nat × Holder)} (h0 : KeepBar q s) :
    KeepBarOpt q (s.drawPages l) := by
  induction l generalizing s with
  | nil => exact some_bar h0
  | cons x l ih =>
    rw [State.drawPages]
    exact obind_bar (State.drawPage_bar h0) (fun t ht => ih ht)

theorem State.writeMap_bar {s : State} {h : Holder} {fmt : Nat} {rot : Nat} {elements : Nat}
    (h0 : KeepBar q s) : KeepBar q (State.writeMap s h fmt rot elements) := mk_bar h0

theorem State.freePages_bar {s : State} {test : Holder → Bool} (h0 : KeepBar q s) : KeepBar q (s.freePages test) :=
  mk_bar h0

theorem State.drawBufs_bar {s : State} {h : Holder} {n : Nat} (h0 : KeepBar q s) : KeepBarOpt q (s.drawBufs h n) := by
  induction n generalizing s with
  | zero => exact some_bar h0
  | succ n ih =>
    unfold State.drawBufs
    dsimp only
    split
    · exact none_bar
    · exact ih (mk_bar (State.free_bar h0))

theorem State.setColl_bar {s : State} {slot : Nat} {c : Coll} (h0 : KeepBar q s) :
    KeepBar q (State.setColl s slot c) := mk_bar h0

theorem State.mcastLost_bar {s : State} {inp : Nat} {f : Frame} {gs : List Nat} (h0 : KeepBar q s) :
    KeepBar q (State.mcastLost s inp f gs) := by
  unfold State.mcastLost
  dsimp only
  with_reducible repeat' first
    | assumption | apply ite_bar | apply State.bump_bar | apply State.record_bar | apply State.sendCtlTo_bar
    | apply State.sendFrame_bar | apply foldl_bar | (intro _ _ _) | split

theorem State.sendTree_bar {s : State} {inp : Nat} {root : Nat} {f : Frame} (h0 : KeepBar q s) :
    KeepBar q (State.sendTree s inp root f) := by
  unfold State.sendTree
  dsimp only
  with_reducible repeat' first
    | assumption | apply ite_bar | apply State.enter_bar | apply State.mcastLost_bar

theorem State.writeRecords_bar {s : State} {d : List Byte} {rec_ : List Byte} (h0 : KeepBar q s) :
    KeepBar q (State.writeRecords s d rec_) := by
  unfold State.writeRecords
  dsimp only
  with_reducible repeat' first | assumption | apply State.sendFrame_bar | apply foldl_bar | (intro _ _ _)

theorem State.postRecord_bar {s : State} {c : Coll} {rec_ : List Byte} (h0 : KeepBar q s) :
    KeepBar q (State.postRecord s c rec_) := by
  unfold State.postRecord
  with_reducible repeat' first | assumption | apply State.postCpl_bar

theorem State.sendRecord_bar {s : State} {d : List Byte} {rec_ : List Byte} (h0 : KeepBar q s) :
    KeepBar q (State.sendRecord s d rec_) := by
  unfold State.sendRecord
  dsimp only
  with_reducible repeat' first | assumption | apply State.sendTree_bar

theorem State.askAgain_bar {s : State} {f : Frame} (h0 : KeepBar q s) : KeepBar q (State.askAgain s f) := by
  unfold State.askAgain
  dsimp only
  with_reducible repeat' first
    | assumption | apply ite_bar | apply State.sendCtlTo_bar | apply State.setColl_bar | split

theorem State.cutFrame_bar {s : State} {id : Nat} {tail : Nat × List Byte} (h0 : KeepBar q s) :
    KeepBar q (State.cutFrame s id tail) := by
  unfold State.cutFrame
  dsimp only
  with_reducible repeat' first
    | assumption | apply ite_bar | apply State.bump_bar | apply State.setPort_bar | apply State.returnCredit_bar
    | apply State.discardRest_bar | apply State.loseToken_bar | apply State.askAgain_bar
    | (fail_if_no_progress refine mk_bar ?_) | apply foldl_bar | (intro _ _ _) | split

theorem State.allTags_bar {s : State} (h0 : KeepBar q s) : KeepBar q (State.allTags s) := by
  unfold State.allTags
  with_reducible repeat' first | assumption | apply State.headTags_bar | apply foldl_bar

theorem State.badFrame_bar {s : State} {id : Nat} {tail : Nat × List Byte} (h0 : KeepBar q s) :
    KeepBar q (State.badFrame s id tail) := by
  unfold State.badFrame
  with_reducible repeat' first | assumption | apply State.cutFrame_bar | apply State.allTags_bar

theorem State.freeOld_bar {s : State} {ctx : Nat} {tensor : Nat} (h0 : KeepBar q s) :
    KeepBar q (State.freeOld s ctx tensor) := by
  unfold State.freeOld
  with_reducible repeat' first | assumption | apply State.freePages_bar

theorem State.trySlot_bar {s : State} {slot : Nat} (h0 : KeepBar q s) : KeepBar q (State.trySlot s slot) := by
  unfold State.trySlot
  dsimp only
  with_reducible repeat' first
    | assumption | apply ite_bar | apply State.freePages_bar | (fail_if_no_progress refine mk_bar ?_)
    | split

theorem State.homeTell_bar {s : State} {slot : Nat} (h0 : KeepBar q s) : KeepBar q (State.homeTell s slot) := by
  unfold State.homeTell
  dsimp only
  with_reducible repeat' first
    | assumption | apply ite_bar | apply State.sendCtlTo_bar | apply State.setColl_bar | split

theorem State.homeTry_bar {s : State} {slot : Nat} (h0 : KeepBar q s) : KeepBar q (State.homeTry s slot) := by
  unfold State.homeTry
  dsimp only
  with_reducible repeat' first
    | assumption | apply ite_bar | apply State.setColl_bar | apply State.writeRecords_bar
    | apply State.trySlot_bar | apply State.homeTell_bar | split

theorem State.homeRecord_bar {s : State} {slot : Nat} {r : List Byte} (h0 : KeepBar q s) :
    KeepBar q (State.homeRecord s slot r) := by
  unfold State.homeRecord
  dsimp only
  with_reducible repeat' first
    | assumption | apply ite_bar | apply State.setColl_bar | apply State.homeTry_bar | split

theorem State.homeReturn_bar {s : State} {slot : Nat} {off : Nat} {len : Nat} {us : List Nat}
    (h0 : KeepBar q s) : KeepBar q (State.homeReturn s slot off len us) := by
  unfold State.homeReturn
  dsimp only
  with_reducible repeat' first
    | assumption | apply ite_bar | apply State.setColl_bar | apply State.homeTry_bar | split

theorem State.rootTry_bar {s : State} {slot : Nat} (h0 : KeepBar q s) : KeepBar q (State.rootTry s slot) := by
  unfold State.rootTry
  dsimp only
  with_reducible repeat' first
    | assumption | apply ite_bar | apply State.freePages_bar | apply State.setColl_bar
    | apply State.postRecord_bar | apply State.trySlot_bar | split

theorem State.homesTry_bar {s : State} (h0 : KeepBar q s) : KeepBar q (State.homesTry s) := by
  unfold State.homesTry
  with_reducible repeat' first
    | assumption | apply State.homeTry_bar | apply State.rootTry_bar | apply foldl_bar | (intro _ _ _) | split

theorem State.waitPool_bar {s : State} {pool : Nat} {r : PoolReq} (h0 : KeepBar q s) :
    KeepBar q (State.waitPool s pool r) := by
  unfold State.waitPool
  dsimp only
  with_reducible repeat' first
    | assumption | apply ite_bar | (fail_if_no_progress refine mk_bar ?_)

theorem State.drawShadow_bar {s : State} {c : Nat} {tag : Nat} {l : List (Nat × Holder)}
    (h0 : KeepBar q s) : KeepBarOpt q (State.drawShadow s c tag l) := by
  unfold State.drawShadow
  with_reducible repeat' first | assumption | apply State.drawPages_bar | apply oite_bar | apply none_bar

theorem State.unwait_bar {s : State} {pool : Nat} {tag : Nat} (h0 : KeepBar q s) :
    KeepBar q (State.unwait s pool tag) := mk_bar h0

theorem State.sendReturnFrame_bar {s : State} {slot : Nat} {c : Coll} {g : Nat} {bs : List Byte}
    (h0 : KeepBar q s) : KeepBar q (State.sendReturnFrame s slot c g bs) := by
  unfold State.sendReturnFrame
  dsimp only
  with_reducible repeat' first | assumption | apply State.sendTree_bar | apply State.homeReturn_bar

theorem State.stageReturn_bar {n slot : Nat} {s : State} (h0 : KeepBar q s) :
    KeepBar q (State.stageReturn n s slot) := by
  induction n generalizing s with
  | zero => exact h0
  | succ n ih =>
    rw [State.stageReturn]
    split
    · exact h0
    · split
      · exact h0
      · dsimp only
        refine ite_bar (State.unwait_bar h0) (ite_bar (State.waitPool_bar h0) (ih ?_))
        exact foldl_bar (State.setColl_bar (State.unwait_bar h0)) (fun _ _ ht => State.sendReturnFrame_bar ht)

theorem State.sendReturn_bar {s : State} {slot : Nat} {version : Nat} {image : List Byte}
    (h0 : KeepBar q s) : KeepBar q (State.sendReturn s slot version image) := by
  unfold State.sendReturn
  dsimp only
  with_reducible repeat' first
    | assumption | apply State.setColl_bar | apply State.stageReturn_bar | split

theorem State.homeResult_bar {s : State} {slot : Nat} {rank : Nat} {part : Nat} {off : Nat}
    {bs : List Byte} (h0 : KeepBar q s) : KeepBar q (State.homeResult s slot rank part off bs) := by
  unfold State.homeResult
  dsimp only
  with_reducible repeat' first
    | assumption | apply State.sendFrame_bar | apply State.homeReturn_bar | apply foldl_bar | (intro _ _ _)
    | split

theorem State.spreadResult_bar {s : State} {slot : Nat} {part : Nat} {off : Nat} {bs : List Byte}
    {root : Nat} (h0 : KeepBar q s) : KeepBar q (State.spreadResult s slot part off bs root) := by
  unfold State.spreadResult
  dsimp only
  with_reducible repeat' first
    | assumption | apply State.sendFrame_bar | apply State.sendGroup_bar | apply State.homeResult_bar
    | apply foldl_bar | (intro _ _ _) | split

theorem State.sendResults_bar {s : State} {slot : Nat} {image : List Byte} (h0 : KeepBar q s) :
    KeepBar q (State.sendResults s slot image) := by
  unfold State.sendResults
  dsimp only
  with_reducible repeat' first
    | assumption | apply ite_bar | apply State.setColl_bar | apply State.spreadResult_bar | apply foldl_bar
    | (intro _ _ _) | split

theorem State.decide_bar {s : State} {slot : Nat} {status : Nat} {rec_ : List Byte} {image : Option
    (List Byte)} {version : Nat} (h0 : KeepBar q s) : KeepBar q (State.decide_ s slot status rec_ image version) := by
  unfold State.decide_
  dsimp only
  with_reducible repeat' first
    | assumption | apply ite_bar | apply State.freePages_bar | apply State.setColl_bar
    | apply State.postRecord_bar | apply State.sendRecord_bar | apply State.trySlot_bar
    | apply State.homeRecord_bar | apply State.rootTry_bar | apply State.sendReturn_bar
    | apply State.sendResults_bar | split

theorem State.setHalf_bar {s : State} {slot : Nat} {g : Nat} {h : Option (Nat × Option Nat × Bool)}
    (h0 : KeepBar q s) : KeepBar q (State.setHalf s slot g h) := by
  unfold State.setHalf
  dsimp only
  with_reducible repeat' first | assumption | apply State.setColl_bar | split

theorem State.setSeg_bar {s : State} {slot : Nat} {ni : Nat} {g : Nat} {sg : Seg} (h0 : KeepBar q s) :
    KeepBar q (State.setSeg s slot ni g sg) := by
  unfold State.setSeg
  with_reducible repeat' first | assumption | apply State.setColl_bar | split

theorem State.spillOne_bar {s : State} {k : Nat} {slot : Nat} {ni : Nat} {g : Nat} (h0 : KeepBar q s) :
    KeepBarOpt q (State.spillOne s k slot ni g) := by
  unfold State.spillOne
  dsimp only
  with_reducible repeat' first
    | assumption | apply State.bump_bar | apply State.drawBufs_bar | apply State.setHalf_bar
    | apply State.setSeg_bar | apply some_bar | apply omap_bar | (intro _ _) | split

theorem State.engineRoom_bar {k slot ni g need tag n : Nat} {s : State} (h0 : KeepBar q s) :
    KeepBarOpt q (State.engineRoom k slot ni g need tag n s) := by
  induction n generalizing s with
  | zero => exact some_bar h0
  | succ n ih =>
    rw [State.engineRoom]
    refine oite_bar (some_bar h0) ?_
    split
    · exact some_bar h0
    · refine oite_bar ?_ none_bar
      split
      · exact none_bar
      · rename_i t ht
        exact ih (State.unwait_bar ((State.spillOne_bar h0).of t ht))

theorem State.accRoom_bar {s : State} {slot ni g need tag : Nat} {ks : List Nat} (h0 : KeepBar q s) :
    KeepBarOpt q (s.accRoom slot ni g need tag ks) := by
  have h (l : List Nat) : ∀ o, KeepBarOpt q o →
      KeepBarOpt q (l.foldl (fun o k => o.bind (State.engineRoom k slot ni g need tag 4096)) o) := by
    induction l with
    | nil => exact fun _ ho => ho
    | cons k l ih => exact fun o ho => ih _ (obind_bar ho (fun _ ht => State.engineRoom_bar ht))
  exact h ks _ (some_bar h0)

theorem State.joinSeg_bar {s : State} {slot : Nat} {ni : Nat} {g : Nat} {i : SegIn} (h0 : KeepBar q s) :
    KeepBarOpt q (State.joinSeg s slot ni g i) := by
  unfold State.joinSeg
  dsimp only
  with_reducible repeat' first
    | assumption | apply State.freePages_bar | apply State.setSeg_bar | apply State.accRoom_bar | apply some_bar
    | apply omap_bar | (intro _ _) | split

theorem State.ensureG_bar {s : State} {d : List Byte} (h0 : KeepBar q s) :
    KeepBarOpt q (State.ensureG s d) := by
  unfold State.ensureG
  dsimp only
  with_reducible repeat' first
    | assumption | apply State.writeMap_bar | apply State.drawShadow_bar | apply State.unwait_bar
    | apply oite_bar | apply some_bar | apply omap_bar | (intro _ _)

theorem State.settle_bar {s : State} {slot : Nat} {conds : BitVec 16} {pdig : BitVec 64}
    {partFail : BitVec 64} {lowest : Nat} {image : Option (List Byte)} {version : Nat} (h0 : KeepBar q s) :
    KeepBar q (State.settle s slot conds pdig partFail lowest image version) := by
  unfold State.settle
  dsimp only
  with_reducible repeat' first
    | assumption | apply ite_bar | apply State.setTensor_bar | apply State.freePages_bar
    | apply State.setColl_bar | apply State.trySlot_bar | apply State.decide_bar | split

theorem State.rootComplete_bar {s : State} {slot : Nat} (h0 : KeepBar q s) :
    KeepBar q (State.rootComplete s slot) := by
  unfold State.rootComplete
  dsimp only
  with_reducible repeat' first
    | assumption | apply ite_bar | apply State.setColl_bar | apply State.settle_bar
    | (fail_if_no_progress refine mk_bar ?_) | split

theorem State.rootTake_bar {s : State} {slot : Nat} {g : Nat} {blocks : List IBlock} {maxAbs : Nat}
    {vals : List Word} {flags : BitVec 6} {nfRank : Nat} (h0 : KeepBar q s) :
    KeepBar q (State.rootTake s slot g blocks maxAbs vals flags nfRank) := by
  unfold State.rootTake
  dsimp only
  with_reducible repeat' first
    | assumption | apply ite_bar | apply State.setColl_bar | apply State.rootComplete_bar | split

theorem State.sendTwin_bar {s : State} {pt : Nat} {c : Coll} {g : Nat} {blocks : List IBlock}
    {vals : List Word} {fl : BitVec 6} {nr : Nat} (h0 : KeepBar q s) :
    KeepBar q (State.sendTwin s pt c g blocks vals fl nr) := by
  unfold State.sendTwin
  dsimp only
  with_reducible repeat' first | assumption | apply ite_bar | apply State.sendGroup_bar | split

theorem State.dropToken_bar {s : State} {id : Nat} (h0 : KeepBar q s) : KeepBar q (State.dropToken s id) := by
  unfold State.dropToken
  with_reducible repeat' first | assumption | apply State.bump_bar | apply State.dropFrom_bar

theorem State.abandonAt_bar {s : State} {slot : Nat} {ni : Nat} {ks : List Src} {late : Bool}
    (h0 : KeepBar q s) : KeepBar q (State.abandonAt s slot ni ks late) := by
  unfold State.abandonAt
  dsimp only
  with_reducible repeat' first
    | assumption | apply ite_bar | apply State.record_bar | apply State.setColl_bar | apply State.dropToken_bar
    | apply foldl_bar | (intro _ _ _) | split

theorem State.closeSeg_bar {s : State} {slot : Nat} {ni : Nat} {g : Nat} {bad : Bool} (h0 : KeepBar q s) :
    KeepBar q (State.closeSeg s slot ni g bad) := by
  unfold State.closeSeg
  dsimp only
  with_reducible repeat' first
    | assumption | apply ite_bar | apply State.bump_bar | apply State.record_bar | apply State.dropFrom_bar
    | apply State.freePages_bar | apply State.setSeg_bar | apply foldl_bar | (intro _ _ _) | split

theorem State.handOn_bar {s : State} {slot : Nat} {ni : Nat} {g : Nat} {r : NodeSum} (h0 : KeepBar q s) :
    KeepBarOpt q (State.handOn s slot ni g r) := by
  unfold State.handOn
  dsimp only
  with_reducible repeat' first
    | assumption | apply State.joinSeg_bar | apply State.abandonAt_bar | apply oite_bar | apply some_bar | split

theorem State.sendPartial_bar {s : State} {pt : Nat} {c : Coll} {g : Nat} {q' : Nat} {r : NodeSum}
    (h0 : KeepBar q s) : KeepBar q (State.sendPartial s pt c g q' r) := by
  unfold State.sendPartial
  dsimp only
  with_reducible repeat' first | assumption | apply State.sendGroup_bar

theorem State.toRoot_bar {s : State} {pt : Nat} {slot : Nat} {g : Nat} {c : Coll} {r : NodeSum}
    (h0 : KeepBar q s) : KeepBar q (State.toRoot s pt slot g c r) := by
  unfold State.toRoot
  dsimp only
  with_reducible repeat' first | assumption | apply State.rootTake_bar | apply State.sendTwin_bar

theorem State.reRoom_bar {s : State} {slot : Nat} {ni : Nat} {g : Nat} {d : List Byte} {sg : Seg}
    {es : List Nat} (h0 : KeepBar q s) : KeepBarOpt q (State.reRoom s slot ni g d sg es) := by
  unfold State.reRoom
  with_reducible repeat' first | assumption | apply State.accRoom_bar | apply oite_bar | apply some_bar

theorem State.completeSeg_bar {s : State} {slot : Nat} {ni : Nat} {g : Nat} (h0 : KeepBar q s) :
    KeepBar q (State.completeSeg s slot ni g) := by
  unfold State.completeSeg
  dsimp only
  with_reducible repeat' first
    | assumption | apply ite_bar | apply State.trySlot_bar | apply State.waitPool_bar | apply State.unwait_bar
    | apply State.ensureG_bar | apply State.closeSeg_bar | apply State.handOn_bar | apply State.sendPartial_bar
    | apply State.toRoot_bar | apply State.reRoom_bar | (apply opt_bar; assumption) | split

theorem State.progress_bar {s : State} {slot : Nat} (h0 : KeepBar q s) : KeepBar q (State.progress s slot) := by
  unfold State.progress
  dsimp only
  with_reducible repeat' first
    | assumption | apply ite_bar | apply State.completeSeg_bar | apply foldl_bar | (intro _ _ _) | split

theorem State.abandon_bar {s : State} {slot : Nat} {ni : Nat} {ks : List Src} {late : Bool}
    (h0 : KeepBar q s) : KeepBar q (State.abandon s slot ni ks late) := by
  unfold State.abandon
  with_reducible repeat' first | assumption | apply State.abandonAt_bar | apply State.progress_bar

theorem State.actFor_bar {s : State} {slot : Nat} {c : Coll} (h0 : KeepBar q s) :
    KeepBar q (State.actFor s slot c) := by
  unfold State.actFor
  with_reducible repeat' first | assumption | apply State.setColl_bar | apply State.decide_bar | split

theorem State.takeover_bar {s : State} {lost : Nat} (h0 : KeepBar q s) : KeepBar q (State.takeover s lost) := by
  unfold State.takeover
  dsimp only
  with_reducible repeat' first
    | assumption | apply ite_bar | apply State.actFor_bar | (fail_if_no_progress refine mk_bar ?_)
    | apply foldl_bar | (intro _ _ _)

theorem State.kernelDecide_bar {s : State} {slot : Nat} {conds : BitVec 16} (h0 : KeepBar q s) :
    KeepBar q (State.kernelDecide s slot conds) := by
  unfold State.kernelDecide
  dsimp only
  with_reducible repeat' first
    | assumption | apply ite_bar | apply State.freeOld_bar | apply State.decide_bar | split

theorem State.kernelTry_bar {s : State} {slot : Nat} (h0 : KeepBar q s) :
    KeepBar q (State.kernelTry s slot) := by
  unfold State.kernelTry
  dsimp only
  with_reducible repeat' first | assumption | apply ite_bar | apply State.kernelDecide_bar | split

theorem State.rechoose_bar {s : State} {p : Nat} {q' : QEnt} (h0 : KeepBar q s) :
    KeepBar q (State.rechoose s p q').1 := by
  unfold State.rechoose
  dsimp only
  with_reducible repeat' first
    | assumption | apply State.routed_bar | apply ite1_bar | (apply fst_bar; assumption) | split

theorem State.rerouteEnt_bar {s : State} {p : Nat} {q' : QEnt} (h0 : KeepBar q s) :
    KeepBar q (State.rerouteEnt s p q') := by
  unfold State.rerouteEnt
  dsimp only
  with_reducible repeat' first
    | assumption | apply ite_bar | apply State.dropFrom_bar | apply State.discardRest_bar
    | apply State.mcastLost_bar | apply State.rechoose_bar | (fail_if_no_progress refine mk_bar ?_)

theorem State.reroute_bar {s : State} {p : Nat} (h0 : KeepBar q s) : KeepBar q (State.reroute s p) := by
  unfold State.reroute
  dsimp only
  with_reducible repeat' first
    | assumption | apply ite_bar | apply State.setPort_bar | apply State.dropFrom_bar
    | apply State.discardRest_bar | apply State.rerouteEnt_bar
    | (fail_if_no_progress refine mk_bar ?_) | apply foldl_bar | (intro _ _ _)

theorem State.markLost_bar {s : State} {a : Nat} (h0 : KeepBar q s) : KeepBar q (State.markLost s a) := by
  unfold State.markLost
  dsimp only
  with_reducible repeat' first
    | assumption | apply ite_bar | apply State.takeover_bar | (fail_if_no_progress refine mk_bar ?_)

theorem State.neighbourLeft_bar {s0 : State} {a : Nat} (h0 : KeepBar q s0) :
    KeepBar q (State.neighbourLeft s0 a) := by
  unfold State.neighbourLeft
  dsimp only
  with_reducible repeat' first
    | assumption | apply ite_bar | apply State.setCtx_bar | apply State.record_bar | apply State.flood_bar
    | apply State.markLost_bar | (fail_if_no_progress refine mk_bar ?_) | apply foldl_bar
    | (intro _ _ _)

theorem State.accLost_bar {s : State} {a : Nat} (h0 : KeepBar q s) : KeepBar q (State.accLost s a) := by
  unfold State.accLost
  dsimp only
  with_reducible repeat' first
    | assumption | apply ite_bar | apply State.record_bar | apply State.finishLoads_bar
    | apply State.setColl_bar | apply State.abandon_bar | apply State.kernelTry_bar
    | (fail_if_no_progress refine mk_bar ?_) | apply foldl_bar | (intro _ _ _) | split

theorem State.reparent_bar {s : State} (h0 : KeepBar q s) : KeepBar q (State.reparent s) := by
  rw [State.reparent_only]
  exact mk_bar h0

theorem State.releaseSpare_bar {s : State} {p : Nat} (h0 : KeepBar q s) :
    KeepBar q (State.releaseSpare s p) := by
  rw [State.releaseSpare_only]
  exact mk_bar h0

theorem State.portDown_bar {s : State} {p : Nat} {st : PortState} {leave : Option Nat} (h0 : KeepBar q s) :
    KeepBar q (State.portDown s p st leave) := by
  unfold State.portDown
  dsimp only
  with_reducible repeat' first
    | assumption | apply ite_bar | apply State.setPort_bar | apply State.setPaux_bar | apply State.freeCells_bar
    | apply State.dropUnacked_bar | apply State.sendLeave_bar | apply State.idlePort_bar
    | apply State.badFrame_bar | apply State.reroute_bar | apply State.reparent_bar
    | apply State.releaseSpare_bar | (fail_if_no_progress refine mk_bar ?_) | apply foldl_bar
    | (intro _ _ _) | split

theorem State.portOff_bar {s : State} {p : Nat} {st : PortState} {leave : Option Nat} (h0 : KeepBar q s) :
    KeepBar q (State.portOff s p st leave) := by
  unfold State.portOff
  dsimp only
  with_reducible repeat' first
    | assumption | apply ite_bar | apply State.neighbourLeft_bar | apply State.accLost_bar
    | apply State.portDown_bar | split

theorem State.fencePort_bar {s : State} {p : Nat} {src : Nat} {info : Nat} (h0 : KeepBar q s) :
    KeepBar q (State.fencePort s p src info) := by
  unfold State.fencePort
  with_reducible repeat' first
    | assumption | apply ite_bar | apply State.record_bar | apply State.portOff_bar

theorem State.reportViols_bar {s : State} {p : Nat} (h0 : KeepBar q s) : KeepBar q (State.reportViols s p) := by
  unfold State.reportViols
  dsimp only
  with_reducible repeat' first
    | assumption | apply ite_bar | apply State.setPaux_bar | apply State.sendLink_bar

theorem State.startRetrain_bar {s : State} {p : Nat} {reason : Nat} (h0 : KeepBar q s) :
    KeepBar q (State.startRetrain s p reason) := by
  unfold State.startRetrain
  dsimp only
  with_reducible repeat' first
    | assumption | apply ite_bar | apply State.bump_bar | apply State.setLane_bar | apply State.setPort_bar
    | apply State.setPaux_bar | apply State.record_bar | apply State.fencePort_bar | apply foldl_bar
    | (intro _ _ _)

theorem State.takeShaper_bar {s : State} {p : Nat} {v : Nat} (h0 : KeepBar q s) :
    KeepBar q (State.takeShaper s p v) := by
  rw [State.takeShaper_only]
  exact mk_bar h0

theorem State.syncShapers_bar {s : State} {p : Nat} (h0 : KeepBar q s) : KeepBar q (State.syncShapers s p) := by
  rw [State.syncShapers_only]
  exact mk_bar h0

theorem State.putSeq_bar {s : State} {p : Nat} {v : Nat} {pay : TxPay} (h0 : KeepBar q s) :
    KeepBar q (State.putSeq s p v pay) := by
  rw [State.putSeq_only]
  exact mk_bar h0

theorem State.sendData_bar {s : State} {p : Nat} {e : Staged} (h0 : KeepBar q s) :
    KeepBar q (State.sendData s p e) := by
  unfold State.sendData
  dsimp only
  with_reducible repeat' first
    | assumption | apply ite_bar | apply State.bump_bar | apply State.setPort_bar | apply State.headTags_bar
    | apply State.takeShaper_bar | apply State.putSeq_bar | (fail_if_no_progress refine mk_bar ?_)

theorem State.slotFlit_bar {s : State} {p : Nat} (h0 : KeepBar q s) : KeepBar q (State.slotFlit s p) := by
  unfold State.slotFlit
  dsimp only
  with_reducible repeat' first
    | assumption | apply ite_bar | apply State.bump_bar | apply State.putWire_bar | apply State.sendData_bar
    | split

theorem State.stampCtl_bar {s : State} {p : Nat} {m : CtlMsg} (h0 : KeepBar q s) :
    KeepBar q (State.stampCtl s p m).1 := by
  unfold State.stampCtl
  dsimp only
  with_reducible repeat' first
    | assumption | apply State.setPort_bar | (fail_if_no_progress refine mk_bar ?_) | apply ite1_bar
    | split

theorem State.transmit_bar {s : State} {p : Nat} (h0 : KeepBar q s) : KeepBar q (State.transmit s p) := by
  unfold State.transmit
  dsimp only
  with_reducible repeat' first
    | assumption | apply ite_bar | apply State.bump_bar | apply State.setPort_bar | apply State.putWire_bar
    | apply State.reportViols_bar | apply State.startRetrain_bar | apply State.takeShaper_bar
    | apply State.syncShapers_bar | apply State.putSeq_bar | apply State.slotFlit_bar | apply State.stampCtl_bar
    | (fail_if_no_progress refine mk_bar ?_) | split

theorem State.loadSideband_bar {b p n : Nat} {s : State} (h0 : KeepBar q s) :
    KeepBar q (State.loadSideband b p n s) := by
  induction n generalizing s with
  | zero => exact h0
  | succ n ih =>
    rw [State.loadSideband]
    with_reducible repeat' first
      | assumption | apply ite_bar | apply ih | apply State.setPort_bar | apply State.setPaux_bar
      | apply State.setLane_bar | apply foldl_bar | (intro _ _ _) | split

theorem State.fillFlits_bar {p len n : Nat} {s : State} (h0 : KeepBar q s) :
    KeepBar q (State.fillFlits p len n s) := by
  induction n generalizing s with
  | zero => exact h0
  | succ n ih =>
    have h := State.transmit_bar (p := p) h0
    rw [State.fillFlits]
    split
    · exact h0
    · dsimp only
      split
      · exact ih h
      · exact ih (State.putWire_bar h)

theorem State.portBlock_bar {s : State} {b : Nat} {p : Nat} (h0 : KeepBar q s) :
    KeepBar q (State.portBlock s b p) := by
  unfold State.portBlock
  dsimp only
  with_reducible repeat' first
    | assumption | apply ite_bar | apply State.setPort_bar | apply State.sendBlock_bar
    | apply State.loadSideband_bar | apply State.fillFlits_bar | apply foldl_bar | (intro _ _ _) | split

theorem State.markCredit_bar {s : State} (h0 : KeepBar q s) : KeepBar q (State.markCredit s) := by
  unfold State.markCredit
  dsimp only
  with_reducible repeat' first | assumption | (fail_if_no_progress refine mk_bar ?_)

end

/-- All that a nanosecond brings besides leaves the clock and BAR_N as `State.elapse` sets them. -/
theorem State.tick_barView (s : State) : s.tick.barView = s.elapse.barView := by
  have hon : KeepBar s.elapse.barView s.homesTry.markCredit.elapse := by
    have h := (State.markCredit_bar (State.homesTry_bar (KeepBar.self s))).kept
    simp only [State.barView, Prod.mk.injEq] at h
    obtain ⟨hclk, hlow, hrom⟩ := h
    exact ⟨by simp only [State.barView, State.elapse, hclk, hlow, hrom]⟩
  have hlapse : KeepBar s.elapse.barView (if s.on then s.homesTry.markCredit.elapse else s.elapse) :=
    ite_bar hon (KeepBar.self _)
  have hsync := foldl_bar (l := List.range 64) hlapse fun t p h => State.syncShapers_bar (p := p) h
  unfold State.tick
  dsimp only
  refine (ite_bar hsync (foldl_bar hsync fun t p h => ?_)).kept
  exact ite_bar (State.portBlock_bar h) h

end Sys2Proof.Machine

/-! Frames between the Fixus of a cell, and the cell's warm reset (13 R350; 14 R400, R408; 01 R25). -/

namespace Sys2Proof.Machine

/-! ### HELLO and held descriptors (13 R350, 14 R400) -/

/-- The neighbour beyond a mesh group is noted as heard. -/
def State.heard (v : State) (g : Nat) : State := { v with sys := { v.sys with
  helloSeen := if v.sys.helloSeen.contains g then v.sys.helloSeen else v.sys.helloSeen ++ [g] } }

/-- A HELLO from a mesh neighbour: its number and strap are judged by its place. -/
theorem State.hello_of_mesh {v : State} {f : Mgmt} (cell : Bool) (hmesh : v.meshGroup (f.port.toNat / 4) = true) :
    v.hello f cell = if cell = false ∧ f.arg.toNat % 16 = meshSwitch v.pins.sw (f.port.toNat / 4) ∧
        f.arg.getLsbD 31 = (f.arg.toNat % 16 == 0)
      then v.heard (f.port.toNat / 4)
      else (v.heard (f.port.toNat / 4)).strapConflict (strapInfo (f.arg.getLsbD 31) (f.arg.toNat % 16)) := by
  unfold State.hello
  dsimp only
  rw [hmesh, Bool.not_true, if_neg Bool.false_ne_true]
  have hbad : (cell || f.arg.toNat % 16 != meshSwitch v.pins.sw (f.port.toNat / 4) ||
      f.arg.getLsbD 31 != (f.arg.toNat % 16 == 0)) = true ↔
      ¬ (cell = false ∧ f.arg.toNat % 16 = meshSwitch v.pins.sw (f.port.toNat / 4) ∧
        f.arg.getLsbD 31 = (f.arg.toNat % 16 == 0)) := by
    simp only [Bool.or_eq_true, bne_iff_ne, not_and_or, Bool.not_eq_false, or_assoc]
  simp only [hbad, ite_not]
  rfl

/-- A held descriptor from a Fixus of the cell joins its set; with the last one of a set that has come whole they are taken up. -/
theorem State.heldDescIn_of_mate {v : State} {f : Mgmt} (hmate : v.cellMate f.src.toNat = true)
    (hlen : f.payload.length = 128) : v.heldDescIn f =
      if f.arg.getLsbD 31 = false then { v with heldRx := v.heldRx ++ [f.payload] }
      else if (v.heldRx ++ [f.payload]).length = f.arg.toNat % 65536 then
        (v.heldRx ++ [f.payload]).foldl (fun t d => t.takeHeld d) { v with heldRx := [] }
      else ({ v with heldRx := [] }).sendMgmt f.src.toNat 9 false 0 0 0 0 [] := by
  have hsome : f.payload.isEmpty = false := by
    rw [List.isEmpty_eq_false_iff_exists_mem]
    exact List.exists_mem_of_length_pos (by omega)
  have hmate' : (addrIsFixus f.src.toNat && addrCell f.src.toNat == v.sys.cell && addrUnit f.src.toNat == 0 &&
      f.src.toNat != v.addr) = true := hmate
  unfold State.heldDescIn
  dsimp only
  rw [hmate', hlen, hsome]
  simp only [beq_self_eq_true, Bool.true_or, Bool.and_self, if_true, Bool.false_eq_true, if_false, Bool.not_eq_true']

theorem State.sys_of_taken {s v : State} {k : Nat} {f : Mgmt} (h : s.takeMgmt k f = some v) : v.sys = s.sys := by
  rw [State.takeMgmt_only h]

theorem State.cellMate_of_taken {s v : State} {k a : Nat} {f : Mgmt} (h : s.takeMgmt k f = some v)
    (hmate : s.cellMate a = true) : v.cellMate a = true := by
  rw [State.takeMgmt_only h]
  exact hmate

theorem State.heldRx_of_taken {s v : State} {k : Nat} {f : Mgmt} (h : s.takeMgmt k f = some v) : v.heldRx = s.heldRx := by
  rw [State.takeMgmt_only h]

theorem State.meshGroup_of_taken {s v : State} {k g : Nat} {f : Mgmt} (h : s.takeMgmt k f = some v)
    (hmesh : s.meshGroup g = true) : v.meshGroup g = true := by
  rw [State.takeMgmt_only h]
  exact hmesh

/-! ### The cell's warm reset (14 R408) -/

theorem State.clk_record (s : State) (cls dk di src info : Nat) : (s.record cls dk di src info).clk = s.clk := by
  rw [State.record_only]

theorem State.clk_enterX (s : State) (src info : Nat) : (s.enterX src info).clk = s.clk :=
  State.enterX_apply State.clk s src info fun _ _ _ _ _ _ _ _ _ _ => rfl

theorem State.clk_trialBoot (s : State) : s.trialBoot.clk = s.clk := by
  unfold State.trialBoot
  split
  · split
    · rfl
    · exact State.clk_record ..
  · rfl

theorem State.clk_bootImages (s : State) : s.bootImages.clk = s.clk := by
  have hchosen (t : State) (a : Bool) : (if t.fwOk a then t.runImage a
      else if (t.record 0 0 0 0x0804 (b2n a)).fwOk (!a) then (t.record 0 0 0 0x0804 (b2n a)).runImage (!a)
      else { t.record 0 0 0 0x0804 (b2n a) with
        sys := { (t.record 0 0 0 0x0804 (b2n a)).sys with noFirmware := true },
        pins := { (t.record 0 0 0 0x0804 (b2n a)).pins with faultLow := true } }).clk = t.clk := by
    split
    · rfl
    · split
      · exact State.clk_record ..
      · exact State.clk_record ..
  rw [← s.clk_trialBoot, ← hchosen s.trialBoot s.trialBoot.flash.active]
  unfold State.bootImages
  dsimp only
  generalize (if s.trialBoot.fwOk s.trialBoot.flash.active then _ else _ : State) = u
  split
  · rfl
  · split
    · rfl
    · exact State.clk_record ..

theorem State.clk_boot (s : State) (b : BootObs) : (s.boot b).clk = s.clk := by
  unfold State.boot
  dsimp only
  split
  · exact State.clk_enterX ..
  · split
    · exact State.clk_enterX ..
    · split
      · exact State.clk_enterX ..
      · rw [State.clk_bootImages]
        split
        · exact State.clk_record ..
        · rfl

/-- A warm reset takes no time of the model's clock. -/
theorem State.clk_warm (s : State) (cause : Nat) (b : BootObs) : (s.warm cause b).clk = s.clk := by
  unfold State.warm
  split
  · rfl
  · have hleave : (s.leaveAll 0 .down).clk = s.clk := State.leaveAll_apply State.clk s 0 .down fun _ _ _ _ _ _ => rfl
    dsimp only
    rw [State.clk_boot]
    generalize s.leaveAll 0 .down = u at hleave ⊢
    exact hleave

theorem exec_cellResetEntry {s : State} {w : Nat} (b : BootObs) (hon : s.on = true) (hw : s.sys.cellW = some w)
    (hdue : w ≤ s.now) : exec (.cellResetEntry b) s = .next { s.warm 3 b with
      sys := { (s.warm 3 b).sys with cellW := none },
      pins := { (s.warm 3 b).pins with
        romBar := if (s.warm 3 b).sys.noFirmware ∨ (s.warm 3 b).sys.classX then none else some (s.clk + 10000) } } := by
  have hclk := s.clk_warm 3 b
  show execCellResetEntry b s = _
  unfold execCellResetEntry
  generalize s.warm 3 b = u at *
  dsimp only
  rw [hw, hclk]
  refine (due_of_true (by rw [hon, decide_eq_true hdue]; rfl)).trans ?_
  simp only [Bool.or_eq_true]

theorem exec_cellResetEntry_of_early {s : State} {w : Nat} (b : BootObs) (hw : s.sys.cellW = some w) (hearly : s.now < w) :
    exec (.cellResetEntry b) s = .next s := by
  show execCellResetEntry b s = _
  unfold execCellResetEntry
  generalize s.warm 3 b = u
  dsimp only
  rw [hw]
  exact due_of_false (by rw [decide_eq_false (Nat.not_le.mpr hearly), Bool.and_false])

/-- The boot ROM pulls BAR_N low at its time, with the nanosecond that reaches it. -/
theorem State.romBar_tick {s : State} {n : Nat} (hrom : s.pins.romBar = some n) :
    s.tick.pins.barLow = (s.pins.barLow || decide (n ≤ s.clk + 1)) ∧
      s.tick.pins.romBar = if n ≤ s.clk + 1 then none else some n := by
  have hview := s.tick_barView
  simp only [State.barView, State.elapse, Prod.mk.injEq, hrom, Option.any_some, decide_eq_true_eq] at hview
  obtain ⟨-, hlow, hrom⟩ := hview
  exact ⟨hlow, hrom⟩

/-- Settles O22: HELLO (`State.hello_of_mesh`), held descriptors (`State.heldDescIn_of_mate`), and the cell's warm reset
(`exec_cellResetEntry`, `State.romBar_tick`). -/
theorem cellFramesAndReset : Obligations.CellFramesAndReset := by
  unfold Obligations.CellFramesAndReset
  refine ⟨fun s v f cell hbrass hin htake hmesh => ?_, fun s hbrass hdue => ?_,
    fun s v f hbrass hin htake hmate hlen hmore => ?_, fun s v f hbrass hin htake hmate hlen hlast hwhole => ?_,
    fun s hbrass hlost hheld ds hds hsender => ?_, fun s v f hbrass hin htake hmate hhost hlen => ?_,
    fun s b w hon hw hdue => exec_cellResetEntry b hon hw hdue, fun s n hrom => State.romBar_tick hrom,
    fun s b w hw hearly => exec_cellResetEntry_of_early b hw hearly, fun s hbrass hcause hdue => ?_,
    fun s hbrass hcause hdue => ?_⟩
  · refine (State.brassFrame_of_taken hbrass hin htake).trans (congrArg _ ?_)
    have hpins : v.pins = s.pins := by rw [State.takeMgmt_only htake]
    rw [← hpins, ← State.sys_of_taken htake]
    exact State.hello_of_mesh cell (State.meshGroup_of_taken htake hmesh)
  · exact due_of_true (by rw [hbrass, decide_eq_true hdue]; rfl)
  · refine (State.brassFrame_of_taken hbrass hin htake).trans (congrArg _ ?_)
    rw [State.heldDescIn_of_mate (State.cellMate_of_taken htake hmate) hlen, if_pos hmore, State.heldRx_of_taken htake]
  · refine (State.brassFrame_of_taken hbrass hin htake).trans (congrArg _ ?_)
    rw [State.heldDescIn_of_mate (State.cellMate_of_taken htake hmate) hlen, if_neg (by rw [hlast]; decide),
      State.heldRx_of_taken htake, if_pos hwhole]
  · subst hds
    refine due_of_true ?_
    rw [hbrass, hlost, hsender]
    simpa using hheld
  · refine (State.brassFrame_of_taken hbrass hin htake).trans (congrArg _ ?_)
    rw [State.cellMate_of_taken htake hmate, hhost, hlen, State.sys_of_taken htake]
    exact if_pos rfl
  · exact due_of_true (by rw [hbrass, hcause, decide_eq_true hdue]; rfl)
  · exact due_of_true (by rw [hbrass, hcause, decide_eq_true hdue]; rfl)

end Sys2Proof.Machine

/-! Notices on VC1: what is noted, what floods on, and what a notice for another context does (04 R94; 14 R390 to R392, R400). -/

namespace Sys2Proof.Machine

theorem State.concerns_of_open {s : State} {n : Notice} (hopen : (s.ctx n.ctx.toNat).st ≠ .free)
    (hgen : (s.ctx n.ctx.toNat).gen = n.gen.toNat) : s.concerns n = true := by
  unfold State.concerns
  rw [hgen, beq_self_eq_true, Bool.and_true]
  exact bne_iff_ne.mpr hopen

/-- A context's new state, told to the neighbours: the context and what the ports queue change, and nothing else. -/
theorem State.flood_setCtx_spec (s : State) (x : Nat) (c : Ctx) (o : Option Nat) (m : CtlMsg) :
    ((s.setCtx x c).flood o m).ctx x = c ∧ (∀ y, y ≠ x → ((s.setCtx x c).flood o m).ctx y = s.ctx y) ∧
    (∀ q ∈ s.floodPorts o, m ∈ (((s.setCtx x c).flood o m).port q).ctlQ) ∧
    (s.setCtx x c).flood o m =
      { s with ctxs := ((s.setCtx x c).flood o m).ctxs, ports := ((s.setCtx x c).flood o m).ports } := by
  have hother (y : Nat) (hy : y ≠ x) : (s.setCtx x c).ctx y = s.ctx y := by rw [State.ctx_setCtx, if_neg hy.symm]
  refine ⟨?_, fun y hy => ?_, fun q hq => State.mem_ctlQ_flood (s := s.setCtx x c) hq, ?_⟩
  · rw [State.flood_only]
    exact State.ctx_setCtx_self ..
  · rw [State.flood_only]
    exact hother y hy
  · rw [State.flood_only]
    rfl

/-! ### ABORT_NOTICE (R391) -/

/-- An event of which no notice has come is noted. -/
theorem noteAbort_of_new {l : List (Nat × Nat × Bool × Bool)} {d lost : Nat} (hold : Bool) (hnew : ∀ e ∈ l, e.2.1 ≠ lost) :
    noteAbort l d lost hold = (l ++ [(d, lost, hold, false)], true) := by
  have hnone : l.find? (fun e => e.2.1 == lost && decide (d ≤ e.1 + 20000) && decide (e.1 ≤ d + 20000)) = none := by
    refine List.find?_eq_none.mpr fun e he => ?_
    rw [beq_eq_false_iff_ne.mpr (hnew e he), Bool.false_and, Bool.false_and]
    decide
  rw [noteAbort, hnone]

theorem exec_abortNotice_of_new {s : State} (p : BitVec 6) {n : Notice} (hon : s.on = true) (hconcerns : s.concerns n = true)
    (hnew : ∀ e ∈ (s.ctx n.ctx.toNat).aborts, e.2.1 ≠ n.lost.toNat) :
    exec (.abortNotice p n) s = .next ((s.setCtx n.ctx.toNat { s.ctx n.ctx.toNat with
      aborts := (s.ctx n.ctx.toNat).aborts ++ [(n.d.toNat, n.lost.toNat, n.flags.getLsbD 0, false)] }).flood
        (some p.toNat) (.abortNotice n)) := by
  show execAbortNotice p n s = _
  unfold execAbortNotice
  dsimp only
  rw [noteAbort_of_new _ hnew, hconcerns]
  exact due_of_true hon

/-! ### CTX_STOP (R391, R392) -/

theorem exec_ctxStop_of_open {s : State} (p : BitVec 6) {n : Notice} (hon : s.on = true) (hconcerns : s.concerns n = true)
    (hopen : (s.ctx n.ctx.toNat).st = .opened) (hstop : (s.ctx n.ctx.toNat).stopD = none) :
    exec (.ctxStop p n) s = .next ((s.setCtx n.ctx.toNat { s.ctx n.ctx.toNat with
      st := .draining, stopD := some n.d.toNat, teardown := (s.ctx n.ctx.toNat).teardown || !n.flags.getLsbD 0 }).flood
        (some p.toNat) (.ctxStop n)) := by
  show execCtxStop p n s = _
  unfold execCtxStop
  dsimp only
  rw [State.noteStop_of_open _ _ hopen hstop, hconcerns, Bool.true_or]
  exact due_of_true hon

/-! ### RESUME (R391, R400) -/

theorem State.heldOf_of_none {s : State} (x : Nat) (hslots : s.slots = []) (hqueue : s.queue = []) : s.heldOf x = [] := by
  simp [State.heldOf, hslots, hqueue]

/-- The first RESUME of a context that holds nothing here: its count is noted, and the Fixus it names is back. -/
theorem State.takeResume_of_first {s : State} {x : Nat} (u lost : Nat) (hfirst : (s.ctx x).resumeU = none)
    (hslots : s.slots = []) (hqueue : s.queue = []) :
    s.takeResume x u lost = (s.ownerBack lost (u - 40000)).setCtx x { s.ctx x with
      resumes := (s.ctx x).resumes ++ [(u, lost)], resumeU := some u } := by
  unfold State.takeResume
  dsimp only
  rw [hfirst, if_pos rfl, if_pos rfl]
  exact congrArg (List.foldl _ _) (State.heldOf_of_none x hslots hqueue)

theorem exec_resume_of_first {s : State} (p : BitVec 6) {n : Notice} (hon : s.on = true) (hconcerns : s.concerns n = true)
    (hnew : (n.d.toNat, n.lost.toNat) ∉ (s.ctx n.ctx.toNat).resumes) (hfirst : (s.ctx n.ctx.toNat).resumeU = none)
    (hslots : s.slots = []) (hqueue : s.queue = []) :
    ∃ v : State, v = s.flood (some p.toNat) (.resume n) ∧
      exec (.resume p n) s = .next ((v.ownerBack n.lost.toNat (n.d.toNat - 40000)).setCtx n.ctx.toNat { s.ctx n.ctx.toNat with
        resumes := (s.ctx n.ctx.toNat).resumes ++ [(n.d.toNat, n.lost.toNat)], resumeU := some n.d.toNat }) := by
  refine ⟨_, rfl, ?_⟩
  have honly := s.flood_only (some p.toNat) (.resume n)
  have hseen : (s.ctx n.ctx.toNat).resumes.contains (n.d.toNat, n.lost.toNat) = false := by
    rw [List.contains_eq_mem, decide_eq_false hnew]
  show execResume p n s = _
  unfold execResume
  dsimp only
  rw [hconcerns, hseen]
  generalize s.flood (some p.toNat) (.resume n) = v at *
  have hctx : v.ctx n.ctx.toNat = s.ctx n.ctx.toNat := by
    rw [honly]
    rfl
  rw [← hctx]
  refine (due_of_true hon).trans (congrArg _ (State.takeResume_of_first _ _ (hctx ▸ hfirst) ?_ ?_))
  · rw [honly]
    exact hslots
  · rw [honly]
    exact hqueue

/-! ### Notices for another context -/

theorem exec_notices_of_other {s : State} (p : BitVec 6) {n : Notice} (hon : s.on = true) (hother : s.concerns n = false) :
    exec (.abortNotice p n) s = .next (s.passOn (some p.toNat)
      [2, n.ctx.toNat, n.gen.toNat, n.lost.toNat, n.flags.toNat] n.d.toNat 20000 (.abortNotice n)) ∧
    exec (.resume p n) s = .next ((s.ownerBack n.lost.toNat (n.d.toNat - 40000)).passOn (some p.toNat)
      [3, n.ctx.toNat, n.gen.toNat, n.lost.toNat] n.d.toNat 0 (.resume n)) ∧
    ((s.ctx n.ctx.toNat).st ≠ .free ∨ n.flags.getLsbD 0 = true →
      exec (.ctxStop p n) s = .next (s.passOn (some p.toNat) [1, n.ctx.toNat, n.gen.toNat, n.flags.toNat] n.d.toNat 20000
        (.ctxStop n))) := by
  refine ⟨?_, ?_, fun hopen => ?_⟩
  · show execAbortNotice p n s = _
    unfold execAbortNotice
    dsimp only
    rw [hother]
    exact due_of_true hon
  · show execResume p n s = _
    unfold execResume
    dsimp only
    rw [hother]
    exact due_of_true hon
  · have hstays : ((s.ctx n.ctx.toNat).st == .free && !n.flags.getLsbD 0) = false := by
      rcases hopen with hopen | hreset
      · rw [beq_eq_false_iff_ne.mpr hopen, Bool.false_and]
      · rw [hreset, Bool.not_true, Bool.and_false]
    show execCtxStop p n s = _
    unfold execCtxStop
    dsimp only
    rw [hother, hstays]
    exact due_of_true hon

/-- Settles O50: notices of a context that is open here (`exec_abortNotice_of_new`, `exec_ctxStop_of_open`,
`exec_resume_of_first`), those of another one (`exec_notices_of_other`), and what passing on comes to (`State.passOn_of_seen`,
`State.passOn_of_new`). -/
theorem noticesSpread : Obligations.NoticesSpread := by
  unfold Obligations.NoticesSpread
  refine ⟨fun s p n hon hopen hgen hnew => ?_, fun s p n hon hopen hgen hstop => ?_,
    fun s p n hon hopen hgen hnew hfirst hslots hqueue => ?_, fun s p n hon hother => exec_notices_of_other p hon hother,
    fun s o key d w m => ⟨State.passOn_of_seen, fun hnew => ?_⟩⟩
  · exact ⟨_, exec_abortNotice_of_new p hon (State.concerns_of_open hopen hgen) hnew, State.flood_setCtx_spec ..⟩
  · have hconcerns := State.concerns_of_open (by rw [hopen]; decide) hgen
    exact ⟨_, exec_ctxStop_of_open p hon hconcerns hopen hstop, State.flood_setCtx_spec ..⟩
  · obtain ⟨v, hv, hexec⟩ := exec_resume_of_first p hon (State.concerns_of_open hopen hgen) hnew hfirst hslots hqueue
    have honly := s.flood_only (some p.toNat) (.resume n)
    have hflooded (q : Nat) (hq : q ∈ s.floodPorts (some p.toNat)) : CtlMsg.resume n ∈ (v.port q).ctlQ :=
      hv ▸ State.mem_ctlQ_flood hq
    refine ⟨_, hexec, State.ctx_setCtx_self .., State.not_mem_lost_ownerBack v _ _, hflooded, ?_⟩
    rw [← hv] at honly
    rw [honly]
    rfl
  · have hout : ∀ e ∈ s.flt.passed, e.1 = key → d < e.2 ∨ e.2 + w < d := fun e he hkey =>
      (Nat.lt_or_ge d e.2).imp_right (hnew e he hkey)
    rw [State.passOn_of_new hout]
    refine ⟨fun q hq => State.mem_ctlQ_flood hq, ?_⟩
    rw [State.flood_only]

end Sys2Proof.Machine

/-! The idle nanosecond that ends a block (assumption log 1; 05 R122, R134): a port that carries flits fills its block with
what waits there, and a TIME_REQ among it is noted with the counter (04 R79), so that more than the count changes. -/

namespace Sys2Proof.Machine

/-! ### A block that needs one more flit -/

theorem length_flitBytes (f : Flit) : (flitBytes f).length = 256 := by
  have hbody : (flitBody f).length = 252 := by
    simp only [flitBody, flitWords, padTo, List.length_append, List.length_replicate, length_toLe, List.length_take]
    omega
  rw [flitBytes, List.length_append, hbody, length_toLe]

/-- A sequenced flit makes its port's stream a flit longer. -/
theorem State.length_stream_putSeq (s : State) (p v : Nat) (pay : TxPay) :
    ((s.putSeq p v pay).port p).stream.length = (s.port p).stream.length + 256 := by
  have hport (t : State) (acc : Tbl Sample) : State.port { t with sol := { t.sol with acc := acc } } p = t.port p := rfl
  have hstamp (t : TxFlit) : ((s.stamp p t).1.port p).stream = (s.port p).stream := by
    unfold State.stamp
    dsimp only
    rw [State.port_setPort_self]
  unfold State.putSeq
  dsimp only
  rw [hport, State.port_setPort_self]
  simp only [List.length_append, length_flitBytes, hstamp]

theorem State.reqs_stampCtl_timeReq (s : State) (p : Nat) (m : TimeMsg) : (s.stampCtl p (.timeReq m)).1.irc.reqs =
    tset s.irc.reqs p { seq := m.seq, t1 := s.unitsNow - psUnits (txDelay (s.stampLane p)) } := rfl

/-- A TIME_REQ at the head of a port's queue leaves with its time, which is noted with the counter, and fills the stream. -/
theorem State.transmit_timeReq_spec {s : State} {p : Nat} {m : TimeMsg} {l : List CtlMsg} (hst : (s.port p).st = .active)
    (hviol : (s.paux p).violSince = 0) (hlink : (s.port p).linkQ = []) (hreplay : (s.port p).replay = [])
    (hctl : (s.port p).ctlQ = .timeReq m :: l) (hcredit : 0 < tget (s.port p).avail 1 0)
    (hroom : (s.port p).unacked.length < 4096) :
    (∃ t1 : Int, (s.transmit p).irc.reqs = tset s.irc.reqs p { seq := m.seq, t1 := t1 }) ∧
      ((s.transmit p).port p).stream.length = (s.port p).stream.length + 256 := by
  rw [State.transmit_of_ctl hst hviol hlink hreplay hctl hcredit hroom]
  refine ⟨⟨_, (congrArg Irc.reqs (State.putSeq_irc ..)).trans (State.reqs_stampCtl_timeReq ..)⟩, ?_⟩
  have hport (t : State) (irc : Irc) : State.port { t with irc := irc } p = t.port p := rfl
  rw [State.length_stream_putSeq]
  unfold State.stampCtl
  dsimp only
  rw [hport, State.port_setPort_self]

/-- A stream that one flit makes long enough takes that flit alone. -/
theorem State.fillFlits_of_one {s : State} {p len : Nat} (n : Nat) (hshort : (s.port p).stream.length < len)
    (hfills : len ≤ ((s.transmit p).port p).stream.length) : State.fillFlits p len (n + 1) s = s.transmit p := by
  rw [State.fillFlits, if_neg (Nat.not_le.mpr hshort)]
  dsimp only
  rw [if_pos (Nat.lt_of_lt_of_le hshort hfills)]
  cases n with
  | zero => rfl
  | succ n => rw [State.fillFlits, if_pos hfills]

/-- Of the counter a port's block changes what the flits change that fill it. -/
theorem State.irc_portBlock {s : State} (b p : Nat) (hside : (s.port p).sideQ = []) : (s.portBlock b p).irc =
    (State.fillFlits p (2560 * (s.streamLanes p).length) (10 * (s.streamLanes p).length) s).irc := by
  have hload : (if b % 2048 = 0 || 2044 < b % 2048 then s else State.loadSideband b p (s.port p).sideQ.length s) = s := by
    rw [hside]
    exact ite_self s
  unfold State.portBlock
  dsimp only
  rw [hload]
  refine (foldl_apply_eq State.irc fun t i => ?_).trans rfl
  split
  · rfl
  · split <;> rfl

/-! ### A nanosecond in which one port sends -/

/-- With no collective and no frame held, what comes before the blocks is the clock, the count and the shapers' credit. -/
theorem State.tick_of_idle {s : State} (hon : s.on = true) (hslots : s.slots = []) (hqueues : s.sol.queues = [])
    (hblock : blockAt (s.clk + 1) ≠ blockAt s.clk) : ∃ sch : Sched, s.tick = (List.range 64).foldl
      (fun t p => if t.sending p then t.portBlock (blockAt s.clk + 1) p else t) { s.elapse with sch := sch } := by
  have hhomes : s.homesTry = s := by rw [State.homesTry, hslots, List.foldl_nil]
  have hcredit : s.markCredit = s := by
    unfold State.markCredit
    dsimp only
    rw [hqueues, List.map_nil, ← hqueues]
  have hsync (l : List Nat) : ∀ t : State, ∃ sch : Sched, l.foldl (fun t p => t.syncShapers p) t = { t with sch := sch } := by
    induction l with
    | nil => exact fun t => ⟨t.sch, rfl⟩
    | cons p l ih =>
      intro t
      obtain ⟨sch, h⟩ := ih (t.syncShapers p)
      refine ⟨sch, ?_⟩
      rw [List.foldl_cons, h, State.syncShapers_only]
  obtain ⟨sch, hsch⟩ := hsync (List.range 64) s.elapse
  refine ⟨sch, ?_⟩
  unfold State.tick
  dsimp only
  rw [hon, if_pos rfl, hhomes, hcredit, hsch]
  refine if_neg ?_
  have hstill : State.on { s.elapse with sch := sch } = true := hon
  rw [hstill]
  have hmoved : blockAt ({ s.elapse with sch := sch } : State).clk ≠ blockAt s.clk := hblock
  rw [Bool.not_true, Bool.or_false, decide_eq_true_eq]
  exact hmoved

/-- Where only the last port sends, only its block is sent. -/
theorem State.blocks_of_last {s : State} (b : Nat) (hfirst : ∀ p < 63, s.sending p = false) (hlast : s.sending 63 = true) :
    (List.range 64).foldl (fun t p => if t.sending p then t.portBlock b p else t) s = s.portBlock b 63 := by
  have hsilent : (List.range 63).foldl (fun t p => if t.sending p then t.portBlock b p else t) s = s :=
    foldl_eq_self fun p hp => if_neg (by rw [hfirst p (List.mem_range.mp hp)]; decide)
  rw [List.range_succ, List.foldl_append, hsilent, List.foldl_cons, List.foldl_nil, if_pos hlast]

/-! ### The counterexample -/

/-- A TIME_REQ that has not left yet. -/
def waitingReq : TimeMsg :=
  { locked := false, master := false, hall := false, seq := 1, hops := 0xFF, source := 0, t1 := ⟨0, 0⟩, t2 := ⟨0, 0⟩,
    t3 := ⟨0, 0⟩, candidate := 0 }

/-- A port in service on one lane, with nine flits of the next block in its stream and a TIME_REQ to send. -/
def requestPort : Port :=
  { Port.init with st := .active, lanes := 1, avail := [(1, 1)], ctlQ := [.timeReq waitingReq],
                   stream := List.replicate 2304 0 }

/-- The Fixus out of reset with that port alone, at the last nanosecond of the first block. -/
def requestState : State := { State.reset with clk := 51, ports := [(63, requestPort)] }

theorem requestState_tick : ∃ t1 : Int, requestState.tick.irc.reqs = [(63, { seq := 1, t1 := t1 })] := by
  obtain ⟨sch, htick⟩ := State.tick_of_idle (s := requestState) rfl rfl rfl (by decide)
  generalize hu : ({ requestState.elapse with sch := sch } : State) = u at htick
  have hports : u.ports = [(63, requestPort)] := by rw [← hu]; rfl
  have hport : u.port 63 = requestPort := by rw [State.port, hports]; rfl
  have hfirst (p : Nat) (hp : p < 63) : u.sending p = false := by
    have habsent : u.port p = Port.init := by
      rw [State.port, hports]
      simp [tget, tfind, Nat.ne_of_gt hp]
    rw [State.sending, habsent]
    rfl
  have hlast : u.sending 63 = true := by
    rw [State.sending, hport]
    rfl
  have hlanes : (u.streamLanes 63).length = 1 := by
    rw [State.streamLanes, hport]
    rfl
  have hviol : (u.paux 63).violSince = 0 := by rw [← hu]; rfl
  have hreqs : u.irc.reqs = [] := by rw [← hu]; rfl
  have hstream : (u.port 63).stream.length = 2304 := by rw [hport]; exact List.length_replicate ..
  obtain ⟨⟨t1, hnoted⟩, hlength⟩ := State.transmit_timeReq_spec (s := u) (p := 63) (by rw [hport]; rfl) hviol
    (by rw [hport]; rfl) (by rw [hport]; rfl) (by rw [hport]; rfl) (by rw [hport]; decide) (by rw [hport]; decide)
  rw [hstream] at hlength
  refine ⟨t1, ?_⟩
  rw [htick, State.blocks_of_last _ hfirst hlast, State.irc_portBlock _ _ (by rw [hport]; rfl), hlanes,
    State.fillFlits_of_one 9 (by rw [hstream]; decide) (by rw [hlength]), hnoted, hreqs]
  rfl

/-- Refutes O1: at the end of a block an idle nanosecond sends what waits on the ports, and a TIME_REQ that leaves then is
noted with the counter (`requestState_tick`), so that the counter has not only advanced. -/
theorem not_stepTakesFrontCommand : ¬ Obligations.StepTakesFrontCommand := by
  unfold Obligations.StepTakesFrontCommand
  rintro ⟨-, hidle⟩
  obtain ⟨-, -, -, hirc⟩ := hidle requestState rfl
  obtain ⟨t1, hreqs⟩ := requestState_tick
  have hnone : (if requestState.counting then requestState.irc.advance else requestState.irc).reqs = [] := by
    split <;> rfl
  rw [hirc, hnone] at hreqs
  cases hreqs

end Sys2Proof.Machine
